-- ==== Sys2Proof/Word.lean ====
section
/-! DEFINITION. Word types of the Sormo N9 (R8, R9) and the shapes that sparse state takes. -/
namespace Sys2Proof

/-- A byte (spec/00_scope.md, unit sizes). -/
abbrev Byte := BitVec 8

/-- A halfword: 16 bits. -/
abbrev Half := BitVec 16

/-- A word: 32 bits. -/
abbrev Word := BitVec 32

/-- A doubleword: 64 bits. -/
abbrev Dword := BitVec 64

/-- A quadword: 128 bits. -/
abbrev Quad := BitVec 128

/-- A physical address: 50 bits wide (01_module_overview.md, physical address map). -/
abbrev Pa := BitVec 50

/-- Sparse data by key: the listed keys rise strictly, and every other key holds a default. -/
abbrev Store (α : Type) := List (Nat × α)

end Sys2Proof
end

