-- ==== Sys2Proof/Syntax.lean ====
section
/-! DEFINITION. The commands of the block: one constructor per row of spec/opcode_table.json, with the row's operands.
An instruction's operands are the fields of its word (R94), reserved fields included, so that every word of R99 to
R116 that names the instruction is a term; an event's operands are what its rule names. -/
namespace Sys2Proof

/-- An executing unit: logical CPU n is n (0 to 191); channel engine e of channel die d (0 or 1) is 192 + 48 d + e;
management core m is 288 + m (R25, R27, R91). -/
abbrev Uid := Fin 292

/-- A logical CPU number (R27). -/
abbrev CpuNo := Fin 192

/-- A physical core CXd.s, numbered 26 d + s (R27). -/
abbrev CoreNo := Fin 208

/-- A compute die, 0 to 7 (R25). -/
abbrev CxDie := Fin 8

/-- A channel die: 0 is CH0 (die 8), 1 is CH1 (die 9) (R25). -/
abbrev ChDie := Fin 2

/-- A-format operands (R94); an instruction that does not use a field requires it zero (R98). -/
structure OpA where
  u : Uid
  ra : BitVec 5
  rb : BitVec 5
  rc : BitVec 5
  deriving DecidableEq, Repr

/-- I- and M-format operands (R94). -/
structure OpI where
  u : Uid
  ra : BitVec 5
  rb : BitVec 5
  imm : BitVec 14
  deriving DecidableEq, Repr

/-- Opcode 0x0F: shift by immediate, with the reserved field imm[9:7] (R102). -/
structure OpSh where
  u : Uid
  ra : BitVec 5
  rb : BitVec 5
  res : BitVec 3
  amt : BitVec 7
  deriving DecidableEq, Repr

/-- B-format operands (R94). -/
structure OpB where
  u : Uid
  cond : BitVec 4
  disp : BitVec 20
  deriving DecidableEq, Repr

/-- C-format operands; the slot and cfn are the row's (R94, R116). `fails` is how many of the engine's own checks of this
execution fail (R415, R420), `good` how many 4 KB segments of DEFCMP's output were verified before the one that fails (R415), or how
many units of slot 1 were (R420). `cut` is the number of units after which an enabled interruption has become pending or the engine
has left service (R405, R406, R424, R426), and `queued` the requests that engines, named by die and instance, hold in their queues
(R400). -/
structure OpC where
  u : Uid
  ra : BitVec 5
  rb : BitVec 5
  res : BitVec 6
  fails : Fin 3
  good : Nat
  cut : Option Nat := none
  queued : List (Fin 10 × Fin 8 × Fin 33) := []
  deriving DecidableEq, Repr

/-- Opcodes 0x40, 0x41 and 0x44: A-format with fn[8:6] the rounding field RM (R105). -/
structure OpF where
  u : Uid
  ra : BitVec 5
  rb : BitVec 5
  rc : BitVec 5
  rm : BitVec 3
  deriving DecidableEq, Repr

/-- Opcodes 0x42 and 0x43: fn[8:4] is the register number of the addend fd (R107). -/
structure OpQ where
  u : Uid
  ra : BitVec 5
  rb : BitVec 5
  rc : BitVec 5
  rd : BitVec 5
  deriving DecidableEq, Repr

/-- Opcode 0x54 TRAP: ra and imm (R110). -/
structure OpT where
  u : Uid
  ra : BitVec 5
  imm : BitVec 14
  deriving DecidableEq, Repr

/-- CPUSIG with the order the row names; imm[13:8] is reserved (R110). -/
structure OpSig where
  u : Uid
  ra : BitVec 5
  res : BitVec 6
  deriving DecidableEq, Repr

/-- TEND: every operand field is reserved (R100). -/
structure OpEnd where
  u : Uid
  res : BitVec 24
  deriving DecidableEq, Repr

/-- CRCSTEP: the twelve assigned function values are W, F and P (R113). -/
structure OpCrc where
  u : Uid
  ra : BitVec 5
  rb : BitVec 5
  rc : BitVec 5
  wide : Bool
  refl : Bool
  poly : Fin 3
  deriving DecidableEq, Repr

/-- PARITY and BREV: the three assigned function values (R113). -/
structure OpMode where
  u : Uid
  ra : BitVec 5
  rb : BitVec 5
  rc : BitVec 5
  mode : Fin 3
  deriving DecidableEq, Repr

/-- BNDCHK: fn 0x000 signed, fn 0x001 unsigned (R113). -/
structure OpBnd where
  u : Uid
  ra : BitVec 5
  rb : BitVec 5
  rc : BitVec 5
  uns : Bool
  deriving DecidableEq, Repr

/-- The plane or program a register write comes from (R18, R44). -/
inductive Writer where
  /-- management plane: FSP or a management core -/
  | mgmt
  /-- host-state software -/
  | host
  /-- channel-engine firmware of a channel die -/
  | engine (die : ChDie)
  deriving DecidableEq, Repr

/-- A broadcast translation invalidation (R226): the context is host execution (none) or an image number with its
generation number. -/
inductive TlbInv where
  | page (ctx : Option (Nat × BitVec 16)) (va : Dword)
  | context (ctx : Option (Nat × BitVec 16))
  | image (n : Fin 96)
  deriving DecidableEq, Repr

/-- How a logic self-test ends (CORE.CHK_STAT.VERDICT, 06_checked_execution.md). -/
inductive Verdict where
  | passed
  | firstPass
  | secondPass
  | shared
  deriving DecidableEq, Repr


/-- Two writes that meet in one cycle at a row of a dual-port bank (R440): the bytes that the journal unit's write on port A enables, those
that the mirror write on port B enables, bit 15 for byte 0, and the row that B brings. -/
structure PortBWrite where
  aBe : BitVec 16
  bBe : BitVec 16
  data : BitVec 128
  deriving DecidableEq, Repr

/-- A Vale frame as a port receives it (R365, R369): addresses and tag of the Ethernet frame, whether its FCS holds, the
header fields with the reserved bytes 0x03, 0x16, 0x17 and 0x19 in `rsv`, payload and tag. TYPE is the row's. -/
structure RxFrame where
  die : ChDie
  port : Fin 12
  dst : BitVec 48
  src : BitVec 48
  vlan : Option (BitVec 12 × BitVec 3)
  etype : BitVec 16
  fcsOk : Bool
  /-- its TYPE is not the row's but one that R370 does not give, or that a partner never sends (R371) -/
  alien : Bool
  ver : Byte
  flags : Byte
  rsv : Word
  dlid : BitVec 16
  slid : BitVec 16
  xid : Word
  seq : BitVec 16
  dev : BitVec 16
  credit : Word
  len : BitVec 16
  image : Byte
  gen : BitVec 16
  doff : Word
  payload : List Byte
  tag : Option Dword
  deriving DecidableEq, Repr

/-- A die with working store: CH0, CH1, SG (R429). -/
abbrev WsDie := Fin 3

/-- A physical subchannel number (R311). -/
abbrev SubNo := Fin 131072

/-- An exchange whose recorded state has become durable (R338), with the mirror write that meets it, if any (R440). -/
structure DurableState where
  p : SubNo
  late : Option PortBWrite
  deriving DecidableEq, Repr

/-- What a LOAD is for (R484, R520): management firmware, engine firmware of a channel die, the host initial program. -/
inductive LoadKind where
  | mgmt
  | engine (die : ChDie)
  | host
  deriving DecidableEq, Repr

/-- An IEEE 1149.1 instruction (R487). -/
inductive JtagInstr where
  | bypass
  | idcode
  | other (code : Nat)
  deriving DecidableEq, Repr

/-- The party whose key a lifecycle transition is signed with (R488). -/
inductive Party where
  | vocen
  | owner
  deriving DecidableEq, Repr

/-- What proves an LC_TRANSITION (R490): the ECDSA P-384 and ML-DSA-87 public keys and signatures. -/
structure LcSig where
  ecKey : List Byte
  dsaKey : List Byte
  ecSig : List Byte
  dsaSig : List Byte
  deriving DecidableEq, Repr

/-- Forward error correction of a management port (R476). -/
inductive Fec where
  | none
  | baseR
  | rs
  deriving DecidableEq, Repr

/-- Where a management port's address comes from (R476). -/
inductive AddrSrc where
  | static
  | dhcp6
  | dhcp4
  deriving DecidableEq, Repr

/-- What the link of a management port finds when it comes up (R476): the FEC that Clause 73 resolves, and what the DHCP servers give. -/
structure MgmtLink where
  port : Fin 2
  fec : Fec
  dhcp6 : Option (BitVec 128)
  dhcp4 : Option (BitVec 32)
  deriving DecidableEq, Repr

/-- The trust anchor to which a client's certificate chains (R479). -/
inductive Anchor where
  | vocen
  | root (b : List Byte)
  deriving DecidableEq, Repr

/-- A client's TLS 1.3 handshake (R479): the cipher suites and signature schemes it offers, the anchor of its certificate, whether
certificate and signature verify, and whether it would resume a session without a certificate. -/
structure TlsClient where
  suites : List (BitVec 16)
  schemes : List (BitVec 16)
  anchor : Anchor
  verified : Bool
  resumes : Bool
  deriving DecidableEq, Repr

/-- A PTP timestamp (R477): seconds and nanoseconds. -/
structure PtpTime where
  sec : BitVec 48
  ns : BitVec 32
  deriving DecidableEq, Repr

/-- The dataset of an Announce (R477; IEEE 1588-2019): grandmaster's priority1, clock class, accuracy, variance, priority2 and
identity, steps removed, and the sender's port identity. -/
structure PtpMaster where
  prio1 : Byte
  cls : Byte
  acc : Byte
  var : BitVec 16
  prio2 : Byte
  gm : BitVec 64
  steps : BitVec 16
  sender : BitVec 80
  deriving DecidableEq, Repr

/-- A message of a PTP master (R477), with its sender, sequence number, timestamp and correction in 2^-16 ns; an Announce with the
dataset. -/
inductive PtpMsg where
  | announce (m : PtpMaster)
  | sync (sender : BitVec 80) (seq : BitVec 16) (twoStep : Bool) (t : PtpTime) (corr : BitVec 64)
  | followUp (sender : BitVec 80) (seq : BitVec 16) (t : PtpTime) (corr : BitVec 64)
  | delayResp (sender : BitVec 80) (seq : BitVec 16) (t : PtpTime) (corr : BitVec 64)
  deriving DecidableEq, Repr

/-- A PTP message at a management port: its domain and transport (R477). -/
structure PtpEvent where
  port : Fin 2
  domain : Byte
  transport : BitVec 2
  msg : PtpMsg
  deriving DecidableEq, Repr

/-- What a governor interval finds on its rail (R505, R502): the current in mA that the activity of the running units of its two dies asks
for, and the voltage in mV that adaptation asks for. -/
structure GovObs where
  want0 : Nat
  want1 : Nat
  volts : Option Nat
  deriving DecidableEq, Repr

/-- A flit's packet class, source and destination (R36, R468). -/
structure Flit where
  cls : Fin 5
  src : Fin 11
  dst : Fin 11
  deriving DecidableEq, Repr

/-- The flits that a sending side sends, and the one that fails, by its place in the retry buffer from the newest (R468). -/
structure FlitFail where
  sent : List Flit
  back : Fin 128
  deriving DecidableEq, Repr

/-- A droop detector's event (R507): the supply in mV, and how far the clock is stretched in 0.1 %. -/
structure DroopObs where
  supply : BitVec 16
  stretch : Byte
  deriving DecidableEq, Repr

/-- A regulator's answer (R503): voltage in mV, signed, current in 0.1 A, whether STATUS_WORD reports a fault. -/
structure Reading where
  mv : BitVec 16
  da : BitVec 16
  fault : Bool
  deriving DecidableEq, Repr

/-- What is wrong with a stored item until it is next read or rewritten (R272, R283, R434, R469). -/
inductive ErrKind where
  /-- L1 parity -/
  | parity
  /-- stored bits inverted, counted in the codeword -/
  | bits (positions : List Nat)
  /-- every symbol of one DRAM device -/
  | device (d : Nat)
  /-- bits inverted in a tag, a state, a presence vector or a directory entry -/
  | tag (positions : List Nat)
  deriving DecidableEq, Repr

/-- An error that has arisen in an array of a die since its last Pass: unit number (R26), address and what is wrong. -/
structure ArrayFault where
  unit : Nat
  addr : Nat
  kind : ErrKind
  deriving DecidableEq, Repr

/-- What a Pass observes of one DRAM channel of its die: MR4 (a rank asks for more than the 1x rate; above the range of the 2x
rate, R294), and the outcome and length in ns of a retraining pause, should one be due (R299). -/
structure ChanObs where
  fast : Bool
  hot : Bool
  pauseOk : Bool
  pauseLen : BitVec 16
  caErr : Bool
  deriving DecidableEq, Repr

/-- What a Pass observes (R515, R516): the time its slots use in ns, the die's temperature in 1/8 °C, its two DRAM channels, and the
errors that have arisen in its arrays (R272, R283, R434). -/
structure PassObs where
  work : Nat
  temp : BitVec 16
  ch0 : ChanObs
  ch1 : ChanObs
  faults : List ArrayFault
  deriving DecidableEq, Repr

/-- One constructor per row of spec/opcode_table.json; each docstring names the rule the table gives the row. -/
inductive Instr where
  /-- ADD (R124) -/
  | add (o : OpA)
  /-- ADDW (R124) -/
  | addw (o : OpA)
  /-- ADDL (R124) -/
  | addl (o : OpA)
  /-- ADDLW (R124) -/
  | addlw (o : OpA)
  /-- SUB (R124) -/
  | sub (o : OpA)
  /-- SUBW (R124) -/
  | subw (o : OpA)
  /-- SUBL (R124) -/
  | subl (o : OpA)
  /-- SUBLW (R124) -/
  | sublw (o : OpA)
  /-- AND (R124) -/
  | and (o : OpA)
  /-- OR (R124) -/
  | or (o : OpA)
  /-- XOR (R124) -/
  | xor (o : OpA)
  /-- NOR (R124) -/
  | nor (o : OpA)
  /-- ANDC (R124) -/
  | andc (o : OpA)
  /-- NEG (R126) -/
  | neg (o : OpA)
  /-- NEGW (R126) -/
  | negw (o : OpA)
  /-- CMP (R124) -/
  | cmp (o : OpA)
  /-- CMPW (R124) -/
  | cmpw (o : OpA)
  /-- CMPL (R124) -/
  | cmpl (o : OpA)
  /-- CMPLW (R124) -/
  | cmplw (o : OpA)
  /-- ADDI (R125) -/
  | addi (o : OpI)
  /-- ADDLI (R125) -/
  | addli (o : OpI)
  /-- ADDWI (R125) -/
  | addwi (o : OpI)
  /-- ANDI (R125) -/
  | andi (o : OpI)
  /-- ORI (R125) -/
  | ori (o : OpI)
  /-- XORI (R125) -/
  | xori (o : OpI)
  /-- CMPI (R125) -/
  | cmpi (o : OpI)
  /-- CMPLI (R125) -/
  | cmpli (o : OpI)
  /-- LI (R125) -/
  | li (o : OpI)
  /-- LIS (R125) -/
  | lis (o : OpI)
  /-- SXB (R127) -/
  | sxb (o : OpA)
  /-- SXH (R127) -/
  | sxh (o : OpA)
  /-- SXW (R127) -/
  | sxw (o : OpA)
  /-- ZXB (R127) -/
  | zxb (o : OpA)
  /-- ZXH (R127) -/
  | zxh (o : OpA)
  /-- ZXW (R127) -/
  | zxw (o : OpA)
  /-- CLZ (R127) -/
  | clz (o : OpA)
  /-- CTZ (R127) -/
  | ctz (o : OpA)
  /-- POPC (R127) -/
  | popc (o : OpA)
  /-- SLL (R128) -/
  | sll (o : OpA)
  /-- SRL (R128) -/
  | srl (o : OpA)
  /-- SRA (R128) -/
  | sra (o : OpA)
  /-- ROL (R128) -/
  | rol (o : OpA)
  /-- ROR (R128) -/
  | ror (o : OpA)
  /-- SLLW (R128) -/
  | sllw (o : OpA)
  /-- SRLW (R128) -/
  | srlw (o : OpA)
  /-- SRAW (R128) -/
  | sraw (o : OpA)
  /-- ROLW (R128) -/
  | rolw (o : OpA)
  /-- RORW (R128) -/
  | rorw (o : OpA)
  /-- SLLI (R128) -/
  | slli (o : OpSh)
  /-- SRLI (R128) -/
  | srli (o : OpSh)
  /-- SRAI (R128) -/
  | srai (o : OpSh)
  /-- ROLI (R128) -/
  | roli (o : OpSh)
  /-- RORI (R128) -/
  | rori (o : OpSh)
  /-- SLLWI (R128) -/
  | sllwi (o : OpSh)
  /-- SRLWI (R128) -/
  | srlwi (o : OpSh)
  /-- SRAWI (R128) -/
  | srawi (o : OpSh)
  /-- ROLWI (R128) -/
  | rolwi (o : OpSh)
  /-- RORWI (R128) -/
  | rorwi (o : OpSh)
  /-- MUL (R130) -/
  | mul (o : OpA)
  /-- MULW (R130) -/
  | mulw (o : OpA)
  /-- MULS (R130) -/
  | muls (o : OpA)
  /-- MULU (R130) -/
  | mulu (o : OpA)
  /-- DIV (R131) -/
  | div (o : OpA)
  /-- DIVL (R131) -/
  | divl (o : OpA)
  /-- DIVW (R131) -/
  | divw (o : OpA)
  /-- DIVLW (R131) -/
  | divlw (o : OpA)
  /-- LB (R135) -/
  | lb (o : OpI)
  /-- LBU (R135) -/
  | lbu (o : OpI)
  /-- LH (R135) -/
  | lh (o : OpI)
  /-- LHU (R135) -/
  | lhu (o : OpI)
  /-- LW (R135) -/
  | lw (o : OpI)
  /-- LWU (R135) -/
  | lwu (o : OpI)
  /-- LD (R135) -/
  | ld (o : OpI)
  /-- LQ (R135) -/
  | lq (o : OpI)
  /-- STB (R135) -/
  | stb (o : OpI)
  /-- STH (R135) -/
  | sth (o : OpI)
  /-- STW (R135) -/
  | stw (o : OpI)
  /-- STD (R135) -/
  | std (o : OpI)
  /-- STQ (R135) -/
  | stq (o : OpI)
  /-- LA (R135) -/
  | la (o : OpI)
  /-- BRC (R138) -/
  | brc (o : OpB)
  /-- BR (R138) -/
  | br (o : OpA)
  /-- CBEQ (R138) -/
  | cbeq (o : OpI)
  /-- CBNE (R138) -/
  | cbne (o : OpI)
  /-- CBLT (R138) -/
  | cblt (o : OpI)
  /-- CBGE (R138) -/
  | cbge (o : OpI)
  /-- CBLTL (R138) -/
  | cbltl (o : OpI)
  /-- CBGEL (R138) -/
  | cbgel (o : OpI)
  /-- CALLR (R139) -/
  | callr (o : OpB)
  /-- CALLG (R139) -/
  | callg (o : OpA)
  /-- RET (R70) -/
  | ret (o : OpA)
  /-- RSSPILL (R71) -/
  | rsspill (o : OpA)
  /-- RSFILL (R71) -/
  | rsfill (o : OpA)
  /-- CSD (R143) -/
  | csd (o : OpA)
  /-- CSQ (R143) -/
  | csq (o : OpA)
  /-- FAAD (R143) -/
  | faad (o : OpA)
  /-- FAAW (R143) -/
  | faaw (o : OpA)
  /-- SWPD (R143) -/
  | swpd (o : OpA)
  /-- FENCE (R145) -/
  | fence (o : OpA)
  /-- SYNC (R145) -/
  | sync (o : OpA)
  /-- CRCSTEP (R147) -/
  | crcstep (o : OpCrc)
  /-- PARITY (R148) -/
  | parity (o : OpMode)
  /-- BREV (R149) -/
  | brev (o : OpMode)
  /-- BNDCHK (R150) -/
  | bndchk (o : OpBnd)
  /-- FADDD (R167) -/
  | faddd (o : OpF)
  /-- FADDS (R167) -/
  | fadds (o : OpF)
  /-- FSUBD (R167) -/
  | fsubd (o : OpF)
  /-- FSUBS (R167) -/
  | fsubs (o : OpF)
  /-- FMULD (R167) -/
  | fmuld (o : OpF)
  /-- FMULS (R167) -/
  | fmuls (o : OpF)
  /-- FDIVD (R167) -/
  | fdivd (o : OpF)
  /-- FDIVS (R167) -/
  | fdivs (o : OpF)
  /-- FSQRTD (R167) -/
  | fsqrtd (o : OpF)
  /-- FSQRTS (R167) -/
  | fsqrts (o : OpF)
  /-- FRINTD (R167) -/
  | frintd (o : OpF)
  /-- FRINTS (R167) -/
  | frints (o : OpF)
  /-- FCMPD (R168) -/
  | fcmpd (o : OpF)
  /-- FCMPS (R168) -/
  | fcmps (o : OpF)
  /-- FCMPSD (R168) -/
  | fcmpsd (o : OpF)
  /-- FCMPSS (R168) -/
  | fcmpss (o : OpF)
  /-- FMADDD (R167) -/
  | fmaddd (o : OpQ)
  /-- FMADDS (R167) -/
  | fmadds (o : OpQ)
  /-- FMSUBD (R167) -/
  | fmsubd (o : OpQ)
  /-- FMSUBS (R167) -/
  | fmsubs (o : OpQ)
  /-- FNMADDD (R167) -/
  | fnmaddd (o : OpQ)
  /-- FNMADDS (R167) -/
  | fnmadds (o : OpQ)
  /-- FNMSUBD (R167) -/
  | fnmsubd (o : OpQ)
  /-- FNMSUBS (R167) -/
  | fnmsubs (o : OpQ)
  /-- CVTSD (R170) -/
  | cvtsd (o : OpF)
  /-- CVTDS (R170) -/
  | cvtds (o : OpF)
  /-- CVTGD (R170) -/
  | cvtgd (o : OpF)
  /-- CVTGS (R170) -/
  | cvtgs (o : OpF)
  /-- CVTLD (R170) -/
  | cvtld (o : OpF)
  /-- CVTLS (R170) -/
  | cvtls (o : OpF)
  /-- CVTDG (R169) -/
  | cvtdg (o : OpF)
  /-- CVTSG (R169) -/
  | cvtsg (o : OpF)
  /-- CVTDL (R169) -/
  | cvtdl (o : OpF)
  /-- CVTSL (R169) -/
  | cvtsl (o : OpF)
  /-- FMR (R166) -/
  | fmr (o : OpA)
  /-- FNEGD (R166) -/
  | fnegd (o : OpA)
  /-- FABSD (R166) -/
  | fabsd (o : OpA)
  /-- FNEGS (R166) -/
  | fnegs (o : OpA)
  /-- FABSS (R166) -/
  | fabss (o : OpA)
  /-- MVFG (R166) -/
  | mvfg (o : OpA)
  /-- MVGF (R166) -/
  | mvgf (o : OpA)
  /-- LFS (R166) -/
  | lfs (o : OpI)
  /-- LFD (R166) -/
  | lfd (o : OpI)
  /-- STFS (R166) -/
  | stfs (o : OpI)
  /-- STFD (R166) -/
  | stfd (o : OpI)
  /-- LPSW (R62) -/
  | lpsw (o : OpI)
  /-- EPSW (R62) -/
  | epsw (o : OpA)
  /-- SPM (R62) -/
  | spm (o : OpA)
  /-- IDENT (R90) -/
  | ident (o : OpA)
  /-- IRUN (R66) -/
  | irun (o : OpA)
  /-- IRUN_EXIT (R67) -/
  | irunExit (n : CpuNo)
  /-- HCALL (R62) -/
  | hcall (o : OpT)
  /-- SVC (R62) -/
  | svc (o : OpT)
  /-- LCTL (R55) -/
  | lctl (o : OpI)
  /-- STCTL (R55) -/
  | stctl (o : OpI)
  /-- RDTOD (R511) -/
  | rdtod (o : OpA)
  /-- CHKMODE (R205) -/
  | chkmode (o : OpA)
  /-- CPUSIG_EXTERNAL_CALL (R63) -/
  | cpusigExternalCall (o : OpSig)
  /-- CPUSIG_EMERGENCY_SIGNAL (R63) -/
  | cpusigEmergencySignal (o : OpSig)
  /-- CPUSIG_STOP (R63) -/
  | cpusigStop (o : OpSig)
  /-- CPUSIG_RESTART (R63) -/
  | cpusigRestart (o : OpSig)
  /-- CPUSIG_CORE_RESET (R63) -/
  | cpusigCoreReset (o : OpSig)
  /-- TBEGIN (R237) -/
  | tbegin (o : OpB)
  /-- TEND (R238) -/
  | tend (o : OpEnd)
  /-- TABORT (R240) -/
  | tabort (o : OpI)
  /-- TRANSACTION_CONFLICT (R238) -/
  | transactionConflict (n : CpuNo) (a : Pa) (write : Bool)
  /-- TLBIV (R226) -/
  | tlbiv (o : OpA)
  /-- TLBIA (R226) -/
  | tlbia (o : OpA)
  /-- TLBII (R226) -/
  | tlbii (o : OpA)
  /-- TLB_INVALIDATION_RECEIVED (R227) -/
  | tlbInvalidationReceived (n : CpuNo) (inv : TlbInv)
  /-- LRA (R229) -/
  | lra (o : OpA)
  /-- CINV (R264) -/
  | cinv (o : OpA)
  /-- CCLEAN (R264) -/
  | cclean (o : OpA)
  /-- CCLINV (R264) -/
  | cclinv (o : OpA)
  /-- CZERO (R264) -/
  | czero (o : OpA)
  /-- L2DIS (R268) -/
  | l2dis (o : OpA)
  /-- L2EN (R270) -/
  | l2en (o : OpA)
  /-- L3DIS (R271) -/
  | l3dis (o : OpA)
  /-- L3EN (R271) -/
  | l3en (o : OpA)
  /-- IOSTART (R322) -/
  | iostart (o : OpA)
  /-- IOHALT (R322) -/
  | iohalt (o : OpA)
  /-- IOCLEAR (R352) -/
  | ioclear (o : OpA)
  /-- IOTEST (R322) -/
  | iotest (o : OpA)
  /-- IOSTORE (R326) -/
  | iostore (o : OpA)
  /-- IOMODIFY (R326) -/
  | iomodify (o : OpA)
  /-- CSIMAGE_CREATE (R316) -/
  | csimageCreate (o : OpA)
  /-- CSIMAGE_MODIFY (R316) -/
  | csimageModify (o : OpA)
  /-- CSIMAGE_REMOVE (R349) -/
  | csimageRemove (o : OpA)
  /-- CSMAP_MAP (R318) -/
  | csmapMap (o : OpA)
  /-- CSMAP_UNMAP (R318) -/
  | csmapUnmap (o : OpA)
  /-- CSMAP_REPLACE (R318) -/
  | csmapReplace (o : OpA)
  /-- CSSHARE (R320) -/
  | csshare (o : OpA)
  /-- CSQUIESCE (R347) -/
  | csquiesce (o : OpA)
  /-- CSRESET (R348) -/
  | csreset (o : OpA)
  /-- QUERY (R409) -/
  | query (o : OpC) (slot : Fin 4)
  /-- DEFCMP (R414) -/
  | defcmp (o : OpC)
  /-- DEFDCM (R416) -/
  | defdcm (o : OpC)
  /-- AES_GCM_ENCRYPT (R418) -/
  | aesGcmEncrypt (o : OpC)
  /-- AES_GCM_DECRYPT (R418) -/
  | aesGcmDecrypt (o : OpC)
  /-- AES_XTS_ENCRYPT (R418) -/
  | aesXtsEncrypt (o : OpC)
  /-- AES_XTS_DECRYPT (R418) -/
  | aesXtsDecrypt (o : OpC)
  /-- AES_CBC_ENCRYPT (R418) -/
  | aesCbcEncrypt (o : OpC)
  /-- AES_CBC_DECRYPT (R418) -/
  | aesCbcDecrypt (o : OpC)
  /-- AES_CTR (R418) -/
  | aesCtr (o : OpC)
  /-- HASH (R418) -/
  | hash (o : OpC)
  /-- PKWRAP_SYMMETRIC (R422) -/
  | pkwrapSymmetric (o : OpC)
  /-- SIGN (R419) -/
  | sign (o : OpC)
  /-- VERIFY (R419) -/
  | verify (o : OpC)
  /-- KEYGEN (R419) -/
  | keygen (o : OpC)
  /-- ENCAPS (R419) -/
  | encaps (o : OpC)
  /-- DECAPS (R419) -/
  | decaps (o : OpC)
  /-- PKWRAP_PRIVATE (R422) -/
  | pkwrapPrivate (o : OpC)
  /-- RNDG (R424) -/
  | rndg (o : OpC)
  /-- RNDB (R424) -/
  | rndb (o : OpC)
  /-- RESEED (R423) -/
  | reseed (o : OpC)
  /-- COPROCESSOR_UNAVAILABLE (R116) -/
  | coprocessorUnavailable (u : Uid) (w : Word)
  /-- CUSTOMER_SLOT_INSTRUCTION (R116) -/
  | customerSlotInstruction (u : Uid) (w : Word)
  /-- OPERATION_EXCEPTION (R97) -/
  | operationException (u : Uid) (w : Word)
  /-- RANDOM_BUFFER_REFILL (R424) -/
  | randomBufferRefill (core : CoreNo)
  /-- DRBG_RESEED_COUNT (R423) -/
  | drbgReseedCount (die : Fin 10) (inst : Fin 8)
  /-- HEALTH_TEST_FAILED (R425) -/
  | healthTestFailed (die : Fin 10)
  /-- EXTERNAL_INTERRUPTION (R85) -/
  | externalInterruption (u : Uid)
  /-- IO_INTERRUPTION (R333) -/
  | ioInterruption (n : CpuNo)
  /-- MACHINE_CHECK_INTERRUPTION (R86) -/
  | machineCheckInterruption (n : CpuNo)
  /-- RESTART_INTERRUPTION (R87) -/
  | restartInterruption (n : CpuNo)
  /-- CPU_TIMER_CONDITION (R56) -/
  | cpuTimerCondition (u : Uid)
  /-- CLOCK_COMPARATOR_CONDITION (R56) -/
  | clockComparatorCondition (u : Uid)
  /-- MISMATCH_RETRY (R193) -/
  | mismatchRetry (n : CpuNo)
  /-- SQUASHED_MISMATCH (R194) -/
  | squashedMismatch (n : CpuNo) (ia : Word)
  /-- LOGIC_SELFTEST_END (R193) -/
  | logicSelftestEnd (n : CpuNo) (v : Verdict)
  /-- COMPARATOR_FAULT (R198) -/
  | comparatorFault (n : CpuNo) (parity : Bool)
  /-- SPARE_SELFTEST_END (R199) -/
  | spareSelftestEnd (die : CxDie) (cluster : Fin 2) (pass : Bool)
  /-- MOVE_COMPLETE (R201) -/
  | moveComplete (n : CpuNo) (readable : Bool)
  /-- FAILING_CORE_SWEEP_END (R201) -/
  | failingCoreSweepEnd (core : CoreNo)
  /-- SV_CMAP_WRITE (R535) -/
  | svCmapWrite (n : CpuNo) (v : Dword)
  /-- LINE_FILL_ARRIVAL (R253) -/
  | lineFillArrival (core : CoreNo) (a : Pa)
  /-- VICTIM_ACCEPTED (R255) -/
  | victimAccepted (core : CoreNo) (a : Pa)
  /-- HOME_READ_REQUEST (R260) -/
  | homeReadRequest (die : CxDie) (a : Pa)
  /-- HOME_OWNERSHIP_REQUEST (R260) -/
  | homeOwnershipRequest (die : CxDie) (a : Pa)
  /-- HOME_WRITEBACK (R260) -/
  | homeWriteback (die : CxDie) (a : Pa)
  /-- COHERENCE_REMOVAL (R262) -/
  | coherenceRemoval (core : CoreNo) (a : Pa)
  /-- ENGINE_STORAGE_READ (R263) -/
  | engineStorageRead (a : Pa) (len : Nat)
  /-- ENGINE_STORAGE_WRITE (R263) -/
  | engineStorageWrite (a : Pa) (data : List Byte)
  /-- L2_SWEEP_END (R268) -/
  | l2SweepEnd (core : CoreNo)
  /-- L3_SWEEP_END (R271) -/
  | l3SweepEnd (die : CxDie)
  /-- L2_CTL_EN_CLEAR (R268) -/
  | l2CtlEnClear (w : Writer) (core : CoreNo)
  /-- L2_CTL_EN_SET (R270) -/
  | l2CtlEnSet (w : Writer) (core : CoreNo)
  /-- L3_CTL_EN_CLEAR (R271) -/
  | l3CtlEnClear (w : Writer) (die : CxDie)
  /-- L3_CTL_EN_SET (R271) -/
  | l3CtlEnSet (w : Writer) (die : CxDie)
  /-- DRAM_READ_REQUEST (R288) -/
  | dramReadRequest (c : Fin 16) (a : Pa)
  /-- DRAM_WRITE_REQUEST (R287) -/
  | dramWriteRequest (c : Fin 16) (a : Pa) (data : List Byte) (poison : Bool)
  /-- DRAM_COMMAND_ISSUE (R290) -/
  | dramCommandIssue (c : Fin 16) (caErr : Bool)
  /-- REFRESH_INTERVAL (R293) -/
  | refreshInterval (c : Fin 16)
  /-- DC_REF_MODE_WRITE (R296) -/
  | dcRefModeWrite (w : Writer) (c : Fin 16) (v : Dword)
  /-- DC_TRAIN_START (R298) -/
  | dcTrainStart (w : Writer) (c : Fin 16) (v : Dword)
  /-- TRAINING_END (R298) -/
  | trainingEnd (c : Fin 16) (ok : Bool)
  /-- SELF_REFRESH_ENTRY (R301) -/
  | selfRefreshEntry (c : Fin 16)
  /-- SELF_REFRESH_EXIT (R302) -/
  | selfRefreshExit (c : Fin 16)
  /-- DC_CTL_ZERO (R304) -/
  | dcCtlZero (w : Writer) (c : Fin 16) (v : Dword)
  /-- ZEROING_END (R304) -/
  | zeroingEnd (c : Fin 16)
  /-- DC_CTL_EN_SET (R307) -/
  | dcCtlEnSet (w : Writer) (c : Fin 16) (v : Dword)
  /-- DC_CTL_EN_CLEAR (R305) -/
  | dcCtlEnClear (w : Writer) (c : Fin 16) (v : Dword)
  /-- DRAIN_END (R305) -/
  | drainEnd (c : Fin 16)
  /-- JOURNAL_STATE_DURABLE (R338) -/
  | journalStateDurable (w : DurableState)
  /-- MIRROR_LINK_DOWN (R340) -/
  | mirrorLinkDown
  /-- MIRROR_LINK_RETURN (R340) -/
  | mirrorLinkReturn
  /-- MIRROR_COPY_END (R340) -/
  | mirrorCopyEnd
  /-- ENGINE_FAILURE (R341) -/
  | engineFailure (die : ChDie) (e : Fin 48)
  /-- CE_CTL_EN_SET (R362) -/
  | ceCtlEnSet (w : Writer) (die : ChDie) (e : Fin 48) (v : Dword)
  /-- CE_CTL_EN_CLEAR (R341) -/
  | ceCtlEnClear (w : Writer) (die : ChDie) (e : Fin 48) (v : Dword)
  /-- CS_CTL_EN_SET (R361) -/
  | csCtlEnSet (w : Writer) (die : ChDie) (v : Dword)
  /-- CHANNEL_DIE_FAILURE (R343) -/
  | channelDieFailure (die : ChDie) (coll : Option (SubNo × PortBWrite))
  /-- QUIESCE_GRACE_EXPIRY (R347) -/
  | quiesceGraceExpiry (n : Fin 96)
  /-- SCHEDULING_ROUND (R321) -/
  | schedulingRound (die : ChDie) (port : Fin 12)
  /-- LINK_UP (R364) -/
  | linkUp (die : ChDie) (port : Fin 12) (peer200 : Bool)
  /-- LINK_DOWN (R385) -/
  | linkDown (die : ChDie) (port : Fin 12)
  /-- PFC_FRAME (R368) -/
  | pfcFrame (die : ChDie) (port : Fin 12) (enabled : BitVec 8) (times : BitVec 128)
  /-- PAUSE_FRAME (R368) -/
  | pauseFrame (die : ChDie) (port : Fin 12) (time : BitVec 16)
  /-- RECEIVE_BUFFER_XON (R368) -/
  | receiveBufferXon (die : ChDie) (port : Fin 12)
  /-- PFC_REPEAT_EXPIRY (R368) -/
  | pfcRepeatExpiry (die : ChDie) (port : Fin 12)
  /-- LOGIN_REQ (R381) -/
  | loginReq (f : RxFrame)
  /-- LOGIN_ACC (R383) -/
  | loginAcc (f : RxFrame)
  /-- LOGIN_REJ (R383) -/
  | loginRej (f : RxFrame)
  /-- LOGOUT (R385) -/
  | logout (f : RxFrame)
  /-- ECHO (R384) -/
  | echo (f : RxFrame)
  /-- ECHO_REPLY (R384) -/
  | echoReply (f : RxFrame)
  /-- DATA (R376) -/
  | data (f : RxFrame)
  /-- ACK (R376) -/
  | ack (f : RxFrame)
  /-- STATUS (R373) -/
  | status (f : RxFrame)
  /-- WORKING (R379) -/
  | working (f : RxFrame)
  /-- ABORT_ACK (R388) -/
  | abortAck (f : RxFrame)
  /-- ACK_DELAY_EXPIRY (R374) -/
  | ackDelayExpiry (p : SubNo)
  /-- ACK_TIMEOUT (R376) -/
  | ackTimeout (p : SubNo)
  /-- PAUSE_MAX_EXCEEDED (R378) -/
  | pauseMaxExceeded (die : ChDie) (port : Fin 12)
  /-- STATUS_WAIT_EXPIRY (R379) -/
  | statusWaitExpiry (p : SubNo)
  /-- KEEPALIVE_EXPIRY (R384) -/
  | keepaliveExpiry (die : ChDie) (slot : Fin 4096)
  /-- LOGIN_ANSWER_TIMEOUT (R383) -/
  | loginAnswerTimeout (die : ChDie) (slot : Fin 4096)
  /-- LOGIN_RETRY_EXPIRY (R383) -/
  | loginRetryExpiry (die : ChDie) (slot : Fin 4096)
  /-- ABORT_RESEND_EXPIRY (R387) -/
  | abortResendExpiry (xid : Word)
  /-- CL_CTL_EN_SET (R397) -/
  | clCtlEnSet (w : Writer) (die : ChDie) (port : Fin 12) (v : Dword)
  /-- CL_CTL_EN_CLEAR (R385) -/
  | clCtlEnClear (w : Writer) (die : ChDie) (port : Fin 12) (v : Dword)
  /-- CL_LGN_ADDR_EN_SET (R398) -/
  | clLgnAddrEnSet (w : Writer) (die : ChDie) (slot : Fin 4096) (v : Dword)
  /-- CL_LGN_ADDR_EN_CLEAR (R383) -/
  | clLgnAddrEnClear (w : Writer) (die : ChDie) (slot : Fin 4096) (v : Dword)
  /-- ACC_CTL_EN_SET (R428) -/
  | accCtlEnSet (w : Writer) (die : Fin 10) (inst : Fin 8) (v : Dword)
  /-- ACC_CTL_EN_CLEAR (R426) -/
  | accCtlEnClear (w : Writer) (die : Fin 10) (inst : Fin 8) (v : Dword)
  /-- WS_BANK_OWN_WRITE (R437) -/
  | wsBankOwnWrite (eng : Option (Fin 48)) (die : WsDie) (bank : Fin 128) (v : Dword)
  /-- BANK_COPY_END (R442) -/
  | bankCopyEnd (die : WsDie)
  /-- BANK_MARCH_END (R442) -/
  | bankMarchEnd (die : WsDie) (pass : Bool)
  /-- TEST_IN_PLACE_END (R444) -/
  | testInPlaceEnd (die : WsDie) (bank : Fin 128) (pass : Bool)
  /-- WS_TEST_EN_SET (R449) -/
  | wsTestEnSet (w : Writer) (die : WsDie) (v : Dword)
  /-- WS_VAULT_WIPE (R446) -/
  | wsVaultWipe
  /-- VAULT_WIPE_END (R446) -/
  | vaultWipeEnd (failed : List (Fin 4))
  /-- TAMPER_INDICATION (R528) -/
  | tamperIndication
  /-- FAULT_MESSAGE_ACCEPT (R454) -/
  | faultMessageAccept (parity : Bool)
  /-- MESSAGE_MERGED (R451) -/
  | messageMerged (parity : Bool)
  /-- THRESHOLD_WINDOW_RESET (R459) -/
  | thresholdWindowReset (kind : Byte)
  /-- CONDITION_END (R461) -/
  | conditionEnd (die : Fin 11) (unit kind : Byte) (part : Nat)
  /-- FC_ACK_WRITE (R463) -/
  | fcAckWrite (w : Writer) (v : Dword)
  /-- FIRST_STAT_VALID_CLEAR (R460) -/
  | firstStatValidClear (w : Writer) (c : Fin 7)
  /-- FC_INJ_CTL_ARM_SET (R469) -/
  | fcInjCtlArmSet (w : Writer) (v : Dword)
  /-- FC_INJ_CTL_ARM_CLEAR (R469) -/
  | fcInjCtlArmClear (w : Writer) (v : Dword)
  /-- INJECTION_PERFORMED (R469) -/
  | injectionPerformed
  /-- FLIT_CRC_ERROR (R468) -/
  | flitCrcError (die : Fin 11) (port : Fin 4) (f : FlitFail)
  /-- TLS_CONNECTION (R483) -/
  | tlsConnection (port : Fin 2) (c : TlsClient)
  /-- HELLO (R482) -/
  | hello (se : Fin 2) (req : Word) (vmin vmax : Byte)
  /-- BYE (R484) -/
  | bye (se : Fin 2) (req : Word)
  /-- PING (R484) -/
  | ping (se : Fin 2) (req : Word)
  /-- TAKEOVER (R483) -/
  | takeover (se : Fin 2) (req : Word)
  /-- RELEASE (R483) -/
  | release (se : Fin 2) (req : Word)
  /-- SESSION_SILENCE_EXPIRY (R483) -/
  | sessionSilenceExpiry (se : Fin 2)
  /-- LOAD_BEGIN (R484) -/
  | loadBegin (se : Fin 2) (req : Word) (k : LoadKind) (ver : Nat)
  /-- LOAD_DATA (R484) -/
  | loadData (se : Fin 2) (req : Word) (data : List Byte)
  /-- LOAD_END (R478) -/
  | loadEnd (se : Fin 2) (req : Word) (ok : Bool)
  /-- POWER_STATUS (R484) -/
  | powerStatus (se : Fin 2) (req : Word)
  /-- WARM_RESET (R522) -/
  | warmReset (se : Fin 2) (req : Word)
  /-- POWER_OFF (R501) -/
  | powerOff (se : Fin 2) (req : Word)
  /-- REG_READ (R484) -/
  | regRead (se : Fin 2) (req : Word) (l : List Pa)
  /-- REG_WRITE (R484) -/
  | regWrite (se : Fin 2) (req : Word) (l : List (Pa × Dword))
  /-- FAULT_READ (R484) -/
  | faultRead (se : Fin 2) (req : Word)
  /-- FAULT_ACK (R463) -/
  | faultAck (se : Fin 2) (req : Word) (cls : BitVec 3) (seq : Word)
  /-- INJECT (R469) -/
  | inject (se : Fin 2) (req : Word) (tgt ctl : Dword)
  /-- TOD_SET (R513) -/
  | todSet (se : Fin 2) (req : Word) (v : Dword)
  /-- PTP_CONFIG (R484) -/
  | ptpConfig (se : Fin 2) (req : Word) (domain : Byte) (transport : BitVec 2) (en : Bool)
  /-- SNAP (R497) -/
  | snap (se : Fin 2) (req : Word)
  /-- SPARE_POLICY (R484) -/
  | sparePolicy (se : Fin 2) (req : Word) (xdie : Bool) (reserve : BitVec 16)
  /-- CMAP_WRITE (R535) -/
  | cmapWrite (se : Fin 2) (req : Word) (l : List (CpuNo × Dword))
  /-- LC_NONCE (R484) -/
  | lcNonce (se : Fin 2) (req : Word)
  /-- LC_TRANSITION (R490) -/
  | lcTransition (se : Fin 2) (req : Word) (target : BitVec 4) (nonce : BitVec 256) (sig : LcSig)
  /-- LC_PROVISION (R484) -/
  | lcProvision (se : Fin 2) (req : Word) (anchor keyHash node : List Byte)
  /-- LC_WIPE_STEP_END (R489) -/
  | lcWipeStepEnd
  /-- MANAGEMENT_CORE_FAILURE (R475) -/
  | managementCoreFailure (m : Fin 4)
  /-- MANAGEMENT_LINK_DOWN (R476) -/
  | managementLinkDown (port : Fin 2)
  /-- SNAP_GO (R497) -/
  | snapGo (w : Writer)
  /-- SNAPSHOT_CAPTURE (R497) -/
  | snapshotCapture
  /-- SNAPSHOT_DONE (R497) -/
  | snapshotDone
  /-- PTP_EVENT_MESSAGE (R512) -/
  | ptpEventMessage (e : PtpEvent)
  /-- PTP_HOLDOVER (R512) -/
  | ptpHoldover
  /-- CLK_TOD_SET_WRITE (R513) -/
  | clkTodSetWrite (w : Writer) (v : Dword)
  /-- PMBUS_POLL (R503) -/
  | pmbusPoll (rds : List (Option Reading))
  /-- SMBALERT (R503) -/
  | smbalert (rds : List (Option Reading))
  /-- GOVERNOR_INTERVAL (R505) -/
  | governorInterval (rail : Fin 5) (o : GovObs)
  /-- PWR_SLEW_WRITE (R504) -/
  | pwrSlewWrite (w : Writer) (r : Fin 5) (v : Dword)
  /-- DROOP_DETECTED (R507) -/
  | droopDetected (die : CxDie) (cluster : Fin 2) (o : DroopObs)
  /-- DROOP_RELEASE (R507) -/
  | droopRelease (die : CxDie) (cluster : Fin 2)
  /-- CLOCK_SYNTHESISER_UNLOCK (R453) -/
  | clockSynthesiserUnlock (d : Fin 60)
  /-- PASS_START (R516) -/
  | passStart (die : Fin 11) (o : PassObs)
  /-- RESET_N (R527) -/
  | resetN (low : Nat)
  /-- COLD_RESET_STEP_END (R520) -/
  | coldResetStepEnd (n : Fin 14)
  /-- VAUX_LOSS (R529) -/
  | vauxLoss
  /-- CORE_CHK_STAT_CLR (R494) -/
  | coreChkStatClr (w : Writer) (core : CoreNo) (v : Dword)
  /-- L2_ERR_CLR (R494) -/
  | l2ErrClr (w : Writer) (core : CoreNo) (v : Dword)
  /-- L3_ERR_CLR (R494) -/
  | l3ErrClr (w : Writer) (die : CxDie) (v : Dword)
  /-- DC_ERR_CLR (R494) -/
  | dcErrClr (w : Writer) (c : Fin 16) (v : Dword)
  /-- CS_STALE_CLR (R494) -/
  | csStaleClr (w : Writer) (die : ChDie) (img : Fin 96) (v : Dword)
  /-- CL_CNT_CLR (R494) -/
  | clCntClr (w : Writer) (die : ChDie) (port : Fin 12) (tag : Bool) (v : Dword)
  /-- ACC_ERR_CLR (R494) -/
  | accErrClr (w : Writer) (die : Fin 10) (inst : Fin 8) (v : Dword)
  /-- WS_CNT_CLR (R494) -/
  | wsCntClr (w : Writer) (die : WsDie) (v : Dword)
  /-- WS_ERR_CLR (R494) -/
  | wsErrClr (w : Writer) (die : WsDie) (v : Dword)
  /-- FC_CNT_CLR (R494) -/
  | fcCntClr (w : Writer) (c : Fin 7) (v : Dword)
  /-- FC_CNT_MISC_CLR (R494) -/
  | fcCntMiscClr (w : Writer) (v : Dword)
  /-- PWR_DROOP_CLR (R494) -/
  | pwrDroopClr (w : Writer) (die : CxDie) (v : Dword)
  /-- REGISTER_WRITE (R10) -/
  | registerWrite (w : Writer) (a : Pa) (v : Dword)
  /-- PAUSE_TIME_EXPIRY (R368) -/
  | pauseTimeExpiry (die : ChDie) (port : Fin 12)
  /-- ACCELERATOR_SELFTEST_END (R426) -/
  | acceleratorSelftestEnd (die : Fin 10) (inst : Fin 8) (pass : Bool)
  /-- MANAGEMENT_LINK_UP (R476) -/
  | managementLinkUp (l : MgmtLink)
  /-- SESSION_CONNECTION_LOST (R483) -/
  | sessionConnectionLost (se : Fin 2)
  /-- UNASSIGNED_FSP_RECORD (R484) -/
  | unassignedFspRecord (se : Fin 2) (req : Word) (group code : Byte)
  /-- POWER_ON (R501) -/
  | powerOn
  /-- JTAG_INSTRUCTION (R487) -/
  | jtagInstruction (i : JtagInstr)
  /-- PLAIN_NODE_BUFFER_ERROR (R453) -/
  | plainNodeBufferError (die : Fin 11)
  /-- TOD_DISTRIBUTION_FAULT (R453) -/
  | todDistributionFault
  /-- FUSE_CONTROLLER_FAULT (R453) -/
  | fuseControllerFault
  deriving DecidableEq, Repr

end Sys2Proof
end

