-- ==== Sys2Proof/Decode.lean ====
section
/-! DEFINITION. Instruction words (R93, R94, R97, R99 to R116). The rows of the block give no bits to their commands, so no
word spells one; the words here are what an interruption stores at prefix offset 0x0304, and what OPERATION_EXCEPTION is
raised for. -/
namespace Sys2Proof

/-! ## Words of the five formats (R94) -/

def wordA (op : Nat) (ra rb rc : BitVec 5) (fn : Nat) : Word :=
  BitVec.ofNat 32 (op <<< 24 + ra.toNat <<< 19 + rb.toNat <<< 14 + rc.toNat <<< 9 + fn % 512)

def wordI (op : Nat) (ra rb : BitVec 5) (imm : BitVec 14) : Word :=
  BitVec.ofNat 32 (op <<< 24 + ra.toNat <<< 19 + rb.toNat <<< 14 + imm.toNat)

def wordB (op : Nat) (cond : BitVec 4) (disp : BitVec 20) : Word := BitVec.ofNat 32 (op <<< 24 + cond.toNat <<< 20 + disp.toNat)

def wordC (slot : Nat) (ra rb : BitVec 5) (cfn : Nat) (res : BitVec 6) : Word :=
  BitVec.ofNat 32 ((0x70 + slot) <<< 24 + ra.toNat <<< 19 + rb.toNat <<< 14 + (cfn % 256) <<< 6 + res.toNat)

/-! ## Fields of a word -/

def Word.op (w : Word) : Nat := w.toNat / 2 ^ 24
def Word.rb (w : Word) : Nat := w.toNat / 2 ^ 14 % 32
def Word.fn (w : Word) : Nat := w.toNat % 512
def Word.cfn (w : Word) : Nat := w.toNat / 64 % 256

/-! ## Which words name an instruction (R97, R99 to R116) -/

/-- Function values of the shift groups (R102). -/
def shiftFn (n : Nat) : Bool := decide (n ≤ 4) || (decide (8 ≤ n) && decide (n ≤ 12))

/-- cfn values of slots 0 to 3 (R402). -/
def slotFns (slot : Nat) : List Nat :=
  if slot = 0 then [0, 1, 2] else if slot = 1 then [0, 1, 2, 3, 4, 5, 6, 7, 0x10, 0x20] else if slot = 2 then [0, 1, 2, 3, 4, 5, 0x20] else [0, 1, 2, 3]

/-- A word passes R97 in a profile, HCALL outside an image and populated customer slots apart: those depend on the state. -/
def opAssigned (small : Bool) (w : Word) : Bool :=
  let op := Word.op w
  let fn := Word.fn w
  let full := !small
  if op = 0x01 then decide (fn ≤ 0xB)
  else if op = 0x02 then decide (fn ≤ 3) || (decide (9 ≤ fn) && decide (fn ≤ 0xB))
  else if op = 0x03 then shiftFn fn
  else if op = 0x04 then decide (fn ≤ 7)
  else if op = 0x05 then decide (fn ≤ 8)
  else if 0x08 ≤ op ∧ op ≤ 0x0E then true
  else if op = 0x0F then shiftFn (w.toNat % 16384 / 1024)
  else if 0x10 ≤ op ∧ op ≤ 0x12 then true
  else if 0x20 ≤ op ∧ op ≤ 0x2D then true
  else if op = 0x30 ∨ op = 0x31 then true
  else if op = 0x32 then decide (fn ≤ 4)
  else if 0x34 ≤ op ∧ op ≤ 0x39 then true
  else if op = 0x40 ∨ op = 0x41 then full && decide (fn % 64 ≤ 7)
  else if op = 0x42 ∨ op = 0x43 then full && decide (fn % 16 ≤ 3)
  else if op = 0x44 then full && decide (fn % 64 ≤ 9)
  else if op = 0x45 then full && decide (fn ≤ 6)
  else if 0x4C ≤ op ∧ op ≤ 0x4F then full
  else if op = 0x50 then true
  else if op = 0x51 then decide (fn ≤ 5) && (full || fn != 3)
  else if op = 0x52 ∨ op = 0x53 then true
  else if op = 0x54 then decide (Word.rb w ≤ 2) && (full || Word.rb w != 1)
  else if op = 0x55 then decide (fn ≤ 3) || (decide (0x10 ≤ fn) && decide (fn ≤ 0x13)) || (decide (0x20 ≤ fn) && decide (fn ≤ 0x23))
  else if op = 0x56 then decide (fn ≤ 5)
  else if op = 0x57 then decide (fn ≤ 4)
  else if op = 0x58 then full && decide (fn < 16) && fn % 4 != 3
  else if op = 0x59 ∨ op = 0x5A then full && decide (fn ≤ 2)
  else if op = 0x5F then small && decide (fn ≤ 1)
  else if op = 0x60 then decide (fn ≤ 4)
  else if op = 0x61 then decide (fn ≤ 1)
  else if 0x62 ≤ op ∧ op ≤ 0x64 then true
  else if 0x70 ≤ op ∧ op ≤ 0x73 then full && (slotFns (op - 0x70)).contains (Word.cfn w)
  else if 0x74 ≤ op ∧ op ≤ 0x7F then full
  else false

/-- A CPUSIG word whose order is none of R63's; R62 gives it 0x0006. -/
def otherOrder (w : Word) : Bool :=
  Word.op w == 0x54 && Word.rb w == 2 && !([0x01, 0x02, 0x10, 0x11, 0x12].contains (w.toNat % 256))

/-- The command a word spells by the table's bits: spec/opcode_table.json gives no row bits, so none. -/
def decodeTableWord (_nbits _w : Nat) : Option Instr := none

end Sys2Proof
end

