-- ==== Sys2Proof/Machine/State.lean ====
section
/-! DEFINITION. The state of the module: plain data, every register, buffer and queue the spec names (INVENTORY.md,
State), the queue of waiting commands, and the reset state (R17, R92, R519). -/
namespace Sys2Proof.Machine
open Sys2Proof

/-! ## A logical CPU or small-profile unit -/

/-- PSW.STATE (R57); 0b11 is reserved and never loaded (R58). -/
inductive Mode where
  | problem
  | supervisor
  | host
  deriving DecidableEq, Repr

/-- The program status word (R57); its reserved bits are 0 in every valid PSW (R58). -/
structure Psw where
  mode : Mode
  dat : Bool
  io : Bool
  ext : Bool
  mc : Bool
  wait : Bool
  rso : Bool
  key : BitVec 4
  cc : BitVec 2
  fom : Bool
  ia : Dword
  deriving DecidableEq, Repr

/-- The PSW after reset: 0 (R92). -/
def Psw.zero : Psw :=
  { mode := .problem, dat := false, io := false, ext := false, mc := false, wait := false, rso := false,
    key := 0, cc := 0, fom := false, ia := 0 }

/-- A return stack: its valid entries, entry 0 (the newest) first, and DISC (R69, R70). -/
structure RStack where
  entries : List Dword
  disc : Bool
  deriving DecidableEq, Repr

/-- A pending machine check (R86): the image to whose guest it is presented (none: host level), its indication bits, the
fault message stored at 0x03D0, the time-of-day stored at 0x03D8 and the failing-storage address. -/
structure MCheck where
  image : Option Nat
  code : Dword
  msg : Dword
  tod : Dword
  addr : Dword
  deriving DecidableEq, Repr

/-- Interruption classes in the order of their slots (R75). -/
inductive Cls where
  | machine
  | program
  | supervisor
  | external
  | io
  | restart
  deriving DecidableEq, Repr

/-- One interruption: its class, the fields it stores as (offset, bytes), and the instruction at whose boundary it occurs
(R77, R82). -/
structure Intr where
  cls : Cls
  data : List (Nat × List Byte)
  ia : Dword
  deriving DecidableEq, Repr

/-- What IRUN holds while it runs an image (R66): the absolute address of the descriptor, the image, its generation,
the image CPU address and the held host PSW. -/
structure Irun where
  desc : Nat
  image : Nat
  gen : BitVec 16
  addr : Nat
  hostPsw : Psw
  deriving DecidableEq, Repr

/-- An open transactional region (R237, R238): abort target, checkpoint, read and write sets (64-byte sectors),
buffered stores (latest first) and the instructions executed. -/
structure Region where
  target : Dword
  ckG : Store Dword
  ckF : Store Dword
  ckC8 : Dword
  ckPsw : Psw
  ckRs : RStack
  reads : List Nat
  writes : List Nat
  stores : List Host.Cell
  /-- sectors stored under write-through -/
  through : List Nat
  count : Nat
  deriving DecidableEq, Repr

/-- A write-combining buffer: an aligned 64-byte block and its enabled bytes (R222). -/
structure WcBuf where
  block : Nat
  cells : List Host.Cell
  deriving DecidableEq, Repr

/-- Memory type of a leaf (R210, R221). -/
inductive Mt where
  | wb
  | wt
  | uc
  | wc
  deriving DecidableEq, Repr

/-- A TLB entry (R224), with the size of the page it came from and the range of addresses that it serves: the page, or a part
of it where steps 2 and 3 of R207 or the storage key differ within the page. Guest attributes w, x, u, host attributes hw, hx, and the
guest absolute frame `gframe`, equal to `frame` outside an image. -/
structure TlbEntry where
  ctx : Option (Nat × BitVec 16)
  dat : Bool
  r1to : Nat
  /-- the prefix it was made with (step 2 of R207) -/
  prefix_ : Nat
  vpage : Nat
  sizeLog : Nat
  /-- log2 of the bytes it serves -/
  span : Nat
  frame : Nat
  gframe : Nat
  mt : Mt
  w : Bool
  x : Bool
  u : Bool
  hw : Bool
  hx : Bool
  /-- KEY and FP, once a key byte has been fetched for the frame (R215) -/
  key : Option (BitVec 4 × Bool)
  deriving DecidableEq, Repr

/-- An order of CPUSIG (R63). -/
inductive SigOrder where
  | extCall
  | emergency
  | stop
  | restart
  | coreReset
  deriving DecidableEq, Repr

/-- A CPUSIG order on its way to a CPU: the sender's number (logical CPU, or image CPU address) and, when it was sent
inside an image, that image (R63, R68). -/
structure Sig where
  order : SigOrder
  sender : Nat
  image : Option Nat
  deriving DecidableEq, Repr

/-- A cached non-leaf entry of a recent walk (R224): its context, whether a host-level table holds it, its absolute address,
the number of the 2^shift-byte range whose walks use it, and its value. -/
structure WalkEntry where
  ctx : Option (Nat × BitVec 16)
  host : Bool
  addr : Nat
  shift : Nat
  range : Nat
  value : Dword
  deriving DecidableEq, Repr

/-- The state of one executing unit. A CPU has every field; a channel engine or management core uses those of the
small profile (R52, R53, R91, R358, R473). -/
structure Cpu where
  g : Store Dword
  f : Store Dword
  hostC : Store Dword
  imgC : Store Dword
  hiC : Store Dword
  psw : Psw
  hostRs : RStack
  imgRs : RStack
  stopped : Bool
  /-- the CPU could not take an interruption outside an image and waits for the checkstop (R79) -/
  stuck : Bool
  extCall : List Sig
  emergency : List Sig
  restart : Bool
  signals : List Dword
  mchecks : List MCheck
  /-- pending 0x3001 to 0x3003 or 0x3101 to 0x3104 of a small-profile unit (R358, R474) -/
  unitCodes : List (BitVec 16)
  irun : Option Irun
  /-- exit reason 0x0006 waits to end IRUN: the new generation (R67, R348) -/
  imgReset : Option (BitVec 16)
  /-- interruptions of the guest of an image that could not be stored, and stay pending until its next IRUN (R67) -/
  unstored : List (Nat × Intr)
  region : Option Region
  wcb : List WcBuf
  tlb1 : List TlbEntry
  tlb2 : List TlbEntry
  /-- cached non-leaf entries, latest first (R224) -/
  walks : List WalkEntry
  /-- mismatches of the instruction being retried, 0 to 2 (R193) -/
  retries : Nat
  /-- address of the instruction being retried (R193) -/
  retryIa : Dword
  selfTest : Bool
  /-- the failure being handled came from an injection, from an error of the core, or from both (R470) -/
  injCause : Bool
  realCause : Bool
  /-- orders that reached the core during its logic self-test (R195) -/
  heldSigs : List Sig
  /-- a running small-profile unit: a started engine (R356) or a management core in MC_RUN (R483) -/
  running : Bool
  deriving DecidableEq, Repr

/-- A CPU right after cold reset: every register 0 but those whose map gives another value, stopped (R92, R180). -/
def Cpu.reset : Cpu :=
  { g := [], f := [], hostC := [], imgC := [], hiC := [], psw := Psw.zero,
    hostRs := ⟨[], false⟩, imgRs := ⟨[], false⟩, stopped := true, stuck := false,
    extCall := [], emergency := [], restart := false, signals := [], mchecks := [], unitCodes := [],
    irun := none, imgReset := none, unstored := [], region := none, wcb := [], tlb1 := [], tlb2 := [], walks := [],
    retries := 0, retryIa := 0, selfTest := false, injCause := false, realCause := false, heldSigs := [], running := false }

/-! ## Caches -/

/-- Coherence state of a line that is present (R251); a line in no list is I. -/
inductive LineState where
  | shared
  | exclusive
  | modified
  deriving DecidableEq, Repr

/-- An L2 line (R251): its way, state, and a valid and a dirty bit per sector. -/
structure L2Line where
  line : Nat
  way : Nat
  st : LineState
  valid : BitVec 4
  dirty : BitVec 4
  deriving DecidableEq, Repr

/-- A miss buffer holding one line (R253 to R255); `victim` is the dirty line that has left the way it waits for; `fills` the
64-byte lines that go into L1I (true) or L1D with it (R257). -/
structure MissBuf where
  line : Nat
  excl : Bool
  victim : Option L2Line
  fills : List (Bool × Nat)
  deriving DecidableEq, Repr

/-- The caches and random-value buffer of one physical core: L1 lines (64-byte numbers) and L2 lines, most recently
used first, miss buffers oldest first, deleted L2 positions (set, way), positions corrected at the last scrub. -/
structure CoreHw where
  l1i : List Nat
  l1d : List Nat
  l2 : List L2Line
  miss : List MissBuf
  deleted : List (Nat × Nat)
  scrubbed : List (Nat × Nat × Nat)
  rnd : List Byte
  /-- the core keeps its caches until the sweep ends, then is recorded retired (true) or only stopped (false) -/
  sweeping : Option Bool
  deriving DecidableEq, Repr

/-- The reset value of a physical core's arrays (R275). -/
def CoreHw.reset : CoreHw :=
  { l1i := [], l1d := [], l2 := [], miss := [], deleted := [], scrubbed := [], rnd := [], sweeping := none }

/-- An L3 line (R252): presence vector of core slots; a tag-only line holds no data. -/
structure L3Line where
  line : Nat
  way : Nat
  st : LineState
  valid : BitVec 4
  dirty : BitVec 4
  cores : List Nat
  tagOnly : Bool
  deriving DecidableEq, Repr

/-- A directory entry of the home die (R259): the dies that hold the line, and state O. -/
structure DirEntry where
  line : Nat
  dies : List Nat
  owned : Bool
  deriving DecidableEq, Repr

/-- The L3, directory and scrub state of one compute die. -/
structure DieHw where
  l3 : List L3Line
  dir : List DirEntry
  deleted : List (Nat × Nat)
  scrubbed : List (Nat × Nat × Nat)
  scrubPos : Nat
  deriving DecidableEq, Repr

/-- The reset value of a die's L3 and directory (R275). -/
def DieHw.reset : DieHw := { l3 := [], dir := [], deleted := [], scrubbed := [], scrubPos := 0 }

/-- An error in an array: die, unit number (R26), address of the word, and whether it was injected (R469). -/
structure ArrErr where
  die : Nat
  unit : Nat
  addr : Nat
  kind : ErrKind
  inj : Bool
  deriving DecidableEq, Repr

/-! ## Images -/

/-- CS.IMG_STAT.STATE of a defined image (10_channel_subsystem.md). -/
inductive ImgState where
  | operating
  | quiescing
  | quiesced
  | stopped
  deriving DecidableEq, Repr

/-- An Image Table entry (R46, R316, R319). -/
structure Image where
  st : ImgState
  gen : BitVec 16
  root : Nat
  cpus : List Nat
  sets : Nat
  keySlot : Option Nat
  keyen : Bool
  keytab : Nat
  slots : Nat
  weight : Nat
  /-- the grace time of the first CSQUIESCE has expired (R347) -/
  grace : Option Nat
  /-- the fault message that stopped the image (R67, R454) -/
  stopMsg : Dword
  deriving DecidableEq, Repr

/-! ## Faults -/

/-- A fault message on its way to the collector with the time-of-day stamped at detection (R450, R451); `img` is the
image the source core was running (R455), `coin` that the detection met injected and other errors (R470). -/
structure Msg where
  word : Dword
  tod : Dword
  img : Option Nat
  coin : Bool
  deriving DecidableEq, Repr

/-! ## DRAM controllers -/

/-- The DIMM organisation of every channel (R39, R277, R278), as serial presence detect gives it: density code, package
ranks code, stack code, two DIMMs, speed code, and the minima JESD79-5 sets for DC.TIM in ns; refresh management
parameters of MR58 and MR59 (R297). -/
structure Dimm where
  density : Nat
  ranks : Nat
  stack : Nat
  two : Bool
  speed : Nat
  trfc1 : Nat
  trfcsb : Nat
  trefi : Nat
  srRes : Nat
  rfm : Bool
  raaInit : Nat
  raaMax : Nat
  raaDec : Nat
  deriving DecidableEq, Repr

/-- The modelled DIMMs: 8 Gb, one rank, height 1, one per channel, 6,400 MT/s (DESIGN CHOICE, log entry 3). -/
def Dimm.default : Dimm :=
  { density := 0, ranks := 0, stack := 0, two := false, speed := 0, trfc1 := 195, trfcsb := 115, trefi := 3900,
    srRes := 13, rfm := false, raaInit := 32, raaMax := 96, raaDec := 32 }

/-- A queued write: its 128-byte block, the bytes it covers (newest first), the sectors that arrived marked poisoned (R285), its
arrival in elapsed units, and its place in the order of arrival (R287, R290, R291). -/
structure DramWrite where
  block : Nat
  cells : List Host.Cell
  bad : List Nat
  arrival : Nat
  seq : Nat
  deriving DecidableEq, Repr

/-- A queued read of a block (R288, R290, R291). -/
structure DramRead where
  block : Nat
  arrival : Nat
  seq : Nat
  deriving DecidableEq, Repr

/-- Self-refresh progress (R301, R302). -/
inductive SrPhase where
  | awake
  | entering
  | inSr
  | waiting
  deriving DecidableEq, Repr

/-- The state of one DRAM controller beside its registers. -/
structure DramCtl where
  rq : List DramRead
  wq : List DramWrite
  /-- requests that have arrived (R291) -/
  seq : Nat
  /-- banks in in-order mode with the block of the queued write that put them there (R291) -/
  inOrder : List (Nat × Nat)
  /-- open rows: bank of a logical rank, and row (R290) -/
  rows : List (Nat × Nat)
  /-- writes are issued before reads (R290: 48 blocks down to 16) -/
  draining : Bool
  /-- refresh mode in effect (R292) and debts by rank and bank index, or by rank (R293) -/
  compat : Bool
  debts : Store Nat
  trained : Bool
  training : Bool
  zeroing : Bool
  drain : Bool
  sr : SrPhase
  /-- corrected blocks by rank and device, marks by rank (device + 1), activations by bank (R284, R297) -/
  corrected : Store Nat
  marks : Store Nat
  acts : Store Nat
  /-- at the last poll, MR4 of some rank asked for more than the 1x rate (R294) -/
  mr4Fast : Bool
  /-- at most one command every second clock (R294) -/
  hot : Bool
  /-- failed pauses in a row of subchannels 0 and 1, and the elapsed time of the last pause (R299, R300) -/
  pauseFail : List Nat
  lastPause : Nat
  deriving DecidableEq, Repr

/-- A controller after reset. -/
def DramCtl.reset : DramCtl :=
  { rq := [], wq := [], seq := 0, inOrder := [], rows := [], draining := false, compat := false, debts := [], trained := false,
    training := false, zeroing := false, drain := false, sr := .awake, corrected := [], marks := [], acts := [],
    mr4Fast := false, hot := false, pauseFail := [0, 0], lastPause := 0 }

/-! ## Channel subsystem -/

/-- A subchannel-table entry (R311); paths are the eight descriptors of R312, path 0 first. -/
structure Sct where
  mapped : Bool
  en : Bool
  isc : Nat
  image : Nat
  set : Nat
  mask : BitVec 8
  num : Nat
  dev : Nat
  param : Dword
  paths : List Word
  deriving DecidableEq, Repr

/-- An entry of a zeroed bank (R447): not mapped. -/
def Sct.none : Sct := { mapped := false, en := false, isc := 0, image := 0, set := 0, mask := 0, num := 0, dev := 0, param := 0, paths := [] }

/-- A status block (R325). -/
structure Status where
  start : Bool
  halt : Bool
  clear : Bool
  active : Bool
  code : Nat
  dev : Nat
  chan : BitVec 8
  residual : Nat
  addr : Nat
  xid : Nat
  gen : BitVec 16
  path : Nat
  deriving DecidableEq, Repr

def Status.none : Status :=
  { start := false, halt := false, clear := false, active := false, code := 0, dev := 0, chan := 0, residual := 0,
    addr := 0, xid := 0, gen := 0, path := 0 }

/-- STATE of an exchange slot (R336). -/
inductive ExSt where
  | free
  | start
  | sent
  | partnerAck
  | dataDone
  | status
  | posted
  /-- code 7, which no exchange takes: only an engine that owns the bank can have stored it (R336, R437) -/
  | unused
  deriving DecidableEq, Repr

/-- A state word (R336) with its body (R337): `eng` is the serving die and engine, `pend` that the status block is
pending for the program, `durable` that the recorded state has been acted on in both copies (R338). -/
structure Slot where
  st : ExSt
  path : Nat
  retry : Nat
  image : Nat
  incarn : Nat
  gen : BitVec 16
  seq : Nat
  cwa : Nat
  param : Dword
  key : BitVec 4
  mask : BitVec 8
  eng : Option (Nat × Nat)
  done : Nat
  status : Status
  pend : Bool
  durable : Bool
  deriving DecidableEq, Repr

/-- A slot of a zeroed bank, which no exchange has used. -/
def Slot.none : Slot :=
  { st := .free, path := 0, retry := 0, image := 0, incarn := 0, gen := 0, seq := 0, cwa := 0, param := 0, key := 0, mask := 0,
    eng := .none, done := 0, status := Status.none, pend := false, durable := true }

/-- A channel word (R327). -/
structure Cw where
  cmd : Nat
  flags : BitVec 8
  count : Nat
  addr : Nat
  deriving DecidableEq, Repr

/-- A Vale frame (R369, R370) with its integrity tag (R390). -/
structure Frame where
  ver : Nat
  typ : Nat
  flags : BitVec 8
  dlid : Nat
  slid : Nat
  xid : Nat
  seq : Nat
  dev : Nat
  credit : Nat
  image : Nat
  gen : BitVec 16
  doff : Nat
  payload : List Byte
  tag : Option Dword
  deriving DecidableEq, Repr

/-- A numbered frame of an exchange: times resent, and when the last resend left the port, by the clock of the port's timers, which
stands in a pause (R376 to R378). -/
structure OutFrame where
  frame : Frame
  resends : Nat
  again : Option Nat
  deriving DecidableEq, Repr

/-- A frame received out of order, whose bytes stand in the frame space of one bank of its port (R376, R432), as die × 128 + bank, from an
offset in the bank on. -/
structure HeldFrame where
  frame : Frame
  bank : Nat
  off : Nat
  deriving DecidableEq, Repr

/-- What the serving engine and the transfer units hold of an exchange beside the journal (R337 working data, R373 to
R379): the login in use (die × 4096 + slot), the version it began on, the logins used, the largest count sent; the
current word, whether it is the last command; frames ready, frames outstanding, next number, bytes made into frames;
the number expected from the partner, frames held, frames not acknowledged; CUMACK, whether it was seen again and acted
on; tag failures in a row by number; the number and the MORE of the STATUS answered last; STATUS-REQs in a row. -/
structure Xfer where
  login : Nat
  beganVer : Nat
  used : List Nat
  maxCount : Nat
  cw : Option Cw
  out : List OutFrame
  unacked : List OutFrame
  txSeq : Nat
  txOff : Nat
  rxSeq : Nat
  rxOff : Nat
  heldRx : List HeldFrame
  rxUnacked : Nat
  cum : Nat
  cumSeen : Bool
  cumResent : Bool
  tagFail : List (Nat × Nat)
  more : Bool
  moreSeq : Nat
  statusReqs : Nat
  /-- the current word continues the command before it; its CMD has been sent, its number, and the partner's acceptance -/
  joined : Bool
  cmdSent : Bool
  cmdSeq : Nat
  cmdAcked : Bool
  /-- a new engine serves the exchange and resumes when its state is durable (R341) -/
  due : Bool
  deriving DecidableEq, Repr

def Xfer.none : Xfer :=
  { login := 0, beganVer := 0, used := [], maxCount := 0, cw := .none, out := [], unacked := [], txSeq := 0, txOff := 0,
    rxSeq := 1, rxOff := 0, heldRx := [], rxUnacked := 0, cum := 0, cumSeen := false, cumResent := false, tagFail := [],
    more := false, moreSeq := 0, statusReqs := 0, joined := false, cmdSent := false, cmdSeq := 0, cmdAcked := false, due := false }

/-- An ABORT awaiting ABORT-ACK (R387). -/
structure AbortRec where
  p : Nat
  xid : Nat
  reason : Nat
  image : Nat
  gen : BitVec 16
  resends : Nat
  /-- the login it was last sent on -/
  login : Nat
  deriving DecidableEq, Repr

/-- What a login slot holds beside CL.LGN_ADDR and CL.LGN_STAT: LOGIN-REQs sent, numbered frames sent and the partner's
limit, numbered frames received (R375), keepalive interval of the partner and misses (R384), the second of the last kind
0x6F (R371). -/
structure Login where
  reqs : Nat
  sent : Nat
  limit : Nat
  received : Nat
  ka : Nat
  misses : Nat
  bad : Option Nat
  deriving DecidableEq, Repr

def Login.none : Login := { reqs := 0, sent := 0, limit := 0, received := 0, ka := 0, misses := 0, bad := .none }

/-- A port beside its registers: pause in effect, a PFC pause sent, frames that wait for the pause to end with their login (0 for
none) and partner address. -/
structure PortHw where
  paused : Bool
  xoff : Bool
  waiting : List (Nat × Nat × Frame)
  /-- elapsed units at the start of the pause, and those that earlier pauses took (R378) -/
  since : Nat
  stood : Nat
  deriving DecidableEq, Repr

def PortHw.none : PortHw := { paused := false, xoff := false, waiting := [], since := 0, stood := 0 }

/-- What a port has put on the wire: a Vale frame to a partner address from its own with its tag (VID and PCP) and EtherType, or a
priority flow-control frame. -/
inductive Sent where
  | vale (die port dst src : Nat) (tag : Option (Nat × Nat)) (etype : Nat) (f : Frame)
  | pfc (die port src pcp time : Nat)
  deriving DecidableEq, Repr

/-! ## Accelerators -/

/-- The block in progress. -/
inductive Blk where
  | none
  | stored (left : Nat)
  | huff (lit dist : List Nat)
  deriving DecidableEq, Repr

/-- Where the wrapper header of a stream being decoded stands (RFC 1950, RFC 1952): the optional parts of a gzip header are read
piece by piece, so that the source never ends far within one (R416). -/
inductive Head where
  | start
  | extraLen
  | extra (left : Nat)
  | name
  | comment
  | crc
  | done
  deriving DecidableEq, Repr

/-- A stream's state at a unit boundary: wrapper header (where it stands, the flags and the CRC of a gzip header so far), block, whether it is the last, history (latest first),
output so far, check, match in progress, end reached. -/
structure Inf where
  wrap : Nat
  head : Head
  flg : Nat
  hcrc : Nat
  blk : Blk
  last : Bool
  hist : List Byte
  total : Nat
  check : Nat
  mlen : Nat
  mdist : Nat
  ended : Bool
  deriving DecidableEq, Repr

/-- The block that the compressor has open: its codes, whether its BFINAL is 1, and whether it holds a unit yet. -/
structure OpenBlk where
  lit : List Nat
  dist : List Nat
  final : Bool
  used : Bool
  deriving DecidableEq, Repr

/-- A stream being produced, at a unit boundary: history latest first, bytes consumed, check; the final block has ended; an
alignment block is the last thing written. -/
structure Def where
  wrap : Nat
  header : Bool
  blk : Option OpenBlk
  hist : List Byte
  total : Nat
  check : Nat
  finalDone : Bool
  aligned : Bool
  ended : Bool
  deriving DecidableEq, Repr

/-- What a continuation area stands for (R411). -/
inductive Cont where
  | inflate (s : Inf)
  | deflate (s : Def)
  deriving DecidableEq, Repr

/-- What the private chaining state of a slot 1 function stands for (R417): chaining value, a second value, bytes done,
additional-data bytes done. -/
structure Chain where
  a : List Byte
  b : List Byte
  n : Nat
  m : Nat
  deriving DecidableEq, Repr

/-- A DRBG instance (R423): the die whose source seeded it, generate requests since. -/
structure Drbg where
  src : Nat
  count : Nat
  deriving DecidableEq, Repr

/-- A wrapping key of the vault (R421). -/
structure WrapKey where
  key : List Byte
  serial : Nat
  deriving DecidableEq, Repr

/-! ## Working store -/

/-- The background test of a die (R441, R442): Passes since the last start, the next logical bank, the physical bank that is
copied or marched and the spare that takes the copy; the logical banks lost in a test in place (R444). -/
structure WsTest where
  since : Nat
  next : Nat
  phys : Nat
  spare : Nat
  lost : List Nat
  deriving DecidableEq, Repr

def WsTest.none : WsTest := { since := 0, next := 0, phys := 0, spare := 0, lost := [] }

/-! ## Service die -/

/-- A condition that its source holds live (R453, R461): die, unit, kind, and the part it concerns (a rail, a clock domain,
an unreachable die, a port). -/
structure LiveCond where
  die : Nat
  unit : Nat
  kind : Nat
  part : Nat
  deriving DecidableEq, Repr

/-- An injection performed at its target whose event is still to come (R469 types 0x04 to 0x07 and 0x09). -/
structure Injected where
  die : Nat
  unit : Nat
  typ : Nat
  param : Nat
  deriving DecidableEq, Repr

/-- A board output (R466). -/
inductive Pin where
  | low
  | toggling
  | highZ
  deriving DecidableEq, Repr

/-- Role of an FSP session (R478, R483); a session is `fresh` until its HELLO. -/
inductive Role where
  | fresh
  | rom
  | standby
  | active
  deriving DecidableEq, Repr

/-- What waits behind a pending snapshot or step of time-of-day (R51): a step by an amount (true) or to a value, or a snapshot with
the FSP requests (session, request ID) that it answers. -/
inductive TodWait where
  | step (rel : Bool) (v : Dword)
  | snap (who : List (Nat × Word))
  deriving DecidableEq, Repr

/-- What PTP holds (R477): the master datasets that each port has received, the latest of each sender first; the sender and
sequence number of the two-step Sync that waits for its Follow_Up, with the local time of its receipt and its correction; the times of the
last Sync (the master's and the local one, in units) that no offset has been measured from; the Delay_Req that waits for its answer (number and local time); the mean path
delay in units once measured; the Delay_Reqs sent. -/
structure Ptp where
  foreign : List (Nat × PtpMaster)
  twoStep : Option (BitVec 80 × BitVec 16 × Dword × Int)
  synced : Option (Int × Dword)
  asked : Option (BitVec 16 × Dword)
  delay : Option Int
  reqs : Nat
  deriving DecidableEq, Repr

def Ptp.none : Ptp := { foreign := [], twoStep := .none, synced := .none, asked := .none, delay := .none, reqs := 0 }

/-- A management port whose link is up (R476): its FEC, and the address that it has obtained with where that came from. -/
structure MgmtPort where
  fec : Fec
  addr : Option (AddrSrc × BitVec 128)
  deriving DecidableEq, Repr

/-- The governor of a rail (R505): the current predicted for the last interval in mA, that of each of its two dies without ballast, the
logical CPUs that have been released, in time units when the last voltage command went out, and the frequency of its four clusters in
MHz (R502). -/
structure Gov where
  current : Nat
  act : List Nat
  awake : List Nat
  lastCmd : Option Nat
  mhz : List Nat
  deriving DecidableEq, Repr

/-- A VCORE rail at its floor, its clusters at the lowest frequency (log entry 23). -/
def Gov.none : Gov := { current := 10000, act := [0, 0], awake := [], lastCmd := .none, mhz := [1200, 1200, 1200, 1200] }

/-- What the power-management controller has sent to a rail (R501, R502): a voltage over AVSBus, or OPERATION off to a regulator's
address over PMBus. -/
inductive RailCmd where
  | volts (rail mv : Nat)
  | off (rail addr : Nat)
  deriving DecidableEq, Repr

/-- A sending side of a Plain link (R468): its retry buffer, oldest flit first, and the flit that failed last, by its place from the
newest, with its failures in a row. -/
structure PlainTx where
  buf : List Flit
  failing : Option (Nat × Nat)
  deriving DecidableEq, Repr

def PlainTx.none : PlainTx := { buf := [], failing := .none }

/-- An open FSP session: management port, version, role, and whether it has been silent for SE_TMO (R483). -/
structure Session where
  port : Nat
  ver : Nat
  role : Role
  silent : Bool
  deriving DecidableEq, Repr

/-- A record the module has sent on a session (R480): the version in its header, an event or a response with its status, and the values its body
carries (the bodies' layouts are not in the spec, log entry 17). -/
structure FspOut where
  sess : Nat
  ver : Nat
  event : Bool
  group : Nat
  code : Nat
  req : Word
  status : Nat
  body : List Dword
  deriving DecidableEq, Repr

/-- An image being received by LOAD (R484). -/
structure Load where
  kind : LoadKind
  ver : Nat
  data : List Byte
  deriving DecidableEq, Repr

/-- The Pass sequencer of a die (R514 to R517), times in ns of its cadence counter: Passes begun, the start of the next
Pass, the base B, Passes in a row with lag, the base to be set at the next start, clusters that have sent kind 0x88 in
this Pass, and an injected temperature: its kind and the Passes it still lasts. -/
structure Pass where
  begun : Nat
  next : Nat
  base : Int
  lagRun : Nat
  rebase : Bool
  droop : List Nat
  heat : Option (Nat × Nat)
  deriving DecidableEq, Repr

def Pass.none : Pass := { begun := 0, next := 0, base := 0, lagRun := 0, rebase := false, droop := [], heat := .none }

/-- Start-up (R520, R522): the steps that have ended, whether this is a warm reset, and whether step 2 has noted an
unfinished transition; whether LC.CTL.DZ_DIS was 1 when the cold reset began (R492; DEDUCED, log entry 36). -/
structure Boot where
  done : List Nat
  warm : Bool
  unfinished : Bool
  dzDis : Bool
  deriving DecidableEq, Repr

/-- What LC_PROVISION fuses (R484): owner anchor, owner key hash, node identity. -/
structure Owner where
  anchor : List Byte
  keyHash : List Byte
  node : List Byte
  deriving DecidableEq, Repr


/-! ## The module -/

/-- The fuses (R2, R28, R486): part, spare and fused-off slots, retired cores, customer slots. -/
structure Fuses where
  activePerDie : Nat
  ports : Nat
  spares : List (Nat × Nat)
  fusedOff : List (Nat × Nat)
  retired : List (Nat × Nat)
  custom : Option (BitVec 8)
  deriving DecidableEq, Repr

/-- The fuses of the modelled part: an SN9-192W with spares in slots 12 and 25 of every compute die
(DESIGN CHOICE, log entry 2). -/
def Fuses.default : Fuses :=
  { activePerDie := 24, ports := 12, spares := [(0, 12), (0, 25), (1, 12), (1, 25), (2, 12), (2, 25), (3, 12), (3, 25),
      (4, 12), (4, 25), (5, 12), (5, 25), (6, 12), (6, 25), (7, 12), (7, 25)],
    fusedOff := [], retired := [], custom := none }

/-- The state of the block. -/
structure State where
  /-- waiting commands, first in, first out -/
  pending : List Instr
  /-- the model's own counter of free values drawn (log entry 5) -/
  free : Nat
  units : Store Cpu
  /-- service registers by service-space address (R41) -/
  regs : Store Dword
  /-- counter shadows by service-space address (R496) -/
  shadows : Store Dword
  /-- storage as every agent observes it (R230) -/
  mem : List Host.Cell
  /-- the contents of the DRAM arrays -/
  dram : List Host.Cell
  /-- 64-byte sectors that are poisoned as the agents observe them (R272, R285) -/
  poison : List Nat
  /-- blocks that hold poison in the DIMMs, by channel (R285) -/
  dramPoison : List (Nat × Nat)
  cores : Store CoreHw
  dies : Store DieHw
  errs : List ArrErr
  images : Store (Option Image)
  /-- CPUSIG orders held on the service die for moving CPUs, in arrival order (R34) -/
  held : List (Nat × Sig)
  /-- moves in progress: logical CPU, former core, target core, and whether sparing (retire the former core) -/
  moves : List (Nat × Nat × Nat × Bool)
  /-- messages each die holds for the collector, oldest first (R451) -/
  msgs : Store (List Msg)
  tod : Dword
  /-- time-of-day units that have elapsed, which no step of time-of-day moves (R56, R513) -/
  elapsed : Nat
  fuses : Fuses
  /-- class 0 and 1 messages that found their queue full, waiting to be merged (R451) -/
  merges : List Msg
  dimm : Dimm
  ctls : Store DramCtl
  /-- working store by cell number 2^26 × (0 CH0, 1 CH1, 2 SG) + address (R429) -/
  ws : List Host.Cell
  /-- subchannel table: the owning die's copy and the mirror (R311) -/
  sct : Store Sct
  sctMir : Store Sct
  /-- exchange slots: the owning die's copy and the mirror (R335) -/
  slots : Store Slot
  slotsMir : Store Slot
  xfers : Store Xfer
  /-- host-level translations that the channel dies have cached, latest first (R226) -/
  chanTlb : List TlbEntry
  aborts : List AbortRec
  /-- exchanges started since the mirror link went down (R344) -/
  unmirrored : List Nat
  /-- pending I/O conditions in order: image, ISC, physical subchannel (R333) -/
  conds : List (Nat × Nat × Nat)
  logins : Store Login
  ports : Store PortHw
  /-- what the ports have sent, first to last -/
  wire : List Sent
  /-- version of the verified engine firmware of CH0 and CH1 (R356, R361) -/
  engineFw : Store (Option Nat)
  /-- engines (die × 16 + instance) that have failed a self-test since cold reset (R428) -/
  accFailed : List Nat
  /-- DRBG instances by die × 16 + instance -/
  drbgs : Store Drbg
  /-- wrapping keys by vault key slot, 0xFFFE for host level, and the serial last given in each (R421, R422) -/
  wrapKeys : Store (Option WrapKey)
  serials : Store Nat
  /-- what the private bytes that engines have stored stand for, latest first (R411, R417; log entry 16) -/
  conts : List (List Byte × Cont)
  chains : List (List Byte × Chain)
  /-- background tests by die -/
  wsTests : Store WsTest
  /-- no wrapping key until the next cold reset (R446) -/
  vaultDead : Bool
  /-- conditions that are live (R461) -/
  live : List LiveCond
  /-- messages accepted and not acknowledged: handled class and sequence number (R463) -/
  unacked : List (Nat × Word)
  injected : List Injected
  /-- ALIVE and CHKSTOP_N (R466) -/
  alive : Pin
  chkstopN : Pin
  /-- Plain links that have failed (R37) -/
  plainDown : List Nat
  /-- the loaded route tables: by node, the next die on the way to each die (R37) -/
  routes : List (List Nat)
  /-- everything but the service die is stopped for a power-off, a lifecycle wipe or a warm reset (R489, R501, R522) -/
  halted : Bool
  passes : Store Pass
  boot : Boot
  /-- the rails are up (R501) -/
  powered : Bool
  /-- the last temperature each die has read, in 1/8 °C (R484, R515) -/
  temps : Store Nat
  /-- set points of rails 0 to 4 in mV (R502) -/
  vset : Store Nat
  /-- rails that are up (R500, R501), what the controller has commanded, and the governors of rails 0 to 4 -/
  rails : List Nat
  railCmds : List RailCmd
  govs : Store Gov
  /-- spares of the pool that run their standby self-test (R199, R515) -/
  spareTests : List Nat
  /-- management ports whose link is up, and what PTP holds -/
  mgmtPorts : Store (Option MgmtPort)
  ptp : Ptp
  /-- retry buffers of the Plain, by 4 × die + port -/
  plainTx : Store PlainTx
  /-- the stretch of each cluster's clock in 0.1 %, by 2 × die + cluster (R507) -/
  stretch : Store Nat
  /-- FSP sessions 0 and 1 (R483), what the module has sent, and the image being loaded -/
  sessions : Store (Option Session)
  fspOut : List FspOut
  load : Option Load
  /-- management firmware has been verified, and the host initial program written (R478, R520) -/
  fwLoaded : Bool
  hostLoaded : Bool
  /-- fuse rows of the lifecycle: state and DONE (R486), the step of R489 in progress, what LC_PROVISION fused -/
  lcRows : List (Nat × Bool)
  lcStep : Nat
  owner : Option Owner
  /-- the instruction the test access port holds (R487) -/
  jtag : JtagInstr
  /-- a pending snapshot: its capture value once the token is sent, whether it has been captured, and the requests that wait
  for it (session, request ID) (R497, R498) -/
  snapAt : Option Dword
  snapTaken : Bool
  snapWait : List (Nat × Word)
  /-- the snapshot that the SHD.TAGs hold, by 32 × die, and by 32 × die + slot + 1 for the windows of a core (R496, R498) -/
  snapTags : Store (Option Nat)
  /-- steps of time-of-day and snapshots that wait, in order (R51) -/
  todWait : List TodWait
  /-- Thyme's 32-bit fractional accumulator (R510) -/
  todFrac : Nat
  deriving DecidableEq, Repr

/-- Right after reset: cold reset has begun and no step of R520 has ended (R17, R92, R519). -/
def State.reset : State :=
  { pending := [], free := 0, units := [], regs := [], shadows := [], mem := [], dram := [], poison := [],
    dramPoison := [],
    cores := [], dies := [], errs := [], images := [], held := [], moves := [], msgs := [], tod := 0, elapsed := 0,
    fuses := Fuses.default, merges := [], dimm := Dimm.default, ctls := [], ws := [], sct := [], sctMir := [],
    slots := [], slotsMir := [], xfers := [], chanTlb := [], aborts := [], unmirrored := [], conds := [], logins := [], ports := [],
    wire := [], engineFw := [],
    accFailed := [], drbgs := [], wrapKeys := [], serials := [], conts := [], chains := [],
    wsTests := [], vaultDead := false,
    live := [], unacked := [], injected := [], alive := .low, chkstopN := .highZ, plainDown := [], routes := [], halted := true,
    passes := [], boot := ⟨[], false, false, false⟩, powered := true, temps := [], vset := [], rails := List.range 13, railCmds := [], govs := [],
    spareTests := [], mgmtPorts := [], ptp := Ptp.none, plainTx := [], stretch := [], sessions := [], fspOut := [], load := none,
    fwLoaded := false, hostLoaded := false, lcRows := [(1, true), (2, true), (3, true)], lcStep := 0, owner := none,
    jtag := .bypass, snapAt := none, snapTaken := false, snapWait := [], snapTags := [], todWait := [], todFrac := 0
  }

/-! ## How a step stops -/

/-- Faults of the model. -/
inductive Fault where
  /-- The command is not one the module can receive: an operand names a part that the module lacks, or a word that
  is not of the row's kind (raised by the meanings that check Instr.wf; safe: the machine has no such event). -/
  | illFormedCommand
  deriving DecidableEq, Repr

/-- Refusals of the model. -/
inductive Refusal where
  /-- The command has no meaning yet (raised by Dispatch; safe: nothing is claimed about it). -/
  | notModelled (mnemonic : String)
  /-- What the logic in a customer slot does is in the variant's supplement (R5, R116), which the spec does not hold
  (raised by CUSTOMER_SLOT_INSTRUCTION; safe: the machine stops where the spec gives no effect). -/
  | customerSlotLogic
  deriving DecidableEq, Repr

/-- The outcome of a command. -/
abbrev Result := Host.Outcome State Fault Refusal

end Sys2Proof.Machine
end

