-- ==== Sys2Proof/Machine/Bits.lean ====
section
/-! DEFINITION. Bit fields, byte order (R9), sign extension and the layout of the PSW (R57). -/
namespace Sys2Proof.Machine
open Sys2Proof

/-- Bits [lo + w - 1 : lo] of a doubleword as a number. -/
def fget (v : Dword) (lo w : Nat) : Nat := (v.toNat >>> lo) % 2 ^ w

/-- Bits [lo + w - 1 : lo] replaced by the low w bits of n. -/
def fset (v : Dword) (lo w n : Nat) : Dword :=
  (v &&& ~~~ (BitVec.ofNat 64 ((2 ^ w - 1) <<< lo))) ||| BitVec.ofNat 64 ((n % 2 ^ w) <<< lo)

/-- Bit i as a Bool. -/
def bit (v : Dword) (i : Nat) : Bool := v.getLsbD i

/-- Bit i set to b. -/
def setBit (v : Dword) (i : Nat) (b : Bool) : Dword := fset v i 1 (if b then 1 else 0)

/-- A count that stops at its maximum (R494). -/
def satInc (n w : Nat) : Nat := if n + 1 < 2 ^ w then n + 1 else 2 ^ w - 1

/-- sext(x, n): the low n bits sign-extended to 64 (04_integer_branch_check.md, helpers). -/
def sext (n : Nat) (x : Dword) : Dword := (BitVec.truncate n x).signExtend 64

/-- zext(x, n): the low n bits zero-extended to 64. -/
def zext (n : Nat) (x : Dword) : Dword := (BitVec.truncate n x).zeroExtend 64

/-- The big-endian value of a list of bytes (R9). -/
def beNat : List Byte → Nat
  | [] => 0
  | b :: r => b.toNat * 256 ^ r.length + beNat r

/-- The low n bytes of a value, the most significant first (R9). -/
def beBytes : Nat → Nat → List Byte
  | 0, _ => []
  | n + 1, v => BitVec.ofNat 8 (v / 256 ^ n) :: beBytes n v

/-- The code of a PSW state (R57). -/
def Mode.code : Mode → Nat
  | .problem => 0
  | .supervisor => 1
  | .host => 2

/-- Bits PSW[127:64] (R57). -/
def Psw.high (p : Psw) : Dword :=
  BitVec.ofNat 64 (p.mode.code <<< 62 + p.dat.toNat <<< 61 + p.io.toNat <<< 60 + p.ext.toNat <<< 59 + p.mc.toNat <<< 58
    + p.wait.toNat <<< 57 + p.rso.toNat <<< 56 + p.key.toNat <<< 52 + p.cc.toNat <<< 50 + p.fom.toNat <<< 49)

/-- The 16 bytes of a PSW. -/
def Psw.bytes (p : Psw) : List Byte := beBytes 8 p.high.toNat ++ beBytes 8 p.ia.toNat

/-- The PSW two doublewords hold, or none where R58 calls it invalid. -/
def Psw.decode (h l : Dword) : Option Psw :=
  if fget h 62 2 = 3 ∨ fget h 0 49 ≠ 0 ∨ fget l 0 2 ≠ 0 then none
  else some
    { mode := if fget h 62 2 = 0 then .problem else if fget h 62 2 = 1 then .supervisor else .host,
      dat := bit h 61, io := bit h 60, ext := bit h 59, mc := bit h 58, wait := bit h 57, rso := bit h 56,
      key := BitVec.ofNat 4 (fget h 52 4), cc := BitVec.ofNat 2 (fget h 50 2), fom := bit h 49, ia := l }

/-- The PSW 16 bytes hold. -/
def Psw.ofBytes (b : List Byte) : Option Psw :=
  Psw.decode (BitVec.ofNat 64 (beNat (b.take 8))) (BitVec.ofNat 64 (beNat ((b.drop 8).take 8)))

/-- The 1 to 64 bits of an address below 2^64 as bits [lo + w - 1 : lo]. -/
def nbits (a lo w : Nat) : Nat := (a >>> lo) % 2 ^ w

/-- A list with the element at position i replaced. -/
def setAt {α : Type} : List α → Nat → α → List α
  | [], _, _ => []
  | _ :: r, 0, v => v :: r
  | a :: r, i + 1, v => a :: setAt r i v

/-- Numbers 0 to n - 1. -/
def upto (n : Nat) : List Nat := List.range n

/-- n bytes of a block from an offset on as a number. -/
def blkNat (b : List Byte) (off n : Nat) : Nat := beNat ((b.drop off).take n)

/-- The sectors that n bytes at a touch. -/
def sectorsOf (a n : Nat) : List Nat := (List.range ((a + n - 1) / 64 + 1 - a / 64)).map fun i => a / 64 + i

end Sys2Proof.Machine
end

