-- ==== Sys2Proof/Machine/Flags.lean ====
section
/-! DEFINITION. The condition-code schemes (R122) and the results they accompany (R121, R123 to R133). -/
namespace Sys2Proof.Machine
open Sys2Proof

/-- A computed result: the value written, the condition code if one is set, and whether CC 3 reports an overflow
subject to PSW.FOM (R123). -/
structure AluOut where
  val : Dword
  cc : Option (BitVec 2)
  ovf : Bool
  deriving DecidableEq, Repr

/-- CC of the signed scheme without overflow (R122). -/
def ccSign (i : Int) : BitVec 2 := if i = 0 then 0 else if i < 0 then 1 else 2

/-- The low w bits of an exact result, sign-extended to 64 (R121). -/
def narrowS (w : Nat) (i : Int) : Dword := (BitVec.ofInt w i).signExtend 64

/-- The low w bits of an exact result, zero-extended to 64 (R121). -/
def narrowZ (w : Nat) (i : Int) : Dword := (BitVec.ofInt w i).zeroExtend 64

/-- An exact signed result is outside the w-bit range. -/
def outOfRange (w : Nat) (i : Int) : Bool := decide (i < -(2 ^ (w - 1) : Int)) || decide ((2 ^ (w - 1) : Int) ≤ i)

/-- The signed scheme on the exact result of a w-bit operation (R122, R123). -/
def signedOut (w : Nat) (i : Int) : AluOut :=
  if outOfRange w i then ⟨narrowS w i, some 3, true⟩ else ⟨narrowS w i, some (ccSign i), false⟩

/-- The carry scheme (R122): n is the exact unsigned sum, below 2^(w+1). -/
def ccCarry (w n : Nat) : BitVec 2 :=
  if n % 2 ^ w = 0 then (if n < 2 ^ w then 0 else 2) else (if n < 2 ^ w then 1 else 3)

/-- The carry scheme on a w-bit operation, its result zero-extended (R121, R124). -/
def carryOut (w n : Nat) : AluOut := ⟨BitVec.ofNat 64 (n % 2 ^ w), some (ccCarry w n), false⟩

/-- The logical scheme (R122). -/
def logicalOut (v : Dword) : AluOut := ⟨v, some (if v = 0 then 0 else 1), false⟩

/-- A result that leaves the CC unchanged. -/
def plainOut (v : Dword) : AluOut := ⟨v, none, false⟩

/-- The compare scheme (R122). -/
def ccCompare (a b : Int) : BitVec 2 := if a = b then 0 else if a < b then 1 else 2

/-- s(x) and u(x) on w bits (R121). -/
def sval (w : Nat) (x : Dword) : Int := (BitVec.truncate w x).toInt

/-- u(x) on the low w bits. -/
def uval (w : Nat) (x : Dword) : Nat := (BitVec.truncate w x).toNat

end Sys2Proof.Machine
end

