-- ==== Sys2Proof/Machine/Operands.lean ====
section
/-! DEFINITION. The value functions of the integer, shift, multiply, divide and bit instructions (R124 to R131, R146 to
R150): each takes the operands as read (R120). -/
namespace Sys2Proof.Machine
open Sys2Proof

/-! ## Addition, subtraction, logic (R124 to R126) -/

def aluAdd (w : Nat) (b c : Dword) : AluOut := signedOut w (sval w b + sval w c)
def aluSub (w : Nat) (b c : Dword) : AluOut := signedOut w (sval w b - sval w c)
def aluAddL (w : Nat) (b c : Dword) : AluOut := carryOut w (uval w b + uval w c)
/-- gb + not(gc) + 1 (R124): carry means no borrow. -/
def aluSubL (w : Nat) (b c : Dword) : AluOut := carryOut w (uval w b + uval w (~~~ c) + 1)
def aluNeg (w : Nat) (b : Dword) : AluOut := signedOut w (0 - sval w b)
def aluNor (b c : Dword) : AluOut := logicalOut (~~~ (b ||| c))
def aluAndc (b c : Dword) : AluOut := logicalOut (b &&& ~~~ c)

/-- sext(imm, 14) (R95). -/
def simm (i : BitVec 14) : Dword := i.signExtend 64

/-- zext(imm, 14). -/
def zimm (i : BitVec 14) : Dword := i.zeroExtend 64

/-- LIS (R125). -/
def aluLis (b : Dword) (i : BitVec 14) : Dword := (b <<< 14) ||| zimm i

/-! ## Counting (R127) -/

/-- The number of 0 bits from bit i - 1 downward before the first 1 bit. -/
def clzFrom (v : Dword) : Nat → Nat
  | 0 => 0
  | i + 1 => if v.getLsbD i then 0 else clzFrom v i + 1

/-- CLZ: 64 when the operand is 0. -/
def clz (v : Dword) : Dword := BitVec.ofNat 64 (clzFrom v 64)

/-- The bits of v in reverse order within its w low bits. -/
def revBits (w : Nat) (v : Dword) : Dword :=
  (List.range w).foldl (fun acc i => if v.getLsbD (w - 1 - i) then acc ||| (1#64 <<< i) else acc) 0

/-- CTZ is the CLZ of the reversed operand (R181, bit count row). -/
def ctz (v : Dword) : Dword := clz (revBits 64 v)

/-- POPC. -/
def popc (v : Dword) : Dword := BitVec.ofNat 64 ((List.range 64).countP (fun i => v.getLsbD i))

/-! ## Shifts and rotates (R128): `w` is the form's width and `n` the amount, 0 to 127 -/

def shLeft (w : Nat) (v : Dword) (n : Nat) : Dword := narrowS w ((BitVec.truncate w v <<< n).toNat)
/-- SRLW zero-extends its result (R121). -/
def shRight (w : Nat) (v : Dword) (n : Nat) : Dword := narrowZ w ((BitVec.truncate w v >>> n).toNat)
/-- SRLWI sign-extends its result (R121). -/
def shRightS (v : Dword) (n : Nat) : Dword := narrowS 32 ((BitVec.truncate 32 v >>> n).toNat)
def shArith (w : Nat) (v : Dword) (n : Nat) : Dword := ((BitVec.truncate w v).sshiftRight n).signExtend 64
def rotLeft (w : Nat) (v : Dword) (n : Nat) : Dword := ((BitVec.truncate w v).rotateLeft (n % w)).signExtend 64
def rotRight (w : Nat) (v : Dword) (n : Nat) : Dword := ((BitVec.truncate w v).rotateRight (n % w)).signExtend 64

/-- The amount of a register shift: gc[6:0] (R128). -/
def shAmt (c : Dword) : Nat := c.toNat % 128

/-! ## Multiply and divide (R130, R131) -/

def aluMul (w : Nat) (b c : Dword) : AluOut := signedOut w (sval w b * sval w c)

/-- A pair of results, most significant (or quotient) first. -/
structure PairOut where
  hi : Dword
  lo : Dword
  cc : BitVec 2
  ovf : Bool
  deriving DecidableEq, Repr

/-- MULS (R130). -/
def mulSigned (b c : Dword) : PairOut :=
  let p : Int := b.toInt * c.toInt
  let v : BitVec 128 := BitVec.ofInt 128 p
  ⟨BitVec.truncate 64 (v >>> 64), BitVec.truncate 64 v, ccSign p, false⟩

/-- MULU (R130): the logical scheme on the 128-bit product. -/
def mulUnsigned (b c : Dword) : PairOut :=
  let p : Nat := b.toNat * c.toNat
  ⟨BitVec.ofNat 64 (p / 2 ^ 64), BitVec.ofNat 64 p, if p = 0 then 0 else 1, false⟩

/-- DIV and DIVW on w bits, or none for a zero divisor (R131, R132). -/
def divSigned (w : Nat) (b c : Dword) : Option PairOut :=
  let x := sval w b
  let y := sval w c
  if y = 0 then none
  else if x = -(2 ^ (w - 1) : Int) ∧ y = -1 then some ⟨narrowS w x, 0, 3, true⟩
  else
    let q := Int.tdiv x y
    some ⟨narrowS w q, narrowS w (x - q * y), ccSign q, false⟩

/-- DIVL and DIVLW on w bits, or none for a zero divisor (R131). -/
def divUnsigned (w : Nat) (b c : Dword) : Option PairOut :=
  let x := uval w b
  let y := uval w c
  if y = 0 then none
  else some ⟨BitVec.ofNat 64 (x / y), BitVec.ofNat 64 (x % y), if x / y = 0 then 0 else 1, false⟩

/-! ## CRCSTEP (R146, R147) -/

/-- The width of polynomial P. -/
def crcWidth (p : Fin 3) : Nat := if p.val = 2 then 64 else 32

/-- The normal form of polynomial P (R146). -/
def crcNormal (p : Fin 3) : Nat :=
  if p.val = 0 then 0x04C11DB7 else if p.val = 1 then 0x1EDC6F41 else 0x42F0E1EBA9EA3693

/-- The reflected form of polynomial P (R146). -/
def crcReflected (p : Fin 3) : Nat :=
  if p.val = 0 then 0xEDB88320 else if p.val = 1 then 0x82F63B78 else 0xC96C5795D7870F42

/-- One bit step of the normal form. -/
def crcBitN (n poly r : Nat) : Nat :=
  if r.testBit (n - 1) then ((r <<< 1) % 2 ^ n) ^^^ poly else (r <<< 1) % 2 ^ n

/-- One bit step of the reflected form. -/
def crcBitR (poly r : Nat) : Nat := if r.testBit 0 then (r >>> 1) ^^^ poly else r >>> 1

/-- A function applied n times. -/
def iter {α : Type} (f : α → α) : Nat → α → α
  | 0, x => x
  | n + 1, x => iter f n (f x)

/-- One data byte of CRCSTEP. -/
def crcByte (p : Fin 3) (refl : Bool) (r : Nat) (b : Byte) : Nat :=
  if refl then iter (crcBitR (crcReflected p)) 8 (r ^^^ b.toNat)
  else iter (crcBitN (crcWidth p) (crcNormal p)) 8 (r ^^^ (b.toNat <<< (crcWidth p - 8)))

/-- CRCSTEP: the new value of ga (R147). -/
def crcStep (p : Fin 3) (refl wide : Bool) (a b : Dword) : Dword :=
  let bytes := if wide then beBytes 8 b.toNat else beBytes 1 b.toNat
  BitVec.ofNat 64 (bytes.foldl (crcByte p refl) (a.toNat % 2 ^ crcWidth p))

/-! ## PARITY and BREV (R148, R149) -/

/-- The exclusive-or of w bits from bit lo. -/
def parityOf (v : Dword) (lo w : Nat) : Nat := (List.range w).countP (fun i => v.getLsbD (lo + i)) % 2

/-- The width of a field of PARITY and BREV: byte, word or doubleword. -/
def modeWidth (m : Fin 3) : Nat := if m.val = 0 then 8 else if m.val = 1 then 32 else 64

/-- PARITY: one bit for each field (R148). -/
def parityBits (m : Fin 3) (v : Dword) : Dword :=
  BitVec.ofNat 64 ((List.range (64 / modeWidth m)).foldl
    (fun acc k => acc + parityOf v (k * modeWidth m) (modeWidth m) * 2 ^ k) 0)

/-- BREV: the bits reversed within each field (R149). -/
def brevBits (m : Fin 3) (v : Dword) : Dword :=
  (List.range (64 / modeWidth m)).foldl
    (fun acc k => acc ||| (revBits (modeWidth m) (v >>> (k * modeWidth m)) <<< (k * modeWidth m))) 0

/-- BNDCHK: the value lies outside the bounds (R150). -/
def outOfBounds (uns : Bool) (a b c : Dword) : Bool :=
  if uns then decide (a.toNat < b.toNat) || decide (c.toNat < a.toNat)
  else decide (a.toInt < b.toInt) || decide (c.toInt < a.toInt)

end Sys2Proof.Machine
end

