-- ==== Sys2Proof/Machine/Crypto.lean ====
section
/-! DEFINITION. The algorithms of the cryptography engines that the spec fixes by standard (R417, R418, R422): AES (FIPS 197)
with its modes, GHASH, AES key wrap (RFC 3394), SHA-2 and SHA-3. Blocks are byte lists, the first byte first. -/
namespace Sys2Proof.Machine
open Sys2Proof

/-- The exclusive-or of two byte lists, to the shorter length. -/
def xorBytes (a b : List Byte) : List Byte := List.zipWith (· ^^^ ·) a b

/-- A list cut into pieces of n, the last possibly shorter; `fuel` bounds their number. -/
def chunks {α : Type} (n : Nat) : Nat → List α → List (List α)
  | 0, _ => []
  | fuel + 1, l => if l.isEmpty then [] else l.take n :: chunks n fuel (l.drop n)

/-- All pieces of n. -/
def chunked {α : Type} (n : Nat) (l : List α) : List (List α) := chunks n (l.length / n + 1) l

/-- n bytes: a list cut or padded with zeros on the right. -/
def padTo (n : Nat) (l : List Byte) : List Byte := l.take n ++ List.replicate (n - l.length) 0

/-! ## AES (FIPS 197) -/

/-- Multiplication by x in GF(2^8). -/
def xtime (a : Nat) : Nat := if 128 ≤ a then (2 * a) % 256 ^^^ 0x1B else 2 * a

/-- Multiplication in GF(2^8). -/
def gmul (a b : Nat) : Nat :=
  ((List.range 8).foldl (fun (r : Nat × Nat) i => (if b.testBit i then r.1 ^^^ r.2 else r.1, xtime r.2)) (0, a)).1

/-- The multiplicative inverse, a to the power 254. -/
def ginv (a : Nat) : Nat :=
  let a2 := gmul a a
  let a3 := gmul a2 a
  let a6 := gmul a3 a3
  let a12 := gmul a6 a6
  let a15 := gmul a12 a3
  let a30 := gmul a15 a15
  let a60 := gmul a30 a30
  let a120 := gmul a60 a60
  let a126 := gmul a120 a6
  let a127 := gmul a126 a
  gmul a127 a127

/-- The S-box. -/
def sbox (a : Nat) : Nat :=
  let b := ginv a
  let rot (n : Nat) : Nat := (b * 2 ^ n) % 256 + b * 2 ^ n / 256
  b ^^^ rot 1 ^^^ rot 2 ^^^ rot 3 ^^^ rot 4 ^^^ 0x63

/-- The inverse S-box. -/
def sboxInv (a : Nat) : Nat :=
  let rot (n : Nat) : Nat := (a * 2 ^ n) % 256 + a * 2 ^ n / 256
  ginv (rot 1 ^^^ rot 3 ^^^ rot 6 ^^^ 5)

/-- A word of four bytes through the S-box. -/
def subWord (w : List Nat) : List Nat := w.map sbox

/-- The expanded key as words of four bytes, latest first; `i` counts from nk. -/
def expandKey (nk : Nat) : Nat → Nat → Nat → List (List Nat) → List (List Nat)
  | 0, _, _, ws => ws
  | n + 1, i, rcon, ws =>
    let t := ws.headD []
    let t1 := if i % nk = 0 then match subWord (t.drop 1 ++ t.take 1) with
        | a :: r => (a ^^^ rcon) :: r
        | [] => []
      else if 6 < nk ∧ i % nk = 4 then subWord t
      else t
    let w := List.zipWith (· ^^^ ·) (ws.getD (nk - 1) []) t1
    expandKey nk n (i + 1) (if i % nk = 0 then xtime rcon else rcon) (w :: ws)

/-- The round keys of a key of 16 or 32 bytes, 16 bytes each, the first first. -/
def roundKeys (key : List Byte) : List (List Nat) :=
  let nk := key.length / 4
  let ws := (chunked 4 (key.map BitVec.toNat)).reverse
  (chunked 4 (expandKey nk (4 * (nk + 7) - nk) nk 1 ws).reverse).map fun k => k.flatten

def mixColumn (c : List Nat) : List Nat :=
  (List.range 4).map fun i =>
    gmul 2 (c.getD i 0) ^^^ gmul 3 (c.getD ((i + 1) % 4) 0) ^^^ c.getD ((i + 2) % 4) 0 ^^^ c.getD ((i + 3) % 4) 0

def unmixColumn (c : List Nat) : List Nat :=
  (List.range 4).map fun i =>
    gmul 14 (c.getD i 0) ^^^ gmul 11 (c.getD ((i + 1) % 4) 0) ^^^ gmul 13 (c.getD ((i + 2) % 4) 0) ^^^ gmul 9 (c.getD ((i + 3) % 4) 0)

/-- ShiftRows on a state held column by column. -/
def shiftRows (s : List Nat) : List Nat := (List.range 16).map fun i => s.getD ((i + 4 * (i % 4)) % 16) 0
def unshiftRows (s : List Nat) : List Nat := (List.range 16).map fun i => s.getD ((i + 16 - 4 * (i % 4)) % 16) 0

def xorNats (a b : List Nat) : List Nat := List.zipWith (· ^^^ ·) a b

/-- One block enciphered. -/
def aesEnc (key block : List Byte) : List Byte :=
  match roundKeys key with
  | [] => block
  | k0 :: ks =>
    let s0 := xorNats (block.map BitVec.toNat) k0
    let s1 := ks.dropLast.foldl (fun s k => xorNats ((chunked 4 (shiftRows (s.map sbox))).flatMap mixColumn) k) s0
    (xorNats (shiftRows (s1.map sbox)) (ks.getLastD [])).map (BitVec.ofNat 8)

/-- One block deciphered. -/
def aesDec (key block : List Byte) : List Byte :=
  match roundKeys key with
  | [] => block
  | k0 :: ks =>
    let s0 := (unshiftRows (xorNats (block.map BitVec.toNat) (ks.getLastD []))).map sboxInv
    let s1 := ks.dropLast.reverse.foldl (fun s k => (unshiftRows ((chunked 4 (xorNats s k)).flatMap unmixColumn)).map sboxInv) s0
    (xorNats s1 k0).map (BitVec.ofNat 8)

/-! ## Modes (R418) -/

/-- CBC over whole blocks: output and the last ciphertext block. -/
def cbcEnc (key : List Byte) : List (List Byte) → List Byte → List Byte × List Byte
  | [], iv => ([], iv)
  | b :: r, iv =>
    let c := aesEnc key (xorBytes b iv)
    let t := cbcEnc key r c
    (c ++ t.1, t.2)

def cbcDec (key : List Byte) : List (List Byte) → List Byte → List Byte × List Byte
  | [], iv => ([], iv)
  | b :: r, iv =>
    let t := cbcDec key r b
    (xorBytes (aesDec key b) iv ++ t.1, t.2)

/-- The counter block after a CTR block: modulo 2^128. -/
def ctrNext (c : List Byte) : List Byte := beBytes 16 ((beNat c + 1) % 2 ^ 128)

/-- The counter block of GCM: its low 32 bits count modulo 2^32. -/
def gcmNext (c : List Byte) : List Byte := c.take 12 ++ beBytes 4 ((beNat (c.drop 12) + 1) % 2 ^ 32)

/-- Key stream over blocks with a rule for the next counter block; the last block may be short. -/
def ctrRun (next : List Byte → List Byte) (key : List Byte) : List (List Byte) → List Byte → List Byte × List Byte
  | [], c => ([], c)
  | b :: r, c =>
    let t := ctrRun next key r (next c)
    (xorBytes b (aesEnc key c) ++ t.1, t.2)

/-- Multiplication in GF(2^128) of GCM: bit 0 is the most significant. -/
def ghashMul (x h : Nat) : Nat :=
  ((List.range 128).foldl (fun (r : Nat × Nat) i =>
    (if x.testBit (127 - i) then r.1 ^^^ r.2 else r.1,
     if r.2.testBit 0 then (r.2 >>> 1) ^^^ (0xE1 * 2 ^ 120) else r.2 >>> 1)) (0, h)).1

/-- GHASH over blocks, short ones padded with zeros. -/
def ghash (h : Nat) (blocks : List (List Byte)) (y : Nat) : Nat :=
  blocks.foldl (fun y b => ghashMul (y ^^^ beNat (padTo 16 b)) h) y

/-- Multiplication of an XTS tweak by α: little-endian bytes. -/
def xtsNext (t : List Byte) : List Byte :=
  let v := beNat t.reverse
  (beBytes 16 ((2 * v) % 2 ^ 128 ^^^ (if 2 ^ 127 ≤ v then 0x87 else 0))).reverse

/-- One XTS block under a tweak. -/
def xtsBlock (dec : Bool) (key t b : List Byte) : List Byte :=
  xorBytes (if dec then aesDec key (xorBytes b t) else aesEnc key (xorBytes b t)) t

/-- XTS over whole blocks: output and the next tweak. -/
def xtsRun (dec : Bool) (key : List Byte) : List (List Byte) → List Byte → List Byte × List Byte
  | [], t => ([], t)
  | b :: r, t =>
    let u := xtsRun dec key r (xtsNext t)
    (xtsBlock dec key t b ++ u.1, u.2)

/-- The last whole block and the partial block after it, with ciphertext stealing. -/
def xtsSteal (dec : Bool) (key t last part : List Byte) : List Byte :=
  let t2 := xtsNext t
  let c := xtsBlock dec key (if dec then t2 else t) last
  let d := xtsBlock dec key (if dec then t else t2) (part ++ c.drop part.length)
  d ++ c.take part.length

/-! ## AES key wrap (RFC 3394) -/

def kwIv : List Byte := List.replicate 8 0xA6

/-- One pass of wrapping over the registers; t counts up. -/
def kwPass (kek : List Byte) : List (List Byte) → Nat → List Byte → List (List Byte) × Nat × List Byte
  | [], t, a => ([], t, a)
  | r :: rs, t, a =>
    let b := aesEnc kek (a ++ r)
    let rest := kwPass kek rs (t + 1) (xorBytes (b.take 8) (beBytes 8 t))
    (b.drop 8 :: rest.1, rest.2)

def keyWrap (kek data : List Byte) : List Byte :=
  let r := (List.range 6).foldl (fun (x : List (List Byte) × Nat × List Byte) _ => kwPass kek x.1 x.2.1 x.2.2) (chunked 8 data, 1, kwIv)
  r.2.2 ++ r.1.flatten

/-- One pass of unwrapping over the registers, last first; t counts down. -/
def kwUnpass (kek : List Byte) : List (List Byte) → Nat → List Byte → List (List Byte) × Nat × List Byte
  | [], t, a => ([], t, a)
  | r :: rs, t, a =>
    let b := aesDec kek (xorBytes a (beBytes 8 t) ++ r)
    let rest := kwUnpass kek rs (t - 1) (b.take 8)
    (b.drop 8 :: rest.1, rest.2)

/-- The key, or none where the integrity check fails. -/
def keyUnwrap (kek data : List Byte) : Option (List Byte) :=
  let rs := (chunked 8 (data.drop 8)).reverse
  let r := (List.range 6).foldl (fun (x : List (List Byte) × Nat × List Byte) _ => kwUnpass kek x.1 x.2.1 x.2.2) (rs, 6 * rs.length, data.take 8)
  if r.2.2 = kwIv then some r.1.reverse.flatten else none

/-! ## SHA-2 (FIPS 180-4) -/

/-- The first n primes, found by trial division. -/
def isPrime (n : Nat) : Bool := decide (2 ≤ n) && (List.range n).all fun d => decide (d < 2) || decide (n % d ≠ 0)
def primes80 : List Nat := (List.range 410).filter isPrime

/-- The integer k-th root by bisection over `fuel` bits. -/
def rootBits (k n : Nat) : Nat → Nat → Nat
  | 0, r => r
  | i + 1, r => rootBits k n i (if (r + 2 ^ i) ^ k ≤ n then r + 2 ^ i else r)

/-- The first w bits of the fraction of the square or cube root of p. -/
def fracRoot (k w p : Nat) : Nat := rootBits k (p * 2 ^ (k * w)) (w + 6) 0 % 2 ^ w

/-- The word width and the number of rounds: SHA-256 and SHA-512 families. -/
def shaW (big : Bool) : Nat := if big then 64 else 32
def shaRounds (big : Bool) : Nat := if big then 80 else 64

def shaK (big : Bool) : List Nat := (primes80.take (shaRounds big)).map (fracRoot 3 (shaW big))

/-- Initial hash values: variants 1 to 4 are SHA-224, 256, 384, 512. -/
def shaInit (variant : Nat) : List Nat :=
  if variant = 1 then ((primes80.drop 8).take 8).map fun p => fracRoot 2 64 p % 2 ^ 32
  else if variant = 2 then (primes80.take 8).map (fracRoot 2 32)
  else if variant = 3 then ((primes80.drop 8).take 8).map (fracRoot 2 64)
  else (primes80.take 8).map (fracRoot 2 64)

def rotr (w x n : Nat) : Nat := x / 2 ^ n + (x * 2 ^ (w - n)) % 2 ^ w

def shaSchedule (big : Bool) : Nat → List Nat → List Nat
  | 0, ws => ws
  | n + 1, ws =>
    let w := shaW big
    let a := ws.getD 14 0
    let b := ws.getD 1 0
    let s0 := if big then rotr w a 1 ^^^ rotr w a 8 ^^^ a >>> 7 else rotr w a 7 ^^^ rotr w a 18 ^^^ a >>> 3
    let s1 := if big then rotr w b 19 ^^^ rotr w b 61 ^^^ b >>> 6 else rotr w b 17 ^^^ rotr w b 19 ^^^ b >>> 10
    shaSchedule big n ((s1 + ws.getD 6 0 + s0 + ws.getD 15 0) % 2 ^ w :: ws)

def shaRound (big : Bool) (v : List Nat) (kw : Nat) : List Nat :=
  let w := shaW big
  match v with
  | [a, b, c, d, e, f, g, h] =>
    let s1 := if big then rotr w e 14 ^^^ rotr w e 18 ^^^ rotr w e 41 else rotr w e 6 ^^^ rotr w e 11 ^^^ rotr w e 25
    let s0 := if big then rotr w a 28 ^^^ rotr w a 34 ^^^ rotr w a 39 else rotr w a 2 ^^^ rotr w a 13 ^^^ rotr w a 22
    let t1 := h + s1 + ((e &&& f) ^^^ ((2 ^ w - 1 - e) &&& g)) + kw
    let t2 := s0 + ((a &&& b) ^^^ (a &&& c) ^^^ (b &&& c))
    [(t1 + t2) % 2 ^ w, a, b, c, (d + t1) % 2 ^ w, e, f, g]
  | _ => v

/-- One input block compressed into the chaining value. -/
def shaBlock (big : Bool) (h : List Nat) (block : List Byte) : List Nat :=
  let n := shaW big / 8
  let ws := (shaSchedule big (shaRounds big - 16) ((chunked n block).map beNat).reverse).reverse
  let v := (List.zipWith (· + ·) (shaK big) ws).foldl (shaRound big) h
  List.zipWith (fun a b => (a + b) % 2 ^ shaW big) h v

/-- The padding after a message of n bytes. -/
def shaPad (big : Bool) (n : Nat) : List Byte :=
  let blk := if big then 128 else 64
  let len := if big then 16 else 8
  [0x80] ++ List.replicate ((2 * blk - 1 - len - n % blk) % blk) 0 ++ beBytes len (8 * n)

/-! ## SHA-3 and SHAKE (FIPS 202) -/

/-- The round constants, from the linear feedback shift register of FIPS 202. -/
def keccakRc (round : Nat) : Nat :=
  let step (r : Nat) : Nat := let x := 2 * r; if 256 ≤ x then (x - 256) ^^^ 0x71 else x
  let bitAt (t : Nat) : Bool := ((List.range (t % 255)).foldl (fun r _ => step r) 1).testBit 0
  (List.range 7).foldl (fun c j => if bitAt (j + 7 * round) then c + 2 ^ (2 ^ j - 1) else c) 0

def rotl64 (x n : Nat) : Nat := if n % 64 = 0 then x else (x * 2 ^ (n % 64)) % 2 ^ 64 + x / 2 ^ (64 - n % 64)

/-- Rotation offsets of ρ, lane x + 5y. -/
def rhoOff : List Nat := [0, 1, 62, 28, 27, 36, 44, 6, 55, 20, 3, 10, 43, 25, 39, 41, 45, 15, 21, 8, 18, 2, 61, 56, 14]

def keccakRound (a : List Nat) (rc : Nat) : List Nat :=
  let at_ (l : List Nat) (i : Nat) : Nat := l.getD i 0
  let c := (List.range 5).map fun x => at_ a x ^^^ at_ a (x + 5) ^^^ at_ a (x + 10) ^^^ at_ a (x + 15) ^^^ at_ a (x + 20)
  let d := (List.range 5).map fun x => at_ c ((x + 4) % 5) ^^^ rotl64 (at_ c ((x + 1) % 5)) 1
  let t := (List.range 25).map fun i => at_ a i ^^^ at_ d (i % 5)
  let b := (List.range 25).map fun i =>
    let x := i % 5
    let y := i / 5
    let sx := (x + 3 * y) % 5
    rotl64 (at_ t (sx + 5 * x)) (rhoOff.getD (sx + 5 * x) 0)
  let e := (List.range 25).map fun i =>
    let y := i / 5 * 5
    at_ b i ^^^ ((2 ^ 64 - 1 - at_ b (y + (i + 1) % 5)) &&& at_ b (y + (i + 2) % 5))
  match e with
  | x :: r => (x ^^^ rc) :: r
  | [] => []

def keccakF (a : List Nat) : List Nat := (List.range 24).foldl (fun s i => keccakRound s (keccakRc i)) a

/-- The bytes of a state and back: lanes are little-endian. -/
def lanes (b : List Byte) : List Nat := (chunked 8 b).map fun l => beNat l.reverse
def laneBytes (a : List Nat) : List Byte := a.flatMap fun x => (beBytes 8 x).reverse

/-- A block of the rate absorbed. -/
def keccakAbsorb (state block : List Byte) : List Byte := laneBytes (keccakF (lanes (xorBytes state (padTo 200 block))))

/-- n bytes squeezed. -/
def keccakSqueeze (rate : Nat) : Nat → Nat → List Byte → List Byte
  | 0, _, _ => []
  | fuel + 1, n, state =>
    if n ≤ rate then state.take n else state.take rate ++ keccakSqueeze rate fuel (n - rate) (laneBytes (keccakF (lanes state)))

/-! ## HASH by VARIANT (R417, R418) -/

def hashVariants : List Nat := [1, 2, 3, 4, 0x11, 0x12, 0x13, 0x14, 0x21, 0x22]
def isSha3 (v : Nat) : Bool := decide (0x10 ≤ v)

/-- The input block of a hash. -/
def hashBlock (v : Nat) : Nat :=
  if v = 1 ∨ v = 2 then 64 else if v = 3 ∨ v = 4 then 128 else if v = 0x11 then 144 else if v = 0x12 ∨ v = 0x22 then 136
  else if v = 0x13 then 104 else if v = 0x14 then 72 else 168

/-- The digest length; SHAKE output takes the length asked for. -/
def hashLen (v asked : Nat) : Nat :=
  if v = 1 ∨ v = 0x11 then 28 else if v = 2 ∨ v = 0x12 then 32 else if v = 3 ∨ v = 0x13 then 48 else if v = 4 ∨ v = 0x14 then 64 else asked

/-- The chaining state as bytes. -/
def hashInit (v : Nat) : List Byte :=
  if isSha3 v then List.replicate 200 0 else (shaInit v).flatMap (beBytes (shaW (decide (3 ≤ v)) / 8))

/-- One whole block absorbed. -/
def hashUnit (v : Nat) (state block : List Byte) : List Byte :=
  if isSha3 v then keccakAbsorb state block
  else
    let big := decide (3 ≤ v)
    let n := shaW big / 8
    (shaBlock big ((chunked n state).map beNat) block).flatMap (beBytes n)

/-- The digest after the last bytes `tail` (shorter than a block) of a message of `total` bytes. -/
def hashFinish (v asked total : Nat) (state tail : List Byte) : List Byte :=
  let n := hashLen v asked
  if isSha3 v then
    let rate := hashBlock v
    let suffix : Byte := if 0x20 ≤ v then 0x1F else 0x06
    let p := padTo (rate - 1) (tail ++ [suffix])
    let last := if tail.length + 1 = rate then tail ++ [suffix ||| 0x80] else p ++ [0x80]
    keccakSqueeze rate (n / rate + 1) n (keccakAbsorb state last)
  else ((chunked (hashBlock v) (tail ++ shaPad (decide (3 ≤ v)) total)).foldl (hashUnit v) state).take n

/-- A whole message hashed. -/
def hashAll (v asked : Nat) (msg : List Byte) : List Byte :=
  let blk := hashBlock v
  let whole := msg.length / blk * blk
  hashFinish v asked msg.length ((chunked blk (msg.take whole)).foldl (hashUnit v) (hashInit v)) (msg.drop whole)

end Sys2Proof.Machine
end

