-- ==== Sys2Proof/Machine/Curve.lean ====
section
/-! DEFINITION. Elliptic-curve signatures of slot 2 (R419): ECDSA on P-256 and P-384 and Ed25519, as FIPS 186-5 gives them.
A random integer comes from its random bytes by FIPS 186-5 A.2.1 and A.3.1 (PRESUMED, log entry 16). -/
namespace Sys2Proof.Machine
open Sys2Proof

/-- Whether the n low bits of e are set, the highest first. -/
def bitsDown (n e : Nat) : List Bool := (List.range n).reverse.map e.testBit

/-- b to the power e modulo m, for e below 2^521. -/
def powMod (b e m : Nat) : Nat := (bitsDown 521 e).foldl (fun r i => if i then r * r % m * b % m else r * r % m) 1

/-- The inverse modulo a prime. -/
def invMod (a m : Nat) : Nat := powMod a (m - 2) m

/-- The difference modulo m. -/
def subMod (a b m : Nat) : Nat := (a + (m - b % m)) % m

/-! ## ECDSA (FIPS 186-5, 6) -/

/-- A curve y² = x³ − 3x + b over the integers modulo p, its base point of order n, and the bytes of an element. -/
structure Curve where
  p : Nat
  b : Nat
  gx : Nat
  gy : Nat
  n : Nat
  len : Nat

def curveP256 : Curve :=
  { p := 2 ^ 256 - 2 ^ 224 + 2 ^ 192 + 2 ^ 96 - 1, b := 0x5AC635D8AA3A93E7B3EBBD55769886BC651D06B0CC53B0F63BCE3C3E27D2604B,
    gx := 0x6B17D1F2E12C4247F8BCE6E563A440F277037D812DEB33A0F4A13945D898C296,
    gy := 0x4FE342E2FE1A7F9B8EE7EB4A7C0F9E162BCE33576B315ECECBB6406837BF51F5,
    n := 0xFFFFFFFF00000000FFFFFFFFFFFFFFFFBCE6FAADA7179E84F3B9CAC2FC632551, len := 32 }

def curveP384 : Curve :=
  { p := 2 ^ 384 - 2 ^ 128 - 2 ^ 96 + 2 ^ 32 - 1,
    b := 0xB3312FA7E23EE7E4988E056BE3F82D19181D9C6EFE8141120314088F5013875AC656398D8A2ED19D2A85C8EDD3EC2AEF,
    gx := 0xAA87CA22BE8B05378EB1C71EF320AD746E1D3B628BA79B9859F741E082542A385502F25DBF55296C3A545E3872760AB7,
    gy := 0x3617DE4A96262C6F5D9E98BF9292DC29F8F41DBD289A147CE9DA3113B5F0B8C00A60B1CE1D7E819D7A431D7C90EA0E5F,
    n := 0xFFFFFFFFFFFFFFFFFFFFFFFFFFFFFFFFFFFFFFFFFFFFFFFFC7634D81F4372DDF581A0DB248B0A77AECEC196ACCC52973, len := 48 }

/-- A point: none is the point at infinity. -/
abbrev Point := Option (Nat × Nat)

def Curve.on (c : Curve) (x y : Nat) : Bool :=
  decide (x < c.p) && decide (y < c.p) && y * y % c.p == (x * x * x + (c.p - 3) * x + c.b) % c.p

/-- The third point of a line of slope l through (x1, y1) and a point of abscissa x2, negated. -/
def Curve.third (c : Curve) (l x1 y1 x2 : Nat) : Point :=
  let x := subMod (l * l) (x1 + x2) c.p
  some (x, subMod (l * subMod x1 x c.p) y1 c.p)

def Curve.add (c : Curve) (a b : Point) : Point :=
  match a, b with
  | none, q => q
  | q, none => q
  | some (x1, y1), some (x2, y2) =>
    if x1 = x2 then
      (if (y1 + y2) % c.p = 0 then none else c.third ((3 * x1 * x1 + (c.p - 3)) * invMod (2 * y1) c.p % c.p) x1 y1 x2)
    else c.third (subMod y2 y1 c.p * invMod (subMod x2 x1 c.p) c.p % c.p) x1 y1 x2

/-- k times a point, for k below 2^(8 len). -/
def Curve.mul (c : Curve) (k : Nat) (q : Point) : Point :=
  (bitsDown (8 * c.len) k).foldl (fun r i => if i then c.add (c.add r r) q else c.add r r) none

def Curve.base (c : Curve) : Point := some (c.gx, c.gy)

/-- An integer from 1 to n − 1 out of random bytes. -/
def Curve.draw (c : Curve) (r : List Byte) : Nat := beNat r % (c.n - 1) + 1

/-- The random bytes it takes: 64 bits more than n has. -/
def Curve.rndLen (c : Curve) : Nat := c.len + 8

def Curve.point (c : Curve) (q : Point) : List Byte :=
  match q with
  | some (x, y) => beBytes c.len x ++ beBytes c.len y
  | none => List.replicate (2 * c.len) 0

/-- The key pair of private key d. -/
def Curve.keys (c : Curve) (d : Nat) : List Byte × List Byte := (c.point (c.mul d c.base), beBytes c.len d)

/-- The integer of a digest: its leftmost bits, as many as n has. -/
def Curve.digest (c : Curve) (h : List Byte) : Nat := beNat (h.take c.len)

/-- The signature of a digest under d with per-message number k; none where r or s is 0. -/
def Curve.sign (c : Curve) (d k : Nat) (h : List Byte) : Option (List Byte) :=
  match c.mul k c.base with
  | none => none
  | some (x, _) =>
    let r := x % c.n
    let s := invMod k c.n * (c.digest h + r * d) % c.n
    if r = 0 ∨ s = 0 then none else some (beBytes c.len r ++ beBytes c.len s)

/-- Whether a signature of a digest is valid under a public key. -/
def Curve.verify (c : Curve) (h key sig : List Byte) : Bool :=
  let x := beNat (key.take c.len)
  let y := beNat (key.drop c.len)
  let r := beNat (sig.take c.len)
  let s := beNat (sig.drop c.len)
  let w := invMod s c.n
  c.on x y && decide (0 < r) && decide (r < c.n) && decide (0 < s) && decide (s < c.n) &&
    match c.add (c.mul (c.digest h * w % c.n) c.base) (c.mul (r * w % c.n) (some (x, y))) with
    | some (v, _) => v % c.n == r
    | none => false

/-! ## Ed25519 (FIPS 186-5, 7) -/

def edP : Nat := 2 ^ 255 - 19
def edL : Nat := 2 ^ 252 + 27742317777372353535851937790883648493
def edD : Nat := (edP - 121665) * invMod 121666 edP % edP

/-- A point by its coordinates; (0, 1) is the neutral one. -/
abbrev EdPoint := Nat × Nat

def edAdd (a b : EdPoint) : EdPoint :=
  let t := edD * (a.1 * b.1 % edP * (a.2 * b.2 % edP) % edP) % edP
  ((a.1 * b.2 + b.1 * a.2) % edP * invMod (1 + t) edP % edP, (a.2 * b.2 + a.1 * b.1) % edP * invMod (subMod 1 t edP) edP % edP)

def edMul (k : Nat) (q : EdPoint) : EdPoint :=
  (bitsDown 256 k).foldl (fun r i => if i then edAdd (edAdd r r) q else edAdd r r) (0, 1)

/-- Integers as 32 bytes, the least significant first. -/
def leNat (b : List Byte) : Nat := beNat b.reverse
def leBytes (n k : Nat) : List Byte := (beBytes n k).reverse

/-- The point of 32 bytes: y, with the parity of x in the top bit; none where they stand for no point. -/
def edDecode (b : List Byte) : Option EdPoint :=
  let v := leNat b
  let y := v % 2 ^ 255
  let u := subMod (y * y) 1 edP
  let w := (edD * (y * y % edP) + 1) % edP
  let x0 := u * powMod w 3 edP % edP * powMod (u * powMod w 7 edP % edP) ((edP - 5) / 8) edP % edP
  let x := if w * (x0 * x0 % edP) % edP = u then some x0
    else if w * (x0 * x0 % edP) % edP = (edP - u) % edP then some (x0 * powMod 2 ((edP - 1) / 4) edP % edP) else none
  match x with
  | some x => if edP ≤ y ∨ (x = 0 ∧ v / 2 ^ 255 = 1) then none else some (if x % 2 = v / 2 ^ 255 then x else edP - x, y)
  | none => none

def edEncode (q : EdPoint) : List Byte := leBytes 32 (q.2 + q.1 % 2 * 2 ^ 255)

/-- The base point: y is 4/5 and x is even. -/
def edBase : EdPoint := (edDecode (leBytes 32 (4 * invMod 5 edP % edP))).getD (0, 1)

/-- The integer of bytes hashed with SHA-512, modulo the order. -/
def edHash (m : List Byte) : Nat := leNat (hashAll 4 64 m) % edL

/-- The secret integer of a private key. -/
def edSecret (k : List Byte) : Nat :=
  let h := leNat ((hashAll 4 64 k).take 32)
  2 ^ 254 + h % 2 ^ 254 / 8 * 8

def edPublic (k : List Byte) : List Byte := edEncode (edMul (edSecret k) edBase)

def edSign (k m : List Byte) : List Byte :=
  let r := edHash ((hashAll 4 64 k).drop 32 ++ m)
  let rb := edEncode (edMul r edBase)
  rb ++ leBytes 32 ((r + edHash (rb ++ edPublic k ++ m) * edSecret k) % edL)

/-- Whether a signature is valid: the equation multiplied by the cofactor 8. -/
def edVerify (m key sig : List Byte) : Bool :=
  let s := leNat (sig.drop 32)
  match edDecode key, edDecode (sig.take 32) with
  | some a, some r => decide (s < edL) &&
      decide (edMul 8 (edMul s edBase) = edMul 8 (edAdd r (edMul (edHash (sig.take 32 ++ key ++ m)) a)))
  | _, _ => false

end Sys2Proof.Machine
end

