-- ==== Sys2Proof/Machine/Lattice.lean ====
section
/-! DEFINITION. ML-KEM (FIPS 203) and ML-DSA (FIPS 204) of slot 2 (R419; log entry 16). A polynomial is the list of its 256
coefficients modulo q. The rejection samplers stop after the number of bytes that the standards allow as a limit. -/
namespace Sys2Proof.Machine
open Sys2Proof

/-! ## Bits and polynomials -/

/-- The integer of bits, the least significant first. -/
def natOfBits (l : List Bool) : Nat := l.foldr (fun b r => 2 * r + b.toNat) 0

/-- The bits of bytes, and of integers of d bits, the least significant first. -/
def allBits (b : List Byte) : List Bool := b.flatMap fun x => (List.range 8).map x.getLsbD
def polyPack (d : Nat) (l : List Nat) : List Byte :=
  (chunked 8 (l.flatMap fun x => (List.range d).map x.testBit)).map fun c => BitVec.ofNat 8 (natOfBits c)
def polyUnpack (d : Nat) (b : List Byte) : List Nat := (chunked d (allBits b)).map natOfBits

/-- n bytes of SHAKE output. -/
def shake128 (n : Nat) (m : List Byte) : List Byte := hashAll 0x21 n m
def shake256 (n : Nat) (m : List Byte) : List Byte := hashAll 0x22 n m

/-- The number of n bits reversed. -/
def bitRev (n i : Nat) : Nat := (List.range n).foldl (fun r k => 2 * r + i / 2 ^ k % 2) 0

/-- b to the power e modulo m, for e below 2^24. -/
def smallPow (b e m : Nat) : Nat := (List.range 24).reverse.foldl (fun r i => if e.testBit i then r * r % m * b % m else r * r % m) 1

/-- The value at x of a polynomial, lowest coefficient first, modulo m. -/
def polyAt (x m : Nat) (l : List Nat) : Nat := l.foldr (fun c r => (r * x + c) % m) 0

def polyAdd (q : Nat) (a b : List Nat) : List Nat := List.zipWith (fun x y => (x + y) % q) a b
def polySub (q : Nat) (a b : List Nat) : List Nat := List.zipWith (fun x y => (x + q - y) % q) a b

def polyZero : List Nat := List.replicate 256 0

/-- The representative of a residue in −(q − 1)/2 to (q − 1)/2. -/
def centred (q x : Nat) : Int := if q / 2 < x then (x : Int) - q else x

/-- The even and the odd elements of a list. -/
def evens : List Nat → List Nat
  | [] => []
  | [x] => [x]
  | x :: _ :: r => x :: evens r
def odds (l : List Nat) : List Nat := evens (l.drop 1)
def interleave : List Nat → List Nat → List Nat
  | x :: a, y :: b => x :: y :: interleave a b
  | _, _ => []

/-! ## ML-KEM (FIPS 203) -/

def kemQ : Nat := 3329

/-- The parameters: k, du and dv. -/
def kemK (a : Nat) : Nat := if a = 0x11 then 3 else 4
def kemDu (a : Nat) : Nat := if a = 0x11 then 10 else 11
def kemDv (a : Nat) : Nat := if a = 0x11 then 4 else 5

/-- The residues that a transform is taken at: 17 to the odd powers, in bit-reversed order. -/
def kemRoots : List Nat := (List.range 128).map fun i => smallPow 17 (2 * bitRev 7 i + 1) kemQ

/-- The transform: the residues modulo X² − γ, for each γ. -/
def kemNtt (f : List Nat) : List Nat :=
  let e := evens f
  let o := odds f
  interleave (kemRoots.map fun g => polyAt g kemQ e) (kemRoots.map fun g => polyAt g kemQ o)

/-- Its inverse: 3303 is the inverse of 128. -/
def kemInv (f : List Nat) : List Nat :=
  let inv := kemRoots.map fun g => smallPow g (kemQ - 2) kemQ
  let half (l : List Nat) : List Nat := ((List.range 128).foldl (fun (x : List Nat × List Nat) _ =>
      (3303 * (x.2.foldl (· + ·) 0) % kemQ :: x.1, List.zipWith (fun a b => a * b % kemQ) x.2 inv)) ([], l)).1.reverse
  interleave (half (evens f)) (half (odds f))

/-- The product of transforms. -/
def kemMul (a b : List Nat) : List Nat :=
  let ae := evens a
  let ao := odds a
  let be := evens b
  let bo := odds b
  let prod (x y : List Nat) : List Nat := List.zipWith (· * ·) x y
  interleave (List.zipWith (fun x y => (x + y) % kemQ) (prod ae be) (List.zipWith (fun x g => x % kemQ * g) (prod ao bo) kemRoots))
    (List.zipWith (fun x y => (x + y) % kemQ) (prod ae bo) (prod ao be))

def kemDot (a b : List (List Nat)) : List Nat := (List.zipWith kemMul a b).foldl (polyAdd kemQ) polyZero

/-- The residues below q among the 12-bit integers of bytes. -/
def kemSample (b : List Byte) : List Nat :=
  let l := ((polyUnpack 12 b).filter fun x => decide (x < kemQ)).take 256
  l ++ List.replicate (256 - l.length) 0

/-- Entry (i, j) of the matrix of seed ρ. -/
def kemEntry (rho : List Byte) (i j : Nat) : List Nat := kemSample (shake128 840 (rho ++ [BitVec.ofNat 8 j, BitVec.ofNat 8 i]))

/-- The centred binomial distribution with η = 2. -/
def kemCbd (b : List Byte) : List Nat :=
  (chunked 4 (allBits b)).map fun c => match c with
    | [w, x, y, z] => (w.toNat + x.toNat + kemQ - y.toNat - z.toNat) % kemQ
    | _ => 0

/-- Polynomials n to n + k − 1 drawn from a seed. -/
def kemNoise (seed : List Byte) (n k : Nat) : List (List Nat) :=
  (List.range k).map fun i => kemCbd (shake256 128 (seed ++ [BitVec.ofNat 8 (n + i)]))

def kemCompress (d : Nat) (l : List Nat) : List Nat := l.map fun x => (2 * 2 ^ d * x + kemQ) / (2 * kemQ) % 2 ^ d
def kemExpand (d : Nat) (l : List Nat) : List Nat := l.map fun x => (2 * kemQ * x + 2 ^ d) / 2 ^ (d + 1)

/-- The k polynomials of 12-bit coefficients at the head of a key. -/
def kemVec (k : Nat) (b : List Byte) : List (List Nat) :=
  (chunked 256 ((polyUnpack 12 (b.take (384 * k))).map fun x => x % kemQ)).take k

/-- SHA3-512 and SHA3-256. -/
def kemG (m : List Byte) : List Byte := hashAll 0x14 64 m
def kemH (m : List Byte) : List Byte := hashAll 0x12 32 m

/-- Encapsulation and decapsulation key of d and z. -/
def kemKeys (a : Nat) (d z : List Byte) : List Byte × List Byte :=
  let k := kemK a
  let g := kemG (d ++ [BitVec.ofNat 8 k])
  let s := (kemNoise (g.drop 32) 0 k).map kemNtt
  let e := (kemNoise (g.drop 32) k k).map kemNtt
  let t := (List.range k).map fun i => polyAdd kemQ (kemDot ((List.range k).map fun j => kemEntry (g.take 32) i j) s) (e.getD i [])
  let ek := polyPack 12 t.flatten ++ g.take 32
  (ek, polyPack 12 s.flatten ++ ek ++ kemH ek ++ z)

/-- The ciphertext of a 32-byte message under randomness r. -/
def kemEncrypt (a : Nat) (ek m r : List Byte) : List Byte :=
  let k := kemK a
  let rho := ek.drop (384 * k)
  let y := (kemNoise r 0 k).map kemNtt
  let e1 := kemNoise r k k
  let e2 := kemCbd (shake256 128 (r ++ [BitVec.ofNat 8 (2 * k)]))
  let u := (List.range k).map fun i => polyAdd kemQ (kemInv (kemDot ((List.range k).map fun j => kemEntry rho j i) y)) (e1.getD i [])
  let v := polyAdd kemQ (polyAdd kemQ (kemInv (kemDot (kemVec k ek) y)) e2) (kemExpand 1 (polyUnpack 1 m))
  polyPack (kemDu a) (kemCompress (kemDu a) u.flatten) ++ polyPack (kemDv a) (kemCompress (kemDv a) v)

/-- The message of a ciphertext. -/
def kemDecrypt (a : Nat) (dk c : List Byte) : List Byte :=
  let k := kemK a
  let n := 32 * kemDu a * k
  let u := chunked 256 (kemExpand (kemDu a) (polyUnpack (kemDu a) (c.take n)))
  let v := kemExpand (kemDv a) (polyUnpack (kemDv a) (c.drop n))
  polyPack 1 (kemCompress 1 (polySub kemQ v (kemInv (kemDot (kemVec k dk) (u.map kemNtt)))))

/-- An encapsulation key whose coefficients are all below q. -/
def kemKeyOk (a : Nat) (ek : List Byte) : Bool := (polyUnpack 12 (ek.take (384 * kemK a))).all fun x => decide (x < kemQ)

/-- A decapsulation key whose hash is that of the encapsulation key in it. -/
def kemPrivOk (a : Nat) (dk : List Byte) : Bool :=
  let n := 384 * kemK a
  kemH ((dk.drop n).take (n + 32)) == (dk.drop (2 * n + 32)).take 32

/-- Ciphertext and shared secret for a random m. -/
def kemEncaps (a : Nat) (ek m : List Byte) : List Byte × List Byte :=
  let g := kemG (m ++ kemH ek)
  (kemEncrypt a ek m (g.drop 32), g.take 32)

/-- The shared secret of a ciphertext, with implicit rejection. -/
def kemDecaps (a : Nat) (dk c : List Byte) : List Byte :=
  let n := 384 * kemK a
  let ek := (dk.drop n).take (n + 32)
  let m := kemDecrypt a dk c
  let g := kemG (m ++ (dk.drop (2 * n + 32)).take 32)
  if kemEncrypt a ek m (g.drop 32) = c then g.take 32 else shake256 32 (dk.drop (2 * n + 64) ++ c)

/-! ## ML-DSA (FIPS 204) -/

def dsaQ : Nat := 8380417

/-- The parameters: k, l, η, τ, β, ω, and the bytes of the commitment hash. γ1 is 2^19, and γ2 is (q − 1)/32. -/
structure DsaPar where
  k : Nat
  l : Nat
  eta : Nat
  tau : Nat
  beta : Nat
  omega : Nat
  hash : Nat

def dsaPar (a : Nat) : DsaPar :=
  if a = 0x21 then { k := 6, l := 5, eta := 4, tau := 49, beta := 196, omega := 55, hash := 48 }
  else { k := 8, l := 7, eta := 2, tau := 60, beta := 120, omega := 75, hash := 64 }

def dsaG1 : Nat := 2 ^ 19
def dsaG2 : Nat := (dsaQ - 1) / 32

/-- The residues that a transform is taken at: 1753 to the odd powers, in bit-reversed order. -/
def dsaRoots : List Nat := (List.range 256).map fun i => smallPow 1753 (2 * bitRev 8 i + 1) dsaQ

def dsaNtt (f : List Nat) : List Nat := dsaRoots.map fun g => polyAt g dsaQ f

/-- The inverse transform: 8347681 is the inverse of 256. -/
def dsaInv (f : List Nat) : List Nat :=
  let inv := dsaRoots.map fun g => smallPow g (dsaQ - 2) dsaQ
  ((List.range 256).foldl (fun (x : List Nat × List Nat) _ =>
    (8347681 * (x.2.foldl (· + ·) 0) % dsaQ :: x.1, List.zipWith (fun a b => a * b % dsaQ) x.2 inv)) ([], f)).1.reverse

def dsaMul (a b : List Nat) : List Nat := List.zipWith (fun x y => x * y % dsaQ) a b
def dsaDot (a b : List (List Nat)) : List Nat := (List.zipWith dsaMul a b).foldl (polyAdd dsaQ) polyZero

/-- A residue of an integer. -/
def dsaRes (x : Int) : Nat := (x % (dsaQ : Int)).toNat

/-- Coefficients b − w packed in d bits, and back. -/
def dsaPack (d b : Nat) (l : List Nat) : List Byte := polyPack d (l.map fun x => ((b : Int) - centred dsaQ x).toNat)
def dsaUnpack (d b : Nat) (s : List Byte) : List Nat := (polyUnpack d s).map fun x : Nat => dsaRes ((b : Int) - (x : Int))

/-- Entry (r, c) of the matrix of seed ρ: residues below q among the 23-bit integers of three bytes each. -/
def dsaEntry (rho : List Byte) (r c : Nat) : List Nat :=
  let b := shake128 1008 (rho ++ [BitVec.ofNat 8 c, BitVec.ofNat 8 r])
  let l := (((chunked 3 b).map fun t => leNat3 t % 2 ^ 23).filter fun x => decide (x < dsaQ)).take 256
  l ++ List.replicate (256 - l.length) 0
where
  leNat3 (t : List Byte) : Nat := beNat t.reverse

def dsaMatrix (p : DsaPar) (rho : List Byte) : List (List (List Nat)) :=
  (List.range p.k).map fun r => (List.range p.l).map fun c => dsaEntry rho r c

/-- A polynomial with coefficients from −η to η out of the half-bytes of a stream. -/
def dsaShort (eta : Nat) (b : List Byte) : List Nat :=
  let l := (((polyUnpack 4 b).filter fun x => if eta = 2 then decide (x < 15) else decide (x < 9)).map fun x =>
    dsaRes (if eta = 2 then 2 - ((x % 5 : Nat) : Int) else 4 - (x : Int))).take 256
  l ++ List.replicate (256 - l.length) 0

/-- A number as two bytes, the least significant first. -/
def twoBytes (n : Nat) : List Byte := [BitVec.ofNat 8 n, BitVec.ofNat 8 (n / 256)]

def dsaSecret (p : DsaPar) (seed : List Byte) (n : Nat) : List Nat := dsaShort p.eta (shake256 544 (seed ++ twoBytes n))

/-- Decompose: r = r1 × 2γ2 + r0. -/
def dsaHigh (r : Nat) : Nat := if dsaQ - 1 - dsaG2 < r then 0 else (r + dsaG2 - 1) / (2 * dsaG2)
def dsaLow (r : Nat) : Int := if dsaQ - 1 - dsaG2 < r then (r : Int) - dsaQ else (r : Int) - ((r + dsaG2 - 1) / (2 * dsaG2) * (2 * dsaG2) : Nat)

/-- Power2Round with d = 13. -/
def dsaT1 (r : Nat) : Nat := (r + 2 ^ 12 - 1) / 2 ^ 13
def dsaT0 (r : Nat) : Nat := dsaRes ((r : Int) - (dsaT1 r * 2 ^ 13 : Nat))

/-- Public and private key of ξ. -/
def dsaKeys (a : Nat) (xi : List Byte) : List Byte × List Byte :=
  let p := dsaPar a
  let h := shake256 128 (xi ++ [BitVec.ofNat 8 p.k, BitVec.ofNat 8 p.l])
  let rho := h.take 32
  let seed := (h.drop 32).take 64
  let s1 := (List.range p.l).map (dsaSecret p seed)
  let s2 := (List.range p.k).map fun r => dsaSecret p seed (r + p.l)
  let v := s1.map dsaNtt
  let t := List.zipWith (fun row s => polyAdd dsaQ (dsaInv (dsaDot row v)) s) (dsaMatrix p rho) s2
  let pk := rho ++ polyPack 10 (t.flatten.map dsaT1)
  let w := if p.eta = 2 then 3 else 4
  (pk, rho ++ h.drop 96 ++ shake256 64 pk ++ dsaPack w p.eta s1.flatten ++ dsaPack w p.eta s2.flatten ++
    dsaPack 13 (2 ^ 12) (t.flatten.map dsaT0))

/-- The challenge of a commitment hash: τ coefficients of 1 or −1. -/
def dsaBall (tau : Nat) (rho : List Byte) : List Nat :=
  let b := shake256 272 rho
  let signs := allBits (b.take 8)
  ((b.drop 8).foldl (fun (x : List Nat × Nat) y =>
    if 256 ≤ x.2 ∨ x.2 < y.toNat then x
    else ((x.1.set x.2 (x.1.getD y.toNat 0)).set y.toNat (if signs.getD (x.2 + tau - 256) false then dsaQ - 1 else 1), x.2 + 1))
    (polyZero, 256 - tau)).1

/-- The hint of k polynomials: positions in order, then where each polynomial's end. -/
def dsaHint (omega : Nat) (h : List (List Bool)) : List Byte :=
  let pos := h.map fun l => (List.range 256).filter fun i => l.getD i false
  let ends := (List.range h.length).map fun i => ((pos.take (i + 1)).map List.length).sum
  padTo omega (pos.flatten.map (BitVec.ofNat 8)) ++ ends.map (BitVec.ofNat 8)

/-- The hint of its bytes; none where they are no hint. -/
def dsaUnhint (omega k : Nat) (b : List Byte) : Option (List (List Bool)) :=
  let ys := b.map BitVec.toNat
  let ends := ys.drop omega
  let spans := List.zip (0 :: ends) ends
  let rising : List Nat → Bool := fun l => (List.zip l (l.drop 1)).all fun x => decide (x.1 < x.2)
  if spans.all (fun x => decide (x.1 ≤ x.2) && decide (x.2 ≤ omega) && rising ((ys.take x.2).drop x.1)) &&
      ((ys.take omega).drop (ends.getD (k - 1) 0)).all (· == 0) then
    some (spans.map fun x => (List.range 256).map fun i => ((ys.take x.2).drop x.1).contains i)
  else none

/-- The message representative of a message with its context. -/
def dsaMu (tr ctx m : List Byte) : List Byte := shake256 64 (tr ++ [0, BitVec.ofNat 8 ctx.length] ++ ctx ++ m)

/-- The largest absolute value of coefficients. -/
def dsaNorm (l : List (List Nat)) : Nat := l.flatten.foldl (fun r x => max r (centred dsaQ x).natAbs) 0

/-- What a private key holds: the matrix, K, tr, and the transforms of s1, s2 and t0. -/
structure DsaKey where
  par : DsaPar
  mat : List (List (List Nat))
  seed : List Byte
  tr : List Byte
  s1 : List (List Nat)
  s2 : List (List Nat)
  t0 : List (List Nat)

def dsaKey (a : Nat) (sk : List Byte) : DsaKey :=
  let p := dsaPar a
  let w := if p.eta = 2 then 3 else 4
  let polys (d b at_ n : Nat) : List (List Nat) := (chunked 256 (dsaUnpack d b ((sk.drop at_).take (32 * d * n)))).map dsaNtt
  { par := p, mat := dsaMatrix p (sk.take 32), seed := (sk.drop 32).take 32, tr := (sk.drop 64).take 64,
    s1 := polys w p.eta 128 p.l, s2 := polys w p.eta (128 + 32 * w * p.l) p.k,
    t0 := polys 13 (2 ^ 12) (128 + 32 * w * (p.l + p.k)) p.k }

/-- One iteration of signing from mask κ: the signature, unless it is rejected. -/
def dsaTry (x : DsaKey) (mu rnd : List Byte) (kappa : Nat) : Option (List Byte) :=
  let p := x.par
  let y := (List.range p.l).map fun r => dsaUnpack 20 dsaG1 (shake256 640 (rnd ++ twoBytes (kappa + r)))
  let yh := y.map dsaNtt
  let w := x.mat.map fun row => dsaInv (dsaDot row yh)
  let ct := shake256 p.hash (mu ++ polyPack 4 (w.flatten.map dsaHigh))
  let c := dsaNtt (dsaBall p.tau ct)
  let times (l : List (List Nat)) : List (List Nat) := l.map fun s => dsaInv (dsaMul c s)
  let z := List.zipWith (polyAdd dsaQ) y (times x.s1)
  let r := List.zipWith (polySub dsaQ) w (times x.s2)
  let e := times x.t0
  let h := List.zipWith (fun a b => List.zipWith (fun u v => dsaHigh u != dsaHigh ((u + v) % dsaQ)) a b) r e
  if dsaG1 - p.beta ≤ dsaNorm z ∨ dsaG2 - p.beta ≤ (r.flatten.foldl (fun m v => max m (dsaLow v).natAbs) 0) ∨
      dsaG2 ≤ dsaNorm e ∨ p.omega < (h.flatten.filter id).length then none
  else some (ct ++ dsaPack 20 dsaG1 z.flatten ++ dsaHint p.omega h)

/-- Iterations until one is not rejected, at most `fuel`. -/
def dsaLoop (x : DsaKey) (mu rnd : List Byte) : Nat → Nat → Option (List Byte)
  | 0, _ => none
  | fuel + 1, kappa => match dsaTry x mu rnd kappa with
    | some s => some s
    | none => dsaLoop x mu rnd fuel (kappa + x.par.l)

/-- A hedged signature; none when 1,000 iterations are rejected (R419). -/
def dsaSign (a : Nat) (sk ctx m rnd : List Byte) : Option (List Byte) :=
  let x := dsaKey a sk
  let mu := dsaMu x.tr ctx m
  dsaLoop x mu (shake256 64 (x.seed ++ rnd ++ mu)) 1000 0

/-- Whether a signature is valid. -/
def dsaVerify (a : Nat) (pk ctx m sig : List Byte) : Bool :=
  let p := dsaPar a
  let t1 := (chunked 256 (polyUnpack 10 (pk.drop 32))).map fun t => dsaNtt (t.map fun x => x * 2 ^ 13 % dsaQ)
  let ct := sig.take p.hash
  let z := chunked 256 (dsaUnpack 20 dsaG1 ((sig.drop p.hash).take (640 * p.l)))
  match dsaUnhint p.omega p.k (sig.drop (p.hash + 640 * p.l)) with
  | none => false
  | some h =>
    let c := dsaNtt (dsaBall p.tau ct)
    let zh := z.map dsaNtt
    let w := List.zipWith (fun row t => dsaInv (polySub dsaQ (dsaDot row zh) (dsaMul c t))) (dsaMatrix p (pk.take 32)) t1
    let use (b : Bool) (r : Nat) : Nat :=
      if b then (if 0 < dsaLow r then (dsaHigh r + 1) % 16 else (dsaHigh r + 15) % 16) else dsaHigh r
    let w1 := List.zipWith (List.zipWith use) h w
    decide (dsaNorm z < dsaG1 - p.beta) && shake256 p.hash (dsaMu (shake256 64 pk) ctx m ++ polyPack 4 w1.flatten) == ct

end Sys2Proof.Machine
end

