-- ==== Sys2Proof/Config.lean ====
section
/-! DEFINITION. What the spec leaves open: free values and choices (opaque constants; log entries 5, 15 and 16). -/
namespace Sys2Proof.Config

/-- Random bytes of a DRBG instance (R423, R424); the argument is the free-value counter of the state. -/
opaque freeByte : Nat → Byte

/-- Random 64-bit values (R424: RNDG; R490: nonces). -/
opaque freeDword : Nat → Dword

/-- Whether the two passes of a tagged instruction got different values (R191, R192). -/
opaque passesDiffer : Nat → Bool

/-- Whether the logic of a customer's slot assigns a cfn (R5, R116: the variant's supplement says). -/
opaque slotAssigned : Nat → Nat → Bool

/-- What the board's configuration gives a rail at step 6 of start-up (R504, R520): its slew limit, from the least, and the PMBus
address of its regulator. -/
opaque boardSlew : Nat → BitVec 9
opaque boardAddr : Nat → BitVec 7

/-- Steps of 25 MHz above 1.2 GHz at which a cluster may run, by its set voltage in mV and the die temperature in 1/8 °C (R502). -/
opaque clockSteps : Nat → Nat → Nat

/-- The hash of Vocen's public keys in the fuses (R490), and the static address of a management port (R476). -/
opaque vocenKeyHash : List Byte
opaque staticAddr : Nat → BitVec 128

/-- The offset of a local time-of-day copy from the distributed value, in units (R510): by executing unit, and by 292 + die. -/
opaque todSkew : Nat → BitVec 7

/-- The private bytes of a continuation area and of a chaining state, and what chaining bytes that no engine stored stand for
(R401, R411, R417): from what they stand for, or from the bytes. -/
opaque contBytes : List Nat → Nat → Byte
opaque chainBytes : List Nat → Nat → Byte
opaque chainOf : List Byte → Nat → Byte

/-- What an accelerator leaves in its staging bank, which no rule lays out (R400, R430): from the bytes read and stored, by offset. -/
opaque stagingByte : List Byte → List Byte → Nat → Byte

/-- The match that the compressor tries at a position: length and distance (R412 gives no search rule), from the history
and the source that follows, at most 2 KB of it. -/
opaque defMatch : Bool → List Byte → List Byte → Nat × Nat

/-- How many trailing bytes the compressor leaves without FINAL and FLUSH (R414: up to 258). -/
opaque defHold : List Byte → List Byte → Nat

/-- The header of a dynamic block after its three type bits, and whether it is to be the last (R412). -/
opaque defHeader : List Byte → List Byte → List Bool × Bool

/-- Whether a dynamic block is ended at a unit boundary (R412). -/
opaque defEndBlock : List Byte → List Byte → Bool

/-- What a public-key function stores for bytes that the standards take for no key (R419): function, ALG, descriptor, inputs,
random bytes. -/
opaque pkOutput : Nat → Nat → Nat → List (List Byte) → List Byte → List Byte

end Sys2Proof.Config
end

