-- ==== Sys2Proof/Machine/Deflate.lean ====
section
/-! DEFINITION. The compression engine's work unit by unit: decoding and producing RFC 1951 streams with their zlib and
gzip wrappers (R405, R412 to R416). Bits are lists of Bool in stream order. -/
namespace Sys2Proof.Machine
open Sys2Proof

/-! ## Checks and bits -/

/-- CRC-32 of RFC 1952 continued from a finished value. -/
def gzipCrc (c : Nat) (b : List Byte) : Nat := (b.foldl (fun r x => iter (crcBitR 0xEDB88320) 8 (r ^^^ x.toNat)) (c ^^^ 0xFFFFFFFF)) ^^^ 0xFFFFFFFF

/-- Adler-32 of RFC 1950 continued. -/
def adler (c : Nat) (b : List Byte) : Nat :=
  let r := b.foldl (fun (s : Nat × Nat) x => let a := (s.1 + x.toNat) % 65521; (a, (s.2 + a) % 65521)) (c % 65536, c / 65536)
  r.2 * 65536 + r.1

/-- The running check of a wrap code: 1 zlib, 2 gzip. -/
def runCheck (wrap c : Nat) (b : List Byte) : Nat := if wrap = 1 then adler c b else if wrap = 2 then gzipCrc c b else 0
def initCheck (wrap : Nat) : Nat := if wrap = 1 then 1 else 0

/-- Bits of a byte from bit 0 up. -/
def byteBits (b : Byte) : List Bool := (List.range 8).map b.getLsbD
def toBits (l : List Byte) : List Bool := l.flatMap byteBits

/-- n low bits of v, bit 0 first. -/
def lsbBits (n v : Nat) : List Bool := (List.range n).map v.testBit
/-- n low bits of v, bit n - 1 first (Huffman codes). -/
def msbBits (n v : Nat) : List Bool := (lsbBits n v).reverse
/-- The number whose bit 0 comes first. -/
def bitsNat : List Bool → Nat
  | [] => 0
  | b :: r => b.toNat + 2 * bitsNat r
/-- Whole bytes of bits; the last is padded with 0 bits. -/
def bitBytes (l : List Bool) : List Byte :=
  (List.range ((l.length + 7) / 8)).map fun i => BitVec.ofNat 8 (bitsNat ((l.drop (8 * i)).take 8))

/-! ## Huffman codes -/

/-- Canonical codes of a list of lengths: (length, code, symbol). -/
def canonical (lens : List Nat) : List (Nat × Nat × Nat) :=
  ((List.range 15).foldl (fun (r : List (Nat × Nat × Nat) × Nat) l =>
    let syms := (List.range lens.length).filter fun s => lens.getD s 0 == l + 1
    let base := 2 * r.2
    (r.1 ++ (List.range syms.length).map (fun i => (l + 1, base + i, syms.getD i 0)), base + syms.length)) ([], 0)).1

/-- The Kraft sum in units of 2^-15. -/
def kraft (lens : List Nat) : Nat := (lens.map fun l => if l = 0 then 0 else 2 ^ (15 - l)).sum

/-- Code lengths form a complete code. -/
def complete (lens : List Nat) : Bool := lens.all (fun l => decide (l ≤ 15)) && kraft lens == 2 ^ 15

/-- A distance code may also be empty or one code of one bit (RFC 1951). -/
def distOk (lens : List Nat) : Bool := complete lens || lens.all (· == 0) || ((lens.filter (· != 0)) == [1])

def fixedLit : List Nat := List.replicate 144 8 ++ List.replicate 112 9 ++ List.replicate 24 7 ++ List.replicate 8 8
def fixedDist : List Nat := List.replicate 32 5

/-- Base value and extra bits of length symbols 257 to 285, and of distance symbols. -/
def lenBase (s : Nat) : Nat × Nat :=
  if s < 265 then (s - 254, 0) else if s = 285 then (258, 0)
  else let e := (s - 261) / 4; (3 + (4 + (s - 265) % 4) * 2 ^ e, e)
def distBase (s : Nat) : Nat × Nat := if s < 4 then (s + 1, 0) else let e := s / 2 - 1; (1 + (2 + s % 2) * 2 ^ e, e)

/-- What reading ends with. -/
inductive Rd (α : Type) where
  | ok (v : α) (rest : List Bool)
  | need
  | bad (rc : Nat)

def Rd.bind {α β : Type} (r : Rd α) (f : α → List Bool → Rd β) : Rd β :=
  match r with
  | .ok v rest => f v rest
  | .need => .need
  | .bad rc => .bad rc

/-- n bits, least significant first. -/
def takeBits (n : Nat) (b : List Bool) : Rd Nat := if b.length < n then .need else .ok (bitsNat (b.take n)) (b.drop n)

/-- One symbol of a code. -/
def readSym (table : List (Nat × Nat × Nat)) : Nat → Nat → Nat → List Bool → Rd Nat
  | 0, _, _, _ => .bad 0x12
  | _ + 1, _, _, [] => .need
  | fuel + 1, len, code, b :: r =>
    let c := 2 * code + b.toNat
    match table.find? fun t => t.1 == len + 1 && t.2.1 == c with
    | some t => .ok t.2.2 r
    | none => readSym table fuel (len + 1) c r

def sym (lens : List Nat) (b : List Bool) : Rd Nat := readSym (canonical lens) 15 0 0 b

/-- The order of code-length code lengths (RFC 1951). -/
def clOrder : List Nat := [16, 17, 18, 0, 8, 7, 9, 6, 10, 5, 11, 4, 12, 3, 13, 2, 14, 1, 15]

/-- n code lengths coded with the code-length code, those read so far latest first. -/
def readLens (cl : List Nat) : Nat → Nat → List Nat → List Bool → Rd (List Nat)
  | 0, n, acc, b => if acc.length = n then .ok acc.reverse b else .bad 0x12
  | fuel + 1, n, acc, b =>
    if acc.length = n then .ok acc.reverse b
    else if n < acc.length then .bad 0x12
    else (sym cl b).bind fun s r =>
      if s < 16 then readLens cl fuel n (s :: acc) r
      else if s = 16 then match acc with
        | [] => .bad 0x12
        | p :: _ => (takeBits 2 r).bind fun k r2 => readLens cl fuel n (List.replicate (3 + k) p ++ acc) r2
      else if s = 17 then (takeBits 3 r).bind fun k r2 => readLens cl fuel n (List.replicate (3 + k) 0 ++ acc) r2
      else (takeBits 7 r).bind fun k r2 => readLens cl fuel n (List.replicate (11 + k) 0 ++ acc) r2

/-- A dynamic block's header after its type: the literal/length and distance code lengths. -/
def readDynamic (b : List Bool) : Rd (List Nat × List Nat) :=
  (takeBits 5 b).bind fun hlit b1 => (takeBits 5 b1).bind fun hdist b2 => (takeBits 4 b2).bind fun hclen b3 =>
  if 29 < hlit then .bad 0x12
  else if b3.length < 3 * (hclen + 4) then .need
  else
    let raw := (List.range (hclen + 4)).map fun i => bitsNat ((b3.drop (3 * i)).take 3)
    let cl := (List.range 19).map fun s => match clOrder.findIdx? (· == s) with | some i => raw.getD i 0 | none => 0
    if !(complete cl) then .bad 0x12
    else (readLens cl (hlit + hdist + 258) (hlit + hdist + 258) [] (b3.drop (3 * (hclen + 4)))).bind fun ls r =>
      let lit := ls.take (hlit + 257)
      let dst := ls.drop (hlit + 257)
      if complete lit && distOk dst && lit.getD 256 0 != 0 then .ok (lit, dst) r else .bad 0x12

/-! ## Decoding (R416) -/

def Inf.start (wrap : Nat) : Inf :=
  { wrap := wrap, head := if wrap = 0 then .done else .start, flg := 0, hcrc := 0, blk := .none, last := false, hist := [], total := 0, check := initCheck wrap, mlen := 0, mdist := 0,
    ended := false }

/-- Bytes added to the output. -/
def Inf.put (s : Inf) (b : List Byte) : Inf :=
  { s with hist := (b.reverse ++ s.hist).take 32768, total := s.total + b.length, check := runCheck s.wrap s.check b }

/-- The bytes that a match of n copies from distance d. -/
def copyMatch (hist : List Byte) (d : Nat) : Nat → List Byte
  | 0 => []
  | n + 1 => let x := hist.getD (d - 1) 0; x :: copyMatch (x :: hist) d n

/-- The part of a gzip header that follows the first `past` optional ones (RFC 1952: extra field, name, comment, CRC). -/
def gzNext (flg past : Nat) : Head :=
  if past < 1 ∧ flg.testBit 2 = true then .extraLen
  else if past < 2 ∧ flg.testBit 3 = true then .name
  else if past < 3 ∧ flg.testBit 4 = true then .comment
  else if past < 4 ∧ flg.testBit 1 = true then .crc
  else .done

/-- A piece of a gzip header of n bytes read: what stands after it. -/
def Inf.piece (s : Inf) (n v : Nat) (h : Head) : Inf := { s with head := h, hcrc := gzipCrc s.hcrc (beBytes n v).reverse }

/-- The next piece of the wrapper header of a wrap code. -/
def wrapHeader (s : Inf) (b : List Bool) : Rd Inf :=
  match s.head with
  | .start =>
    if s.wrap = 1 then (takeBits 16 b).bind fun h r =>
      if h % 16 ≠ 8 ∨ 7 < h / 16 % 16 ∨ (h % 256 * 256 + h / 256) % 31 ≠ 0 ∨ h.testBit 13 = true then .bad 0x15
      else .ok { s with head := .done } r
    else (takeBits 80 b).bind fun h r =>
      if h % 2 ^ 24 ≠ 0x088B1F ∨ h / 2 ^ 29 % 8 ≠ 0 then .bad 0x15
      else .ok { s.piece 10 h (gzNext (h / 2 ^ 24 % 256) 0) with flg := h / 2 ^ 24 % 256 } r
  | .extraLen => (takeBits 16 b).bind fun n r => .ok (s.piece 2 n (if n = 0 then gzNext s.flg 1 else .extra n)) r
  | .extra n => (takeBits 8 b).bind fun x r => .ok (s.piece 1 x (if n ≤ 1 then gzNext s.flg 1 else .extra (n - 1))) r
  | .name => (takeBits 8 b).bind fun x r => .ok (s.piece 1 x (if x = 0 then gzNext s.flg 2 else .name)) r
  | .comment => (takeBits 8 b).bind fun x r => .ok (s.piece 1 x (if x = 0 then gzNext s.flg 3 else .comment)) r
  | .crc => (takeBits 16 b).bind fun c r => if c = s.hcrc % 65536 then .ok { s with head := .done } r else .bad 0x15
  | .done => .ok s b

/-- The bits up to the next byte boundary of the source; `pos` is the number of bits read since the stream began. -/
def alignBits (pos : Nat) (b : List Bool) : List Bool := b.drop ((8 - pos % 8) % 8)

/-- The trailer checked (R413, 0x16). -/
def trailer (s : Inf) (b : List Bool) : Rd Unit :=
  if s.wrap = 0 then .ok () b
  else if s.wrap = 1 then (takeBits 32 b).bind fun v r => if beNat (beBytes 4 v).reverse = s.check then .ok () r else .bad 0x16
  else (takeBits 32 b).bind fun v r => (takeBits 32 r).bind fun n r2 => if v = s.check ∧ n = s.total % 2 ^ 32 then .ok () r2 else .bad 0x16

/-- A unit decoded: what it adds to the output and the state after it. -/
structure UnitOut where
  st : Inf
  out : List Byte
  /-- the unit is a match (its length), whose copy may stop in the target -/
  copy : Option Nat

/-- One unit from the bits at a unit boundary; `pos` counts bits since the stream began. -/
def infUnit (s : Inf) (pos : Nat) (b : List Bool) : Rd UnitOut :=
  if s.head ≠ .done then (wrapHeader s b).bind fun t r => .ok ⟨t, [], none⟩ r
  else match s.blk with
    | .none =>
      if s.last then
        let b1 := alignBits pos b
        (trailer s b1).bind fun _ r => .ok ⟨{ s with ended := true }, [], none⟩ r
      else (takeBits 3 b).bind fun h r =>
        let s1 := { s with last := h.testBit 0 }
        if h / 2 = 0 then
          (takeBits 16 (alignBits (pos + 3) r)).bind fun n r1 => (takeBits 16 r1).bind fun m r2 =>
            if n + m ≠ 65535 then .bad 0x11 else .ok ⟨{ s1 with blk := if n = 0 then .none else .stored n }, [], none⟩ r2
        else if h / 2 = 1 then .ok ⟨{ s1 with blk := .huff fixedLit fixedDist }, [], none⟩ r
        else if h / 2 = 2 then (readDynamic r).bind fun c r1 => .ok ⟨{ s1 with blk := .huff c.1 c.2 }, [], none⟩ r1
        else .bad 0x10
    | .stored n => (takeBits 8 b).bind fun x r =>
        .ok ⟨({ s with blk := if n = 1 then .none else .stored (n - 1) }).put [BitVec.ofNat 8 x], [BitVec.ofNat 8 x], none⟩ r
    | .huff lit dist => (sym lit b).bind fun c r =>
        if c < 256 then .ok ⟨s.put [BitVec.ofNat 8 c], [BitVec.ofNat 8 c], none⟩ r
        else if c = 256 then .ok ⟨{ s with blk := .none }, [], none⟩ r
        else if 285 < c then .bad 0x13
        else (takeBits (lenBase c).2 r).bind fun x r1 => (sym dist r1).bind fun d r2 =>
          if 29 < d then .bad 0x13
          else (takeBits (distBase d).2 r2).bind fun y r3 =>
            let n := (lenBase c).1 + x
            let dd := (distBase d).1 + y
            if min 32768 s.total < dd then .bad 0x14
            else .ok ⟨{ s with mlen := n, mdist := dd }, [], some n⟩ r3

/-- How an execution of a compression function ends. -/
inductive DefEnd where
  | full
  | need
  | done
  | limit
  | access
  | bad (rc : Nat)
  deriving DecidableEq, Repr

/-- The units of one execution of DEFDCM, `left` of them at most. `acc` bytes of the target are accessible of the `cap` it has;
`out` is the output, first byte first; `used` the bits read in this execution, `pos0` those read before it. -/
def infRun (cap acc pos0 : Nat) : Nat → Nat → Inf → Nat → List Byte → List Bool → DefEnd × Inf × Nat × List Byte
  | 0, _, s, used, out, _ => (.need, s, used, out)
  | fuel + 1, left, s, used, out, b =>
    if s.ended then (.done, s, used, out)
    else if 0 < s.mlen ∧ s.blk ≠ .none then
      let n := min s.mlen (cap - out.length)
      if acc < out.length + n then (.access, s, used, out)
      else
        let c := copyMatch s.hist s.mdist n
        let s1 := { s.put c with mlen := s.mlen - n, mdist := if n = s.mlen then 0 else s.mdist }
        if n < s.mlen then (.full, s1, used, out ++ c) else infRun cap acc pos0 fuel left s1 used (out ++ c) b
    else if left = 0 ∨ 2 ^ 23 ≤ used ∧ b ≠ [] then (.limit, s, used, out)
    else match infUnit s (pos0 + used) b with
      | .need => (.need, s, used, out)
      | .bad rc => (.bad rc, s, used, out)
      | .ok u r =>
        let used1 := used + (b.length - r.length)
        match u.copy with
        | some n =>
          let k := min n (cap - out.length)
          if acc < out.length + k then (.access, s, used, out) else infRun cap acc pos0 fuel (left - 1) u.st used1 out r
        | none =>
          if cap < out.length + u.out.length then (.full, s, used, out)
          else if acc < out.length + u.out.length then (.access, s, used, out)
          else infRun cap acc pos0 fuel (left - 1) u.st used1 (out ++ u.out) r

/-! ## Producing (R412 to R415) -/

def Def.start (wrap : Nat) : Def :=
  { wrap := wrap, header := wrap == 0, blk := none, hist := [], total := 0, check := initCheck wrap, finalDone := false, aligned := false, ended := false }

/-- A symbol's code bits, or none when the code lacks it. -/
def codeBits (lens : List Nat) (s : Nat) : Option (List Bool) :=
  ((canonical lens).find? fun t => t.2.2 == s).map fun t => msbBits t.1 t.2.1

/-- The length symbol and distance symbol of a value. -/
def lenSym (n : Nat) : Nat := if n = 258 then 285 else ((List.range 28).map (· + 257)).foldl (fun b s => if (lenBase s).1 ≤ n then s else b) 257
def distSym (d : Nat) : Nat := (List.range 30).foldl (fun b s => if (distBase s).1 ≤ d then s else b) 0

/-- The bits of a match in a code. -/
def matchBits (o : OpenBlk) (n d : Nat) : Option (List Bool) :=
  match codeBits o.lit (lenSym n), codeBits o.dist (distSym d) with
  | some a, some c => some (a ++ lsbBits (lenBase (lenSym n)).2 (n - (lenBase (lenSym n)).1) ++ c ++ lsbBits (distBase (distSym d)).2 (d - (distBase (distSym d)).1))
  | _, _ => none

/-- The match tried holds in the data. -/
def matchOk (hist rest : List Byte) (n d : Nat) : Bool :=
  decide (3 ≤ n) && decide (n ≤ 258) && decide (n ≤ rest.length) && decide (1 ≤ d) && decide (d ≤ 32768) && decide (d ≤ hist.length) &&
    copyMatch hist d n == rest.take n

/-- How far the engine looks ahead of the output it has derived, less than the 4 KB of R408. -/
def lookAhead : Nat := 2048
def ahead (rest : List Byte) : List Byte := rest.take lookAhead

/-- The next data unit in an open block: bits and source bytes; none when the block cannot code it. -/
def dataUnit (dyn : Bool) (o : OpenBlk) (hist rest : List Byte) : Option (List Bool × Nat) :=
  let m := Config.defMatch dyn hist (ahead rest)
  let lit : Option (List Bool × Nat) := match rest with
    | x :: _ => (codeBits o.lit x.toNat).map fun b => (b, 1)
    | [] => none
  if matchOk hist rest m.1 m.2 then match matchBits o m.1 m.2 with
    | some b => some (b, m.1)
    | none => lit
  else lit

/-- A literal/length code for every symbol, built from the data: 226 symbols of 8 bits, those of the data first, and 60 of 9; the
distance code of two symbols of 4 bits and 28 of 5; and their header (RFC 1951). -/
def builtLit (rest : List Byte) : List Nat :=
  let has (s : Nat) : Bool := (ahead rest).any fun x => x.toNat == s
  let short := (((List.range 286).filter has) ++ (List.range 286).filter fun s => !(has s)).take 226
  (List.range 286).map fun s => if short.contains s then 8 else 9
def builtDist : List Nat := [4, 4] ++ List.replicate 28 5
def builtHeader (rest : List Byte) : List Bool :=
  let cl (s : Nat) : Nat := if s = 4 ∨ s = 5 ∨ s = 8 ∨ s = 9 then 2 else 0
  let code (l : Nat) : List Bool := msbBits 2 (if l = 4 then 0 else if l = 5 then 1 else if l = 8 then 2 else 3)
  lsbBits 5 29 ++ lsbBits 5 29 ++ lsbBits 4 8 ++ ((clOrder.take 12).flatMap fun s => lsbBits 3 (cl s)) ++
    (builtLit rest ++ builtDist).flatMap code

/-- A block opened for the data that follows: its header bits and codes. Which codes the engine builds from the data for DYN 1 is
open; a header that is not valid, or cannot code the next byte, gives way to one that can (R412). -/
def openBlock (dyn final : Bool) (hist rest : List Byte) : List Bool × OpenBlk :=
  if !dyn then ([final, true, false], ⟨fixedLit, fixedDist, final, false⟩)
  else
    let built : List Bool × OpenBlk := ([final, false, true] ++ builtHeader rest, ⟨builtLit rest, builtDist, final, false⟩)
    let h := Config.defHeader hist (ahead rest)
    match readDynamic h.1 with
    | .ok c [] =>
      let whole := ((List.range 286).all fun s => c.1.getD s 0 != 0) && (List.range 30).all fun s => c.2.getD s 0 != 0
      let fin := final && h.2 && whole
      if (match rest with | x :: _ => (codeBits c.1 x.toNat).isSome | [] => true) then
        ([fin, false, true] ++ h.1, ⟨c.1, c.2, fin, false⟩)
      else built
    | _ => built

/-- The end-of-block code. -/
def endBits (o : OpenBlk) : List Bool := (codeBits o.lit 256).getD []

/-- The wrapper header and trailer bits. -/
def headerBits (wrap : Nat) : List Bool :=
  toBits (if wrap = 1 then [0x78, 0xDA] else if wrap = 2 then [0x1F, 0x8B, 8, 0, 0, 0, 0, 0, 0, 0xFF] else [])
def trailerBits (s : Def) : List Bool :=
  toBits (if s.wrap = 1 then beBytes 4 s.check
    else if s.wrap = 2 then (beBytes 4 s.check).reverse ++ (beBytes 4 (s.total % 2 ^ 32)).reverse else [])

/-- What the compressor does next: a unit, or an end with CC 0. `bits` is the number of bits of the stream so far. -/
inductive DefStep where
  | unit (bits : List Bool) (eat : Nat) (st : Def)
  | done (st : Def)
  | access

/-- The next step (R414). Where more source follows than these bytes, `keep` of them stay for a later step. -/
def defStep (dyn final flush align : Bool) (keep : Nat) (s : Def) (bits : Nat) (rest : List Byte) : DefStep :=
  let eat (n : Nat) (t : Def) : Def :=
    { t with hist := ((rest.take n).reverse ++ t.hist).take 32768, total := t.total + n, check := runCheck t.wrap t.check (rest.take n) }
  if s.ended then .done s
  else if !s.header then .unit (headerBits s.wrap) 0 { s with header := true }
  else if decide (rest.length < keep) then .access
  else if !rest.isEmpty && !final && !flush && decide (keep = 0) && decide (rest.length ≤ min 258 (Config.defHold s.hist (ahead rest))) then .done s
  else if !rest.isEmpty && !s.finalDone then
    match s.blk with
    | none => let o := openBlock dyn final s.hist rest; .unit o.1 0 { s with blk := some o.2 }
    | some o =>
      let stop : DefStep := .unit (endBits o) 0 { s with blk := none, finalDone := o.final }
      if dyn && !o.final && o.used && Config.defEndBlock s.hist (ahead rest) then stop
      else match dataUnit dyn o s.hist rest with
        | some u => .unit u.1 u.2 { eat u.2 s with blk := some { o with used := true }, aligned := false }
        | none => stop
  else if final then
    match s.blk with
    | some o => .unit (endBits o) 0 { s with blk := none, finalDone := o.final }
    | none =>
      if !s.finalDone then .unit ([true, true, false] ++ List.replicate 7 false) 0 { s with finalDone := true }
      else .unit (List.replicate ((8 - bits % 8) % 8) false ++ trailerBits s) 0 { s with ended := true }
  else if flush then
    match s.blk with
    | some o => .unit (endBits o) 0 { s with blk := none, finalDone := o.final }
    | none =>
      if align && !s.aligned then
        .unit ([false, false, false] ++ List.replicate ((8 - (bits + 3) % 8) % 8) false ++ toBits [0, 0, 0xFF, 0xFF]) 0 { s with aligned := true }
      else .done s
  else .done s

/-- The units of one execution of DEFCMP, at most the number given: `cap` and `acc` are the bits that fit in the target and in its accessible part,
`out` the bits produced in this execution, `before` those produced before it, `ate` source bytes consumed. -/
def defRun (dyn final flush align : Bool) (keep cap acc before : Nat) :
    Nat → Def → List Bool → Nat → List Byte → DefEnd × Def × List Bool × Nat
  | 0, s, out, ate, _ => (.limit, s, out, ate)
  | fuel + 1, s, out, ate, rest =>
    match defStep dyn final flush align keep s (before + out.length) rest with
    | .done t => (.done, t, out, ate)
    | .access => (.access, s, out, ate)
    | .unit b n t =>
      if 2 ^ 20 ≤ ate ∧ rest ≠ [] then (.limit, s, out, ate)
      else if cap < out.length + b.length then (.full, s, out, ate)
      else if acc < out.length + b.length then (.access, s, out, ate)
      else defRun dyn final flush align keep cap acc before fuel t (out ++ b) (ate + n) (rest.drop n)

end Sys2Proof.Machine
end

