-- ==== Sys2Proof/Machine/RegTable.lean ====
section
/-! DEFINITION. The service registers: offset, writers, fields, access codes and Reset column of every register table
of the spec (R10, R17, R41; the tables of chapters 00, 01, 06, 08 to 16). The bits no row names are reserved (R13). -/
namespace Sys2Proof.Machine
open Sys2Proof

/-- Access code of a field (R10). -/
inductive Acc where
  | rw
  | ro
  | wo
  | w1c
  | w1s
  | rwl
  deriving DecidableEq, Repr

/-- A field of a register table: its bits, access code and Reset column. -/
structure RField where
  hi : Nat
  lo : Nat
  acc : Acc
  reset : Nat
  deriving DecidableEq, Repr

/-- The dies that hold a register's window (R41). -/
inductive DieKind where
  | cx
  | ch
  | sg
  | wsd
  | acc
  | any
  deriving DecidableEq, Repr

/-- A register or array of registers: block type (R41), offset, stride, count, dies and writers. -/
structure RegDesc where
  name : String
  typ : Nat
  off : Nat
  stride : Nat
  count : Nat
  dies : DieKind
  mgmt : Bool
  host : Bool
  eng : Bool
  fields : List RField
  deriving DecidableEq, Repr

/-- Register tables of block types 0, 1, 2, 3. -/
def regTableCore : List RegDesc :=
  [{ name := "CORE.CHK_STAT", typ := 0, off := 0x100, stride := 8, count := 1, dies := .cx,
      mgmt := true, host := false, eng := false,
      fields := [⟨63, 63, .ro, 0x0⟩, ⟨62, 62, .ro, 0x0⟩, ⟨61, 61, .ro, 0x0⟩, ⟨60, 60, .wo, 0x0⟩, ⟨59, 56, .ro, 0x0⟩, ⟨55, 40, .ro, 0x0⟩, ⟨39, 32, .ro, 0x0⟩, ⟨31, 0, .ro, 0x0⟩] },
   { name := "CORE.INT_TOD0", typ := 0, off := 0x108, stride := 8, count := 1, dies := .cx,
      mgmt := false, host := false, eng := false,
      fields := [⟨63, 0, .ro, 0x0⟩] },
   { name := "CORE.INT_TOD1", typ := 0, off := 0x110, stride := 8, count := 1, dies := .cx,
      mgmt := false, host := false, eng := false,
      fields := [⟨63, 0, .ro, 0x0⟩] },
   { name := "L2.CTL", typ := 1, off := 0x0, stride := 8, count := 1, dies := .cx,
      mgmt := true, host := true, eng := false,
      fields := [⟨63, 63, .rw, 0x1⟩, ⟨62, 62, .ro, 0x0⟩, ⟨55, 48, .ro, 0x0⟩] },
   { name := "L2.ERR", typ := 1, off := 0x10, stride := 8, count := 1, dies := .cx,
      mgmt := true, host := false, eng := false,
      fields := [⟨63, 63, .ro, 0x0⟩, ⟨62, 62, .ro, 0x0⟩, ⟨61, 61, .wo, 0x0⟩, ⟨47, 32, .ro, 0x0⟩, ⟨31, 16, .ro, 0x0⟩, ⟨7, 0, .ro, 0x0⟩] },
   { name := "L3.CTL", typ := 2, off := 0x0, stride := 8, count := 1, dies := .cx,
      mgmt := true, host := true, eng := false,
      fields := [⟨63, 63, .rw, 0x1⟩, ⟨62, 62, .ro, 0x0⟩, ⟨55, 48, .ro, 0x0⟩, ⟨7, 7, .rw, 0x1⟩] },
   { name := "L3.ERR", typ := 2, off := 0x10, stride := 8, count := 1, dies := .cx,
      mgmt := true, host := false, eng := false,
      fields := [⟨63, 63, .ro, 0x0⟩, ⟨62, 62, .ro, 0x0⟩, ⟨61, 61, .wo, 0x0⟩, ⟨47, 32, .ro, 0x0⟩, ⟨31, 16, .ro, 0x0⟩, ⟨10, 0, .ro, 0x0⟩] },
   { name := "L3.DIR_STAT", typ := 2, off := 0x20, stride := 8, count := 1, dies := .cx,
      mgmt := true, host := false, eng := false,
      fields := [⟨63, 63, .w1c, 0x0⟩, ⟨47, 0, .ro, 0x0⟩] },
   { name := "DC.CTL", typ := 3, off := 0x0, stride := 8, count := 1, dies := .cx,
      mgmt := true, host := true, eng := false,
      fields := [⟨63, 63, .rw, 0x0⟩, ⟨62, 62, .ro, 0x0⟩, ⟨61, 61, .rw, 0x0⟩, ⟨60, 60, .wo, 0x0⟩, ⟨59, 59, .ro, 0x0⟩, ⟨55, 48, .ro, 0x0⟩, ⟨47, 40, .ro, 0x0⟩] },
   { name := "DC.CFG", typ := 3, off := 0x8, stride := 8, count := 1, dies := .cx,
      mgmt := true, host := false, eng := false,
      fields := [⟨63, 60, .rw, 0x0⟩, ⟨59, 59, .rw, 0x0⟩, ⟨58, 57, .rw, 0x0⟩, ⟨56, 55, .rw, 0x0⟩, ⟨54, 53, .rw, 0x0⟩] },
   { name := "DC.TIM", typ := 3, off := 0x10, stride := 8, count := 1, dies := .cx,
      mgmt := true, host := false, eng := false,
      fields := [⟨63, 52, .rw, 0x0⟩, ⟨51, 40, .rw, 0x0⟩, ⟨39, 24, .rw, 0x0⟩, ⟨23, 16, .rw, 0x0⟩] },
   { name := "DC.REF_MODE", typ := 3, off := 0x18, stride := 8, count := 1, dies := .cx,
      mgmt := true, host := true, eng := false,
      fields := [⟨63, 63, .rw, 0x0⟩, ⟨62, 62, .rw, 0x0⟩, ⟨61, 61, .ro, 0x0⟩, ⟨60, 60, .rw, 0x0⟩, ⟨55, 48, .ro, 0x0⟩] },
   { name := "DC.TRAIN", typ := 3, off := 0x20, stride := 8, count := 1, dies := .cx,
      mgmt := true, host := false, eng := false,
      fields := [⟨63, 63, .ro, 0x1⟩, ⟨62, 62, .ro, 0x1⟩, ⟨61, 61, .wo, 0x0⟩, ⟨60, 60, .ro, 0x0⟩, ⟨59, 59, .ro, 0x0⟩, ⟨58, 58, .ro, 0x0⟩, ⟨55, 40, .rw, 0x80⟩, ⟨31, 16, .ro, 0x0⟩] },
   { name := "DC.SR", typ := 3, off := 0x28, stride := 8, count := 1, dies := .cx,
      mgmt := true, host := true, eng := false,
      fields := [⟨63, 63, .rw, 0x1⟩, ⟨62, 62, .ro, 0x0⟩, ⟨47, 32, .rw, 0x32⟩] },
   { name := "DC.SCRUB", typ := 3, off := 0x30, stride := 8, count := 1, dies := .cx,
      mgmt := true, host := true, eng := false,
      fields := [⟨63, 63, .rw, 0x1⟩, ⟨59, 56, .rw, 0x0⟩, ⟨39, 0, .ro, 0x0⟩] },
   { name := "DC.ERR", typ := 3, off := 0x38, stride := 8, count := 1, dies := .cx,
      mgmt := true, host := false, eng := false,
      fields := [⟨63, 63, .ro, 0x0⟩, ⟨62, 62, .ro, 0x0⟩, ⟨61, 61, .wo, 0x0⟩, ⟨47, 32, .ro, 0x0⟩, ⟨31, 16, .ro, 0x0⟩, ⟨15, 0, .ro, 0x0⟩] },
   { name := "DC.EV_FORCED", typ := 3, off := 0x40, stride := 8, count := 1, dies := .cx,
      mgmt := true, host := false, eng := false,
      fields := [⟨63, 63, .w1c, 0x0⟩, ⟨47, 0, .ro, 0x0⟩] },
   { name := "DC.EV_INORDER", typ := 3, off := 0x48, stride := 8, count := 1, dies := .cx,
      mgmt := true, host := false, eng := false,
      fields := [⟨63, 63, .w1c, 0x0⟩, ⟨47, 0, .ro, 0x0⟩] },
   { name := "DC.EV_SRABORT", typ := 3, off := 0x50, stride := 8, count := 1, dies := .cx,
      mgmt := true, host := false, eng := false,
      fields := [⟨63, 63, .w1c, 0x0⟩, ⟨47, 0, .ro, 0x0⟩] }]

/-- Register tables of block types 4, 5, 6. -/
def regTableChannel : List RegDesc :=
  [{ name := "CS.CTL", typ := 4, off := 0x0, stride := 8, count := 1, dies := .ch,
      mgmt := true, host := false, eng := false,
      fields := [⟨63, 63, .rw, 0x0⟩, ⟨62, 62, .rw, 0x1⟩, ⟨55, 48, .ro, 0x0⟩, ⟨47, 40, .ro, 0x0⟩, ⟨39, 32, .ro, 0x0⟩] },
   { name := "CS.IMG_STAT", typ := 4, off := 0x1000, stride := 8, count := 96, dies := .ch,
      mgmt := false, host := false, eng := false,
      fields := [⟨63, 61, .ro, 0x0⟩, ⟨55, 48, .ro, 0x0⟩, ⟨47, 32, .ro, 0x0⟩, ⟨17, 0, .ro, 0x0⟩] },
   { name := "CS.IMG_SHARE", typ := 4, off := 0x1400, stride := 8, count := 96, dies := .ch,
      mgmt := false, host := false, eng := false,
      fields := [⟨41, 24, .ro, 0x0⟩, ⟨9, 0, .ro, 0x0⟩] },
   { name := "CS.STALE", typ := 4, off := 0x1800, stride := 8, count := 96, dies := .ch,
      mgmt := true, host := false, eng := false,
      fields := [⟨63, 63, .ro, 0x0⟩, ⟨62, 62, .wo, 0x0⟩, ⟨31, 0, .ro, 0x0⟩] },
   { name := "CE.CTL", typ := 5, off := 0x0, stride := 8, count := 1, dies := .ch,
      mgmt := true, host := false, eng := false,
      fields := [⟨63, 63, .rw, 0x0⟩, ⟨55, 48, .ro, 0x0⟩, ⟨47, 40, .ro, 0x0⟩, ⟨17, 0, .ro, 0x0⟩] },
   { name := "CE.PREFIX", typ := 5, off := 0x8, stride := 8, count := 1, dies := .ch,
      mgmt := true, host := false, eng := false,
      fields := [⟨24, 13, .rw, 0x0⟩] },
   { name := "CL.CTL", typ := 6, off := 0x0, stride := 8, count := 1, dies := .ch,
      mgmt := true, host := false, eng := true,
      fields := [⟨63, 63, .rw, 0x0⟩, ⟨62, 62, .ro, 0x0⟩, ⟨55, 48, .ro, 0x0⟩, ⟨47, 40, .ro, 0x0⟩, ⟨39, 38, .ro, 0x0⟩] },
   { name := "CL.PHY", typ := 6, off := 0x8, stride := 8, count := 1, dies := .ch,
      mgmt := true, host := false, eng := true,
      fields := [⟨63, 63, .rw, 0x1⟩, ⟨62, 59, .rw, 0xf⟩, ⟨58, 57, .rw, 0x0⟩] },
   { name := "CL.ETYPE", typ := 6, off := 0x10, stride := 8, count := 1, dies := .ch,
      mgmt := true, host := false, eng := true,
      fields := [⟨15, 0, .rw, 0x88b5⟩] },
   { name := "CL.VLAN", typ := 6, off := 0x18, stride := 8, count := 1, dies := .ch,
      mgmt := true, host := false, eng := true,
      fields := [⟨63, 63, .rw, 0x0⟩, ⟨62, 62, .rw, 0x1⟩, ⟨61, 59, .rw, 0x3⟩, ⟨43, 32, .rw, 0x0⟩, ⟨31, 16, .rw, 0x300⟩, ⟨15, 0, .rw, 0x200⟩] },
   { name := "CL.MAC", typ := 6, off := 0x20, stride := 8, count := 1, dies := .ch,
      mgmt := true, host := false, eng := false,
      fields := [⟨47, 0, .rw, 0x0⟩] },
   { name := "CL.NODE_ID", typ := 6, off := 0x28, stride := 8, count := 1, dies := .ch,
      mgmt := true, host := false, eng := false,
      fields := [⟨63, 48, .rw, 0x0⟩, ⟨47, 0, .rw, 0x0⟩] },
   { name := "CL.PROTO", typ := 6, off := 0x30, stride := 8, count := 1, dies := .ch,
      mgmt := true, host := false, eng := true,
      fields := [⟨63, 61, .rw, 0x3⟩, ⟨60, 58, .rw, 0x5⟩, ⟨47, 32, .rw, 0x10⟩, ⟨1, 1, .rw, 0x1⟩, ⟨0, 0, .rw, 0x1⟩] },
   { name := "CL.TMO", typ := 6, off := 0x38, stride := 8, count := 1, dies := .ch,
      mgmt := true, host := false, eng := true,
      fields := [⟨63, 48, .rw, 0x64⟩, ⟨47, 32, .rw, 0x3e8⟩, ⟨31, 20, .rw, 0x64⟩, ⟨19, 16, .rw, 0x8⟩, ⟨15, 0, .rw, 0x64⟩] },
   { name := "CL.LGN_ADDR", typ := 6, off := 0x8000, stride := 16, count := 4096, dies := .ch,
      mgmt := true, host := false, eng := true,
      fields := [⟨63, 63, .rw, 0x0⟩, ⟨51, 48, .rw, 0x0⟩, ⟨47, 0, .rw, 0x0⟩] },
   { name := "CL.LGN_STAT", typ := 6, off := 0x8008, stride := 16, count := 4096, dies := .ch,
      mgmt := false, host := false, eng := false,
      fields := [⟨63, 56, .ro, 0x0⟩, ⟨55, 53, .ro, 0x0⟩, ⟨52, 50, .ro, 0x0⟩, ⟨49, 48, .ro, 0x0⟩, ⟨47, 40, .ro, 0x0⟩, ⟨33, 18, .ro, 0x0⟩, ⟨17, 0, .ro, 0x0⟩] },
   { name := "CL.CNT_TX", typ := 6, off := 0x100, stride := 8, count := 1, dies := .ch,
      mgmt := true, host := false, eng := false,
      fields := [⟨63, 63, .w1c, 0x0⟩, ⟨47, 0, .ro, 0x0⟩] },
   { name := "CL.CNT_RX", typ := 6, off := 0x108, stride := 8, count := 1, dies := .ch,
      mgmt := true, host := false, eng := false,
      fields := [⟨63, 63, .w1c, 0x0⟩, ⟨47, 0, .ro, 0x0⟩] },
   { name := "CL.CNT_RETX", typ := 6, off := 0x110, stride := 8, count := 1, dies := .ch,
      mgmt := true, host := false, eng := false,
      fields := [⟨63, 63, .w1c, 0x0⟩, ⟨47, 0, .ro, 0x0⟩] },
   { name := "CL.CNT_DISC", typ := 6, off := 0x120, stride := 8, count := 1, dies := .ch,
      mgmt := true, host := false, eng := false,
      fields := [⟨63, 63, .ro, 0x0⟩, ⟨62, 62, .wo, 0x0⟩, ⟨31, 0, .ro, 0x0⟩] },
   { name := "CL.CNT_TAG", typ := 6, off := 0x128, stride := 8, count := 1, dies := .ch,
      mgmt := true, host := false, eng := false,
      fields := [⟨63, 63, .ro, 0x0⟩, ⟨62, 62, .wo, 0x0⟩, ⟨31, 0, .ro, 0x0⟩] }]

/-- Register tables of block types 7, 8. -/
def regTableStore : List RegDesc :=
  [{ name := "ACC.CTL", typ := 8, off := 0x0, stride := 8, count := 1, dies := .acc,
      mgmt := true, host := true, eng := false,
      fields := [⟨63, 63, .rw, 0x1⟩, ⟨62, 62, .ro, 0x0⟩, ⟨55, 48, .ro, 0x0⟩, ⟨47, 40, .ro, 0x1⟩, ⟨39, 36, .rw, 0x2⟩, ⟨5, 0, .ro, 0x0⟩] },
   { name := "ACC.CNT_IN", typ := 8, off := 0x8, stride := 8, count := 1, dies := .acc,
      mgmt := true, host := false, eng := false,
      fields := [⟨63, 63, .w1c, 0x0⟩, ⟨47, 0, .ro, 0x0⟩] },
   { name := "ACC.CNT_OUT", typ := 8, off := 0x10, stride := 8, count := 1, dies := .acc,
      mgmt := true, host := false, eng := false,
      fields := [⟨63, 63, .w1c, 0x0⟩, ⟨47, 0, .ro, 0x0⟩] },
   { name := "ACC.ERR", typ := 8, off := 0x18, stride := 8, count := 1, dies := .acc,
      mgmt := true, host := false, eng := false,
      fields := [⟨63, 63, .ro, 0x0⟩, ⟨62, 62, .ro, 0x0⟩, ⟨61, 61, .wo, 0x0⟩, ⟨31, 16, .ro, 0x0⟩, ⟨15, 0, .ro, 0x0⟩] },
   { name := "ACC.ENT_STAT", typ := 8, off := 0x20, stride := 8, count := 1, dies := .acc,
      mgmt := false, host := false, eng := false,
      fields := [⟨63, 63, .ro, 0x1⟩, ⟨47, 16, .ro, 0x0⟩, ⟨15, 0, .ro, 0x0⟩] },
   { name := "WS.BANK_OWN", typ := 7, off := 0x100, stride := 8, count := 128, dies := .wsd,
      mgmt := true, host := false, eng := true,
      fields := [⟨63, 63, .ro, 0x0⟩, ⟨62, 62, .ro, 0x0⟩, ⟨61, 61, .rw, 0x0⟩, ⟨47, 40, .ro, 0x0⟩, ⟨15, 8, .ro, 0x0⟩, ⟨7, 0, .rw, 0x7e⟩] },
   { name := "WS.TEST", typ := 7, off := 0x10, stride := 8, count := 1, dies := .wsd,
      mgmt := true, host := false, eng := false,
      fields := [⟨63, 63, .rw, 0x1⟩, ⟨62, 62, .ro, 0x0⟩, ⟨55, 48, .ro, 0x0⟩, ⟨47, 40, .ro, 0x0⟩, ⟨39, 32, .ro, 0x0⟩, ⟨31, 16, .rw, 0x100⟩, ⟨15, 8, .ro, 0x80⟩, ⟨7, 0, .ro, 0x81⟩] },
   { name := "WS.CNT", typ := 7, off := 0x18, stride := 8, count := 1, dies := .wsd,
      mgmt := true, host := false, eng := false,
      fields := [⟨63, 63, .ro, 0x0⟩, ⟨62, 62, .ro, 0x0⟩, ⟨61, 61, .ro, 0x0⟩, ⟨60, 60, .wo, 0x0⟩, ⟨47, 32, .ro, 0x0⟩, ⟨31, 16, .ro, 0x0⟩, ⟨15, 0, .ro, 0x0⟩] },
   { name := "WS.ERR", typ := 7, off := 0x20, stride := 8, count := 1, dies := .wsd,
      mgmt := true, host := false, eng := false,
      fields := [⟨63, 63, .ro, 0x0⟩, ⟨62, 62, .ro, 0x0⟩, ⟨61, 61, .wo, 0x0⟩, ⟨39, 32, .ro, 0x0⟩, ⟨31, 16, .ro, 0x0⟩, ⟨15, 0, .ro, 0x0⟩] },
   { name := "WS.COLL_LAST", typ := 7, off := 0x28, stride := 8, count := 1, dies := .ch,
      mgmt := true, host := false, eng := false,
      fields := [⟨63, 63, .w1c, 0x0⟩, ⟨58, 56, .ro, 0x0⟩, ⟨45, 32, .ro, 0x0⟩, ⟨31, 16, .ro, 0x0⟩, ⟨15, 0, .ro, 0x0⟩] },
   { name := "WS.VAULT", typ := 7, off := 0x30, stride := 8, count := 1, dies := .sg,
      mgmt := false, host := false, eng := false,
      fields := [⟨63, 63, .wo, 0x0⟩, ⟨62, 62, .ro, 0x0⟩, ⟨47, 40, .ro, 0x1⟩, ⟨31, 0, .ro, 0x1⟩] }]

/-- Register tables of block types 9. -/
def regTableFault : List RegDesc :=
  [{ name := "FC.STAT", typ := 9, off := 0x0, stride := 8, count := 1, dies := .sg,
      mgmt := false, host := false, eng := false,
      fields := [⟨63, 63, .ro, 0x0⟩, ⟨62, 62, .ro, 0x0⟩, ⟨61, 59, .ro, 0x0⟩, ⟨55, 48, .ro, 0x0⟩, ⟨47, 40, .ro, 0x0⟩, ⟨39, 32, .ro, 0x0⟩, ⟨31, 24, .ro, 0x0⟩] },
   { name := "FC.ACK", typ := 9, off := 0x8, stride := 8, count := 1, dies := .sg,
      mgmt := true, host := true, eng := false,
      fields := [⟨63, 61, .wo, 0x0⟩, ⟨31, 0, .wo, 0x0⟩] },
   { name := "FC.FIRST_MSG", typ := 9, off := 0x100, stride := 32, count := 7, dies := .sg,
      mgmt := false, host := false, eng := false,
      fields := [⟨63, 0, .ro, 0x0⟩] },
   { name := "FC.FIRST_TOD", typ := 9, off := 0x108, stride := 32, count := 7, dies := .sg,
      mgmt := false, host := false, eng := false,
      fields := [⟨63, 0, .ro, 0x0⟩] },
   { name := "FC.FIRST_STAT", typ := 9, off := 0x110, stride := 32, count := 7, dies := .sg,
      mgmt := true, host := true, eng := false,
      fields := [⟨63, 63, .w1c, 0x0⟩, ⟨62, 62, .ro, 0x0⟩, ⟨61, 61, .ro, 0x0⟩, ⟨47, 32, .ro, 0x0⟩, ⟨31, 0, .ro, 0x0⟩] },
   { name := "FC.CNT", typ := 9, off := 0x200, stride := 8, count := 7, dies := .sg,
      mgmt := true, host := false, eng := false,
      fields := [⟨63, 63, .ro, 0x0⟩, ⟨62, 62, .wo, 0x0⟩, ⟨31, 0, .ro, 0x0⟩] },
   { name := "FC.CNT_MISC", typ := 9, off := 0x240, stride := 8, count := 1, dies := .sg,
      mgmt := true, host := false, eng := false,
      fields := [⟨63, 63, .ro, 0x0⟩, ⟨62, 62, .ro, 0x0⟩, ⟨61, 61, .wo, 0x0⟩, ⟨47, 32, .ro, 0x0⟩, ⟨31, 0, .ro, 0x0⟩] },
   { name := "FC.INJ_CTL", typ := 9, off := 0x300, stride := 8, count := 1, dies := .sg,
      mgmt := true, host := false, eng := false,
      fields := [⟨63, 63, .rw, 0x0⟩, ⟨62, 62, .ro, 0x0⟩, ⟨55, 48, .ro, 0x0⟩, ⟨47, 44, .rw, 0x0⟩, ⟨43, 36, .rw, 0x0⟩, ⟨35, 28, .rw, 0x0⟩, ⟨27, 20, .rw, 0x0⟩] },
   { name := "FC.INJ_TGT", typ := 9, off := 0x308, stride := 8, count := 1, dies := .sg,
      mgmt := true, host := false, eng := false,
      fields := [⟨49, 0, .rw, 0x0⟩] },
   { name := "FC.INJ_LIVE", typ := 9, off := 0x310, stride := 8, count := 1, dies := .sg,
      mgmt := true, host := false, eng := false,
      fields := [⟨63, 63, .rw, 0x0⟩] },
   { name := "FC.HIST_HEAD", typ := 9, off := 0x400, stride := 8, count := 1, dies := .sg,
      mgmt := false, host := false, eng := false,
      fields := [⟨37, 32, .ro, 0x0⟩, ⟨31, 0, .ro, 0x0⟩] },
   { name := "FC.HIST_MSG", typ := 9, off := 0x1000, stride := 32, count := 64, dies := .sg,
      mgmt := false, host := false, eng := false,
      fields := [⟨63, 0, .ro, 0x0⟩] },
   { name := "FC.HIST_TOD", typ := 9, off := 0x1008, stride := 32, count := 64, dies := .sg,
      mgmt := false, host := false, eng := false,
      fields := [⟨63, 0, .ro, 0x0⟩] },
   { name := "FC.HIST_META", typ := 9, off := 0x1010, stride := 32, count := 64, dies := .sg,
      mgmt := false, host := false, eng := false,
      fields := [⟨63, 63, .ro, 0x0⟩, ⟨62, 62, .ro, 0x0⟩, ⟨61, 61, .ro, 0x0⟩, ⟨60, 59, .ro, 0x0⟩, ⟨58, 58, .ro, 0x0⟩, ⟨57, 57, .ro, 0x0⟩, ⟨56, 54, .ro, 0x0⟩, ⟨31, 0, .ro, 0x0⟩] },
   { name := "FC.THR", typ := 9, off := 0x2000, stride := 8, count := 256, dies := .sg,
      mgmt := true, host := false, eng := false,
      fields := [⟨63, 48, .rw, 0x100⟩, ⟨47, 40, .rw, 0x40⟩, ⟨31, 16, .ro, 0x0⟩, ⟨15, 0, .ro, 0x0⟩] }]

/-- Register tables of block types 10, 13. -/
def regTableService : List RegDesc :=
  [{ name := "SV.CMAP", typ := 10, off := 0x400, stride := 8, count := 192, dies := .sg,
      mgmt := true, host := false, eng := false,
      fields := [⟨63, 62, .rw, 0x0⟩, ⟨55, 48, .ro, 0x0⟩, ⟨43, 40, .rw, 0x0⟩, ⟨36, 32, .rw, 0x0⟩] },
   { name := "SV.SPARE_POOL", typ := 10, off := 0xa00, stride := 8, count := 1, dies := .sg,
      mgmt := true, host := false, eng := false,
      fields := [⟨32, 32, .rw, 0x1⟩, ⟨31, 16, .rw, 0x0⟩, ⟨15, 0, .ro, 0x0⟩] },
   { name := "SV.CTL", typ := 10, off := 0x0, stride := 8, count := 1, dies := .sg,
      mgmt := true, host := false, eng := false,
      fields := [⟨63, 63, .rw, 0x0⟩, ⟨62, 62, .rw, 0x0⟩, ⟨61, 61, .rw, 0x0⟩, ⟨47, 32, .rw, 0xbb8⟩] },
   { name := "SV.SNAP", typ := 10, off := 0x10, stride := 8, count := 1, dies := .sg,
      mgmt := true, host := true, eng := false,
      fields := [⟨63, 63, .wo, 0x0⟩] },
   { name := "SV.SNAP_STAT", typ := 10, off := 0x18, stride := 8, count := 1, dies := .sg,
      mgmt := false, host := false, eng := false,
      fields := [⟨63, 63, .ro, 0x0⟩, ⟨62, 62, .ro, 0x0⟩, ⟨15, 0, .ro, 0x0⟩] },
   { name := "SV.SNAP_TOD", typ := 10, off := 0x20, stride := 8, count := 1, dies := .sg,
      mgmt := false, host := false, eng := false,
      fields := [⟨63, 0, .ro, 0x0⟩] },
   { name := "SV.SE_STAT", typ := 10, off := 0x28, stride := 8, count := 1, dies := .sg,
      mgmt := false, host := false, eng := false,
      fields := [⟨63, 62, .ro, 0x0⟩, ⟨61, 60, .ro, 0x0⟩, ⟨59, 59, .ro, 0x0⟩, ⟨55, 54, .ro, 0x0⟩, ⟨53, 52, .ro, 0x0⟩, ⟨51, 51, .ro, 0x0⟩, ⟨3, 0, .ro, 0xf⟩] },
   { name := "LC.STATE", typ := 13, off := 0x0, stride := 8, count := 1, dies := .sg,
      mgmt := false, host := false, eng := false,
      fields := [⟨63, 60, .ro, 0x0⟩, ⟨59, 59, .ro, 0x0⟩, ⟨58, 56, .ro, 0x0⟩, ⟨47, 40, .ro, 0x0⟩] },
   { name := "LC.CTL", typ := 13, off := 0x8, stride := 8, count := 1, dies := .sg,
      mgmt := true, host := false, eng := false,
      fields := [⟨63, 63, .rw, 0x0⟩] },
   { name := "LC.NONCE", typ := 13, off := 0x10, stride := 8, count := 4, dies := .sg,
      mgmt := false, host := false, eng := false,
      fields := [⟨63, 0, .ro, 0x0⟩] }]

/-- Register tables of block types 11, 12. -/
def regTablePower : List RegDesc :=
  [{ name := "PWR.SLEW", typ := 11, off := 0x100, stride := 8, count := 5, dies := .sg,
      mgmt := true, host := false, eng := false,
      fields := [⟨56, 48, .rw, 0xc8⟩] },
   { name := "PWR.RAIL", typ := 11, off := 0x200, stride := 8, count := 13, dies := .sg,
      mgmt := true, host := false, eng := false,
      fields := [⟨63, 48, .ro, 0x0⟩, ⟨47, 32, .ro, 0x0⟩, ⟨31, 31, .ro, 0x0⟩, ⟨30, 30, .w1c, 0x0⟩, ⟨6, 0, .rw, 0x0⟩] },
   { name := "PWR.DROOP", typ := 11, off := 0x10, stride := 8, count := 1, dies := .cx,
      mgmt := true, host := false, eng := false,
      fields := [⟨63, 63, .rw, 0x1⟩, ⟨62, 62, .wo, 0x0⟩, ⟨55, 48, .rw, 0x19⟩, ⟨47, 40, .ro, 0x0⟩] },
   { name := "PWR.GOV_CNT", typ := 11, off := 0x18, stride := 8, count := 1, dies := .cx,
      mgmt := true, host := false, eng := false,
      fields := [⟨63, 63, .w1c, 0x0⟩, ⟨47, 0, .ro, 0x0⟩] },
   { name := "CLK.PASS", typ := 12, off := 0x10, stride := 8, count := 1, dies := .any,
      mgmt := true, host := false, eng := false,
      fields := [⟨63, 63, .w1c, 0x0⟩, ⟨47, 32, .ro, 0x0⟩, ⟨31, 16, .ro, 0x0⟩] },
   { name := "CLK.PASS_NUM", typ := 12, off := 0x18, stride := 8, count := 1, dies := .any,
      mgmt := true, host := false, eng := false,
      fields := [⟨63, 63, .w1c, 0x0⟩, ⟨47, 0, .ro, 0x0⟩] },
   { name := "CLK.TOD_CTL", typ := 12, off := 0x100, stride := 8, count := 1, dies := .sg,
      mgmt := true, host := false, eng := false,
      fields := [⟨63, 63, .rw, 0x0⟩, ⟨62, 62, .ro, 0x0⟩, ⟨61, 61, .ro, 0x0⟩, ⟨47, 32, .rw, 0x3e8⟩, ⟨31, 16, .rw, 0x1f4⟩, ⟨15, 8, .rw, 0x0⟩, ⟨7, 6, .rw, 0x0⟩] },
   { name := "CLK.TOD", typ := 12, off := 0x108, stride := 8, count := 1, dies := .sg,
      mgmt := false, host := false, eng := false,
      fields := [⟨63, 0, .ro, 0x0⟩] },
   { name := "CLK.TOD_SET", typ := 12, off := 0x110, stride := 8, count := 1, dies := .sg,
      mgmt := true, host := false, eng := false,
      fields := [⟨63, 0, .wo, 0x0⟩] },
   { name := "CLK.TOD_STAT", typ := 12, off := 0x118, stride := 8, count := 1, dies := .sg,
      mgmt := false, host := false, eng := false,
      fields := [⟨63, 32, .ro, 0x0⟩, ⟨31, 16, .ro, 0x0⟩] }]

/-- ERR.LAST_WRITE, at offset 0x0FF8 of every block window (R18). -/
def errLastWrite : RegDesc :=
  { name := "ERR.LAST_WRITE", typ := 14, off := 0xff8, stride := 8, count := 1, dies := .any, mgmt := true, host := true,
    eng := false, fields := [⟨63, 63, .w1c, 0⟩, ⟨62, 62, .w1c, 0⟩, ⟨55, 48, .ro, 0⟩, ⟨47, 40, .ro, 0⟩, ⟨23, 0, .ro, 0⟩] }

/-- Every register table. -/
def regTable : List RegDesc :=
  regTableCore ++ regTableChannel ++ regTableStore ++ regTableFault ++ regTableService ++ regTablePower

end Sys2Proof.Machine
end

