-- ==== Sys2Proof/Machine/Store.lean ====
section
/-! DEFINITION. Sparse data in one canonical form: reading, writing, and the form itself. -/
namespace Sys2Proof.Machine
open Sys2Proof

/-- The entry of key `k`, or the default of `k` where none is listed. -/
def sget {α : Type} (d : Nat → α) : Store α → Nat → α
  | [], k => d k
  | (k', v) :: r, k => if k' = k then v else sget d r k

/-- The list without any entry of key `k`. -/
def serase {α : Type} : Store α → Nat → Store α
  | [], _ => []
  | (k', v) :: r, k => if k' = k then serase r k else (k', v) :: serase r k

/-- An entry put before the first greater key. -/
def sinsert {α : Type} : Store α → Nat → α → Store α
  | [], k, v => [(k, v)]
  | (k', v') :: r, k, v => if k < k' then (k, v) :: (k', v') :: r else (k', v') :: sinsert r k v

/-- Key `k` set to `v`: no entry stays listed at its default. -/
def sput {α : Type} [DecidableEq α] (d : Nat → α) (m : Store α) (k : Nat) (v : α) : Store α :=
  if v = d k then serase m k else sinsert (serase m k) k v

/-- The keys rise strictly from above `lo` and no entry equals its default. -/
def swfFrom {α : Type} [DecidableEq α] (d : Nat → α) : Option Nat → Store α → Bool
  | _, [] => true
  | lo, (k, v) :: r =>
    (match lo with
      | none => true
      | some l => decide (l < k)) && decide (v ≠ d k) && swfFrom d (some k) r

/-- The canonical form of sparse data: equal contents are equal lists. -/
def swf {α : Type} [DecidableEq α] (d : Nat → α) (m : Store α) : Bool := swfFrom d none m

/-! ## Storage bytes -/

/-- What a byte that nothing has written reads as: 0 (DESIGN CHOICE, log entry 4; R304 zeroes every installed line). -/
def memDefault : Nat → Byte := fun _ => 0

/-- One byte of storage. -/
def Memory.read (m : List Host.Cell) (a : Nat) : Byte := sget memDefault m a

/-- One byte of storage written. -/
def Memory.write (m : List Host.Cell) (a : Nat) (v : Byte) : List Host.Cell := sput memDefault m a v

/-- Memory is in canonical form: addresses strictly rising, no entry equal to what an unlisted address reads as. -/
def Memory.wf (m : List Host.Cell) : Bool := swf memDefault m

/-- `n` bytes from address `a`, the lowest address first. -/
def Memory.readN (m : List Host.Cell) (a : Nat) : Nat → List Byte
  | 0 => []
  | n + 1 => Memory.read m a :: Memory.readN m (a + 1) n

/-- Bytes written from address `a` on. -/
def Memory.writeN (m : List Host.Cell) (a : Nat) : List Byte → List Host.Cell
  | [] => m
  | b :: bs => Memory.writeN (Memory.write m a b) (a + 1) bs

end Sys2Proof.Machine
end

