-- ==== Sys2Proof/Machine/Base.lean ====
section
/-! DEFINITION. The named reads and writes of State: units and their registers, service registers, storage bytes, the
Core Map, images, fault messages. -/
namespace Sys2Proof.Machine
open Sys2Proof

/-! ## Units -/

/-- The state of executing unit u. -/
def State.unit (s : State) (u : Nat) : Cpu := sget (fun _ => Cpu.reset) s.units u

/-- The state of executing unit u replaced. -/
def State.setUnit (s : State) (u : Nat) (c : Cpu) : State := { s with units := sput (fun _ => Cpu.reset) s.units u c }

/-- The state of unit u changed by f. -/
def State.modUnit (s : State) (u : Nat) (f : Cpu → Cpu) : State := s.setUnit u (f (s.unit u))

/-- A unit is a logical CPU, with the full profile (R52, R91). -/
def isCpu (u : Nat) : Bool := decide (u < 192)

/-- The reset value of control register n (the c0 to c63 tables of chapters 02, 05, 06 and 07). -/
def cDefault (n : Nat) : Dword := if n = 5 then 0xFFFFFFFFFFFFFFFF else if n = 33 then 1 else 0

/-- General register r (R52): an ordinary operand, never a constant. -/
def Cpu.getG (c : Cpu) (r : BitVec 5) : Dword := sget (fun _ => 0) c.g r.toNat
def Cpu.setG (c : Cpu) (r : BitVec 5) (v : Dword) : Cpu := { c with g := sput (fun _ => 0) c.g r.toNat v }
/-- Floating register r (R52). -/
def Cpu.getF (c : Cpu) (r : BitVec 5) : Dword := sget (fun _ => 0) c.f r.toNat
def Cpu.setF (c : Cpu) (r : BitVec 5) (v : Dword) : Cpu := { c with f := sput (fun _ => 0) c.f r.toNat v }

/-- The unit executes inside an image: the image bank and the image return stack are in use (R53). -/
def Cpu.inImage (c : Cpu) : Bool := c.irun.isSome

/-- Control register n as held, from the bank in use (R53, R55). -/
def Cpu.getC (c : Cpu) (n : Nat) : Dword :=
  if 32 ≤ n then sget cDefault c.hiC n else if c.inImage then sget cDefault c.imgC n else sget cDefault c.hostC n

def Cpu.setC (c : Cpu) (n : Nat) (v : Dword) : Cpu :=
  if 32 ≤ n then { c with hiC := sput cDefault c.hiC n v }
  else if c.inImage then { c with imgC := sput cDefault c.imgC n v }
  else { c with hostC := sput cDefault c.hostC n v }

/-- The return stack in use (R53). -/
def Cpu.rs (c : Cpu) : RStack := if c.inImage then c.imgRs else c.hostRs
def Cpu.setRs (c : Cpu) (r : RStack) : Cpu := if c.inImage then { c with imgRs := r } else { c with hostRs := r }

/-- Return-stack depth D (R69). -/
def rsDepth (u : Nat) : Nat := if isCpu u then 32 else 8

/-- The CPU timer: c4 is held as its value plus the units elapsed, so it falls by 1 every unit (R56). -/
def timerOf (s : State) (held : Dword) : Dword := held - BitVec.ofNat 64 s.elapsed

/-- A unit whose state is at its reset values, the CPU timer at 0 from now on (R56, R92). -/
def State.freshUnit (s : State) : Cpu := Cpu.reset.setC 4 (BitVec.ofNat 64 s.elapsed)

/-- Control register n as STCTL reads it: c4 counted down, c9 with COUNT and DISC (R55, R56, R69). -/
def State.readC (s : State) (u n : Nat) : Dword :=
  let c := s.unit u
  if n = 4 then timerOf s (c.getC 4)
  else if n = 9 then setBit (BitVec.ofNat 64 c.rs.entries.length) 63 c.rs.disc
  else c.getC n

/-- Control register n written: c4 from the units elapsed, c9 sets DISC only (R55, c9 table). -/
def State.writeC (s : State) (u n : Nat) (v : Dword) : State :=
  s.modUnit u fun c =>
    if n = 4 then c.setC 4 (v + BitVec.ofNat 64 s.elapsed)
    else if n = 9 then c.setRs { c.rs with disc := bit v 63 }
    else c.setC n v

def Cpu.setIa (c : Cpu) (a : Dword) : Cpu := { c with psw := { c.psw with ia := a } }
def Cpu.setCc (c : Cpu) (cc : BitVec 2) : Cpu := { c with psw := { c.psw with cc := cc } }

def State.g (s : State) (u : Nat) (r : BitVec 5) : Dword := (s.unit u).getG r
def State.setG (s : State) (u : Nat) (r : BitVec 5) (v : Dword) : State := s.modUnit u (·.setG r v)
def State.f (s : State) (u : Nat) (r : BitVec 5) : Dword := (s.unit u).getF r
def State.setF (s : State) (u : Nat) (r : BitVec 5) (v : Dword) : State := s.modUnit u (·.setF r v)
def State.psw (s : State) (u : Nat) : Psw := (s.unit u).psw
def State.setPsw (s : State) (u : Nat) (p : Psw) : State := s.modUnit u fun c => { c with psw := p }
def State.setIa (s : State) (u : Nat) (a : Dword) : State := s.modUnit u (·.setIa a)
def State.setCc (s : State) (u : Nat) (cc : BitVec 2) : State := s.modUnit u (·.setCc cc)

/-- The other register of an even-odd pair (R98). -/
def odd (r : BitVec 5) : BitVec 5 := r + 1

/-! ## Service registers -/

/-- Service-space address of a register (R41). -/
def regAddr (typ inst die off : Nat) : Nat :=
  0x3FF0000000000 + die * 0x1000000000 + (64 * typ + inst) * 0x1000000 + off

/-- Die, block type, instance and offset of a service-space address (R41). -/
def regPlace (a : Nat) : Nat × Nat × Nat × Nat :=
  let r := a % 0x10000000000
  (r / 0x1000000000, r % 0x1000000000 / 0x1000000 / 64, r % 0x1000000000 / 0x1000000 % 64, r % 0x1000000)

/-- Service and configuration space (R38). -/
def inService (a : Nat) : Bool := decide (0x3FF0000000000 ≤ a) && decide (a < 0x3FFB000000000)

/-- The cryptography engine with the lowest instance number of a die (ACC.ENT_STAT). -/
def firstCrypto (die : Nat) : Nat := if die < 8 then 1 else 4

def RegDesc.on (d : RegDesc) (die inst : Nat) : Bool :=
  match d.dies with
  | .cx => decide (die < 8)
  | .ch => decide (die = 8) || decide (die = 9)
  | .sg => decide (die = 10)
  | .wsd => decide (8 ≤ die) && decide (die ≤ 10)
  | .acc => decide (die < 10) && (decide (d.off ≠ 0x20) || decide (inst = firstCrypto die))
  | .any => decide (die ≤ 10)

/-- The offset falls on an entry of the register array; WS.BANK_OWN has 32 entries on SG (13_working_store.md). -/
def RegDesc.index (d : RegDesc) (die off : Nat) : Option Nat :=
  let n := if d.name = "WS.BANK_OWN" ∧ die = 10 then 32 else d.count
  if d.off ≤ off ∧ (off - d.off) % d.stride = 0 ∧ (off - d.off) / d.stride < n then some ((off - d.off) / d.stride) else none

/-- The register at an address, with its index in an array (R18, R41). -/
def findReg (a : Nat) : Option (RegDesc × Nat) :=
  let p := regPlace a
  if p.2.2.2 = 0xFF8 then some (errLastWrite, 0)
  else regTable.findSome? fun d =>
    if d.typ = p.2.1 ∧ d.on p.1 p.2.2.1 then (d.index p.1 p.2.2.2).map fun i => (d, i) else none

/-- The registers that hold a wrapping or saturating field (R493, R494, R496). -/
def counterNames : List String :=
  ["CORE.CHK_STAT", "L2.ERR", "L3.ERR", "L3.DIR_STAT", "DC.ERR", "DC.EV_FORCED", "DC.EV_INORDER", "DC.EV_SRABORT", "CS.STALE",
   "CL.CNT_TX", "CL.CNT_RX", "CL.CNT_RETX", "CL.CNT_DISC", "CL.CNT_TAG", "ACC.CNT_IN", "ACC.CNT_OUT", "ACC.ERR", "ACC.ENT_STAT",
   "WS.CNT", "WS.ERR", "WS.VAULT", "FC.STAT", "FC.FIRST_STAT", "FC.CNT", "FC.CNT_MISC", "FC.THR", "PWR.GOV_CNT", "CLK.PASS",
   "CLK.PASS_NUM", "CLK.TOD_STAT"]

/-- A register with a shadow (R496). -/
def isCounter (a : Nat) : Bool :=
  match findReg a with
  | some (d, _) => counterNames.contains d.name
  | none => false

/-- The window of an address holds a counter register, so it holds SHD.TAG. -/
def hasTag (a : Nat) : Bool :=
  let p := regPlace a
  regTable.any fun d => d.typ == p.2.1 && d.on p.1 p.2.2.1 && counterNames.contains d.name

/-- The counter whose shadow stands 0x800000 above it in its window (R496). -/
def shadowed (a : Nat) : Nat := a / 0x1000000 * 0x1000000 + a % 0x800000

/-- The Reset column of the fields, packed. -/
def resetOf (fs : List RField) : Dword := fs.foldl (fun v f => fset v f.lo (f.hi - f.lo + 1) f.reset) 0

/-- Reset value of WS.BANK_OWN[n] of a die (13_working_store.md, R430). -/
def bankOwnReset (die n : Nat) : Dword :=
  let owner := if die = 10 then (if 28 ≤ n then 0x7F else 0x7E) else if 120 ≤ n then 0x50 + (n - 120) else 0x7E
  let v := fset (BitVec.ofNat 64 owner) 40 8 n
  if die ≠ 10 ∧ n < 8 then setBit (setBit v 63 true) 61 true else v

/-- The active slots of the modelled part's die before cold reset has built the Core Map (R30, log entry 2). -/
def cmapReset (n : Nat) : Dword :=
  fset (fset (fset 0 62 2 1) 40 4 (n / 24)) 32 5 (if n % 24 < 12 then n % 24 else n % 24 + 1)

/-- The reset value of the register at an address (R17). -/
def regDefault (a : Nat) : Dword :=
  match findReg a with
  | none => 0
  | some (d, i) =>
    let die := (regPlace a).1
    if d.name = "WS.BANK_OWN" then bankOwnReset die i
    else if d.name = "WS.TEST" ∧ die = 10 then fset (fset (resetOf d.fields) 8 8 0xFF) 0 8 0x20
    else if d.name = "SV.CMAP" then cmapReset i
    else if d.name = "LC.NONCE" then Config.freeDword (2 ^ 32 + i)
    else if d.name = "SV.SPARE_POOL" then fset (resetOf d.fields) 0 16 0xFFFF
    else resetOf d.fields

/-- The held value of a service register. -/
def State.reg (s : State) (a : Nat) : Dword := sget regDefault s.regs a
def State.setReg (s : State) (a : Nat) (v : Dword) : State := { s with regs := sput regDefault s.regs a v }

/-- Bits [lo + w - 1 : lo] of a service register. -/
def State.rf (s : State) (a lo w : Nat) : Nat := fget (s.reg a) lo w
def State.setRf (s : State) (a lo w n : Nat) : State := s.setReg a (fset (s.reg a) lo w n)

/-- A saturating error counter with its SAT bit (R494); a SAT bit number of 64 means there is none. -/
def State.errInc (s : State) (a lo w sat : Nat) : State :=
  let n := satInc (s.rf a lo w) w
  let v := fset (s.reg a) lo w n
  s.setReg a (if n = 2 ^ w - 1 ∧ sat < 64 then setBit v sat true else v)

/-! ### Addresses of the registers other definitions read -/

def rLastWrite (typ inst die : Nat) : Nat := regAddr typ inst die 0xFF8
def rCmap (n : Nat) : Nat := regAddr 10 0 10 (0x400 + 8 * n)
def rSparePool : Nat := regAddr 10 0 10 0xA00
def rChkStat (core : Nat) : Nat := regAddr 0 (core % 26) (core / 26) 0x100
def rIntTod (core i : Nat) : Nat := regAddr 0 (core % 26) (core / 26) (0x108 + 8 * i)
def rL2Ctl (core : Nat) : Nat := regAddr 1 (core % 26) (core / 26) 0
def rL2Err (core : Nat) : Nat := regAddr 1 (core % 26) (core / 26) 0x10
def rL3Ctl (die : Nat) : Nat := regAddr 2 0 die 0
def rL3Err (die : Nat) : Nat := regAddr 2 0 die 0x10
def rDirStat (die : Nat) : Nat := regAddr 2 0 die 0x20
/-- A register of the DRAM controller of channel c (0 to 15): channel c[0] of die c[3:1] (R40). -/
def rDc (c off : Nat) : Nat := regAddr 3 (c % 2) (c / 2) off
def rSvCtl : Nat := regAddr 10 0 10 0
def rFcStat : Nat := regAddr 9 0 10 0

/-! ## Storage bytes -/

def State.byte (s : State) (a : Nat) : Byte := Memory.read s.mem a
def State.bytes (s : State) (a n : Nat) : List Byte := Memory.readN s.mem a n
def State.putBytes (s : State) (a : Nat) (b : List Byte) : State := { s with mem := Memory.writeN s.mem a b }

/-! ## Free values (log entry 5) -/

/-- One draw of the free-value counter. -/
def State.draw (s : State) : Nat × State := (s.free, { s with free := s.free + 1 })

/-- n free bytes. -/
def State.freeBytes (s : State) (n : Nat) : List Byte × State :=
  ((List.range n).map fun i => Config.freeByte (s.free + i), { s with free := s.free + n })

/-- One free doubleword. -/
def State.freeDword (s : State) : Dword × State := (Config.freeDword s.free, { s with free := s.free + 1 })

/-! ## Core Map (R30, R34) -/

/-- SV.CMAP[n].STATE. -/
def State.cmapState (s : State) (n : Nat) : Nat := s.rf (rCmap n) 62 2

/-- The physical core an entry names, 26 d + s. -/
def State.coreOf (s : State) (n : Nat) : Nat := 26 * s.rf (rCmap n) 40 4 + s.rf (rCmap n) 32 5

/-- The active-core count of the part (R1, R4). -/
def State.activeCount (s : State) : Nat := 8 * s.fuses.activePerDie

/-- The logical CPU that an active or moving entry places on a physical core. -/
def State.cpuOn (s : State) (core : Nat) : Option Nat :=
  (List.range 192).find? fun n => (s.cmapState n == 1 || s.cmapState n == 2) && s.coreOf n == core

/-- Logical CPUs with an active entry, in ascending number. -/
def State.activeCpus (s : State) : List Nat := (List.range 192).filter fun n => s.cmapState n == 1

/-- Physical core hardware. -/
def State.core (s : State) (k : Nat) : CoreHw := sget (fun _ => CoreHw.reset) s.cores k
def State.setCore (s : State) (k : Nat) (c : CoreHw) : State := { s with cores := sput (fun _ => CoreHw.reset) s.cores k c }
def State.modCore (s : State) (k : Nat) (f : CoreHw → CoreHw) : State := s.setCore k (f (s.core k))
def State.die (s : State) (d : Nat) : DieHw := sget (fun _ => DieHw.reset) s.dies d
def State.setDie (s : State) (d : Nat) (h : DieHw) : State := { s with dies := sput (fun _ => DieHw.reset) s.dies d h }
def State.modDie (s : State) (d : Nat) (f : DieHw → DieHw) : State := s.setDie d (f (s.die d))

/-! ## Images -/

def State.image (s : State) (n : Nat) : Option Image := sget (fun _ => none) s.images n
def State.setImage (s : State) (n : Nat) (i : Option Image) : State := { s with images := sput (fun _ => none) s.images n i }

/-! ## Fault messages (R450, R451) -/

/-- The 64 bits of a message (R450). -/
def msgWord (die unit kind cls : Nat) (inj : Bool) (synd : Nat) : Dword :=
  BitVec.ofNat 64 (die <<< 60 + (unit % 256) <<< 52 + (kind % 256) <<< 44 + (cls % 8) <<< 41 + inj.toNat <<< 40 + synd % 2 ^ 40)

def msgDie (w : Dword) : Nat := fget w 60 4
def msgUnit (w : Dword) : Nat := fget w 52 8
def msgKind (w : Dword) : Nat := fget w 44 8
def msgClass (w : Dword) : Nat := fget w 41 3
def msgInj (w : Dword) : Bool := bit w 40
def msgSynd (w : Dword) : Nat := fget w 0 40

def State.queue (s : State) (die : Nat) : List Msg := sget (fun _ => []) s.msgs die
def State.setQueue (s : State) (die : Nat) (q : List Msg) : State := { s with msgs := sput (fun _ => []) s.msgs die q }

/-- The local time-of-day copy of a die, which stamps its messages (R451, R511). -/
def State.dieTod (s : State) (die : Nat) : Dword := s.tod + (Config.todSkew (292 + die)).signExtend 64

/-- A message stamped and queued; class 0 and 1 messages that find the 16 places taken wait to be merged, and others
are held until there is room (R451). -/
def State.sendMsg (s : State) (m : Msg) : State :=
  let q := s.queue (msgDie m.word)
  if 16 ≤ q.length ∧ msgClass m.word ≤ 1 then { s with merges := s.merges ++ [m] }
  else s.setQueue (msgDie m.word) (q ++ [m])

def State.send (s : State) (die unit kind cls synd : Nat) (inj : Bool := false) (coin : Bool := false) : State :=
  let img := if die < 8 ∧ unit < 0x40 ∧ unit % 32 < 26 then
      match s.cpuOn (26 * die + unit % 32) with
      | some n => ((s.unit n).irun).map (·.image)
      | none => none
    else none
  s.sendMsg ⟨msgWord die unit kind cls inj synd, s.dieTod die, img, coin⟩

/-- A condition's source holds it live (R461): its onset sends one message; while it is live nothing more is sent. -/
def State.condBegin (s : State) (die unit kind cls synd part : Nat) (inj : Bool := false) (coin : Bool := false) : State :=
  if s.live.contains ⟨die, unit, kind, part⟩ then s
  else ({ s with live := s.live ++ [⟨die, unit, kind, part⟩] } : State).send die unit kind cls synd inj coin

/-- FC.FIRST_STAT[c]. -/
def rFirstStat (c : Nat) : Nat := regAddr 9 0 10 (0x110 + 32 * c)

/-- FC.FIRST_MSG[c]. -/
def rFirstMsg (c : Nat) : Nat := regAddr 9 0 10 (0x100 + 32 * c)

/-- Some part of a unit holds a condition of a kind live. -/
def State.isLive (s : State) (die unit kind : Nat) : Bool := s.live.any fun c => c.die == die && c.unit == unit && c.kind == kind

/-- PRESENT of a valid capture shows whether the captured condition is live (R461). -/
def State.showPresent (s : State) (c : Nat) : State :=
  let m := s.reg (rFirstMsg c)
  if bit (s.reg (rFirstStat c)) 63 then
    s.setReg (rFirstStat c) (setBit (s.reg (rFirstStat c)) 62 (s.isLive (msgDie m) (msgUnit m) (msgKind m)))
  else s

/-- A condition ends: no message is sent, and PRESENT of its captures falls (R461). -/
def State.condEnd (s : State) (die unit kind part : Nat) : State :=
  if s.live.contains ⟨die, unit, kind, part⟩ then
    (List.range 7).foldl State.showPresent { s with live := s.live.filter fun c => c != ⟨die, unit, kind, part⟩ }
  else s

/-- The die and unit number an executing unit reports from (R26). -/
def State.source (s : State) (u : Nat) : Nat × Nat :=
  if u < 192 then (s.coreOf u / 26, s.coreOf u % 26)
  else if u < 288 then (8 + (u - 192) / 48, (u - 192) % 48)
  else (10, u - 288)

/-- The image a logical CPU is running, for R455. -/
def State.imgOf (s : State) (u : Nat) : Option Nat := ((s.unit u).irun).map (·.image)

/-- A message of an executing unit. -/
def State.unitMsg (s : State) (u kind cls synd : Nat) : Msg :=
  ⟨msgWord (s.source u).1 (s.source u).2 kind cls false synd, s.dieTod (s.source u).1, s.imgOf u, false⟩

def State.unitSend (s : State) (u kind cls synd : Nat) : State := s.sendMsg (s.unitMsg u kind cls synd)

/-! ## Pending conditions -/

/-- A machine check made pending at a unit (R86). -/
def State.pendMc (s : State) (u : Nat) (m : MCheck) : State := s.modUnit u fun c => { c with mchecks := c.mchecks ++ [m] }

/-- A service signal made pending at the host level of a CPU: one that finds 16 pending replaces the newest with code
0xFF (R485). -/
def State.pendSignal (s : State) (u : Nat) (v : Dword) : State :=
  s.modUnit u fun c =>
    if c.signals.length < 16 then { c with signals := c.signals ++ [v] }
    else { c with signals := c.signals.dropLast ++ [0xFF00000000000000] }

/-- A service signal with event code and details, at the lowest-numbered active logical CPU (R485). -/
def State.hostSignal (s : State) (code detail : Nat) : State :=
  match s.activeCpus with
  | [] => s
  | n :: _ => s.pendSignal n (BitVec.ofNat 64 (code <<< 56 + detail % 2 ^ 56))

/-- FSP session i. -/
def State.session (s : State) (i : Nat) : Option Session := sget (fun _ => none) s.sessions i

/-- The first byte of a header that the module sends: its VMAX in HELLO, else the version of the session, 0 before there is one
(R480). -/
def State.headerVer (s : State) (i group code : Nat) : Nat :=
  if group = 1 ∧ code = 1 then 3 else match s.session i with | some x => x.ver | none => 0

/-- A record sent on a session (R480). -/
def State.fspSend (s : State) (i : Nat) (event : Bool) (group code : Nat) (req : Word) (status : Nat) (body : List Dword) : State :=
  { s with fspOut := s.fspOut ++ [⟨i, s.headerVer i group code, event, group, code, req, status, body⟩] }

/-- The bytes of a record: the 16-byte header, big-endian, and its body, 8 bytes a value (R9, R480; log entry 17). -/
def FspOut.bytes (o : FspOut) : List Byte :=
  beBytes 1 o.ver ++ beBytes 1 o.group ++ beBytes 1 o.code ++ [if o.event then 0x40 else 0x80] ++ beBytes 4 o.req.toNat ++
    beBytes 4 (8 * o.body.length) ++ beBytes 2 (if o.event then 0 else o.status) ++ [0, 0] ++ o.body.flatMap fun v => beBytes 8 v.toNat

/-- An event sent to every session that has completed HELLO (R483, R484); the boot ROM's receives LC_EVENT alone (R478,
R489). -/
def State.fspEvent (s : State) (group code : Nat) (body : List Dword) : State :=
  (List.range 2).foldl (fun t i => match t.session i with
    | some x => if x.role = .active ∨ x.role = .standby ∨ (x.role = .rom ∧ group = 9) then t.fspSend i true group code 0 0 body else t
    | none => t) s

/-- CMAP_EVENT: a Core Map entry has changed (R484). -/
def State.cmapEvent (s : State) (n : Nat) : State := s.fspEvent 8 3 [BitVec.ofNat 64 n, s.reg (rCmap n)]

/-- Service signal 0x02 and CMAP_EVENT for a changed Core Map entry (R484, R485). -/
def State.cmapSignal (s : State) (n : Nat) : State :=
  let d := s.rf (rCmap n) 48 8 <<< 8 + n
  (if s.cmapState n = 1 then s.pendSignal n (BitVec.ofNat 64 (2 <<< 56 + d)) else s.hostSignal 2 d).cmapEvent n

/-- An external code of a small-profile unit made pending (R358, R474). -/
def State.pendCode (s : State) (u : Nat) (code : BitVec 16) : State :=
  s.modUnit u fun c => if c.unitCodes.contains code then c else { c with unitCodes := c.unitCodes ++ [code] }

end Sys2Proof.Machine
end

