-- ==== Sys2Proof/Machine/Lines.lean ====
section
/-! DEFINITION. Which caches hold a line: geometry (R248, R259) and lookups. The caches hold tags, states and valid and dirty
sectors; the bytes of every valid copy are those of State.mem (R230, R251; log entry 4). -/
namespace Sys2Proof.Machine
open Sys2Proof

def l2Set (line : Nat) : Nat := line % 1024
/-- L3 slice and set: PA[12:8] XOR PA[24:20], PA[22:13]. -/
def l3Set (line : Nat) : Nat := ((nbits line 0 5) ^^^ (nbits line 12 5)) * 1024 + nbits line 5 10
/-- Directory slice and set: the slice of the L3 and PA[23:13]. -/
def dirSet (line : Nat) : Nat := ((nbits line 0 5) ^^^ (nbits line 12 5)) * 2048 + nbits line 5 11

def State.l2On (s : State) (core : Nat) : Bool := bit (s.reg (rL2Ctl core)) 63
def State.l3On (s : State) (die : Nat) : Bool := bit (s.reg (rL3Ctl die)) 63

/-- The physical cores and dies whose arrays hold anything. -/
def State.coreKeys (s : State) : List Nat := s.cores.map (·.1)
def State.dieKeys (s : State) : List Nat := s.dies.map (·.1)

def State.l2Line (s : State) (core line : Nat) : Option L2Line := (s.core core).l2.find? fun l => l.line == line
def State.l3Line (s : State) (die line : Nat) : Option L3Line := (s.die die).l3.find? fun l => l.line == line

/-- The core's L2 or one of its miss buffers holds the line (R251, R253). -/
def State.coreHolds (s : State) (core line : Nat) : Bool :=
  (s.l2Line core line).isSome || (s.core core).miss.any (fun b => b.line == line)

/-- Some cache or miss buffer holds the line's data, so no DRAM read is made. -/
def State.cached (s : State) (line : Nat) : Bool :=
  s.coreKeys.any (fun k => s.coreHolds k line) ||
  s.dieKeys.any (fun d => match s.l3Line d line with | some l => !l.tagOnly && decide (l.valid = 0xF) | none => false)

/-- The sectors of a line whose bit is set in a mask. -/
def maskSectors (line : Nat) (m : BitVec 4) : List Nat :=
  ((List.range 4).filter fun i => m.getLsbD i).map fun i => 4 * line + i

/-- The mask of the sector that holds an address. -/
def sectorMask (pa : Nat) : BitVec 4 := 1#4 <<< (pa / 64 % 4)

end Sys2Proof.Machine
end

