-- ==== Sys2Proof/Machine/Dram.lean ====
section
/-! DEFINITION. The DRAM controllers (R39, R40, R277 to R307): address layout, block decoding, queues, scheduling, refresh,
training, self-refresh, scrub, zeroing and disabling. -/
namespace Sys2Proof.Machine
open Sys2Proof

/-! ## Addresses (R39, R40, R280) -/

/-- Mirroring is enabled (R286, R39: on all compute dies or on none). -/
def State.mirrored (s : State) : Bool := (List.range 16).all fun c => bit (s.reg (rDc c 0)) 61

/-- DIMM capacity in bytes (R278): 2 GB × density in Gb × ranks × height. -/
def Dimm.capacity (d : Dimm) : Nat := 2 * 2 ^ 30 * (8 * 2 ^ d.density) * (d.ranks + 1) * 2 ^ d.stack

/-- Bytes of one channel. -/
def Dimm.channel (d : Dimm) : Nat := d.capacity * (if d.two then 2 else 1)

/-- Installed DRAM size (R39). -/
def State.dramSize (s : State) : Nat := if s.mirrored then 8 * s.dimm.channel else 16 * s.dimm.channel

/-- The memory channel that serves a DRAM address; with mirroring, channel 0 of the home die (R40). -/
def State.chanOf (s : State) (pa : Nat) : Nat :=
  if s.mirrored then 2 * ((nbits pa 8 3) ^^^ (nbits pa 16 3) ^^^ (nbits pa 24 3))
  else (nbits pa 8 4) ^^^ (nbits pa 16 4) ^^^ (nbits pa 24 4)

/-- The home die of a DRAM address (R40). -/
def State.homeDie (s : State) (pa : Nat) : Nat := s.chanOf pa / 2

/-- The channel line index L (R280). -/
def State.lineIndex (s : State) (pa : Nat) : Nat := if s.mirrored then pa >>> 11 else pa >>> 12

/-- The physical address of line L of channel c: the inverse of R40 and R280. -/
def State.lineAddr (s : State) (c l : Nat) : Nat :=
  if s.mirrored then
    let hi := l <<< 11
    hi + ((c / 2) ^^^ (nbits hi 16 3) ^^^ (nbits hi 24 3)) <<< 8
  else
    let hi := l <<< 12
    hi + (c ^^^ (nbits hi 16 4) ^^^ (nbits hi 24 4)) <<< 8

/-- Logical ranks of a channel (R278, R280). -/
def State.rankCount (s : State) : Nat := (if s.dimm.two then 2 else 1) * (s.dimm.ranks + 1) * 2 ^ s.dimm.stack

/-- Number of BA bits: one for 8 Gb devices, else two (R280). -/
def Dimm.baBits (d : Dimm) : Nat := if d.density = 0 then 1 else 2

/-- The row of line L. -/
def State.lineRow (s : State) (l : Nat) : Nat :=
  nbits l (9 + s.dimm.baBits + Nat.log2 s.rankCount) (if s.dimm.density = 2 then 17 else 16)

/-- The logical rank of line L. -/
def State.lineRank (s : State) (l : Nat) : Nat := nbits l (9 + s.dimm.baBits) (Nat.log2 s.rankCount)

/-- The bank group of line L. -/
def State.lineGroup (s : State) (l : Nat) : Nat := (nbits l 0 3) ^^^ (s.lineRow l % 8)

/-- Bank BA of line L. -/
def State.lineBank (s : State) (l : Nat) : Nat := (nbits l 9 s.dimm.baBits) ^^^ (nbits (s.lineRow l) 3 s.dimm.baBits)

/-- Logical rank, bank (bank group and BA) and row of line L (R280). -/
def State.dramPlace (s : State) (l : Nat) : Nat × Nat × Nat := (s.lineRank l, s.lineBank l * 8 + s.lineGroup l, s.lineRow l)

/-- Where a byte lies in its channel (R280): subchannel, column, bank group, BA, row, logical rank n, and the DIMM, package rank and
3DS chip ID of that rank. -/
structure DramCoord where
  subchannel : Nat
  column : Nat
  group : Nat
  ba : Nat
  row : Nat
  rank : Nat
  dimm : Nat
  package : Nat
  chip : Nat
  deriving DecidableEq, Repr

/-- The place of a physical address (R280). -/
def State.dramCoord (s : State) (pa : Nat) : DramCoord :=
  let l := s.lineIndex pa
  let n := s.lineRank l
  let stack := 2 ^ s.dimm.stack
  let ranks := s.dimm.ranks + 1
  { subchannel := nbits pa 6 1, column := nbits l 3 6 * 32 + nbits pa 7 1 * 16, group := s.lineGroup l, ba := s.lineBank l,
    row := s.lineRow l, rank := n, dimm := n / (ranks * stack), package := n / stack % ranks, chip := n % stack }

/-- Bank number within the channel of a place. -/
def bankId (p : Nat × Nat × Nat) : Nat := p.1 * 32 + p.2.1

/-- Bank and row of a block. -/
def State.bankRow (s : State) (block : Nat) : Nat × Nat :=
  let p := s.dramPlace (s.lineIndex (block * 128))
  (bankId p, p.2.2)

/-! ## Controllers -/

def State.ctl (s : State) (c : Nat) : DramCtl := sget (fun _ => DramCtl.reset) s.ctls c
def State.setCtl (s : State) (c : Nat) (k : DramCtl) : State := { s with ctls := sput (fun _ => DramCtl.reset) s.ctls c k }
def State.modCtl (s : State) (c : Nat) (f : DramCtl → DramCtl) : State := s.setCtl c (f (s.ctl c))

def State.dcEn (s : State) (c : Nat) : Bool := bit (s.reg (rDc c 0)) 63
def State.dcState (s : State) (c : Nat) : Nat := s.rf (rDc c 0) 40 8
def State.setDcState (s : State) (c n : Nat) : State := s.setRf (rDc c 0) 40 8 n

/-- The controller works: serving or in self-refresh (DC.CTL.STATE). -/
def State.works (s : State) (c : Nat) : Bool := s.dcState c == 2 || s.dcState c == 3

/-- The channel takes requests: a controller that drains takes no more (R305). -/
def State.serves (s : State) (c : Nat) : Bool := s.works c && !(s.ctl c).drain

/-- The other channel of the die. -/
def partner (c : Nat) : Nat := if c % 2 = 0 then c + 1 else c - 1

/-- The partner holds a copy of the channel's blocks and serves (R286). -/
def State.mirrorServes (s : State) (c : Nat) : Bool := s.mirrored && s.serves (partner c)

/-- Some channel that holds the address serves it (R286, R300, R305). -/
def State.dramServed (s : State) (pa : Nat) : Bool := s.serves (s.chanOf pa) || s.mirrorServes (s.chanOf pa)

/-- No cache holds the line and no channel serves it: an access returns poison and stores nothing (R300, R305). -/
def State.absent (s : State) (pa : Nat) : Bool := !(s.cached (pa / 256)) && !(s.dramServed pa)

/-- An access to a byte meets poison (R272, R285, R300, R305). -/
def State.poisoned (s : State) (pa : Nat) : Bool := s.poison.contains (pa / 64) || s.absent pa

/-- A controller's message: PA[42:8] of the line and a device, 31 where none is concerned (R306). -/
def State.dcSend (s : State) (c kind cls pa dev : Nat) (inj : Bool) (coin : Bool := false) : State :=
  s.send (c / 2) (0x60 + c % 2) kind cls ((pa >>> 8) % 2 ^ 35 + dev <<< 35) inj coin

/-- Whether the errors of one detection are all injected, and whether some are and some are not (R470). -/
def injOf (l : List ArrErr) : Bool × Bool := (!l.isEmpty && l.all (·.inj), l.any (·.inj) && l.any (fun e => !e.inj))

/-- An event counter: wraps and sets OVF (R493); the wrap is told by service signal 0x04 when SV.CTL.OVF_SIG is 1
(R495). -/
def State.evInc (s : State) (a n : Nat) : State :=
  let v := s.rf a 0 48 + n
  let s1 := s.setRf a 0 48 v
  if 2 ^ 48 ≤ v then
    let s2 := s1.setReg a (setBit (s1.reg a) 63 true)
    if bit (s2.reg rSvCtl) 63 then (s2.hostSignal 4 (a % 0x10000000000)).fspEvent 7 2 [BitVec.ofNat 64 a] else s2
  else s1

/-! ## Rows (R290, R297) -/

/-- The rank and bank index of a bank, or its rank where commands cover all banks (R292). -/
def rowKey (compat : Bool) (bank : Nat) : Nat := if compat then bank / 32 else bank / 32 * 4 + bank % 32 / 8

/-- A same-bank refresh management command (R297): the banks of one rank and bank index, in all bank groups, are closed and their
activation counts fall. -/
def State.manage (s : State) (c key : Nat) : State :=
  s.modCtl c fun k => { k with
    rows := k.rows.filter fun r => rowKey false r.1 != key
    acts := k.acts.map fun a => if rowKey false a.1 = key then (a.1, a.2 - s.dimm.raaDec) else a }

/-- The activation count of a bank. -/
def DramCtl.acted (k : DramCtl) (bank : Nat) : Nat := sget (fun _ => 0) k.acts bank

/-- A row is opened for an access (R290), counting the activation of its bank; management is forced before the count would exceed
the maximum (R297). -/
def State.openRow (s : State) (c block : Nat) : State :=
  let br := s.bankRow block
  if (s.ctl c).rows.contains br then s
  else
    let s1 := if s.dimm.rfm && decide (s.dimm.raaMax ≤ (s.ctl c).acted br.1) then s.manage c (rowKey false br.1) else s
    s1.modCtl c fun k => { k with
      rows := br :: k.rows.filter (fun r => r.1 != br.1)
      acts := sput (fun _ => 0) k.acts br.1 (k.acted br.1 + 1) }

/-! ## Block decoding (R282 to R286) -/

/-- The bits of a block that an error inverts, as code word, device and bit of the symbol (R281, R282): byte k of a sector is driven by
device k mod 8 of the sector's subchannel in code word k / 8 (DESIGN CHOICE within R282, log entry 10). -/
def errBlockBits (e : ArrErr) : List (Nat × Nat × Nat) :=
  let sub := (e.addr / 64) % 2
  match e.kind with
  | .bits ps => ps.map fun b =>
      let k := (e.addr % 64) / 16 * 16 + (15 - b / 8)
      (k / 8, 10 * sub + k % 8, b % 8)
  | .device d => (List.range 64).map fun j => (j / 8, d, j % 8)
  | _ => []

/-- The symbols, as code word and device, that stand wrong: a bit inverted twice is as it was (R469). -/
def errSymbols (l : List ArrErr) : List (Nat × Nat) :=
  let bits := l.flatMap errBlockBits
  ((bits.eraseDups.filter fun x => (bits.filter (· == x)).length % 2 == 1).map fun x => (x.1, x.2.1)).eraseDups

/-- The errors stored in a block of a channel. -/
def State.blockErrs (s : State) (c block : Nat) : List ArrErr :=
  s.errs.filter fun e => e.die == c / 2 && e.unit == 0x60 + c % 2 && e.addr / 128 == block

def State.clearBlockErrs (s : State) (c block : Nat) : State :=
  { s with errs := s.errs.filter fun e => !(e.die == c / 2 && e.unit == 0x60 + c % 2 && e.addr / 128 == block) }

/-- The distinct devices of a list of symbols. -/
def devicesOf (l : List (Nat × Nat)) : List Nat := (l.map (·.2)).eraseDups

/-- Both sectors of a block. -/
def blockSectors (block : Nat) : List Nat := [2 * block, 2 * block + 1]

/-- Poison set or cleared on a list of sectors as the agents observe them. -/
def State.addPoison (s : State) (l : List Nat) : State := { s with poison := (s.poison ++ l).eraseDups }
def State.clearPoison (s : State) (l : List Nat) : State := { s with poison := s.poison.filter fun x => !l.contains x }

/-- The block stands poisoned in the channel's DIMMs, or not (R285). -/
def State.setDramPoison (s : State) (c block : Nat) (on : Bool) : State :=
  let l := s.dramPoison.filter fun x => x != (c, block)
  { s with dramPoison := if on then (c, block) :: l else l }

/-- How a block decodes (R283). -/
inductive Decode where
  | good
  | corrected (device : Nat) (all : Bool)
  | poisoned
  | uncorrectable
  deriving DecidableEq, Repr

/-- Decoding with the rank's marked device as an erasure (R283, R284). The poison syndrome is recognised before any correction, and
only as it stands: a poisoned block with any error is uncorrectable (R285). -/
def State.decodeBlock (s : State) (c block : Nat) : Decode :=
  let syms := errSymbols (s.blockErrs c block)
  if s.dramPoison.contains (c, block) then (if syms.isEmpty then .poisoned else .uncorrectable)
  else
    let mark := sget (fun _ => 0) (s.ctl c).marks (s.lineRank (s.lineIndex (block * 128)))
    let rest := syms.filter fun x => x.2 + 1 != mark
    match devicesOf rest with
    | [] => if syms.isEmpty then .good else .corrected (mark - 1) false
    | [d] => .corrected d (decide (((rest.map (·.1)).eraseDups).length = 8))
    | _ => .uncorrectable

/-- The marking rule for a corrected device (R284). -/
def State.countCorrected (s : State) (c block dev : Nat) (all : Bool) (inj : Bool × Bool) : State :=
  let rank := s.lineRank (s.lineIndex (block * 128))
  let n := sget (fun _ => 0) (s.ctl c).corrected (rank * 20 + dev) + 1
  let s1 := s.modCtl c fun k => { k with corrected := sput (fun _ => 0) k.corrected (rank * 20 + dev) n }
  let mark := sget (fun _ => 0) (s1.ctl c).marks rank
  if n = 64 ∨ all then
    if mark = 0 then
      let s2 := s1.modCtl c fun k => { k with marks := sput (fun _ => 0) k.marks rank (dev + 1) }
      (s2.setReg (rDc c 0x38) (setBit (s2.reg (rDc c 0x38)) rank true)).dcSend c 0x41 2 (block * 128) dev inj.1 inj.2
    else if mark = dev + 1 then s1
    else s1.dcSend c 0x41 3 (block * 128) dev inj.1 inj.2
  else s1

/-- One channel's block decoded and, where corrected, written back; true when the channel's copy is good. -/
def State.decodeOn (s : State) (c block : Nat) : State × Bool :=
  let inj := injOf (s.blockErrs c block)
  match s.decodeBlock c block with
  | .good => (s, true)
  | .corrected d all =>
    let s1 := (s.clearBlockErrs c block).errInc (rDc c 0x38) 32 16 63
    (((s1.dcSend c 0x40 1 (block * 128) d inj.1 inj.2).countCorrected c block d all inj), true)
  | .poisoned => (s, false)
  | .uncorrectable => (s, false)

/-- An uncorrectable block written back poisoned (R283); a block that stands poisoned stays so. -/
def State.poisonBlock (s : State) (c block : Nat) : State :=
  if s.decodeBlock c block = .uncorrectable then
    let inj := injOf (s.blockErrs c block)
    ((((s.clearBlockErrs c block).setDramPoison c block true).errInc (rDc c 0x38) 16 16 62).dcSend c 0x42 2 (block * 128) 31 inj.1 inj.2)
  else s

/-- A channel's failing copy rewritten from the good one of its partner (R286). -/
def State.healBlock (s : State) (c block : Nat) : State :=
  let inj := injOf (s.blockErrs c block)
  (((s.clearBlockErrs c block).setDramPoison c block false).errInc (rDc c 0x38) 32 16 63).dcSend c 0x44 1 (block * 128) 31 inj.1 inj.2

/-- A block read from the DIMMs of channel c, its row opened (R290), with its decoding, or from its partner's where that copy is good
(R283, R286); true when it is delivered poisoned. -/
def State.readCopy (s : State) (c block : Nat) : State × Bool :=
  let r := (s.openRow c block).decodeOn c block
  if r.2 then (r.1, false)
  else if r.1.mirrorServes c then
    let r2 := (r.1.openRow (partner c) block).decodeOn (partner c) block
    if r2.2 then (r2.1.healBlock c block, false) else ((r2.1.poisonBlock c block).poisonBlock (partner c) block, true)
  else (r.1.poisonBlock c block, true)

/-! ## The write queue (R255, R285 to R288) -/

/-- The queued write covers every byte of its block. -/
def DramWrite.full (w : DramWrite) : Bool := decide (((w.cells.map (·.1)).eraseDups).length = 128)

/-- Cells that cover every byte of a sector. -/
def coversSector (cells : List Host.Cell) (sec : Nat) : Bool := (List.range 64).all fun i => cells.any fun x => x.1 == 64 * sec + i

/-- The queued write of a block, in the queue of channel c or, under mirroring, of its partner (R286, R288). -/
def State.queued (s : State) (c block : Nat) : Option DramWrite :=
  match (s.ctl c).wq.find? fun w => w.block == block with
  | some w => some w
  | none => if s.mirrored then (s.ctl (partner c)).wq.find? fun w => w.block == block else none

/-- A block as it leaves channel c (R288): from the write queue where a write of it is queued, the bytes that the write does not
cover from the DIMMs; with the sectors that are delivered poisoned. -/
def State.fetchBlock (s : State) (c block : Nat) : State × List Nat :=
  match s.queued c block with
  | some w =>
    if w.full then (s, w.bad)
    else
      let r := s.readCopy c block
      (r.1, if r.2 then blockSectors block else w.bad)
  | none =>
    let r := s.readCopy c block
    (r.1, if r.2 then blockSectors block else [])

/-- The block reaches the home die (R285): where a sector is poisoned the serving channel sends kind 0x43; the agents observe what was
delivered, unless a cache holds the line. -/
def State.deliverBlock (s : State) (c block : Nat) (bad : List Nat) : State :=
  let s1 := if bad.isEmpty then s else s.dcSend c 0x43 2 (block * 128) 31 false
  if s1.cached (block / 2) then s1 else (s1.clearPoison (blockSectors block)).addPoison bad

/-- The queued write applied to the channel's arrays: bytes, the errors it replaces, and poison, which a write of every byte clears
(R285, R287). -/
def State.storeBlock (s : State) (c : Nat) (w : DramWrite) : State :=
  let d := w.cells.foldr (fun x m => Memory.write m x.1 x.2) s.dram
  let s1 := ({ s with dram := d } : State).clearBlockErrs c w.block
  if !w.bad.isEmpty then s1.setDramPoison c w.block true
  else if w.full then s1.setDramPoison c w.block false else s1

/-- A write that covers part of a block first reads the block (R287). -/
def State.issueWrite (s : State) (c : Nat) (w : DramWrite) : State :=
  (if w.full then s else (s.readCopy c w.block).1).storeBlock c w

/-! ## Requests in service (R290, R291, R297) -/

/-- A request of a channel. -/
abbrev DramReq := DramRead ⊕ DramWrite

def DramReq.seq : DramReq → Nat
  | .inl r => r.seq
  | .inr w => w.seq

/-- The requests queued for a bank. -/
def State.bankReqs (s : State) (c bank : Nat) : List DramReq :=
  ((s.ctl c).rq.filter fun r => (s.bankRow r.block).1 == bank).map .inl ++
  ((s.ctl c).wq.filter fun w => (s.bankRow w.block).1 == bank).map .inr

/-- A bank is in in-order mode (R291). -/
def DramCtl.ordered (k : DramCtl) (bank : Nat) : Bool := k.inOrder.any fun x => x.1 == bank

/-- A request may be chosen: in an in-order bank only while no older request of the bank waits (R291). -/
def State.mayIssue (s : State) (c block seq : Nat) : Bool :=
  let b := (s.bankRow block).1
  !((s.ctl c).ordered b && (s.bankReqs c b).any fun x => decide (DramReq.seq x < seq))

/-- A queued read issues: the block is decoded and delivered (R281, R283, R285). -/
def State.serveRead (s : State) (c : Nat) (r : DramRead) : State :=
  let s1 := s.modCtl c fun k => { k with rq := k.rq.erase r }
  let x := s1.fetchBlock c r.block
  x.1.deliverBlock c r.block x.2

/-- A write issues: its bank leaves in-order mode when it was the write that put it there (R291). -/
def State.serveWrite (s : State) (c : Nat) (w : DramWrite) : State :=
  let s1 := (s.openRow c w.block).modCtl c fun k =>
    { k with wq := k.wq.erase w, inOrder := k.inOrder.filter fun x => x.2 != w.block }
  s1.issueWrite c w

/-- A chosen request served. -/
def State.serveReq (s : State) (c : Nat) : DramReq → State
  | .inl r => s.serveRead c r
  | .inr w => s.serveWrite c w

/-- Older of two requests, and the oldest of a list. -/
def olderReq (a : DramReq) : Option DramReq → Option DramReq
  | none => some a
  | some b => if DramReq.seq a < DramReq.seq b then some a else some b

def oldestReq (l : List DramReq) : Option DramReq := l.foldr olderReq none

/-- The requests of a bank older than `seq`, served in the order of their arrival, at most n of them. -/
def State.serveOlder (s : State) (c bank seq : Nat) : Nat → State
  | 0 => s
  | n + 1 => match oldestReq ((s.bankReqs c bank).filter fun x => decide (DramReq.seq x < seq)) with
    | none => s
    | some x => (s.serveReq c x).serveOlder c bank seq n

/-- The reads and writes a channel can hold (R287). -/
def queueRoom : Nat := 64

/-- A write issued because the queue is full; in an in-order bank the older requests go first (R291). -/
def State.forceWrite (s : State) (c : Nat) (w : DramWrite) : State :=
  let b := (s.bankRow w.block).1
  let s1 := if (s.ctl c).ordered b then s.serveOlder c b w.seq (2 * queueRoom) else s
  if (s1.ctl c).wq.contains w then s1.serveWrite c w else s1

/-- A write enters the write queue of one channel: it merges into a queued write of its block, the newer bytes prevailing (R287);
when the queue is full the oldest write is issued first. -/
def State.enqueueOn (s : State) (c block : Nat) (cells : List Host.Cell) (bad : List Nat) : State :=
  let k := s.ctl c
  if k.wq.any (fun w => w.block == block) then
    s.setCtl c { k with wq := k.wq.map fun w =>
      if w.block = block then { w with cells := cells ++ w.cells, bad := (bad ++ w.bad.filter fun x => !(coversSector cells x)).eraseDups }
      else w }
  else
    let s1 := match k.wq with
      | w :: _ => if k.wq.length < queueRoom then s else s.forceWrite c w
      | [] => s
    s1.modCtl c fun k => { k with wq := k.wq ++ [⟨block, cells, bad, s.elapsed, k.seq⟩], seq := k.seq + 1 }

/-! ## Self-refresh and zeroing that a request meets (R302, R304) -/

/-- SRX: the ranks leave self-refresh and debts start again from 0 (R301, R302). -/
def State.srx (s : State) (c : Nat) : State :=
  ((s.modCtl c fun k => { k with sr := .awake, debts := [] }).setDcState c 2).setRf (rDc c 0x28) 62 1 0

/-- SRE is on the bus. -/
def State.sre (s : State) (c : Nat) : State :=
  ((s.modCtl c fun k => { k with sr := .inSr, rows := [], debts := [] }).setDcState c 3).setRf (rDc c 0x28) 62 1 1

/-- An entry that has not reached SRE is aborted (R302). -/
def State.srAbort (s : State) (c : Nat) : State := (s.modCtl c fun k => { k with sr := .awake }).evInc (rDc c 0x50) 1

/-- A request that meets self-refresh entry aborts it; one that meets self-refresh waits for the exit (R302). -/
def State.wake (s : State) (c : Nat) : State :=
  if !(s.serves c) then s
  else match (s.ctl c).sr with
  | .entering => s.srAbort c
  | .inSr => s.modCtl c fun k => { k with sr := .waiting }
  | _ => s

/-- BUSY shows a drain, zeroing or training in progress. -/
def State.updateBusy (s : State) (c : Nat) : State :=
  let k := s.ctl c
  s.setRf (rDc c 0) 62 1 (if k.training || k.zeroing || k.drain then 1 else 0)

/-- ZBUSY falls (R304). -/
def State.zeroDone (s : State) (c : Nat) : State :=
  if (s.ctl c).zeroing then ((s.modCtl c fun k => { k with zeroing := false }).setRf (rDc c 0) 59 1 0).updateBusy c else s

/-- The request that has waited for the exit is served, the first to have arrived (R302). -/
def State.serveFirst (s : State) (c : Nat) : State :=
  match oldestReq ((s.ctl c).rq.map .inl ++ (s.ctl c).wq.map .inr) with
  | some r => s.serveReq c r
  | none => s

/-- A request served in its step waits for zeroing to end (R304) and, in self-refresh, for the residency and the exit, behind the request
that waits already (R302). -/
def State.attend (s : State) (c : Nat) : State :=
  let s1 := s.zeroDone c
  match (s1.ctl c).sr with
  | .awake => s1
  | .entering => s1.srAbort c
  | .inSr => s1.srx c
  | .waiting => (s1.srx c).serveFirst c

/-! ## Requests of the home dies (R255, R286 to R291) -/

/-- A write accepted by the home controller, or by both under mirroring (R255, R286); a channel that does not serve takes nothing. -/
def State.acceptOn (s : State) (c block : Nat) (cells : List Host.Cell) (bad : List Nat) : State :=
  if s.serves c then ((s.zeroDone c).wake c).enqueueOn c block cells bad else s

def State.acceptWrite (s : State) (block : Nat) (cells : List Host.Cell) (bad : List Nat) : State :=
  let c := s.chanOf (block * 128)
  let s1 := s.acceptOn c block cells bad
  if s1.mirrored then s1.acceptOn (c + 1) block cells bad else s1

/-- The bytes of a 64-byte sector as every agent observes them, as cells. -/
def State.sectorCells (s : State) (sec : Nat) : List Host.Cell :=
  (List.range 64).map fun i => (64 * sec + i, s.byte (64 * sec + i))

/-- A dirty sector sent to its home controller, poison included (R255, R272, R285). -/
def State.writeSector (s : State) (sec : Nat) : State :=
  s.acceptWrite (sec / 2) (s.sectorCells sec) (if s.poison.contains sec then [sec] else [])

/-- A byte as the home controller holds it: queued writes before the arrays (R288). -/
def State.dramByte (s : State) (a : Nat) : Byte :=
  match (s.queued (s.chanOf a) (a / 128)).bind fun w => w.cells.find? fun x => x.1 == a with
  | some x => x.2
  | none => Memory.read s.dram a

/-- The channel that serves a read (R286): the one with fewer queued reads, channel 0 when both have the same number. -/
def State.pickChan (s : State) (block : Nat) : Nat :=
  let c := s.chanOf (block * 128)
  if !s.mirrored || !(s.serves (c + 1)) then c
  else if s.serves c && decide ((s.ctl c).rq.length ≤ (s.ctl (c + 1)).rq.length) then c
  else c + 1

/-- A read to the row of a queued write of its bank puts that bank in order (R291). With several queued writes to the row, it is the issue of
the first in the queue that ends the mode (DESIGN CHOICE, log entry 40). -/
def State.orderBank (s : State) (c block : Nat) : State :=
  let br := s.bankRow block
  if (s.ctl c).ordered br.1 then s
  else match (s.ctl c).wq.find? fun w => s.bankRow w.block == br with
    | some w => (s.modCtl c fun k => { k with inOrder := k.inOrder ++ [(br.1, w.block)] }).evInc (rDc c 0x48) 1
    | none => s

/-- A demand read of a block, served in its step (R281, R286, R288, R291): it puts its bank in order where R291 says so, and a block with no
queued write waits for the older requests of an in-order bank. -/
def State.readBlock (s0 : State) (block : Nat) : State :=
  let c := s0.pickChan block
  if !(s0.serves c) then s0
  else
    let t := (s0.attend c).orderBank c block
    let b := (t.bankRow block).1
    let s1 := if (t.queued c block).isNone && (t.ctl c).ordered b then t.serveOlder c b (t.ctl c).seq (2 * queueRoom) else t
    let x := s1.fetchBlock c block
    x.1.deliverBlock c block x.2

/-- The DIMMs of a channel are out of self-refresh. -/
def DramCtl.awake (k : DramCtl) : Bool := k.sr == .awake || k.sr == .entering

/-- A read that is not served in its step arrives at a channel (R288, R291): a block that a queued write wholly covers is served from
the queue, one that it covers in part is merged and delivered once the ranks are awake, any other waits in the read queue. A read that finds 64
blocks queued is dropped (DESIGN CHOICE, log entry 40). -/
def State.readOn (s0 : State) (c block : Nat) : State :=
  let s := (s0.wake c).orderBank c block
  let fromQueue := match s.queued c block with | some w => w.full || (s.ctl c).awake | none => false
  if fromQueue then
    let x := s.fetchBlock c block
    x.1.deliverBlock c block x.2
  else if queueRoom ≤ (s.ctl c).rq.length then s
  else s.modCtl c fun k => { k with rq := k.rq ++ [⟨block, s.elapsed, k.seq⟩], seq := k.seq + 1 }

/-- A read arrives at a channel; one that finds it out of service is the mirrored partner's, or returns poison (R286, R300, R305). -/
def State.readRequest (s : State) (c block : Nat) : State :=
  if s.serves c then s.readOn c block
  else if s.mirrorServes c then s.readOn (partner c) block
  else s

/-- A write arrives (R286, R287): it is accepted when it enters the queue, or both queues. -/
def State.writeRequest (s : State) (a : Nat) (data : List Byte) (poison : Bool) : State :=
  let cells := ((List.range data.length).zip data).map fun x => (a + x.1, x.2)
  if s.dramServed a then (s.putBytes a data).acceptWrite (a / 128) cells (if poison then sectorsOf a data.length else []) else s

/-! ## Refresh (R292 to R297) -/

/-- Debts the channel keeps: per rank and bank index in native mode, per rank in compatibility mode (R292). -/
def State.debtKeys (s : State) (c : Nat) : List Nat :=
  if (s.ctl c).compat then List.range s.rankCount
  else (List.range s.rankCount).flatMap fun r => (List.range (2 ^ s.dimm.baBits)).map fun b => r * 4 + b

def debtOf (k : DramCtl) (i : Nat) : Nat := sget (fun _ => 0) k.debts i

/-- The largest debt of the channel (DC.REF_MODE.DEBT_MAX). -/
def State.debtMax (s : State) (c : Nat) : Nat := (s.debtKeys c).foldl (fun m i => max m (debtOf (s.ctl c) i)) 0

/-- Refresh commands that serve debt i until it is `left`: the banks are closed and the activation counts fall (R293,
R297). -/
def State.refreshTo (s : State) (c i left : Nat) : State :=
  let k := s.ctl c
  let n := debtOf k i - left
  s.setCtl c { k with
    debts := sput (fun _ => 0) k.debts i (debtOf k i - n)
    rows := if n = 0 then k.rows else k.rows.filter fun r => rowKey k.compat r.1 != i
    acts := k.acts.map fun a => if rowKey k.compat a.1 = i then (a.1, a.2 - n * s.dimm.raaDec) else a }

/-- Refresh runs (DC.REF_MODE.EN, R307). -/
def State.refreshes (s : State) (c : Nat) : Bool := bit (s.reg (rDc c 0x18)) 63

/-- Every debt greater than 3 forced down to 3 while refresh runs; each command counts in DC.EV_FORCED (R293). -/
def State.forceDebts (s : State) (c : Nat) : State :=
  if !(s.refreshes c) then s
  else (s.debtKeys c).foldl (fun t i =>
    let n := debtOf (t.ctl c) i
    if 3 < n then (t.refreshTo c i 3).evInc (rDc c 0x40) (n - 3) else t) s

/-- A change of refresh mode converts the debts (R296). -/
def State.switchMode (s : State) (c : Nat) (compat : Bool) : State :=
  let k := s.ctl c
  if k.compat = compat then s
  else
    let ranks := List.range s.rankCount
    let d : Store Nat := if compat then
        ranks.foldl (fun m r => sput (fun _ => 0) m r ((List.range 4).foldl (fun x b => max x (debtOf k (r * 4 + b))) 0)) []
      else ranks.foldl (fun m r => (List.range (2 ^ s.dimm.baBits)).foldl
        (fun m b => sput (fun _ => 0) m (r * 4 + b) (debtOf k r)) m) []
    (s.setCtl c { k with compat := compat, debts := d }).forceDebts c

/-- The banks of a key are idle: no open row and no queued request (R293). -/
def State.keyIdle (s : State) (c : Nat) (compat : Bool) (i : Nat) : Bool :=
  let k := s.ctl c
  !(k.rows.any fun r => rowKey compat r.1 == i) &&
  !(k.rq.any fun r => rowKey compat (s.bankRow r.block).1 == i) &&
  !(k.wq.any fun w => rowKey compat (s.bankRow w.block).1 == i)

/-- The banks of debt i are idle. -/
def State.debtIdle (s : State) (c i : Nat) : Bool := s.keyIdle c (s.ctl c).compat i

/-- Opportunistic refresh: every debt whose banks are idle is served (R293). -/
def State.refreshIdle (s : State) (c : Nat) : State :=
  (s.debtKeys c).foldl (fun t i => if t.debtIdle c i then t.refreshTo c i 0 else t) s

/-- A refresh interval ends (R293, R296): the mode register takes effect, every debt rises by 1, idle banks are refreshed, and debts
above 3 are forced. No interval counts in self-refresh (R301) or while refresh is off. -/
def State.refreshInterval (s : State) (c : Nat) : State :=
  if !(s.refreshes c) || (s.ctl c).sr == .inSr || (s.ctl c).sr == .waiting then s
  else
    let s1 := s.switchMode c (bit (s.reg (rDc c 0x18)) 62)
    let s2 := (s1.debtKeys c).foldl (fun t i =>
      t.modCtl c fun k => { k with debts := sput (fun _ => 0) k.debts i (debtOf k i + 1) }) s1
    (s2.refreshIdle c).forceDebts c

/-- A change of refresh rate re-expresses every debt (R294, R295). -/
def State.setRate (s : State) (c : Nat) (twice : Bool) : State :=
  let was := bit (s.reg (rDc c 0x18)) 61
  if was = twice then s
  else
    let s1 := s.setReg (rDc c 0x18) (setBit (s.reg (rDc c 0x18)) 61 twice)
    (s1.modCtl c fun k => { k with debts := k.debts.map fun x => (x.1, if twice then 2 * x.2 else (x.2 + 1) / 2) }).forceDebts c

/-- The 2x rate is used while FORCE_2X is 1 or MR4 asked for more than the 1x rate at the last poll (R294). -/
def State.chooseRate (s : State) (c : Nat) : State := s.setRate c ((s.ctl c).mr4Fast || bit (s.reg (rDc c 0x18)) 60)

/-- The MR4 poll (R294), which self-refresh and its entry leave out (R301; of the entry: DESIGN CHOICE, log entry 40): whether some rank asks for more than the 1x rate, and whether the temperature is above the
device's range for the 2x rate. -/
def State.mr4Poll (s : State) (c : Nat) (fast hot : Bool) : State :=
  if (s.ctl c).sr ≠ .awake then s
  else
    let s1 := (s.modCtl c fun k => { k with mr4Fast := fast, hot := hot }).chooseRate c
    let u := 0x60 + c % 2
    if hot then s1.condBegin (c / 2) u 0x49 2 (31 <<< 35) 0 else s1.condEnd (c / 2) u 0x49 0

/-! ## Scheduling (R290, R291, R293, R297) -/

/-- Writes go before reads from 48 queued blocks down to 16 (R290). -/
def State.updateDraining (s : State) (c : Nat) : State :=
  s.modCtl c fun k =>
    { k with draining := if 48 ≤ k.wq.length then true else if k.wq.length ≤ 16 then false else k.draining }

/-- The first request older than 2 µs, 8,192 units (R290). -/
def State.oldRequest (s : State) (c : Nat) : Option DramReq :=
  let k := s.ctl c
  match k.rq.find? (fun r => s.mayIssue c r.block r.seq && decide (8192 < s.elapsed - r.arrival)) with
  | some r => some (.inl r)
  | none => (k.wq.find? fun w => s.mayIssue c w.block w.seq && decide (8192 < s.elapsed - w.arrival)).map .inr

/-- The request chosen when nothing is forced or old: reads that hit an open row, other reads, writes; writes first
while draining (R290). -/
def State.freshRequest (s : State) (c : Nat) : Option DramReq :=
  let k := s.ctl c
  let reads := k.rq.filter fun r => s.mayIssue c r.block r.seq
  let rd : Option DramReq := match reads.find? fun r => k.rows.contains (s.bankRow r.block) with
    | some r => some (.inl r)
    | none => reads.head?.map .inl
  let wr : Option DramReq := (k.wq.find? fun w => s.mayIssue c w.block w.seq).map .inr
  if k.draining then (match wr with | some x => some x | none => rd)
  else (match rd with | some x => some x | none => wr)

/-- A rank and bank index some bank of which has an activation count that has reached a threshold (R297). -/
def State.rfmKeys (s : State) (c limit : Nat) : List Nat :=
  if s.dimm.rfm then ((s.ctl c).acts.filter fun a => decide (limit ≤ a.2)).map fun a => rowKey false a.1 else []

/-- The next DRAM command (R290, R293, R297): forced refresh and forced management, opportunistic refresh and management of idle
banks, requests older than 2 µs, reads, writes; with nothing to do, the longest open row is closed. No request is served during
zeroing, and refresh goes on (R304). -/
def State.issueCommand (s0 : State) (c : Nat) : State :=
  let s := s0.updateDraining c
  let k := s.ctl c
  if k.sr = .inSr ∨ k.sr = .waiting ∨ !(s.works c) then s
  else if k.sr = .entering then s.sre c
  else if 3 < s.debtMax c ∧ s.refreshes c = true then s.forceDebts c
  else match (s.rfmKeys c s.dimm.raaMax).head? with
  | some b => s.manage c b
  | none =>
  match (s.debtKeys c).find? (fun i => s.refreshes c && decide (0 < debtOf k i) && s.debtIdle c i) with
  | some i => s.refreshTo c i (debtOf k i - 1)
  | none =>
  match (s.rfmKeys c s.dimm.raaInit).find? (s.keyIdle c false) with
  | some b => s.manage c b
  | none =>
  if k.zeroing then s
  else match s.oldRequest c with
  | some r => s.serveReq c r
  | none =>
  match s.freshRequest c with
  | some r => s.serveReq c r
  | none => s.modCtl c fun k => { k with rows := k.rows.dropLast }

/-- At most n requests of both queues served in the scheduler's order (R305). -/
def State.serveAll (s : State) (c : Nat) : Nat → State
  | 0 => s
  | n + 1 => match (s.updateDraining c).freshRequest c with
    | none => s
    | some r => (((s.updateDraining c).serveReq c r)).serveAll c n

/-- Both queues drained (R305). -/
def State.drainQueues (s : State) (c : Nat) : State := s.serveAll c (2 * queueRoom)

/-! ## Training, self-refresh, zeroing, disabling (R298, R301 to R305) -/

/-- Full training starts: both subchannels are owned by the training engine (R298). -/
def State.startTraining (s : State) (c : Nat) : State :=
  let v := s.reg (rDc c 0x20)
  (((s.setReg (rDc c 0x20) (fset v 62 2 3)).modCtl c fun k => { k with training := true }).setDcState c 1).setRf (rDc c 0) 62 1 1

/-- Full training ends with DONE, or FAIL when a margin cannot be reached; the subchannels are released (R298). -/
def State.endTraining (s : State) (c : Nat) (ok : Bool) : State :=
  if !(s.ctl c).training then s
  else
    let v := fset (fset (s.reg (rDc c 0x20)) 62 2 0) 59 2 (if ok then 2 else 1)
    (((s.setReg (rDc c 0x20) v).modCtl c fun k => { k with training := false, trained := true, pauseFail := [0, 0] }).setDcState c 0).updateBusy c

/-- The idle time has expired (R301): debts are refreshed to 0 and rows closed, then SRE is issued. -/
def State.srEntry (s : State) (c : Nat) : State :=
  let k := s.ctl c
  if !(bit (s.reg (rDc c 0x28)) 63) || !(s.dcEn c) || s.dcState c != 2 || k.zeroing then s
  else match k.sr with
  | .awake =>
    if k.rq.isEmpty && k.wq.isEmpty then
      ((s.debtKeys c).foldl (fun t i => t.refreshTo c i 0) s).modCtl c fun k => { k with sr := .entering, rows := [] }
    else s
  | .entering => s.sre c
  | _ => s

/-- After the residency SRX is issued, and the request that has waited is served (R301, R302). -/
def State.srExit (s : State) (c : Nat) : State :=
  if s.dcState c != 3 then (if (s.ctl c).sr = .entering then s.wake c else s)
  else match (s.ctl c).sr with
  | .waiting => (s.srx c).serveFirst c
  | _ => s

/-- Every queued write of a channel issued, in order (R522). -/
def State.drainWrites (s : State) (c : Nat) : State :=
  (s.ctl c).wq.foldl (fun t w => t.serveWrite c w) s

/-- Whether channel c holds an address. -/
def State.onChannel (s : State) (c a : Nat) : Bool :=
  if s.mirrored then s.homeDie a == c / 2 else s.chanOf a == c

/-- Every installed line of the channel zero in the DIMMs, poison cleared (R304); a line that a cache holds keeps its bytes there. -/
def State.zeroChannel (s : State) (c : Nat) : State :=
  let kept (a : Nat) : Bool := !(s.onChannel c a) || s.cached (a / 256)
  { s with
    mem := s.mem.filter fun x => kept x.1
    dram := s.dram.filter fun x => !(s.onChannel c x.1)
    poison := s.poison.filter fun x => kept (64 * x)
    dramPoison := s.dramPoison.filter fun x => x.1 != c
    errs := s.errs.filter fun e => !(e.die == c / 2 && e.unit == 0x60 + c % 2) }

/-- Zeroing of a channel starts (R304), after the writes queued before it. Its lines read as zero from here on: no request is served
before zeroing has ended. -/
def State.startZero (s : State) (c : Nat) : State :=
  let s1 := ((s.attend c).drainQueues c).zeroChannel c
  ((s1.modCtl c fun k => { k with zeroing := true }).setRf (rDc c 0) 59 1 1).updateBusy c

/-- Zeroing ends (R304). -/
def State.endZero (s : State) (c : Nat) : State := if (s.ctl c).zeroing then (s.zeroChannel c).zeroDone c else s

/-- The queues have drained: the ranks enter self-refresh and the channel no longer serves (R305). -/
def State.endDrain (s : State) (c : Nat) : State :=
  if !(s.ctl c).drain then s
  else
    let s1 := ((s.attend c).drainQueues c).sre c
    ((s1.modCtl c fun k => { k with drain := false, rq := [], wq := [], inOrder := [] }).setDcState c 0).updateBusy c

/-- A channel fails or is isolated (R300, R456): its partner serves alone under mirroring, the queued reads with it (R286); else every
access to its addresses returns poison, the queued reads' too. Where mirroring is enabled and the partner does not serve, no copy is
left, and the message is the one of a failure without mirroring (DESIGN CHOICE, log entry 40). -/
def State.failChannel (s : State) (c : Nat) : State :=
  if s.dcState c = 4 then s
  else
    let reads := (s.ctl c).rq
    let s1 := (s.modCtl c fun k => { k with rq := [], wq := [], inOrder := [], rows := [], sr := .awake, drain := false, zeroing := false, pauseFail := [0, 0] }).setDcState c 4
      |>.setRf (rDc c 0) 59 1 0 |>.updateBusy c
    if s1.mirrorServes c then
      reads.foldl (fun t r => t.readOn (partner c) r.block) (s1.dcSend c 0x45 3 0 31 false)
    else s1.dcSend c 0x46 5 0 31 false

/-- One retraining pause with its outcome (R299, R300): refreshes first bring every debt to at most 1. -/
def State.retrainPause (s : State) (c : Nat) (ok : Bool) (len : Nat) : State :=
  let s1 := (s.debtKeys c).foldl (fun t i => t.refreshTo c i 1) s
  let sub := s1.rf (rDc c 0x20) 58 1
  let fails := (s1.ctl c).pauseFail.getD sub 0
  let v := fset (fset (s1.reg (rDc c 0x20)) 16 16 len) 58 1 (1 - sub)
  let s2 := (s1.setReg (rDc c 0x20) v).modCtl c fun k =>
    { k with pauseFail := setAt k.pauseFail sub (if ok then 0 else fails + 1), lastPause := s.elapsed }
  if ok then (if 0 < fails then s2.dcSend c 0x47 0 0 31 false else s2)
  else if 1 ≤ fails then (s2.dcSend c 0x48 3 0 31 false).failChannel c
  else s2

/-- The scrub of one line (R303): both blocks are read and decoded, and a failing copy is rewritten from the mirrored one (R286); a block
that a queued write covers whole is skipped. Ranks in self-refresh are scrubbed and stay there, their rows closed (DESIGN CHOICE, log entry
40). -/
def State.scrubLine (s : State) (c : Nat) : State :=
  let l := s.rf (rDc c 0x30) 0 40
  let b := s.lineAddr c l / 128
  let one (t : State) (block : Nat) : State := if (match t.queued c block with | some w => w.full | none => false) then t else (t.readCopy c block).1
  let s0 := one (one s b) (b + 1)
  let s1 := if (s0.ctl c).awake then s0 else s0.modCtl c fun k => { k with rows := [] }
  let last := s.dimm.channel / 256
  s1.setRf (rDc c 0x30) 0 40 (if l + 1 < last then l + 1 else 0)

/-! ## Enable check (R305, R307) -/

/-- DC.CFG as the DIMMs describe it (R279). -/
def Dimm.cfg (d : Dimm) : Dword :=
  fset (fset (fset (fset (fset 0 60 4 d.speed) 59 1 d.two.toNat) 57 2 d.ranks) 55 2 d.stack) 53 2 d.density

/-- DC.TIM as the DIMMs describe it (R279). -/
def Dimm.tim (d : Dimm) : Dword := fset (fset (fset (fset 0 52 12 d.trfc1) 40 12 d.trfcsb) 24 16 d.trefi) 16 8 d.srRes

/-- The least TRFC1, TRFCSB, TREFI and SR_RES in ns for a DC.CFG (R307, code 0x12): those of JESD79-5 by DENSITY, the same for every
SPEED of R278 (PRESUMED: JESD79-5 is not part of the spec; log entry 11). -/
def timMinima (cfg : Dword) : Nat × Nat × Nat × Nat :=
  if fget cfg 53 2 = 0 then (195, 115, 3900, 13) else if fget cfg 53 2 = 1 then (295, 130, 3900, 13) else (410, 190, 3900, 13)

/-- Some DC.TIM field is below its minimum. -/
def timLow (cfg tim : Dword) : Bool :=
  let m := timMinima cfg
  decide (fget tim 52 12 < m.1) || decide (fget tim 40 12 < m.2.1) || decide (fget tim 24 16 < m.2.2.1) || decide (fget tim 16 8 < m.2.2.2)

/-- The reason of R307 with which the enable check of channel c refuses, in the order of R24; 0 accepts. -/
def State.dcCheck (s : State) (c : Nat) : Nat :=
  let cfg := s.reg (rDc c 8)
  let tim := s.reg (rDc c 0x10)
  let k := s.ctl c
  let others := (List.range 16).filter fun o => o != c && s.dcEn o
  if fget (s.reg (rDc c 0x20)) 62 2 ≠ 0 then 0x82
  else if fget cfg 53 2 = 2 ∧ fget cfg 57 2 = 1 ∧ fget cfg 55 2 = 2 then 0x01
  else if fget cfg 60 4 = 3 ∧ bit cfg 59 then 0x02
  else if others.any (fun o => s.reg (rDc o 8) != cfg) then 0x03
  else if others.any (fun o => bit (s.reg (rDc o 0)) 61 != bit (s.reg (rDc c 0)) 61) then 0x04
  else if !k.trained then 0x10
  else if bit (s.reg (rDc c 0x20)) 59 then 0x11
  else if timLow cfg tim then 0x12
  else if k.drain || k.zeroing then 0x83
  else 0

/-- The enable check passes or refuses (R19, R21). -/
def State.dcEnable (s : State) (c : Nat) : State :=
  if s.dcEn c then s
  else
    let r := s.dcCheck c
    let s1 := s.setRf (rDc c 0) 48 8 r
    if r = 0 then
      ((s1.setRf (rDc c 0) 63 1 1).srx c).modCtl c fun k => { k with lastPause := s.elapsed, pauseFail := [0, 0] }
    else s1

/-- A channel is enabled and zeroed, as cold reset and a lifecycle change do (R304, R489, R520). -/
def State.enableZero (s : State) (c : Nat) : State :=
  let t := s.dcEnable c
  if t.dcEn c then t.startZero c else t

/-- Full training ends; in step 4 of a wipe the channel that waited for it is zeroed (R298, R489). -/
def State.trainingEnd (s : State) (c : Nat) (ok : Bool) : State :=
  let t := s.endTraining c ok
  if s.lcStep = 4 ∧ (s.ctl c).training = true then t.enableZero c else t

/-- A controller is training or zeroing. -/
def State.wiping (s : State) (c : Nat) : Bool := (s.ctl c).training || (s.ctl c).zeroing

/-- The two accepted rows of R305: the queues begin to drain. The partner serves alone under mirroring (kind 0x45). -/
def State.dcDisable (s : State) (c : Nat) : State :=
  if !(s.dcEn c) then s
  else
    let s1 := ((s.setRf (rDc c 0) 63 1 0).modCtl c fun k => { k with drain := true }).updateBusy c
    if s.mirrorServes c then s1.dcSend c 0x45 3 0 31 false else s1

/-- R305: in MISSION a channel that alone holds its addresses keeps serving. -/
def State.dcKeeps (s : State) (c : Nat) (mission : Bool) : Bool := mission && !(s.mirrorServes c)

end Sys2Proof.Machine
end

