-- ==== Sys2Proof/Machine/Region.lean ====
section
/-! DEFINITION. Transactional regions (R237 to R243): conflict, abort and the limits of R239. -/
namespace Sys2Proof.Machine
open Sys2Proof

/-- CC of an abort code (R240). -/
def abortCc (code : Nat) : BitVec 2 :=
  if code = 0x01 then 1 else if code = 0x02 ∨ code = 0x07 ∨ code = 0x09 then 2 else 3

/-- abort(code, imm) of R240 on a unit with an open region; the instruction at whose boundary it occurs is at `at_`. -/
def Cpu.abort (c : Cpu) (at_ : Dword) (code : Nat) (imm : BitVec 14) : Cpu :=
  match c.region with
  | none => c
  | some r =>
    let c1 : Cpu := { c with g := r.ckG, f := r.ckF, psw := r.ckPsw, region := none }
    let c2 := (c1.setC 8 r.ckC8).setRs r.ckRs
    let c3 := c2.setC 10 (fset (c2.getC 10) 2 62 (at_.toNat / 4))
    let c4 := c3.setG 0 (BitVec.ofNat 64 (imm.toNat * 65536 + code))
    (c4.setCc (abortCc code)).setIa r.target

/-- The region of unit u aborted at its current instruction boundary. -/
def State.abortRegion (s : State) (u code : Nat) : State := s.modUnit u fun c => c.abort c.psw.ia code 0

/-- A request from another agent conflicts with a region (R238). -/
def Region.conflicts (r : Region) (sector : Nat) (write : Bool) : Bool :=
  r.writes.contains sector || (write && r.reads.contains sector)

/-- The conflicting request prevails: every other unit whose region it meets aborts with code 0x02 (R238). -/
def State.conflict (s : State) (by_ : Option Nat) (sector : Nat) (write : Bool) : State :=
  (s.units.map (·.1)).foldl (fun t u =>
    if by_ = some u then t
    else match (t.unit u).region with
      | some r => if r.conflicts sector write then t.abortRegion u 0x02 else t
      | none => t) s

/-- A request for several sectors. -/
def State.conflicts (s : State) (by_ : Option Nat) (sectors : List Nat) (write : Bool) : State :=
  sectors.foldl (fun t x => t.conflict by_ x write) s

/-- A maintenance instruction on a line in a region's sets (R267): the region aborts with code 0x02. -/
def State.lineConflict (s : State) (line : Nat) : State :=
  (List.range 4).foldl (fun t i => t.conflict none (4 * line + i) true) s

/-- More than 12 of the region's lines fall into one L2 set (R239). -/
def overfullSet (sectors : List Nat) : Bool :=
  let lines := (sectors.map (· / 4)).eraseDups
  lines.any fun l => decide (12 < (lines.filter fun x => x % 1024 == l % 1024).length)

/-- The abort code of R239 and R240 that a region has reached, if any: write set, L2 set, read set, length. -/
def Region.overflow (r : Region) : Option Nat :=
  if 32 < r.writes.length ∨ overfullSet (r.reads ++ r.writes) then some 0x03
  else if 256 < r.reads.length then some 0x04
  else if 4096 < r.count then some 0x05
  else none

/-- Sectors added to a set, each once. -/
def addSectors (l new : List Nat) : List Nat := (l ++ new).eraseDups


end Sys2Proof.Machine
end

