-- ==== Sys2Proof/Machine/Cache.lean ====
section
/-! DEFINITION. Caches, directory and home requests (R248 to R276). -/
namespace Sys2Proof.Machine
open Sys2Proof

/-! ## Errors in the arrays (R272, R274, R469) -/

/-- Dirty sectors sent to the home controller (R255). -/
def State.writeMask (s : State) (line : Nat) (m : BitVec 4) : State := (maskSectors line m).foldl (fun t x => t.writeSector x) s

/-- A cache message: PA[47:8] of the line (R272). -/
def State.cacheSend (s : State) (die unit kind cls line : Nat) (inj : Bool × Bool) : State := s.send die unit kind cls line inj.1 inj.2

/-- The caches stop allocating and BUSY rises: the sweep begins (R268). A transactional region of the core goes on (DESIGN CHOICE, log
entry 31). -/
def State.l2Disable (s : State) (core : Nat) : State :=
  if s.l2On core then (s.setRf (rL2Ctl core) 63 1 0).setRf (rL2Ctl core) 62 1 1 else s

/-- The data arrays stop allocating and BUSY rises (R271). -/
def State.l3Disable (s : State) (die : Nat) : State :=
  if s.l3On die then (s.setRf (rL3Ctl die) 63 1 0).setRf (rL3Ctl die) 62 1 1 else s

def l2Unit (core : Nat) : Nat := 0x20 + core % 26
def l3Unit (line : Nat) : Nat := 0x40 + l3Set line / 1024

/-- A position of an L2 is deleted; past 64 the L2 is disabled (R272, R274). -/
def State.deleteL2 (s : State) (core set way line : Nat) (inj : Bool × Bool) : State :=
  if (s.core core).deleted.contains (set, way) then s
  else
    let s1 := (s.modCore core fun c => { c with deleted := c.deleted ++ [(set, way)] }).cacheSend (core / 26) (l2Unit core) 0x34 0 line inj
    let n := (s1.core core).deleted.length
    let s2 := s1.setRf (rL2Err core) 0 8 (min n 65)
    if n = 65 then (s2.cacheSend (core / 26) (l2Unit core) 0x36 3 line inj).l2Disable core else s2

def State.deleteL3 (s : State) (die set way line : Nat) (inj : Bool × Bool) : State :=
  if (s.die die).deleted.contains (set, way) then s
  else
    let s1 := (s.modDie die fun h => { h with deleted := h.deleted ++ [(set, way)] }).cacheSend die (l3Unit line) 0x34 0 line inj
    let n := (s1.die die).deleted.length
    let s2 := s1.setRf (rL3Err die) 0 11 (min n 1025)
    if n = 1025 then (s2.cacheSend die (l3Unit line) 0x36 3 line inj).l3Disable die else s2

/-- The bits that an error inverts. -/
def errBits : ErrKind → List Nat
  | .bits ps => ps
  | .tag ps => ps
  | _ => []

/-- The error stands in a tag, a state, a presence vector or a directory entry. -/
def ArrErr.inTag (e : ArrErr) : Bool := match e.kind with
  | .tag _ => true
  | _ => false

/-- The bits of a 16-byte word that stand inverted. -/
def flipped (l : List ArrErr) : List Nat :=
  let ps := l.flatMap fun e => errBits e.kind
  ps.eraseDups.filter fun p => (ps.filter (· == p)).length % 2 == 1

/-- The ECC of one of the word's 8-byte halves detects two bits (R272). -/
def eccFails (ps : List Nat) : Bool := [0, 1].any fun h => decide (2 ≤ (ps.filter fun p => p / 64 == h).length)

/-- The errors of an array's unit that lie in the data of a line. -/
def State.lineErrs (s : State) (die unit line : Nat) : List ArrErr :=
  s.errs.filter fun e => e.die == die && e.unit == unit && e.addr / 256 == line && !e.inTag

/-- Errors end where the array is rewritten or the error has been reported (R272, R470). -/
def State.dropErrs (s : State) (l : List ArrErr) : State := { s with errs := s.errs.filter fun e => !(l.contains e) }

/-- The errors of an array whose sectors of a line have been written anew end (R470). -/
def State.sectorsWritten (s : State) (die unit line : Nat) (m : BitVec 4) : State :=
  s.dropErrs ((s.lineErrs die unit line).filter fun e => m.getLsbD (e.addr / 64 % 4))

/-- The register that counts the errors of a cache unit. -/
def rCacheErr (die unit : Nat) : Nat := if unit < 0x40 then rL2Err (26 * die + (unit - 0x20)) else rL3Err die

/-- The ECC of one tag or directory entry, of the line given: corrected (0x31), or uncorrectable (0x35) (R272). -/
def State.eccTag (s : State) (die unit line : Nat) (l : List ArrErr) : State :=
  let n := (flipped l).length
  if n = 0 then s
  else if n = 1 then (s.errInc (rCacheErr die unit) 32 16 63).cacheSend die unit 0x31 1 line (injOf l)
  else s.cacheSend die unit 0x35 5 line (injOf l)

/-- The tags of the sets that f picks are decoded by a look-up of the set (R272). -/
def State.tagMeet (s : State) (die unit : Nat) (f : Nat → Bool) : State :=
  let es := s.errs.filter fun e => e.die == die && e.unit == unit && e.inTag && f (e.addr / 256)
  ((es.map (·.addr / 256)).eraseDups).foldl (fun t x => t.eccTag die unit x (es.filter fun e => e.addr / 256 == x)) (s.dropErrs es)

/-- The outcome of the ECC of one word of a line (R272): nothing, corrected, uncorrectable in clean or in dirty data, with the count in
the register at `a`; true when it is uncorrectable. -/
def State.eccWord (s : State) (die unit a line word : Nat) (dirty : Bool) (l : List ArrErr) : State × Bool :=
  let ps := flipped l
  if ps.isEmpty then (s, false)
  else if !(eccFails ps) then ((s.errInc a 32 16 63).cacheSend die unit 0x31 1 line (injOf l), false)
  else if dirty then (((s.errInc a 16 16 62).addPoison [word / 4]).cacheSend die unit 0x33 2 line (injOf l), true)
  else ((s.errInc a 16 16 62).cacheSend die unit 0x32 1 line (injOf l), true)

/-- Every word of a line decoded; true when some word is uncorrectable. -/
def State.eccLine (s : State) (die unit a line : Nat) (dirty : BitVec 4) (l : List ArrErr) : State × Bool :=
  ((l.map (·.addr / 16)).eraseDups).foldl (fun r w =>
    let x := r.1.eccWord die unit a line w (dirty.getLsbD (w / 4 % 4)) (l.filter fun e => e.addr / 16 == w)
    (x.1, r.2 || x.2)) (s.dropErrs l, false)

/-! ## Removal from one core and one die -/

/-- The cores of a die whose arrays hold anything. -/
def State.dieCores (s : State) (die : Nat) : List Nat := s.coreKeys.filter fun k => k / 26 == die

/-- A line removed from a die's L3 alone. -/
def State.dropL3 (s : State) (die line : Nat) (clean : Bool) : State :=
  let s1 := match s.l3Line die line with
    | some l => if clean then s.writeMask line l.dirty else s
    | none => s
  s1.modDie die fun d => { d with l3 := d.l3.filter fun l => l.line != line }

def State.dirEntry (s : State) (line : Nat) : Option DirEntry := (s.die (s.homeDie (256 * line))).dir.find? fun e => e.line == line

/-- The directory entry of a line dropped. -/
def State.dropEntry (s : State) (line : Nat) : State :=
  s.modDie (s.homeDie (256 * line)) fun h => { h with dir := h.dir.filter fun x => x.line != line }

/-- Dirty data of a die has been accepted by the home controller: the entry loses the writer, and with it the die's L3 copy, where no core of the die holds
the line; the home die's L3 keeps its clean copy (R256, R259, R260; log entry 33). -/
def State.loseWriter (s : State) (die line : Nat) : State :=
  match s.dirEntry line with
  | none => s
  | some e =>
    if e.owned && e.dies.contains die && !((s.dieCores die).any fun k => s.coreHolds k line) then
      (if s.homeDie (256 * line) = die then s else s.dropL3 die line true).dropEntry line
    else s

/-- A waiting victim's dirty sectors enter the home write queue (R255, R260). -/
def State.acceptVictim (s : State) (core : Nat) (v : L2Line) : State := (s.writeMask v.line v.dirty).loseWriter (core / 26) v.line

/-- A line removed from a core's L2, L1s and miss buffers (R249); its dirty sectors go home when `clean`, and the entry then loses the
writer (R260). A buffer of it that waits has its victim accepted. -/
def State.dropLine (s : State) (core line : Nat) (clean : Bool) : State :=
  let m : BitVec 4 := match s.l2Line core line with
    | some l => if clean then l.dirty else 0
    | none => 0
  let s1 := s.writeMask line m
  let bs := (s1.core core).miss.filter fun b => b.line == line
  let s2 := s1.modCore core fun c =>
    { c with l2 := c.l2.filter fun l => l.line != line
             l1i := c.l1i.filter fun x => x / 4 != line
             l1d := c.l1d.filter fun x => x / 4 != line
             miss := c.miss.filter fun b => b.line != line }
  let s3 := if m = 0 then s2 else s2.loseWriter (core / 26) line
  bs.foldl (fun t b => match b.victim with
    | some v => t.acceptVictim core v
    | none => t) s3

/-- The errors that an L2 line holds are met when it is read (R272): an uncorrectable line is removed and its position deleted. -/
def State.l2Meet (s : State) (core line : Nat) : State :=
  let es := s.lineErrs (core / 26) (l2Unit core) line
  if es.isEmpty then s
  else match s.l2Line core line with
    | none => s
    | some l =>
      let r := s.eccLine (core / 26) (l2Unit core) (rL2Err core) line l.dirty es
      if r.2 then (r.1.dropLine core line true).deleteL2 core (l2Set line) l.way line (injOf es) else r.1

/-- A line that leaves a core, read out where its dirty sectors go home (R255, R272). -/
def State.evictCore (s : State) (core line : Nat) (clean : Bool) : State :=
  (if clean then s.l2Meet core line else s).dropLine core line clean

/-- A line removed from every L2 of a die and from its L3 (R249). -/
def State.dropDie (s : State) (die line : Nat) (clean : Bool) : State :=
  ((s.dieCores die).foldl (fun t k => t.evictCore k line clean) s).dropL3 die line clean

/-- The errors that an L3 line holds are met when it is read (R272). -/
def State.l3Meet (s : State) (die line : Nat) : State :=
  let es := s.lineErrs die (l3Unit line) line
  if es.isEmpty then s
  else match s.l3Line die line with
    | none => s
    | some l =>
      let r := s.eccLine die (l3Unit line) (rL3Err die) line l.dirty es
      if r.2 then (r.1.dropDie die line true).deleteL3 die (l3Set line) l.way line (injOf es) else r.1

/-- A line that leaves a die; where dirty data of its L3 goes to DRAM, the entry loses the die (R256, R260). -/
def State.evictDie (s : State) (die line : Nat) (clean : Bool) : State :=
  let s1 := if clean then s.l3Meet die line else s
  let m : BitVec 4 := match s1.l3Line die line with
    | some l => if clean then l.dirty else 0
    | none => 0
  if m = 0 then s1.dropDie die line clean else (s1.dropDie die line clean).loseWriter die line

/-! ## The L3 of a die (R252, R256, R271) -/

/-- The first way of 0 to n - 1 that is neither used nor deleted. A set whose every way is deleted keeps one line beyond its last way, in
way n, which is no position and is not deleted again (DESIGN CHOICE, log entry 33: the spec does not say where a fill of such a set
goes). -/
def freeWay (n set : Nat) (used : List Nat) (deleted : List (Nat × Nat)) : Nat :=
  ((List.range n).find? fun w => !used.contains w && !deleted.contains (set, w)).getD n

/-- A set has a way that is neither used nor deleted. -/
def hasWay (n set used : Nat) (deleted : List (Nat × Nat)) : Bool := decide (used < n - (deleted.filter fun d => d.1 == set).length)

/-- The L3 makes room in a full set: first a line with an empty presence vector, else the least recently used line, whose L2 copies are
removed first (R256). A victim that proves uncorrectable has its position deleted, and another is taken. -/
def State.l3Room (s : State) (die line : Nat) : Nat → State
  | 0 => s
  | n + 1 =>
    let set := (s.die die).l3.filter fun l => l3Set l.line == l3Set line
    if hasWay 24 (l3Set line) set.length (s.die die).deleted then s
    else match (match set.reverse.find? fun l => l.cores.isEmpty with | some l => some l | none => set.getLast?) with
      | some l => (s.evictDie die l.line true).l3Room die line n
      | none => s

/-- A line present in a die's L3: its tag, and its data while the data arrays are enabled (R252, R271). A die that owns the line holds it
in E or, dirty, in M; one that shares it in S, or in M where it is dirty in its home L3. -/
def State.l3Install (s : State) (die line : Nat) (excl : Bool) : State :=
  match s.l3Line die line with
  | some l =>
    let on := s.l3On die
    let st := if l.dirty ≠ 0 then LineState.modified else if excl then .exclusive else .shared
    let l1 : L3Line := { l with st := st, valid := if l.tagOnly && on then 0xF else l.valid, tagOnly := l.tagOnly && !on }
    s.modDie die fun h => { h with l3 := l1 :: (h.l3.filter fun x => x.line != line) }
  | none =>
    let s1 := (s.l3Room die line 24).dropErrs (s.lineErrs die (l3Unit line) line)
    let h := s1.die die
    let way := freeWay 24 (l3Set line) ((h.l3.filter fun l => l3Set l.line == l3Set line).map (·.way)) h.deleted
    let new : L3Line :=
      { line := line, way := way, st := if excl then .exclusive else .shared,
        valid := if s1.l3On die then 0xF else 0, dirty := 0, cores := [], tagOnly := !(s1.l3On die) }
    s1.setDie die { h with l3 := new :: h.l3 }

/-- A line of a die's L3 changed. -/
def State.modL3 (s : State) (die line : Nat) (f : L3Line → L3Line) : State :=
  s.modDie die fun h => { h with l3 := h.l3.map fun l => if l.line = line then f l else l }

/-- A line of a core's L2 changed. -/
def State.modL2 (s : State) (core line : Nat) (f : L2Line → L2Line) : State :=
  s.modCore core fun c => { c with l2 := c.l2.map fun l => if l.line = line then f l else l }

/-- Sectors dirty in the home L3, or written to DRAM while its data arrays are disabled (R252, R271). -/
def State.homeDirty (s : State) (line : Nat) (m : BitVec 4) : State :=
  let home := s.homeDie (256 * line)
  if m = 0 then s
  else if !(s.l3On home) then s.writeMask line m
  else ((s.l3Install home line true).modL3 home line fun l =>
    { l with dirty := l.dirty ||| m, valid := l.valid ||| m, st := .modified, tagOnly := false }).sectorsWritten home (l3Unit line) line m

/-- A core slot added to the presence vector. -/
def State.l3Present (s : State) (die slot line : Nat) : State :=
  s.modL3 die line fun l => { l with cores := if l.cores.contains slot then l.cores else slot :: l.cores }

/-! ## Fills and victims of an L2 (R253 to R257) -/

/-- An L1 line most recently used, at most 8 of a set kept (R248). -/
def l1Touch (l : List Nat) (x : Nat) : List Nat :=
  let r := l.filter fun y => y != x
  let set := r.filter fun y => y % 256 == x % 256
  let r1 := if set.length < 8 then r else match set.getLast? with | some v => r.filter fun y => y != v | none => r
  x :: r1

/-- The parity errors of a 64-byte line in a core's L1s. -/
def State.l1Errs (s : State) (core x : Nat) : List ArrErr :=
  s.errs.filter fun e => e.die == core / 26 && e.unit == core % 26 && e.kind == .parity && e.addr / 64 == x

/-- A 64-byte line used in, or written into, L1I (true) or L1D (R253). -/
def State.l1Fill (s : State) (core : Nat) (x : Bool × Nat) : State :=
  let held := if x.1 then (s.core core).l1i.contains x.2 else (s.core core).l1d.contains x.2
  let s1 := if held then s else s.dropErrs (s.l1Errs core x.2)
  s1.modCore core fun c => if x.1 then { c with l1i := l1Touch c.l1i x.2 } else { c with l1d := l1Touch c.l1d x.2 }

/-- The ways of the L2 set of a line that are taken: by lines, and by dirty victims that have left the array and are not yet
accepted (R255). -/
def State.takenWays (s : State) (core line : Nat) : List Nat :=
  let c := s.core core
  ((c.l2 ++ c.miss.filterMap (·.victim)).filter fun l => l2Set l.line == l2Set line).map (·.way)

/-- A line written into a way of the L2, most recently used, and its 64-byte lines into the L1s. -/
def State.placeL2 (s : State) (core line way : Nat) (excl : Bool) (fills : List (Bool × Nat)) : State :=
  let c := s.core core
  let new : L2Line := { line := line, way := way, st := if excl then .exclusive else .shared, valid := 0xF, dirty := 0 }
  let s1 := (s.setCore core { c with l2 := new :: c.l2.filter fun l => l.line != line }).dropErrs (s.lineErrs (core / 26) (l2Unit core) line)
  let s2 := (s1.l3Install (core / 26) line excl).l3Present (core / 26) (core % 26) line
  fills.foldl (fun t x => t.l1Fill core x) s2

/-- The buffer of a line dropped. -/
def State.dropMiss (s : State) (core line : Nat) : State :=
  s.modCore core fun c => { c with miss := c.miss.filter fun b => b.line != line }

/-- A victim that has left the array and waits is accepted (R255, R267). -/
def State.acceptVictims (s : State) (line : Nat) : State :=
  s.coreKeys.foldl (fun t k =>
    let vs := ((t.core k).miss.filterMap (·.victim)).filter fun v => v.line == line
    if vs.isEmpty then t
    else
      let t1 := t.modCore k fun c => { c with miss := c.miss.map fun b =>
        match b.victim with
        | some v => if v.line = line then { b with victim := none } else b
        | none => b }
      vs.foldl (fun u v => u.acceptVictim k v) t1) s

/-- What a fill finds in its set: a free way, a line that it displaces, or only ways that wait for the acceptance of their dirty
victims. -/
inductive FillRoom where
  | way (w : Nat)
  | victim (l : L2Line)
  | wait

/-- The place of a fill: a free way, else that of the least recently used line; one that proves uncorrectable when it is read out has its
position deleted, and another is taken (R255, R272, R274). -/
def State.victimFor (s : State) (core line : Nat) : Nat → State × FillRoom
  | 0 => (s, .wait)
  | n + 1 =>
    let taken := s.takenWays core line
    let del := (s.core core).deleted
    if hasWay 16 (l2Set line) taken.length del then (s, .way (freeWay 16 (l2Set line) taken del))
    else match ((s.core core).l2.filter fun l => l2Set l.line == l2Set line).getLast? with
      | none => (s, if taken.isEmpty then .way (freeWay 16 (l2Set line) taken del) else .wait)
      | some v =>
        let s1 := if v.dirty = 0 then s else s.l2Meet core v.line
        match s1.l2Line core v.line with
        | some v1 => (s1, .victim v1)
        | none => s1.victimFor core line n

/-- Line data has arrived (R253, R255): the fill is written into a free way or one with a clean line; a dirty victim leaves the array
first, the die's L3 copy takes its data and stays clean (R256), and the fill waits for its acceptance. -/
def State.fillArrives (s : State) (core line : Nat) : State :=
  match (s.core core).miss.find? (fun b => b.line == line && b.victim.isNone) with
  | none => s
  | some b =>
    let r := s.victimFor core line 17
    match r.2 with
    | .wait => r.1
    | .way w => (r.1.dropMiss core line).placeL2 core line w b.excl b.fills
    | .victim v =>
      let s1 := r.1.modCore core fun c => { c with
        l2 := c.l2.filter fun l => l.line != v.line
        l1i := c.l1i.filter fun x => x / 4 != v.line
        l1d := c.l1d.filter fun x => x / 4 != v.line }
      if v.dirty = 0 then (s1.dropMiss core line).placeL2 core line v.way b.excl b.fills
      else
        ((s1.modCore core fun c => { c with miss := c.miss.map fun x => if x.line = line then { x with victim := some v } else x }).modL3
          (core / 26) v.line fun l => if l.tagOnly then l else { l with valid := l.valid ||| v.dirty }).sectorsWritten (core / 26) (l3Unit v.line) v.line
          v.dirty

/-- Room for every block of a victim in the write queue of each home controller that serves (R255, R286). -/
def State.victimRoom (s : State) (v : L2Line) : Bool :=
  let c := s.chanOf (256 * v.line)
  let room (k : Nat) : Bool := !(s.serves k) || decide ((s.ctl k).wq.length + 2 ≤ queueRoom)
  room c && (!s.mirrored || room (c + 1))

/-- A fill whose victim has been accepted is written into its way. -/
def State.fillWaiting (s : State) (core : Nat) (b : MissBuf) (v : L2Line) : State :=
  ((s.dropMiss core b.line).acceptVictim core v).placeL2 core b.line v.way b.excl b.fills

/-- The home controller accepts a waiting victim and the way is free for the fill (R255). -/
def State.victimAccepted (s : State) (core line : Nat) : State :=
  match (s.core core).miss.find? (fun b => match b.victim with | some v => v.line == line | none => false) with
  | some b =>
    match b.victim with
    | some v => if s.victimRoom v then s.fillWaiting core b v else s
    | none => s
  | none => s

/-- The fills of a core that a test picks and whose victims wait are written into their ways, their victims accepted. -/
def State.settleFills (s : State) (core : Nat) (f : Nat → Bool) : State :=
  ((s.core core).miss.filter fun b => f b.line).foldl (fun t b => match b.victim with
    | some v => t.fillWaiting core b v
    | none => t) s

/-- A fill completed with everything it waits for: the acceptance of its victim, and, where every way of its set waits, that of the other
victims of the set (R255, R262, R267). -/
def State.completeFill (s : State) (core line : Nat) : State :=
  let s1 := s.fillArrives core line
  let s2 := if (s1.core core).miss.any (fun b => b.line == line && b.victim.isNone) then
      (s1.settleFills core fun x => l2Set x == l2Set line).fillArrives core line else s1
  s2.settleFills core fun x => x == line

/-- A miss takes a buffer, after the oldest fill has completed when all 16 are taken (R254). -/
def State.takeBuffer (s : State) (core : Nat) (b : MissBuf) : State :=
  let s1 := if (s.core core).miss.length < 16 then s else match (s.core core).miss with
    | x :: _ => s.completeFill core x.line
    | [] => s
  s1.modCore core fun c => { c with miss := c.miss ++ [b] }

/-! ## Removal and cleaning (R249, R262, R264, R267) -/

/-- A line removed from a core: a fill of it that is in progress completes first (R262, R267). -/
def State.removeL2 (s : State) (core line : Nat) (clean : Bool) : State := (s.completeFill core line).evictCore core line clean

/-- Every fill of a line completed. -/
def State.completeFills (s : State) (ks : List Nat) (line : Nat) : State := ks.foldl (fun t k => t.completeFill k line) s

/-- A line removed from one die: every L2 of it and its L3 (R249). -/
def State.removeDie (s : State) (die line : Nat) (clean : Bool) : State :=
  (s.completeFills (s.dieCores die) line).evictDie die line clean

/-- The dies that may hold copies. -/
def State.allDies (s : State) : List Nat := (s.dieKeys ++ s.coreKeys.map (· / 26)).eraseDups

/-- Every copy of a line removed and its directory entry dropped (R264, R223). -/
def State.removeAll (s : State) (line : Nat) (clean : Bool) : State :=
  let s1 := (s.acceptVictims line).completeFills s.coreKeys line
  (s1.allDies.foldl (fun t d => t.evictDie d line clean) s1).dropEntry line

/-- The dirty sectors a line has in the L2s of the cores given. -/
def State.coresDirty (s : State) (ks : List Nat) (line : Nat) : BitVec 4 :=
  ks.foldl (fun m k => match s.l2Line k line with | some l => m ||| l.dirty | none => m) 0

/-- The dirty sectors of a line in any cache. -/
def State.dirtyMask (s : State) (line : Nat) : BitVec 4 :=
  s.dieKeys.foldl (fun m d => match s.l3Line d line with | some l => m ||| l.dirty | none => m) (s.coresDirty s.coreKeys line)

/-- The caches that hold a line read it out to supply it: every L2, and its home L3 (R260, R272). -/
def State.supply (s : State) (line : Nat) : State :=
  if s.errs.isEmpty then s
  else (s.coreKeys.foldl (fun t k => t.l2Meet k line) s).l3Meet (s.homeDie (256 * line)) line

/-- The state of a line of a die's L3 that is clean again: E where no other die holds the line (R252, R259). -/
def State.cleanState (s : State) (die line : Nat) : LineState :=
  match s.dirEntry line with
  | some e => if e.dies.any fun d => d != die then .shared else .exclusive
  | none => .exclusive

/-- Every dirty sector of a line written home; all copies stay valid and clean (R264, CCLEAN). -/
def State.cleanLine (s : State) (line : Nat) : State :=
  let s0 := ((s.acceptVictims line).completeFills s.coreKeys line).supply line
  let s1 := s0.writeMask line (s0.dirtyMask line)
  let s2 := s1.coreKeys.foldl (fun t k => if (t.l2Line k line).isSome then t.modL2 k line fun l =>
    { l with dirty := 0, st := if l.st = .modified then .exclusive else l.st } else t) s1
  s2.dieKeys.foldl (fun t d => if (t.l3Line d line).isSome then t.modL3 d line fun l =>
    { l with dirty := 0, st := if l.st = .modified then s2.cleanState d line else l.st } else t) s2

/-- Dirty data discarded: DRAM keeps its previous contents (R264, CINV; R275, warm reset). -/
def State.discardMask (s : State) (line : Nat) (m : BitVec 4) : State :=
  (maskSectors line m).foldl (fun t x =>
    (t.putBytes (64 * x) ((List.range 64).map fun i => t.dramByte (64 * x + i))).clearPoison [x]) s

/-! ## Home requests (R259 to R261) -/

/-- A directory entry written; a full set replaces its least recently used entry, whose copies are removed (R261). -/
def State.dirPut (s : State) (e : DirEntry) : State :=
  let home := s.homeDie (256 * e.line)
  let d := (s.die home).dir
  if d.any (fun x => x.line == e.line) then s.modDie home fun h => { h with dir := e :: h.dir.filter fun x => x.line != e.line }
  else
    let set := d.filter fun x => dirSet x.line == dirSet e.line
    let s1 := if set.length < 24 then s else match set.getLast? with
      | some v => (s.removeAll v.line true).evInc (rDirStat home) 1
      | none => s
    s1.modDie home fun h => { h with dir := e :: h.dir }

/-- The copies of a line in the cores given become S, those still in a miss buffer too; their dirty sectors are written into the home
L3 as dirty (R251, R260). -/
def State.shareCores (s : State) (ks : List Nat) (line : Nat) : State :=
  let m := s.coresDirty ks line
  let s1 := ks.foldl (fun t k => if t.coreHolds k line then t.modCore k fun c => { c with
      l2 := c.l2.map fun l => if l.line = line then { l with dirty := 0, st := .shared } else l
      miss := c.miss.map fun b => if b.line = line then { b with excl := false } else b } else t) s
  s1.homeDirty line m

/-- A die's E or M copies become S, in its L2s and in its L3 (R260). -/
def State.downgradeDie (s : State) (die line : Nat) : State :=
  (s.shareCores (s.dieCores die) line).modL3 die line fun l => { l with st := if l.dirty = 0 then .shared else .modified }

/-- The line read from DRAM, the critical block first (R281). -/
def State.dramLine (s : State) (pa : Nat) : State := (s.readBlock (pa / 128)).readBlock ((pa / 128) ^^^ 1)

/-- The line's data brought to the home die: from a cache that holds it, which reads it out, or from DRAM (R260, R272). -/
def State.bringLine (s : State) (pa : Nat) : State :=
  let s1 := if s.cached (pa / 256) then s.supply (pa / 256) else s
  if s1.cached (pa / 256) then s1 else s1.dramLine pa

/-- The look-up of the directory set of a line at its home die meets the errors of its tags and entries (R272). -/
def State.dirLookup (s : State) (line : Nat) : State :=
  s.tagMeet (s.homeDie (256 * line)) (l3Unit line) fun x => l3Set x == l3Set line

/-- Dirty sectors that a die taking ownership of their line finds elsewhere: they stay dirty in its L3 where it is the home, else they
are written to the home controller, since a line is dirty only in its home L3 (R252, R260; DEDUCED, log entry 33). -/
def State.ownDirty (s : State) (die line : Nat) (m : BitVec 4) : State :=
  if s.homeDie (256 * line) = die then s.homeDirty line m else s.writeMask line m

/-- A read request of a die served at the home (R260); true when the requester gets the line in E. -/
def State.homeRead (s : State) (die pa : Nat) : State × Bool :=
  let line := pa / 256
  let s1 := (s.dirLookup line).bringLine pa
  match s1.dirEntry line with
  | none => (s1.dirPut ⟨line, [die], true⟩, true)
  | some e =>
    if e.owned then
      if e.dies = [die] then (s1.dirPut e, true)
      else ((e.dies.foldl (fun t d => t.downgradeDie d line) s1).dirPut ⟨line, (die :: e.dies).eraseDups, false⟩, false)
    else (s1.dirPut ⟨line, (die :: e.dies).eraseDups, false⟩, false)

/-- A read for ownership or upgrade at the home: every other die's copy is removed, its dirty data supplied to the requester
(R260). -/
def State.homeOwn (s : State) (die pa : Nat) : State :=
  let line := pa / 256
  let s0 := (s.dirLookup line).acceptVictims line
  let s1 := (s0.completeFills (s0.coreKeys.filter fun k => k / 26 != die) line).bringLine pa
  let m := s1.coresDirty (s1.coreKeys.filter fun k => k / 26 != die) line
  let s2 := (s1.allDies.filter fun d => d != die).foldl (fun t d =>
    ((t.dieCores d).foldl (fun u k => u.evictCore k line false) t).dropL3 d line true) s1
  (s2.ownDirty die line m).dirPut ⟨line, [die], true⟩

/-- A dirty victim written back by the owning die: the home controller accepts the data and the entry loses the writer (R260). -/
def State.homeWriteback (s0 : State) (die pa : Nat) : State :=
  let line := pa / 256
  let s := s0.acceptVictims line
  match s.dirEntry line with
  | none => s
  | some e =>
    if e.owned && e.dies.contains die then
      let s1 := (s.dieCores die).foldl (fun t k => t.removeL2 k line true) s
      (if s1.homeDie pa = die then s1 else s1.dropL3 die line true).dropEntry line
    else s

/-! ## Accesses of a core (R250 to R258, R269) -/

/-- The errors a core meets when it reads a 64-byte line (R272): a parity error of its L1s, an uncorrectable tag, those of its L2, and
where its L2 does not hold the line those of its die's L3. -/
def State.meetErrors (s : State) (core pa : Nat) : State :=
  if s.errs.isEmpty then s
  else
    let line := pa / 256
    let die := core / 26
    let l1 := s.l1Errs core (pa / 64)
    let held := (s.core core).l1i.contains (pa / 64) || (s.core core).l1d.contains (pa / 64)
    let s1 := if l1.isEmpty || !held then s
      else ((((s.dropErrs l1).modCore core fun c => { c with
          l1i := c.l1i.filter fun x => x != pa / 64
          l1d := c.l1d.filter fun x => x != pa / 64 }).errInc (rL2Err core) 32 16 63).cacheSend die (core % 26) 0x30 1 line (injOf l1))
    let s2 := if s1.l2On core then (s1.tagMeet die (l2Unit core) fun x => l2Set x == l2Set line).l2Meet core line else s1
    if (s2.l2Line core line).isSome then s2
    else (s2.tagMeet die (l3Unit line) fun x => l3Set x == l3Set line).l3Meet die line

/-- A 64-byte line that is stored to is removed from every L1I (R258). -/
def State.dropL1i (s : State) (x : Nat) : State :=
  { s with cores := s.cores.map fun k => (k.1, { k.2 with l1i := k.2.l1i.filter fun y => y != x }) }

/-- Other cores of the die that hold the line give up E or M for S (R251); true when some do. -/
def State.shareInDie (s : State) (core line : Nat) : State × Bool :=
  let ks := (s.dieCores (core / 26)).filter fun k => k != core && s.coreHolds k line
  if ks.isEmpty then (s, false) else (s.shareCores ks line, true)

/-- A read request of a core to its die and the home: the line in the die's L3, and whether the core gets it in E (R251, R260). -/
def State.dieRead (s : State) (core pa : Nat) : State × Bool :=
  let sh := s.shareInDie core (pa / 256)
  let r := sh.1.homeRead (core / 26) pa
  (r.1.l3Install (core / 26) (pa / 256) r.2, r.2 && !sh.2)

/-- A cached load or instruction fetch (R250, R253, R254, R257, R269): a hit is touched and fills L1; a miss asks the home and takes a
miss buffer, from which L1 is filled with L2. -/
def State.coreRead (s0 : State) (core pa : Nat) (fetch : Bool) : State :=
  let line := pa / 256
  if s0.absent pa then s0
  else
    let s := s0.meetErrors core pa
    if !(s.l2On core) then (s.dieRead core pa).1
    else match s.l2Line core line with
    | some l => (s.modCore core fun c => { c with l2 := l :: c.l2.filter fun x => x.line != line }).l1Fill core (fetch, pa / 64)
    | none =>
      if (s.core core).miss.any (fun b => b.line == line) then
        s.modCore core fun c => { c with miss := c.miss.map fun b =>
          if b.line = line then { b with fills := (b.fills ++ [(fetch, pa / 64)]).eraseDups } else b }
      else
        let r := s.dieRead core pa
        (r.1.l3Present (core / 26) (core % 26) line).takeBuffer core ⟨line, r.2, none, [(fetch, pa / 64)]⟩

/-- The line made writable in a core's L2 (R251): a line in E or M is; one in S or I is first obtained from the home, every other copy
being removed (R260). -/
def State.coreOwn (s0 : State) (core pa : Nat) : State :=
  let line := pa / 256
  let s := (s0.completeFill core line).meetErrors core pa
  let mine : Bool := match s.l2Line core line with
    | some l => l.st != LineState.shared
    | none => false
  if mine then s.modCore core fun c =>
    { c with l2 := (c.l2.filter fun l => l.line == line) ++ c.l2.filter fun l => l.line != line }
  else
    let others := (s.dieCores (core / 26)).filter fun k => k != core
    let s0 := (s.completeFills others line).supply line
    let m := s0.coresDirty others line
    let s1 := (others.foldl (fun t k => t.evictCore k line false) s0).ownDirty (core / 26) line m
    let s2 := (s1.homeOwn (core / 26) pa).l3Install (core / 26) line true
    match s2.l2Line core line with
    | some _ => s2.modL2 core line fun l => { l with st := if l.st = .shared then .exclusive else l.st }
    | none => (s2.takeBuffer core ⟨line, true, none, []⟩).completeFill core line

/-- A store's sector marked dirty and the line M (R251, R257). -/
def State.markDirty (s : State) (core pa : Nat) : State :=
  s.modL2 core (pa / 256) fun l => { l with st := .modified, dirty := l.dirty ||| sectorMask pa }

/-- A sector that a write-through store has sent to the home controller is clean (R257); a line with no other dirty
sector is E again (R251). -/
def State.markClean (s : State) (core pa : Nat) : State :=
  s.modL2 core (pa / 256) fun l =>
    let d := l.dirty &&& ~~~(sectorMask pa)
    { l with dirty := d, st := if d = 0 ∧ l.st = .modified then .exclusive else l.st }

/-- The bytes of a write as cells. -/
def cellsAt (pa : Nat) (data : List Byte) : List Host.Cell := ((List.range data.length).zip data).map fun x => (pa + x.1, x.2)

/-- Bytes of one sector become what every agent observes (newest first), and a write of the whole sector clears its poison (R285). -/
def State.putCells (s : State) (sec : Nat) (cells : List Host.Cell) : State :=
  let s1 : State := { s with mem := cells.foldr (fun (x : Host.Cell) m => Memory.write m x.1 x.2) s.mem }
  if coversSector cells sec then s1.clearPoison [sec] else s1

/-- A write within a sector merged into the line in the home L3, which becomes dirty there (R263, R269). Copies that other caches hold are
cleaned and removed before the merge (DESIGN CHOICE, log entry 33: R263 states their removal only for a whole sector). -/
def State.homeMerge (s : State) (sec : Nat) (cells : List Host.Cell) : State :=
  if s.absent (64 * sec) then s else
  let s1 := s.removeAll (sec / 4) true
  let s2 := if s1.cached (sec / 4) then s1 else s1.dramLine (64 * sec)
  ((s2.putCells sec cells).homeDirty (sec / 4) (sectorMask (64 * sec))).dropL1i sec

/-- A store within a sector by a core, write-back or write-through (R251, R257, R258, R269). -/
def State.coreWrite (s : State) (core sec : Nat) (cells : List Host.Cell) (through : Bool) : State :=
  if s.absent (64 * sec) then s
  else if !(s.l2On core) then
    let s1 := s.homeMerge sec cells
    if through then s1.cleanLine (sec / 4) else s1
  else
    let s1 := ((s.coreOwn core (64 * sec)).putCells sec cells).dropL1i sec
    if through then (s1.writeSector sec).markClean core (64 * sec) else s1.markDirty core (64 * sec)

/-- A read at the home after the directory has cleaned and removed cached copies (R223, R257). -/
def State.uncachedRead (s : State) (pa : Nat) : State := (s.removeAll (pa / 256) true).readBlock (pa / 128)

/-- Bytes of one sector written at the home after cached copies are cleaned and removed (R222, R223, R257). -/
def State.homeWrite (s : State) (sec : Nat) (cells : List Host.Cell) : State :=
  if s.absent (64 * sec) then s
  else ((((s.removeAll (sec / 4) true).putCells sec cells).acceptWrite (sec / 2) cells []).dropL1i sec)

/-- A read of a channel engine or accelerator: it is served from the owning cache, the home L3 or DRAM, and changes no cache state
(R263); an error that the read meets is handled (R272). -/
def State.engineRead (s : State) (pa : Nat) : State := s.bringLine pa

/-- A write of a channel engine or accelerator within one sector (R263). -/
def State.engineWrite (s : State) (sec : Nat) (cells : List Host.Cell) : State :=
  if coversSector cells sec then s.homeWrite sec cells else s.homeMerge sec cells

/-! ## Maintenance (R264 to R266) -/

def State.cinv (s : State) (line : Nat) : State :=
  let s1 := (s.acceptVictims line).completeFills s.coreKeys line
  (s1.removeAll line false).discardMask line (s1.dirtyMask line)

def State.cclinv (s : State) (line : Nat) : State := s.removeAll line true

/-- CZERO under write-back or write-through (R264): the line is installed in M without a DRAM read, all four sectors valid and dirty;
under write-through the zeros are also written to the home controller. -/
def State.czeroCached (s : State) (core line : Nat) (through : Bool) : State :=
  let s1 := ((s.removeAll line false).clearPoison (maskSectors line 0xF)).putBytes (256 * line) (List.replicate 256 0)
  let s2 := s1.dirPut ⟨line, [core / 26], true⟩
  let s3 := (s2.takeBuffer core ⟨line, true, none, []⟩).completeFill core line
  let s4 := s3.modL2 core line fun l => { l with st := .modified, valid := 0xF, dirty := 0xF }
  if through then s4.writeMask line 0xF else s4

/-- CZERO under uncached, by a core without caches or a small-profile unit (R264, R266). -/
def State.czeroHome (s : State) (line : Nat) : State :=
  let s1 := s.removeAll line false
  (List.range 4).foldl (fun t i => t.homeWrite (4 * line + i) (cellsAt (256 * line + 64 * i) (List.replicate 64 0))) s1

/-! ## Disabling, enabling, reset (R268 to R275) -/

/-- The sweep of an L2: every dirty sector goes home, read out with its errors (R272), and every line is removed (R268). -/
def State.sweepL2 (s : State) (core : Nat) : State :=
  let s1 := (s.core core).miss.foldl (fun t b => t.completeFill core b.line) s
  let s2 := (s1.core core).l2.foldl (fun t l => t.evictCore core l.line true) s1
  s2.modCore core fun c => { c with l2 := [], l1i := [], l1d := [], miss := [] }

/-- The sweep ends. -/
def State.l2SweepEnd (s : State) (core : Nat) : State :=
  if s.rf (rL2Ctl core) 62 1 = 1 then (s.sweepL2 core).setRf (rL2Ctl core) 62 1 0 else s

/-- The enable check of an L2 (R270): reason 0 accepts. -/
def State.l2Check (s : State) (core : Nat) : Nat :=
  if 64 < (s.core core).deleted.length then 0x01 else if s.rf (rL2Ctl core) 62 1 = 1 then 0x83 else 0

def State.l2Enable (s : State) (core : Nat) : State :=
  if s.l2On core then s
  else
    let r := s.l2Check core
    (s.setRf (rL2Ctl core) 48 8 r).setRf (rL2Ctl core) 63 1 (if r = 0 then 1 else 0)

/-- The sweep of a die's L3 (R271): dirty lines are read out and written to DRAM, data is discarded, lines with a presence vector stay as
tags. -/
def State.sweepL3 (s : State) (die : Nat) : State :=
  let s1 := (s.die die).l3.foldl (fun t l =>
    let u := t.l3Meet die l.line
    match u.l3Line die l.line with | some x => u.writeMask x.line x.dirty | none => u) s
  s1.modDie die fun h => { h with l3 := (h.l3.filter fun l => !l.cores.isEmpty).map fun l =>
    { l with tagOnly := true, valid := 0, dirty := 0, st := if l.st = .modified then s1.cleanState die l.line else l.st } }

def State.l3SweepEnd (s : State) (die : Nat) : State :=
  if s.rf (rL3Ctl die) 62 1 = 1 then (s.sweepL3 die).setRf (rL3Ctl die) 62 1 0 else s

def State.l3Check (s : State) (die : Nat) : Nat :=
  if 1024 < (s.die die).deleted.length then 0x01 else if s.rf (rL3Ctl die) 62 1 = 1 then 0x83 else 0

def State.l3Enable (s : State) (die : Nat) : State :=
  if s.l3On die then s
  else
    let r := s.l3Check die
    (s.setRf (rL3Ctl die) 48 8 r).setRf (rL3Ctl die) 63 1 (if r = 0 then 1 else 0)

/-- Every dirty sector in any cache or miss buffer discarded, as warm reset does (R275). -/
def State.discardAll (s : State) : State :=
  let lines := (s.coreKeys.flatMap fun k => (s.core k).l2.map (·.line)) ++
    (s.coreKeys.flatMap fun k => (s.core k).miss.filterMap fun b => b.victim.map (·.line)) ++
    (s.dieKeys.flatMap fun d => (s.die d).l3.map (·.line))
  let victims (l : Nat) : BitVec 4 := s.coreKeys.foldl (fun m k => (s.core k).miss.foldl (fun m b =>
    match b.victim with | some v => if v.line = l then m ||| v.dirty else m | none => m) m) 0
  lines.eraseDups.foldl (fun t l => t.discardMask l (s.dirtyMask l ||| victims l)) s

/-! ## Scrub (R273, R274) -/

/-- The single-bit errors of a line that a scrub corrects: set, way and bit within the line. -/
def scrubKeys (set way : Nat) (l : List ArrErr) : List (Nat × Nat × Nat) :=
  (l.map (·.addr / 16)).eraseDups.flatMap fun w =>
    let ps := flipped (l.filter fun e => e.addr / 16 == w)
    if eccFails ps then [] else ps.map fun p => (set, way, w % 16 * 128 + p)

/-- One line of an L2 scrubbed (R273): with the keys corrected now; a position that gave one of them at the scrub before is deleted, its
line cleaned first (R274). -/
def State.scrubL2 (s : State) (core line : Nat) (before : List (Nat × Nat × Nat)) : State × List (Nat × Nat × Nat) :=
  match s.l2Line core line with
  | none => (s, [])
  | some l =>
    let es := s.lineErrs (core / 26) (l2Unit core) line
    let ks := scrubKeys (l2Set line) l.way es
    let s1 := s.l2Meet core line
    if ks.any before.contains then ((s1.evictCore core line true).deleteL2 core (l2Set line) l.way line (injOf es), ks) else (s1, ks)

def State.scrubL3 (s : State) (die line : Nat) (before : List (Nat × Nat × Nat)) : State × List (Nat × Nat × Nat) :=
  match s.l3Line die line with
  | none => (s, [])
  | some l =>
    let es := s.lineErrs die (l3Unit line) line
    let ks := scrubKeys (l3Set line) l.way es
    let s1 := s.l3Meet die line
    if ks.any before.contains then ((s1.evictDie die line true).deleteL3 die (l3Set line) l.way line (injOf es), ks) else (s1, ks)

/-- Set `pos` of a core's L2 scrubbed. -/
def State.scrubCore (s : State) (core pos : Nat) : State :=
  let s0 := s.tagMeet (core / 26) (l2Unit core) fun x => l2Set x == pos
  let r := (((s0.core core).l2.filter fun l => l2Set l.line == pos).map (·.line)).foldl (fun r x =>
    let y := r.1.scrubL2 core x (s0.core core).scrubbed
    (y.1, r.2 ++ y.2)) (s0, [])
  r.1.modCore core fun c => { c with scrubbed := (c.scrubbed.filter fun x => x.1 != pos) ++ r.2 }

/-- Set `pos` of each slice of a die's L3 scrubbed. -/
def State.scrubSlices (s : State) (die pos : Nat) : State :=
  let s0 := (List.range 32).foldl (fun t k => t.tagMeet die (0x40 + k) fun x => l3Set x % 1024 == pos) s
  let r := (((s0.die die).l3.filter fun l => l3Set l.line % 1024 == pos).map (·.line)).foldl (fun r x =>
    let y := r.1.scrubL3 die x (s0.die die).scrubbed
    (y.1, r.2 ++ y.2)) (s0, [])
  r.1.modDie die fun h => { h with scrubbed := (h.scrubbed.filter fun x => x.1 % 1024 != pos) ++ r.2 }

/-- One set of each L2 and of each L3 slice of a die scrubbed (R273). -/
def State.scrubDie (s : State) (die : Nat) : State :=
  if !(bit (s.reg (rL3Ctl die)) 7) then s
  else
    let pos := (s.die die).scrubPos
    let s1 := ((s.dieCores die).foldl (fun t k => t.scrubCore k pos) s).scrubSlices die pos
    s1.modDie die fun h => { h with scrubPos := (pos + 1) % 1024 }

end Sys2Proof.Machine
end

