-- ==== Sys2Proof/Machine/Tables.lean ====
section
/-! DEFINITION. Working store as bytes with its owners and errors (R429, R433 to R436), and the channel tables that stand in banks 0
to 71 of the channel dies: entries (R311), state words (R336) and bodies (R337) with their places (R314, R335) and layouts. -/
namespace Sys2Proof.Machine
open Sys2Proof

/-! ## Addresses and owners -/

/-- The working-store size of a small unit's die (R429). -/
def wsSize (u : Nat) : Nat := if u < 288 then 0x2000000 else 0x800000

/-- Cell number of a working-store address of a die. -/
def wsCell (die a : Nat) : Nat := (die - 8) * 0x4000000 + a

/-- A register of the WS window of the die that holds a cell. -/
def rWs (cell off : Nat) : Nat := regAddr 7 0 (8 + cell / 0x4000000) off

/-- WS.BANK_OWN of the bank that holds a cell. -/
def rBank (cell : Nat) : Nat := rWs cell (0x100 + 8 * (cell % 0x4000000 / 0x40000))

def State.bankOwner (s : State) (cell : Nat) : Nat := s.rf (rBank cell) 0 8

/-- The bank that holds a cell is in a copy or a vault wipe: its requests stall (R442, R446). -/
def State.cellStalled (s : State) (cell : Nat) : Bool := s.rf (rBank cell) 62 1 == 1

/-! ## Layouts (R311, R325, R336, R337) -/

/-- The 64 bytes of an entry (R311). -/
def Sct.bytes (e : Sct) : List Byte :=
  beBytes 1 (e.mapped.toNat * 128 + e.en.toNat * 64 + e.isc % 8) ++ beBytes 1 e.image ++ beBytes 1 e.set ++ [e.mask] ++ beBytes 2 e.num ++
  beBytes 2 e.dev ++ beBytes 8 e.param.toNat ++ ((List.range 8).flatMap fun i => beBytes 4 (e.paths.getD i 0).toNat) ++ List.replicate 16 0

/-- The entry that 64 bytes hold; places that R311 and R312 reserve hold 0 (log 27). -/
def Sct.ofBytes (b : List Byte) : Sct :=
  { mapped := (b.getD 0 0).getLsbD 7, en := (b.getD 0 0).getLsbD 6, isc := blkNat b 0 1 % 8, image := blkNat b 1 1, set := blkNat b 2 1,
    mask := b.getD 3 0, num := blkNat b 4 2, dev := blkNat b 6 2, param := BitVec.ofNat 64 (blkNat b 8 8),
    paths := (List.range 8).map fun i => BitVec.ofNat 32 (blkNat b (0x10 + 4 * i) 4) }

/-- A status block's 32 bytes (R325). -/
def Status.bytes (t : Status) (pending : Bool) : List Byte :=
  [BitVec.ofNat 8 (t.start.toNat * 128 + t.halt.toNat * 64 + t.clear.toNat * 32 + t.active.toNat * 16 + pending.toNat)] ++
  beBytes 1 t.code ++ beBytes 1 t.dev ++ [t.chan] ++ beBytes 4 t.residual ++ beBytes 8 t.addr ++ beBytes 4 t.xid ++
  beBytes 2 t.gen.toNat ++ beBytes 1 t.path ++ List.replicate 9 0

def Status.ofBytes (b : List Byte) : Status :=
  let f := b.getD 0 0
  { start := f.getLsbD 7, halt := f.getLsbD 6, clear := f.getLsbD 5, active := f.getLsbD 4, code := blkNat b 1 1, dev := blkNat b 2 1,
    chan := b.getD 3 0, residual := blkNat b 4 4, addr := blkNat b 8 8, xid := blkNat b 16 4, gen := BitVec.ofNat 16 (blkNat b 20 2),
    path := blkNat b 22 1 }

/-- STATE (R336). -/
def ExSt.code : ExSt → Nat
  | .free => 0
  | .start => 1
  | .sent => 2
  | .partnerAck => 3
  | .dataDone => 4
  | .status => 5
  | .posted => 6
  | .unused => 7

def ExSt.ofCode (n : Nat) : ExSt :=
  match n with
  | 0 => .free
  | 1 => .start
  | 2 => .sent
  | 3 => .partnerAck
  | 4 => .dataDone
  | 5 => .status
  | 6 => .posted
  | _ => .unused

/-- The state word (R336). -/
def Slot.word (x : Slot) : Nat :=
  x.st.code <<< 125 + (x.path % 8) <<< 122 + (x.retry % 4) <<< 120 + (x.image % 128) <<< 113 + (x.incarn % 32768) <<< 98 +
    x.gen.toNat <<< 82 + (x.seq % 65536) <<< 66 + (x.cwa / 16 % 2 ^ 60) <<< 6

/-- A slot with the fields of a state word taken from another. -/
def Slot.withWord (x w : Slot) : Slot :=
  { x with st := w.st, path := w.path, retry := w.retry, image := w.image, incarn := w.incarn, gen := w.gen, seq := w.seq, cwa := w.cwa }

def Slot.setWord (x : Slot) (n : Nat) : Slot :=
  { x with st := ExSt.ofCode (n >>> 125 % 8), path := n >>> 122 % 8, retry := n >>> 120 % 4, image := n >>> 113 % 128,
           incarn := n >>> 98 % 32768, gen := BitVec.ofNat 16 (n >>> 82), seq := n >>> 66 % 65536, cwa := n >>> 6 % 2 ^ 60 * 16 }

/-- The body's 64 bytes (R337). Its engine working data tell whether an engine serves the exchange, and whether its state has yet to
become durable (DESIGN CHOICE, log 27); the rest of what an engine keeps stands in State.xfers. -/
def Slot.body (x : Slot) : List Byte :=
  beBytes 8 x.param.toNat ++ beBytes 1 (x.key.toNat * 16) ++ [x.mask] ++
  (match x.eng with | some (d, e) => beBytes 1 (d % 2 * 128 + e % 64) | .none => [0]) ++ [0] ++ beBytes 4 x.done ++ x.status.bytes x.pend ++
  beBytes 1 (x.eng.isSome.toNat * 128 + (!x.durable).toNat * 64) ++ List.replicate 15 0

def Slot.setBody (x : Slot) (b : List Byte) : Slot :=
  let w := b.getD 0x30 0
  { x with param := BitVec.ofNat 64 (blkNat b 0 8), key := BitVec.ofNat 4 (blkNat b 8 1 / 16), mask := b.getD 9 0,
           eng := if w.getLsbD 7 then some (8 + blkNat b 10 1 / 128, blkNat b 10 1 % 64) else .none, done := blkNat b 12 4,
           status := Status.ofBytes ((b.drop 0x10).take 32), pend := (b.getD 0x10 0).getLsbD 0, durable := !(w.getLsbD 6) }

/-! ## Places (R314, R335) -/

/-- The owning die of a physical subchannel (R311). -/
def ownerDie (p : Nat) : Nat := if p < 65536 then 8 else 9

/-- What the channel units keep for a subchannel. -/
inductive Rec where
  | word
  | body
  | entry
  deriving DecidableEq, Repr

def Rec.size : Rec → Nat
  | .word => 16
  | _ => 64

/-- The first bank of the own records and of the mirror. -/
def Rec.bank : Rec → Bool → Nat
  | .word, m => if m then 4 else 0
  | .body, m => if m then 24 else 8
  | .entry, m => if m then 56 else 40

/-- The die that holds the own record of p, or the mirror. -/
def recDie (p : Nat) (mirror : Bool) : Nat := if mirror then 17 - ownerDie p else ownerDie p

/-- The cell at which a record of p begins. -/
def recCell (r : Rec) (p : Nat) (mirror : Bool) : Nat :=
  wsCell (recDie p mirror) (r.bank mirror * 0x40000 + p % 65536 * r.size)

/-- A cell lies in banks 0 to 71 of a channel die. -/
def inTables (cell : Nat) : Bool := decide (cell < 0x8000000) && decide (cell % 0x4000000 < 0x1200000)

/-- The record that holds a cell of those banks, its subchannel, the copy, and the offset in the record. -/
def recAt (cell : Nat) : Rec × Nat × Bool × Nat :=
  let a := cell % 0x4000000
  let bank := a / 0x40000
  let r := if bank < 8 then Rec.word else if bank < 40 then Rec.body else Rec.entry
  let m := (decide (4 ≤ bank) && decide (bank < 8)) || (decide (24 ≤ bank) && decide (bank < 40)) || decide (56 ≤ bank)
  let o := a - r.bank m * 0x40000
  let die := 8 + cell / 0x4000000
  (r, (if m then 17 - die - 8 else die - 8) * 65536 + o / r.size, m, o % r.size)

/-! ## Bytes -/

def State.entryCopy (s : State) (m : Bool) (p : Nat) : Sct := sget (fun _ => Sct.none) (if m then s.sctMir else s.sct) p
def State.slotCopy (s : State) (m : Bool) (p : Nat) : Slot := sget (fun _ => Slot.none) (if m then s.slotsMir else s.slots) p

def State.putEntry (s : State) (m : Bool) (p : Nat) (e : Sct) : State :=
  if m then { s with sctMir := sput (fun _ => Sct.none) s.sctMir p e } else { s with sct := sput (fun _ => Sct.none) s.sct p e }
def State.putSlot (s : State) (m : Bool) (p : Nat) (x : Slot) : State :=
  if m then { s with slotsMir := sput (fun _ => Slot.none) s.slotsMir p x } else { s with slots := sput (fun _ => Slot.none) s.slots p x }

/-- The bytes of a record's copy. -/
def State.recBytes (s : State) (r : Rec) (p : Nat) (m : Bool) : List Byte :=
  match r with
  | .word => beBytes 16 (s.slotCopy m p).word
  | .body => (s.slotCopy m p).body
  | .entry => (s.entryCopy m p).bytes

/-- A record's copy as bytes give it. -/
def State.putRec (s : State) (r : Rec) (p : Nat) (m : Bool) (b : List Byte) : State :=
  match r with
  | .word => s.putSlot m p ((s.slotCopy m p).setWord (beNat b))
  | .body => s.putSlot m p ((s.slotCopy m p).setBody b)
  | .entry => s.putEntry m p (Sct.ofBytes b)

/-- One byte of working store. -/
def State.wsByte (s : State) (cell : Nat) : Byte :=
  if inTables cell then
    let x := recAt cell
    (s.recBytes x.1 x.2.1 x.2.2.1).getD x.2.2.2 0
  else Memory.read s.ws cell

def State.wsBytes (s : State) (cell n : Nat) : List Byte := (List.range n).map fun i => s.wsByte (cell + i)

/-- One byte of working store written. -/
def State.wsPutByte (s : State) (cell : Nat) (b : Byte) : State :=
  if inTables cell then
    let x := recAt cell
    s.putRec x.1 x.2.1 x.2.2.1 (setAt (s.recBytes x.1 x.2.1 x.2.2.1) x.2.2.2 b)
  else { s with ws := Memory.write s.ws cell b }

def State.wsPut (s : State) (cell : Nat) : List Byte → State
  | [] => s
  | b :: r => State.wsPut (s.wsPutByte cell b) (cell + 1) r

/-- The bytes from cell lo on zeroed, in the records of the tables and elsewhere. -/
def State.wsZero (s : State) (lo n : Nat) : State :=
  let hit (c : Nat) : Bool := decide (lo ≤ c) && decide (c < lo + n)
  let s1 : State := { s with ws := s.ws.filter fun c => !(hit c.1) }
  let rec_ (m : Bool) (t : State) (p : Nat) : State :=
    let t1 := if hit (recCell .word p m) then t.putSlot m p ((t.slotCopy m p).withWord Slot.none) else t
    let t2 := if hit (recCell .body p m) then t1.putSlot m p (Slot.none.withWord (t1.slotCopy m p)) else t1
    if hit (recCell .entry p m) then t2.putEntry m p Sct.none else t2
  let s2 := (s1.slots.map (·.1) ++ s1.sct.map (·.1)).foldl (rec_ false) s1
  (s2.slotsMir.map (·.1) ++ s2.sctMir.map (·.1)).foldl (rec_ true) s2

/-! ## Refusals and errors (R434, R436, R448) -/

/-- Bits of a working-store message (R448). -/
def State.wsSend (s : State) (cell owner kind cls : Nat) (inj : Bool × Bool) : State :=
  let bank := cell % 0x4000000 / 0x40000
  s.send (8 + cell / 0x4000000) 0x60 kind cls
    (owner <<< 32 + bank <<< 24 + s.rf (rBank cell) 40 8 <<< 16 + cell % 0x40000 / 16) inj.1 inj.2

/-- A request refused to a requester that does not own the bank (R436). -/
def State.wsDeny (s : State) (cell owner : Nat) : State :=
  ((s.setRf (rBank cell) 8 8 owner).errInc (rWs cell 0x18) 32 16 63).wsSend cell owner 0x70 1 (false, false)

/-- The errors of the 8-byte halves that n bytes at a cell touch. -/
def State.cellErrs (s : State) (cell n : Nat) : List ArrErr :=
  let lo := cell % 0x4000000
  s.errs.filter fun e => e.die == 8 + cell / 0x4000000 && e.unit == 0x60 && decide (lo / 8 ≤ e.addr / 8) && decide (e.addr / 8 ≤ (lo + n - 1) / 8)

/-- One half decoded for a requester: one inverted bit is corrected and written back; of two the half keeps the error, no longer as
injected once it has been reported (R434, R470). True when it is uncorrectable. -/
def State.wsHalf (s : State) (cell owner : Nat) (l : List ArrErr) : State × Bool :=
  let ps := flipped l
  let s1 : State := { s with errs := s.errs.filter fun e => !(l.contains e) }
  if ps.isEmpty then (s1, false)
  else if ps.length = 1 then ((s1.errInc (rWs cell 0x20) 16 16 63).wsSend cell owner 0x72 1 (injOf l), false)
  else ((({ s1 with errs := s1.errs ++ l.map fun e => { e with inj := false } } : State).errInc (rWs cell 0x20) 0 16 62).wsSend cell owner 0x73 2
    (injOf l), true)

/-- The halves that n bytes at a cell touch, decoded for a requester; the flag tells of an uncorrectable one. -/
def State.wsErrors (s : State) (cell n owner : Nat) : State × Bool :=
  let l := s.cellErrs cell n
  ((l.map (·.addr / 8)).eraseDups).foldl (fun r h =>
    let x := r.1.wsHalf (cell / 0x4000000 * 0x4000000 + h * 8) owner (l.filter fun e => e.addr / 8 == h)
    (x.1, r.2 || x.2)) (s, false)

/-- An error in a half ends when the half is rewritten whole. -/
def State.wsClean (s : State) (cell n : Nat) : State :=
  let lo := cell % 0x4000000
  { s with errs := s.errs.filter fun e =>
      !(e.die == 8 + cell / 0x4000000 && e.unit == 0x60 && decide (lo ≤ e.addr / 8 * 8) && decide (e.addr / 8 * 8 + 8 ≤ lo + n)) }

/-- The errors that inverted bits of a 16-byte word make in its two halves; bit 0 is the least significant of the word. -/
def rowErrs (die row : Nat) (ps : List Nat) (inj : Bool) : List ArrErr :=
  let half (h : Nat) : List Nat := (ps.filter fun p => p / 64 == h).map (· % 64)
  ([(1, 0), (0, 8)].filter fun x => !(half x.1).isEmpty).map fun x => ⟨die, 0x60, row / 16 * 16 + x.2, .bits (half x.1), inj⟩

/-- A target of the SCT or journal unit (R536) as a working-store row: its die and address. -/
def recRow (unit t : Nat) : Nat × Nat :=
  let p := t % 131072
  let w := t / 131072 % 8
  let m := decide (t / 2 ^ 20 % 2 = 1)
  let cell := if unit = 0x61 then recCell .entry p m + 16 * w else if w = 0 then recCell .word p m else recCell .body p m + 16 * (w - 1)
  (8 + cell / 0x4000000, cell % 0x4000000)

end Sys2Proof.Machine
end

