-- ==== Sys2Proof/Machine/Storage.lean ====
section
/-! DEFINITION. Storage as an executing unit reaches it: prefixing (R81), translation (R207 to R220), protection and keys
(R214 to R216), TLBs (R224 to R228), memory types (R221 to R223), the working store of the small units (R357, R429 to
R436) and the accesses themselves. Registers of the service space are reached in RegWrite.lean. -/
namespace Sys2Proof.Machine
open Sys2Proof

/-! ## Conditions -/

/-- A program-interruption condition (R83) with what R82 stores for it. -/
structure Exc where
  code : BitVec 16
  addr : Dword := 0
  ifx : Bool := false
  data : Dword := 0
  fpRec : List Byte := []
  /-- physical addresses of the table entries that the failing walk has fetched (R213) -/
  fetched : List Nat := []
  deriving DecidableEq, Repr

/-- How an access ends when it is not performed. -/
inductive Stop where
  /-- a program interruption for the program whose address it is -/
  | exc (e : Exc)
  /-- a host-level failure: IRUN ends with reason 0x0001 and this qualifier; `early` when a table or key fetch met it; with the
  physical addresses of the table entries fetched before (R213) -/
  | exit (q : Nat) (early : Bool) (fetched : List Nat)
  /-- a working-store bank refuses the unit (R436): cell of the access, and its working-store address -/
  | deny (cell : Nat) (va : Dword)
  /-- the access waits for the copy of its working-store bank to end (R442) -/
  | stall
  deriving DecidableEq, Repr

/-- The table and key fetches made before an access ended. -/
def Stop.fetched : Stop → List Nat
  | .exc e => e.fetched
  | .exit _ _ l => l
  | .deny _ _ | .stall => []

/-- An end of an access with the fetches that were made for it. -/
def Stop.withFetched (l : List Nat) : Stop → Stop
  | .exc e => .exc { e with fetched := l }
  | .exit q early _ => .exit q early l
  | .deny c va => .deny c va
  | .stall => .stall

/-- Fetches made earlier for the same access. -/
def Stop.behind (l : List Nat) (x : Stop) : Stop := x.withFetched (l ++ x.fetched)

/-- The kind of an access: `slot` marks coprocessor operands, which are never 8-byte loads or stores (R42). -/
inductive AccKind where
  | load
  | store
  | fetch
  | atomic
  | slotLoad
  | slotStore
  deriving DecidableEq, Repr

/-- The access is an accelerator's. -/
def AccKind.isSlot : AccKind → Bool
  | .slotLoad | .slotStore => true
  | _ => false

def AccKind.isStore : AccKind → Bool
  | .store | .atomic | .slotStore => true
  | _ => false

/-! ## Translation tables (R209 to R213) -/

/-- One level of the walk: index position and width, whether a leaf may or must stand here, alignment of the next table. -/
structure Level where
  shift : Nat
  bits : Nat
  leafOk : Bool
  last : Bool
  align : Nat

/-- Region-first, region-second, segment and page level (R209). -/
def levels : List Level := [⟨41, 11, false, false, 14⟩, ⟨30, 11, true, false, 13⟩, ⟨20, 10, true, false, 11⟩, ⟨12, 8, false, true, 0⟩]

/-- What a fetch of a table entry or key byte gives: its value, a nonexistent or service-space address, or a host-level failure;
each with the physical addresses read. -/
inductive Fetch (α : Type) where
  | ok (v : α) (pas : List Nat)
  | none (pas : List Nat)
  | exit (q : Nat) (pas : List Nat)

/-- How a walk ends. -/
inductive WalkEnd where
  /-- a leaf, with the physical addresses fetched and the non-leaf entries fetched: address, shift, value -/
  | leaf (base sizeLog : Nat) (mt : Mt) (w x u : Bool) (pas : List Nat) (inner : List (Nat × Nat × Dword))
  /-- an unusable entry at this address; `page` for a page-table entry -/
  | bad (addr : Nat) (page : Bool) (pas : List Nat)
  | none (addr : Nat) (pas : List Nat)
  | exit (q : Nat) (pas : List Nat)

/-- The physical addresses that a walk has fetched. -/
def WalkEnd.fetched : WalkEnd → List Nat
  | .leaf _ _ _ _ _ _ pas _ => pas
  | .bad _ _ pas => pas
  | .none _ pas => pas
  | .exit _ pas => pas

/-- MT of a leaf (R210). -/
def Mt.ofBits (n : Nat) : Mt := if n = 0 then .wb else if n = 1 then .wt else if n = 2 then .uc else .wc

/-- The entry at level l is unusable (R210 to R212). -/
def badEntry (l : Level) (e : Dword) : Bool :=
  let leaf := l.last || (bit e 62 && l.leafOk)
  !(bit e 63) || decide (fget e 50 12 ≠ 0) || decide (fget e 0 6 ≠ 0) || (bit e 62 && !l.leafOk)
    || (if leaf then decide (fget e 11 (l.shift - 11) ≠ 0) else decide (fget e 6 5 ≠ 0) || decide (fget e 0 l.align / 2048 * 2048 ≠ 0))

/-- The walk of R211 from a table, by the levels that remain; `cached` gives a cached non-leaf entry by its address (R224),
`fetch` reads an entry by its absolute address. -/
def walk (cached : Nat → Option Dword) (fetch : Nat → Fetch Dword) (va : Nat) :
    List Level → Nat → List Nat → List (Nat × Nat × Dword) → WalkEnd
  | [], t, pas, _ => .none t pas
  | l :: ls, t, pas, inner =>
    let a := t + 8 * nbits va l.shift l.bits
    match (if l.last then Option.none else cached a) with
    | some e => walk cached fetch va ls (fget e 11 39 <<< 11) pas inner
    | Option.none =>
      match fetch a with
      | .none ps => .none a (pas ++ ps)
      | .exit q ps => .exit q (pas ++ ps)
      | .ok e ps =>
        if badEntry l e then .bad a l.last (pas ++ ps)
        else if l.last || bit e 62 then
          .leaf (fget e l.shift (50 - l.shift) <<< l.shift) l.shift (Mt.ofBits (fget e 9 2)) (bit e 8) (bit e 7) (bit e 6) (pas ++ ps) inner
        else walk cached fetch va ls (fget e 11 39 <<< 11) (pas ++ ps) (inner ++ [(a, l.shift, e)])

/-- A byte as a CPU observes it: its region's stores, then its write-combining buffers, then storage (R222, R238). -/
def State.ownByte (s : State) (u a : Nat) : Byte :=
  let c := s.unit u
  let own : Option Host.Cell := match c.region with
    | some r => r.stores.find? fun x => x.1 == a
    | none => none
  match own with
  | some x => x.2
  | none => match (c.wcb.flatMap WcBuf.cells).find? (fun x => x.1 == a) with
    | some x => x.2
    | none => s.byte a

/-- A byte as the agent that fetches a table sees it: a CPU also its own stores (R213), a channel die storage. -/
def State.seenByte (s : State) (by_ : Option Nat) (a : Nat) : Byte :=
  match by_ with
  | some u => s.ownByte u a
  | none => s.byte a

/-- An 8-byte fetch at a physical address (R212: the service space reads no register). -/
def State.fetchPhys (s : State) (by_ : Option Nat) (a : Nat) : Fetch Dword :=
  if a + 8 ≤ s.dramSize then .ok (BitVec.ofNat 64 (beNat ((List.range 8).map fun i => s.seenByte by_ (a + i)))) [a] else .none []

/-- The context of TLB entries: host execution, or the image that runs with its generation (R224). -/
def Cpu.context (c : Cpu) : Option (Nat × BitVec 16) := c.irun.map fun r => (r.image, r.gen)

/-- A non-leaf entry that a CPU has cached for its context and the addresses about va (R224): one that another range of addresses shares is
cached apart for each (log entry 12), so that R226 removes those used to reach a page. -/
def Cpu.walkHit (c : Cpu) (host : Bool) (va a : Nat) : Option Dword :=
  (c.walks.find? fun e => e.ctx == c.context && e.host == host && e.addr == a && e.range == va >>> e.shift).map (·.value)

/-- The cached non-leaf entries that an agent may use. -/
def State.seenWalks (s : State) (by_ : Option Nat) (host : Bool) (va a : Nat) : Option Dword :=
  match by_ with
  | some u => (s.unit u).walkHit host va a
  | none => none

/-- The host-level walk of a guest absolute address (R218). -/
def State.hostWalk (s : State) (by_ : Option Nat) (img ga : Nat) : WalkEnd :=
  match s.image img with
  | some e => walk (s.seenWalks by_ true ga) (s.fetchPhys by_) ga levels e.root [] []
  | none => .exit ga []

/-- The physical address a fetch at a guest absolute address reaches (R219), or none. -/
def State.guestPhys (s : State) (by_ : Option Nat) (img ga : Nat) : Fetch Nat :=
  match s.hostWalk by_ img ga with
  | .leaf base sz _ _ _ _ pas _ => .ok (base + ga % 2 ^ sz) pas
  | w => .exit ga w.fetched

/-- A table fetch of unit u at an absolute address: through the host tables inside an image (R208, R219). -/
def State.fetchTable (s : State) (u a : Nat) : Fetch Dword :=
  match (s.unit u).irun with
  | none => s.fetchPhys (some u) a
  | some r =>
    match s.guestPhys (some u) r.image a with
    | .ok pa ps => match s.fetchPhys (some u) pa with
      | .ok v qs => .ok v (ps ++ qs)
      | .none qs => .none (ps ++ qs)
      | .exit q qs => .exit q (ps ++ qs)
    | .none ps => .none ps
    | .exit q ps => .exit q ps

/-- A key-byte fetch at an absolute address (R215): one beyond 50 bits is no address (R207). -/
def State.fetchKey (s : State) (u a : Nat) : Fetch Byte :=
  let at_ (pa : Nat) (ps : List Nat) : Fetch Byte := if pa < s.dramSize then .ok (s.ownByte u pa) (ps ++ [pa]) else .none ps
  match (s.unit u).irun with
  | none => at_ a []
  | some r =>
    if 2 ^ 50 ≤ a then .none []
    else match s.guestPhys (some u) r.image a with
    | .ok pa ps => at_ pa ps
    | .none ps => .none ps
    | .exit q ps => .exit q ps

/-- Bits [63:52] are not all equal to bit 51 (R209). -/
def nonCanonical (va : Nat) : Bool := let h := nbits va 51 13; decide (h ≠ 0) && decide (h ≠ 0x1FFF)

/-- The region-first table that c1 names. -/
def r1to (c1 : Dword) : Nat := fget c1 14 36 <<< 14

/-! ## Prefixing (R81) -/

/-- An address after prefixing with prefix p. -/
def prefixed (p a : Nat) : Nat := if a < 0x2000 then a + p else if p ≤ a ∧ a < p + 0x2000 then a - p else a

/-- The prefix in c3. -/
def Cpu.prefix_ (c : Cpu) : Nat := fget (c.getC 3) 13 37 <<< 13

/-! ## Units, states and windows -/

/-- A block window that R41 lists as present; fused-off core sites have none (R42). -/
def State.windowPresent (s : State) (a : Nat) : Bool :=
  let p := regPlace a
  let d := p.1
  let t := p.2.1
  let i := p.2.2.1
  inService a &&
  (if t = 0 ∨ t = 1 then decide (d < 8) && decide (i < 26) && !(s.fuses.fusedOff.contains (d, i))
   else if t = 2 then decide (d < 8) && decide (i = 0)
   else if t = 3 then decide (d < 8) && decide (i < 2)
   else if t = 4 then (decide (d = 8) || decide (d = 9)) && decide (i = 0)
   else if t = 5 then (decide (d = 8) || decide (d = 9)) && decide (i < 48)
   else if t = 6 then (decide (d = 8) || decide (d = 9)) && decide (i < 12)
   else if t = 7 then decide (8 ≤ d) && decide (i = 0)
   else if t = 8 then (if d < 8 then decide (i < 2) else decide (d < 10) && decide (i < 8))
   else if t = 9 ∨ t = 10 ∨ t = 13 then decide (d = 10) && decide (i = 0)
   else if t = 11 ∨ t = 12 then decide (i = 0)
   else false)

/-- The channel die (8 or 9) of an engine, or 10 for a management core. -/
def smallDie (u : Nat) : Nat := if u < 288 then 8 + (u - 192) / 48 else 10

/-- Owner code of a small unit (R435). -/
def ownerCode (u : Nat) : Nat := if u < 288 then 1 + (u - 192) % 48 else 0x7E

/-- The PSW a unit may take as new PSW: no host state inside an image or in the small profile (R77, R91). -/
def newPswOk (u : Nat) (c : Cpu) (p : Psw) : Bool := p.mode != .host || (isCpu u && !c.inImage)

/-- The windows a small unit reaches (R44, R45, R473). -/
def State.reaches (s : State) (u a : Nat) : Bool :=
  let p := regPlace a
  s.windowPresent a && (decide (288 ≤ u) ||
    (decide (p.1 = smallDie u) && decide (4 ≤ p.2.1) && decide (p.2.1 ≤ 8)))

/-- The writer an executing unit writes registers as (R18, R45). -/
def State.writerOf (u : Nat) : Writer :=
  if u < 192 then .host else if u < 240 then .engine 0 else if u < 288 then .engine 1 else .mgmt

/-- The introducing line of a register names a writer. -/
def RegDesc.allows (d : RegDesc) (w : Writer) : Bool :=
  match w with
  | .mgmt => d.mgmt
  | .host => d.host
  | .engine _ => d.eng

/-- A counter shadow or a SHD.TAG, which no plane writes (R496). -/
def roShadow (a : Nat) : Bool := ((regPlace a).2.2.2 == 0x800FF0 && hasTag a) || (decide (0x800000 ≤ (regPlace a).2.2.2) && isCounter (shadowed a))

/-- The checks of R42 rows 2 to 4, or of R45 rows 2 and 3, on an access that reaches the service space. -/
def svcCheck (u a len : Nat) (k : AccKind) (present : Bool) : Option (BitVec 16) :=
  if ¬((k = .load ∨ k = .store) ∧ len = 8 ∧ a % 8 = 0) then some 0x0006
  else if !present then some 0x0005
  else if k = .store then
    if roShadow a then some 0x0004
    else match findReg a with
    | some (d, _) => if d.allows (State.writerOf u) then none else some 0x0004
    | none => none
  else none

/-! ## TLBs (R224 to R228) -/

/-- An entry serves an address. -/
def TlbEntry.serves (e : TlbEntry) (ctx : Option (Nat × BitVec 16)) (dat : Bool) (root pre vpage : Nat) : Bool :=
  e.ctx == ctx && e.dat == dat && (e.r1to == root || !dat) && e.prefix_ == pre &&
    e.vpage >>> (e.span - 12) == vpage >>> (e.span - 12)

/-- An entry as it serves one frame of its page. -/
def TlbEntry.at_ (e : TlbEntry) (vpage : Nat) : TlbEntry :=
  { e with vpage := vpage, frame := e.frame + vpage - e.vpage, gframe := e.gframe + vpage - e.vpage }

/-- The entry of the whole page that an entry of one of its frames comes from. -/
def TlbEntry.whole (e : TlbEntry) : TlbEntry :=
  let n := 2 ^ (e.span - 12)
  { e with vpage := e.vpage / n * n, frame := e.frame / n * n, gframe := e.gframe / n * n }

/-- The entry in either TLB, as it serves a frame. -/
def Cpu.tlbFind (c : Cpu) (vpage : Nat) : Option TlbEntry :=
  let p (e : TlbEntry) : Bool := e.serves c.context c.psw.dat (r1to (c.getC 1)) c.prefix_ vpage
  ((c.tlb1.find? p).or (c.tlb2.find? p)).map fun e => e.at_ vpage

/-- Entries made for one page of one context agree in these. -/
def TlbEntry.same (a b : TlbEntry) : Bool := a.serves b.ctx b.dat b.r1to b.prefix_ b.vpage && a.span == b.span

/-- An entry becomes the most recently used of both TLBs: 128 in L1, 8 in each of the 512 sets of L2 (R224; the set and
the replacement are the model's, log entry 12). -/
def Cpu.tlbInstall (c : Cpu) (e0 : TlbEntry) : Cpu :=
  let e := e0.whole
  let l1 := (c.tlb1.filter fun x => !(x.same e)).take 127
  let l2 := c.tlb2.filter fun x => !(x.same e)
  let set := l2.filter fun x => x.vpage % 512 == e.vpage % 512
  let l2' := if set.length < 8 then l2 else match set.getLast? with
    | some v => l2.filter fun x => !(x.same v)
    | none => l2
  { c with tlb1 := e :: l1, tlb2 := e :: l2' }

/-- Entries dropped by a test. -/
def Cpu.tlbDrop (c : Cpu) (p : TlbEntry → Bool) : Cpu :=
  { c with tlb1 := c.tlb1.filter fun e => !(p e), tlb2 := c.tlb2.filter fun e => !(p e) }

/-- Non-leaf entries of walks cached, latest first; the model keeps the 16 latest (log entry 12). -/
def Cpu.walkInstall (c : Cpu) (l : List WalkEntry) : Cpu := { c with walks := ((l ++ c.walks).eraseDups).take 16 }

/-- Cached non-leaf entries dropped by a test. -/
def Cpu.walkDrop (c : Cpu) (p : WalkEntry → Bool) : Cpu := { c with walks := c.walks.filter fun e => !(p e) }

/-- A broadcast invalidation as it acts on the TLBs of a CPU (R226). -/
def tlbInvHits (i : TlbInv) (e : TlbEntry) : Bool :=
  match i with
  | .page ctx va => e.ctx == ctx && e.vpage >>> (e.sizeLog - 12) == va.toNat >>> e.sizeLog
  | .context ctx => e.ctx == ctx
  | .image n => match e.ctx with
    | some (m, _) => m == n.val
    | none => false

/-- The same on a cached non-leaf entry (R226): for a page those used to reach it, at host level all of the context. -/
def walkInvHits (i : TlbInv) (e : WalkEntry) : Bool :=
  match i with
  | .page ctx va => e.ctx == ctx && (e.host || e.range == va.toNat >>> e.shift)
  | .context ctx => e.ctx == ctx
  | .image n => match e.ctx with
    | some (m, _) => m == n.val
    | none => false

/-- A broadcast invalidation received by a CPU (R226). -/
def Cpu.invalidate (c : Cpu) (i : TlbInv) : Cpu := (c.tlbDrop (tlbInvHits i)).walkDrop (walkInvHits i)

/-! ## Translating one access within a page (R207, R214 to R220) -/

/-- What the physical address of a piece names. -/
inductive Target where
  | dram
  | service
  | ws
  deriving DecidableEq, Repr

/-- The part of an access that lies in one page: virtual, absolute and physical address (a cell number for working
store), length, effective MT, the TLB entry used or made, and the physical addresses of table and key fetches. -/
structure Piece where
  va : Nat
  abs : Nat
  pa : Nat
  len : Nat
  mt : Mt
  target : Target
  tlb : Option TlbEntry
  fetched : List Nat
  /-- non-leaf entries that the walks have fetched -/
  walks : List WalkEntry := []
  /-- the access is an accelerator's (R263) -/
  engine : Bool := false

/-- The strongest of two memory types (R220). -/
def Mt.strongest (a b : Mt) : Mt :=
  if a = .uc ∨ b = .uc then .uc else if a = .wc ∨ b = .wc then .wc else if a = .wt ∨ b = .wt then .wt else .wb

def excAt (code : BitVec 16) (va : Nat) (fetched : List Nat := []) : Stop :=
  .exc { code := code, addr := BitVec.ofNat 64 va, fetched := fetched }

/-- Non-leaf entries of one walk, as a context caches them. -/
def walkEntries (ctx : Option (Nat × BitVec 16)) (host : Bool) (va : Nat) (l : List (Nat × Nat × Dword)) : List WalkEntry :=
  l.map fun x => ⟨ctx, host, x.1, x.2.1, va >>> x.2.1, x.2.2⟩

/-- Prefixing leaves every address of the page as it is (R81). -/
def prefixAway (p real sz : Nat) : Bool :=
  let lo := real / 2 ^ sz * 2 ^ sz
  decide (0x2000 ≤ lo) && (decide (lo + 2 ^ sz ≤ p) || decide (p + 0x2000 ≤ lo))

/-- Step 1 of R207 for a CPU: real frame, attributes, table fetches and non-leaf entries; DAT off is the identity. -/
def State.walkReal (s : State) (u va : Nat) : Except Stop (TlbEntry × List Nat × List WalkEntry) :=
  let c := s.unit u
  let mk (real sz : Nat) (mt : Mt) (w x us : Bool) : TlbEntry :=
    { ctx := c.context, dat := c.psw.dat, r1to := if c.psw.dat then r1to (c.getC 1) else 0, prefix_ := c.prefix_, vpage := va / 4096,
      sizeLog := sz, span := if prefixAway c.prefix_ real sz then sz else 12, frame := 0, gframe := prefixed c.prefix_ (real / 4096 * 4096) / 4096, mt := mt, w := w, x := x, u := us,
      hw := true, hx := true, key := none }
  if !c.psw.dat then
    if 2 ^ 50 ≤ va then .error (excAt 0x0005 va) else .ok (mk va 12 .wb true true true, [], [])
  else if nonCanonical va then .error (excAt 0x0010 va)
  else match walk (c.walkHit false va) (s.fetchTable u) va levels (r1to (c.getC 1)) [] [] with
    | .leaf base sz mt w x us pas inner => .ok (mk (base + va % 2 ^ sz) sz mt w x us, pas, walkEntries c.context false va inner)
    | .bad _ page pas => .error (excAt (if page then 0x0011 else 0x0010) va pas)
    | .none _ pas => .error (excAt 0x0005 va pas)
    | .exit q pas => .error (.exit q true pas)

/-- The page-level checks of R214. -/
def pageOk (p : Psw) (e : TlbEntry) (k : AccKind) : Bool :=
  !p.dat || ((p.mode != .problem || e.u) && (!k.isStore || e.w) && (k != .fetch || e.x))

/-- The key check of R215 and R216 with an access key: the entry with its key, and the fetches made after `pas`. -/
def State.keyCheck (s : State) (u va abs : Nat) (key : BitVec 4) (k : AccKind) (e : TlbEntry) (pas : List Nat) :
    Except Stop (TlbEntry × List Nat) :=
  let c2 := (s.unit u).getC 2
  if key = 0 ∨ bit c2 63 = false then .ok (e, pas)
  else
    let got : Fetch (BitVec 4 × Bool) := match e.key with
      | some x => .ok x []
      | none => match s.fetchKey u ((fget c2 12 38 <<< 12) + abs / 4096) with
        | .ok b ps => .ok (BitVec.ofNat 4 (b.toNat / 16), b.getLsbD 3) ps
        | .none ps => .none ps
        | .exit q ps => .exit q ps
    match got with
    | .none ps => .error (excAt 0x0005 va (pas ++ ps))
    | .exit q ps => .error (.exit q true (pas ++ ps))
    | .ok x ps =>
      if x.1 = key ∨ (k.isStore = false ∧ x.2 = false) then .ok ({ e with key := some x, span := 12 }, pas ++ ps)
      else .error (excAt 0x0004 va (pas ++ ps))

/-- Step 3 of R207 inside an image (R218 to R220). -/
def State.hostStep (s : State) (u img gabs va : Nat) (k : AccKind) (e : TlbEntry) (hit : Bool) :
    Except Stop (TlbEntry × List Nat × List WalkEntry) :=
  let done (e : TlbEntry) (ps : List Nat) (ws : List WalkEntry) : Except Stop (TlbEntry × List Nat × List WalkEntry) :=
    if (k.isStore && !e.hw) || (k == .fetch && !e.hx) then .error (.exit gabs false ps)
    else if s.dramSize ≤ e.frame * 4096 + gabs % 4096 then .error (excAt 0x0005 va ps)
    else .ok (e, ps, ws)
  if hit then done e [] []
  else match s.hostWalk (some u) img gabs with
    | .leaf base sz mt w x _ pas inner =>
      done { e with frame := (base + gabs % 2 ^ sz) / 4096, span := min e.span sz, mt := e.mt.strongest mt, hw := w, hx := x } pas
        (walkEntries e.ctx true gabs inner)
    | w => .error (.exit gabs false w.fetched)

/-- An access of a CPU that stays in one page; one that goes beyond the page is no aligned access of 8 bytes (R42). -/
def State.cpuPiece (s : State) (u va len alen : Nat) (k : AccKind) : Except Stop Piece :=
  let c := s.unit u
  let hit := c.tlbFind (va / 4096)
  match (match hit with | some e => Except.ok (e, [], []) | none => s.walkReal u va) with
  | .error x => .error x
  | .ok (e, ps, ws) =>
    let abs := e.gframe * 4096 + va % 4096
    let eng := k.isSlot
    match c.irun with
    | none =>
      if inService abs then
        if c.psw.mode ≠ .host then .error (excAt 0x0005 va ps)
        else match svcCheck u abs (if len = alen then alen else 0) k (s.windowPresent abs) with
          | some code => .error (if code = 0x0006 then .exc { code := 6, fetched := ps } else excAt code va ps)
          | none => if pageOk c.psw e k then .ok ⟨va, abs, abs, len, .uc, .service, none, ps, ws, eng⟩ else .error (excAt 0x0004 va ps)
      else if s.dramSize ≤ abs then .error (excAt 0x0005 va ps)
      else if !(pageOk c.psw e k) then .error (excAt 0x0004 va ps)
      else match s.keyCheck u va abs c.psw.key k e ps with
        | .error x => .error x
        | .ok (e2, qs) => .ok ⟨va, abs, abs, len, e.mt, .dram, some { e2 with frame := e.gframe }, qs, ws, eng⟩
    | some r =>
      if !(pageOk c.psw e k) then .error (excAt 0x0004 va ps)
      else match s.keyCheck u va abs c.psw.key k e ps with
        | .error x => .error x
        | .ok (e2, qs) =>
          match s.hostStep u r.image abs va k e2 hit.isSome with
          | .error x => .error (x.behind qs)
          | .ok (e3, rs, vs) => .ok ⟨va, abs, e3.frame * 4096 + va % 4096, len, e3.mt, .dram, some e3, qs ++ rs, ws ++ vs, eng⟩

/-- An access of a channel engine or management core (R45, R357, R436, R473). One to a bank in a copy waits, and meets the owner that
holds the bank when it is granted (R442). -/
def State.smallPiece (s : State) (u va len alen : Nat) (k : AccKind) : Except Stop Piece :=
  if 2 ^ 50 ≤ va then .error (excAt 0x0005 va)
  else
    let abs := prefixed (s.unit u).prefix_ va
    if inService abs then
      if !(s.reaches u abs) then .error (excAt 0x0005 va)
      else match svcCheck u abs (if len = alen then alen else 0) k true with
        | some code => .error (if code = 0x0006 then .exc { code := 6 } else excAt code va)
        | none => .ok ⟨va, abs, abs, len, .uc, .service, none, [], [], false⟩
    else if wsSize u ≤ abs then .error (excAt 0x0005 va)
    else
      let cell := wsCell (smallDie u) abs
      if s.cellStalled cell then .error .stall
      else if s.bankOwner cell = ownerCode u then .ok ⟨va, abs, cell, len, .wb, .ws, none, [], [], false⟩
      else .error (.deny cell (BitVec.ofNat 64 abs))

def State.piece (s : State) (u va len alen : Nat) (k : AccKind) : Except Stop Piece :=
  if isCpu u then s.cpuPiece u va len alen k else s.smallPiece u va len alen k

/-- The parts of an access of n bytes in pages of 4 KB, addresses modulo 2^64; `fuel` bounds their number. -/
def pageParts (va : Nat) : Nat → Nat → List (Nat × Nat)
  | 0, _ => []
  | fuel + 1, n =>
    if n = 0 then []
    else
      let m := min n (4096 - va % 4096)
      (va, m) :: pageParts ((va + m) % 2 ^ 64) fuel (n - m)

/-- The place of a stop in the order of R84 and R219. -/
def Stop.rank : Stop → Nat
  | .exc e => if e.code = 0x0006 then 0 else if e.code = 0x0010 then 1 else if e.code = 0x0011 then 2 else if e.code = 0x0005 then 3 else 4
  | .exit _ early _ => if early then 1 else 5
  | .deny _ _ => 4
  | .stall => 6

/-- Every part of an access translated and checked, or the first condition in the order of R84; its address is the lowest
of the access in the failing page (R136; between two failing pages, log entry 18). The fetches of every page's walk have been made. -/
def State.translate (s : State) (u : Nat) (va : Dword) (n : Nat) (k : AccKind) : Except Stop (List Piece) :=
  let rs := (pageParts va.toNat (n / 4096 + 2) n).map fun p => s.piece u p.1 p.2 n k
  let errs := rs.filterMap fun r => match r with | .error x => some x | .ok _ => none
  match errs with
  | [] => .ok (rs.filterMap fun r => match r with | .ok p => some p | .error _ => none)
  | x :: xs => .error ((xs.foldl (fun a b => if b.rank < a.rank then b else a) x).withFetched
      (rs.flatMap fun r => match r with | .ok p => p.fetched | .error y => y.fetched))

/-- The condition of an access that meets the service space at va and may not, whatever its size and alignment: row 1 of R42 and
of R45. -/
def State.serviceStop (s : State) (u va : Nat) (k : AccKind) : Option Stop :=
  let c := s.unit u
  if !(isCpu u) then
    let abs := prefixed c.prefix_ va
    if va < 2 ^ 50 ∧ inService abs = true ∧ s.reaches u abs = false then some (excAt 0x0005 va) else none
  else if c.psw.mode = .host ∧ c.inImage = false then none
  else match s.piece u va 1 1 k with
    | .error (.exc e) =>
      let svc := match (match c.tlbFind (va / 4096) with | some e => Except.ok (e, [], []) | none => s.walkReal u va) with
        | .ok (t, _, _) =>
          let abs := t.gframe * 4096 + va % 4096
          match c.irun with
          | none => inService abs
          | some r => match s.hostWalk (some u) r.image abs with
            | .leaf base sz _ _ _ _ _ _ => inService (base + abs % 2 ^ sz)
            | _ => false
        | .error _ => false
      if e.code = 0x0005 ∧ svc = true then some (.exc e) else none
    | _ => none

/-- An alignment condition (0x0006) of an operand of n bytes at va; an address in the service space that may not be used gives
0x0005 whatever the alignment, on whichever page of the operand it lies (R42, R45). -/
def State.alignStop (s : State) (u : Nat) (va : Dword) (n : Nat) (k : AccKind) : Stop :=
  ((pageParts va.toNat (n / 4096 + 2) n).findSome? fun p => s.serviceStop u p.1 k).getD (.exc { code := 6 })

/-! ## Write-combining buffers (R222) -/

/-- One buffer written to its home, as one write of its enabled bytes. -/
def State.wcWrite (s : State) (u : Nat) (b : WcBuf) : State :=
  (s.conflicts (some u) [b.block] true).homeWrite b.block b.cells

/-- Every buffer of a CPU written, oldest first. -/
def State.wcFlush (s : State) (u : Nat) : State :=
  ((s.unit u).wcb.foldl (fun t b => t.wcWrite u b) s).modUnit u fun c => { c with wcb := [] }

/-- A write-combining store of bytes within one block. -/
def State.wcStore (s : State) (u pa : Nat) (data : List Byte) : State :=
  let cells := (((List.range data.length).zip data).map fun x => (pa + x.1, x.2)).reverse
  let c := s.unit u
  if c.wcb.any (fun b => b.block == pa / 64) then
    s.modUnit u fun c => { c with wcb := c.wcb.map fun b => if b.block = pa / 64 then { b with cells := cells ++ b.cells } else b }
  else
    let s1 := match c.wcb with
      | b :: r => if c.wcb.length < 4 then s else (s.wcWrite u b).modUnit u fun c => { c with wcb := r }
      | [] => s
    s1.modUnit u fun c => { c with wcb := c.wcb ++ [⟨pa / 64, cells⟩] }

/-! ## The accesses of a CPU to DRAM -/

/-- The parts of a physical range in 64-byte sectors. -/
def sectorParts (pa len : Nat) : List (Nat × Nat) :=
  if len = 0 then [] else (sectorsOf pa len).map fun x => (max pa (64 * x), min (pa + len) (64 * x + 64) - max pa (64 * x))

/-- Table and key fetches, made as write-back reads of the core (R213), and the TLB entry made. -/
def State.walked (s : State) (u : Nat) (p : Piece) : State :=
  let s1 := p.fetched.foldl (fun t a => (t.conflicts (some u) [a / 64] false).coreRead (t.coreOf u) a false) s
  match p.tlb with
  | some e => s1.modUnit u fun c => (c.tlbInstall e).walkInstall p.walks
  | none => s1

/-- The cache side of a read of a DRAM piece (R221, R223, R250). -/
def State.readSide (s : State) (u : Nat) (p : Piece) (fetch : Bool) : State :=
  (sectorParts p.pa p.len).foldl (fun t x =>
    let t1 := t.conflicts (some u) [x.1 / 64] false
    if p.mt = .uc ∨ (p.mt = .wc ∧ fetch = false) then t1.uncachedRead x.1
    else if p.engine then t1.engineRead x.1 else t1.coreRead (t1.coreOf u) x.1 fetch) s

/-- Bytes of a CPU's write-combining buffers that a younger store of the CPU overtakes: they never reach storage (R223, R230). -/
def State.wcSupersede (s : State) (u pa n : Nat) : State :=
  if (s.unit u).wcb.isEmpty then s
  else s.modUnit u fun c => { c with wcb := (c.wcb.map fun b =>
    { b with cells := b.cells.filter fun x => decide (x.1 < pa) || decide (pa + n ≤ x.1) }).filter fun b => !b.cells.isEmpty }

/-- The region of a CPU gains sectors it has read. The sectors of instruction, table and key fetches join no read set (DESIGN
CHOICE, log entry 31). -/
def State.noteReads (s : State) (u : Nat) (l : List Nat) : State :=
  s.modUnit u fun c => { c with region := c.region.map fun r => { r with reads := addSectors r.reads l } }

/-- The walk of a piece has met poison (R213, R285): the state it leaves and the address of the entry. -/
def State.walkPoison (s : State) (u : Nat) (p : Piece) : Option (State × Nat) :=
  (p.fetched.find? (s.walked u p).poisoned).map fun a => (s.walked u p, a)

/-- The bytes of a DRAM piece are read by CPU u, with the address of poison that the walk or the access meets. -/
def State.cpuRead (s : State) (u : Nat) (p : Piece) (fetch : Bool) : State × List Byte × Option Nat :=
  let s0 := if p.mt = .uc then s.wcFlush u else s
  let bytes := (List.range p.len).map fun i => s0.ownByte u (p.pa + i)
  let s1 := s0.walked u p
  let s2 := s1.readSide u p fetch
  (if fetch then s2 else s2.noteReads u (sectorsOf p.pa p.len), bytes,
   match p.fetched.find? s1.poisoned with
   | some a => some a
   | none => if (sectorsOf p.pa p.len).any (fun x => s2.poisoned (64 * x)) then some p.abs else none)

/-- Bytes of a sector become visible to every agent (R221, R223, R230). -/
def State.performStore (s : State) (u pa : Nat) (data : List Byte) (mt : Mt) : State :=
  let s1 := s.conflicts (some u) [pa / 64] true
  match mt with
  | .wb => s1.coreWrite (s1.coreOf u) (pa / 64) (cellsAt pa data) false
  | .wt => s1.coreWrite (s1.coreOf u) (pa / 64) (cellsAt pa data) true
  | _ => s1.homeWrite (pa / 64) (cellsAt pa data)

/-- Bytes of a sector stored by an accelerator for an instruction of CPU u (R247, R263), under the MT of the mapping (R217): uncached and
write-combining ones are performed at the home, write-through ones are also written to the home's DRAM controller. -/
def State.performSlot (s : State) (u pa : Nat) (data : List Byte) (mt : Mt) : State :=
  let s1 := s.conflicts (some u) [pa / 64] true
  match mt with
  | .wb => s1.engineWrite (pa / 64) (cellsAt pa data)
  | _ => s1.homeWrite (pa / 64) (cellsAt pa data)

/-- Bytes stored by CPU u to a DRAM piece; inside a region they stay the region's, and meet other regions when it commits
(R238; log entry 31). -/
def State.cpuWrite (s : State) (u : Nat) (p : Piece) (data : List Byte) : State :=
  let s1 := s.walked u p
  match (s.unit u).region with
  | some _ =>
    let cells := (((List.range data.length).zip data).map fun x => (p.pa + x.1, x.2)).reverse
    let secs := sectorsOf p.pa data.length
    s1.modUnit u fun c => { c with region := c.region.map fun r =>
      { r with stores := cells ++ r.stores, writes := addSectors r.writes secs,
               through := if p.mt = .wt then addSectors r.through secs else r.through } }
  | none =>
    let parts := sectorParts p.pa data.length
    if p.engine then
      let s2 := if p.mt = .uc then s1.wcFlush u else s1.wcSupersede u p.pa data.length
      parts.foldl (fun t x => t.performSlot u x.1 ((data.drop (x.1 - p.pa)).take x.2) p.mt) s2
    else if p.mt = .wc then parts.foldl (fun t x => t.wcStore u x.1 ((data.drop (x.1 - p.pa)).take x.2)) s1
    else
      let s2 := if p.mt = .uc then s1.wcFlush u else s1.wcSupersede u p.pa data.length
      parts.foldl (fun t x => t.performStore u x.1 ((data.drop (x.1 - p.pa)).take x.2) p.mt) s2

/-- The stores of a committing region become visible (R238). -/
def State.commitStores (s : State) (u : Nat) (r : Region) : State :=
  r.writes.foldl (fun t x =>
    let t1 := t.conflicts (some u) [x] true
    t1.coreWrite (t1.coreOf u) x (r.stores.filter fun c => c.1 / 64 == x) (r.through.contains x)) s

/-! ## Reads and writes of an executing unit -/

/-- The outcome of performing an access: the bytes, the uncorrected address met if any, and whether the service space
was reached (its registers are read in RegWrite.lean). -/
structure ReadOut where
  st : State
  data : List Byte
  bad : Option Nat

/-- One piece outside the service space read, with the address of uncorrected data that it meets. -/
def State.readPiece (s : State) (u : Nat) (p : Piece) (fetch : Bool) : State × List Byte × Option Nat :=
  match p.target with
  | .ws =>
    let e := s.wsErrors p.pa p.len (ownerCode u)
    (e.1, e.1.wsBytes p.pa p.len, if e.2 then some p.abs else none)
  | _ => s.cpuRead u p fetch

/-- Pieces outside the service space read in order. -/
def State.readPieces (s : State) (u : Nat) (ps : List Piece) (fetch : Bool) : ReadOut :=
  ps.foldl (fun r p =>
    let x := r.st.readPiece u p fetch
    ⟨x.1, r.data ++ x.2.1, if r.bad.isNone then x.2.2 else r.bad⟩) ⟨s, [], none⟩

/-- Pieces outside the service space written in order. -/
def State.writePieces (s : State) (u : Nat) (ps : List Piece) (data : List Byte) : State :=
  (ps.foldl (fun (r : State × List Byte) p =>
    match p.target with
    | .ws => ((r.1.wsPut p.pa (r.2.take p.len)).wsClean p.pa p.len, r.2.drop p.len)
    | _ => (r.1.cpuWrite u p (r.2.take p.len), r.2.drop p.len)) (s, data)).1

end Sys2Proof.Machine
end

