-- ==== Sys2Proof/Machine/Sparing.lean ====
section
/-! DEFINITION. Checked execution and sparing: orders delivered to a CPU (R34, R63, R195), core reset (R92, R180, R275),
mismatch and self-test (R193 to R198), the spare pool and moves (R199 to R204), Core Map writes (R33, R535). -/
namespace Sys2Proof.Machine
open Sys2Proof

/-! ## Core reset -/

/-- The architected state after core reset (R92, R180): g and f unchanged, everything else at its reset value. An open region is
closed with its stores, and g and f stay as they are in it (DESIGN CHOICE, log entry 31: no abort code is listed for it). -/
def Cpu.coreReset (c fresh : Cpu) : Cpu := { fresh with g := c.g, f := c.f }

/-- Core reset of a logical CPU: its write-combining buffers are written (R222), its core's L2 is swept and its caches
are zeroed and enabled (R275). -/
def State.coreResetCpu (s : State) (n : Nat) : State :=
  let s1 := s.wcFlush n
  let k := s1.coreOf n
  let s2 := ((s1.sweepL2 k).setRf (rL2Ctl k) 62 1 0).setRf (rL2Ctl k) 63 1 1
  let s3 : State := { s2 with errs := s2.errs.filter fun e => !(e.die == k / 26 && (e.unit == k % 26 || e.unit == l2Unit k)) }
  s3.modUnit n fun c => c.coreReset s.freshUnit

/-! ## Orders (R34, R63) -/

/-- An order acts on the core that runs logical CPU n. -/
def State.actOrder (s : State) (n : Nat) (o : Sig) : State :=
  match o.order with
  | .extCall => s.modUnit n fun c => { c with extCall := c.extCall ++ [o] }
  | .emergency => s.modUnit n fun c => { c with emergency := if c.emergency.contains o then c.emergency else c.emergency ++ [o] }
  | .stop => (s.wcFlush n).modUnit n fun c => { c with stopped := true }
  | .restart => s.modUnit n fun c => { c with restart := true }
  | .coreReset => s.coreResetCpu n

/-- An order delivered to an active logical CPU; it waits while the core runs its logic self-test (R195). -/
def State.deliver (s : State) (n : Nat) (o : Sig) : State :=
  if (s.unit n).selfTest then s.modUnit n fun c => { c with heldSigs := c.heldSigs ++ [o] } else s.actOrder n o

/-- The orders held on the service die for a CPU are delivered in arrival order (R34). -/
def State.deliverHeld (s : State) (n : Nat) : State :=
  let mine := s.held.filter fun x => x.1 == n
  mine.foldl (fun t x => t.deliver n x.2) { s with held := s.held.filter fun x => x.1 != n }

/-- An external call of the same level is pending, held or waiting in the core (R34, R63). -/
def State.callPending (s : State) (n : Nat) (image : Option Nat) : Bool :=
  let p (o : Sig) : Bool := o.order == .extCall && o.image == image
  (s.unit n).extCall.any p || (s.unit n).heldSigs.any p || s.held.any fun x => x.1 == n && p x.2

/-- CPUSIG to logical CPU n: the CC, with the order delivered, held or refused (R34, R63). -/
def State.cpusig (s : State) (n : Nat) (o : Sig) : State × BitVec 2 :=
  let st := s.cmapState n
  if s.activeCount ≤ n ∨ st = 0 ∨ st = 3 then (s, 3)
  else if o.order = .extCall ∧ s.callPending n o.image = true then (s, 1)
  else if st = 2 then ({ s with held := s.held ++ [(n, o)] }, 0)
  else (s.deliver n o, 0)

/-! ## Fuses and the pool (R28, R199, R200, R204) -/

/-- A core recorded retired by the lifecycle and fuse controller. -/
def State.retire (s : State) (core : Nat) : State :=
  if s.fuses.retired.contains (core / 26, core % 26) then s
  else { s with fuses := { s.fuses with retired := s.fuses.retired ++ [(core / 26, core % 26)] } }

/-- The physical core of the spare of cluster c on die d, 26 d + s. -/
def State.spareCore (s : State) (d c : Nat) : Option Nat :=
  (s.fuses.spares.find? fun x => x.1 == d && (if c = 0 then decide (x.2 < 13) else decide (13 ≤ x.2))).map fun x => 26 * d + x.2

/-- The AVAIL bit of the pool position that a core is the spare of. -/
def State.poolBit (s : State) (core : Nat) : Option Nat :=
  if s.fuses.spares.contains (core / 26, core % 26) then some (2 * (core / 26) + (if core % 26 < 13 then 0 else 1)) else none

/-- A spare leaves the pool, with its self-test if one was going on, or returns to it unless recorded retired. -/
def State.poolTake (s : State) (core : Nat) : State :=
  match s.poolBit core with
  | some b => { s.setRf rSparePool b 1 0 with spareTests := s.spareTests.erase core }
  | none => s

def State.poolReturn (s : State) (core : Nat) : State :=
  match s.poolBit core with
  | some b => if s.fuses.retired.contains (core / 26, core % 26) then s else s.setRf rSparePool b 1 1
  | none => s

/-- A core that some entry names with STATE active or moving, or that a move in progress has chosen. -/
def State.named (s : State) (core : Nat) : Bool :=
  (List.range 192).any (fun n => (s.cmapState n == 1 || s.cmapState n == 2) && s.coreOf n == core) ||
    s.moves.any fun m => m.2.2.1 == core

/-- A core that is named no longer returns to the pool (R535), once its caches are swept. -/
def State.releaseCore (s : State) (core : Nat) : State :=
  if s.named core || (s.core core).sweeping.isSome then s else s.poolReturn core

/-- The two dies of each Plain link (R35). -/
def plainLinks : List (Nat × Nat) :=
  [(0, 1), (0, 4), (1, 5), (4, 5), (2, 3), (2, 6), (3, 7), (6, 7), (1, 8), (8, 2), (5, 9), (9, 6), (8, 10), (10, 9)]

/-- The links in service. -/
def State.plainUp (s : State) : List (Nat × Nat) :=
  ((List.range plainLinks.length).filter fun i => !s.plainDown.contains i).filterMap fun i => plainLinks[i]?

/-- The dies of a set and those one link beyond it. -/
def plainStep (links : List (Nat × Nat)) (l : List Nat) : List Nat :=
  (l ++ links.filterMap (fun x => if l.contains x.1 then some x.2 else none) ++
    links.filterMap (fun x => if l.contains x.2 then some x.1 else none)).eraseDups

/-- Links from a set of dies to die b, or the fuel where there is no way. -/
def plainDist (links : List (Nat × Nat)) (l : List Nat) (b : Nat) : Nat → Nat
  | 0 => 0
  | f + 1 => if l.contains b then 0 else 1 + plainDist links (plainStep links l) b f

/-- The next die on the way from a to b: a neighbour on a shortest way, the lowest-numbered; die a itself where there is none
(the spec fixes no route, log entry 9). -/
def plainNext (links : List (Nat × Nat)) (a b : Nat) : Nat :=
  if a = b then a
  else ((List.range 11).find? fun n =>
    (links.contains (a, n) || links.contains (n, a)) && plainDist links [n] b 11 + 1 == plainDist links [a] b 11).getD a

/-- The service die loads every node's route table, around the links that have failed (R37). -/
def State.loadRoutes (s : State) : State :=
  { s with routes := (List.range 11).map fun a => (List.range 11).map fun b => plainNext s.plainUp a b }

/-- Links on the loaded route from a to b; 11 where none leads there. -/
def State.hops (s : State) (a b : Nat) : Nat → Nat
  | 0 => 0
  | f + 1 => if a = b then 0 else 1 + s.hops ((s.routes.getD a []).getD b a) b f

/-- The search order of R200 as (die, cluster) pairs. -/
def State.spareOrder (s : State) (core : Nat) : List (Nat × Nat) :=
  let d := core / 26
  let c := if core % 26 < 13 then 0 else 1
  let far := (List.range 11).flatMap fun h => (List.range 8).filter fun x => x != d && s.hops d x 11 == h
  [(d, c), (d, 1 - c)] ++ (if bit (s.reg rSparePool) 32 then far.flatMap fun x => [(x, 0), (x, 1)] else [])

/-- The first spare available and not reserved (R200). -/
def State.chooseSpare (s : State) (core : Nat) : Option Nat :=
  (s.spareOrder core).findSome? fun x =>
    let b := 2 * x.1 + x.2
    if bit (s.reg rSparePool) b && !(bit (s.reg rSparePool) (16 + b)) then s.spareCore x.1 x.2 else none

/-! ## Loss (R86, R203) -/

/-- The state of a logical CPU is discarded; it is stopped. -/
def State.discardCpu (s : State) (n : Nat) : State := s.setUnit n Cpu.reset

/-- The former core stops and its caches are swept; `retire` tells whether it is then recorded retired (R201, R535). -/
def State.startSweep (s : State) (core : Nat) (retire : Bool) : State := s.modCore core fun c => { c with sweeping := some retire }

/-- The image to which a logical CPU is assigned, with its image CPU address. -/
def State.assigned (s : State) (n : Nat) : Option (Nat × Nat) :=
  (List.range 96).findSome? fun i => match s.image i with
    | some e => if e.cpus.contains n then some (i, e.cpus.idxOf n) else none
    | none => none

/-- A machine check for CL (R86) to an image or to host level, naming CPU `who`. -/
def clCheck (image : Option Nat) (who : Nat) (msg : Msg) : MCheck :=
  { image := image, code := setBit (BitVec.ofNat 64 who) 62 true, msg := msg.word, tod := msg.tod, addr := 0 }

/-- A message about the failure that logical CPU n suffers on a core: injected when nothing but an injection caused it,
coincident when both did (R470). -/
def State.causeMsg (s : State) (n core kind cls synd : Nat) : Msg :=
  let c := s.unit n
  ⟨msgWord (core / 26) (core % 26) kind cls (c.injCause && !c.realCause) synd, s.dieTod (core / 26), s.imgOf n, c.injCause && c.realCause⟩

/-- The failure handled from now on has this one cause (R470). -/
def Cpu.caused (c : Cpu) (inj : Bool) : Cpu := { c with injCause := inj, realCause := !inj }

/-- The failure is handled. -/
def Cpu.cleared (c : Cpu) : Cpu := { c with retries := 0, retryIa := 0, selfTest := false, injCause := false, realCause := false }

/-- A logical CPU is lost (R203): `core` is the failing core. -/
def State.loseCpu (s : State) (n core : Nat) : State :=
  let img := s.assigned n
  let m := s.causeMsg n core 0x28 3 (n <<< 32)
  let s1 := ({ s.setRf (rCmap n) 62 2 3 with held := s.held.filter fun x => x.1 != n,
                                             moves := s.moves.filter fun x => x.1 != n } : State)
  let s2 := ((s1.discardCpu n).startSweep core true).sendMsg m
  let s3 := match img with
    | none => s2
    | some (i, a) =>
      let rest := match s2.image i with
        | some e => (e.cpus.filter fun c => s2.cmapState c == 1 || s2.cmapState c == 2)
        | none => []
      match rest with
      | [] => s2.sendMsg { s.causeMsg n core 0x29 4 (n <<< 32 + i) with img := some i }
      | c :: cs => s2.pendMc (cs.foldl min c) (clCheck (some i) a m)
  let s4 := match s3.activeCpus with
    | [] => s3.sendMsg { s.causeMsg n core 0x2A 5 (n <<< 32) with img := none }
    | c :: _ => s3.pendMc c (clCheck none n m)
  s4.cmapSignal n

/-! ## Moves (R201, R202, R535) -/

/-- Steps 1 and 2 of R201 with a chosen core: requests are held, an open region aborts with code 0x09 (R240), buffered
stores are written (R222), and orders that wait in the core wait on the service die. The entry has changed, and CMAP_EVENT tells
so (R484); the service signal comes when the move ends (R202; log 13). -/
def State.beginMove (s : State) (n former target : Nat) (sparing : Bool) : State :=
  let s1 := ((s.poolTake target).setRf (rCmap n) 62 2 2).abortRegion n 0x09
  let s2 := s1.wcFlush n
  let waiting := (s2.unit n).heldSigs.map fun o => (n, o)
  let s3 : State := { s2 with held := s2.held ++ waiting, moves := s2.moves ++ [(n, former, target, sparing)] }
  (s3.modUnit n fun c => { c with heldSigs := [], retries := 0, retryIa := 0, selfTest := false }).cmapEvent n

/-- A logical CPU leaves a failing core for a spare, or is lost when there is none (R200, R203). -/
def State.spareCpu (s : State) (n : Nat) : State :=
  if s.cmapState n ≠ 1 then s
  else
    let former := s.coreOf n
    match s.chooseSpare former with
    | some t => s.beginMove n former t true
    | none => (s.modUnit n fun c => { c with selfTest := false }).loseCpu n former

/-- SV.CMAP[n] names a core; REMAP_SEQ counts a change (R29 table). -/
def State.nameCore (s : State) (n core : Nat) : State :=
  let s1 := if s.coreOf n = core then s else s.setRf (rCmap n) 48 8 (s.rf (rCmap n) 48 8 + 1)
  (s1.setRf (rCmap n) 40 4 (core / 26)).setRf (rCmap n) 32 5 (core % 26)

/-- The CR machine check of R202 with the message of the move. -/
def crCheck (image : Option Nat) (m : Msg) : MCheck :=
  { image := image, code := setBit 0 63 true, msg := m.word, tod := m.tod, addr := 0 }

/-- A move ends (R201 steps 3 to 7, R202), or is lost because the state could not be read (R203). -/
def State.moveComplete (s : State) (n : Nat) (readable : Bool) : State :=
  match s.moves.find? fun x => x.1 == n with
  | none => s
  | some (_, former, target, sparing) =>
    if !readable then (s.poolReturn target).loseCpu n former
    else
      let s1 : State := { s with moves := s.moves.filter fun x => x.1 != n }
      let s2 := (s1.nameCore n target).setRf (rCmap n) 62 2 1
      let s3 := s2.modUnit n fun c =>
        { (c.setC 33 (setBit (c.getC 33) 8 true)) with tlb1 := [], tlb2 := [], walks := [] }
      let s4 := s3.startSweep former sparing
      let m := s4.causeMsg n former 0x27 0 (n <<< 32 + (target / 26) <<< 8 + target % 26)  -- its source: log entry 13
      let s5 := (if sparing then (s4.sendMsg m).pendMc n (crCheck (s4.imgOf n) m)
        else s4.pendMc n (crCheck (s4.imgOf n) ⟨0, s.dieTod (former / 26), none, false⟩)).modUnit n Cpu.cleared
      (s5.deliverHeld n).cmapSignal n

/-- The sweep of a core that a CPU has left ends: dirty sectors are home; a failing core is recorded retired (R201), any
other spare site returns to the pool (R535). -/
def State.coreSweepEnd (s : State) (core : Nat) : State :=
  match (s.core core).sweeping with
  | none => s
  | some retire =>
    let s1 := (s.sweepL2 core).modCore core fun c => { c with sweeping := none }
    if retire then s1.retire core else s1.releaseCore core

/-! ## Mismatches and self-tests (R193 to R198) -/

/-- An injection of a type that waits at a unit (R469). -/
def State.injAt (s : State) (die unit typ : Nat) : Option Injected :=
  s.injected.find? fun x => x.die == die && x.unit == unit && x.typ == typ

def State.dropInj (s : State) (x : Injected) : State := { s with injected := s.injected.erase x }

/-- Logical CPU and IA[31:0], bits [39:0] of kinds 0x20 to 0x24 (R196). -/
def checkSynd (n : Nat) (ia : Nat) : Nat := n <<< 32 + ia % 2 ^ 32

/-- c33 is in CHECKED mode (R179). -/
def Cpu.checked (c : Cpu) : Bool := bit (c.getC 33) 0

/-- A core runs the program of an active logical CPU. -/
def State.issuing (s : State) (n : Nat) : Bool :=
  s.cmapState n == 1 && !(s.unit n).stopped && !(s.unit n).stuck && !(s.unit n).selfTest

/-- A mismatch of the oldest unconfirmed instruction (R193): retry 1, retry 2, then the self-test. -/
def State.mismatch (s : State) (n : Nat) (inj : Bool) : State :=
  if !(s.issuing n) || !(s.unit n).checked then s
  else
    let s1 := s.modUnit n fun c => { c with injCause := c.injCause || inj, realCause := c.realCause || !inj }
    if (s.unit n).retries < 2 then s1.modUnit n fun c =>
      { c with retries := c.retries + 1, retryIa := if c.retries = 0 then c.psw.ia else c.retryIa }
    else (s1.modUnit n fun c => { c with selfTest := true }).errInc (rChkStat (s.coreOf n)) 32 8 61

/-- A corrected mismatch of the instruction at `ia` (R193): counted in c33 and in the core, and reported. -/
def State.retryOk (s : State) (n : Nat) (ia : Dword) : State :=
  let c := s.unit n
  let v := satInc (fget (c.getC 33) 16 16) 16
  let c33 := fset (c.getC 33) 16 16 v
  let s1 := s.modUnit n fun c => (c.setC 33 (if v = 0xFFFF then setBit c33 15 true else c33)).cleared
  (s1.errInc (rChkStat (s.coreOf n)) 0 32 63).sendMsg (s.causeMsg n (s.coreOf n) 0x20 1 (checkSynd n ia.toNat))

/-- A tolerated difference of an asynchronous source (R192). -/
def State.asyncDiff (s : State) (n : Nat) : State :=
  let c := s.unit n
  let v := satInc (fget (c.getC 33) 32 16) 16
  let c33 := fset (c.getC 33) 32 16 v
  (s.modUnit n fun c => c.setC 33 (if v = 0xFFFF then setBit c33 14 true else c33)).errInc (rChkStat (s.coreOf n)) 40 16 62

/-- The orders that waited for the self-test are acted on (R195). -/
def State.resume (s : State) (n : Nat) : State :=
  let waiting := (s.unit n).heldSigs
  waiting.foldl (fun t o => t.actOrder n o) (s.modUnit n fun c => { c.cleared with heldSigs := [] })

/-- VERDICT of a self-test (CORE.CHK_STAT). -/
def verdictCode : Verdict → Nat
  | .passed => 1
  | .firstPass => 2
  | .secondPass => 3
  | .shared => 4

/-- The logic self-test ends (R193, R195). -/
def State.selfTestEnd (s : State) (n : Nat) (v : Verdict) (inj : Bool) : State :=
  if !(s.unit n).selfTest then s
  else
    let k := s.coreOf n
    let synd := checkSynd n (s.unit n).psw.ia.toNat
    let s1 := s.setRf (rChkStat k) 56 4 (verdictCode v)
    if v = .passed then
      let s2 := s1.sendMsg (s.causeMsg n k 0x22 2 synd)
      let t1 := (s2.reg (rIntTod k 1)).toNat
      if t1 ≠ 0 ∧ (s2.tod - s2.reg (rIntTod k 1)).toNat ≤ 353894400000000 then (s2.sendMsg (s.causeMsg n k 0x24 3 synd)).spareCpu n
      else ((s2.setReg (rIntTod k 1) (s2.reg (rIntTod k 0))).setReg (rIntTod k 0) s2.tod).resume n
    else
      let s2 := s1.modUnit n fun c => c.caused inj
      (s2.sendMsg (s2.causeMsg n k 0x23 3 synd)).spareCpu n

/-- A comparator fault (R198): no retry, no self-test. -/
def State.comparatorFault (s : State) (n : Nat) (parity inj : Bool) : State :=
  if s.cmapState n ≠ 1 then s
  else
    let k := s.coreOf n
    let s1 := s.modUnit n fun c => c.caused inj
    (s1.sendMsg (s1.causeMsg n k (if parity then 0x26 else 0x25) 3 (n <<< 32))).spareCpu n

/-- The standby self-test of a spare of the pool starts (R199, R515). -/
def State.spareTestStart (s : State) (d c : Nat) : State :=
  match s.spareCore d c with
  | some k => if bit (s.reg rSparePool) (2 * d + c) && !(s.spareTests.contains k) then { s with spareTests := s.spareTests ++ [k] } else s
  | none => s

/-- The standby self-test of a spare in the pool ends (R199): one that fails is retired. An injection of type 0x05 makes it fail in the
second-pass path (R469); in which path it fails otherwise is free. -/
def State.spareTestEnd (s : State) (d c : Nat) (pass : Bool) : State :=
  match s.spareCore d c with
  | none => s
  | some k =>
    if !(s.spareTests.contains k) then s
    else
      let s : State := { s with spareTests := s.spareTests.erase k }
      let retired (t : State) (inj : Bool) : State :=
        ((t.retire k).poolTake k).send d (k % 26) 0x2B 1 (0xFF <<< 32 + d <<< 8 + k % 26) inj
      match s.injAt d (k % 26) 5 with
      | some x => retired ((s.dropInj x).setRf (rChkStat k) 56 4 3) true
      | none =>
        if pass then s.setRf (rChkStat k) 56 4 1
        else
          let s1 : State := { s with free := s.free + 1 }
          retired (s1.setRf (rChkStat k) 56 4 (2 + (Config.freeDword s.free).toNat % 3)) false

/-! ## Core Map writes (R33, R535) -/

/-- A refusal recorded in the block's ERR.LAST_WRITE (R18). -/
def State.refuse (s : State) (a : Nat) (w : Writer) (reason : Nat) : State :=
  let p := regPlace a
  let r := regAddr p.2.1 p.2.2.1 p.1 0xFF8
  let src := match w with | .mgmt => 1 | .host => 2 | .engine _ => 3
  let v := s.reg r
  let v1 := if bit v 63 then setBit v 62 true else setBit v 63 true
  s.setReg r (fset (fset (fset v1 48 8 reason) 40 8 src) 0 24 p.2.2.2)

/-- R33: the reasons to refuse a write that leaves STATE active or moving. -/
def State.cmapRefused (s : State) (n st core : Nat) : Bool :=
  (st == 1 || st == 2) &&
  (s.fuses.fusedOff.contains (core / 26, core % 26) || s.fuses.retired.contains (core / 26, core % 26) ||
    (List.range 192).any (fun m => m != n && (s.cmapState m == 1 || s.cmapState m == 2) && s.coreOf m == core) ||
    decide (s.activeCount ≤ n))

/-- The fields of an accepted write. -/
def State.cmapFields (s : State) (n st core : Nat) : State := (s.nameCore n core).setRf (rCmap n) 62 2 st

/-- A write of SV.CMAP[n] that is no step of the service die's own sparing (R33, R535): the core it names leaves the pool, the
core it stops naming returns there. A write to an entry whose move is in progress leaves it as it is (log entry 13). -/
def State.cmapWrite (s : State) (n : Nat) (v : Dword) (w : Writer) : State :=
  let st := fget v 62 2
  let die := fget v 40 4
  let slot := fget v 32 5
  let core := 26 * die + slot
  let old := s.cmapState n
  let former := s.coreOf n
  if die > 7 ∨ slot > 25 ∨ s.cmapRefused n st core = true then s.refuse (rCmap n) w 0x81
  else if s.moves.any (fun x => x.1 == n) then s
  else if old = 1 ∧ st = 1 then
    if core = former then s else (s.nameCore n core).beginMove n former core false
  else if (old = 0 ∨ old = 3) ∧ st = 1 then
    ((((s.poolTake core).cmapFields n st core).releaseCore former).setUnit n s.freshUnit).cmapSignal n
  else if old = 1 ∧ (st = 0 ∨ st = 3) then
    (((s.wcFlush n).cmapFields n st core).discardCpu n).startSweep former false |>.cmapSignal n
  else
    let s1 := if st = 1 ∨ st = 2 then s.poolTake core else s
    let s2 := (s1.cmapFields n st core).releaseCore former
    if st = 1 then s2.deliverHeld n else s2

end Sys2Proof.Machine
end

