-- ==== Sys2Proof/Machine/Port.lean ====
section
/-! DEFINITION. Channel ports: frames and their bytes (R365 to R372, R390), sending, credits, flow control, login slots
(R380 to R386, R397, R398). -/
namespace Sys2Proof.Machine
open Sys2Proof

/-! ## Registers of the channel dies -/

def rCs (die off : Nat) : Nat := regAddr 4 0 die off
def rCe (die e off : Nat) : Nat := regAddr 5 e die off
def rCl (die port off : Nat) : Nat := regAddr 6 port die off
/-- CL.LGN_ADDR[n] and CL.LGN_STAT[n] of a die, in the window of port 0; the twelve windows address the same slots. -/
def rLgnAddr (die n : Nat) : Nat := regAddr 6 0 die (0x8000 + 16 * n)
def rLgnStat (die n : Nat) : Nat := regAddr 6 0 die (0x8008 + 16 * n)

def State.port (s : State) (die port : Nat) : PortHw := sget (fun _ => PortHw.none) s.ports (die * 16 + port)
def State.modPort (s : State) (die port : Nat) (f : PortHw → PortHw) : State :=
  { s with ports := sput (fun _ => PortHw.none) s.ports (die * 16 + port) (f (s.port die port)) }

/-- A login slot by its key, die × 4096 + slot. -/
def loginDie (k : Nat) : Nat := k / 4096
def loginSlot (k : Nat) : Nat := k % 4096
def State.login (s : State) (k : Nat) : Login := sget (fun _ => Login.none) s.logins k
def State.modLogin (s : State) (k : Nat) (f : Login → Login) : State :=
  { s with logins := sput (fun _ => Login.none) s.logins k (f (s.login k)) }

/-- STATE, VER, FEAT and PLID of CL.LGN_STAT. -/
def State.lgnState (s : State) (k : Nat) : Nat := s.rf (rLgnStat (loginDie k) (loginSlot k)) 53 3
def State.lgnVer (s : State) (k : Nat) : Nat := s.rf (rLgnStat (loginDie k) (loginSlot k)) 50 3
def State.lgnMpx (s : State) (k : Nat) : Bool := s.rf (rLgnStat (loginDie k) (loginSlot k)) 49 1 == 1
def State.lgnJumbo (s : State) (k : Nat) : Bool := s.rf (rLgnStat (loginDie k) (loginSlot k)) 48 1 == 1
def State.lgnPlid (s : State) (k : Nat) : Nat := s.rf (rLgnStat (loginDie k) (loginSlot k)) 18 16
def State.lgnPort (s : State) (k : Nat) : Nat := s.rf (rLgnAddr (loginDie k) (loginSlot k)) 48 4
def State.lgnEn (s : State) (k : Nat) : Bool := s.rf (rLgnAddr (loginDie k) (loginSlot k)) 63 1 == 1
def State.lgnMac (s : State) (k : Nat) : Nat := s.rf (rLgnAddr (loginDie k) (loginSlot k)) 0 48
def State.setLgn (s : State) (k lo w n : Nat) : State := s.setRf (rLgnStat (loginDie k) (loginSlot k)) lo w n

def State.portEn (s : State) (die port : Nat) : Bool := s.rf (rCl die port 0) 63 1 == 1
def State.linkUp (s : State) (die port : Nat) : Bool := s.rf (rCl die port 0) 40 8 == 2
/-- The link is up, whether or not a pause has lasted beyond CL.TMO.PAUSE_MAX (R378). -/
def State.linkLive (s : State) (die port : Nat) : Bool := s.linkUp die port || s.rf (rCl die port 0) 40 8 == 3

/-- A port fused off under R3. -/
def State.portFused (s : State) (port : Nat) : Bool := decide (s.fuses.ports ≤ port)

/-! ## Bytes of a frame (R365, R369, R390) -/

/-- FCS: the CRC-32 of IEEE 802.3 in reflected form. -/
def crc32 (b : List Byte) : Nat := (b.foldl (fun r x => iter (crcBitR 0xEDB88320) 8 (r ^^^ x.toNat)) 0xFFFFFFFF) ^^^ 0xFFFFFFFF

/-- The integrity tag: CRC-64 of ECMA-182 reflected (R390). -/
def crc64 (b : List Byte) : Dword :=
  BitVec.ofNat 64 ((b.foldl (fun r x => iter (crcBitR 0xC96C5795D7870F42) 8 (r ^^^ x.toNat)) 0xFFFFFFFFFFFFFFFF) ^^^ 0xFFFFFFFFFFFFFFFF)

/-- The Vale header, payload and tag (R369). -/
def Frame.bytes (f : Frame) : List Byte :=
  beBytes 1 f.ver ++ beBytes 1 f.typ ++ [f.flags, 0] ++ beBytes 2 f.dlid ++ beBytes 2 f.slid ++ beBytes 4 f.xid ++ beBytes 2 f.seq ++
  beBytes 2 f.dev ++ beBytes 4 f.credit ++ beBytes 2 f.payload.length ++ [0, 0] ++ beBytes 1 f.image ++ [0] ++ beBytes 2 f.gen.toNat ++
  beBytes 4 f.doff ++ f.payload ++ (match f.tag with | some t => beBytes 8 t.toNat | none => [])

/-- The whole Ethernet frame as sent, padded to 64 bytes with its FCS (R365). -/
def etherBytes (dst src : Nat) (tag : Option (Nat × Nat)) (etype : Nat) (f : Frame) : List Byte :=
  let head := beBytes 6 dst ++ beBytes 6 src ++ (match tag with
    | some (vid, pcp) => beBytes 2 0x8100 ++ beBytes 2 (pcp * 8192 + vid)
    | none => []) ++ beBytes 2 etype ++ f.bytes
  let body := head ++ List.replicate (60 - head.length) 0
  body ++ (beBytes 4 (crc32 body)).reverse

/-- The bytes of what a port has sent (R365, R366); a flow-control frame has the layout of IEEE 802.1Qbb (PRESUMED, log entry 16). -/
def Sent.bytes : Sent → List Byte
  | .vale _ _ dst src tag etype f => etherBytes dst src tag etype f
  | .pfc _ _ src pcp time =>
    let head := beBytes 6 0x0180C2000001 ++ beBytes 6 src ++ beBytes 2 0x8808 ++ beBytes 2 0x0101 ++ beBytes 2 (2 ^ pcp) ++
      ((List.range 8).flatMap fun i => beBytes 2 (if i = pcp then time else 0))
    let body := head ++ List.replicate (60 - head.length) 0
    body ++ (beBytes 4 (crc32 body)).reverse

/-- Bytes that a frame takes on the wire, preamble and gap left out. -/
def Frame.size (f : Frame) : Nat := max 64 (54 + f.payload.length + (if f.tag.isSome then 8 else 0))

/-- A frame that consumes credit and carries a number (R370). -/
def Frame.numbered (f : Frame) : Bool := f.typ == 0x10 || f.typ == 0x11 || f.typ == 0x13

/-! ## Sending -/

/-- The tag of transmitted frames (R366): VID and PCP. -/
def State.txTag (s : State) (die port : Nat) : Option (Nat × Nat) :=
  let v := s.reg (rCl die port 0x18)
  if bit v 63 then some (fget v 32 12, fget v 59 3) else if bit v 62 then some (0, fget v 59 3) else none

/-- The cumulative limit a frame grants (R375). -/
def State.creditOf (s : State) (k : Nat) : Nat :=
  ((s.login k).received + s.rf (rCl (loginDie k) (s.lgnPort k) 0x30) 32 16) % 2 ^ 32

/-- A frame put on a port's wire from CL.MAC to a partner: counted in CL.CNT_TX and, when it is a retransmission, in
CL.CNT_RETX (R365). -/
def State.emitTo (s : State) (die port dst : Nat) (f : Frame) : State :=
  let out : Sent := .vale die port dst (s.rf (rCl die port 0x20) 0 48) (s.txTag die port) (s.rf (rCl die port 0x10) 0 16) f
  let s1 := ({ s with wire := s.wire ++ [out] } : State).evInc (rCl die port 0x100) 1
  if f.flags.getLsbD 6 then s1.evInc (rCl die port 0x110) 1 else s1

/-- A frame of a login put on a port's wire to a partner; its CREDIT is the limit of this moment, where the login stands (R375). -/
def State.emitAt (s : State) (die port dst k : Nat) (f : Frame) : State :=
  let f1 := if f.typ = 0x01 ∨ f.typ = 0x03 ∨ f.typ = 0x04 ∧ s.lgnState k ≠ 3 then f else { f with credit := s.creditOf k }
  let s1 := s.emitTo die port dst f1
  if f.numbered then s1.modLogin k fun l => { l with sent := (l.sent + 1) % 2 ^ 32 } else s1

/-- A frame put on the wire of its login's port. -/
def State.emit (s : State) (k : Nat) (f : Frame) : State := s.emitAt (loginDie k) (s.lgnPort k) (s.lgnMac k) k f

/-- A frame that needs no credit, on a login (k = 0 for none) to a partner: at once, or when the pause of its port ends; a port that
is not up sends nothing. -/
def State.sendOn (s : State) (die port k dst : Nat) (f : Frame) : State :=
  if !(s.portEn die port) || !(s.linkLive die port) then s
  else if (s.port die port).paused then s.modPort die port fun h => { h with waiting := h.waiting ++ [(k, dst, f)] }
  else if k = 0 then s.emitTo die port dst f else s.emitAt die port dst k f

def State.sendFrame (s : State) (k : Nat) (f : Frame) : State := s.sendOn (loginDie k) (s.lgnPort k) k (s.lgnMac k) f

/-- A priority flow-control frame (R368). -/
def State.sendPfc (s : State) (die port time : Nat) : State :=
  { s with wire := s.wire ++ [.pfc die port (s.rf (rCl die port 0x20) 0 48) (s.rf (rCl die port 0x18) 59 3) time] }

/-- The common header fields of a frame on a login (R369). -/
def State.frameOn (s : State) (k typ : Nat) (payload : List Byte) : Frame :=
  { ver := s.lgnVer k, typ := typ, flags := 0, dlid := s.lgnPlid k, slid := loginSlot k, xid := 0, seq := 0, dev := 0, credit := 0,
    image := 0, gen := 0, doff := 0, payload := payload, tag := none }

/-- External code 0x3003 to the running engines whose banks form the port's receive buffer and hold its login state (R358, R431,
R432; which engines it reaches is DEDUCED, log 27). Which occurrences are such events R358 leaves open: the model's are those of kinds 0x68
to 0x6D and a login that goes to RETRY, and none where CL.LGN_ADDR.EN is cleared (DESIGN CHOICE, log 27). -/
def State.portEvent (s : State) (die port : Nat) : State :=
  (List.range 4).foldl (fun t i =>
    let e := 4 * port + i
    if s.rf (rCe die e 0) 40 8 = 1 then t.pendCode (192 + 48 * (die - 8) + e) 0x3003 else t) s

/-- Port messages (R396); those of the link and of logins are events for the engines too. -/
def State.portSend (s : State) (die port kind cls slot : Nat) : State :=
  let s1 := s.send die (0x40 + port) kind cls slot
  if kind ≤ 0x6D then s1.portEvent die port else s1

/-! ## Login slots (R380 to R386) -/

/-- The keys of slots of a die whose register shows them in use. -/
def State.slotsOf (s : State) (die : Nat) : List Nat :=
  (List.range 4096).filterMap fun n => if s.reg (rLgnAddr die n) = 0 then none else some (die * 4096 + n)

/-- Enabled slots that name a port. -/
def State.slotsOn (s : State) (die port : Nat) : List Nat := (s.slotsOf die).filter fun k => s.lgnEn k && s.lgnPort k == port

/-- The login block of a LOGIN-REQ (R380). -/
def State.loginBlock (s : State) (k : Nat) : List Byte :=
  let die := loginDie k
  let p := s.reg (rCl die (s.lgnPort k) 0x30)
  beBytes 1 (fget p 61 3) ++ beBytes 1 (fget p 58 3) ++ [0, 0] ++ beBytes 4 (fget p 0 2) ++
  beBytes 8 (s.reg (rCl die (s.lgnPort k) 0x28)).toNat ++ beBytes 4 (fget p 32 16) ++
  beBytes 2 (s.rf (rCl die (s.lgnPort k) 0x38) 20 12) ++ beBytes 2 (loginSlot k) ++ List.replicate 8 0

/-- A LOGIN-REQ sent; login frames carry version 3 (R369). -/
def State.sendLoginReq (s : State) (k : Nat) : State :=
  let f := { s.frameOn k 0x01 (s.loginBlock k) with ver := 3, dlid := 0 }
  (s.sendFrame k f).modLogin k fun l => { l with reqs := l.reqs + 1 }

/-- A slot begins to log in: WAIT, with a first LOGIN-REQ, or the state `down` until the link is up (R383). In a pause that has lasted
beyond CL.TMO.PAUSE_MAX the link is up, and the LOGIN-REQ comes when the pause ends (R378). -/
def State.beginLogin (s : State) (k : Nat) (down : Nat := 0) : State :=
  let s1 := (s.setLgn k 48 8 0).modLogin k fun l => { Login.none with bad := l.bad }
  if s1.linkLive (loginDie k) (s1.lgnPort k) && s1.portEn (loginDie k) (s1.lgnPort k) then
    let s2 := (s1.setLgn k 53 3 1).setLgn k 18 16 0
    if s2.linkUp (loginDie k) (s2.lgnPort k) then s2.sendLoginReq k else s2
  else (s1.setLgn k 53 3 down).setLgn k 18 16 0

/-- The slot leaves ACTIVE: VER, FEAT and PLID are cleared, and no frame of an exchange that waits for a pause to end goes out on it
(R385). -/
def State.clearLogin (s : State) (k st : Nat) : State :=
  ((((s.setLgn k 53 3 st).setLgn k 48 5 0).setLgn k 18 16 0).modLogin k fun l => { Login.none with bad := l.bad }).modPort (loginDie k)
    (s.lgnPort k) fun h => { h with waiting := h.waiting.filter fun w => w.1 != k || decide (w.2.2.typ < 0x10) }

/-- LOGOUT with a reason (R386). -/
def State.sendLogout (s : State) (k reason : Nat) : State :=
  s.sendFrame k { s.frameOn k 0x04 (beBytes 1 reason ++ [0, 0, 0]) with credit := s.creditOf k }

/-- The refusal of a login (R382, R383): reasons 0x01, 0x03, 0x04, 0x07 and 0x08 end in REFUSED, others in RETRY. -/
def State.loginRefused (s : State) (k reason : Nat) : State :=
  let s1 := s.setLgn k 40 8 reason
  if reason = 1 ∨ reason = 3 ∨ reason = 4 ∨ reason = 7 ∨ reason = 8 then
    (s1.setLgn k 53 3 4).portSend (loginDie k) (s.lgnPort k) 0x6C 0 (loginSlot k)
  else (s1.setLgn k 53 3 2).portEvent (loginDie k) (s.lgnPort k)

/-- The highest version in both ranges, or 0. -/
def commonVer (a b c d : Nat) : Nat := if max a c ≤ min b d then min b d else 0

/-- A LOGIN-ACC checked (R381) and recorded (R383). -/
def State.loginAcc (s : State) (k : Nat) (blk : List Byte) : State :=
  let die := loginDie k
  let p := s.reg (rCl die (s.lgnPort k) 0x30)
  let ver := blkNat blk 2 1
  let feat := blkNat blk 4 4
  if s.lgnState k ≠ 1 then s
  else if blk.length ≠ 32 ∨ blkNat blk 0x10 4 = 0 ∨ 65535 < blkNat blk 0x10 4 then s.loginRefused k 0x04
  else if ver = 0 ∨ ver ≠ commonVer (fget p 61 3) (fget p 58 3) (blkNat blk 0 1) (blkNat blk 1 1) ∨ feat ||| fget p 0 2 ≠ fget p 0 2 then
    (s.sendFrame k { s.frameOn k 0x04 (beBytes 1 0x03 ++ [0, 0, 0]) with ver := 3, dlid := blkNat blk 0x16 2 }).loginRefused k 0x08
  else
    let s1 := (((s.setLgn k 53 3 3).setLgn k 50 3 ver).setLgn k 48 2 feat).setLgn k 18 16 (blkNat blk 0x16 2)
    (s1.modLogin k fun l => { l with sent := 0, received := 0, limit := blkNat blk 0x10 4, ka := blkNat blk 0x14 2, misses := 0, reqs := 0 }).portSend
      die (s.lgnPort k) 0x6A 0 (loginSlot k)

/-- No answer within 10 ms of a LOGIN-REQ (R383). -/
def State.loginTimeout (s : State) (k : Nat) : State :=
  if s.lgnState k ≠ 1 ∨ (s.login k).reqs = 0 then s
  else if (s.login k).reqs < 4 then s.sendLoginReq k
  else s.loginRefused k 0x09

/-- 1 s has passed in RETRY (R383). -/
def State.loginRetry (s : State) (k : Nat) : State :=
  if s.lgnState k ≠ 2 then s
  else if !(s.lgnEn k) then s.clearLogin k 0
  else (s.modLogin k fun l => { l with reqs := 0 }).beginLogin k 1

/-! ## Acceptance of received frames (R366, R367, R371) -/

/-- The tag of a received frame is acceptable (R366). -/
def State.rxTagOk (s : State) (die port : Nat) (vlan : Option (Nat × Nat)) : Bool :=
  let v := s.reg (rCl die port 0x18)
  match vlan with
  | none => !(bit v 63)
  | some (vid, _) => if bit v 63 then vid == fget v 32 12 else vid == 0

def State.discard (s : State) (die port : Nat) : State := s.errInc (rCl die port 0x120) 0 32 63

/-- The payload length allowed for a type (R370), JUMBO or not. -/
def payloadMax (typ : Nat) (jumbo : Bool) : Nat :=
  if typ = 0x11 then (if jumbo then 8192 else 1024)
  else if typ = 0x12 then 16
  else if typ = 0x01 ∨ typ = 0x02 then 32
  else if typ = 0x13 ∨ typ = 0x10 then 8
  else if typ = 0x03 ∨ typ = 0x04 ∨ typ = 0x14 ∨ typ = 0x17 ∨ typ = 0x18 then 4  -- 0x05, 0x06, 0x15, 0x16 and 0x19 have none
  else 0

/-- A malformed or wrong-version frame (R371): kind 0x6F for the first of a login in a second of time-of-day. -/
def State.malformed (s : State) (die port k : Nat) : State :=
  let sec := s.tod.toNat / 4096000000
  let s1 := s.discard die port
  if (s1.login k).bad = some sec then s1
  else (s1.modLogin k fun l => { l with bad := some sec }).portSend die port 0x6F 0 (loginSlot k)

/-! ## Enable checks (R397, R398) -/

/-- A 48-bit address is multicast: the low bit of its first byte. -/
def multicast (mac : Nat) : Bool := (mac >>> 40) % 2 == 1

/-- The check of CL.CTL.EN in the order of R24. -/
def State.clCheck (s : State) (die port : Nat) : Nat :=
  let p := s.reg (rCl die port 0x30)
  let mac := s.rf (rCl die port 0x20) 0 48
  let node := s.reg (rCl die port 0x28)
  let tmo := s.reg (rCl die port 0x38)
  let phy := s.reg (rCl die port 8)
  let vl := s.reg (rCl die port 0x18)
  let others := ([8, 9].flatMap fun d => (List.range 12).map fun q => (d, q)).filter fun x => x ≠ (die, port) ∧ s.portEn x.1 x.2 = true
  if fget p 58 3 < fget p 61 3 then 0x84
  else if mac = 0 ∨ multicast mac = true then 0x01
  else if node = 0 ∨ others.any (fun x => s.reg (rCl x.1 x.2 0x28) != node) = true then 0x02
  else if fget p 32 16 = 0 then 0x03
  else if fget tmo 48 16 = 0 ∨ fget tmo 32 16 = 0 ∨ fget tmo 20 12 = 0 ∨ fget tmo 16 4 = 0 ∨ fget tmo 0 16 = 0 then 0x04
  else if bit phy 63 = true ∧ fget phy 59 4 = 0 then 0x05
  else if fget vl 16 16 ≤ fget vl 0 16 ∨ 1024 < fget vl 16 16 then 0x06
  else if s.rf (rCl die port 0) 62 1 = 1 then 0x83
  else 0

/-- The enable of a port; the link then negotiates or trains (R364). -/
def State.clEnable (s : State) (die port : Nat) : State :=
  if s.portEn die port then s
  else
    let r := s.clCheck die port
    let s1 := (s.setRf (rCl die port 0) 48 8 r).setRf (rCl die port 0) 63 1 (if r = 0 then 1 else 0)
    if r = 0 then s1.setRf (rCl die port 0) 40 8 1 else s1

/-- The check of CL.LGN_ADDR.EN (R398). -/
def State.lgnCheck (s : State) (k : Nat) : Nat :=
  let die := loginDie k
  let port := s.lgnPort k
  let mac := s.lgnMac k
  let same := (s.slotsOn die port).filter fun j => j != k
  if s.portFused port = true ∨ multicast mac = true then 0x81
  else if same.any (fun j => s.lgnMac j == mac) then 0x82
  else if 1024 ≤ same.length then 0x01
  else 0

def State.lgnEnable (s : State) (k : Nat) : State :=
  if s.lgnEn k then s
  else
    let r := s.lgnCheck k
    let s1 := (s.setLgn k 56 8 r).setRf (rLgnAddr (loginDie k) (loginSlot k)) 63 1 (if r = 0 then 1 else 0)
    if r = 0 then s1.beginLogin k else s1

/-! ## Link and flow control (R364, R368, R378) -/

/-- The mode in use when auto-negotiation resolves against what the partner advertises, or as CL.PHY.MODE gives it; none when the two
sides advertise no common rate (R364). -/
def State.resolveMode (s : State) (die port : Nat) (peer200 : Bool) : Option Nat :=
  let phy := s.reg (rCl die port 8)
  let adv := fget phy 59 4
  if !(bit phy 63) then some (fget phy 57 2)
  else if peer200 && decide (adv % 4 ≠ 0) then some (if adv % 2 = 1 then 0 else 1)
  else if adv / 4 = 0 then none
  else some (if adv / 4 % 2 = 1 then 2 else 3)

/-- The link of an enabled port comes up (R364): waiting slots begin to log in. -/
def State.linkComesUp (s : State) (die port : Nat) (peer200 : Bool) : State :=
  match s.resolveMode die port peer200 with
  | none => s
  | some mode =>
    if !(s.portEn die port) || s.linkLive die port then s
    else
      let s1 := (s.setRf (rCl die port 0) 40 8 2).setRf (rCl die port 0) 38 2 mode
      let s2 := (s1.condEnd die (0x40 + port) 0x68 0).portSend die port 0x69 0 0
      ((s2.slotsOn die port).filter fun k => decide (s2.lgnState k < 2)).foldl (fun t k => t.beginLogin k) s2

/-! ## The receive buffer (R368, R432, R443) -/

/-- The banks of a port's receive buffer, as die × 128 + bank (R432). -/
def portBanks (die port : Nat) : List Nat := (List.range 4).map fun i => die * 128 + 72 + 4 * port + i

/-- The frames held in the frame space of a port (R432). -/
def State.rxFrames (s : State) (die port : Nat) : List HeldFrame :=
  s.xfers.flatMap fun x => x.2.heldRx.filter fun h => (portBanks die port).contains h.bank

/-- Frame space in use. -/
def State.rxLevel (s : State) (die port : Nat) : Nat := ((s.rxFrames die port).map fun h => h.frame.size).sum

/-- A bank is in a copy (R442). -/
def State.bankStalled (s : State) (bank : Nat) : Bool := s.rf (regAddr 7 0 (bank / 128) (0x100 + 8 * (bank % 128))) 62 1 == 1

/-- The cell at which a bank begins. -/
def bankCell (bank : Nat) : Nat := wsCell (bank / 128) (bank % 128 * 0x40000)

/-- The port's units act for the owner of a bank: one that has none, or is tested in place, refuses them (R432, R436, R444). -/
def State.bankServes (s : State) (bank : Nat) : Bool :=
  s.bankOwner (bankCell bank) != 0 && s.bankOwner (bankCell bank) != 0x70

/-- Where n bytes fit among held frames, from offset 0x8000 of the bank on (R431). -/
def spaceFor (l : List HeldFrame) (n : Nat) : Option Nat :=
  let clear (o : Nat) : Bool := decide (o + n ≤ 0x40000) && l.all fun h => decide (o + n ≤ h.off) || decide (h.off + h.frame.size ≤ o)
  if clear 0x8000 then some 0x8000 else (l.map fun h => h.off + h.frame.size).find? clear

/-- The bank and the offset in it that take an arriving frame of n bytes: the first of the port's four that serves, is not in a copy and
has room in its 224 KB of frame space (R432, R443; which of several takes it, and where, is the model's choice, log 28). -/
def State.framePlace (s : State) (die port n : Nat) : Option (Nat × Nat) :=
  (portBanks die port).findSome? fun b =>
    if s.bankStalled b || !(s.bankServes b) then none
    else (spaceFor ((s.rxFrames die port).filter fun h => h.bank == b) n).map fun o => (b, o)

/-- The bytes of a held frame put into its bank. -/
def State.frameIn (s : State) (h : HeldFrame) : State := s.wsPut (bankCell h.bank + h.off) h.frame.bytes

/-- A held frame as its bank gives it back: the payload is read from there. -/
def State.frameOut (s : State) (h : HeldFrame) : Frame :=
  { h.frame with payload := s.wsBytes (bankCell h.bank + h.off + 32) h.frame.payload.length }

/-- The buffer has reached XOFF: a pause is sent and repeated while the condition holds (R368). -/
def State.checkXoff (s : State) (die port : Nat) : State :=
  let vl := s.reg (rCl die port 0x18)
  if bit vl 62 && !(s.port die port).xoff && decide (fget vl 16 16 * 1024 ≤ s.rxLevel die port) then
    (s.modPort die port fun h => { h with xoff := true }).sendPfc die port 0xFFFF
  else s

/-- The buffer has fallen to XON or less; with PFC_EN 0 no frame tells of it. Levels and PFC_EN may have been written since the buffer last
changed, so the events of flow control look at XOFF too (95_what_each_step_holds.md, RECEIVE_BUFFER_XOFF). -/
def State.xon (s : State) (die port : Nat) : State :=
  let vl := s.reg (rCl die port 0x18)
  if (s.port die port).xoff && decide (s.rxLevel die port ≤ fget vl 0 16 * 1024) then
    let s1 := s.modPort die port fun h => { h with xoff := false }
    if bit vl 62 then s1.sendPfc die port 0 else s1
  else s.checkXoff die port

/-- Half the pause time has passed while the buffer holds XOFF or more. -/
def State.pfcRepeat (s : State) (die port : Nat) : State :=
  let vl := s.reg (rCl die port 0x18)
  if bit vl 62 && (s.port die port).xoff && decide (fget vl 16 16 * 1024 ≤ s.rxLevel die port) then s.sendPfc die port 0xFFFF else s.checkXoff die port

/-! ## Pauses (R368, R378) -/

/-- The clock of a port's timers: it stands while the port is paused. -/
def State.portClock (s : State) (die port : Nat) : Nat :=
  let h := s.port die port
  s.elapsed - h.stood - (if h.paused then s.elapsed - h.since else 0)

/-- The pause of a port ends: what waited is sent. -/
def State.unpause (s : State) (die port : Nat) : State :=
  let w := (s.port die port).waiting
  let s1 := s.modPort die port fun h =>
    { h with paused := false, waiting := [], stood := if h.paused then h.stood + (s.elapsed - h.since) else h.stood, since := 0 }
  let s2 := (w.foldl (fun t x => t.sendOn die port x.1 x.2.1 x.2.2) s1).checkXoff die port
  if s2.rf (rCl die port 0) 40 8 = 3 then
    let s3 := s2.setRf (rCl die port 0) 40 8 2
    ((s3.slotsOn die port).filter fun k => decide (s3.lgnState k < 2)).foldl (fun t k => t.beginLogin k) s3
  else s2

/-- A received pause for the port's traffic: `time` 0 ends it (R368). -/
def State.pause (s : State) (die port time : Nat) : State :=
  if !(s.portEn die port) then s
  else if time = 0 then s.unpause die port
  else (s.modPort die port fun h => { h with paused := true, since := if h.paused then h.since else s.elapsed }).checkXoff die port

end Sys2Proof.Machine
end

