-- ==== Sys2Proof/Machine/Channel.lean ====
section
/-! DEFINITION. The channel subsystem (R308 to R362): subchannels, exchanges and their journal, channel programs, paths,
takeover, images, and the exchange side of the Vale protocol (R373 to R379, R387 to R395). -/
namespace Sys2Proof.Machine
open Sys2Proof

/-! ## Copies of entries and slots (R311, R314, R335, R343) -/

/-- CS.CTL.DIE_STATE, EN and LINK of a channel die. -/
def State.dieState (s : State) (d : Nat) : Nat := s.rf (rCs d 0) 32 8
def State.csEn (s : State) (d : Nat) : Bool := s.rf (rCs d 0) 63 1 == 1
def State.mirrorUp (s : State) : Bool := s.rf (rCs 8 0) 40 8 == 2 && s.rf (rCs 9 0) 40 8 == 2

/-- The owning die has failed: its half is the mirror. -/
def State.useMirror (s : State) (p : Nat) : Bool := s.dieState (ownerDie p) == 3

/-- The die that serves a subchannel's half. -/
def State.servingDie (s : State) (p : Nat) : Nat := recDie p (s.useMirror p)

/-- The bank of a copy is not owned by the channel units, which are refused there (R314, R436). -/
def State.recTaken (s : State) (r : Rec) (p : Nat) (m : Bool) : Bool := s.bankOwner (recCell r p m) != 0x7E

/-- A copy out of reach: its die has failed, its bank is another's, or it is the mirror of an exchange begun with the link down (R344). -/
def State.recGone (s : State) (r : Rec) (p : Nat) (m : Bool) : Bool :=
  s.dieState (recDie p m) == 3 || s.recTaken r p m || (m && r != .entry && s.unmirrored.contains p)

/-- The copy that the units use: the mirror when the own copy is out of reach (log 27). -/
def State.fromMirror (s : State) (r : Rec) (p : Nat) : Bool := s.useMirror p || (s.recGone r p false && !(s.recGone r p true))

/-- The mirror takes a write over the link: through port B for state words while PORTB is 1 (R439), by the mirror-copy unit elsewhere. -/
def State.mirrorTakes (s : State) (r : Rec) (p : Nat) : Bool :=
  s.mirrorUp && (if r = .word then s.rf (rBank (recCell r p true)) 61 1 == 1 else !(s.recTaken r p true))

/-- The copies of a record that a write reaches. -/
def State.ownPut (s : State) (r : Rec) (p : Nat) : Bool := !(s.recGone r p false)
def State.mirPut (s : State) (r : Rec) (p : Nat) : Bool := (s.useMirror p && !(s.recTaken r p true)) || s.mirrorTakes r p

/-- The units reach every record of p. -/
def State.operable (s : State) (p : Nat) : Bool := [Rec.entry, .word, .body].all fun r => s.ownPut r p || s.mirPut r p

/-- A recorded state reaches the other die. -/
def State.mirrorOk (s : State) (p : Nat) : Bool := s.mirrorTakes .word p && s.mirrorTakes .body p

def State.sub (s : State) (p : Nat) : Sct := s.entryCopy (s.fromMirror .entry p) p
def State.slot (s : State) (p : Nat) : Slot := (s.slotCopy (s.fromMirror .body p) p).withWord (s.slotCopy (s.fromMirror .word p) p)

/-- A unit's write of a record that the bank of a copy refuses: port A to a unit that does not own it, port B to the mirror link while
PORTB is 0 (R436, R439). -/
def State.denyWrite (s : State) (r : Rec) (p : Nat) : State :=
  let s1 := if s.dieState (recDie p false) != 3 && s.recTaken r p false then s.wsDeny (recCell r p false) 0x7E else s
  if s.useMirror p && s.recTaken r p true then s1.wsDeny (recCell r p true) 0x7E
  else if !(s.useMirror p) && s.mirrorUp && !(s.mirrorTakes r p) then s1.wsDeny (recCell r p true) (if r = .word then 0x40 else 0x7E)
  else s1

/-- An SCT entry written: both copies while the link is up. -/
def State.setSub (s0 : State) (p : Nat) (e : Sct) : State :=
  let s := s0.denyWrite .entry p
  let s1 := if s.ownPut .entry p then s.putEntry false p e else s
  if s.mirPut .entry p then s1.putEntry true p e else s1

/-- The state word and the body of one copy written, where it takes them. -/
def State.putCopy (s : State) (m : Bool) (p : Nat) (x : Slot) (w b : Bool) : State :=
  let old := s.slotCopy m p
  let s1 := s.putSlot m p ((if b then x else old).withWord (if w then x else old))
  if w then s1.wsClean (recCell .word p m) 16 else s1

/-- The refusals of a slot's write: of the state word where it changes, and of the body where that does. -/
def State.denySlot (s : State) (p : Nat) (x : Slot) : State :=
  let old := s.slot p
  let s1 := if old.withWord x ≠ old then s.denyWrite .word p else s
  if ({ x.withWord old with durable := old.durable } : Slot) ≠ old then s1.denyWrite .body p else s1

/-- A slot written: both copies while the link is up (R338, R343). -/
def State.setSlot (s0 : State) (p : Nat) (x : Slot) : State :=
  let s := s0.denySlot p x
  (s.putCopy false p x (s.ownPut .word p) (s.ownPut .body p)).putCopy true p x (s.mirPut .word p) (s.mirPut .body p)

def State.modSlot (s : State) (p : Nat) (f : Slot → Slot) : State := s.setSlot p (f (s.slot p))

def State.xfer (s : State) (p : Nat) : Xfer := sget (fun _ => Xfer.none) s.xfers p
def State.setXfer (s : State) (p : Nat) (x : Xfer) : State := { s with xfers := sput (fun _ => Xfer.none) s.xfers p x }
def State.modXfer (s : State) (p : Nat) (f : Xfer → Xfer) : State := s.setXfer p (f (s.xfer p))

/-- Physical subchannels with an entry, and slots in use. -/
def State.subKeys (s : State) : List Nat := ((s.sct.map (·.1)) ++ (s.sctMir.map (·.1))).eraseDups
def State.slotKeys (s : State) : List Nat := ((s.slots.map (·.1)) ++ (s.slotsMir.map (·.1))).eraseDups

/-- The exchange identifier (R337). -/
def xidOf (x : Slot) (p : Nat) : Nat := x.incarn * 131072 + p

def Slot.stCode (x : Slot) : Nat := x.st.code

/-- START to DATA-DONE. -/
def Slot.running (x : Slot) : Bool := decide (1 ≤ x.stCode) && decide (x.stCode ≤ 4)

/-- The slots of an image in some state but FREE. -/
def State.slotsOfImage (s : State) (img : Nat) : List Nat :=
  s.slotKeys.filter fun p => (s.slot p).image == img && (s.slot p).st != .free

/-- Occupancy (R319). -/
def State.occupancy (s : State) (img : Nat) : Nat :=
  ((s.slotsOfImage img).filter fun p => decide ((s.slot p).stCode ≤ 5)).length

/-- A die serves the subchannel (R322). -/
def State.served (s : State) (p : Nat) : Bool :=
  let o := ownerDie p
  if s.dieState o = 3 then s.dieState (17 - o) == 2 else s.csEn o

/-- The subchannel that set and number name for an image (R309). -/
def State.findSub (s : State) (img set num : Nat) : Option Nat :=
  s.subKeys.find? fun p => let e := s.sub p; e.mapped && e.image == img && e.set == set && e.num == num

def State.journalSend (s : State) (p kind cls synd : Nat) : State := s.send (s.servingDie p) 0x62 kind cls synd

/-! ## Status (R325, R332, R333, R338) -/

/-- A condition made pending for the image of a subchannel, unless one is pending already or EN is 0 (R333). -/
def State.addCond (s : State) (p : Nat) : State :=
  let e := s.sub p
  if !e.en || s.conds.any (fun c => c.2.2 == p) then s else { s with conds := s.conds ++ [(e.image, e.isc, p)] }

/-- The status block of an exchange as it ends. -/
def State.mkStatus (s : State) (p : Nat) (start halt clear : Bool) (code dev chan residual : Nat) : Status :=
  let x := s.slot p
  let notify := x.status.chan.getLsbD 7 && x.pend
  { start := start, halt := halt, clear := clear, active := false, code := code, dev := dev,
    chan := BitVec.ofNat 8 chan ||| (if notify then 0x80 else 0), residual := residual,
    addr := if start then x.cwa + 16 else 0, xid := if start then xidOf x p else 0, gen := x.gen, path := if start then x.path else 0 }

/-- A state recorded (R338): an action follows when it is durable. -/
def State.record (s : State) (p : Nat) (st : ExSt) : State := s.modSlot p fun x => { x with st := st, durable := false }

/-- STATUS recorded with its status block; nothing more is sent for the exchange. -/
def State.conclude (s : State) (p : Nat) (t : Status) : State :=
  (s.modSlot p fun x => { x with st := .status, durable := false, status := t, pend := false }).modXfer p fun x =>
    { x with out := [], unacked := [], heldRx := [], rxUnacked := 0, due := false }

/-- The slot becomes FREE (R338). -/
def State.freeSlot (s : State) (p : Nat) : State :=
  (s.modSlot p fun x => { x with st := .free, durable := true, pend := false, eng := none, status := Status.none }).setXfer p Xfer.none

/-- Intermediate status (R332): it concludes no function (R325). -/
def State.notify (s : State) (p cwa : Nat) : State :=
  if (s.slot p).pend then s
  else
    let x := s.slot p
    let t : Status := { start := false, halt := false, clear := false, active := true, code := 6, dev := 0, chan := 0x80,
                        residual := 0, addr := cwa + 16, xid := xidOf x p, gen := x.gen, path := x.path }
    (s.modSlot p fun x => { x with status := t, pend := true }).addCond p

/-! ## Paths (R312, R313, R324, R339, R395) -/

def pathDie (d : Word) : Nat := 8 + fget (d.zeroExtend 64) 28 1
def pathPort (d : Word) : Nat := fget (d.zeroExtend 64) 24 4
def pathLogin (d : Word) : Nat := pathDie d * 4096 + fget (d.zeroExtend 64) 0 12
def pathV (d : Word) : Bool := d.getLsbD 31

/-- Path i of a subchannel, i = 0 to 7. -/
def Sct.path (e : Sct) (i : Nat) : Word := e.paths.getD i 0

/-- Path i is usable under an operation's mask (R313). -/
def State.pathUsable (s : State) (p i : Nat) (mask : BitVec 8) : Bool :=
  let e := s.sub p
  let d := e.path i
  let k := pathLogin d
  pathV d && e.mask.getLsbD (7 - i) && mask.getLsbD (7 - i) && s.portEn (pathDie d) (pathPort d) && s.dieState (pathDie d) != 3 &&
    s.lgnState k == 3 && s.lgnPort k == pathPort d

/-- The path that a slot's previous exchange used; the order of R324 begins at path 0 where none has (log 27). An exchange has a path
mask with the bit of its path set (R313), which stays in the body. -/
def Slot.lastPath (x : Slot) : Nat := if x.mask = 0 then 7 else x.path

/-- The paths in the order of R324, starting after the path used before. -/
def State.pathOrder (s : State) (p last : Nat) : List Nat :=
  let ring := (List.range 8).map fun i => (last + 1 + i) % 8
  let own := ring.filter fun i => pathDie ((s.sub p).path i) == ownerDie p
  own ++ ring.filter fun i => pathDie ((s.sub p).path i) != ownerDie p

/-- The limit of a count on a login (R329). -/
def State.countLimit (s : State) (k : Nat) : Nat := if s.lgnVer k = 5 then 16777216 else 1048576

/-- A path that R395 skips for an exchange. -/
def State.pathSkipped (s : State) (p i : Nat) : Bool :=
  let x := s.xfer p
  let k := pathLogin ((s.sub p).path i)
  (!(s.lgnMpx k) && x.used.any (fun j => j != k)) || decide (s.lgnVer k < x.beganVer) || decide (s.countLimit k < x.maxCount)

/-! ## Engines (R341) -/

def State.engineRuns (s : State) (d e : Nat) : Bool := s.rf (rCe d e 0) 40 8 == 1

/-- Exchanges assigned to an engine (CE.CTL.EXCH). -/
def State.assignedTo (s : State) (d e : Nat) : List Nat :=
  s.slotKeys.filter fun p => (s.slot p).eng == some (d, e) && (s.slot p).st != .free

/-- The running engine of a die with the fewest exchanges, the lower number in a tie. -/
def State.leastBusy (s : State) (d : Nat) : Option (Nat × Nat) :=
  ((List.range 48).filter fun e => s.engineRuns d e).foldl (fun (b : Option (Nat × Nat)) e =>
    match b with
    | none => some (d, e)
    | some x => if (s.assignedTo d e).length < (s.assignedTo x.1 x.2).length then some (d, e) else b) none

/-- The engine that serves an exchange of subchannel p. -/
def State.chooseEngine (s : State) (p : Nat) : Option (Nat × Nat) :=
  match s.leastBusy (ownerDie p) with
  | some x => some x
  | none => s.leastBusy (17 - ownerDie p)

/-- Unit number of engine e of die d. -/
def engUnit (d e : Nat) : Nat := 192 + 48 * (d - 8) + e

/-- An exchange is assigned, and the engine told of new work, of a takeover or of both (R358). -/
def State.assign (s : State) (p : Nat) (codes : List (BitVec 16)) : State :=
  match s.chooseEngine p with
  | none => s.modSlot p fun x => { x with eng := none }
  | some (d, e) => codes.foldl (fun t c => t.pendCode (engUnit d e) c) (s.modSlot p fun x => { x with eng := some (d, e) })

/-! ## Channel-program accesses (R330) -/

/-- Channel-status bits of an error (R325). -/
inductive ChErr where
  | program
  | protection
  | data
  | addressing
  deriving DecidableEq, Repr

def ChErr.bits : ChErr → Nat
  | .program => 0x20
  | .protection => 0x10
  | .data => 0x08
  | .addressing => 0x04

/-- The state after an access, with its outcome or error. -/
abbrev ChRes (α : Type) := State × Except ChErr α

/-- An engine's read of storage (R238, R263). -/
def State.engRead (s : State) (pa len : Nat) : State :=
  (sectorParts pa len).foldl (fun t x => (t.conflicts none [x.1 / 64] false).engineRead x.1) s

/-- An engine's write of storage (R238, R263). -/
def State.engWrite (s : State) (pa : Nat) (data : List Byte) : State :=
  (sectorParts pa data.length).foldl (fun t x =>
    (t.conflicts none [x.1 / 64] true).engineWrite (x.1 / 64) (cellsAt x.1 ((data.drop (x.1 - pa)).take x.2))) s

/-- Bytes that an engine reads, or a data check where they are poisoned (R285). -/
def State.engBytes (s : State) (pa len : Nat) : ChRes (List Byte) :=
  let s1 := s.engRead pa len
  if (sectorsOf pa len).any (fun q => s1.poisoned (64 * q)) then (s1, .error .data) else (s1, .ok (s1.bytes pa len))

/-- The table fetches of a walk that a channel die makes. -/
def State.engFetches (s : State) (pas : List Nat) : State × Bool :=
  let s1 := pas.foldl (fun t a => t.engRead a 8) s
  (s1, pas.any fun a => s1.poisoned a)

/-- The host-level translation of a guest absolute address by a channel die (R218, R330): physical address and W. One that has been
cached is used until it is invalidated (R225, R226). -/
def State.chanHost (s : State) (img ga : Nat) : ChRes (Nat × Bool) :=
  match s.image img with
  | none => (s, .error .addressing)
  | some e =>
    let ctx := some (img, e.gen)
    match s.chanTlb.find? fun t => t.serves ctx false 0 0 (ga / 4096) with
    | some t => (s, .ok ((t.at_ (ga / 4096)).frame * 4096 + ga % 4096, t.w))
    | none =>
      match s.hostWalk none img ga with
      | .leaf base sz mt w x us pas _ =>
        let r := s.engFetches pas
        if r.2 then (r.1, .error .data)
        else
          let pa := base + ga % 2 ^ sz
          let new : TlbEntry :=
            { ctx := ctx, dat := false, r1to := 0, prefix_ := 0, vpage := ga / 4096, sizeLog := sz, span := sz, frame := pa / 4096, gframe := ga / 4096,
              mt := mt, w := w, x := x, u := us, hw := w, hx := x, key := none }
          ({ r.1 with chanTlb := (new.whole :: r.1.chanTlb).take 64 }, .ok (pa, w))
      | .bad _ _ pas | .none _ pas | .exit _ pas => ((s.engFetches pas).1, .error (if (s.engFetches pas).2 then .data else .addressing))

/-- The key check of R330 for the frame of a guest absolute address. -/
def State.chanKey (s : State) (img ga : Nat) (key : BitVec 4) (store : Bool) : ChRes Unit :=
  match s.image img with
  | none => (s, .error .addressing)
  | some e =>
    if !e.keyen || key = 0 then (s, .ok ())
    else if 2 ^ 50 ≤ e.keytab + ga / 4096 then (s, .error .addressing)
    else match s.chanHost img (e.keytab + ga / 4096) with
      | (s1, .error x) => (s1, .error x)
      | (s1, .ok (pa, _)) =>
        if s1.dramSize ≤ pa then (s1, .error .addressing)
        else match s1.engBytes pa 1 with
          | (s2, .error x) => (s2, .error x)
          | (s2, .ok b) =>
            let k := b.getD 0 0
            if k.toNat / 16 = key.toNat ∨ (store = false ∧ k.getLsbD 3 = false) then (s2, .ok ()) else (s2, .error .protection)

/-- The physical address of a guest absolute address for a channel access. -/
def State.chanAddr (s : State) (img ga : Nat) (key : BitVec 4) (store : Bool) : ChRes Nat :=
  if 2 ^ 50 ≤ ga then (s, .error .addressing)
  else match s.chanKey img ga key store with
    | (s1, .error x) => (s1, .error x)
    | (s1, .ok _) => match s1.chanHost img ga with
      | (s2, .error x) => (s2, .error x)
      | (s2, .ok (pa, w)) =>
        if s2.dramSize ≤ pa then (s2, .error .addressing) else if store && !w then (s2, .error .protection) else (s2, .ok pa)

/-- Bytes fetched for a channel program. -/
def State.chanRead (s : State) (img : Nat) (key : BitVec 4) (ga len : Nat) : ChRes (List Byte) :=
  (pageParts ga (len / 4096 + 2) len).foldl (fun (r : ChRes (List Byte)) x =>
    match r.2 with
    | .error _ => r
    | .ok b => match r.1.chanAddr img x.1 key false with
      | (t, .error e) => (t, .error e)
      | (t, .ok pa) => match t.engBytes pa x.2 with
        | (t1, .error e) => (t1, .error e)
        | (t1, .ok c) => (t1, .ok (b ++ c))) (s, .ok [])

/-- Bytes stored for a channel program: parts before a failing one stay stored. -/
def State.chanWrite (s : State) (img : Nat) (key : BitVec 4) (ga : Nat) (data : List Byte) : ChRes (List Byte) :=
  (pageParts ga (data.length / 4096 + 2) data.length).foldl (fun (r : ChRes (List Byte)) x =>
    match r.2 with
    | .error _ => r
    | .ok b => match r.1.chanAddr img x.1 key true with
      | (t, .error e) => (t, .error e)
      | (t, .ok pa) => (t.engWrite pa (b.take x.2), .ok (b.drop x.2))) (s, .ok data)

/-! ## Channel words (R327 to R329, R332) -/

def Cw.op (c : Cw) : Nat := c.cmd / 32
def Cw.next (c : Cw) : Bool := c.flags.getLsbD 0
def Cw.join (c : Cw) : Bool := c.flags.getLsbD 1
def Cw.lenok (c : Cw) : Bool := c.flags.getLsbD 2
def Cw.discard (c : Cw) : Bool := c.flags.getLsbD 3
def Cw.notify (c : Cw) : Bool := c.flags.getLsbD 4
def Cw.list (c : Cw) : Bool := c.flags.getLsbD 5
/-- Data goes from storage to the device. -/
def Cw.toDevice (c : Cw) : Bool := c.op == 1 || c.op == 3
/-- The chain does not continue after this word. -/
def Cw.last (c : Cw) : Bool := !c.next && !c.join

/-- A channel word with its reserved bytes. -/
def parseCw (b : List Byte) : Cw × Nat :=
  (⟨blkNat b 0 1, b.getD 1 0, blkNat b 4 4, blkNat b 8 8⟩, blkNat b 2 2)

/-- The number of indirect words that `count` bytes use from the first. -/
def listWords (first count : Nat) : Nat :=
  let cap := 4096 - first % 4096
  if count ≤ cap then 1 else 1 + (count - cap + 4095) / 4096

/-- The indirect words of a list checked (R329). -/
def State.checkList (s : State) (img : Nat) (key : BitVec 4) (c : Cw) : ChRes Unit :=
  match s.chanRead img key c.addr 8 with
  | (s1, .error e) => (s1, .error e)
  | (s1, .ok b) =>
    (List.range (listWords (beNat b) c.count - 1)).foldl (fun (r : ChRes Unit) i =>
      match r.2 with
      | .error _ => r
      | .ok _ => match r.1.chanRead img key (c.addr + 8 * (i + 1)) 8 with
        | (t, .error e) => (t, .error e)
        | (t, .ok w) => if beNat w % 4096 = 0 then (t, .ok ()) else (t, .error .program)) (s1, .ok ())

/-- The checks of R329 on a word that is no jump; `limit` is the login's. -/
def Cw.bad (c : Cw) (rsv limit : Nat) : Bool :=
  decide (c.flags.toNat / 64 ≠ 0) || decide (rsv ≠ 0) || !([1, 2, 3, 4].contains c.op) || (c.join && c.next) ||
  (c.discard && c.op != 2 && c.op != 4) || (c.count == 0 && c.op != 3) || decide (limit < c.count) || (c.list && c.addr % 8 != 0)

/-- A word fetched and checked, a jump followed once; `joined` is the command that JOIN continues. R332 does not order NOTIFY and the
checks of R329: a word that fails its own check makes no intermediate status pending, and one whose list fails keeps it (DESIGN CHOICE,
log 27). -/
def State.fetchWord (s : State) (p : Nat) (img : Nat) (key : BitVec 4) (limit a : Nat) (joined : Option Cw) : ChRes (Cw × Nat) :=
  let finish (t : State) (c : Cw) (rsv at_ : Nat) : ChRes (Cw × Nat) :=
    let c1 := match joined with | some j => { c with cmd := j.cmd } | none => c
    if c1.bad rsv limit then (t, .error .program)
    else
      let t1 := if c1.notify then t.notify p at_ else t
      if c1.list && c1.count != 0 then match t1.checkList img key c1 with
        | (t2, .error e) => (t2, .error e)
        | (t2, .ok _) => (t2, .ok (c1, at_))
      else (t1, .ok (c1, at_))
  match s.chanRead img key a 16 with
  | (s1, .error e) => (s1, .error e)
  | (s1, .ok b) =>
    let c := (parseCw b).1
    let rsv := (parseCw b).2
    if c.op = 5 then
      if c.cmd % 32 ≠ 0 ∨ rsv ≠ 0 ∨ c.flags.toNat / 64 ≠ 0 ∨ c.addr % 16 ≠ 0 then (s1, .error .program)
      else
        let s2 := if c.notify then s1.notify p a else s1
        match s2.chanRead img key c.addr 16 with
        | (s3, .error e) => (s3, .error e)
        | (s3, .ok b2) =>
          if (parseCw b2).1.op = 5 then (s3, .error .program) else finish s3 (parseCw b2).1 (parseCw b2).2 c.addr
    else finish s1 c rsv a

/-- The last word that a fetch at `a` reads: a jump that stands, or the word it leads to (R329). -/
def State.lastWord (s : State) (img : Nat) (key : BitVec 4) (a : Nat) : Nat :=
  match s.chanRead img key a 16 with
  | (_, .error _) => a
  | (s1, .ok b) =>
    let c := (parseCw b).1
    if c.op ≠ 5 ∨ c.cmd % 32 ≠ 0 ∨ (parseCw b).2 ≠ 0 ∨ c.flags.toNat / 64 ≠ 0 ∨ c.addr % 16 ≠ 0 then a
    else match s1.chanRead img key c.addr 16 with
      | (_, .error _) => a
      | (_, .ok b2) => if (parseCw b2).1.op = 5 then a else c.addr

/-- The guest absolute address of byte `o` of a word's data, and how many bytes follow it in one piece (R329, LIST). -/
def State.dataAddr (s : State) (img : Nat) (key : BitVec 4) (c : Cw) (o : Nat) : ChRes (Nat × Nat) :=
  if !c.list then (s, .ok (c.addr + o, c.count - o))
  else match s.chanRead img key c.addr 8 with
    | (s1, .error e) => (s1, .error e)
    | (s1, .ok b) =>
      let first := beNat b
      let cap := 4096 - first % 4096
      if o < cap then (s1, .ok (first + o, cap - o))
      else match s1.chanRead img key (c.addr + 8 * ((o - cap) / 4096 + 1)) 8 with
        | (s2, .error e) => (s2, .error e)
        | (s2, .ok w) => (s2, .ok (beNat w + (o - cap) % 4096, 4096 - (o - cap) % 4096))

/-- n bytes of a word's data from byte o, gathered piece by piece. -/
def State.gather (s : State) (img : Nat) (key : BitVec 4) (c : Cw) : Nat → Nat → Nat → ChRes (List Byte)
  | 0, _, _ => (s, .ok [])
  | fuel + 1, o, n =>
    if n = 0 then (s, .ok [])
    else match s.dataAddr img key c o with
      | (s1, .error e) => (s1, .error e)
      | (s1, .ok (ga, m)) =>
        let k := min n m
        match s1.chanRead img key ga k with
        | (s2, .error e) => (s2, .error e)
        | (s2, .ok b) => match State.gather s2 img key c fuel (o + k) (n - k) with
          | (s3, .error e) => (s3, .error e)
          | (s3, .ok r) => (s3, .ok (b ++ r))

/-- The bytes of a received frame stored from byte o of a word's data on. -/
def State.scatter (s : State) (img : Nat) (key : BitVec 4) (c : Cw) : Nat → Nat → List Byte → ChRes Unit
  | 0, _, _ => (s, .ok ())
  | fuel + 1, o, data =>
    if data.isEmpty then (s, .ok ())
    else match s.dataAddr img key c o with
      | (s1, .error e) => (s1, .error e)
      | (s1, .ok (ga, m)) =>
        let k := min data.length m
        match s1.chanWrite img key ga (data.take k) with
        | (s2, .error e) => (s2, .error e)
        | (s2, .ok _) => State.scatter s2 img key c fuel (o + k) (data.drop k)

/-! ## Refused and uncorrectable copies (R355, R360, R434, R436) -/

/-- Kind 0x66 for the errors that a read has found: injected when every one of them is, coincident when some are (R360,
R470). -/
def State.copyMsg (s : State) (die unit cls p : Nat) (img : Option Nat) (l : List ArrErr) : State :=
  s.sendMsg ⟨msgWord die unit 0x66 cls (injOf l).1 p, s.dieTod die, img, (injOf l).2⟩

/-- The unit of a record (R26). -/
def Rec.unit : Rec → Nat
  | .entry => 0x61
  | _ => 0x62

/-- What a unit's read of one copy finds: out of reach, good, or uncorrectable with the errors found. -/
inductive Copy where
  | gone
  | good
  | bad (l : List ArrErr)
  deriving DecidableEq, Repr

/-- A unit reads one copy; a bank it does not own refuses it (R434, R436). -/
def State.readCopyOf (s : State) (r : Rec) (p : Nat) (m : Bool) : State × Copy :=
  let cell := recCell r p m
  if s.dieState (recDie p m) = 3 then (s, .gone)
  else if s.recTaken r p m then (s.wsDeny cell 0x7E, .gone)
  else if s.recGone r p m then (s, .gone)
  else
    let l := s.cellErrs cell r.size
    let x := s.wsErrors cell r.size 0x7E
    (x.1, if x.2 then .bad l else .good)

/-- A record of one copy rewritten from the other. -/
def State.copyRec (s : State) (r : Rec) (p : Nat) (m : Bool) : State :=
  (match r with
  | .word => s.putSlot m p ((s.slotCopy m p).withWord (s.slotCopy (!m) p))
  | .body => s.putSlot m p ((s.slotCopy (!m) p).withWord (s.slotCopy m p))
  | .entry => s.putEntry m p (s.entryCopy (!m) p)).wsClean (recCell r p m) r.size

/-- A record read, the copy m first. An uncorrectable copy is rewritten from the other where that one is good, with kind 0x66; the errors
found come back when no copy is good and one at least is uncorrectable (R355). -/
def State.readRec (s : State) (r : Rec) (p : Nat) (m : Bool) : State × Option (List ArrErr) :=
  match s.readCopyOf r p m with
  | (s1, .good) => (s1, none)
  | (s1, c) => match c, s1.readCopyOf r p (!m) with
    | .bad l, (s2, .good) => ((s2.copyRec r p m).copyMsg (recDie p m) r.unit 1 p none l, none)
    | .bad l, (s2, .bad k) => (s2, some (l ++ k))
    | .bad l, (s2, .gone) => (s2, some l)
    | _, (s2, .bad k) => (s2, some k)
    | _, (s2, _) => (s2, none)

/-- Both copies of p's records are written anew: their errors end. -/
def State.cleanRecs (s : State) (p : Nat) (rs : List Rec) : State :=
  rs.foldl (fun t r => (t.wsClean (recCell r p false) r.size).wsClean (recCell r p true) r.size) s

/-- An exchange whose journal is lost in both copies, or whose subchannel is (R355). -/
def State.endLost (s : State) (p : Nat) (wordLost bodyLost sctLost : Bool) (l : List ArrErr) : State :=
  let x := s.slot p
  let e := s.sub p
  let img := if sctLost then x.image else e.image
  let gen := match s.image img with | some i => i.gen | none => x.gen
  let t : Status := { start := true, halt := false, clear := false, active := false, code := 7, dev := 0, chan := 0, residual := 0,
                      addr := if wordLost then 0 else x.cwa + 16, xid := 0, gen := gen, path := if wordLost then 0 else x.path }
  let s1 := s.conclude p t
  let s2 := s1.modSlot p fun y => { y with image := img, gen := gen, param := if bodyLost then 0 else y.param, pend := true, st := .posted,
                                           durable := true, eng := none }
  let s3 := (s2.cleanRecs p [.word, .body]).addCond p
  if sctLost then s3 else s3.copyMsg (s.servingDie p) 0x62 4 p (some img) l

/-- What follows where the state word, the body or the entry of p is lost, with the errors found (R355). -/
def State.settleLost (s : State) (p : Nat) (word body entry : Option (List ArrErr)) : State :=
  let x := s.slot p
  let both := word.getD [] ++ body.getD []
  let s1 := if word.isSome || body.isSome then
      (if x.st == .free then ((s.setSlot p Slot.none).cleanRecs p [.word, .body]).copyMsg (s.servingDie p) 0x62 1 p none both
       else s.endLost p word.isSome body.isSome entry.isSome both)
    else s
  match entry with
  | none => s1
  | some l =>
    let y := s1.slot p
    let s2 := if y.running || y.stCode == 5 then s1.endLost p false false true [] else s1
    let s3 := (s2.setSub p { Sct.none with image := 0xFF }).cleanRecs p [.entry]
    if y.st == .free then s3.copyMsg (s.servingDie p) 0x61 5 p none l
    else s3.copyMsg (s.servingDie p) 0x61 4 p (some y.image) l

/-- The entry and the slot of p are read by their units (R355, R434). -/
def State.readEntry (s : State) (p : Nat) : State :=
  let e := s.readRec .entry p (s.useMirror p)
  let w := e.1.readRec .word p (s.useMirror p)
  let b := w.1.readRec .body p (s.useMirror p)
  if e.2.isNone && w.2.isNone && b.2.isNone then b.1 else b.1.settleLost p w.2 b.2 e.2

/-- The entry of p is read by its unit (R355). -/
def State.readSct (s : State) (p : Nat) : State :=
  let e := s.readRec .entry p (s.useMirror p)
  if e.2.isNone then e.1 else e.1.settleLost p none none e.2

/-! ## Frames of an exchange -/

/-- A frame of exchange p on login k (R369, R372). -/
def State.exFrameOn (s : State) (k p typ seq : Nat) (payload : List Byte) : Frame :=
  let x := s.slot p
  let v := s.lgnVer k
  { s.frameOn k typ payload with xid := xidOf x p, seq := seq, dev := (s.sub p).dev,
                                 image := if 4 ≤ v then x.image else 0, gen := if 4 ≤ v then x.gen else 0 }

/-- A frame of exchange p on its login. -/
def State.exFrame (s : State) (p typ seq : Nat) (payload : List Byte) : Frame := s.exFrameOn (s.xfer p).login p typ seq payload

/-- The login an ABORT goes out on: the one it was last sent on, or that of any usable path of the subchannel (R387). -/
def State.abortLogin (s : State) (a : AbortRec) : Option Nat :=
  if s.lgnState a.login = 3 ∧ loginDie a.login ≠ 0 then some a.login
  else ((s.pathOrder a.p (s.slot a.p).path).find? fun i => s.pathUsable a.p i 0xFF).map fun i => pathLogin ((s.sub a.p).path i)

/-- An ABORT is kept until ABORT-ACK arrives (R387). -/
def State.keepAbort (s : State) (a : AbortRec) : State := { s with aborts := s.aborts.filter (fun b => b.xid != a.xid) ++ [a] }

/-- An ABORT is sent and kept. -/
def State.sendAbort (s0 : State) (a0 : AbortRec) (retx : Bool) : State :=
  match s0.abortLogin a0 with
  | none => s0.keepAbort a0
  | some k =>
    let a := { a0 with login := k }
    let s := s0.keepAbort a
    let v := s.lgnVer k
    let f := { s.frameOn k 0x18 (beBytes 1 a.reason ++ [0, 0, 0]) with
               xid := a.xid, dev := (s.sub a.p).dev, image := if 4 ≤ v then a.image else 0, gen := if 4 ≤ v then a.gen else 0,
               flags := if retx then 0x40 else 0 }
    s.sendFrame k f

/-- An exchange ends locally from START to DATA-DONE (R338): status block, STATUS, and an ABORT. The journal unit reads the slot
first, which may end it as lost (R355). -/
def State.localEnd (s0 : State) (p : Nat) (halt clear : Bool) (code chan reason : Nat) : State :=
  let s := s0.readEntry p
  let x := s.slot p
  let y := s.xfer p
  if !x.running then s else
  let residual := match y.cw with | some c => c.count - (if c.toDevice then y.txOff else y.rxOff) | none => 0
  let s1 := s.sendAbort ⟨p, xidOf x p, reason, x.image, x.gen, 0, y.login⟩ false
  s1.conclude p (s1.mkStatus p true halt clear code 0 chan residual)

/-- The end by an error of a channel-program access or check. -/
def State.endError (s : State) (p : Nat) (e : ChErr) : State := s.localEnd p false false 1 e.bits 5

/-- The CMD of the current word becomes ready (R373). -/
def State.readyCmd (s : State) (p : Nat) (join retx : Bool) : State :=
  let y := s.xfer p
  match y.cw with
  | none => s
  | some c =>
    let f0 := s.exFrame p 0x10 y.txSeq (beBytes 1 c.cmd ++ [if join then 0x80 else 0, 0, 0] ++ beBytes 4 c.count)
    let f := if retx then { f0 with flags := 0x40 } else f0
    s.setXfer p { y with out := y.out ++ [⟨f, 0, none⟩], txSeq := (y.txSeq + 1) % 65536, cmdSent := true, cmdSeq := y.txSeq,
                         cmdAcked := false, maxCount := max y.maxCount c.count }

/-- The next DATA frame of a write or control, read from storage with its tag (R330, R389, R390); none when all are
made. -/
def State.nextData (s : State) (p : Nat) : State × Bool :=
  let x := s.slot p
  let y := s.xfer p
  match y.cw with
  | none => (s, false)
  | some c =>
    if x.st != .partnerAck || !x.durable || x.eng.isNone || !y.cmdAcked || !c.toDevice || decide (c.count ≤ y.txOff) then (s, false)
    else
      let n := min (if s.lgnJumbo y.login then 8192 else 1024) (c.count - y.txOff)
      match s.gather x.image x.key c (n / 8 + 2) y.txOff n with
      | (s1, .error e) => (s1.endError p e, false)
      | (s1, .ok b) =>
        let f0 := s1.exFrame p 0x11 y.txSeq b
        let last := decide (y.txOff + n = c.count)
        let tagged := s1.lgnVer y.login = 5
        let f : Frame := { f0 with doff := y.txOff, flags := (if last then 0x80 else 0) ||| (if tagged then 0x20 else 0),
                                   tag := if tagged then some (crc64 b) else none }
        (s1.setXfer p { y with out := y.out ++ [⟨f, 0, none⟩], txSeq := (y.txSeq + 1) % 65536, txOff := y.txOff + n }, true)

/-- Distance from a to b modulo 65,536. -/
def seqDist (a b : Nat) : Nat := (b + 65536 - a) % 65536

/-- The exchange may send a numbered frame on its login (R375). -/
def State.hasCredit (s : State) (k : Nat) : Bool :=
  let l := s.login k
  let d := (l.limit + 2 ^ 32 - l.sent) % 2 ^ 32
  decide (0 < d) && decide (d < 2 ^ 31)

/-- A frame put in its place by sequence number, counted from CUMACK: frames of an exchange are sent in that order (R321). -/
def putSeq (cum : Nat) (o : OutFrame) : List OutFrame → List OutFrame
  | [] => [o]
  | x :: r => if seqDist cum o.frame.seq < seqDist cum x.frame.seq then o :: x :: r else x :: putSeq cum o r

/-- Frames put among others by sequence number. -/
def Xfer.inOrder (y : Xfer) (l into : List OutFrame) : List OutFrame := l.foldl (fun t o => putSeq y.cum o t) into

/-- The first ready frame of an exchange leaves its port (R373), where its ACK timer starts (R378). -/
def State.emitReady (s : State) (p : Nat) : State :=
  let y := s.xfer p
  match y.out with
  | [] => s
  | o :: r => (s.emit y.login o.frame).setXfer p
      { y with out := r, unacked := y.inOrder [{ o with again := if o.resends = 0 then none else some (s.portClock (loginDie y.login) (s.lgnPort y.login)) }] y.unacked }

/-- The exchange has a frame ready, or can make one. -/
def State.hasReady (s : State) (p : Nat) : Bool :=
  let x := s.slot p
  let y := s.xfer p
  x.running && x.eng.isSome && (!y.out.isEmpty || (match y.cw with
    | some c => x.st == .partnerAck && x.durable && y.cmdAcked && c.toDevice && decide (y.txOff < c.count)
    | none => false))

/-! ## The engine acts on a durable state (R338) -/

/-- The word after a command, or the first word, becomes the command in progress. A word that fails its check is the last one
used, with residual 0 (R325, R329; log 27). -/
def State.startWord (s : State) (p a : Nat) (joined : Option Cw) : State × Bool :=
  let x := s.slot p
  match s.fetchWord p x.image x.key (s.countLimit (s.xfer p).login) a joined with
  | (s1, .error e) => (((s1.modXfer p fun y => { y with cw := none }).modSlot p fun x =>
      { x with cwa := s.lastWord x.image x.key a, done := 0 }).endError p e, false)
  | (s1, .ok (c, at_)) =>
    ((s1.modXfer p fun y => { y with cw := some c, joined := joined.isSome, txOff := 0, rxOff := 0, cmdSent := false, cmdAcked := false }).modSlot p
      fun x => { x with cwa := at_, done := 0 }, true)

/-- What follows a durable state; an exchange from START to DATA-DONE waits while no engine serves it (R341). -/
def State.actOn (s : State) (p : Nat) : State :=
  let x := s.slot p
  if x.running && x.eng.isNone then s
  else match x.st with
  | .start =>
    let r := s.startWord p x.cwa none
    if r.2 then r.1.record p .sent else r.1
  | .sent => if (s.xfer p).cmdSent then s else s.readyCmd p false false
  | .partnerAck =>
    let y := s.xfer p
    if !y.cmdSent then s.readyCmd p y.joined false
    else match y.cw with
      | some c => if y.cmdAcked && c.last && c.toDevice && c.count == 0 then s.record p .dataDone else s
      | none => s
  | .status => s.record p .posted
  | .posted => (s.modSlot p fun x => { x with pend := true, eng := none }).addCond p
  | _ => s

/-! ## Paths that fail (R339, R377, R385) -/

/-- A frame with the header of the exchange's login (R369); only version 5 tags DATA (R390). -/
def State.reframe (s : State) (p : Nat) (f : Frame) (flags : BitVec 8) : Frame :=
  let h := s.exFrame p f.typ f.seq f.payload
  let tagged := h.ver = 5 ∧ f.typ = 0x11
  { h with flags := if tagged then flags ||| 0x20 else flags &&& 0xDF, doff := f.doff, tag := if tagged then some (crc64 f.payload) else none }

/-- Outstanding frames ready again on the exchange's login, marked as retransmissions (R376), and those not sent yet with its
header. DATA that its features do not carry is made anew from the journal's SEQ and count (R338, R365). -/
def State.resendAll (s : State) (p : Nat) : State :=
  let y := s.xfer p
  let most := if s.lgnJumbo y.login then 8192 else 1024
  if (y.unacked ++ y.out).any fun o => o.frame.typ == 0x11 && decide (most < o.frame.payload.length) then
    s.setXfer p { y with out := [], unacked := [], txSeq := (s.slot p).seq, txOff := (s.slot p).done }
  else
  let again := y.unacked.map fun o => ({ frame := s.reframe p o.frame (o.frame.flags ||| 0x40), resends := o.resends, again := none } : OutFrame)
  let fresh := y.out.map fun o => { o with frame := s.reframe p o.frame o.frame.flags }
  s.setXfer p { y with out := y.inOrder again fresh, unacked := [] }

/-- A frame that a new path sends for the first time there: R377 counts resends path by path. -/
def OutFrame.fresh (o : OutFrame) : OutFrame := { o with resends := 0, again := .none }

/-- STATUS-REQ sent, one more in a row without an answer (R379). -/
def State.sendStatusReq (s : State) (p : Nat) : State :=
  (s.modXfer p fun y => { y with statusReqs := y.statusReqs + 1 }).sendFrame (s.xfer p).login (s.exFrame p 0x15 0 [])

/-- What was sent has been accepted: nothing is outstanding, and no ACK for it is awaited. -/
def State.allTaken (s : State) (p : Nat) : State := s.modXfer p fun y => { y with out := [], unacked := [] }

/-- An exchange resumes on its path from its durable state (R338, R379). -/
def State.resumeEx (s : State) (p : Nat) : State :=
  let x := s.slot p
  let y := s.xfer p
  match x.st with
  | .start => s.actOn p
  | .sent => if y.cmdSent then s.resendAll p else (s.resendAll p).actOn p
  | .partnerAck => match y.cw with
    | some c =>
      if !y.cmdSent then s.actOn p
      else if c.toDevice || !y.cmdAcked then s.resendAll p
      else (s.allTaken p).sendFrame y.login (s.exFrame p 0x17 0 (beBytes 2 x.seq ++ [0, 0]))
    | none => s
  | .dataDone => (s.allTaken p).sendStatusReq p
  | _ => s

/-- The path in use has become unusable: the next usable path, or the end with path lost (R339, R395). An exchange that no engine serves
waits (R341). The units read its records before they change them (R355). -/
def State.pathFail (s0 : State) (p : Nat) : State :=
  let s := s0.readEntry p
  let x := s.slot p
  if !x.running || x.eng.isNone then s
  else
    let next := (s.pathOrder p x.path).find? fun i =>
      s.pathUsable p i x.mask && !(s.pathSkipped p i) && pathLogin ((s.sub p).path i) != (s.xfer p).login
    match next, decide (x.retry < 3) with
    | some i, true =>
      let k := pathLogin ((s.sub p).path i)
      let s1 := s.modSlot p fun x => { x with path := i, retry := min 3 (x.retry + 1) }
      let s2 := s1.modXfer p fun y => { y with login := k, used := if y.used.contains k then y.used else y.used ++ [k],
                                               cumSeen := false, cumResent := false, statusReqs := 0,
                                               unacked := y.unacked.map OutFrame.fresh, out := y.out.map OutFrame.fresh }
      if x.durable then s2.resumeEx p else (s2.resendAll p).modXfer p fun y => { y with due := true }
    | _, _ => (s.journalSend p 0x64 1 p).localEnd p false false 2 0 4

/-- The login of an exchange's path is active on its port (R313). -/
def State.pathAlive (s : State) (p : Nat) : Bool :=
  let k := (s.xfer p).login
  s.lgnState k == 3 && s.portEn (loginDie k) (s.lgnPort k) && s.dieState (loginDie k) != 3

/-- A new engine resumes an exchange: once its state is durable, on its path or on another (R338, R339). -/
def State.resumeOn (s : State) (p : Nat) : State :=
  let x := s.slot p
  if !x.running || x.eng.isNone then s
  else if !(s.pathAlive p) then s.pathFail p
  else if x.durable then s.resumeEx p
  else s.modXfer p fun y => { y with due := true }

/-- Exchanges that use a login. -/
def State.exchangesOn (s : State) (k : Nat) : List Nat := s.slotKeys.filter fun p => (s.slot p).running && (s.xfer p).login == k

/-- A login is lost (R385): its exchanges move, kind 0x6B, and a new login begins. -/
def State.loseLogin (s : State) (k : Nat) (again : Bool) : State :=
  if s.lgnState k ≠ 3 then s
  else
    let ps := s.exchangesOn k
    let s1 := s.clearLogin k (if again then 1 else 0)
    let s2 := ps.foldl (fun t p => t.pathFail p) s1
    let s3 := s2.portSend (loginDie k) (s.lgnPort k) 0x6B 1 (loginSlot k)
    if !again || !(s3.lgnEn k) then s3.setLgn k 53 3 0
    else s3.beginLogin k 1

/-- Every login of a port is lost. -/
def State.losePort (s : State) (die port : Nat) (again : Bool) : State :=
  (s.slotsOn die port).foldl (fun t k => t.loseLogin k again) s

/-! ## A state becomes durable (R338, R341) -/

/-- A recorded state becomes durable in both copies, and the engine acts on it, or resumes where it is new (R338, R341). -/
def State.journalDurable (s0 : State) (p : Nat) : State :=
  let s := s0.readEntry p
  let x := s.slot p
  if x.durable || x.st == .free || !(s.operable p) then s
  else
    let s1 := s.modSlot p fun x => { x with durable := true }
    if (s.xfer p).due && x.running then (s1.modXfer p fun y => { y with due := false }).resumeOn p else s1.actOn p

/-! ## I/O instructions on a subchannel that R309 has found (R322 to R326, R352) -/

/-- The operation block's fields (R323). -/
structure Orb where
  param : Dword
  key : BitVec 4
  mask : BitVec 8
  cpa : Nat
  deriving DecidableEq, Repr

/-- The 32 bytes of an operation block; none when a reserved field is nonzero or the program address is not aligned. -/
def parseOrb (b : List Byte) : Option Orb :=
  if blkNat b 8 1 % 16 ≠ 0 ∨ blkNat b 10 6 ≠ 0 ∨ blkNat b 24 8 ≠ 0 ∨ blkNat b 16 8 % 16 ≠ 0 then none
  else some ⟨BitVec.ofNat 64 (blkNat b 0 8), BitVec.ofNat 4 (blkNat b 8 1 / 16), BitVec.ofNat 8 (blkNat b 9 1), blkNat b 16 8⟩

/-- IOSTART (R322, R324, R336, R340). -/
def State.ioStart (s0 : State) (img p : Nat) (o : Orb) : State × BitVec 2 :=
  let s := s0.readEntry p
  let e := s.sub p
  let x := s.slot p
  let path := (s.pathOrder p x.lastPath).find? fun i => s.pathUsable p i o.mask
  match s.image img with
  | none => (s, 3)
  | some im =>
    if !e.mapped || !e.en || !(s.served p) || !(s.operable p) then (s, 3)
    else match path with
    | none => (s, 3)
    | some i =>
      if x.pend || x.st == .posted then (s, 1)
      else if x.st != .free || decide (im.slots ≤ s.occupancy img) || im.st != .operating then (s, 2)
      else if !(s.mirrorOk p) && (s.rf (rCs (ownerDie p) 0) 62 1 == 1) && !(s.useMirror p) then ((s.denyWrite .word p).denyWrite .body p, 2)
      else
        let k := pathLogin (e.path i)
        let s1 := s.setSub p { e with param := o.param }
        let new : Slot := { x with st := .start, path := i, retry := 0, image := img, incarn := (x.incarn + 1) % 32768, gen := im.gen,
                                   seq := 0, cwa := o.cpa, param := o.param, key := o.key, mask := o.mask, done := 0,
                                   status := Status.none, pend := false, durable := false }
        let s2 := ((s1.setSlot p new).wsClean (recCell .body p (s.fromMirror .body p)) 64).setXfer p { Xfer.none with login := k, beganVer := s.lgnVer k, used := [k] }
        let s3 := s2.assign p [0x3001]
        (if s3.mirrorOk p then s3 else { s3 with unmirrored := if s3.unmirrored.contains p then s3.unmirrored else s3.unmirrored ++ [p] }, 0)

/-- IOHALT (R322, R352). -/
def State.ioHalt (s0 : State) (p : Nat) : State × BitVec 2 :=
  let s := s0.readEntry p
  let e := s.sub p
  let x := s.slot p
  if !e.mapped || !e.en || !(s.operable p) then (s, 3)
  else if x.pend || x.st == .posted then (s, 1)
  else if x.st == .status && (x.status.halt || x.status.clear) then (s, 2)
  else if x.st == .status then (s, 0)
  else if x.running then (s.localEnd p true false 3 0 1, 0)
  else ((s.modSlot p fun y => { y with image := e.image, gen := (match s.image e.image with | some i => i.gen | none => 0), param := e.param }).conclude p
    { (s.mkStatus p false true false 3 0 0 0) with gen := (match s.image e.image with | some i => i.gen | none => 0) }, 0)

/-- IOCLEAR (R338, R352). The clear status that takes the place of a discarded status keeps its NOTIFY, which R352 leaves open (DESIGN CHOICE,
log 27). -/
def State.ioClear (s0 : State) (p : Nat) : State × BitVec 2 :=
  let s := s0.readEntry p
  let e := s.sub p
  let x := s.slot p
  if !e.mapped || !(s.operable p) then (s, 3)
  else if x.running then (s.localEnd p false true 4 0 2, 0)
  else if x.st == .free then
    ((s.modSlot p fun y => { y with image := e.image, gen := (match s.image e.image with | some i => i.gen | none => 0), param := e.param }).conclude p
      { (s.mkStatus p false false true 4 0 0 0) with gen := (match s.image e.image with | some i => i.gen | none => 0) }, 0)
  else
    ((({ s with conds := s.conds.filter fun c => c.2.2 != p } : State).setXfer p Xfer.none).conclude p (s.mkStatus p x.status.start false true 4 0 0 0), 0)

/-- IOTEST: the bytes to store, the state after, and the CC (R322, R332, R333). -/
def State.ioTest (s0 : State) (p : Nat) : State × List Byte × BitVec 2 :=
  let s := s0.readEntry p
  let e := s.sub p
  let x := s.slot p
  if !e.mapped || !(s.operable p) then (s, [], 3)
  else if x.pend then
    let s1 : State := { s with conds := s.conds.filter fun c => c.2.2 != p }
    let b := x.status.bytes true
    if x.st == .posted then (s1.freeSlot p, b, 0)
    else ((s1.modSlot p fun y => { y with pend := false, status := Status.none }), b, 0)
  else (s, ({ Status.none with active := x.running || x.st == ExSt.status } : Status).bytes false, 1)

/-- The paths of a subchannel, bit 7 for path 0. -/
def pathBits (f : Nat → Bool) : Nat := ((List.range 8).map fun i => if f i then 2 ^ (7 - i) else 0).sum

/-- IOSTORE: the SIB's 48 bytes (R326). -/
def State.sib (s : State) (p : Nat) : List Byte :=
  let e := s.sub p
  let x := s.slot p
  let cur := if x.pend then x.status.bytes true else ({ Status.none with active := x.running || x.st == ExSt.status } : Status).bytes false
  beBytes 8 e.param.toNat ++ beBytes 1 (e.en.toNat * 128 + e.isc) ++ [e.mask] ++ beBytes 1 (pathBits fun i => pathV (e.path i)) ++
  beBytes 1 (pathBits fun i => s.pathUsable p i 0xFF) ++ beBytes 2 e.dev ++ [0, 0] ++ cur

/-- IOMODIFY (R322, R326); the reserved fields of the SIB are checked before. -/
def State.ioModify (s0 : State) (p : Nat) (b : List Byte) : State × BitVec 2 :=
  let s := s0.readEntry p
  let e := s.sub p
  let x := s.slot p
  if !e.mapped || !(s.operable p) then (s, 3)
  else if x.pend || x.st == .posted then (s, 1)
  else if x.st != .free then (s, 2)
  else (s.setSub p { e with param := BitVec.ofNat 64 (blkNat b 0 8), en := (b.getD 8 0).getLsbD 7, isc := blkNat b 8 1 % 8,
                            mask := b.getD 9 0 }, 0)

/-! ## Image set-up (R315 to R320, R347 to R349) -/

/-- The CPUs of a 24-byte CPU map, in ascending number (R64, R316). -/
def cpuMap (b : List Byte) : List Nat := (List.range 192).filter fun n => (b.getD (n / 8) 0).getLsbD (7 - n % 8)

/-- The range check of CSIMAGE create and modify (R317). -/
def State.imageBad (s : State) (b : List Byte) : Bool :=
  let key := blkNat b 2 2
  decide (blkNat b 1 1 < 1) || decide (4 < blkNat b 1 1) || (decide (255 < key) && key != 0xFFFF) ||
  (cpuMap ((b.drop 0x10).take 24)).any (fun n => decide (s.activeCount ≤ n)) ||
  decide (blkNat b 8 8 % 0x4000 ≠ 0) || decide (2 ^ 50 ≤ blkNat b 8 8) ||
  decide (blkNat b 0x28 8 % 0x1000 ≠ 0) || decide (2 ^ 50 ≤ blkNat b 0x28 8 % 2 ^ 63)

/-- The fields a CSIMAGE block gives. -/
def imageFields (e : Image) (b : List Byte) : Image :=
  { e with root := blkNat b 8 8, cpus := cpuMap ((b.drop 0x10).take 24), sets := blkNat b 1 1,
           keySlot := if blkNat b 2 2 = 0xFFFF then none else some (blkNat b 2 2),
           keyen := decide (2 ^ 63 ≤ blkNat b 0x28 8), keytab := blkNat b 0x28 8 % 2 ^ 63 }

/-- The vault key slot is held by another image. -/
def State.keyHeld (s : State) (img key : Nat) : Bool :=
  key != 0xFFFF && (List.range 96).any fun i => i != img && (match s.image i with | some e => e.keySlot == some key | none => false)

/-- Every IRUN for an image shall end with the new generation (R67, R348). -/
def State.endIruns (s : State) (img : Nat) (gen : BitVec 16) : State :=
  (s.units.map (·.1)).foldl (fun t u =>
    match (t.unit u).irun with
    | some r => if r.image = img then t.modUnit u fun c => { c with imgReset := some gen } else t
    | none => t) s

/-- What is pending for an image at its CPUs is discarded: orders sent within it, machine checks, and what could not
be stored (R67, R68, R92). -/
def State.dropImageSigs (s : State) (img : Nat) : State :=
  let keep (o : Sig) : Bool := o.image != some img
  (s.units.map (·.1)).foldl (fun t u => t.modUnit u fun c =>
    { c with extCall := c.extCall.filter keep, emergency := c.emergency.filter keep, heldSigs := c.heldSigs.filter keep,
             mchecks := c.mchecks.filter (fun m => m.image != some img), unstored := c.unstored.filter fun x => x.1 != img }) { s with held := s.held.filter fun x => keep x.2 }

/-- CSRESET of a quiesced image (R348). -/
def State.imageReset (s : State) (img : Nat) (e : Image) : State :=
  let gen := e.gen + 1
  let s0 := (s.slotsOfImage img).foldl (fun t p => t.readEntry p) s
  let s1 := (s0.slotsOfImage img).foldl (fun t p => t.freeSlot p) s0
  let s2 : State := { s1 with conds := s1.conds.filter fun c => c.1 != img }
  let s3 := (s2.endIruns img gen).dropImageSigs img
  s3.setImage img (some { e with gen := gen, st := .operating, grace := none, stopMsg := 0 })

/-- A subchannel is unmapped (R318). -/
def State.unmap (s : State) (p : Nat) : State := (s.setSub p { Sct.none with image := 0xFF }).cleanRecs p [.entry]

/-- The outcome of a CSSET instruction: CC 0 done, or CC 2 with a reason. -/
inductive CsOut where
  | done (s : State)
  | refused (s : State) (reason : Nat)
  /-- CSQUIESCE: exchanges remain -/
  | remain (s : State) (n : Nat)

/-- An image as CSIMAGE creates it, before the fields of its block (R303, R316). -/
def freshImage : Image :=
  { st := .operating, gen := 0, root := 0, cpus := [], sets := 1, keySlot := none, keyen := false, keytab := 0, slots := 1024,
    weight := 100, grace := none, stopMsg := 0 }

/-- CSIMAGE with its 64-byte block (R316, R317, R349). -/
def State.csImage (s0 : State) (img : Nat) (b : List Byte) : CsOut :=
  let f := blkNat b 0 1
  let s := if f = 2 ∨ f = 3 then (s0.subKeys.filter fun p => (s0.sub p).mapped && (s0.sub p).image == img).foldl State.readSct s0 else s0
  if f < 1 ∨ 3 < f ∨ blkNat b 4 4 ≠ 0 ∨ blkNat b 0x30 16 ≠ 0 then .refused s 0x81
  else if f = 3 then match s.image img with
    | some e =>
      if e.st ≠ .quiesced then .refused s 0x83
      else
        let s1 := s.imageReset img e
        let s2 := (s1.subKeys.filter fun p => (s1.sub p).mapped && (s1.sub p).image == img).foldl (fun t p => t.unmap p) s1
        .done (s2.setImage img none)
    | none => .refused s 0x81
  else if s.imageBad b then .refused s 0x81
  else if s.keyHeld img (blkNat b 2 2) then .refused s 0x82
  else match s.image img, f with
    | some _, 1 => .refused s 0x01
    | none, 1 => .done (s.setImage img (some (imageFields freshImage b)))
    | some e, _ =>
      if s.subKeys.any (fun p => (s.sub p).mapped && (s.sub p).image == img && decide (blkNat b 1 1 ≤ (s.sub p).set)) then .refused s 0x02
      else .done (s.setImage img (some (imageFields e b)))
    | none, _ => .refused s 0x81

/-- A path descriptor that CSMAP refuses (R312, R318). PORT is looked at only where V is 1, since only then the descriptor names a port
(DEDUCED, log 27). -/
def State.pathBad (s : State) (d : Nat) : Bool :=
  let w := BitVec.ofNat 64 d
  decide (fget w 29 2 ≠ 0) || decide (fget w 12 12 ≠ 0) ||
  (bit w 31 && (decide (12 ≤ fget w 24 4) || s.portFused (fget w 24 4)))

/-- CSMAP with its 64-byte block (R318); `e` is the image's entry. -/
def State.csMap (s0 : State) (img : Nat) (e : Image) (b : List Byte) : CsOut :=
  let f := blkNat b 0 1
  let set := blkNat b 1 1
  let num := blkNat b 2 2
  let p := blkNat b 4 4
  let paths := (List.range 8).map fun i => blkNat b (0x10 + 4 * i) 4
  if f < 1 ∨ 3 < f ∨ 131071 < p ∨ blkNat b 10 6 ≠ 0 ∨ blkNat b 0x30 16 ≠ 0 ∨ paths.any s0.pathBad = true then .refused s0 0x81
  else
    let s := s0.readEntry (if f = 1 then p else (s0.findSub img set num).getD p)
    let at_ := s.findSub img set num
    if f = 1 ∧ ((s.sub p).mapped = true ∨ at_.isSome = true) then .refused s 0x82
    else if e.sets ≤ set then .refused s 0x01
    else if f ≠ 1 ∧ at_.isNone = true then .refused s 0x02
    else
      let q := if f = 1 then p else at_.getD 0
      if (f ≠ 1 ∧ (s.slot q).st ≠ .free) ∨ s.mirrorUp = false then .refused s 0x83
      else
        let ws := paths.map fun x => BitVec.ofNat 32 x
        if f = 1 then .done ((s.setSub p { s.sub p with
          mapped := true, en := false, isc := 0, image := img, set := set, mask := 0xFF, num := num, dev := blkNat b 8 2, param := 0,
          paths := ws }).cleanRecs p [.entry])
        else if f = 2 then .done (s.unmap q)
        else .done (s.setSub q { s.sub q with dev := blkNat b 8 2, paths := ws })

/-- CSSHARE with its 16-byte block (R319, R320). -/
def State.csShare (s : State) (img : Nat) (e : Image) (b : List Byte) : CsOut :=
  let slots := blkNat b 0 4
  let weight := blkNat b 4 2
  if 131072 < slots ∨ weight < 1 ∨ 1000 < weight ∨ blkNat b 6 10 ≠ 0 then .refused s 0x81
  else .done (s.setImage img (some { e with slots := slots, weight := weight }))

/-- Exchanges of an image that are neither POSTED nor FREE. -/
def State.unposted (s : State) (img : Nat) : List Nat := (s.slotsOfImage img).filter fun p => (s.slot p).st != .posted

/-- CSQUIESCE with a grace time in microseconds (R347). -/
def State.csQuiesce (s : State) (img : Nat) (e : Image) (grace : Nat) : CsOut :=
  if 1000000 < grace then .refused s 0x81
  else
    let s1 := if e.st = .operating ∨ e.st = .stopped then
        s.setImage img (some { e with st := .quiescing, grace := some (e.grace.getD grace) }) else s
    let n := (s1.unposted img).length
    if n ≠ 0 then .remain s1 n
    else match s1.image img with
      | some x => .done (s1.setImage img (some { x with st := .quiesced, grace := none }))
      | none => .done s1

/-- CSRESET (R348). -/
def State.csReset (s : State) (img : Nat) (e : Image) : CsOut :=
  if e.st ≠ .quiesced then .refused s 0x83 else .done (s.imageReset img e)

/-- The grace time expires (R347), also where the image has been stopped while it was quiescing (R454). -/
def State.graceExpiry (s : State) (img : Nat) : State :=
  match s.image img with
  | none => s
  | some e =>
    if e.grace = none then s
    else
      let s1 := s.setImage img (some { e with grace := none })
      (s1.slotKeys.filter fun p => (s1.slot p).image == img && (s1.slot p).running).foldl (fun t0 p =>
        let t := t0.readEntry p
        if (t.slot p).running then (t.journalSend p 0x65 0 (img <<< 33 + p)).localEnd p false false 5 0 3 else t) s1

/-! ## Mirror link, engines and dies (R340 to R345, R359, R361, R362) -/

def State.setLink (s : State) (n : Nat) : State := (s.setRf (rCs 8 0) 40 8 n).setRf (rCs 9 0) 40 8 n

/-- The mirror link goes down (R340). R360 does not say which die's mirror-link unit reports the link that both share: CH0's sends kinds
0x62 and 0x63, once (DESIGN CHOICE, log 25). -/
def State.mirrorDown (s : State) : State :=
  if s.rf (rCs 8 0) 40 8 = 0 ∧ s.rf (rCs 9 0) 40 8 = 0 then s else (s.setLink 0).condBegin 8 0x63 0x62 3 0 0

/-- The link returns and the copy starts; a die that has failed copies nothing. -/
def State.mirrorReturn (s : State) : State :=
  if s.rf (rCs 8 0) 40 8 = 0 ∧ s.dieState 8 ≠ 3 ∧ s.dieState 9 ≠ 3 then s.setLink 1 else s

/-- The own copy of p copied to the other die. A mirror bank that does not take it refuses: state words arrive on port B (R436, R439). -/
def State.copyOver (s : State) (p : Nat) : State :=
  [Rec.entry, .word, .body].foldl (fun t r =>
    let cell := recCell r p true
    if t.recTaken r p false then t
    else if r = .word ∧ t.rf (rBank cell) 61 1 = 0 then t.wsDeny cell 0x40
    else if r ≠ .word ∧ t.recTaken r p true = true then t.wsDeny cell 0x7E
    else t.copyRec r p true) s

/-- The copy ends: both dies hold both halves. -/
def State.mirrorCopied (s : State) : State :=
  if s.rf (rCs 8 0) 40 8 ≠ 1 then s
  else
    let s0 := (s.subKeys ++ s.slotKeys).eraseDups.foldl (fun t p => (t.readEntry p).copyOver p) s
    let s1 : State := { s0 with unmirrored := [] }
    ((s1.setLink 2).condEnd 8 0x63 0x62 0).send 8 0x63 0x63 0 0

/-- Exchanges that have lost their engine are assigned anew (R341), which R355 calls a takeover; those that find an engine resume.
One still in START is new work for its engine too (DEDUCED, log 27: 95_what_each_step_holds.md lists 0x3001 here as well). -/
def State.reassignAll (s : State) (ps : List Nat) : State :=
  ps.foldl (fun t p =>
    let t1 := t.readEntry p
    (t1.assign p (if (t1.slot p).st = .start then [0x3001, 0x3002] else [0x3002])).resumeOn p) s

def State.reassign (s : State) (d e : Nat) : State := s.reassignAll (s.assignedTo d e)

/-- An engine fails by a hardware fault, an exigent machine check or an interruption it cannot take (R341, R359). EN is as
it was: it is cleared before it is set again (R21). Kind 0x60 counts the exchanges that have found another engine (R360). -/
def State.engineFail (s : State) (d e : Nat) (inj : Bool) : State :=
  if !(s.engineRuns d e) then s
  else
    let ps := s.assignedTo d e
    let s1 := (s.setRf (rCe d e 0) 40 8 2).modUnit (engUnit d e) fun c => { c with running := false }
    let s2 := s1.reassignAll ps
    s2.send d e 0x60 2 (e <<< 32 + (ps.filter fun p => (s2.slot p).eng.isSome).length) inj

/-- EN of a running engine written 0 (R341). -/
def State.engineStop (s : State) (d e : Nat) : State :=
  let s0 := s.setRf (rCe d e 0) 63 1 0
  if !(s.engineRuns d e) then s0
  else ((s0.setRf (rCe d e 0) 40 8 0).modUnit (engUnit d e) fun c => { c with running := false }).reassign d e

/-- The check of CE.CTL.EN (R362). A reassignment completes in the step that begins it (95_what_each_step_holds.md), so no step of the
model meets 0x83. -/
def State.ceCheck (s : State) (d e : Nat) : Nat :=
  let cell := wsCell d (s.rf (rCe d e 8) 13 12 * 0x2000)
  if s.bankOwner cell ≠ 1 + e then 0x82
  else if (sget (fun _ => none) s.engineFw d).isNone then 0x01
  else if !(s.assignedTo d e).isEmpty then 0x83
  else 0

/-- An engine begins with the PSW read, every other register 0 but its prefix, or fails where there is none that the small
profile may load (R58). -/
def State.engineRun (s : State) (d e pre : Nat) : Option Psw → State
  | some p =>
    if newPswOk (engUnit d e) s.freshUnit p then
      s.setUnit (engUnit d e) { (s.freshUnit.setC 3 (BitVec.ofNat 64 pre)) with psw := p, running := true, stopped := false }
    else s.engineFail d e false
  | none => s.engineFail d e false

/-- An engine starts at its restart new PSW with c3 from CE.PREFIX (R356, R358), or fails on an invalid or uncorrectable one (R359, R434). -/
def State.engineStart (s : State) (d e : Nat) : State :=
  let pre := s.rf (rCe d e 8) 13 12 * 0x2000
  let r := (s.setRf (rCe d e 0) 40 8 1).wsErrors (wsCell d (pre + 0x1B0)) 16 (1 + e)
  r.1.engineRun d e pre (if r.2 then none else Psw.ofBytes (s.wsBytes (wsCell d (pre + 0x1B0)) 16))

/-- Exchanges that waited for an engine are assigned when one runs (R341). -/
def State.assignWaiting (s : State) : State :=
  s.reassignAll (s.slotKeys.filter fun p => (s.slot p).running && (s.slot p).eng.isNone)

def State.ceEnable (s : State) (d e : Nat) : State :=
  if s.rf (rCe d e 0) 63 1 = 1 then s
  else
    let r := s.ceCheck d e
    let s1 := (s.setRf (rCe d e 0) 48 8 r).setRf (rCe d e 0) 63 1 (if r = 0 then 1 else 0)
    if r = 0 then (s1.engineStart d e).assignWaiting else s1

/-- The check of CS.CTL.EN (R361). -/
def State.csCheck (s : State) (d : Nat) : Nat :=
  let other := 17 - d
  if s.csEn other = true ∧ sget (fun _ => none) s.engineFw d ≠ sget (fun _ => none) s.engineFw other then 0x84
  else if (List.range 72).any (fun n => s.bankOwner (wsCell d (n * 0x40000)) != 0x7E) then 0x82
  else if !((List.range 48).any fun e => s.engineRuns d e) then 0x01
  else 0

def State.csEnable (s : State) (d : Nat) : State :=
  if s.csEn d then s
  else
    let r := s.csCheck d
    let s1 := (s.setRf (rCs d 0) 48 8 r).setRf (rCs d 0) 63 1 (if r = 0 then 1 else 0)
    if r = 0 ∧ s.dieState d ≠ 3 then s1.setRf (rCs d 0) 32 8 1 else s1

/-- CS.CTL.EN written 0: the die no longer serves. -/
def State.csDisable (s : State) (d : Nat) : State :=
  let s1 := s.setRf (rCs d 0) 63 1 0
  if s.dieState d = 3 then s1 else s1.setRf (rCs d 0) 32 8 0

/-- A WD machine check to an image (R86, R344): at its lowest-numbered active CPU. -/
def State.wdImage (s : State) (img : Nat) (m : Msg) : State :=
  match s.image img with
  | none => s
  | some e => match e.cpus.filter fun n => s.cmapState n == 1 || s.cmapState n == 2 with
    | [] => s
    | c :: cs => s.pendMc (cs.foldl min c) { image := some img, code := setBit 0 61 true, msg := m.word, tod := m.tod, addr := 0 }

/-- Byte i of a row is enabled: bit 15 for byte 0 (R440). -/
def enabled (be : BitVec 16) (i : Nat) : Bool := be.getLsbD (15 - i)

/-- The journal unit of the die that has taken p over writes its mirror state word through port A, with the bytes of `b.aBe`, while a
mirror write still in flight arrives on port B (R440): B's bytes stand where A enables none. Where both enable a byte the collision is
recorded, and the journal unit rewrites the word from its own record. Port B is refused while PORTB is 0 (R439). -/
def State.collide (s : State) (p : Nat) (b : PortBWrite) : State :=
  let cell := recCell .word p true
  let lo := cell % 0x4000000
  if !(s.useMirror p) || s.recTaken .word p true || b.aBe == 0 || b.bBe == 0 then s
  else if s.rf (rBank cell) 61 1 = 0 then s.wsDeny cell 0x40
  else
    let both := b.aBe &&& b.bBe
    if both = 0 then
      let old := s.recBytes .word p true
      s.putRec .word p true ((List.range 16).map fun i =>
        if enabled b.bBe i then BitVec.ofNat 8 (b.data.toNat / 2 ^ (8 * (15 - i))) else old.getD i 0)
    else
      let v := BitVec.ofNat 64 (2 ^ 63 + (lo / 0x40000) <<< 56 + (lo % 0x40000 / 16) <<< 32 + b.aBe.toNat <<< 16 + b.bBe.toNat)
      ((s.setReg (rWs cell 0x28) v).errInc (rWs cell 0x18) 16 16 62).wsSend cell 0xFF 0x71 1 (false, false)

/-- The transfer state of an exchange that a die takes over from a mirror that stood still while the link was down: from the state word
and the body alone (R338, log 27). -/
def State.rebuild (s : State) (p : Nat) : State :=
  let x := s.slot p
  let k := pathLogin ((s.sub p).path x.path)
  let y : Xfer := { Xfer.none with login := k, beganVer := s.lgnVer k, used := [k], txSeq := x.seq, rxSeq := max 1 x.seq, cum := x.seq }
  match x.st with
  | .sent => ((s.setXfer p { y with txSeq := 0, cum := 0 }).startWord p x.cwa none).1
  | .partnerAck =>
    match (s.setXfer p y).fetchWord p x.image x.key (s.countLimit k) x.cwa none with
    | (s1, .error e) => s1.endError p e
    | (s1, .ok (c, _)) => s1.setXfer p { y with cw := some c, cmdSent := true, cmdAcked := true, txOff := x.done, rxOff := x.done }
  | _ => s.setXfer p y

/-- A channel die fails (R343, R344): the other serves both halves from its mirror. LINK then reads 0x00; whether that too is the event of
kind 0x62 is open, and the model sends 0x61 alone (DESIGN CHOICE, log 25). -/
def State.chDieFail (s : State) (d : Nat) : State :=
  if s.dieState d = 3 then s
  else
    let other := 17 - d
    let up := s.mirrorUp
    let mine := s.slotKeys.filter fun p => ownerDie p == d
    let theirs := s.slotKeys.filter fun p => ownerDie p != d && (match (s.slot p).eng with | some (c, _) => c == d | none => false)
    let gone := s.unmirrored.filter fun p => ownerDie p == d
    let lost := if up then [] else gone.filter fun p => (s.slot p).running || (s.slot p).st == .status
    let images := ((s.subKeys.filter fun p => ownerDie p == d && (s.sub p).mapped).map fun p => (s.sub p).image).eraseDups
    let s0 := (List.range 48).foldl (fun t e => if t.engineRuns d e then (t.setRf (rCe d e 0) 40 8 2).modUnit (engUnit d e)
      fun c => { c with running := false } else t) s
    let s1 := (s0.setRf (rCs d 0) 32 8 3).setRf (rCs other 0) 32 8 (if s.csEn other then 2 else s.dieState other)
    let s2 := { s1.setLink 0 with unmirrored := s1.unmirrored.filter fun p => ownerDie p != d }
    let s3 := gone.foldl (fun t p => t.freeSlot p) s2
    let s4 := mine.foldl (fun t p =>
      let t1 := (t.readEntry p).modSlot p fun x => { x with eng := none }
      if !up && (t1.slot p).running && s.slotCopy true p != s.slotCopy false p then t1.rebuild p else t1) s3
      |> fun t => theirs.foldl (fun t p => (t.readEntry p).modSlot p fun x => { x with eng := none }) t
    let s5 := (List.range 12).foldl (fun t q => (t.losePort d q false).setRf (rCl d q 0) 40 8 0) s4
    let moved := (mine ++ theirs).filter fun p => (s5.slot p).running
    let s6 := s5.reassignAll moved
    let m : Msg := ⟨msgWord other 0x62 0x67 3 false lost.length, s.dieTod other, none, false⟩
    let s7 := if up then s6 else images.foldl (fun t i => t.wdImage i m) (s6.sendMsg m)
    s7.send other 0x62 0x61 3 ((moved.filter fun p => (s6.slot p).running && (s6.slot p).eng.isSome && ownerDie p == d).length)

/-! ## Scheduling rounds (R321) -/

/-- Exchanges with a frame ready on a port, credits granted. -/
def State.readyOn (s : State) (die port : Nat) : List Nat :=
  s.slotKeys.filter fun p =>
    let k := (s.xfer p).login
    s.hasReady p && loginDie k == die && s.lgnPort k == port && s.lgnState k == 3 && s.hasCredit k

/-- The next exchange: the image that has used least of its share, the lower number in a tie (log entry 14). -/
def State.pickEx (s : State) (used : Store Nat) (ps : List Nat) : Option Nat :=
  ps.foldl (fun (b : Option Nat) p =>
    match b with
    | none => some p
    | some q =>
      let wt (r : Nat) : Nat := match s.image (s.slot r).image with | some e => max 1 e.weight | none => 1
      let us (r : Nat) : Nat := sget (fun _ => 0) used (s.slot r).image
      if us p * wt q < us q * wt p ∨ (us p * wt q = us q * wt p ∧ (s.slot p).image < (s.slot q).image) then some p else b) none

/-- Frames sent while bytes of the round remain. -/
def State.sendRound (s : State) (die port : Nat) : Nat → Nat → Store Nat → State
  | 0, _, _ => s
  | fuel + 1, budget, used =>
    if budget = 0 then s
    else match s.pickEx used (s.readyOn die port) with
      | none => s
      | some p =>
        let s1 := if (s.xfer p).out.isEmpty then (s.nextData p).1 else s
        match (s1.xfer p).out with
        | [] => State.sendRound s1 die port fuel budget used
        | o :: _ =>
          let img := (s1.slot p).image
          let n := o.frame.size
          State.sendRound (s1.emitReady p) die port fuel (budget - n) (sput (fun _ => 0) used img (sget (fun _ => 0) used img + n))

/-- One round of 1 microsecond: 25,000 bytes at 200 Gbit/s, 12,500 at 100 Gbit/s. -/
def State.schedRound (s : State) (die port : Nat) : State :=
  if !(s.portEn die port) || !(s.linkUp die port) || (s.port die port).paused then s
  else s.sendRound die port 512 (if s.rf (rCl die port 0) 38 2 < 2 then 25000 else 12500) []

end Sys2Proof.Machine
end

