-- ==== Sys2Proof/Machine/Vale.lean ====
section
/-! DEFINITION. Received Vale frames and the timers of exchanges and logins (R366 to R397). -/
namespace Sys2Proof.Machine
open Sys2Proof

/-! ## Acceptance at the port (R366, R367, R371) -/

/-- The die number of a channel die. -/
def chNum (d : ChDie) : Nat := 8 + d.val

/-- A frame that finds no room is discarded and counted (R432). -/
def State.rxFull (s : State) (d : Nat) : State := s.errInc (regAddr 7 0 d 0x18) 0 16 61

/-- The frame reaches an enabled port whose link is up. -/
def State.rxOpen (s : State) (f : RxFrame) : Bool := s.portEn (chNum f.die) f.port.val && s.linkLive (chNum f.die) f.port.val

/-- Bytes that a received frame takes in the frame space. -/
def rxSize (f : RxFrame) : Nat := max 64 (54 + f.payload.length + (if f.tag.isSome then 8 else 0))

/-- The receive buffer has room for the frame (R432). -/
def State.rxRoom (s : State) (f : RxFrame) : Bool := (s.framePlace (chNum f.die) f.port.val (rxSize f)).isSome

/-- The checks of R367. -/
def State.rxEther (s : State) (f : RxFrame) : Bool :=
  let d := chNum f.die
  f.fcsOk && f.dst.toNat == s.rf (rCl d f.port.val 0x20) 0 48 && f.etype.toNat == s.rf (rCl d f.port.val 0x10) 0 16 &&
    s.rxTagOk d f.port.val (f.vlan.map fun x => (x.1.toNat, x.2.toNat))

/-- The payload without Ethernet padding. -/
def rxData (f : RxFrame) : List Byte := f.payload.take f.len.toNat

/-- The reserved bytes of a payload (R370, R374). -/
def rsvPayload (typ : Nat) (b : List Byte) : Bool :=
  let z (i j : Nat) : Bool := ((b.drop i).take (j - i)).all (· == 0)
  if typ = 0x01 ∨ typ = 0x02 then z 3 4 && z 0x18 32
  else if typ = 0x03 then z 3 4
  else if typ = 0x04 then z 1 4
  else if typ = 0x12 then z 2 8
  else if typ = 0x13 then z 1 4
  else true

/-- The checks of R371 for a frame of a type on login k; login frames carry version 3 (R369). A frame whose TYPE is none that a partner
sends fails them whatever else it holds. -/
def State.rxHeader (s : State) (typ k : Nat) (f : RxFrame) : Bool :=
  let ver := if typ ≤ 3 then 3 else if s.lgnState k = 3 then s.lgnVer k else 0
  !f.alien && f.rsv == 0 && decide (f.flags.toNat % 32 = 0) && rsvPayload typ (rxData f) && decide (f.len.toNat ≤ payloadMax typ (s.lgnJumbo k)) &&
    f.ver.toNat == ver

/-- The login that DLID names, when it is of the port. -/
def State.rxLogin (s : State) (f : RxFrame) : Option Nat :=
  let k := chNum f.die * 4096 + f.dlid.toNat
  if f.dlid.toNat < 4096 ∧ s.lgnEn k = true ∧ s.lgnPort k = f.port.val then some k else none

/-- A frame of login k accepted: counted, the keepalive timer restarted, the credit limit taken (R375, R384). Whether a frame of the
partner that does not arrive intact counts towards the limit that the N9 grants is open: only those that pass R367 and R371 count here
(DESIGN CHOICE, log 28). -/
def State.rxCount (s : State) (k typ : Nat) (f : RxFrame) : State :=
  let s1 := s.evInc (rCl (chNum f.die) f.port.val 0x108) 1
  s1.modLogin k fun l =>
    let d := (f.credit.toNat + 2 ^ 32 - l.limit) % 2 ^ 32
    let l1 := { l with misses := 0, received := if typ = 0x11 ∨ typ = 0x13 then (l.received + 1) % 2 ^ 32 else l.received }
    if s1.lgnState k = 3 ∧ 0 < d ∧ d < 2 ^ 31 then { l1 with limit := f.credit.toNat } else l1

/-- A frame of type `typ` received: what its login does with it, when nothing discards it. -/
def State.receive (s : State) (typ : Nat) (f : RxFrame) (act : State → Nat → State) : State :=
  let d := chNum f.die
  if !(s.rxOpen f) then s
  else if !(s.rxRoom f) then s.rxFull d
  else if !(s.rxEther f) then s.discard d f.port.val
  else match s.rxLogin f with
    | none => s.discard d f.port.val
    | some k => if !(s.rxHeader typ k f) then s.malformed d f.port.val k else act (s.rxCount k typ f) k

/-! ## Login frames -/

/-- A LOGIN-REQ is answered with LOGIN-REJ reason 0x07 (R381), to where it came from. -/
def State.rxLoginReq (s : State) (f : RxFrame) : State :=
  let d := chNum f.die
  let q := f.port.val
  if !(s.rxOpen f) then s
  else if !(s.rxRoom f) then s.rxFull d
  else if !(s.rxEther f) then s.discard d q
  else if f.alien = true ∨ f.rsv ≠ 0 ∨ f.flags.toNat % 32 ≠ 0 ∨ rsvPayload 0x01 (rxData f) = false ∨ 32 < f.len.toNat ∨ f.ver ≠ 3 then s.discard d q
  else
    let p := s.reg (rCl d q 0x30)
    let r : Frame := { ver := 3, typ := 0x03, flags := 0, dlid := f.slid.toNat, slid := 0, xid := 0, seq := 0, dev := 0, credit := 0,
                       image := 0, gen := 0, doff := 0, payload := [7] ++ beBytes 1 (fget p 61 3) ++ beBytes 1 (fget p 58 3) ++ [0],
                       tag := none }
    s.sendOn d q 0 f.src.toNat r

def State.rxLoginRej (s : State) (k : Nat) (f : RxFrame) : State :=
  if s.lgnState k ≠ 1 then s else s.loginRefused k (blkNat (rxData f) 0 1)

/-! ## Frames of an exchange -/

/-- The exchange's identifiers echoed in an answer on login k. -/
def State.answer (s : State) (k typ : Nat) (f : RxFrame) (payload : List Byte) : State :=
  let v := s.lgnVer k
  s.sendFrame k { s.frameOn k typ payload with
    xid := f.xid.toNat, dev := f.dev.toNat, image := if 4 ≤ v then f.image.toNat else 0, gen := if 4 ≤ v then f.gen else 0 }

/-- STATUS-ACK (R373, R388). -/
def State.statusAck (s : State) (k : Nat) (f : RxFrame) (more : Bool) : State := s.answer k 0x14 f [if more then 0x80 else 0, 0, 0, 0]

/-- Stale frames (R388): the image to count for, or the port (none, an image above 95 among them). -/
def State.staleFor (s : State) (k : Nat) (f : RxFrame) : Option (Option Nat) :=
  let p := f.xid.toNat % 131072
  let x := s.slot p
  if 4 ≤ s.lgnVer k then
    let ok := match s.image f.image.toNat with | some e => e.gen == f.gen | none => false
    if ok && x.st != .free then none else some (if f.image.toNat < 96 then some f.image.toNat else none)
  else if x.st != .free && x.incarn == f.xid.toNat / 131072 then none
  else some (if (s.sub p).mapped then some (s.sub p).image else none)

/-- CS.STALE[n] of the receiving die, or CL.CNT_DISC. -/
def State.countStale (s : State) (die port : Nat) (img : Option Nat) : State :=
  match img with
  | some n => s.errInc (rCs die (0x1800 + 8 * n)) 0 32 63
  | none => s.discard die port

/-- The bitmap of frames held (R374), bit i for number CUMACK + 1 + i. -/
def heldMap (y : Xfer) (ver : Nat) : Nat :=
  if ver < 4 then 0
  else ((List.range 64).map fun i => if y.heldRx.any (fun h => h.frame.seq == (y.rxSeq + 1 + i) % 65536) then 2 ^ i else 0).sum

/-- An ACK for what exchange p has received, on login k (R374). -/
def State.sendAck (s : State) (k p : Nat) : State :=
  let y := s.xfer p
  let pl := beBytes 2 y.rxSeq ++ List.replicate 6 0 ++ beBytes 8 (heldMap y (s.lgnVer k))
  (s.modXfer p fun z => { z with rxUnacked := 0 }).sendFrame k (s.exFrameOn k p 0x12 0 pl)

/-- The partner has accepted the command in progress (R338). -/
def State.cmdAccepted (s : State) (p : Nat) : State :=
  let y := s.xfer p
  if y.cmdAcked || !y.cmdSent then s
  else
    let s1 := s.setXfer p { y with cmdAcked := true }
    let s2 := if (s1.slot p).st = .sent then s1.record p .partnerAck else s1
    let s3 := s2.modSlot p fun x => { x with seq := match y.cw with
      | some c => if c.toDevice then (y.cmdSeq + 1) % 65536 else y.rxSeq
      | none => x.seq }
    match y.cw with
    | some c => if c.last && c.toDevice && c.count == 0 && (s3.slot p).durable then s3.record p .dataDone else s3
    | none => s3

/-- Every byte of the last command has been acknowledged (R338). -/
def State.checkDone (s : State) (p : Nat) : State :=
  let y := s.xfer p
  match y.cw with
  | some c =>
    if (s.slot p).st == .partnerAck && y.cmdAcked && c.last && c.toDevice && decide (c.count ≤ y.txOff) && y.out.isEmpty && y.unacked.isEmpty
    then s.record p .dataDone else s
  | none => s

/-- A frame made ready again as a retransmission (R376). -/
def OutFrame.resent (o : OutFrame) : OutFrame :=
  { frame := { o.frame with flags := o.frame.flags ||| 0x40 }, resends := o.resends + 1, again := none }

/-- The outstanding frames that `f` picks made ready again, in order of number. -/
def State.resend (s : State) (p : Nat) (f : OutFrame → Bool) : State :=
  s.modXfer p fun y =>
    { y with out := y.inOrder ((y.unacked.filter f).map OutFrame.resent) y.out, unacked := y.unacked.filter fun o => !(f o) }

/-- CL.TMO.ACK has passed since the last resend of a frame left the port, pauses left out, or it has not been resent (R377, R378). -/
def State.resendDue (s : State) (k : Nat) (o : OutFrame) : Bool :=
  match o.again with
  | some t => decide (t + s.rf (rCl (loginDie k) (s.lgnPort k) 0x38) 48 16 * 4096 ≤ s.portClock (loginDie k) (s.lgnPort k))
  | none => true

/-- A resend of the frames that `f` picks: none beyond the CL.TMO.RETRY-th, and the path has failed when one that is due would be
(R377). -/
def State.resendMost (s : State) (k p : Nat) (f : OutFrame → Bool) : State :=
  let spent (o : OutFrame) : Bool := decide (s.rf (rCl (loginDie k) (s.lgnPort k) 0x38) 16 4 ≤ o.resends)
  if (s.xfer p).unacked.any (fun o => f o && spent o && s.resendDue k o) then s.pathFail p
  else s.resend p fun o => f o && !(spent o)

/-- An ACK of version 4 or 5 that shows a gap: each missing frame, at most once per CL.TMO.ACK (R376). -/
def State.fillGaps (s : State) (k p cum bitmap : Nat) : State :=
  let held (q : Nat) : Bool := let d := seqDist ((cum + 1) % 65536) q; decide (d < 64) && bitmap.testBit d
  let top := ((List.range 64).filter fun i => bitmap.testBit i).foldl max 0
  if bitmap = 0 then s
  else s.resendMost k p (fun o => !(held o.frame.seq) && decide (seqDist cum o.frame.seq < top + 1) && s.resendDue k o)

/-- ACK (R374, R376). -/
def State.rxAck (s : State) (k p : Nat) (b : List Byte) : State :=
  let y := s.xfer p
  let c := blkNat b 0 2
  let d := seqDist y.cum c
  if d ≠ 0 ∧ d ≤ seqDist y.cum y.txSeq ∧ d < 32768 then
    let keep (o : OutFrame) : Bool := decide (d ≤ seqDist y.cum o.frame.seq)
    let left := ((y.unacked ++ y.out).filter fun o => keep o && o.frame.typ == 0x11).map fun o => o.frame.doff
    let s1 := s.setXfer p { y with cum := c, cumSeen := true, cumResent := false, unacked := y.unacked.filter keep, out := y.out.filter keep }
    let s2 := if seqDist y.cum y.cmdSeq < d then s1.cmdAccepted p else s1
    let s3 := match y.cw with
      | some w => if w.toDevice && (s2.xfer p).cmdAcked then s2.modSlot p fun x => { x with seq := c, done := left.foldl min y.txOff } else s2
      | none => s2
    let s4 := s3.checkDone p
    if 4 ≤ s.lgnVer k then s4.fillGaps k p c (blkNat b 8 8) else s4
  else if d ≠ 0 then s
  else if 4 ≤ s.lgnVer k then s.fillGaps k p c (blkNat b 8 8)
  else if !y.cumSeen then s.setXfer p { y with cumSeen := true }
  else if y.cumResent || !(y.unacked.any fun o => o.frame.seq != c) then s
  else (s.setXfer p { y with cumResent := true }).resendMost k p (fun _ => true)

/-- The bytes of a DATA frame stored, and the last data of the last command (R329, R330, R338). -/
def State.takeData (s : State) (p : Nat) (h : Frame) : State :=
  let s1 := s.cmdAccepted p
  let x := s1.slot p
  let y := s1.xfer p
  let s2 := s1.setXfer p { y with rxSeq := (y.rxSeq + 1) % 65536, rxUnacked := y.rxUnacked + 1 }
  match y.cw with
  | none => s2
  | some c =>
    if c.toDevice then s2
    else
      let bytes := h.payload.take (c.count - h.doff)
      let r := if c.discard then (s2, .ok ()) else s2.scatter x.image x.key c (bytes.length / 8 + 3) h.doff bytes
      match r.2 with
      | .error e => r.1.endError p e
      | .ok _ =>
        let s3 := (r.1.modXfer p fun z => { z with rxOff := max z.rxOff (h.doff + h.payload.length) }).modSlot p
          fun z => { z with seq := (y.rxSeq + 1) % 65536, done := max z.done (min c.count (h.doff + h.payload.length)) }
        if h.flags.getLsbD 7 && c.last && (s3.slot p).st == .partnerAck then s3.record p .dataDone else s3

/-- Bytes of the word before it: the residual count and the end of a command (R329, R331). -/
def State.takeStatus (s : State) (k p : Nat) (h : Frame) : State :=
  let s1 := s.cmdAccepted p
  let y := s1.xfer p
  let dev := blkNat h.payload 0 1
  let resid := blkNat h.payload 4 4
  match y.cw with
  | none => s1
  | some c =>
    let short := (decide (resid ≠ 0) || (!c.toDevice && decide (y.rxOff ≠ c.count))) && !c.lenok && !c.join
    let more := decide (dev = 0) && !short && !c.last
    let s2 := s1.setXfer p { y with rxSeq := (y.rxSeq + 1) % 65536, more := more, moreSeq := h.seq, statusReqs := 0 }
    let s3 := s2.sendFrame k (s2.exFrameOn k p 0x14 0 [if more then 0x80 else 0, 0, 0, 0])
    if more then
      let r := s3.startWord p ((s3.slot p).cwa + 16) (if c.join then some c else none)
      if r.2 && (r.1.slot p).durable then r.1.actOn p else r.1
    else s3.conclude p (s3.mkStatus p true false false (if dev ≠ 0 ∨ short = true then 1 else 0) dev (if short then 0x40 else 0) resid)

/-- A numbered frame that is in order. -/
def State.take (s : State) (k p : Nat) (h : Frame) : State := if h.typ = 0x13 then s.takeStatus k p h else s.takeData p h

/-- Held frames that now follow in order (R376); one in a bank that is in a copy waits until the switch (R443), and all while no engine serves
the exchange (R341). -/
def State.takeHeld (s : State) (k p : Nat) : Nat → State
  | 0 => s
  | fuel + 1 =>
    let y := s.xfer p
    if !(s.slot p).running || (s.slot p).eng.isNone then s
    else match y.heldRx.find? fun h => h.frame.seq == y.rxSeq && !(s.bankStalled h.bank) with
      | none => s
      | some h =>
        State.takeHeld ((s.setXfer p { y with heldRx := y.heldRx.filter fun g => g.frame.seq != h.frame.seq }).take k p (s.frameOut h)) k p fuel

/-- The switch of a bank's copy lets the frames that waited there go on (R443). -/
def State.releaseFrames (s : State) (die bank : Nat) : State :=
  (s.slotKeys.filter fun p => (s.xfer p).heldRx.any fun h => h.bank == die * 128 + bank).foldl (fun t p =>
    let y := t.xfer p
    let t1 := t.takeHeld y.login p 64
    if (t1.xfer p).heldRx.length != y.heldRx.length then t1.sendAck y.login p else t1) s

/-- A DATA frame whose tag fails (R391). -/
def State.tagFailed (s : State) (k p : Nat) (f : RxFrame) : State :=
  let d := chNum f.die
  let s1 := s.errInc (rCl d f.port.val 0x128) 0 32 63
  let y := s1.xfer p
  let n := (match y.tagFail.find? fun t => t.1 == f.seq.toNat with | some t => t.2 | none => 0) + 1
  let s2 := s1.setXfer p { y with tagFail := (f.seq.toNat, n) :: y.tagFail.filter fun t => t.1 != f.seq.toNat }
  if n < s.rf (rCl d f.port.val 0x38) 16 4 then s2
  else (s2.portSend d f.port.val 0x6E 1 (loginSlot k)).endError p .data

/-- A DATA or STATUS frame of a running exchange (R376). -/
def State.rxNumbered (s : State) (k p typ : Nat) (f : RxFrame) : State :=
  let y := s.xfer p
  let d := seqDist y.rxSeq f.seq.toNat
  let h : Frame := { ver := f.ver.toNat, typ := typ, flags := f.flags, dlid := f.dlid.toNat, slid := f.slid.toNat, xid := f.xid.toNat,
                     seq := f.seq.toNat, dev := f.dev.toNat, credit := 0, image := f.image.toNat, gen := f.gen, doff := f.doff.toNat,
                     payload := (rxData f), tag := f.tag }
  if typ = 0x11 ∧ s.lgnVer k = 5 ∧ f.tag ≠ some (crc64 (rxData f)) then s.tagFailed k p f
  else
    let s0 := s.modXfer p fun z => { z with tagFail := z.tagFail.filter fun t => t.1 != f.seq.toNat }
    if d = 0 then
      let held := y.heldRx.length
      let s1 := (s0.take k p h).takeHeld k p 64
      let now := decide (typ = 0x13) || (s1.xfer p).heldRx.length != held || decide (2 ≤ (s1.xfer p).rxUnacked)
      if now then (s1.sendAck k p) else s1
    else if 1 ≤ d ∧ d ≤ 64 ∧ 4 ≤ s.lgnVer k then
      let s1 := if y.heldRx.any (fun g => g.frame.seq == h.seq) then s0 else match s.framePlace (chNum f.die) f.port.val (rxSize f) with
        | none => s0
        | some q => (s0.frameIn ⟨h, q.1, q.2⟩).modXfer p fun z => { z with heldRx := y.heldRx ++ [⟨h, q.1, q.2⟩] }
      (s1.sendAck k p).checkXoff (chNum f.die) f.port.val
    else if typ = 0x13 ∧ 32768 < d then (s0.sendAck k p).statusAck k f (if y.moreSeq = f.seq.toNat then y.more else true)
    else s0.sendAck k p

/-- A frame of an exchange on login k: for one whose journal was lost (R355), stale (R388), for an exchange between two engines (R342),
ended, or taken. The journal unit reads the slot first. -/
def State.rxExchange (s0 : State) (k typ : Nat) (f : RxFrame) : State :=
  let p := f.xid.toNat % 131072
  let s := s0.readEntry p
  let x := s.slot p
  if !(s.operable p) then s
  else if x.status.code = 7 ∧ 5 ≤ x.stCode then (if typ = 0x13 then s.statusAck k f false else s)
  else match s.staleFor k f with
  | some img =>
    let s1 := s.countStale (chNum f.die) f.port.val img
    if typ = 0x13 then s1.statusAck k f false else s1
  | none =>
    if xidOf x p ≠ f.xid.toNat then (if typ = 0x13 then s.statusAck k f false else s)
    else if !x.running then
      if typ ≠ 0x13 then s
      else
        let y := s.xfer p
        if 32768 < seqDist y.rxSeq f.seq.toNat then (s.sendAck k p).statusAck k f (if y.moreSeq = f.seq.toNat then y.more else true)
        else s.statusAck k f false
    else if x.eng.isNone then s
    else if typ = 0x12 then s.rxAck k p (rxData f)
    else if typ = 0x16 then s.modXfer p fun y => { y with statusReqs := 0 }
    else s.rxNumbered k p typ f

/-- ABORT-ACK ends the resends of its exchange (R387, R388). -/
def State.rxAbortAck (s : State) (f : RxFrame) : State := { s with aborts := s.aborts.filter fun a => a.xid != f.xid.toNat }

/-! ## Timers (R374, R376 to R379, R384, R387) -/

/-- The port of an exchange's login is paused: its timers stand (R378). -/
def State.timersStand (s : State) (k : Nat) : Bool := (s.port (loginDie k) (s.lgnPort k)).paused

/-- 2 microseconds with a frame not acknowledged. -/
def State.ackDelay (s : State) (p : Nat) : State :=
  let y := s.xfer p
  if (s.slot p).running && (s.slot p).eng.isSome && decide (0 < y.rxUnacked) && s.lgnState y.login == 3 then s.sendAck y.login p else s

/-- The oldest outstanding frame. -/
def Xfer.oldest (y : Xfer) : Option OutFrame :=
  y.unacked.foldl (fun (b : Option OutFrame) o => match b with
    | .none => some o
    | some q => if seqDist y.cum o.frame.seq < seqDist y.cum q.frame.seq then some o else b) .none

/-- CL.TMO.ACK has passed with no ACK advancing the oldest outstanding frame (R376, R377). -/
def State.ackTimeout (s : State) (p : Nat) : State :=
  let y := s.xfer p
  let k := y.login
  if !(s.slot p).running || (s.slot p).eng.isNone || s.timersStand k || s.lgnState k != 3 then s
  else match y.oldest with
    | none => s
    | some o =>
      if s.rf (rCl (loginDie k) (s.lgnPort k) 0x38) 16 4 ≤ o.resends then s.pathFail p
      else if 4 ≤ s.lgnVer k then s.resend p fun q => q.frame.seq == o.frame.seq
      else (s.modXfer p fun z => { z with cumResent := false }).resend p fun _ => true

/-- The status wait, or the wait for the answer to a STATUS-REQ, ends (R379). -/
def State.statusWait (s : State) (p : Nat) : State :=
  let y := s.xfer p
  if (s.slot p).st != .dataDone || (s.slot p).eng.isNone || s.timersStand y.login || s.lgnState y.login != 3 then s
  else if 3 ≤ y.statusReqs then s.pathFail p
  else s.sendStatusReq p

/-- A keepalive interval without a frame (R384, R385). -/
def State.keepalive (s : State) (k : Nat) : State :=
  if s.lgnState k ≠ 3 ∨ s.timersStand k = true then s
  else if 2 ≤ (s.login k).misses then s.loseLogin k true
  else (s.modLogin k fun l => { l with misses := l.misses + 1 }).sendFrame k (s.frameOn k 0x05 [])

/-- CL.TMO.ACK has passed since an ABORT (R387). -/
def State.abortResend (s : State) (xid : Nat) : State :=
  match s.aborts.find? fun a => a.xid == xid with
  | none => s
  | some a =>
    let k := a.login
    if s.timersStand k then s
    else if loginDie k ≠ 0 ∧ s.rf (rCl (loginDie k) (s.lgnPort k) 0x38) 16 4 ≤ a.resends then
      { s with aborts := s.aborts.filter fun b => b.xid != xid }
    else s.sendAbort { a with resends := a.resends + 1 } true

/-! ## Links and enables -/

/-- A link goes down (R385, R396). -/
def State.linkGoesDown (s : State) (die port : Nat) : State :=
  let l := s.rf (rCl die port 0) 40 8
  if l ≠ 2 ∧ l ≠ 3 then s
  else
    let s1 := ((s.setRf (rCl die port 0) 40 8 0).setRf (rCl die port 0) 38 2 0).modPort die port fun _ => PortHw.none
    ((s1.condBegin die (0x40 + port) 0x68 1 0 0).portEvent die port).losePort die port true

/-- A pause longer than CL.TMO.PAUSE_MAX (R378). -/
def State.pauseMax (s : State) (die port : Nat) : State :=
  if !(s.port die port).paused || !(s.linkUp die port) then s
  else
    let s1 := (s.setRf (rCl die port 0) 40 8 3).portSend die port 0x6D 2 0
    (s1.modPort die port fun h => { h with waiting := [] }).losePort die port true

/-- CL.CTL.EN written 0 (11_channel_ports_vale.md, CL.CTL). -/
def State.clDisable (s : State) (die port : Nat) : State :=
  if !(s.portEn die port) then s
  else
    let s1 := ((s.slotsOn die port).filter fun k => s.lgnState k == 3).foldl (fun t k => t.sendLogout k 0x04) s
    let s2 := s1.setRf (rCl die port 0) 63 1 0
    let l := s2.rf (rCl die port 0) 40 8
    if l = 2 ∨ l = 3 then s2.linkGoesDown die port else s2.setRf (rCl die port 0) 40 8 0

/-- CL.LGN_ADDR.EN written 0 (R383): its exchanges move to other paths (R313, R339). -/
def State.lgnDisable (s : State) (k : Nat) : State :=
  let s0 := s.setRf (rLgnAddr (loginDie k) (loginSlot k)) 63 1 0
  if s.lgnState k = 3 then
    let s1 := s0.sendLogout k 0x01
    let ps := s1.exchangesOn k
    ps.foldl (fun t p => t.pathFail p) (s1.clearLogin k 0)
  else s0.clearLogin k 0

end Sys2Proof.Machine
end

