-- ==== Sys2Proof/Machine/Accel.lean ====
section
/-! DEFINITION. Accelerator engines, random numbers and wrapping keys (R399 to R401, R415, R420 to R428). -/
namespace Sys2Proof.Machine
open Sys2Proof

/-! ## Engines (R399, R400) -/

def rAcc (die inst off : Nat) : Nat := regAddr 8 inst die off

/-- An engine of a type; die × 16 + instance. -/
def accKey (die inst : Nat) : Nat := die * 16 + inst
def accUnit (die inst : Nat) : Nat := if die < 8 then 0x68 + inst else 0x50 + inst
def isCrypto (die inst : Nat) : Bool := decide (firstCrypto die ≤ inst)

/-- Every engine of a type, in the order of R400's tie rule. -/
def accEngines (crypto : Bool) : List (Nat × Nat) :=
  (List.range 8).map (fun d => (d, crypto.toNat)) ++
    [8, 9].flatMap fun d => (List.range 4).map fun i => (d, 4 * crypto.toNat + i)

/-- The engine is in service: ACC.CTL.STATE is 0x01 on a die that has not failed. -/
def State.accServes (s : State) (e : Nat × Nat) : Bool :=
  s.rf (rAcc e.1 e.2 0) 40 8 == 1 && (decide (e.1 < 8) || s.dieState e.1 != 3)

def State.accInService (s : State) (crypto : Bool) : List (Nat × Nat) := (accEngines crypto).filter s.accServes

/-- An engine has not left service: it serves, or it is enabled and in its self-test (R426; log 29). -/
def State.accRemains (s : State) (e : Nat × Nat) : Bool :=
  s.accServes e || (s.rf (rAcc e.1 e.2 0) 40 8 == 2 && s.rf (rAcc e.1 e.2 0) 63 1 == 1 && (decide (e.1 < 8) || s.dieState e.1 != 3))

def State.accLeft (s : State) (crypto : Bool) : List (Nat × Nat) := (accEngines crypto).filter s.accRemains

/-- The type of engine of a slot. -/
def slotCrypto (slot : Nat) : Bool := decide (1 ≤ slot)

/-- The requests queued in engines as a request finds them (R400; log 29). -/
def State.queueSeen (s : State) (q : List (Fin 10 × Fin 8 × Fin 33)) : State :=
  q.foldl (fun t x => if x.2.1.val < (if x.1.val < 8 then 2 else 8) then t.setRf (rAcc x.1.val x.2.1.val 0) 0 6 x.2.2.val else t) s

/-- ACC.CTL.QUEUE, and QTHR with 0 treated as 1. -/
def State.accQueue (s : State) (e : Nat × Nat) : Nat := s.rf (rAcc e.1 e.2 0) 0 6
def State.accThr (s : State) (e : Nat × Nat) : Nat := max 1 (s.rf (rAcc e.1 e.2 0) 36 4)

/-- The engine that serves a request of a CPU on compute die d: its own die's below its threshold, else the channel-die engine with
the fewest requests, else, with every queue full, its own die's; a full channel-die queue where that is not in service (R400; log 29). -/
def State.chooseAcc (s : State) (d : Nat) (crypto : Bool) : Option (Nat × Nat) :=
  let own := (d, crypto.toNat)
  let ch := (s.accInService crypto).filter fun e => decide (8 ≤ e.1)
  if s.accServes own && decide (s.accQueue own < s.accThr own) then some own
  else match (List.range 32).findSome? fun n => ch.find? fun e => s.accQueue e == n with
    | some e => some e
    | none => if s.accServes own then some own else ch.head?

/-- Bytes read and stored by an engine. -/
def State.accCount (s : State) (e : Nat × Nat) (inp out : Nat) : State := (s.evInc (rAcc e.1 e.2 8) inp).evInc (rAcc e.1 e.2 0x10) out

/-- An accelerator message (R427): `cpu` is the logical CPU of the request. -/
def State.accSend (s : State) (e : Nat × Nat) (kind cls : Nat) (cpu : Option Nat) (low : Nat) : State :=
  s.send e.1 (accUnit e.1 e.2) kind cls ((match cpu with | some n => n | none => 0xFF) <<< 32 + low)

/-- An engine's state changes; the last of its type that leaves service is told (R426, R470). -/
def State.accTo (s : State) (e : Nat × Nat) (f : State → State) (inj : Bool := false) : State :=
  let t := f s
  let c := isCrypto e.1 e.2
  if s.accRemains e && (t.accLeft c).isEmpty then t.send e.1 (accUnit e.1 e.2) 0x56 3 (0xFF <<< 32 + (if c then 0xE else 1)) inj else t

/-- An engine gets a state code. -/
def State.accLeave (s : State) (e : Nat × Nat) (st : Nat) (inj : Bool := false) : State :=
  s.accTo e (fun t => t.setRf (rAcc e.1 e.2 0) 40 8 st) inj

/-- An engine's self-test ends (R426). EN stays as it was, and STATE shows an engine out of service (log 29). -/
def State.accTestEnd (s : State) (e : Nat × Nat) (pass : Bool) : State :=
  if s.rf (rAcc e.1 e.2 0) 40 8 ≠ 2 then s
  else if pass then s.setRf (rAcc e.1 e.2 0) 40 8 (if s.rf (rAcc e.1 e.2 0) 63 1 = 1 then 1 else 0)
  else s.accTo e fun t =>
    ({ t.setRf (rAcc e.1 e.2 0) 40 8 3 with accFailed := (accKey e.1 e.2 :: t.accFailed).eraseDups } : State).accSend e 0x52 3 none 0

/-- The staging bank of a channel-die engine, logical bank 120 + i, is owned by its owner code (R400, R428, R430). -/
def stagingCell (e : Nat × Nat) : Nat := wsCell e.1 ((120 + e.2) * 0x40000)
def State.stagingOwned (s : State) (e : Nat × Nat) : Bool := s.bankOwner (stagingCell e) == 0x50 + e.2

/-- The bytes that a channel-die engine moves pass through its staging bank (R400, R430). -/
def State.stage (s : State) (e : Nat × Nat) (inp out : List Byte) : State :=
  if e.1 < 8 then s
  else s.wsPut (stagingCell e) ((List.range (min 0x40000 (inp.length + out.length))).map (Config.stagingByte inp out))

/-- The check of ACC.CTL.EN (R428). -/
def State.accCheck (s : State) (e : Nat × Nat) : Nat :=
  if 8 ≤ e.1 ∧ s.stagingOwned e = false then 0x82
  else if s.accFailed.contains (accKey e.1 e.2) then 0x01
  else if s.rf (rAcc e.1 e.2 0) 62 1 = 1 then 0x83
  else 0

def State.accEnable (s : State) (e : Nat × Nat) : State :=
  if s.rf (rAcc e.1 e.2 0) 63 1 = 1 then s
  else
    let r := s.accCheck e
    let s1 := (s.setRf (rAcc e.1 e.2 0) 48 8 r).setRf (rAcc e.1 e.2 0) 63 1 (if r = 0 then 1 else 0)
    if r = 0 ∧ s1.rf (rAcc e.1 e.2 0) 40 8 ≠ 2 then s1.setRf (rAcc e.1 e.2 0) 40 8 1 else s1

/-- EN is cleared. An engine in its self-test goes on with it, and one that failed stays as it is. -/
def State.accDisable (s : State) (e : Nat × Nat) : State :=
  s.accTo e fun t =>
    let t1 := t.setRf (rAcc e.1 e.2 0) 63 1 0
    if t1.rf (rAcc e.1 e.2 0) 40 8 = 1 then t1.setRf (rAcc e.1 e.2 0) 40 8 0 else t1

/-! ## Entropy and DRBG instances (R423 to R425) -/

def rEnt (die : Nat) : Nat := rAcc die (firstCrypto die) 0x20
def State.sourceOk (s : State) (die : Nat) : Bool := s.rf (rEnt die) 63 1 == 1
def State.drbg (s : State) (e : Nat × Nat) : Drbg := sget (fun k => { src := k / 16, count := 0 }) s.drbgs (accKey e.1 e.2)
def State.setDrbg (s : State) (e : Nat × Nat) (d : Drbg) : State :=
  { s with drbgs := sput (fun k => { src := k / 16, count := 0 }) s.drbgs (accKey e.1 e.2) d }

/-- Sources in service, ascending. -/
def State.sources (s : State) : List Nat := (List.range 10).filter s.sourceOk

/-- An instance is in service: its engine is, and a source is. -/
def State.drbgServes (s : State) (e : Nat × Nat) : Bool := s.accServes e && !s.sources.isEmpty

/-- An instance seeded from its own die's source, or from the lowest-numbered die whose source is in service. -/
def State.reseed (s : State) (e : Nat × Nat) : State :=
  let src := if s.sourceOk e.1 then some e.1 else s.sources.head?
  match src with
  | none => s
  | some d =>
    let s1 := s.setDrbg e { src := d, count := 0 }
    if e.2 = firstCrypto e.1 then s1.setRf (rEnt e.1) 16 32 (satInc (s1.rf (rEnt e.1) 16 32) 32) else s1

/-- RESEED: every instance of the module. -/
def State.reseedAll (s : State) : State := (accEngines true).foldl State.reseed s

/-- Every instance seeded anew from the source it takes (R423). -/
def State.seedAll (s : State) : State :=
  (accEngines true).foldl (fun t e => t.setDrbg e { src := if t.sourceOk e.1 then e.1 else t.sources.headD e.1, count := 0 }) s

/-- The instance that serves a request on die d. -/
def State.chooseDrbg (s : State) (d : Nat) : Option (Nat × Nat) :=
  match s.chooseAcc d true with
  | some e => if s.drbgServes e then some e else none
  | none => none

/-- n random bytes of an instance, counted as one generate request; with prediction resistance it is reseeded before. -/
def State.generate (s : State) (e : Nat × Nat) (n : Nat) (pr : Bool) : List Byte × State :=
  let s0 := if pr then s.reseed e else s
  let d := s0.drbg e
  (s0.setDrbg e { d with count := d.count + 1 }).freeBytes n

/-- A DRBG reseeds after 2^20 generate requests. -/
def State.reseedCount (s : State) (e : Nat × Nat) : State := if (s.drbg e).count < 2 ^ 20 then s else s.reseed e

/-- A health test fails (R425). -/
def State.healthFail (s : State) (die : Nat) : State :=
  if !(s.sourceOk die) then s
  else
    let e := (die, firstCrypto die)
    let s1 := (s.setRf (rEnt die) 63 1 0).setRf (rEnt die) 0 16 (satInc (s.rf (rEnt die) 0 16) 16)
    let s2 := s1.accSend e 0x53 2 none die
    let s3 := (accEngines true).foldl (fun t x => if (t.drbg x).src == die then t.reseed x else t) s2
    if s3.sources.isEmpty then s3.accSend e 0x54 3 none 0 else s3

/-- A core's random-value buffer refilled (R424). -/
def State.refillRnd (s : State) (core : Nat) : State :=
  match s.chooseDrbg (core / 26) with
  | none => s
  | some e =>
    let r := s.generate e (64 - (s.core core).rnd.length) false
    r.2.modCore core fun c => { c with rnd := c.rnd ++ r.1 }

/-! ## Wrapping keys (R421, R422) -/

def State.wrapKey (s : State) (slot : Nat) : Option WrapKey := sget (fun _ => none) s.wrapKeys slot

/-- A new wrapping key for a key slot, its serial the last of the slot increased by 1. -/
def State.newKey (s : State) (slot : Nat) : State :=
  let r := s.freeBytes 32
  let n := (sget (fun _ => 0) s.serials slot + 1) % 2 ^ 32
  { r.2 with wrapKeys := sput (fun _ => none) r.2.wrapKeys slot (some { key := r.1, serial := n }),
             serials := sput (fun _ => 0) r.2.serials slot n }

def State.dropKey (s : State) (slot : Nat) : State := { s with wrapKeys := sput (fun _ => none) s.wrapKeys slot none }

/-- A vault wipe starts: every wrapping key is gone. -/
def State.dropKeys (s : State) : State := { s with wrapKeys := [] }

/-- The host key and the key of every image that holds a key slot. -/
def State.regenKeys (s : State) : State :=
  (List.range 96).foldl (fun t i => match t.image i with
    | some e => match e.keySlot with | some k => t.newKey k | none => t
    | none => t) (s.newKey 0xFFFE)

/-- The key slot of the executing context, none for an image without one. -/
def State.keySlotOf (s : State) (u : Nat) : Option Nat :=
  match (s.unit u).irun with
  | none => some 0xFFFE
  | some r => match s.image r.image with
    | some e => e.keySlot
    | none => none

/-- A protected-key block of a key. -/
def protect (typ slot : Nat) (w : WrapKey) (key : List Byte) : List Byte :=
  beBytes 1 typ ++ [0] ++ beBytes 2 slot ++ beBytes 4 w.serial ++ keyWrap w.key key

/-- What a protected-key block of a type and key length gives in the executing context: the key, or the RC. -/
def State.unprotect (s : State) (u typ len : Nat) (b : List Byte) : Except Nat (List Byte) :=
  match s.keySlotOf u with
  | none => .error 0x22
  | some slot => match s.wrapKey slot with
    | none => .error 0x22
    | some w =>
      if beNat ((b.drop 2).take 2) ≠ slot ∨ beNat ((b.drop 4).take 4) ≠ w.serial then .error 0x21
      else if beNat (b.take 1) ≠ typ ∨ b.getD 1 0 ≠ 0 then .error 0x23
      else match keyUnwrap w.key ((b.drop 8).take (len + 8)) with
        | some k => .ok k
        | none => .error 0x23

end Sys2Proof.Machine
end

