-- ==== Sys2Proof/Machine/WStore.lean ====
section
/-! DEFINITION. Working-store banks: ownership, background test, test in place, vault (R429 to R449). -/
namespace Sys2Proof.Machine
open Sys2Proof

def rBankOwn (die n : Nat) : Nat := regAddr 7 0 die (0x100 + 8 * n)
def rWsTest (die : Nat) : Nat := regAddr 7 0 die 0x10
def rWsErr (die : Nat) : Nat := regAddr 7 0 die 0x20
def rVault : Nat := regAddr 7 0 10 0x30

/-- Logical banks of a die. -/
def wsBanks (die : Nat) : Nat := if die = 10 then 32 else 128
/-- A dual-port bank: logical banks 0 to 7 of a channel die. -/
def bankDp (die n : Nat) : Bool := die != 10 && decide (n < 8)
/-- A vault bank (R445). -/
def bankVault (die n : Nat) : Bool := die == 10 && decide (28 ≤ n)

def State.wsTest (s : State) (die : Nat) : WsTest := sget (fun _ => WsTest.none) s.wsTests die
def State.setWsTest (s : State) (die : Nat) (t : WsTest) : State := { s with wsTests := sput (fun _ => WsTest.none) s.wsTests die t }

/-- The spare of a kind, 0xFF for none. -/
def State.bankSpare (s : State) (die : Nat) (dp : Bool) : Nat := s.rf (rWsTest die) (if dp then 8 else 0) 8
def State.setBankSpare (s : State) (die : Nat) (dp : Bool) (n : Nat) : State := s.setRf (rWsTest die) (if dp then 8 else 0) 8 n

/-- The spare that a failed bank of a kind can move onto, 0xFF for none: a test in progress has its spare in use (R442, R444). -/
def State.freeSpare (s : State) (die : Nat) (dp : Bool) : Nat :=
  let st := s.rf (rWsTest die) 40 8
  if (st = 1 ∨ st = 2) ∧ bankDp die (s.rf (rWsTest die) 32 8) = dp then 0xFF else s.bankSpare die dp

/-- A message about a bank (R448) with its physical bank, row 0. -/
def State.bankSend (s : State) (die bank phys kind cls : Nat) : State :=
  s.send die 0x60 kind cls (0xFF <<< 32 + bank <<< 24 + phys <<< 16)

/-- Every row of a bank zeroed with a valid code. -/
def State.zeroBank (s : State) (die n : Nat) : State :=
  { s.wsZero (wsCell die (n * 0x40000)) 0x40000 with
    errs := s.errs.filter fun e => !(e.die == die && e.unit == 0x60 && e.addr / 0x40000 == n) }

/-- A physical bank retired; no spare of its kind remains when the spare has been used (R442, R444, kind 0x75). -/
def State.retireBank (s : State) (die : Nat) : State := s.setRf (rWsErr die) 32 8 (min 255 (s.rf (rWsErr die) 32 8 + 1))

/-- STATE 0x03 when neither kind has a spare. -/
def State.noSpares (s : State) (die : Nat) : State :=
  if s.bankSpare die true = 0xFF ∧ s.bankSpare die false = 0xFF then s.setRf (rWsTest die) 40 8 3 else s

/-! ## Ownership (R435 to R437, R444) -/

/-- An OWNER code that may be written to a bank by a writer (R435, R445). -/
def ownerOk (die n code : Nat) (w : Writer) : Bool :=
  if bankVault die n then code == 0x7F
  else if die = 10 then code == 0 || code == 0x7E || (code == 0x70 && w == .mgmt)
  else decide (code ≤ 0x30) || code == 0x40 || (decide (0x50 ≤ code) && decide (code ≤ 0x57)) || code == 0x7E || (code == 0x70 && w == .mgmt)

/-- The frames held in a bank are gone: nothing reaches them any more (R432, R444; log 28). -/
def State.dropFrames (s : State) (die n : Nat) : State :=
  { s with xfers := s.xfers.map fun x => (x.1, { x.2 with heldRx := x.2.heldRx.filter fun h => h.bank != die * 128 + n }) }

/-- A write of WS.BANK_OWN[n] by the management plane or by engine `eng` of the die (R437): the register's writable fields,
and a march in place on OWNER 0x70. A bank lost in such a march stays owned by 0x70 (R444). -/
def State.bankOwnWrite (s : State) (eng : Option Nat) (die n : Nat) (v : Dword) : State :=
  let a := rBankOwn die n
  let cell := wsCell die (n * 0x40000)
  let code := fget v 0 8
  if wsBanks die ≤ n then s
  else match eng with
  | some e =>
    if s.bankOwner cell ≠ 1 + e then s.wsDeny cell (1 + e)
    else if !(ownerOk die n code (.engine 0)) then s.refuse a (.engine 0) 0x81
    else s.setReg a (setBit (fset (s.reg a) 0 8 code) 61 (bit v 61))
  | none =>
    if !(ownerOk die n code .mgmt) then s.refuse a .mgmt 0x81
    else
      let kept := (s.wsTest die).lost.contains n
      let s1 := s.setReg a (setBit (fset (s.reg a) 0 8 (if kept then 0x70 else code)) 61 (bit v 61))
      if code = 0 ∨ code = 0x70 then s1.dropFrames die n else s1

/-- A march in place ends (R444). -/
def State.inPlaceEnd (s : State) (die n : Nat) (pass : Bool) : State :=
  let a := rBankOwn die n
  if s.rf a 0 8 ≠ 0x70 ∨ wsBanks die ≤ n ∨ (s.wsTest die).lost.contains n = true then s
  else
    let s1 := s.zeroBank die n
    if pass then s1.setRf a 0 8 0
    else
      let phys := s.rf a 40 8
      let dp := bankDp die n
      let spare := s.freeSpare die dp
      let s2 := s1.retireBank die
      if spare = 0xFF then (s2.setWsTest die { s2.wsTest die with lost := n :: (s2.wsTest die).lost }).bankSend die n phys 0x75 3
      else ((((s2.setRf a 40 8 spare).setRf a 0 8 0).setBankSpare die dp 0xFF).bankSend die n phys 0x74 1).bankSend die n phys 0x75 3 |>.noSpares die

/-! ## Background test (R441, R442) -/

/-- The bank may be tested now. -/
def State.testable (s : State) (die n : Nat) : Bool :=
  !(bankVault die n) && s.rf (rBankOwn die n) 0 8 != 0x70 && s.bankSpare die (bankDp die n) != 0xFF

/-- A test of a bank starts: the copy (R442). -/
def State.startTest (s : State) (die n : Nat) : State :=
  let a := rBankOwn die n
  let s1 := (((s.setRf (rWsTest die) 40 8 1).setRf (rWsTest die) 62 1 1).setRf (rWsTest die) 32 8 n).setRf a 62 1 1
  s1.setWsTest die { s1.wsTest die with since := 0, next := (n + 1) % wsBanks die, phys := s.rf a 40 8, spare := s.bankSpare die (bankDp die n) }

/-- The Pass slot of a die: a test starts WS.TEST.INTERVAL Passes after the one before. -/
def State.testPass (s : State) (die : Nat) : State :=
  let t := s.wsTest die
  let since := t.since + 1
  let s1 := s.setWsTest die { t with since := since }
  if s.rf (rWsTest die) 63 1 = 0 ∨ s.rf (rWsTest die) 40 8 ≠ 0 ∨ since < max 1 (s.rf (rWsTest die) 16 16) then s1
  else match ((List.range (wsBanks die)).map fun i => (t.next + i) % wsBanks die).find? (s.testable die) with
    | some n => s1.startTest die n
    | none => s1

/-- A unit that finds an uncorrectable record in a row that the test has read (R355, R442). -/
def State.testRecord (s : State) (cell : Nat) : State :=
  let x := recAt cell
  let r := s.readRec x.1 x.2.1 x.2.2.1
  match r.2 with
  | none => r.1
  | some l => match x.1 with
    | .word => r.1.settleLost x.2.1 (some l) none none
    | .body => r.1.settleLost x.2.1 none (some l) none
    | .entry => r.1.settleLost x.2.1 none none (some l)

/-- The rows of a bank in error as the copy of a test reads them: corrected ones are copied corrected, uncorrectable ones as they are, with
kind 0x73; the channel units meet theirs (R442, R434, R355). -/
def State.testRows (s : State) (die n : Nat) : State :=
  let rows := ((s.errs.filter fun e => e.die == die && e.unit == 0x60 && e.addr / 0x40000 == n).map fun e => wsCell die (e.addr / 16 * 16)).eraseDups
  rows.foldl (fun t c =>
    if inTables c then t.testRecord c else (t.wsErrors c 16 0xFF).1) s

/-- The copy ends: corrected rows are copied corrected, the spare serves the bank, the march starts, and frames that waited go on
(R442, R443). -/
def State.copyEnd (s : State) (die : Nat) : State :=
  if s.rf (rWsTest die) 40 8 ≠ 1 then s
  else
    let n := s.rf (rWsTest die) 32 8
    let t := s.wsTest die
    let a := rBankOwn die n
    ((((s.testRows die n).setRf a 40 8 t.spare).setRf a 62 1 0).setRf (rWsTest die) 40 8 2).releaseFrames die n

/-- The march ends (R442). -/
def State.marchEnd (s : State) (die : Nat) (pass : Bool) : State :=
  if s.rf (rWsTest die) 40 8 ≠ 2 then s
  else
    let n := s.rf (rWsTest die) 32 8
    let t := s.wsTest die
    let dp := bankDp die n
    let s1 := (s.setRf (rWsTest die) 40 8 0).setRf (rWsTest die) 62 1 0
    if pass then s1.setBankSpare die dp t.phys
    else ((((s1.setBankSpare die dp 0xFF).retireBank die).bankSend die n t.phys 0x74 1).bankSend die n t.phys 0x75 3).noSpares die

/-- The enable check of WS.TEST.EN (R449). -/
def State.testEnable (s : State) (die : Nat) : State :=
  let a := rWsTest die
  if s.rf a 63 1 = 1 then s
  else
    let r := if s.bankSpare die true = 0xFF ∧ s.bankSpare die false = 0xFF then 0x01 else if s.rf a 62 1 = 1 then 0x83 else 0
    (s.setRf a 48 8 r).setRf a 63 1 (if r = 0 then 1 else 0)

/-! ## The vault (R445, R446) -/

def vaultBanks : List Nat := [28, 29, 30, 31]

/-- A wipe starts with a cause: 1 cold reset, 2 tamper, 3 lifecycle change, 4 commanded. -/
def State.wipeVault (s : State) (cause : Nat) : State :=
  let s1 := vaultBanks.foldl (fun t n => (t.zeroBank 10 n).setRf (rBankOwn 10 n) 62 1 1) s.dropKeys
  let n := if cause = 1 then 1 else satInc (s.rf rVault 0 32) 32
  (((s1.setRf rVault 62 1 1).setRf rVault 40 8 cause).setRf rVault 0 32 n).bankSend 10 28 (s.rf (rBankOwn 10 28) 40 8) 0x76 0

/-- Vault bank 28 + i has failed its march: it moves onto the spare, or no key exists until cold reset. -/
def State.vaultBankFails (s : State) (i : Nat) : State :=
  let n := 28 + i
  let phys := s.rf (rBankOwn 10 n) 40 8
  let s3 := s.retireBank 10
  if s.freeSpare 10 false = 0xFF then ({ s3 with vaultDead := true } : State).bankSend 10 n phys 0x75 3
  else ((((s3.setRf (rBankOwn 10 n) 40 8 (s.bankSpare 10 false)).setBankSpare 10 false 0xFF).bankSend 10 n phys 0x74 1).bankSend 10 n phys
    0x75 3).noSpares 10

/-- A wipe ends, with the vault banks, counted from 0, that have failed their march. Keys are generated again after a tamper or a command
(R421, R446). -/
def State.wipeEnd (s : State) (failed : List Nat) : State :=
  if s.rf rVault 62 1 ≠ 1 then s
  else
    let s1 := vaultBanks.foldl (fun t n => (t.zeroBank 10 n).setRf (rBankOwn 10 n) 62 1 0) (s.setRf rVault 62 1 0)
    let s2 := failed.eraseDups.foldl State.vaultBankFails s1
    let cause := s.rf rVault 40 8
    if s2.vaultDead then s2
    else if cause = 2 ∨ cause = 4 then
      let t := s2.regenKeys
      t.hostSignal 7 (sget (fun _ => 0) t.serials 0xFFFE)
    else s2

/-- The test of a die at rest with the spares of cold reset, and no bank retired (R447). -/
def State.bankRestart (s : State) (die : Nat) : State :=
  let d := regDefault (rWsTest die)
  (((s.setRf (rWsTest die) 62 1 0).setRf (rWsTest die) 32 16 0).setRf (rWsTest die) 0 16 (fget d 0 16)).setRf (rWsErr die) 32 8 0

/-- Tests in progress are abandoned: a bank in its march has the mapping again that held before the copy (R447). -/
def State.abandonTests (s : State) : State :=
  [8, 9, 10].foldl (fun t die =>
    if t.rf (rWsTest die) 40 8 = 2 then t.setRf (rBankOwn die (t.rf (rWsTest die) 32 8)) 40 8 (t.wsTest die).phys else t) s

/-- Working store at a reset (R447): zeroed but the vault; ownership and PORTB at their reset values. -/
def State.wsReset (s : State) (cold : Bool) : State :=
  let vaultLo := wsCell 10 (28 * 0x40000)
  let s0 : State := { s with ws := s.ws.filter fun c => !cold && decide (vaultLo ≤ c.1),
                             errs := s.errs.filter fun e => !(e.unit == 0x60 && decide (8 ≤ e.die) && (cold || !(e.die == 10 && decide (28 ≤ e.addr / 0x40000)))),
                             wsTests := [] }
  [8, 9, 10].foldl (fun t die =>
    (List.range (wsBanks die)).foldl (fun t n =>
      let a := rBankOwn die n
      t.setReg a (if cold then regDefault a else fset (regDefault a) 40 8 (s.rf a 40 8))) (if cold then t.bankRestart die else t)) s0

end Sys2Proof.Machine
end

