-- ==== Sys2Proof/Machine/Collector.lean ====
section
/-! DEFINITION. The fault collector (R450 to R472, R536): acceptance, classes and their actions, captures, history,
acknowledgment, thresholds, Plain links, injection; and the passing of time (R56, R510). -/
namespace Sys2Proof.Machine
open Sys2Proof

/-! ## Registers of the FC window -/

def rFc (off : Nat) : Nat := regAddr 9 0 10 off
def rFirstTod (c : Nat) : Nat := rFc (0x108 + 32 * c)
def rFcCnt (c : Nat) : Nat := rFc (0x200 + 8 * c)
def rCntMisc : Nat := rFc 0x240
def rInjCtl : Nat := rFc 0x300
def rInjTgt : Nat := rFc 0x308
def rInjLive : Nat := rFc 0x310
def rHistHead : Nat := rFc 0x400
def rHistMsg (i : Nat) : Nat := rFc (0x1000 + 32 * i)
def rHistTod (i : Nat) : Nat := rFc (0x1008 + 32 * i)
def rHistMeta (i : Nat) : Nat := rFc (0x1010 + 32 * i)
def rThr (k : Nat) : Nat := rFc (0x2000 + 8 * k)

def State.chkstop (s : State) : Bool := bit (s.reg rFcStat) 62
def State.terminal (s : State) : Bool := bit (s.reg rFcStat) 63

/-- Cores, engines, accelerators and port transmitters are stopped, and nothing not yet begun is begun (R454, R489, R501,
R522). -/
def State.frozen (s : State) : Bool := s.chkstop || s.terminal || s.halted || !s.powered

/-! ## Unacknowledged messages and FC.STAT (R457, R463) -/

def State.unackedOf (s : State) (c : Nat) : Nat := (s.unacked.filter fun x => x.1 == c).length

/-- FC.STAT shows the unacknowledged counts and the highest class. -/
def State.showStat (s : State) : State :=
  let n (c : Nat) : Nat := min 0xFF (s.unackedOf c)
  let v := s.reg rFcStat
  let high := if bit v 63 then 6 else if bit v 62 then 5
    else match [5, 4, 3, 2].find? fun c => decide (0 < n c) with
      | some c => c
      | none => 0
  s.setReg rFcStat (fset (fset (fset (fset (fset v 59 3 high) 48 8 (n 5)) 40 8 (n 4)) 32 8 (n 3)) 24 8 (n 2))

/-! ## Acceptance order (R452) -/

/-- The messages of a queue that arrive in one cycle: those detected at the same time as its head (DEDUCED, log entry 24). -/
def arriving : List Msg → List Msg
  | [] => []
  | m :: l => m :: l.takeWhile fun x => x.tod == m.tod

/-- The messages that arrive now, lower die first. -/
def State.heads (s : State) : List Msg := (List.range 11).flatMap fun d => arriving (s.queue d)

/-- Message b is accepted before message a, which stands before it in die order: higher sent class, then the lower unit of the same
die. -/
def acceptedBefore (b a : Msg) : Bool :=
  decide (msgClass a.word < msgClass b.word) ||
    (msgClass a.word == msgClass b.word && msgDie a.word == msgDie b.word && decide (msgUnit b.word < msgUnit a.word))

/-- The message accepted next: higher sent class first, then the lower die, then the lower unit. -/
def State.nextMsg (s : State) : Option Msg :=
  match s.heads with
  | [] => none
  | m :: ms => some (ms.foldl (fun a b => if acceptedBefore b a then b else a) m)

/-- A message leaves the queue of its die. -/
def State.unqueue (s : State) (m : Msg) : State := s.setQueue (msgDie m.word) ((s.queue (msgDie m.word)).erase m)

/-- The sequence number after w (R452). -/
def nextSeq (w : Word) : Word := if w = 0xFFFFFFFF then 1 else w + 1

/-! ## Handled class (R455, R457) -/

/-- The images that a message handled as class 4 stops (R455), or none. -/
def State.stopped4 (s : State) (m : Msg) : Option Nat :=
  let k := msgKind m.word
  let y := msgSynd m.word
  let mapped (p : Nat) : Option Nat := if (s.sub p).mapped then some (s.sub p).image else none
  if k = 0x02 then some (y / 2 ^ 24 % 256)
  else if k = 0x29 then some (y % 256)
  else if k = 0x65 then some (y / 2 ^ 33)
  else if k = 0x64 then mapped (y % 131072)
  else if k = 0x66 then (match m.img with | some i => some i | none => mapped (y % 131072))
  else if msgDie m.word < 8 ∧ msgUnit m.word < 0x40 then m.img
  else none

/-- The class a message is handled as (R457). -/
def State.handledClass (s : State) (m : Msg) : Nat :=
  let c := msgClass m.word
  let h := if msgInj m.word = false ∧ 2 ≤ c ∧ c ≤ 5 ∧ 0 < s.unackedOf c then c + 1 else c
  if h = 4 ∧ s.stopped4 m = none then 5 else h

/-! ## History, counts, thresholds, captures (R459 to R462, R471) -/

/-- META of a history entry. -/
def metaWord (coin acked esc sup : Bool) (src h : Nat) (q : Word) : Dword :=
  BitVec.ofNat 64 (2 ^ 63 + coin.toNat <<< 62 + acked.toNat <<< 61 + src <<< 59 + esc.toNat <<< 58 + sup.toNat <<< 57 + h <<< 54 + q.toNat)

/-- A message entered as number q (R462). -/
def State.enterHistory (s : State) (m : Msg) (q : Word) (v : Dword) : State :=
  let i := q.toNat % 64
  (((s.setReg (rHistMsg i) m.word).setReg (rHistTod i) m.tod).setReg (rHistMeta i) v).setReg rHistHead
    (BitVec.ofNat 64 (i <<< 32 + q.toNat))

/-- The first uninjected message of a class is captured; later ones increase MORE (R460). -/
def State.capture (s : State) (h : Nat) (m : Msg) (q : Word) : State :=
  let v := s.reg (rFirstStat h)
  if bit v 63 then s.setReg (rFirstStat h) (fset v 32 16 (satInc (fget v 32 16) 16))
  else
    ((s.setReg (rFirstMsg h) m.word).setReg (rFirstTod h) m.tod).setReg (rFirstStat h)
      (setBit (setBit (BitVec.ofNat 64 q.toNat) 63 true) 61 m.coin)

/-- The threshold of a message's kind (R459). -/
def State.threshold (s : State) (m : Msg) : State :=
  let a := rThr (msgKind m.word)
  let v := s.reg a
  let n := fget v 16 16 + 1
  if fget v 48 16 = 0 then s.setReg a (fset v 16 16 (min n 0xFFFF))
  else if n < fget v 48 16 then s.setReg a (fset v 16 16 n)
  else (s.setReg a (fset (fset v 16 16 0) 0 16 (satInc (fget v 0 16) 16))).send 10 0x10 0xA8 2
    (msgDie m.word <<< 16 + msgUnit m.word <<< 8 + msgKind m.word)

/-! ## Plain links (R35, R37, R468) -/

/-- The link at a port of a die (R35). -/
def plainIndex (die port : Nat) : Option Nat :=
  ((List.range plainLinks.length).filter fun i => match plainLinks[i]? with
    | some l => l.1 == die || l.2 == die
    | none => false)[port]?

/-- The dies that the service die reaches over the links in service. -/
def State.plainReach (s : State) : List Nat :=
  (List.range 11).foldl (fun l _ => plainStep s.plainUp l) [10]

/-- A sending side of a link (R468). -/
def State.plainSide (s : State) (die port : Nat) : PlainTx := sget (fun _ => PlainTx.none) s.plainTx (4 * die + port)
def State.setPlainSide (s : State) (die port : Nat) (x : PlainTx) : State :=
  { s with plainTx := sput (fun _ => PlainTx.none) s.plainTx (4 * die + port) x }

/-- Flits sent: the retry buffer keeps the last 128, and a failing flit moves away from the newest (R468). -/
def PlainTx.send (x : PlainTx) (l : List Flit) : PlainTx :=
  let all := x.buf ++ l
  { buf := all.drop (all.length - 128), failing := x.failing.map fun f => (f.1 + l.length, f.2) }

/-- A flit, by its place from the newest, fails once more. -/
def PlainTx.fail (x : PlainTx) (back : Nat) : PlainTx :=
  { x with failing := some (back, match x.failing with | some f => if f.1 = back then f.2 + 1 else 1 | .none => 1) }

/-- The failures in a row of the flit that failed last. -/
def PlainTx.fails (x : PlainTx) : Nat := match x.failing with | some f => f.2 | .none => 0

/-- The port of a die towards a neighbour. -/
def State.portTo (s : State) (die next : Nat) : Option Nat :=
  (List.range 4).find? fun p => match plainIndex die p with
    | some i => !(s.plainDown.contains i) && (match plainLinks[i]? with | some l => l == (die, next) || l == (next, die) | none => false)
    | none => false

/-- The flits of a failed link's retry buffer are sent over the new routes, in their order (R468). -/
def State.resendFlits (s : State) (die port : Nat) : State :=
  let l := (s.plainSide die port).buf
  l.foldl (fun t f => match t.portTo die ((t.routes.getD die []).getD f.dst.val die) with
    | some p => t.setPlainSide die p ((t.plainSide die p).send [f])
    | none => t) (s.setPlainSide die port PlainTx.none)

/-- A link leaves the routes, and both of its ends send again what they hold; a die that no route reaches is reported (R37, R468). -/
def State.plainFail (s : State) (die port : Nat) (report inj : Bool) : State :=
  match plainIndex die port with
  | none => s
  | some i =>
    if s.plainDown.contains i then s
    else
      let s1 := ({ s with plainDown := s.plainDown ++ [i] } : State).loadRoutes
      let s2 := if report then s1.condBegin die (0x71 + port) 0x81 3 0 0 inj else s1
      let ends := (List.range 44).filter fun k => plainIndex (k / 4) (k % 4) == some i
      let s3 := ends.foldl (fun t k => t.resendFlits (k / 4) (k % 4)) s2
      ((List.range 11).filter fun d => !s3.plainReach.contains d).foldl (fun t d => t.condBegin 10 0x70 0x83 5 d d inj) s3

/-- A flit of the retry buffer, `back` places before the newest of those sent, fails: it and every later one are sent again, and the
eighth failure in a row fails the link (R468). An injection of type 0x07 covers as many flits as its PARAM says. -/
def State.flitError (s : State) (die port : Nat) (sent : List Flit) (back : Nat) : State :=
  match plainIndex die port with
  | none => s
  | some l =>
    let tx := (s.plainSide die port).send sent
    if s.plainDown.contains l ∨ tx.buf.length ≤ back then s
    else
      let x := s.injAt die (0x71 + port) 7
      let s1 := match x with
        | some i =>
          let t := s.dropInj i
          if i.param ≤ 1 then t else { t with injected := t.injected ++ [{ i with param := i.param - 1 }] }
        | none => s
      let tx1 := tx.fail back
      let s2 := s1.setPlainSide die port tx1
      if tx1.fails < 8 then s2.send die (0x71 + port) 0x80 1 tx1.fails x.isSome else s2.plainFail die port true x.isSome

/-! ## Management cores (R473, R475, R483) -/

def rSeStat : Nat := regAddr 10 0 10 0x28
def mgmtUnit (m : Nat) : Nat := 288 + m
/-- SV.SE_STAT.MC_RUN, bit m. -/
def State.mcRuns (s : State) (m : Nat) : Bool := bit (s.reg rSeStat) m

def State.mcStop (s : State) (m : Nat) : State :=
  (s.modUnit (mgmtUnit m) fun c => { c with running := false, stopped := true }).setRf rSeStat m 1 0

/-- A management core begins with the PSW read, every other register 0 but its prefix; with none that the small profile may
load it stays stopped (DESIGN CHOICE, log entry 35). -/
def State.mcRun (s : State) (m pre : Nat) : Option Psw → State
  | some p =>
    if newPswOk (mgmtUnit m) s.freshUnit p then
      (s.setUnit (mgmtUnit m) { (s.freshUnit.setC 3 (BitVec.ofNat 64 pre)) with psw := p, running := true, stopped := false }).setRf rSeStat m 1 1
    else s
  | none => s

/-- Management core m starts with c3 at its prefix area (R473, R520 step 5). -/
def State.mcStart (s : State) (m : Nat) : State :=
  s.mcRun m (m * 0x2000) (Psw.ofBytes (s.wsBytes (wsCell 10 (m * 0x2000 + 0x1B0)) 16))

/-- The waiting entry answers no FSP request any more. -/
def TodWait.drop : TodWait → TodWait
  | .snap _ => .snap []
  | x => x

/-- The FSP requests that a waiting entry answers. -/
def TodWait.who : TodWait → List (Nat × Word)
  | .snap l => l
  | .step _ _ => []

/-- The FSP requests that are held, which are SNAPs: the lowest-numbered running management core holds them (log entry 35). -/
def State.heldSnaps (s : State) : List (Nat × Word) := s.snapWait ++ s.todWait.flatMap TodWait.who

/-- The held requests of a failed core are answered with status 0x0006 (R475). -/
def State.answerHeld (s : State) : State :=
  s.heldSnaps.foldl (fun t x => t.fspSend x.1 false 7 1 x.2 0x0006 []) { s with snapWait := [], todWait := s.todWait.map TodWait.drop }

/-- A management core fails (R475). -/
def State.mcFail (s : State) (m : Nat) : State :=
  if !(s.mcRuns m) then s
  else
    let first := (List.range 4).find? s.mcRuns == some m
    let s1 := (if first then s.answerHeld else s).mcStop m
    s1.send 10 m 0x98 (if (List.range 4).any s1.mcRuns then 3 else 6) 0

/-- An external code made pending at every running management core (R474). -/
def State.mcCode (s : State) (code : BitVec 16) : State :=
  ((List.range 4).filter s.mcRuns).foldl (fun t m => t.pendCode (mgmtUnit m) code) s

/-! ## Class actions (R454 to R456) -/

/-- The image is stopped: IOSTART gives CC 2 and every IRUN of it ends with reason 0x0005 (R454). -/
def State.stopImage (s : State) (i : Nat) (m : Msg) : State :=
  match s.image i with
  | some e => s.setImage i (some { e with st := .stopped, stopMsg := m.word })
  | none => s

/-- Isolation of the source of a message raised to class 3 (R456). -/
def State.isolate (s : State) (die unit : Nat) : State :=
  if 0x71 ≤ unit ∧ unit ≤ 0x74 then s.plainFail die (unit - 0x71) false false
  else if die < 8 then
    (if unit < 26 then (match s.cpuOn (26 * die + unit) with | some n => s.spareCpu n | none => s)
     else if 0x20 ≤ unit ∧ unit < 0x3A then s.l2Disable (26 * die + (unit - 0x20))
     else if 0x40 ≤ unit ∧ unit < 0x60 then s.l3Disable die
     else if unit = 0x60 ∨ unit = 0x61 then s.failChannel (2 * die + (unit - 0x60))
     else if unit = 0x68 ∨ unit = 0x69 then s.accLeave (die, unit - 0x68) 3
     else s)
  else if die < 10 then
    (if unit < 0x30 then s.engineFail die unit false
     else if 0x40 ≤ unit ∧ unit < 0x4C then s.clDisable die (unit - 0x40)
     else if 0x50 ≤ unit ∧ unit < 0x58 then s.accLeave (die, unit - 0x50) 3
     else if 0x60 ≤ unit ∧ unit ≤ 0x62 then s.chDieFail die
     else if unit = 0x63 then s.mirrorDown
     else s)
  else if unit < 4 then s.mcStop unit
  else s

/-- A message is told to the service elements and, below class 6, to host-state software (R454, R484, R485). -/
def State.tell (s : State) (h : Nat) (m : Msg) (q : Word) : State :=
  let s1 := s.fspEvent 5 1 [m.word, m.tod, BitVec.ofNat 64 q.toNat]
  if h < 6 then s1.hostSignal 1 q.toNat else s1

/-- The checkstop: FC.STAT.CHKSTOP, ALIVE stops and CHKSTOP_N is driven (R454, R466). -/
def State.stopModule (s : State) : State :=
  { s.setReg rFcStat (setBit (s.reg rFcStat) 62 true) with alive := .low, chkstopN := .low }

/-! ### Set points (R501, R502) -/

/-- The set point of rails 0 to 4 in mV. -/
def State.setPoint (s : State) (r : Nat) : Nat := sget (fun r => if r < 4 then 800 else 750) s.vset r

/-- One AVSBus command: a VCORE rail moves by at most 10 mV towards a voltage, within 0.55 to 0.95 V. -/
def State.avsCommand (s : State) (r mv : Nat) : State :=
  let goal := min 950 (max 550 mv)
  let v := s.setPoint r
  if v = goal then s
  else
    let w := if v < goal then min goal (v + 10) else max goal (v - 10)
    { s with vset := sput (fun r => if r < 4 then 800 else 750) s.vset r w, railCmds := s.railCmds ++ [.volts r w] }

/-- The commands that bring a VCORE rail to a voltage: 400 mV are at most 40. -/
def State.avsTo (s : State) (r mv : Nat) : State := (List.range 40).foldl (fun t _ => t.avsCommand r mv) s

/-- The terminal stop: class 6 state, every VCORE rail commanded to its minimum (R454, R466, R502). -/
def State.stopTerminal (s : State) : State :=
  (List.range 4).foldl (fun t r => t.avsTo r 550)
    { s.setReg rFcStat (setBit (s.reg rFcStat) 63 true) with alive := .low, chkstopN := .low }

/-- The action of the handled class (R454). -/
def State.classAction (s : State) (h : Nat) (m : Msg) (q : Word) : State :=
  if h < 2 then s
  else
    let s1 := s.tell h m q
    if h = 3 then (if msgClass m.word < 3 then s1.isolate (msgDie m.word) (msgUnit m.word) else s1)
    else if h = 4 then (match s1.stopped4 m with | some i => s1.stopImage i m | none => s1)
    else if h = 5 then s1.stopModule
    else if h = 6 then s1.stopTerminal
    else s1

/-- A message leaves its queue and is numbered, recorded, classified and acted on (R452 to R462, R471). -/
def State.accept (s : State) (m : Msg) : State :=
  let s0 := s.unqueue m
  let q := nextSeq (BitVec.ofNat 32 (s0.rf rHistHead 0 32))
  let h := s0.handledClass m
  let inj := msgInj m.word
  let sup := inj && decide (4 ≤ h) && !(bit (s0.reg rInjLive) 63)
  let none_ := inj || decide (h < 2) || decide (h = 6)
  let s1 := s0.enterHistory m q (metaWord m.coin none_ (decide (msgClass m.word < h)) sup (if none_ then 3 else 0) h q)
  let s2 := if inj then s1.errInc rCntMisc 32 16 63
    else
      let t := ((s1.errInc (rFcCnt h) 0 32 63).capture h m q)
      if h < 2 then t.threshold m else t
  let s3 : State := if none_ then s2 else { s2 with unacked := s2.unacked ++ [(h, q)] }
  let s4 := if sup then s3 else s3.classAction h m q
  (((List.range 7).foldl State.showPresent s4).showStat).mcCode 0x3102

/-- A message that found its queue full is added to the counts (R451). -/
def State.merge (s : State) : State :=
  match s.merges with
  | [] => s
  | m :: r =>
    let s1 := ({ s with merges := r } : State).errInc rCntMisc 0 32 62
    if msgInj m.word then s1 else s1.threshold m

/-! ## Acknowledgment (R463) -/

/-- The number x is at most S across a wrap. -/
def seqCovers (S x : Word) : Bool := decide ((S - x).toNat < 2 ^ 31)

/-- Messages handled as class c up to number S are acknowledged; src is ACK_SRC. -/
def State.ackUpTo (s : State) (c : Nat) (S : Word) (src : Nat) : State :=
  let hit := s.unacked.filter fun x => x.1 == c && seqCovers S x.2
  let s1 : State := { s with unacked := s.unacked.filter fun x => !(x.1 == c && seqCovers S x.2) }
  (hit.foldl (fun t x =>
    let a := rHistMeta (x.2.toNat % 64)
    let v := t.reg a
    if fget v 0 32 = x.2.toNat then t.setReg a (fset (setBit v 61 true) 59 2 src) else t) s1).showStat

/-- FIRST_STAT[c].VALID written 1 (R460). -/
def State.rearm (s : State) (c : Nat) : State :=
  let v := s.reg (rFirstStat c)
  s.setReg (rFirstStat c) (fset (fset v 62 2 0) 32 16 0)

/-! ## Injection (R469 to R472, R536) -/

/-- The unit of a message or injection is present (R26, R28). -/
def State.unitPresent (s : State) (die unit : Nat) : Bool :=
  (unit == 0x7C || unit == 0x7D || unit == 0x70 || (decide (0x71 ≤ unit) && decide (unit ≤ 0x74) && (plainIndex die (unit - 0x71)).isSome)) ||
  (if die < 8 then (decide (unit % 32 < 26) && decide (unit < 0x40) && !s.fuses.fusedOff.contains (die, unit % 32)) ||
      (decide (0x40 ≤ unit) && decide (unit ≤ 0x61)) || unit == 0x68 || unit == 0x69
   else if die < 10 then decide (unit < 0x30) || (decide (0x40 ≤ unit) && decide (unit < 0x4C) && !s.portFused (unit - 0x40)) ||
      (decide (0x50 ≤ unit) && decide (unit < 0x58)) || (decide (0x60 ≤ unit) && decide (unit ≤ 0x63))
   else decide (unit < 4) || [0x10, 0x11, 0x12, 0x20, 0x21, 0x30, 0x31, 0x60].contains unit)

/-- The unit holds an array that types 0x01 and 0x02 reach. -/
def arrayUnit (die unit : Nat) : Bool :=
  if die < 8 then (decide (0x20 ≤ unit) && decide (unit < 0x3A)) || (decide (0x40 ≤ unit) && decide (unit ≤ 0x61))
  else if die < 10 then decide (0x60 ≤ unit) && decide (unit ≤ 0x62) else unit == 0x60

/-- The unit accepts the type (R469). -/
def injAccepts (die unit typ : Nat) : Bool :=
  if typ = 1 ∨ typ = 2 then arrayUnit die unit
  else if typ = 3 then decide (die < 8) && (unit == 0x60 || unit == 0x61)
  else if typ ≤ 6 then decide (die < 8) && decide (unit < 26)
  else if typ = 7 then decide (0x71 ≤ unit) && decide (unit ≤ 0x74)
  else if typ = 8 then if die < 8 then unit == 0x68 || unit == 0x69
    else decide (die < 10) && (decide (unit < 0x30) || (decide (0x50 ≤ unit) && decide (unit < 0x58)))
  else unit == 0x7C

/-- The parameter is one that the type gives. -/
def injParam (typ param : Nat) : Bool :=
  if typ = 1 then decide (param ≤ 127) else if typ = 2 then decide (param ≤ 126) else if typ = 3 then decide (param ≤ 19)
  else if typ = 4 then decide (param ≤ 15) else if typ = 7 then decide (1 ≤ param) && decide (param ≤ 8)
  else if typ = 9 then param == 0x89 || param == 0x8A else param == 0

/-- The target is installed and in the unit's range (R469, R536). -/
def State.injTarget (s : State) (die unit typ t : Nat) : Bool :=
  if 3 < typ then true
  else if 8 ≤ die then
    if unit = 0x60 then decide (t < if die = 10 then 0x800000 else 0x2000000)
    else decide (t / 2 ^ 21 = 0) && decide (t / 2 ^ 17 % 8 ≤ if unit = 0x62 then 4 else 3) && recDie (t % 131072) (decide (t / 2 ^ 20 % 2 = 1)) == die
  else decide (t < s.dramSize) &&
    (if unit < 0x40 then true
     else if unit < 0x60 then l3Set (t / 256) / 1024 == unit - 0x40
     else s.onChannel (2 * die + (unit - 0x60)) t)

/-- The check of FC.INJ_CTL.ARM on the value held (R472); a PARAM outside the type's range counts as code 0x02. -/
def State.injCheck (s : State) : Nat :=
  let v := s.reg rInjCtl
  let die := fget v 44 4
  let unit := fget v 36 8
  let typ := fget v 28 8
  if !(s.unitPresent die unit && injAccepts die unit typ) then 0x01
  else if !(injParam typ (fget v 20 8)) || !(s.injTarget die unit typ (s.rf rInjTgt 0 50)) then 0x02
  else 0

/-- A write of FC.INJ_CTL has applied its fields with ARM 1 (R19, R469). -/
def State.armInjection (s : State) (was : Bool) : State :=
  if was then s
  else
    let r := s.injCheck
    let s1 := (s.setRf rInjCtl 48 8 r).setRf rInjCtl 63 1 (if r = 0 then 1 else 0)
    if r = 0 then s1.setRf rInjCtl 62 1 0 else s1

/-- Bits that types 0x01 and 0x02 invert, as errors of the array of the unit (R434, R469). -/
def injErrs (die unit typ param t : Nat) : List ArrErr :=
  let ps := if typ = 1 then [param] else [param, param + 1]
  if typ = 3 then [⟨die, unit, t / 128 * 128, .device param, true⟩]
  else if 8 ≤ die ∧ unit = 0x60 then rowErrs die t ps true
  else if 8 ≤ die then rowErrs (recRow unit t).1 (recRow unit t).2 ps true
  else [⟨die, unit, t / 16 * 16, .bits ps, true⟩]

/-- The accelerator engine of a unit number. -/
def accOf (die unit : Nat) : Nat × Nat := if die < 8 then (die, unit - 0x68) else (die, unit - 0x50)

/-- The armed injection is performed (R469). -/
def State.performInjection (s : State) : State :=
  let v := s.reg rInjCtl
  if !(bit v 63) then s
  else
    let die := fget v 44 4
    let unit := fget v 36 8
    let typ := fget v 28 8
    let param := fget v 20 8
    let s1 := s.setReg rInjCtl (setBit (setBit v 63 false) 62 true)
    if typ ≤ 3 then { s1 with errs := s1.errs ++ injErrs die unit typ param (s1.rf rInjTgt 0 50) }
    else if typ = 8 then
      if 8 ≤ die ∧ unit < 0x30 then s1.engineFail die unit true
      else
        let e := accOf die unit
        if s1.accServes e then
          ({ s1.send die unit 0x52 3 (0xFF <<< 32) true with accFailed := (accKey e.1 e.2 :: s1.accFailed).eraseDups } : State).accLeave e 3 true
        else s1
    else { s1 with injected := s1.injected ++ [⟨die, unit, typ, param⟩] }

/-! ## Time (R56, R459, R510) -/

/-- Thresholds whose window ends at a time-of-day passed between t and t + d (R459). -/
def State.windows (s : State) (t d : Nat) : State :=
  let ks := (s.regs.map (·.1)).filter fun a => decide (rThr 0 ≤ a) && decide (a ≤ rThr 255)
  ks.foldl (fun u a =>
    let w := max 1 (u.rf a 40 8) * 2 ^ 32
    if (t + d) / w = t / w ∧ t + d < 2 ^ 64 then u else u.setRf a 16 16 0) s

/-- The adjusted rate in units of 0.01 ppm (CLK.TOD_STAT.RATE, R512). -/
def rTodStat : Nat := regAddr 12 0 10 0x118
def State.todRate (s : State) : Int := (BitVec.ofNat 16 (s.rf rTodStat 16 16)).toInt

/-! ### Steps of time-of-day and snapshots (R51, R497, R498, R513) -/

def rSnapStat : Nat := regAddr 10 0 10 0x18
def rSnapTod : Nat := regAddr 10 0 10 0x20
def rTodCtl : Nat := regAddr 12 0 10 0x100

/-- The clocks of a die run: it is released (R520 step 7) and not stopped for good (R454). -/
def State.clocked (s : State) (die : Nat) : Bool := s.powered && (die == 10 || (!s.terminal && s.boot.done.contains 7))

/-- A spare that waits in the pool is clock-gated (R199). -/
def State.gated (s : State) (core : Nat) : Bool :=
  (match s.poolBit core with | some b => bit (s.reg rSparePool) b | none => false) && !(s.spareTests.contains core)

/-- Where the SHD.TAG of a window is held: one for each core, and one for the rest of a die. -/
def tagKey (a : Nat) : Nat :=
  let p := regPlace a
  if p.1 < 8 ∧ p.2.1 < 2 then 32 * p.1 + p.2.2.1 + 1 else 32 * p.1

/-- The units under a tag capture: their clocks run (R498). -/
def State.captures (s : State) (key : Nat) : Bool :=
  s.clocked (key / 32) && (key % 32 == 0 || !(s.gated (26 * (key / 32) + (key % 32 - 1))))

/-- A snapshot begins: ID, BUSY, and the token with Tc (R497 step 1). -/
def State.snapBegin (s : State) (who : List (Nat × Word)) : State :=
  let id := s.rf rSnapStat 0 16 + 1
  { s.setReg rSnapStat (setBit (fset (fset (s.reg rSnapStat) 0 16 id) 62 1 0) 63 true) with
    snapAt := some (s.tod + 263), snapTaken := false, snapWait := who }

/-- A snapshot asked for behind what waits: it joins one that waits last. -/
def joinLast (who : List (Nat × Word)) : List TodWait → List TodWait
  | [] => [.snap who]
  | [.snap l] => [.snap (l ++ who)]
  | x :: l => x :: joinLast who l

/-- A request: a new snapshot, or the pending one (R497, R498); behind a step that waits, one captured after that step (R51; log
entry 37). -/
def State.snapRequest (s : State) (who : Option (Nat × Word)) : State :=
  if !s.todWait.isEmpty then { s with todWait := joinLast who.toList s.todWait }
  else if s.snapAt.isSome then { s with snapWait := s.snapWait ++ who.toList }
  else s.snapBegin who.toList

/-- Time-of-day steps (R513): every copy at once, kind 0x9C, service signal 0x06, TOD_EVENT. -/
def State.todSet (s : State) (rel : Bool) (x : Dword) : State :=
  let v := if rel then s.tod + x else x
  ((({ s with tod := v } : State).send 10 0x30 0x9C 0 0).hostSignal 6 0).fspEvent 6 3 [v]

/-- A step, or one that waits until every snapshot asked for before it has been captured (R51). -/
def State.stepTod (s : State) (rel : Bool) (x : Dword) : State :=
  if (s.snapAt.isSome && !s.snapTaken) || !s.todWait.isEmpty then { s with todWait := s.todWait ++ [.step rel x] } else s.todSet rel x

/-- What waits goes on: the steps up to the next snapshot, which begins once none is pending (R51). -/
def State.runWaiting (s : State) : List TodWait → State
  | [] => { s with todWait := [] }
  | .step rel x :: l => (s.todSet rel x).runWaiting l
  | .snap who :: l => if s.snapAt.isSome then { s with todWait := .snap who :: l } else ({ s with todWait := l } : State).snapBegin who

/-- The counters of every unit whose clocks run are copied; the steps that waited follow (R497 step 3, R51). -/
def State.copyCounters (s : State) : State :=
  let now := s.regs.filter fun x => isCounter x.1 && s.captures (tagKey x.1)
  let old := s.shadows.filter fun x => !(s.captures (tagKey x.1))
  let id := some (s.rf rSnapStat 0 16)
  let s1 : State := { s with
    shadows := old ++ now, snapTaken := true,
    snapTags := (List.range 352).filterMap fun k =>
      if s.captures k then some (k, id) else match sget (fun _ => none) s.snapTags k with | some v => some (k, some v) | none => none }
  s1.runWaiting s1.todWait

/-- d units of time-of-day pass (R56, R459). -/
def State.passTod (s : State) (d : Nat) : State :=
  { s.windows s.tod.toNat d with tod := s.tod + BitVec.ofNat 64 d, elapsed := s.elapsed + d }

/-- d units pass, and a pending snapshot is captured when time-of-day reaches its Tc (R497). -/
def State.passUnits (s : State) (d : Nat) : State :=
  match s.snapAt with
  | none => s.passTod d
  | some tc =>
    let w := (tc - s.tod).toNat
    if s.snapTaken || decide (d < w) then s.passTod d else ((s.passTod w).copyCounters).passTod (d - w)

/-- Time passes to Tc, where the pending snapshot is captured (R497 step 3). -/
def State.snapCapture (s : State) : State :=
  match s.snapAt with
  | none => s
  | some tc => if s.snapTaken then s else s.passUnits (tc - s.tod).toNat

/-- The snapshot is reported (R497 step 4), and one that waits begins (R51). -/
def State.snapDone (s : State) : State :=
  match s.snapAt with
  | none => s
  | some tc =>
    if !s.snapTaken then s
    else
      let id := s.rf rSnapStat 0 16
      let s1 : State := { (s.setReg rSnapStat (setBit (setBit (s.reg rSnapStat) 63 false) 62 true)).setReg rSnapTod tc with
        snapAt := none, snapTaken := false, snapWait := [] }
      let s2 := s.snapWait.foldl (fun t x => t.fspSend x.1 false 7 1 x.2 0 [BitVec.ofNat 64 id, tc]) s1
      let s3 := (if bit (s2.reg rSvCtl) 62 then s2.hostSignal 3 id else s2).mcCode 0x3104
      s3.runWaiting s3.todWait

/-- n nominal units pass: Thyme adds them at its rate through the fractional accumulator (R510); copies, timers and
threshold windows follow (R56, R459, R511). -/
def State.advance (s : State) (n : Nat) : State :=
  let total := n * 2 ^ 32 * ((100000000 + s.todRate).toNat) / 100000000 + s.todFrac
  ({ s with todFrac := total % 2 ^ 32 } : State).passUnits (total / 2 ^ 32)

/-- Time passes until the window of kind k ends (R459). -/
def State.windowEnd (s : State) (k : Nat) : State :=
  let w := max 1 (s.rf (rThr k) 40 8) * 2 ^ 32
  s.passUnits (min (w - s.tod.toNat % w) (2 ^ 64 - s.tod.toNat))

end Sys2Proof.Machine
end

