-- ==== Sys2Proof/Machine/RegWrite.lean ====
section
/-! DEFINITION. Register reads and writes (R3, R10 to R22, R41 to R45): access codes, reserved encodings, lifecycle locks,
enable checks and the actions of the registers. -/
namespace Sys2Proof.Machine
open Sys2Proof

/-! ## Lifecycle state (R486, R487) -/

/-- The state of the last row that is blown. -/
def State.lcState (s : State) : Nat := match s.lcRows.getLast? with | some r => r.1 | none => 1
def State.mission (s : State) : Bool := s.lcState == 3
def State.retired (s : State) : Bool := s.lcState == 15

/-! ## Reading (R10, R42, R45, R496) -/

/-- CS.IMG_STAT[n]. -/
def State.imgStat (s : State) (n : Nat) : Dword :=
  match s.image n with
  | none => 0
  | some e =>
    let st := match e.st with | .operating => 1 | .quiescing => 2 | .quiesced => 3 | .stopped => 4
    let pend := (List.range 8).foldl (fun v i => v + if s.conds.any (fun c => c.1 == n && c.2.1 == i) then 2 ^ i else 0) 0
    fset (fset (fset (fset 0 61 3 st) 48 8 pend) 32 16 e.gen.toNat) 0 18 (s.occupancy n)

/-- SV.SE_STAT: the two sessions and MC_RUN. -/
def State.seStat (s : State) : Dword :=
  let code (x : Option Session) : Nat := match x with
    | some y => (match y.role with | .fresh => 0 | .standby => 1 | .active => 2 | .rom => 3)
    | none => 0
  let ver (x : Option Session) : Nat := match x with | some y => y.ver | none => 0
  let port (x : Option Session) : Nat := match x with | some y => y.port | none => 0
  let a := s.session 0
  let b := s.session 1
  fset (fset (fset (fset (fset (fset (s.reg rSeStat) 62 2 (code a)) 60 2 (ver a)) 59 1 (port a)) 54 2 (code b)) 52 2 (ver b)) 51 1 (port b)

/-- LC.STATE. -/
def State.lcStat (s : State) : Dword :=
  fset (fset (fset (fset 0 60 4 s.lcState) 59 1 (if s.lcStep ≠ 0 ∨ s.boot.unfinished = true then 1 else 0)) 56 3 s.lcStep) 40 8 s.lcRows.length

/-- A register of a port fused off (R3). -/
def State.fusedWindow (s : State) (a : Nat) : Bool := (regPlace a).2.1 == 6 && s.portFused (regPlace a).2.2.1

/-- The twelve CL windows of a die address the same login slots. -/
def loginAlias (a : Nat) : Nat :=
  let p := regPlace a
  if p.2.1 = 6 ∧ 0x8000 ≤ p.2.2.2 ∧ p.2.2.2 < 0x18000 then regAddr 6 0 p.1 p.2.2.2 else a

/-- A register as a read returns it (R10, R42): 0 where none stands. -/
def State.regRead (s : State) (a0 : Nat) : Dword :=
  let a := loginAlias a0
  let p := regPlace a
  let off := p.2.2.2
  if !(s.windowPresent a) || s.fusedWindow a0 then 0
  else if off = 0x800FF0 then
    (match hasTag a, sget (fun _ => none) s.snapTags (tagKey a) with
     | true, some id => fset (setBit 0 63 true) 0 16 id
     | _, _ => 0)
  else if 0x800000 ≤ off then
    (if isCounter (shadowed a) && (sget (fun _ => none) s.snapTags (tagKey a)).isSome then sget regDefault s.shadows (shadowed a) else 0)
  else match findReg a with
  | none => 0
  | some (d, i) =>
    let v := s.reg a
    if d.name = "CS.IMG_STAT" then s.imgStat i
    else if d.name = "CS.IMG_SHARE" then (match s.image i with | some e => fset (fset 0 24 18 e.slots) 0 10 e.weight | none => 0)
    else if d.name = "CE.CTL" then fset v 0 18 (s.assignedTo p.1 p.2.2.1).length
    else if d.name = "CL.LGN_STAT" then fset v 0 18 (s.exchangesOn (p.1 * 4096 + i)).length
    else if d.name = "DC.REF_MODE" then fset v 48 8 (s.debtMax (2 * p.1 + p.2.2.1))
    else if d.name = "SV.SE_STAT" then s.seStat
    else if d.name = "LC.STATE" then s.lcStat
    else if d.name = "CLK.TOD" then s.tod
    else v

/-! ## Writing (R10 to R22) -/

/-- Fields written under their access codes (R10); WO and RO fields keep what they hold. -/
def applyFields (fs : List RField) (old v : Dword) : Dword :=
  fs.foldl (fun r f =>
    let w := f.hi - f.lo + 1
    match f.acc with
    | .rw | .rwl => fset r f.lo w (fget v f.lo w)
    | .w1c => r &&& ~~~ (fset 0 f.lo w (fget v f.lo w))
    | .w1s => r ||| fset 0 f.lo w (fget v f.lo w)
    | .ro | .wo => r) old

/-- A reserved encoding in an enumerated field, or a value the register refuses with reason 0x81 (R14, R504). -/
def reservedWrite (name : String) (v : Dword) : Bool :=
  if name = "DC.CFG" then decide (3 < fget v 60 4) || decide (1 < fget v 57 2) || fget v 55 2 == 3 || fget v 53 2 == 3
  else if name = "CL.PROTO" then !([3, 4, 5].contains (fget v 61 3)) || !([3, 4, 5].contains (fget v 58 3))
  else if name = "CL.LGN_ADDR" then decide (12 ≤ fget v 48 4)
  else if name = "FC.ACK" then !([2, 3, 4, 5].contains (fget v 61 3))
  else if name = "FC.INJ_CTL" then decide (10 < fget v 44 4) || decide (fget v 28 8 = 0) || decide (9 < fget v 28 8)
  else if name = "CLK.TOD_CTL" then fget v 6 2 == 3
  else if name = "PWR.SLEW" then decide (fget v 48 9 < 25) || decide (400 < fget v 48 9)
  else false

/-- The lifecycle state locks the write (R15, R305, R487). -/
def State.lockedWrite (s : State) (d : RegDesc) (a : Nat) (v : Dword) : Bool :=
  let p := regPlace a
  (s.retired && d.typ != 9 && d.typ != 10) ||
  (s.mission &&
    ((d.name == "FC.INJ_LIVE" && bit v 63) || (d.name == "LC.CTL" && bit v 63) ||
     (d.name == "DC.REF_MODE" && bit (s.reg a) 63 && !(bit v 63)) ||
     (d.name == "DC.CTL" && bit (s.reg a) 63 && !(bit v 63) && s.dcKeeps (2 * p.1 + p.2.2.1) true)))

/-- A value with the fields of two lists zeroed by a CLR bit. -/
def clearFields (v : Dword) (l : List (Nat × Nat)) : Dword := l.foldl (fun r x => fset r x.1 x.2 0) v

/-- What a write of 1 to CLR zeroes, by register (R494), with the number of the CLR bit. -/
def clrFields (name : String) : Option (Nat × List (Nat × Nat)) :=
  if name = "CORE.CHK_STAT" then some (60, [(0, 60), (61, 3)])
  else if name = "L2.ERR" ∨ name = "L3.ERR" ∨ name = "DC.ERR" then some (61, [(62, 2), (32, 16), (16, 16)])
  else if name = "CS.STALE" ∨ name = "CL.CNT_DISC" ∨ name = "CL.CNT_TAG" ∨ name = "FC.CNT" then some (62, [(63, 1), (0, 32)])
  else if name = "ACC.ERR" then some (61, [(62, 2), (0, 32)])
  else if name = "WS.CNT" then some (60, [(61, 3), (0, 48)])
  else if name = "WS.ERR" then some (61, [(62, 2), (0, 32)])
  else if name = "FC.CNT_MISC" then some (61, [(62, 2), (0, 48)])
  else if name = "PWR.DROOP" then some (62, [(40, 8)])
  else none

/-- A write of DC.CTL (R19, R304, R305). -/
def State.dcCtlWrite (s : State) (c : Nat) (v : Dword) : State :=
  let s1 := if s.dcEn c then s else s.setRf (rDc c 0) 61 1 (fget v 61 1)
  let s2 := if bit v 63 then s1.dcEnable c else s1.dcDisable c
  if bit v 60 && s.dcEn c && s2.dcEn c then s2.startZero c else s2

/-- A write of CL.LGN_ADDR[n] (R383, R398). -/
def State.lgnWrite (s : State) (k : Nat) (v : Dword) : State :=
  let a := rLgnAddr (loginDie k) (loginSlot k)
  if s.lgnEn k then (if bit v 63 then s else s.lgnDisable k)
  else
    let s1 := s.setReg a (fset (fset (s.reg a) 48 4 (fget v 48 4)) 0 48 (fget v 0 48))
    if bit v 63 then s1.lgnEnable k else s1

/-- A write of FC.INJ_CTL (R19, R469). -/
def State.injCtlWrite (s : State) (d : RegDesc) (v : Dword) : State :=
  let was := bit (s.reg rInjCtl) 63
  let s1 := s.setReg rInjCtl (applyFields d.fields (s.reg rInjCtl) v)
  if bit v 63 then s1.armInjection was else s1

/-- An accepted write: the register's fields and its action. `eng` is the engine that writes, for WS.BANK_OWN (R437). -/
def State.performWrite (s : State) (w : Writer) (eng : Option Nat) (d : RegDesc) (i a : Nat) (v : Dword) : State :=
  let p := regPlace a
  let die := p.1
  let inst := p.2.2.1
  let plain := s.setReg a (applyFields d.fields (s.reg a) v)
  match clrFields d.name with
  | some (b, fs) =>
    if bit v b then
      let t := plain.setReg a (clearFields (plain.reg a) fs)
      if d.name = "CORE.CHK_STAT" then (t.setReg (a + 8) 0).setReg (a + 16) 0 else t
    else plain
  | none =>
    if d.name = "L2.CTL" then (if bit v 63 then s.l2Enable (26 * die + inst) else s.l2Disable (26 * die + inst))
    else if d.name = "L3.CTL" then
      let t := s.setRf a 7 1 (fget v 7 1)
      if bit v 63 then t.l3Enable die else t.l3Disable die
    else if d.name = "DC.CTL" then s.dcCtlWrite (2 * die + inst) v
    else if d.name = "DC.CFG" then
      (if plain.reg a = s.reg a then plain else plain.modCtl (2 * die + inst) fun k => { k with trained := false })
    else if d.name = "DC.REF_MODE" then
      let c := 2 * die + inst
      let t := plain.chooseRate c
      if t.works c then t else t.switchMode c (bit v 62)
    else if d.name = "DC.TRAIN" then
      (if bit v 61 && !(s.dcEn (2 * die + inst)) then plain.startTraining (2 * die + inst) else plain)
    else if d.name = "CS.CTL" then
      let t := s.setRf a 62 1 (fget v 62 1)
      if bit v 63 then t.csEnable die else t.csDisable die
    else if d.name = "CE.CTL" then (if bit v 63 then s.ceEnable die inst else s.engineStop die inst)
    else if d.name = "CL.CTL" then (if bit v 63 then s.clEnable die inst else s.clDisable die inst)
    else if d.name = "CL.PHY" ∨ d.name = "CL.ETYPE" ∨ d.name = "CL.MAC" ∨ d.name = "CL.NODE_ID" ∨ d.name = "CL.PROTO" then
      (if s.portEn die inst then s else plain)
    else if d.name = "CL.VLAN" then
      (if s.portEn die inst then s.setReg a (fset (fset (s.reg a) 62 1 (fget v 62 1)) 0 32 (fget v 0 32)) else plain)
    else if d.name = "CL.LGN_ADDR" then s.lgnWrite (die * 4096 + i) v
    else if d.name = "ACC.CTL" then
      let t := s.setRf a 36 4 (fget v 36 4)
      if bit v 63 then t.accEnable (die, inst) else if bit (s.reg a) 63 then t.accDisable (die, inst) else t
    else if d.name = "WS.BANK_OWN" then
      (match w, eng with
       | .mgmt, _ => s.bankOwnWrite none die i v
       | _, some e => s.bankOwnWrite (some e) die i v
       | _, none => s)
    else if d.name = "WS.TEST" then
      let t := s.setRf a 16 16 (fget v 16 16)
      if bit v 63 then t.testEnable die else t.setRf a 63 1 0
    else if d.name = "FC.ACK" then s.ackUpTo (fget v 61 3) (BitVec.ofNat 32 (fget v 0 32)) (if w = .mgmt then 1 else 2)
    else if d.name = "FC.FIRST_STAT" then (if bit v 63 then s.rearm i else s)
    else if d.name = "FC.INJ_CTL" then s.injCtlWrite d v
    else if d.name = "SV.CMAP" then s.cmapWrite i v w
    else if d.name = "SV.SNAP" then (if bit v 63 then s.snapRequest none else s)
    else if d.name = "CLK.TOD_CTL" then
      (if bit v 63 then plain else (plain.setRf a 61 2 0).condEnd 10 0x30 0x9B 0)
    else if d.name = "CLK.TOD_SET" then (if bit (s.reg rTodCtl) 63 then s else s.stepTod false v)
    else plain

/-- The reason for which a write is refused whole (R14, R15), 0 when it is not. A write of CL.PROTO with a reserved VMIN or VMAX while its
port is enabled is refused and recorded under R14, though R397 has such a write leave the register unchanged without a record (DESIGN CHOICE,
log 28). -/
def State.writeReason (s : State) (d : RegDesc) (a : Nat) (v : Dword) : Nat :=
  if d.name = "ERR.LAST_WRITE" then 0
  else if s.lockedWrite d a v then 0x80
  else if reservedWrite d.name v then 0x81
  else 0

/-- The register a write reaches, when the plane may write it (R3, R18, R42, R44). -/
def State.writeTarget (s : State) (w : Writer) (a0 : Nat) : Option (RegDesc × Nat × Nat) :=
  let a := loginAlias a0
  let own : Bool := match w with
    | .engine d => (regPlace a).1 == 8 + d.val && decide (4 ≤ (regPlace a).2.1) && decide ((regPlace a).2.1 ≤ 8)
    | _ => true
  if !(s.windowPresent a) || s.fusedWindow a0 || !own then none
  else match findReg a with
  | some (d, i) => if d.allows w then some (d, i, a) else none
  | none => none

/-- A write of a register by a plane (R16): refused whole and recorded, or applied whole. A write by a plane that the
register does not name, or where no register stands, changes nothing; cores and engines that are stopped write nothing (R454). -/
def State.regWriteBy (s : State) (w : Writer) (eng : Option Nat) (a : Nat) (v : Dword) : State :=
  if s.frozen && w != .mgmt then s
  else match s.writeTarget w a with
  | none => s
  | some (d, i, a1) =>
    let r := s.writeReason d a1 v
    if r ≠ 0 then s.refuse a w r else s.performWrite w eng d i a1 v

/-- A write by a plane whose engine does not matter. -/
def State.regWrite (s : State) (w : Writer) (a : Nat) (v : Dword) : State := s.regWriteBy w none a v

end Sys2Proof.Machine
end

