-- ==== Sys2Proof/Machine/Service.lean ====
section
/-! DEFINITION. FSP sessions and messages (R478 to R484), lifecycle transitions (R486 to R490), PTP (R477, R512), JTAG (R487). -/
namespace Sys2Proof.Machine
open Sys2Proof

/-! ## Sessions (R478, R482, R483) -/

def State.setSession (s : State) (i : Nat) (x : Option Session) : State := { s with sessions := sput (fun _ => none) s.sessions i x }

/-- A response on session i (R480, R481). -/
def State.respond (s : State) (i group code : Nat) (req : Word) (status : Nat) (body : List Dword) : State :=
  s.fspSend i false group code req status body

/-- The active session. -/
def State.activeSession (s : State) : Option Nat :=
  (List.range 2).find? fun i => match s.session i with | some x => x.role == .active | none => false

/-- Host-state software is told that the active service element has changed (R485). -/
def State.seSignal (s : State) : State := s.hostSignal 5 (if s.activeSession.isSome then 0 else 1)

/-- A session becomes active and receives SE_CHANGE (R483). -/
def State.promote (s : State) (i : Nat) : State :=
  match s.session i with
  | some x => (s.setSession i (some { x with role := .active, silent := false })).fspSend i true 1 6 0 0 []
  | none => s

/-- The active session on a port is lost: the standby, if any, becomes active, and kind 0x9A is sent (R483). -/
def State.loseActive (s : State) (former port : Nat) : State :=
  let o := 1 - former
  let s1 := match s.session o with
    | some x => if x.role = Role.standby then s.promote o else s
    | none => s
  (s1.send 10 (0x20 + port) 0x9A 2 0).seSignal

/-- A session is gone; the snapshots it requested are answered to nobody. -/
def State.dropSession (s : State) (i : Nat) : State :=
  { s.setSession i none with
    snapWait := s.snapWait.filter fun x => x.1 != i,
    todWait := s.todWait.map fun w => match w with | .snap l => .snap (l.filter fun x => x.1 != i) | w => w }

/-- A session closes. -/
def State.closeSession (s : State) (i : Nat) : State :=
  match s.session i with
  | none => s
  | some x =>
    let s1 := s.dropSession i
    if x.role = .active then s1.loseActive i x.port else s1

/-- The firmware runs: before, the boot ROM serves one session (R478, R520). -/
def State.firmware (s : State) : Bool := s.boot.done.contains 5

/-- A management port whose link is up. -/
def State.mgmtPort (s : State) (p : Nat) : Option MgmtPort := sget (fun _ => none) s.mgmtPorts p

/-- A management port comes up (R476): static addressing under SV.CTL.STATIC_IP, else DHCPv6, else DHCPv4. The boot ROM brings the ports up
from step 4 of R520 on (R478). -/
def State.mgmtUp (s : State) (l : MgmtLink) : State :=
  let p := l.port.val
  if !(s.boot.done.contains 3) then s
  else
    let addr : Option (AddrSrc × BitVec 128) :=
      if bit (s.reg rSvCtl) 61 then some (.static, Config.staticAddr p)
      else match l.dhcp6 with
        | some a => some (.dhcp6, a)
        | none => l.dhcp4.map fun a => (.dhcp4, a.setWidth 128)
    ({ s with mgmtPorts := sput (fun _ => none) s.mgmtPorts p (some ⟨l.fec, addr⟩) } : State).condEnd 10 (0x20 + p) 0x99 p

/-- The trust anchor of the lifecycle state (R479): Vocen's in MANUFACTURE, and while no owner's has been fused (DESIGN CHOICE, log entry
35); the owner's after. -/
def State.trustAnchor (s : State) : Anchor :=
  if s.lcState = 1 then .vocen else match s.owner with | some o => .root o.anchor | none => .vocen

/-- The module's side of a handshake (R479): a suite and a signature scheme that it knows, a certificate that verifies up to the anchor of
the lifecycle state, no resumption. -/
def State.tlsAccepts (s : State) (c : TlsClient) : Bool :=
  c.suites.any (fun x => x == 0x1302 || x == 0x1301) && c.schemes.any (fun x => x == 0x0503 || x == 0x0807) &&
    c.verified && !c.resumes && c.anchor == s.trustAnchor

/-- The module takes connections: step 3 of R520 has ended, no wipe has closed the sessions to have them opened again after its step 3
(R489), and the port has a link and an address (R476). -/
def State.listens (s : State) (port : Nat) : Bool :=
  s.powered && s.boot.done.contains 3 && (s.lcStep == 0 || decide (3 < s.lcStep)) &&
    (match s.mgmtPort port with | some m => m.addr.isSome | none => false)

/-- A connection is accepted after its handshake, or a further one is closed with BYE (R479, R483). -/
def State.connect (s : State) (port : Nat) (c : TlsClient) : State :=
  let limit := if s.firmware then 2 else 1
  let open_ := ((List.range 2).filter fun i => (s.session i).isSome).length
  if !(s.listens port) || !(s.tlsAccepts c) then s
  else if limit ≤ open_ then s.fspSend 2 false 1 2 0 0x0006 []
  else
    let i := if (s.session 0).isNone then 0 else 1
    s.setSession i (some ⟨port, 0, .fresh, false⟩)

/-- HELLO (R482, R483). -/
def State.hello (s : State) (i : Nat) (req : Word) (vmin vmax : Nat) : State :=
  match s.session i with
  | none => s
  | some x =>
    if x.role ≠ .fresh then s.respond i 1 1 req 0x0001 []
    else
      let v := commonVer vmin vmax 1 3
      if v = 0 then (s.respond i 1 1 req 0x0002 []).setSession i none
      else
        let role : Role := if !s.firmware then .rom else if s.activeSession.isSome then .standby else .active
        let s1 := (s.setSession i (some { x with ver := v, role := role })).respond i 1 1 req 0 [BitVec.ofNat 64 v]
        if role = .active then s1.seSignal else s1

/-- Groups and codes served in RETIRED (R487). -/
def retiredServes (group code : Nat) : Bool := group == 1 || group == 3 || group == 5 || (group == 4 && code == 1)

/-- A record on session i: refused with a status, or acted on (R478, R480 to R484, R487). The tests are made in the order of
their statuses. -/
def State.admitRecord (s : State) (i : Nat) (req : Word) (group code ver : Nat) (active : Bool) (f : State → State) : State :=
  match s.session i with
  | none => s
  | some x =>
    let t := (s.setSession i (some { x with silent := false })).mcCode 0x3101
    if x.role = .fresh ∨ (x.role = .rom ∧ group ≠ 1 ∧ group ≠ 2) then t.respond i group code req 0x0001 []
    else if x.ver < ver then t.respond i group code req 0x0002 []
    else if active ∧ x.role ≠ .active ∧ x.role ≠ .rom then t.respond i group code req 0x0003 []
    else if s.retired ∧ retiredServes group code = false then t.respond i group code req 0x0004 []
    else f t

/-- The role of session i is the boot ROM's. -/
def State.isRom (s : State) (i : Nat) : Bool := match s.session i with | some x => x.role == .rom | none => false

/-- TAKEOVER by a session that is not active (R483). -/
def State.takeover (s : State) (i : Nat) (req : Word) : State :=
  match s.activeSession with
  | none => if s.isRom i then s.respond i 1 4 req 0x0006 [] else ((s.promote i).respond i 1 4 req 0 []).seSignal
  | some a =>
    match s.session a with
    | some x =>
      if a = i ∨ x.silent = false then s.respond i 1 4 req 0x0006 []
      else (((s.setSession a (some { x with role := .standby, silent := false })).promote i).respond i 1 4 req 0 []).seSignal
    | none => s

/-- RELEASE by the active session. -/
def State.release (s : State) (i : Nat) (req : Word) : State :=
  match s.session i with
  | some x =>
    if s.isRom i then s.respond i 1 5 req 0x0003 []
    else ((s.setSession i (some { x with role := .standby })).respond i 1 5 req 0 []).loseActive i x.port
  | none => s

/-- No record for SE_TMO from the active session: a standby takes its role; without one the role waits for a TAKEOVER. -/
def State.silence (s : State) (i : Nat) : State :=
  match s.session i with
  | none => s
  | some x =>
    if x.role ≠ .active ∨ x.silent = true then s
    else match s.session (1 - i) with
      | some y =>
        if y.role = .standby then (s.setSession i (some { x with role := .standby })).loseActive i x.port
        else (s.setSession i (some { x with silent := true })).loseActive i x.port
      | none => (s.setSession i (some { x with silent := true })).loseActive i x.port

/-! ## Load (R478, R484, R520) -/

/-- The die that an image is for. -/
def loadDie : LoadKind → Nat
  | .mgmt => 10
  | .engine d => 8 + d.val
  | .host => 0

/-- LOAD_BEGIN: the boot ROM takes management firmware alone (R478), and the host program waits for step 10 (R520). -/
def State.loadBegin (s : State) (i : Nat) (req : Word) (k : LoadKind) (ver : Nat) : State :=
  let ready := match k with
    | .mgmt => true
    | .engine _ => s.boot.done.contains 5
    | .host => s.boot.done.contains 10
  if ready then { s.respond i 2 1 req 0 [] with load := some ⟨k, ver, []⟩ } else s.respond i 2 1 req 0x0006 []

/-- LOAD_DATA: a body longer than a record may have is malformed (R480, R481). -/
def State.loadData (s : State) (i : Nat) (req : Word) (data : List Byte) : State :=
  match s.load with
  | none => s.respond i 2 2 req 0x0001 []
  | some l => if 65536 < data.length then s.respond i 2 2 req 0x0001 [] else { s.respond i 2 2 req 0 [] with load := some { l with data := l.data ++ data } }

/-- The host initial program written to DRAM from absolute address 0. -/
def State.writeHost (s : State) (data : List Byte) : State :=
  (sectorParts 0 (min data.length s.dramSize)).foldl (fun t x => t.homeWrite (x.1 / 64) (cellsAt x.1 ((data.drop x.1).take x.2))) s

/-- LOAD_END: an image whose signature fails is discarded (R478). An engine file holds the contents of the prefix area, which no rule fills
otherwise (DESIGN CHOICE, log 34), then the 16 KB image, as the engine bank is laid out (R431). -/
def State.loadEnd (s : State) (i : Nat) (req : Word) (ok : Bool) : State :=
  match s.load with
  | none => s.respond i 2 3 req 0x0001 []
  | some l =>
    let s1 : State := { s with load := none }
    if !ok then (s1.send 10 0x12 0xA0 3 (loadDie l.kind)).respond i 2 3 req 0x0005 []
    else
      let s2 : State := match l.kind with
        | .mgmt => { s1.wsPut (wsCell 10 0) (l.data.take (28 * 0x40000)) with fwLoaded := true }
        | .engine d =>
          let t := (List.range 48).foldl (fun u e => u.wsPut (wsCell (8 + d.val) ((72 + e) * 0x40000)) (l.data.take 0x6000)) s1
          { t with engineFw := sput (fun _ => none) t.engineFw (8 + d.val) (some l.ver) }
        | .host => { s1.writeHost l.data with hostLoaded := true }
      s2.respond i 2 3 req 0 []

/-! ## Registers (R481, R482, R484) -/

/-- Registers with an enable bit 63 and its check. -/
def enableNames : List String := ["L2.CTL", "L3.CTL", "DC.CTL", "CS.CTL", "CE.CTL", "CL.CTL", "CL.LGN_ADDR", "ACC.CTL", "WS.TEST", "FC.INJ_CTL"]

/-- Why a write of the management plane was refused, 0 when it was not (R23, R481); t is the state after it. -/
def State.writeResult (s t : State) (a : Nat) (v : Dword) : Nat :=
  match s.writeTarget .mgmt a with
  | none => 0
  | some (d, i, a1) =>
    let r := s.writeReason d a1 v
    if r ≠ 0 then r
    else if d.name = "SV.CMAP" then
      (if fget v 40 4 > 7 ∨ fget v 32 5 > 25 ∨ s.cmapRefused i (fget v 62 2) (26 * fget v 40 4 + fget v 32 5) = true then 0x81 else 0)
    else if d.name = "WS.BANK_OWN" then (if ownerOk (regPlace a1).1 i (fget v 0 8) .mgmt then 0 else 0x81)
    else if enableNames.contains d.name && bit v 63 && !(bit (s.reg a1) 63) && !(bit (t.reg a1) 63) then
      (if d.name = "CL.LGN_ADDR" then fget (t.reg (a1 + 8)) 56 8 else fget (t.reg a1) 48 8)
    else 0

/-- The version a write needs (R482). -/
def writeVersion (a : Nat) : Nat :=
  let p := regPlace a
  if p.2.1 = 13 then 3
  else match findReg a with
  | some (d, _) => if d.name = "SV.CMAP" ∨ d.name = "SV.SPARE_POOL" then 2 else 1
  | none => 1

def State.sessionVer (s : State) (i : Nat) : Nat := match s.session i with | some x => x.ver | none => 0

/-- Writes in order, each applied or refused whole by its version (R482) or its register (R16); the status of the first refused
one, 0 when none was. -/
def State.writeList (s : State) (ver : Nat) : List (Nat × Dword) → State × Nat
  | [] => (s, 0)
  | (a, v) :: l =>
    let old := decide (ver < writeVersion a)
    let t := if old then s else s.regWrite .mgmt a v
    let r := if old then 0x0002 else match s.writeResult t a v with | 0 => 0 | r => 0x100 + r
    let x := t.writeList ver l
    (x.1, if r ≠ 0 then r else x.2)

/-- Register writes of a message and its response. -/
def State.writeAndRespond (s : State) (i group code : Nat) (req : Word) (l : List (Nat × Dword)) : State :=
  let x := s.writeList (s.sessionVer i) l
  x.1.respond i group code req x.2 []

/-- REG_WRITE. -/
def State.fspRegWrite (s : State) (i : Nat) (req : Word) (l : List (Nat × Dword)) : State :=
  if 512 < l.length ∨ l.any (fun x => !(s.windowPresent x.1)) = true then s.respond i 4 2 req 0x0001 []
  else s.writeAndRespond i 4 2 req l

/-- REG_READ. -/
def State.fspRegRead (s : State) (i : Nat) (req : Word) (l : List Nat) : State :=
  if 512 < l.length ∨ l.any (fun x => !(s.windowPresent x)) = true then s.respond i 4 1 req 0x0001 []
  else s.respond i 4 1 req 0 (l.map s.regRead)

/-- Rail, temperature and slew telemetry. -/
def State.telemetry (s : State) : List Dword :=
  (List.range 13).map (fun r => s.reg (regAddr 11 0 10 (0x200 + 8 * r))) ++
  (List.range 11).map (fun d => BitVec.ofNat 64 (sget (fun _ => 0) s.temps d)) ++
  (List.range 5).map (fun r => s.reg (regAddr 11 0 10 (0x100 + 8 * r)))

/-- Captures, history and counts. -/
def State.faultReport (s : State) : List Dword :=
  (List.range 7).flatMap (fun c => [s.reg (rFirstMsg c), s.reg (rFirstTod c), s.reg (rFirstStat c)]) ++
  (List.range 64).flatMap (fun i => [s.reg (rHistMsg i), s.reg (rHistTod i), s.reg (rHistMeta i)]) ++
  (List.range 7).map (fun c => s.reg (rFcCnt c)) ++ [s.reg rCntMisc, s.reg rHistHead]

/-! ## Lifecycle (R486 to R490) -/

def rNonce (i : Nat) : Nat := regAddr 13 0 10 (0x10 + 8 * i)
def rLcCtl : Nat := regAddr 13 0 10 8

/-- The current nonce, NONCE[0] the most significant. -/
def State.nonce (s : State) : BitVec 256 :=
  BitVec.ofNat 256 ((List.range 4).foldl (fun n i => n * 2 ^ 64 + (s.reg (rNonce i)).toNat) 0)

/-- The nonce replaced by free values of the DRBG (R490). -/
def State.newNonce (s : State) : State :=
  (List.range 4).foldl (fun t i => let x := t.freeDword; x.2.setReg (rNonce i) x.1) s

/-- Whether the pair of states is a transition (R488). -/
def lcPair (from_ dst : Nat) : Bool :=
  (from_ == 1 && dst == 2) || (from_ == 2 && dst == 3) || (from_ == 3 && dst == 4) || (from_ == 4 && dst == 2) || (from_ != 15 && dst == 15)

/-- Whose key signs a transition. -/
def lcSigner (from_ dst : Nat) (p : Party) : Bool :=
  if from_ = 1 then (if dst = 15 then true else p == .vocen) else p == .owner

/-- The key hash that is fused for a party, if there is one. -/
def State.partyHash (s : State) : Party → Option (List Byte)
  | .vocen => some Config.vocenKeyHash
  | .owner => s.owner.map (·.keyHash)

/-- The SHA-384 hash of the two public keys (R490; their order: DESIGN CHOICE, log entry 35). -/
def lcKeyHash (g : LcSig) : List Byte := hashAll 3 48 (g.ecKey ++ g.dsaKey)

/-- What is signed (R490): the record's header, the target and the nonce (their layout: DESIGN CHOICE, log entry 17). -/
def lcSigned (ver : Nat) (req : Word) (target : Nat) (nonce : BitVec 256) (g : LcSig) : List Byte :=
  let body := 33 + (g.ecKey.length + g.dsaKey.length + g.ecSig.length + g.dsaSig.length)
  beBytes 1 ver ++ [9, 2, 0] ++ beBytes 4 req.toNat ++ beBytes 4 body ++ [0, 0, 0, 0] ++ beBytes 1 target ++ beBytes 32 nonce.toNat

/-- Both signatures verify: ECDSA P-384 over the SHA-384 digest, and ML-DSA-87 (R490). -/
def lcVerifies (g : LcSig) (m : List Byte) : Bool :=
  curveP384.verify (hashAll 3 48 m) g.ecKey g.ecSig && dsaVerify 0x22 g.dsaKey [] m g.dsaSig

/-- The transition is signed by a party that may sign it (R488, R490). -/
def State.lcProven (s : State) (i : Nat) (req : Word) (target : Nat) (nonce : BitVec 256) (g : LcSig) : Bool :=
  [Party.vocen, Party.owner].any (fun p => lcSigner s.lcState target p && s.partyHash p == some (lcKeyHash g)) &&
    lcVerifies g (lcSigned (s.headerVer i 9 2) req target nonce g)

/-- Step 4 of the wipe on one channel (R298, R304, R489): a controller without full training is trained first. -/
def State.wipeChannel (s : State) (c : Nat) : State :=
  if (s.ctl c).trained then s.enableZero c
  else ((s.setReg (rDc c 8) s.dimm.cfg).setReg (rDc c 0x10) s.dimm.tim).startTraining c

/-- What step n of the wipe begins with (R489). -/
def State.wipeStep (s : State) (n : Nat) : State :=
  let s0 : State := { s with lcStep := n }
  if n = 1 then
    { s0 with halted := true, images := [], sessions := [], conds := [], sct := [], sctMir := [], slots := [], slotsMir := [],
              xfers := [], aborts := [], unmirrored := [], snapWait := [], todWait := s.todWait.map TodWait.drop }
  else if n = 2 then
    let t := s0.wipeVault 3
    ({ t with cores := t.cores.map fun c => (c.1, { c.2 with rnd := [] }) } : State).seedAll
  else if n = 3 then
    let t := (s0.discardAll).wsReset true
    { t with
      cores := [], dies := [], conts := [], chains := [], engineFw := [], fwLoaded := false, hostLoaded := false, load := none,
      boot := ⟨[1, 2, 3], false, false, false⟩, units := [], elapsed := 0,
      ctls := t.ctls.map fun c => (c.1, { c.2 with lastPause := 0 }) }
  else if n = 4 then (List.range 16).foldl State.wipeChannel s0
  else s0

/-- The last row's DONE fuse is blown and the change is told (R486, R489 step 5). -/
def State.blowDone (s : State) : State :=
  let rows := match s.lcRows.getLast? with
    | some r => s.lcRows.dropLast ++ [(r.1, true)]
    | none => s.lcRows
  (({ s with lcRows := rows } : State).send 10 0x11 0xB0 0 0).fspEvent 9 4 [BitVec.ofNat 64 s.lcState, 5]

/-- The work of the wipe's step goes on: the vault's wipe in step 2, training and zeroing in step 4. -/
def State.stepBusy (s : State) : Bool :=
  (s.lcStep == 2 && s.rf rVault 62 1 == 1) || (s.lcStep == 4 && (List.range 16).any s.wiping)

/-- A step of the wipe ends, once its work is done, and the next begins (R489). -/
def State.wipeStepEnd (s : State) : State :=
  if s.lcStep = 0 ∨ s.stepBusy = true then s
  else if s.lcStep = 5 then { s.blowDone with lcStep := 0 }
  else
    let t := if s.lcStep = 4 then s.fspEvent 9 4 [BitVec.ofNat 64 s.lcState, 4] else s
    t.wipeStep (s.lcStep + 1)

/-- The last row's DONE fuse is blown (R486): no transition is unfinished. -/
def State.rowsDone (s : State) : Bool := match s.lcRows.getLast? with | some r => r.2 | none => true

/-- A transition is accepted: its row is blown, and the state is the new one from here on (R486). The test access port selects BYPASS where
that state does not allow what it holds (R487); DZ_DIS is cleared on entry to MISSION (R492). -/
def State.lcEnter (s : State) (target : Nat) : State :=
  let t : State := { s with
    lcRows := s.lcRows ++ [(target, false)], jtag := match s.jtag with | .other _ => .bypass | j => j }
  if target = 3 then t.setReg rLcCtl 0 else t

/-- LC_TRANSITION (R486, R488, R490). The change is told to both service elements (LC_EVENT) before wipe step 1 ends their
sessions. -/
def State.lcTransition (s : State) (i : Nat) (req : Word) (target : Nat) (nonce : BitVec 256) (g : LcSig) : State :=
  let st := s.lcState
  if s.lcStep ≠ 0 ∨ s.rowsDone = false then s.respond i 9 2 req 0x0006 []
  else if lcPair st target = false ∨ (127 ≤ s.lcRows.length ∧ target ≠ 15) then s.respond i 9 2 req 0x0004 []
  else
    if nonce ≠ s.nonce ∨ s.lcProven i req target nonce g = false then s.respond i 9 2 req 0x0005 []
    else (((s.lcEnter target).respond i 9 2 req 0 []).fspEvent 9 4 [BitVec.ofNat 64 target, 0]).wipeStep 1

/-- LC_PROVISION in PROVISION only; replacing the fused anchor or key hash uses one further row (R484, R488). -/
def State.lcProvision (s : State) (i : Nat) (req : Word) (o : Owner) : State :=
  let change := match s.owner with
    | some x => x.anchor != o.anchor || x.keyHash != o.keyHash
    | none => false
  if s.lcState ≠ 2 ∨ (change = true ∧ 127 ≤ s.lcRows.length) then s.respond i 9 3 req 0x0004 []
  else if s.lcStep ≠ 0 ∨ s.rowsDone = false then s.respond i 9 3 req 0x0006 []
  else
    { s.respond i 9 3 req 0 [] with
      owner := some o, lcRows := if change then s.lcRows ++ [(2, true)] else s.lcRows }

/-- The state allows every JTAG instruction: MANUFACTURE, and DIAGNOSE once its transition is complete (R486, R487, R489). -/
def State.jtagFree (s : State) : Bool := (s.lcState == 1 || s.lcState == 4) && s.rowsDone

/-- The diagnostic channel is open: in DIAGNOSE, once its transition is complete (R486, R487, R489). -/
def State.diagOpen (s : State) : Bool := s.lcState == 4 && s.rowsDone

/-- A test-access instruction: one that the state does not allow selects BYPASS (R487, R489). -/
def State.jtagLoad (s : State) (j : JtagInstr) : State :=
  { s with jtag := match j with
    | .other c => if s.jtagFree then .other c else .bypass
    | x => x }

/-! ## PTP (R477, R510, R512) -/

/-- A PTP timestamp as time-of-day (R510): (seconds - 946,684,800) × 4,096,000,000 + nanoseconds × 4.096, rounded down. -/
def ptpUnits (t : PtpTime) : Int :=
  ((t.sec.toNat : Int) - 946684800) * 4096000000 + ((t.ns.toNat * 4096 / 1000 : Nat) : Int)

/-- A correction in 2^-16 ns as units, rounded down. -/
def corrUnits (c : BitVec 64) : Int := c.toInt * 4096 / (1000 * 65536)

/-- A master's dataset as one number, the better the smaller: priority1, class, accuracy, variance, priority2, identity, steps, sender
(IEEE 1588-2019; PRESUMED, log entry 37). -/
def masterRank (m : PtpMaster) : Nat :=
  ((((((m.prio1.toNat * 2 ^ 8 + m.cls.toNat) * 2 ^ 8 + m.acc.toNat) * 2 ^ 16 + m.var.toNat) * 2 ^ 8 + m.prio2.toNat) * 2 ^ 64 + m.gm.toNat) * 2 ^ 16 +
    m.steps.toNat) * 2 ^ 80 + m.sender.toNat

/-- The master chosen across both ports, with its port (R477). -/
def Ptp.best (p : Ptp) : Option (Nat × PtpMaster) :=
  p.foreign.foldl (fun b x => match b with
    | .none => some x
    | some y => if masterRank x.2 < masterRank y.2 then some x else some y) .none

/-- The chosen master's port and identity. -/
def Ptp.chosen (p : Ptp) : Option (Nat × BitVec 80) := p.best.map fun x => (x.1, x.2.sender)

/-- The datasets changed: measurements begin again where another master is chosen. -/
def Ptp.withForeign (p : Ptp) (l : List (Nat × PtpMaster)) : Ptp :=
  let q := { p with foreign := l }
  if q.chosen = p.chosen then q else { Ptp.none with foreign := l, reqs := p.reqs }

/-- The rate is adjusted by at most MAX_PPM, at most 500 ppm, from nominal, against the sign of the offset; how far is free (R512; log
entry 37). RATE is in units of 0.01 ppm, and its 16 bits reach 327.67 ppm. -/
def State.newRate (s : State) (o : Int) : State :=
  let m := min 32767 (100 * min 500 (s.rf rTodCtl 16 16))
  let x := s.freeDword
  let n : Int := if o = 0 ∨ m = 0 then 0 else ((x.1.toNat % m + 1 : Nat) : Int)
  x.2.setRf rTodStat 16 16 ((BitVec.ofInt 16 (if 0 < o then -n else n)).toNat)

/-- A measured offset from the master, in units (R512): shown in ns, saturating; up to STEP_THR µs the rate is adjusted, beyond it time-of-day
is stepped by the offset, and what has been timed before is dropped. -/
def State.discipline (s : State) (o : Int) : State :=
  let ns := o * 1000 / 4096
  let shown : Int := if ns < -(2 ^ 31 : Int) then -(2 ^ 31 : Int) else if (2 ^ 31 : Int) ≤ ns then 2 ^ 31 - 1 else ns
  let s1 := s.setRf rTodStat 32 32 ((BitVec.ofInt 32 shown).toNat)
  if o.natAbs ≤ 4096 * s.rf rTodCtl 32 16 then (s1.newRate o).setRf rTodCtl 61 1 1
  else
    let s2 : State := { s1.setRf rTodCtl 61 1 0 with ptp := { s1.ptp with twoStep := none, synced := none, asked := none } }
    s2.stepTod true (BitVec.ofInt 64 (-o))

/-- A valid Sync ends HOLD and its condition (R512). -/
def State.ptpRegained (s : State) : State :=
  let s1 := (s.setRf rTodCtl 62 1 0).condEnd 10 0x30 0x9B 0
  if bit (s.reg rTodCtl) 62 then s1.fspEvent 6 3 [s1.tod] else s1

/-- The times of a Sync are known, the master's and the local one: a Delay_Req is sent and timestamped, and the offset is measured once the
path delay is (R477). -/
def State.ptpSynced (s : State) (t1 : Int) (t2 : Dword) : State :=
  let p := s.ptp
  let n := p.reqs + 1
  let s1 := ({ s with ptp := { p with
    twoStep := none, synced := some (t1, t2), asked := some (BitVec.ofNat 16 n, s.tod), reqs := n } } : State).mcCode 0x3103
  match p.delay with
  | some d => s1.discipline ((t2.toNat : Int) - t1 - d)
  | none => s1

/-- The answer to a Delay_Req: the mean path delay is half the round trip, and the first one gives the offset of the Sync before it (R477). -/
def State.ptpDelay (s : State) (t4 : Int) : State :=
  match s.ptp.synced, s.ptp.asked with
  | some (t1, t2), some (_, t3) =>
    let d := (((t2.toNat : Int) - t1) + (t4 - (t3.toNat : Int))) / 2
    let s1 : State := { s with ptp := { s.ptp with delay := some d, asked := none } }
    if s.ptp.delay.isNone then s1.discipline ((t2.toNat : Int) - t1 - d) else s1
  | _, _ => s

/-- A message that the discipline takes: PTP is enabled, the port has a link, domain and transport are those of CLK.TOD_CTL (R477). -/
def State.ptpTakes (s : State) (e : PtpEvent) : Bool :=
  bit (s.reg rTodCtl) 63 && (s.mgmtPort e.port).isSome && s.rf rTodCtl 8 8 == e.domain.toNat && s.rf rTodCtl 6 2 == e.transport.toNat

/-- A PTP message (R477, R512). -/
def State.ptpMessage (s : State) (e : PtpEvent) : State :=
  let from_ (x : BitVec 80) : Bool := s.ptp.chosen == some (e.port.val, x)
  match e.msg with
  | .announce m =>
    if s.ptpTakes e then
      { s with ptp := s.ptp.withForeign ((e.port.val, m) :: s.ptp.foreign.filter fun x => !(x.1 == e.port.val && x.2.sender == m.sender)) }
    else s
  | .sync x n two t c =>
    let s1 := s.mcCode 0x3103
    if !(s.ptpTakes e) || !(from_ x) then s1
    else
      let s2 := s1.ptpRegained
      if two then { s2 with ptp := { s2.ptp with twoStep := some (x, n, s.tod, corrUnits c) } }
      else s2.ptpSynced (ptpUnits t + corrUnits c) s.tod
  | .followUp x n t c =>
    (match s.ptp.twoStep with
     | some (y, k, t2, c1) => if s.ptpTakes e && from_ x && y == x && k == n then s.ptpSynced (ptpUnits t + corrUnits c + c1) t2 else s
     | none => s)
  | .delayResp x n t c =>
    (match s.ptp.asked with
     | some (k, _) => if s.ptpTakes e && from_ x && k == n then s.ptpDelay (ptpUnits t - corrUnits c) else s
     | none => s)

/-- A management port loses its link: its masters are gone. -/
def State.ptpPortDown (s : State) (port : Nat) : State :=
  { s with ptp := s.ptp.withForeign (s.ptp.foreign.filter fun x => x.1 != port) }

/-- 4 s without Sync (R512). -/
def State.ptpHold (s : State) : State :=
  if !(bit (s.reg rTodCtl) 63) || bit (s.reg rTodCtl) 62 then s
  else (((s.setRf rTodCtl 61 2 2).condBegin 10 0x30 0x9B 2 0 0).fspEvent 6 3 [s.tod])

end Sys2Proof.Machine
end

