-- ==== Sys2Proof/Machine/Power.lean ====
section
/-! DEFINITION. Rails and regulators (R500 to R504, R531), governor and droop (R505, R507), clock synthesisers (R509), and
the Pass cadence with its slots (R514 to R517, R532). -/
namespace Sys2Proof.Machine
open Sys2Proof

/-! ## Rails (R500, R503, R531) -/

def rRail (r : Nat) : Nat := regAddr 11 0 10 (0x200 + 8 * r)

/-- The operating range of a rail in mV (R500). -/
def State.railRange (s : State) (r : Nat) : Nat × Nat :=
  if r < 4 then (s.setPoint r - 20, s.setPoint r + 20)
  else if r = 4 then (720, 780)
  else if r = 5 then (776, 824)
  else if r = 6 then (728, 772)
  else if r = 7 then (1164, 1236)
  else if r = 8 then (1746, 1854)
  else (1067, 1133)

/-- The absolute maximum of a rail in mV; every rail's minimum is -300 mV (R531). -/
def railMax (r : Nat) : Nat :=
  if r < 4 then 1050 else if r = 4 then 860 else if r = 5 then 900 else if r = 6 then 850 else if r = 7 then 1320
  else if r = 8 then 1980 else 1210

/-- One reading of a rail's regulator, or no answer in 2 ms (R503); kinds 0x8C and 0x8D come from the power and clock unit of die 10
(R26, R453). -/
def State.pollRail (s : State) (r : Nat) (rd : Option Reading) : State :=
  let a := rRail r
  match rd with
  | none => (s.setReg a (setBit (s.reg a) 30 true)).condBegin 10 0x7C 0x8C 5 (s.rf a 48 16 <<< 8 + r) r
  | some x =>
    let mv := x.mv.toNat
    let signed := x.mv.toInt
    let out := decide (signed < ((s.railRange r).1 : Int)) || decide (((s.railRange r).2 : Int) < signed)
    let twice := out && bit (s.reg a) 31
    let v := setBit (fset (fset (s.reg a) 48 16 mv) 32 16 x.da.toNat) 31 out
    let s1 := s.setReg a (if x.fault then setBit v 30 true else v)
    let s2 := if twice || x.fault then s1.condBegin 10 0x7C 0x8C 5 (mv <<< 8 + r) r
      else if out then s1 else s1.condEnd 10 0x7C 0x8C r
    if (railMax r : Int) < signed ∨ signed < -300 then s2.condBegin 10 0x7C 0x8D 6 (mv <<< 8 + r) r else s2.condEnd 10 0x7C 0x8D r

/-- Every rail read, in rail order (R503). -/
def State.pollRails (s : State) (l : List (Option Reading)) : State :=
  if !s.powered then s
  else ((List.range 13).zip l).foldl (fun t x => t.pollRail x.1 x.2) s

/-! ## Governor, droop, synthesisers (R505, R507, R509) -/

def State.gov (s : State) (r : Nat) : Gov := sget (fun _ => Gov.none) s.govs r
def State.setGov (s : State) (r : Nat) (g : Gov) : State := { s with govs := sput (fun _ => Gov.none) s.govs r g }

/-- The logical CPUs of a rail's two dies that run: not stopped, not in the wait state, not clock-gated. -/
def State.running (s : State) (r : Nat) : List Nat :=
  s.activeCpus.filter fun n => s.coreOf n / 52 == r && !(s.unit n).stopped && !(s.psw n).wait

/-- The frequency in MHz that the set voltage and the die temperature allow, 1.2 to 5.6 GHz in steps of 25 MHz (R502); above the
throttle limit the lowest (R453 kind 0x8A, R532). -/
def State.allowedMhz (s : State) (die : Nat) : Nat :=
  if s.isLive die 0x7C 0x8A then 1200
  else 1200 + 25 * (Config.clockSteps (s.setPoint (die / 2)) (sget (fun _ => 0) s.temps die) % 177)

/-- A cluster's frequency one paced step of 25 MHz nearer to what is allowed (R502, R506). -/
def stepMhz (f goal : Nat) : Nat := if f < goal then f + 25 else if goal < f then f - 25 else f

/-- Wakes that the room in mA releases: each takes 1.2 A (R505). -/
def wakesIn (room : Nat) (l : List Nat) : List Nat := l.take (room / 1200)

/-- The die of the rail, 0 or 1, on which a CPU runs. -/
def State.railHalf (s : State) (n : Nat) : Nat := s.coreOf n / 26 % 2

/-- One 8 ns interval of the governor of rail r (R505): the prediction moves by at most LIMIT × 8 ns, wakes take its room first, in
ascending number, then issue increases, the lower die first; ballast holds the prediction up, for a VCORE rail at 10 A at least. -/
def State.governor (s : State) (r : Nat) (o : GovObs) : State :=
  let g := s.gov r
  let step := 8 * s.rf (regAddr 11 0 10 (0x100 + 8 * r)) 48 9
  let run := s.running r
  let kept := g.awake.filter run.contains
  let waking := run.filter fun n => !(kept.contains n)
  let a0 := min (g.act.getD 0 0) o.want0
  let a1 := min (g.act.getD 1 0) o.want1
  let room := g.current + step - (a0 + a1)
  let woken := wakesIn room waking
  let left := waking.drop woken.length
  let w0 := 1200 * (woken.filter fun n => s.railHalf n == 0).length
  let w1 := 1200 * (woken.filter fun n => s.railHalf n == 1).length
  let room1 := room - (w0 + w1)
  let i0 := min room1 (o.want0 - (a0 + w0))
  let i1 := min (room1 - i0) (o.want1 - (a1 + w1))
  let b0 := a0 + w0 + i0
  let b1 := a1 + w1 + i1
  let floor := if r < 4 then 10000 else 0
  let current := max (b0 + b1) (max floor (g.current - step))
  let held (h b want : Nat) : Bool := decide (b < want) || left.any fun n => s.railHalf n == h
  let s1 := s.setGov r { g with
    current := current, act := [b0, b1], awake := kept ++ woken,
    mhz := (List.range 4).map fun c => stepMhz (g.mhz.getD c 1200) (s.allowedMhz (2 * r + c / 2)) }
  if 4 ≤ r then s1
  else
    let s2 := if held 0 b0 o.want0 then s1.evInc (regAddr 11 0 (2 * r) 0x18) 1 else s1
    if held 1 b1 o.want1 then s2.evInc (regAddr 11 0 (2 * r + 1) 0x18) 1 else s2

/-- The controller adapts a VCORE rail: one command of at most 10 mV, and at most one per rail per microsecond, 4,096 units (R502). -/
def State.adapt (s : State) (r : Nat) (volts : Option Nat) : State :=
  let soon := match (s.gov r).lastCmd with | some t => decide (s.elapsed < t + 4096) | none => false
  match volts with
  | some v => if 4 ≤ r ∨ soon = true then s else (s.avsCommand r v).setGov r { s.gov r with lastCmd := some s.elapsed }
  | none => s

def State.pass (s : State) (die : Nat) : Pass := sget (fun _ => Pass.none) s.passes die
def State.setPass (s : State) (die : Nat) (p : Pass) : State := { s with passes := sput (fun _ => Pass.none) s.passes die p }

def rDroop (die : Nat) : Nat := regAddr 11 0 die 0x10

/-- A supply more than THR mV below the set point stretches a cluster's clock by at most 12.5 %; the first of a Pass is reported
(R507). -/
def State.droop (s : State) (die cluster supply n : Nat) : State :=
  if !(bit (s.reg (rDroop die)) 63) || decide (s.setPoint (die / 2) ≤ supply + s.rf (rDroop die) 48 8) then s
  else
    let k := min 125 n
    let s1 : State := { s with stretch := sput (fun _ => 0) s.stretch (2 * die + cluster) k }
    let s2 := s1.setRf (rDroop die) 40 8 (max k (s1.rf (rDroop die) 40 8))
    let p := s2.pass die
    if p.droop.contains cluster then s2
    else (s2.setPass die { p with droop := p.droop ++ [cluster] }).send die 0x7C 0x88 0 (cluster <<< 8 + k)

/-- The stretch is released. -/
def State.droopEnd (s : State) (die cluster : Nat) : State := { s with stretch := sput (fun _ => 0) s.stretch (2 * die + cluster) 0 }

/-- The die of a clock domain, by its position in the table of R509. -/
def domainDie (d : Nat) : Nat :=
  if d < 16 then d / 2 else if d < 24 then d - 16 else if d < 40 then (d - 24) / 2 else if d < 42 then 8 + (d - 40)
  else if d < 54 then 8 + (d - 42) / 6 else 10

/-! ## The Pass (R514 to R517) -/

/-- A sensor's condition: its limit and where it ends, in 1/8 °C (R453, R532). -/
def heatLimits : List (Nat × Nat × Nat × Nat) := [(0x89, 760, 760, 2), (0x8A, 800, 784, 2), (0x8B, 880, 880, 6)]

/-- The NL machine check of a kind 0x89 message (R86). -/
def nlCheck (m : Msg) : MCheck := { image := none, code := setBit 0 60 true, msg := m.word, tod := m.tod, addr := 0 }

/-- NL made pending at every active logical CPU of a die (R453). -/
def State.nearLimit (s : State) (die temp : Nat) (inj : Bool) : State :=
  let m : Msg := ⟨msgWord die 0x7C 0x89 2 inj temp, s.dieTod die, none, false⟩
  (s.activeCpus.filter fun n => s.coreOf n / 26 == die).foldl (fun t n =>
    t.pendMc n { nlCheck m with image := t.imgOf n }) s

/-- The temperature of a die checked against the limits in ascending kind order (R532); `inj` is the kind above whose limit an injection
of type 0x09 puts the sensor, and so above the limits below it (R469). -/
def State.thermal (s : State) (die temp : Nat) (inj : Option Nat) : State :=
  heatLimits.foldl (fun t x =>
    let k := x.1
    let real := decide (x.2.1 < temp)
    let forced := match inj with | some i => decide (k ≤ i) | none => false
    let shown := if real then temp else x.2.1 + 1
    if real || forced then
      let was := t.live.contains ⟨die, 0x7C, k, 0⟩
      let t1 := t.condBegin die 0x7C k x.2.2.2 shown 0 (forced && !real) (forced && real)
      if k = 0x89 ∧ was = false then t1.nearLimit die shown (forced && !real) else t1
    else if temp < x.2.2.1 ∨ (k ≠ 0x8A ∧ temp ≤ x.2.2.1) then t.condEnd die 0x7C k 0 else t) { s with temps := sput (fun _ => 0) s.temps die temp }

/-- A pending sensor injection starts, or one Pass of its 1 ms, 244 Passes, ends. -/
def State.sensor (s : State) (die : Nat) : State × Option Nat :=
  let p := s.pass die
  match p.heat with
  | some (k, n) => (s.setPass die { p with heat := if n ≤ 1 then none else some (k, n - 1) }, some k)
  | none => match s.injAt die 0x7C 9 with
    | some x => ((s.dropInj x).setPass die { p with heat := some (x.param, 243) }, some x.param)
    | none => (s, none)

/-- The comparator self-tests of a die: an injection of type 0x06 makes one fail (R197, R469). -/
def State.comparatorTests (s : State) (die : Nat) : State :=
  (List.range 26).foldl (fun t k => match t.injAt die k 6 with
    | some x => match t.cpuOn (26 * die + k) with
      | some n => (t.dropInj x).comparatorFault n false true
      | none => t
    | none => t) s

/-- A retraining pause is due: PERIOD ms after the previous one, or, where that time came in self-refresh or during its entry, after it (R299,
R301; of the entry: DESIGN CHOICE, log entry 40). -/
def State.pauseDue (s : State) (c : Nat) : Bool :=
  let per := s.rf (rDc c 0x20) 40 16
  s.dcEn c && s.dcState c == 2 && (s.ctl c).sr == .awake && decide (per ≠ 0) && decide (per * 4096000 ≤ s.elapsed - (s.ctl c).lastPause)

/-- The scrub slot of a channel in Pass n (R303). -/
def State.scrubSlot (s : State) (c n : Nat) : State :=
  let v := s.reg (rDc c 0x30)
  if bit v 63 && s.serves c && decide (n % (fget v 56 4 + 1) = 0) then s.scrubLine c else s

/-- A retraining pause that is due is made (R299). -/
def State.pauseSlot (s : State) (c : Nat) (o : ChanObs) : State := if s.pauseDue c then s.retrainPause c o.pauseOk o.pauseLen.toNat else s

/-- A command of a slot meets a command-address parity or write CRC error: kind 0x4A, and it is repeated (R306). -/
def State.caError (s : State) (c : Nat) (err : Bool) : State := if err && s.works c then s.dcSend c 0x4A 1 0 31 false else s

/-- The slots of Pass n of a compute die (R515): thermal poll, comparator self-tests, cache scrub, DRAM scrub, retraining pauses, and
the self-test of one of the two spares in turn. -/
def State.computeSlots (s : State) (die n : Nat) (o : PassObs) : State :=
  let c0 := 2 * die
  let c1 := 2 * die + 1
  let s0 := (s.caError c0 o.ch0.caErr).caError c1 o.ch1.caErr
  let s1 := if n % 16 = 0 then (s0.mr4Poll c0 o.ch0.fast o.ch0.hot).mr4Poll c1 o.ch1.fast o.ch1.hot else s0
  if s1.frozen then s1
  else
    let s3 := (((s1.comparatorTests die).scrubDie die).scrubSlot c0 n).scrubSlot c1 n
    if s3.frozen then s3
    else
      let s4 := (s3.pauseSlot c0 o.ch0).pauseSlot c1 o.ch1
      if n % 65536 = 0 then s4.spareTestStart die (n / 65536 % 2) else s4

/-- An error that an array of the die can hold: parity in an L1, bits of a word or a tag in an L2 or L3, bits or a device in a DRAM
block (R272, R282), bits in the working store, the subchannel-table entries and the journal (R434). -/
def faultOk (die : Nat) (f : ArrayFault) : Bool :=
  match f.kind with
  | .parity => decide (die < 8) && decide (f.unit < 26)
  | .tag _ => decide (die < 8) && (decide (0x20 ≤ f.unit ∧ f.unit < 0x3A) || decide (0x40 ≤ f.unit ∧ f.unit < 0x60))
  | .device d => decide (die < 8) && decide (f.unit = 0x60 ∨ f.unit = 0x61) && decide (d < 20)
  | .bits ps =>
    if die < 8 then
      f.unit == 0x68 || f.unit == 0x69 || (decide (0x20 ≤ f.unit ∧ f.unit < 0x3A) || decide (0x40 ≤ f.unit ∧ f.unit < 0x62)) && ps.all fun b => decide (b < 128)
    else if f.unit = 0x60 then ps.all fun b => decide (b < 64)
    else if f.unit = 0x10 then die == 10
    else if 0x50 ≤ f.unit ∧ f.unit < 0x58 then die != 10
    else decide (die < 10) && decide (f.unit = 0x61 ∨ f.unit = 0x62) && ps.all fun b => decide (b < 128)

/-- An accelerator engine's unit number (R399). -/
def accUnitNo (die unit : Nat) : Bool := if die < 8 then unit == 0x68 || unit == 0x69 else decide (0x50 ≤ unit) && decide (unit < 0x58) && die != 10

/-- An error that an engine has corrected in its own storage (R427): ACC.ERR.CE and kind 0x51. -/
def State.accCorrected (s : State) (e : Nat × Nat) : State := (s.errInc (rAcc e.1 e.2 0x18) 16 16 63).accSend e 0x51 1 none 0

/-- The errors that have arisen in a die's arrays since its last Pass; those of the accelerators are corrected there, and one in the
collector's storage is kind 0xA9 (R453; log entry 25). -/
def State.arise (s : State) (die : Nat) (l : List ArrayFault) : State :=
  let own (f : ArrayFault) : Bool := accUnitNo die f.unit
  let s0 := ((l.filter (faultOk die)).filter own).foldl (fun t f => t.accCorrected (accOf die f.unit)) s
  let coll (f : ArrayFault) : Bool := die == 10 && f.unit == 0x10
  let s1 := ((l.filter (faultOk die)).filter coll).foldl (fun t _ => t.send 10 0x10 0xA9 5 10) s0
  { s1 with errs := s1.errs ++ ((l.filter (faultOk die)).filter fun f => !(own f) && !(coll f)).flatMap fun f =>
      if 8 ≤ die ∧ f.unit ≠ 0x60 then rowErrs (recRow f.unit f.addr).1 (recRow f.unit f.addr).2 (errBits f.kind) false
      else [⟨die, f.unit, f.addr, f.kind, false⟩] }

def rPass (die : Nat) : Nat := regAddr 12 0 die 0x10
def rPassNum (die : Nat) : Nat := regAddr 12 0 die 0x18

/-- The lag of a Pass that starts now (R516): 0 at least. -/
def Pass.lag (p : Pass) : Nat := ((p.next : Int) - (p.base + 4096 * (p.begun : Int))).toNat

/-- A Pass shorter than nominal by its lag, at least 2,048 ns (R516). -/
def passTarget (lag : Nat) : Nat := max 2048 (4096 - lag)

/-- A Pass of a die starts: lag, due slots, overrun, catch-up and rebase (R514 to R517). -/
def State.passStart (s : State) (die : Nat) (o : PassObs) : State :=
  if !(s.boot.done.contains 7) || !(s.clocked die) then s
  else
    let p0 := s.pass die
    let n := p0.begun
    let p := if p0.rebase then { p0 with base := (p0.next : Int) - 4096 * (n : Int), rebase := false } else p0
    let lag := p.lag
    let run := if 0 < lag then p.lagRun + 1 else 0
    let lost := decide (run = 1024)
    let target := passTarget lag
    let p2 : Pass := { p with
      begun := n + 1, next := p.next + max target o.work, lagRun := if lost then 0 else run, rebase := lost, droop := [] }
    let s1 := ((s.arise die o.faults).setPass die p2).setRf (rPass die) 32 16 (min 65535 lag)
    let s2 := if p0.rebase then s1.setRf (rPass die) 16 16 (satInc (s1.rf (rPass die) 16 16) 16) else s1
    let s3 := if n = 0 then s2 else s2.evInc (rPassNum die) 1
    let sens := s3.sensor die
    let s4 := sens.1.thermal die o.temp.toNat sens.2
    let s5 := if die < 8 then s4.computeSlots die n o else if s4.frozen then s4 else s4.testPass die
    let s6 := if target < o.work then (s5.setReg (rPass die) (setBit (s5.reg (rPass die)) 63 true)).send die 0x7D 0x90 0 (min 65535 (o.work - target)) else s5
    if lost then s6.send die 0x7D 0x91 2 0 else s6

end Sys2Proof.Machine
end

