-- ==== Sys2Proof/Machine/Ops.lean ====
section
/-! DEFINITION. Taking an interruption and returning from IRUN (R66 to R68, R75 to R89), the boundary between instructions,
and the frame every instruction runs in (R93, R97, R98, R83, R84, R182 to R193, R240). -/
namespace Sys2Proof.Machine
open Sys2Proof

/-! ## Places in the prefix area (R75, R81, R82) -/

/-- k of R75. -/
def Cls.k : Cls → Nat
  | .machine => 0
  | .program => 1
  | .supervisor => 2
  | .external => 3
  | .io => 4
  | .restart => 5

/-- Prefix offset of the old PSW of a class; the new PSW lies 16 bytes above (R75). -/
def Cls.old (c : Cls) : Nat := 0x100 + 32 * c.k

/-- Where the first 4 KB of a unit's prefix area lie: storage under a memory type (R220), a working-store cell, nowhere, beyond a host-level failure
with its guest physical address, in a bank that refuses the unit, or in one that is in a copy. -/
inductive Area where
  | ram (pa : Nat) (mt : Mt)
  | cell (c : Nat)
  | absent
  | exit (q : Nat)
  | deny (cell : Nat)
  | stall

/-- The prefix area of unit u; fields of R82 that hardware uses lie in its first 4 KB. -/
def State.area (s : State) (u : Nat) : Area :=
  let a := (s.unit u).prefix_
  if !(isCpu u) then
    if wsSize u ≤ a then .absent
    else if s.cellStalled (wsCell (smallDie u) a) then .stall
    else if s.bankOwner (wsCell (smallDie u) a) = ownerCode u then .cell (wsCell (smallDie u) a) else .deny (wsCell (smallDie u) a)
  else match (s.unit u).irun with
    | none => if s.dramSize ≤ a then .absent else .ram a .wb
    | some r => match s.hostWalk (some u) r.image a with
      | .leaf base sz mt w _ _ _ _ =>
        if !w then .exit (a + 0x100) else if s.dramSize ≤ base + a % 2 ^ sz then .absent else .ram (base + a % 2 ^ sz) mt
      | _ => .exit (a + 0x100)

/-- The table entries that the host-level walk of a guest's prefix area fetches (R213, R220). -/
def State.areaFetched (s : State) (u : Nat) : List Nat :=
  match (s.unit u).irun with
  | none => []
  | some r => (s.hostWalk (some u) r.image (s.unit u).prefix_).fetched

/-- Table entries fetched, as reads of the core (R213, R238). -/
def State.fetchedBy (s : State) (u : Nat) (l : List Nat) : State :=
  l.foldl (fun t a => (t.conflicts (some u) [a / 64] false).coreRead (t.coreOf u) a false) s

/-- Bytes stored by hardware at a physical address, a sector at a time. -/
def State.storePhys (s : State) (u pa : Nat) (data : List Byte) (mt : Mt := .wb) : State :=
  (sectorParts pa data.length).foldl (fun t x => t.performStore u x.1 ((data.drop (x.1 - pa)).take x.2) mt) s

/-- Bytes stored at an offset of the prefix area. -/
def State.storeArea (s : State) (u : Nat) (p : Area) (off : Nat) (data : List Byte) : State :=
  match p with
  | .ram pa mt => s.storePhys u (pa + off) data mt
  | .cell c => (s.wsPut (c + off) data).wsClean (c + off) data.length
  | _ => s

/-- The new PSW of a class, or none where it is invalid or cannot be read. -/
def State.newPsw (s : State) (p : Area) (c : Cls) : Option Psw :=
  match p with
  | .ram pa _ => if s.poisoned (pa + c.old + 16) then none else Psw.ofBytes (s.bytes (pa + c.old + 16) 16)
  | .cell x => if (s.wsErrors (x + c.old + 16) 16 0).2 then none else Psw.ofBytes (s.wsBytes (x + c.old + 16) 16)
  | _ => none

/-- The fetch of the new PSW of a class: its cache side (R220, R250), or the code of the working store (R434). -/
def State.fetchNew (s : State) (u : Nat) (p : Area) (c : Cls) : State :=
  match p with
  | .ram pa mt => s.readSide u ⟨0, pa, pa + c.old + 16, 16, mt, .dram, none, [], [], false⟩ false
  | .cell x => (s.wsErrors (x + c.old + 16) 16 (ownerCode u)).1
  | _ => s

/-- The program flag TXA set by an interruption of another class that aborts a region (R80, R242): the other bits of the flags
stay as they are (DESIGN CHOICE, log entry 31). Only CPUs, whose prefix areas lie in storage, have regions (R91). -/
def State.setTxa (s : State) (u : Nat) (p : Area) : State :=
  match p with
  | .ram pa _ => s.storeArea u p 0x302 [s.byte (pa + 0x302) ||| 0x80]
  | _ => s

/-! ## Loading a PSW (R88) -/

/-- [39:32] of kinds 0x01 and 0x03. -/
def cpuField (u : Nat) : Nat := if u < 192 then u else 0xFF

/-- A PSW with WAIT 1 and IO, EXT and MC all 0. -/
def Psw.disabledWait (p : Psw) : Bool := p.wait && !p.io && !p.ext && !p.mc

/-- A PSW becomes current; a disabled wait is reported with kind 0x01 (R88). -/
def State.loadPsw (s : State) (u : Nat) (p : Psw) : State :=
  let s1 := s.setPsw u p
  if p.disabledWait then s1.unitSend u 0x01 0 (cpuField u <<< 32 + p.ia.toNat % 2 ^ 32) else s1

/-! ## Leaving IRUN (R65 to R67) -/

/-- The 256 bytes of an image bank at c0, and of the return stack (R65). -/
def State.imageBank (s : State) (u : Nat) : List Byte := (List.range 32).flatMap fun n => beBytes 8 (s.readC u n).toNat
def RStack.bytes (r : RStack) (d : Nat) : List Byte := (List.range d).flatMap fun i => beBytes 8 (r.entries.getD i 0).toNat

/-- The bits of COUNT and DISC, two bytes. -/
def RStack.tail (r : RStack) : List Byte := [BitVec.ofNat 8 r.entries.length, if r.disc then 0x80 else 0]

/-- IRUN ends with a reason and qualifier: an open region aborts, the write-combining buffers are written (R233), the
descriptor is stored, the host bank and PSW return (R66, R67). -/
def State.irunExit (s : State) (u reason : Nat) (q : Dword) : State :=
  match (s.unit u).irun with
  | none => s
  | some r =>
    let s1 := (s.abortRegion u 0x07).wcFlush u
    let c := s1.unit u
    let s2 := s1.storePhys u r.desc c.psw.bytes
    let s3 := s2.storePhys u (r.desc + 0x18) (beBytes 2 reason)
    let s4 := s3.storePhys u (r.desc + 0x20) (beBytes 8 q.toNat)
    let s5 := s4.storePhys u (r.desc + 0x100) (s1.imageBank u)
    let s6 := s5.storePhys u (r.desc + 0x200) (c.rs.bytes 32)
    let s7 := s6.storePhys u (r.desc + 0x300) c.rs.tail
    (s7.modUnit u fun c => { c with irun := none, imgReset := none, imgC := [], imgRs := ⟨[], false⟩ }).loadPsw u { r.hostPsw with cc := 0 }

/-! ## Interruptions that cannot be taken (R79, R359, R475) -/

/-- A small unit fails: an engine under R341, a management core under R475. -/
def State.unitFail (s : State) (u : Nat) : State :=
  if u < 288 then s.engineFail (smallDie u) ((u - 192) % 48) false else s.mcFail (u - 288)

/-- cannot_take of R79; a program interruption or exigent machine check of a small unit is its failure (R359). -/
def State.cannotTake (s : State) (u : Nat) (failure : Bool) : State :=
  if !(isCpu u) && failure then s.unitFail u
  else match (s.unit u).irun with
    | some r =>
      let m := s.unitMsg u 0x02 4 (u <<< 32 + r.image <<< 24)
      (s.sendMsg m).irunExit u 5 m.word
    | none =>
      (s.unitSend u 0x03 5 (cpuField u <<< 32)).modUnit u fun c => { c with stuck := true, running := false }

/-! ## Interruption action (R77, R80, R242) -/

/-- take of R77. `back` is the state that an exit for a host-level failure of the prefix area leaves, the interruption still
pending in it (R67). A table entry of the area's walk that is poisoned cannot be used: the interruption cannot be taken (R79, R285;
log entry 30). A bank that refuses the area raises 0x0004 (R436), and refuses the area to that program interruption too: there is no
new PSW for it (R359). An uncorrectable new PSW of a small unit is an exigent machine check (R434). One whose prefix area's bank is in a
copy waits for the switch (R442). -/
def State.takeInt (s : State) (u : Nat) (x : Intr) (back : State) : State :=
  let l := s.areaFetched u
  match s.area u with
  | .exit q => (back.fetchedBy u l).irunExit u 1 (BitVec.ofNat 64 q)
  | .absent => (s.fetchedBy u l).cannotTake u (x.cls = .program)
  | .deny cell => ((s.wsDeny cell (ownerCode u)).wsDeny cell (ownerCode u)).cannotTake u true
  | .stall => back
  | p =>
    if l.any (s.fetchedBy u l).poisoned then (s.fetchedBy u l).cannotTake u (x.cls = .program) else
    let s0 := (s.fetchedBy u l).wcFlush u
    let s1 := s0.modUnit u fun c => c.abort x.ia 0x07 0
    let s2 := if (s0.unit u).region.isSome && x.cls != .program then s1.setTxa u p else s1
    let s3 := ((x.data.foldl (fun t d => t.storeArea u p d.1 d.2) s2).storeArea u p x.cls.old (s2.psw u).bytes).fetchNew u p x.cls
    match s3.newPsw p x.cls with
    | some n =>
      if newPswOk u (s3.unit u) n then s3.loadPsw u n else s3.cannotTake u (x.cls = .program)
    | none => s3.cannotTake u (x.cls = .program || (match p with | .cell c => (s3.wsErrors (c + x.cls.old + 16) 16 0).2 | _ => false))

/-- An interruption that an instruction raises. Where the guest's prefix area cannot be reached, it stays pending, an open
region aborted, and the next IRUN for the image takes it (R67); its fields, TXA among them, are those of its raising (DESIGN
CHOICE, log entry 30). -/
def State.raise (s : State) (u : Nat) (x : Intr) : State :=
  s.takeInt u x (s.modUnit u fun c =>
    let c1 := c.abort x.ia 0x07 0
    match c1.irun with
    | some r => { c1 with unstored := c1.unstored.filter (fun y => y.1 != r.image) ++ [(r.image, x)] }
    | none => c1)

/-- A number in n bytes at an offset. -/
def fieldBytes (off n v : Nat) : Nat × List Byte := (off, beBytes n v)

/-- The fields of a program interruption (R82): `word` is the instruction, `txa` tells of an open region. -/
def progData (e : Exc) (word : Word) (txa : Bool) : List (Nat × List Byte) :=
  [fieldBytes 0x300 2 e.code.toNat, fieldBytes 0x302 2 (txa.toNat <<< 15 + e.ifx.toNat <<< 14),
   fieldBytes 0x304 4 (if e.ifx then 0 else word.toNat), fieldBytes 0x308 8 e.addr.toNat, fieldBytes 0x310 8 e.data.toNat,
   (0x318, List.replicate 40 0)] ++ (if e.code = 0x0019 then [(0x340, e.fpRec)] else [])

/-- A program interruption raised by the instruction at `ia`. -/
def State.programInt (s : State) (u : Nat) (e : Exc) (word : Word) (ia : Dword) : State :=
  s.raise u ⟨.program, progData e word (s.unit u).region.isSome, ia⟩

/-- A supervisor call with its code (R62, R82). -/
def State.svcInt (s : State) (u code : Nat) (ia : Dword) : State :=
  s.raise u ⟨.supervisor, [fieldBytes 0x380 2 code], ia⟩

/-- The machine-check save area (R82, R86): registers of the bank in use. -/
def State.saveData (s : State) (u : Nat) : List (Nat × List Byte) :=
  let c := s.unit u
  let regs (f : BitVec 5 → Dword) : List Byte := (List.range 32).flatMap fun i => beBytes 8 (f (BitVec.ofNat 5 i)).toNat
  [(0x400, regs c.getG), (0x500, if isCpu u then regs c.getF else List.replicate 256 0),
   (0x600, (List.range 64).flatMap fun n => beBytes 8 (if 32 ≤ n ∧ (c.inImage = true ∨ isCpu u = false) then 0 else (s.readC u n).toNat)),
   (0x800, c.rs.bytes 32), (0x900, c.rs.tail)]

/-- The machine-check interruption code with the save areas valid (R86): there is no floating save in the small profile. -/
def mcCodeWord (u : Nat) (code : Dword) : Dword :=
  let v := setBit (setBit (setBit (setBit code 55 true) 53 true) 52 true) 51 true
  if isCpu u then setBit v 54 true else v

/-- The interruption of a machine check, with the registers as they are saved (R82, R86). -/
def State.mcIntr (s : State) (u : Nat) (m : MCheck) (ia : Dword) : Intr :=
  ⟨.machine, [fieldBytes 0x3C0 8 (mcCodeWord u m.code).toNat, fieldBytes 0x3C8 8 m.addr.toNat,
    fieldBytes 0x3D0 8 m.msg.toNat, fieldBytes 0x3D8 8 m.tod.toNat] ++ s.saveData u, ia⟩

/-- The state whose registers a machine check saves: an open region has been aborted (R80). -/
def State.beforeMc (s : State) (u : Nat) (ia : Dword) : State := (s.wcFlush u).modUnit u fun c => c.abort ia 0x07 0

/-- A pending machine check taken (R86). -/
def State.machineInt (s : State) (u : Nat) (m : MCheck) (ia : Dword) (back : State) : State :=
  s.takeInt u ((s.beforeMc u ia).mcIntr u m ia) back

/-! ## Pending conditions (R56, R68, R85, R86, R358, R474) -/

/-- An external condition that is pending. -/
inductive Ext where
  | comparator
  | timer
  | emergency (o : Sig)
  | call (o : Sig)
  | signal (v : Dword)
  | unit (code : BitVec 16)
  deriving DecidableEq, Repr

/-- A control register of the bank of a level. -/
def Cpu.bankC (c : Cpu) (guest : Bool) (n : Nat) : Dword := if guest then sget cDefault c.imgC n else sget cDefault c.hostC n

/-- The first enabled external condition of a level in the order of R85, or of R358 and R474 for a small unit. -/
def State.extNext (s : State) (u : Nat) (guest : Bool) : Option Ext :=
  let c := s.unit u
  let c0 := c.bankC guest 0
  let img : Option Nat := if guest then s.imgOf u else none
  let mine (o : Sig) : Bool := o.image == img
  if !(isCpu u) && !c.unitCodes.isEmpty then c.unitCodes.head?.map .unit
  else if bit c0 7 && decide ((c.bankC guest 5).toNat < s.tod.toNat) then some .comparator
  else if bit c0 6 && bit (timerOf s (c.bankC guest 4)) 63 then some .timer
  else match (if bit c0 5 then c.emergency.find? mine else none) with
    | some o => some (.emergency o)
    | none => match (if bit c0 4 then c.extCall.find? mine else none) with
      | some o => some (.call o)
      | none => if !guest && bit c0 3 then c.signals.head?.map .signal else none

/-- The code and fields of an external condition (R82, R85). -/
def Ext.data : Ext → List (Nat × List Byte)
  | .comparator => [fieldBytes 0x390 2 0x0E11]
  | .timer => [fieldBytes 0x390 2 0x0E12]
  | .emergency o => [fieldBytes 0x390 2 0x0E01, fieldBytes 0x394 4 o.sender]
  | .call o => [fieldBytes 0x390 2 0x0E02, fieldBytes 0x394 4 o.sender]
  | .signal v => [fieldBytes 0x390 2 0x0E21, fieldBytes 0x398 8 v.toNat]
  | .unit code => [fieldBytes 0x390 2 code.toNat]

/-- A condition is no longer pending once taken; a timer or comparator condition exists by itself (R56). -/
def Cpu.dropExt (c : Cpu) : Ext → Cpu
  | .comparator => c
  | .timer => c
  | .emergency o => { c with emergency := c.emergency.erase o }
  | .call o => { c with extCall := c.extCall.erase o }
  | .signal v => { c with signals := c.signals.erase v }
  | .unit code => { c with unitCodes := c.unitCodes.erase code }

/-- The first repressible machine check of a level that MC and c14 enable (R75, R86). -/
def State.mcNext (s : State) (u : Nat) (guest mc : Bool) : Option MCheck :=
  let c := s.unit u
  let c14 := c.bankC guest 14
  let img : Option Nat := if guest then s.imgOf u else none
  if mc then c.mchecks.find? fun m => m.image == img && (if bit m.code 60 then bit c14 6 else bit c14 7) else none

/-- The first I/O condition that CPU u, running its image, may take: lowest ISC, then longest pending (R333). -/
def State.ioNext (s : State) (u : Nat) : Option (Nat × Nat × Nat) :=
  let c := s.unit u
  match c.irun with
  | none => none
  | some r =>
    if !c.psw.io then none
    else (List.range 8).findSome? fun i =>
      if bit (c.bankC true 6) i then s.conds.find? fun x => x.1 == r.image && x.2.1 == i else none

/-! ## The boundary between two instructions (R64, R67, R68, R75, R78, R87, R88) -/

/-- What a boundary brings before the next instruction. -/
inductive Bound where
  | clear
  | exit (reason : Nat) (q : Dword)
  | machine (m : MCheck)
  | external (x : Ext)
  | io (c : Nat × Nat × Nat)
  | restart
  | unstored (x : Nat × Intr)
  deriving DecidableEq, Repr

/-- The image that a CPU runs has been stopped, with its message (R454). -/
def State.stoppedBy (s : State) (img : Nat) : Option Dword :=
  match s.image img with
  | some e => if e.st = .stopped then some e.stopMsg else none
  | none => none

/-- A unit is not at work: its place in the Core Map, a self-test, an interruption it could not take, a stopped module, or
a small unit that has not been started (R34, R64, R79, R195, R356, R454). -/
def State.idle (s : State) (u : Nat) : Bool :=
  if isCpu u then s.cmapState u != 1 || (s.unit u).stuck || (s.unit u).selfTest || s.frozen
  else !(s.unit u).running || !s.powered || (decide (u < 288) && s.frozen)

/-- The next condition of host level, or of a CPU outside an image, in the order of R75. -/
def State.hostBound (s : State) (u : Nat) (p : Psw) : Bound :=
  match s.mcNext u false p.mc with
  | some m => .machine m
  | none => match (if p.ext then s.extNext u false else none) with
    | some x => .external x
    | none => if (s.unit u).restart then .restart else .clear

/-- The next condition of the guest in the order of R75. -/
def State.guestBound (s : State) (u : Nat) (p : Psw) : Bound :=
  match s.mcNext u true p.mc with
  | some m => .machine m
  | none => match (if p.ext then s.extNext u true else none) with
    | some x => .external x
    | none => match s.ioNext u with
      | some c => .io c
      | none => if p.wait && !p.disabledWait && bit ((s.unit u).getC 32) 7 then .exit 3 0 else .clear

/-- What comes before the next instruction of unit u; an image reset ends the IRUN of a stopped CPU too (R92). -/
def State.boundary (s : State) (u : Nat) : Bound :=
  let c := s.unit u
  if s.idle u then .clear
  else if isCpu u && c.inImage && c.imgReset.isSome then .exit 6 ((c.imgReset.getD 0).zeroExtend 64)
  else if isCpu u && c.stopped then (if c.restart then (if c.inImage then .exit 2 0 else .restart) else .clear)
  else match c.irun with
    | none => s.hostBound u c.psw
    | some r =>
      match s.stoppedBy r.image with
      | some m => .exit 5 m
      | none =>
        if s.hostBound u r.hostPsw ≠ .clear then .exit 2 0
        else match c.unstored.find? (fun x => x.1 == r.image) with
          | some x => .unstored x
          | none => s.guestBound u c.psw

/-- The condition is acted on: IRUN ends, or the interruption is taken and is no longer pending. -/
def State.act (s : State) (u : Nat) (b : Bound) : State :=
  let ia := (s.psw u).ia
  match b with
  | .clear => s
  | .exit reason q => s.irunExit u reason q
  | .machine m => (s.modUnit u fun c => { c with mchecks := c.mchecks.erase m }).machineInt u m ia s
  | .external x => (s.modUnit u fun c => c.dropExt x).takeInt u ⟨.external, x.data, ia⟩ s
  | .io c =>
    let e := s.sub c.2.2
    ({ s with conds := s.conds.erase c } : State).takeInt u
      ⟨.io, [fieldBytes 0x3A0 4 (e.set <<< 16 + e.num), fieldBytes 0x3A4 1 c.2.1, fieldBytes 0x3A8 8 e.param.toNat], ia⟩ s
  | .restart => (s.modUnit u fun c => { c with restart := false, stopped := false }).takeInt u ⟨.restart, [], ia⟩ s
  | .unstored x => (s.modUnit u fun c => { c with unstored := c.unstored.erase x }).takeInt u x.2 s

/-- Every condition that is enabled is acted on before an instruction (R78); what `n` actions leave is acted on at the next
boundary. -/
def State.settle (s : State) (u : Nat) : Nat → State
  | 0 => s
  | n + 1 => match s.boundary u with
    | .clear => s
    | b => (s.act u b).settle u n

/-! ## How an instruction ends -/

/-- What ends an instruction other than plain completion. -/
inductive Ends where
  /-- not performed (R83: nullifying or suppressing; a host-level failure; a refused bank) -/
  | stop (x : Stop)
  /-- completed, with a completing exception -/
  | after (s : State) (e : Exc)
  /-- SVC -/
  | svc (code : Nat)
  /-- HCALL -/
  | hcall (q : Nat)
  /-- the open region aborts and nothing else happens -/
  | abort (code : Nat) (imm : BitVec 14)
  /-- uncorrected data met at an absolute address (R86) -/
  | check (s : State) (addr : Nat)
  /-- the instruction waits: nothing has happened yet, and IA still names it (R424, R426, R442) -/
  | wait

/-- The effect of an instruction on a state whose IA already names the next one. -/
abbrev Body := State → Except Ends State

/-- An instruction as it enters execution: unit, word, its decoding checks (R97, R98) and its effect. -/
structure Insn where
  u : Nat
  word : Word
  /-- the profile lacks it -/
  lacks : Bool := false
  /-- least state: 0 problem, 1 supervisor, 2 host -/
  least : Nat := 0
  /-- a reserved field, a modifier or an odd register -/
  spec : Bool := false
  /-- a specification condition of an operand address -/
  align : Option Stop := none
  /-- no engine serves the slot (R116, R426) -/
  noSlot : Bool := false
  /-- CHKMODE in a region (R205) -/
  handover : Bool := false
  /-- restricted in a region (R241) -/
  restricted : Bool := false
  /-- the rows of R181 it uses, counted from 0 -/
  rows : List Nat := []
  body : Body

/-- A program condition as a stop. -/
def excOf (code : BitVec 16) : Stop := .exc { code := code }

/-- The checks of R98 and R84 before operand access; `open_` tells of an open region. A small unit has no host state (R115). -/
def Insn.check (i : Insn) (p : Psw) (open_ : Bool) : Option Ends :=
  if i.lacks then some (.stop (excOf 0x0001))
  else if p.mode.code < i.least || (!(isCpu i.u) && decide (2 ≤ i.least)) then some (.stop (excOf 0x0002))
  else if i.spec then some (.stop (excOf 0x0006))
  else match i.align with
    | some x => some (.stop x)
    | none =>
      if i.noSlot then some (.stop (excOf 0x001C))
      else if i.handover then some (.stop (excOf 0x0020))
      else if i.restricted && open_ then some (.abort 0x06 0)
      else none

/-- Suppressing exceptions: the old PSW addresses the next instruction (R83). -/
def suppressing (e : Exc) : Bool := e.code == 0x0009 || e.code == 0x0018 || e.code == 0x0019

/-- The message of a fault that an access has met: the newest one sent between two states (R86). -/
def newMsg (a b : State) : Option Msg :=
  (List.range 11).findSome? fun d => if (a.queue d).length < (b.queue d).length then (b.queue d).getLast? else none

/-- The UD machine check of consumed data (R86, R89, R272): the instruction did not complete. -/
def udCheck (s0 s : State) (u addr : Nat) : MCheck :=
  let code := setBit (setBit (setBit 0 58 true) 57 true) 50 true
  match newMsg s0 s with
  | some m => { image := s.imgOf u, code := code, msg := m.word, tod := m.tod, addr := BitVec.ofNat 64 addr }
  | none => { image := s.imgOf u, code := code, msg := 0, tod := s.tod, addr := BitVec.ofNat 64 addr }

/-- An exigent machine check: a small unit fails (R359), a CPU with MC 0 cannot take it (R79). -/
def State.exigent (s : State) (u : Nat) (m : MCheck) (ia : Dword) : State :=
  if !(isCpu u) then s.unitFail u
  else if (s.psw u).mc then s.raise u ((s.beforeMc u ia).mcIntr u m ia) else s.cannotTake u true

/-- The instruction at `ia` is confirmed: a retry of it ends (R193). -/
def State.confirm (s : State) (u : Nat) (ia : Dword) : State :=
  let c := s.unit u
  if c.retries = 0 || c.selfTest || c.retryIa != ia then s else s.retryOk u ia

/-- A program interruption confirms the instruction that raises it. -/
def State.excInt (s : State) (u : Nat) (e : Exc) (word : Word) (ia : Dword) : State := (s.programInt u e word ia).confirm u ia

/-- Uncorrected data consumed at an absolute address: the instruction has not completed (R86, R89). -/
def State.consumed (s s1 : State) (u addr : Nat) (ia : Dword) : State :=
  (s1.setUnit u (s.unit u)).exigent u (udCheck s s1 u addr) ia

/-- An end that brings an interruption. -/
def Ends.interrupts : Ends → Bool
  | .stop .stall | .stop (.exit _ _ _) | .hcall _ | .abort _ _ | .wait => false
  | _ => true

/-- The prefix area of a small unit lies in a bank that is in a copy: what needs it waits (R442). -/
def State.areaStalled (s : State) (u : Nat) : Bool := !(isCpu u) && s.cellStalled (wsCell (smallDie u) (s.unit u).prefix_)

/-- The end of an instruction at `ia` (R67, R83, R89): `s` is the state it began in, IA still naming it. A retry that comes to
such an end is confirmed by it, but where uncorrected data keeps the instruction from completing (R193). -/
def State.endWith (s : State) (u : Nat) (word : Word) (ia : Dword) (ifx : Bool) (e : Ends) : State :=
  if s.areaStalled u && e.interrupts then s else match e with
  | .stop (.exc x0) =>
    let x := { x0 with ifx := ifx, fetched := [] }
    let s1 := s.fetchedBy u x0.fetched
    match x0.fetched.find? s1.poisoned with
    | some a => s.consumed s1 u a ia
    | none => (if suppressing x then s1.setIa u (ia + 4) else s1).excInt u x word ia
  | .stop (.exit q _ l) =>
    let s1 := s.fetchedBy u l
    match l.find? s1.poisoned with
    | some a => s.consumed s1 u a ia
    | none => (s1.irunExit u 1 (BitVec.ofNat 64 q)).confirm u ia
  | .stop (.deny cell va) => (s.wsDeny cell (ownerCode u)).excInt u { code := 4, addr := va, ifx := ifx } word ia
  | .after s1 x => s1.excInt u x word ia
  | .svc code => ((s.setIa u (ia + 4)).svcInt u code ia).confirm u ia
  | .hcall q => ((s.setIa u (ia + 4)).irunExit u 4 (BitVec.ofNat 64 q)).confirm u ia
  | .abort code imm => (s.modUnit u fun c => c.abort ia code imm).confirm u ia
  | .check s1 addr => s.consumed s1 u addr ia
  | .stop .stall | .wait => s

/-! ## Checked execution around an instruction (R192, R193) -/

/-- The passes of a tagged instruction may differ in what they sampled (R192). -/
def State.tagged (s : State) (u : Nat) : State :=
  if isCpu u && (s.unit u).checked then
    let s1 : State := { s with free := s.free + 1 }
    if Config.passesDiffer s.free then s1.asyncDiff u else s1
  else s

/-- The armed injections of type 0x04 corrupt one second pass each: the instruction of their unit class mismatches, is
retried, and after two retries leaves the core in its self-test (R193, R469). -/
def State.injectedMismatch (s : State) (u : Nat) (rows : List Nat) : Nat → State
  | 0 => s
  | n + 1 =>
    if !(isCpu u) || !(s.unit u).checked || (s.unit u).selfTest then s
    else
      let k := s.coreOf u
      match s.injected.find? fun x => x.die == k / 26 && x.unit == k % 26 && x.typ == 4 && rows.contains x.param with
      | none => s
      | some x => ((s.dropInj x).mismatch u true).injectedMismatch u rows n

/-- The instruction at `ia` of a region has completed: it is counted, and the limits of R239 are applied; AIA names an
instruction that goes beyond one (R240; log 31). -/
def State.regionStep (s : State) (u : Nat) (ia : Dword) : State :=
  match (s.unit u).region with
  | none => s
  | some r =>
    let r1 := { r with count := r.count + 1 }
    match r1.overflow with
    | some code => s.modUnit u fun c => c.abort ia code 0
    | none => s.modUnit u fun c => { c with region := some r1 }

/-! ## Instruction fetch and execution -/

/-- Pieces that end an open region: service space, uncached or write-combining (R240). -/
def endsRegion (ps : List Piece) : Bool := ps.any fun p => p.target == .service || p.mt == .uc || p.mt == .wc

/-- The fetch of the instruction at IA: the access that reads its word; the command carries the word itself. -/
def State.fetchWordAt (s : State) (u : Nat) : Except Ends State :=
  let ia := (s.psw u).ia
  match s.translate u ia 4 .fetch with
  | .error x => .error (.stop x)
  | .ok ps =>
    if ps.any fun p => p.target = .service then .error (.stop (.exc { code := 5, addr := ia, fetched := ps.flatMap (·.fetched) }))
    else if (s.unit u).region.isSome && endsRegion ps then .error (.abort 0x0A 0)
    else
      let r := s.readPieces u ps true
      match r.bad with
      | some a => .error (.check r.st a)
      | none => .ok r.st

/-- A unit executes no instruction now: idle, stopped or in the wait state (R64, R88). -/
def State.waits (s : State) (u : Nat) : Bool := s.idle u || (isCpu u && (s.unit u).stopped) || (s.psw u).wait

/-- An instruction enters execution on its unit (R75 to R89, R97, R98): the state its effect begins in, IA still naming it; or
the state that what the boundary brings, the fetch or a decoding check leaves in its place. An instruction that ends in the
logic self-test is squashed: what its fetch would have filled is discarded (R188, R189). -/
def State.enter (s : State) (i : Insn) : Except State State :=
  if s.boundary i.u ≠ .clear then .error (s.settle i.u 64)
  else if s.waits i.u then .error s
  else
    match s.fetchWordAt i.u with
    | .error e => .error (s.endWith i.u 0 (s.psw i.u).ia true e)
    | .ok s1 =>
      let s2 := s1.injectedMismatch i.u i.rows 3
      if (s2.unit i.u).selfTest then .error (s.injectedMismatch i.u i.rows 3)
      else match i.check (s2.psw i.u) (s2.unit i.u).region.isSome with
      | some e => .error (s2.endWith i.u i.word (s.psw i.u).ia false e)
      | none => .ok s2

/-- An instruction that has entered has its effect, or ends as its own conditions say. -/
def State.perform (s : State) (i : Insn) : State :=
  let ia := (s.psw i.u).ia
  match i.body (s.setIa i.u (ia + 4)) with
  | .error e => s.endWith i.u i.word ia false e
  | .ok t => (if (s.unit i.u).region.isSome then t.regionStep i.u ia else t).confirm i.u ia

/-- An instruction runs on its unit. -/
def State.insn (s : State) (i : Insn) : State :=
  match s.enter i with
  | .error t => t
  | .ok s2 => s2.perform i

/-! ## Operand accesses -/

/-- The engine that a channel engine's register write comes from (R437). -/
def engNumber (u : Nat) : Option Nat := if 192 ≤ u ∧ u < 288 then some ((u - 192) % 48) else none

/-- n bytes at va, or how the access ends. -/
def State.loadAt (s : State) (u : Nat) (va : Dword) (n : Nat) (k : AccKind) : Except Ends (State × List Byte) :=
  match s.translate u va n k with
  | .error x => .error (.stop x)
  | .ok ps =>
    if (s.unit u).region.isSome && endsRegion ps then .error (.abort 0x0A 0)
    else match ps with
      | [⟨_, _, pa, _, _, .service, _, _, _, _⟩] =>
        let s1 := (s.wcFlush u).tagged u
        .ok (s1, beBytes 8 (s1.regRead pa).toNat)
      | _ =>
        let r := s.readPieces u ps false
        match r.bad with
        | some a => .error (.check r.st a)
        | none => .ok (r.st, r.data)

/-- Bytes stored at va, or how the access ends; a walk that meets poison ends it before anything is stored (R213, R285). -/
def State.storeAt (s : State) (u : Nat) (va : Dword) (data : List Byte) (k : AccKind) : Except Ends State :=
  match s.translate u va data.length k with
  | .error x => .error (.stop x)
  | .ok ps =>
    if (s.unit u).region.isSome && endsRegion ps then .error (.abort 0x0A 0)
    else match ps with
      | [⟨_, _, pa, _, _, .service, _, _, _, _⟩] =>
        .ok ((s.wcFlush u).regWriteBy (State.writerOf u) (engNumber u) pa (BitVec.ofNat 64 (beNat data)))
      | _ => match ps.findSome? (s.walkPoison u) with
        | some x => .error (.check x.1 x.2)
        | none => .ok (s.writePieces u ps data)

end Sys2Proof.Machine
end

