-- ==== Sys2Proof/Machine/Integer.lean ====
section
/-! DEFINITION. Integer, shift, multiply, divide and bit instructions (R120 to R134, R146 to R150). -/
namespace Sys2Proof.Machine
open Sys2Proof

/-! ## Shared forms -/

/-- The result of an instruction: register, condition code and the overflow of R123. -/
def State.putAlu (s : State) (u : Nat) (ra : BitVec 5) (x : AluOut) : Except Ends State :=
  let s1 := s.setG u ra x.val
  let s2 := match x.cc with
    | some c => s1.setCc u c
    | none => s1
  if x.ovf && (s.psw u).fom then .error (.after s2 { code := 8 }) else .ok s2

/-- A pair of results in ra and ra + 1 (R98, R130, R131). -/
def State.putPair (s : State) (u : Nat) (ra : BitVec 5) (x : PairOut) : Except Ends State :=
  let s1 := ((s.setG u ra x.hi).setG u (odd ra) x.lo).setCc u x.cc
  if x.ovf && (s.psw u).fom then .error (.after s1 { code := 8 }) else .ok s1

/-- A register number is odd. -/
def isOdd (r : BitVec 5) : Bool := r.getLsbD 0

/-- ga := f(gb, gc). -/
def form3 (o : OpA) (op fn row : Nat) (f : Dword → Dword → AluOut) : Insn :=
  { u := o.u, word := wordA op o.ra o.rb o.rc fn, rows := [row],
    body := fun s => s.putAlu o.u o.ra (f (s.g o.u o.rb) (s.g o.u o.rc)) }

/-- ga := f(gb), rc reserved. -/
def form2 (o : OpA) (op fn row : Nat) (f : Dword → AluOut) : Insn :=
  { u := o.u, word := wordA op o.ra o.rb o.rc fn, spec := o.rc != 0, rows := [row],
    body := fun s => s.putAlu o.u o.ra (f (s.g o.u o.rb)) }

/-- The CC from gb and gc, ra reserved. -/
def formCmp (o : OpA) (op fn : Nat) (f : Dword → Dword → BitVec 2) : Insn :=
  { u := o.u, word := wordA op o.ra o.rb o.rc fn, spec := o.ra != 0, rows := [0],
    body := fun s => .ok (s.setCc o.u (f (s.g o.u o.rb) (s.g o.u o.rc))) }

/-- ga := f(gb, imm). -/
def formImm (o : OpI) (op : Nat) (f : Dword → AluOut) : Insn :=
  { u := o.u, word := wordI op o.ra o.rb o.imm, rows := [0], body := fun s => s.putAlu o.u o.ra (f (s.g o.u o.rb)) }

/-- The CC from gb and imm, ra reserved. -/
def formCmpImm (o : OpI) (op : Nat) (f : Dword → BitVec 2) : Insn :=
  { u := o.u, word := wordI op o.ra o.rb o.imm, spec := o.ra != 0, rows := [0], body := fun s => .ok (s.setCc o.u (f (s.g o.u o.rb))) }

/-- Shifts by gc (R128). -/
def formSh (o : OpA) (fn : Nat) (f : Dword → Nat → Dword) : Insn := form3 o 0x03 fn 3 fun b c => plainOut (f b (shAmt c))

/-- Shifts by an immediate (R102, R128). -/
def formShImm (o : OpSh) (fn : Nat) (f : Dword → Nat → Dword) : Insn :=
  { u := o.u, word := wordI 0x0F o.ra o.rb (BitVec.ofNat 14 (fn * 1024 + o.res.toNat * 128 + o.amt.toNat)), spec := o.res != 0, rows := [3],
    body := fun s => s.putAlu o.u o.ra (plainOut (f (s.g o.u o.rb) o.amt.toNat)) }

/-- Instructions that write a pair (R103): ra even. -/
def formPair (o : OpA) (fn row : Nat) (f : Dword → Dword → Option PairOut) : Insn :=
  { u := o.u, word := wordA 0x04 o.ra o.rb o.rc fn, spec := isOdd o.ra, rows := [row],
    body := fun s => match f (s.g o.u o.rb) (s.g o.u o.rc) with
      | none => .error (.stop (excOf 0x0009))
      | some x => s.putPair o.u o.ra x }

/-- The CC of a signed or unsigned comparison of the low w bits (R122). -/
def cmpS (w : Nat) (b c : Dword) : BitVec 2 := ccCompare (sval w b) (sval w c)
def cmpU (w : Nat) (b c : Dword) : BitVec 2 := ccCompare (uval w b) (uval w c)

/-! ## Arithmetic and logic (R124 to R126) -/

/-- ADD (R124). -/
def insnAdd (o : OpA) : Insn := form3 o 0x01 0 0 (aluAdd 64)
def execAdd (o : OpA) (s : State) : Result := .next (s.insn (insnAdd o))

/-- ADDW (R121, R124). -/
def insnAddw (o : OpA) : Insn := form3 o 0x02 0 0 (aluAdd 32)
def execAddw (o : OpA) (s : State) : Result := .next (s.insn (insnAddw o))

/-- ADDL (R124). -/
def insnAddl (o : OpA) : Insn := form3 o 0x01 1 0 (aluAddL 64)
def execAddl (o : OpA) (s : State) : Result := .next (s.insn (insnAddl o))

/-- ADDLW (R121, R124). -/
def insnAddlw (o : OpA) : Insn := form3 o 0x02 1 0 (aluAddL 32)
def execAddlw (o : OpA) (s : State) : Result := .next (s.insn (insnAddlw o))

/-- SUB (R124). -/
def insnSub (o : OpA) : Insn := form3 o 0x01 2 0 (aluSub 64)
def execSub (o : OpA) (s : State) : Result := .next (s.insn (insnSub o))

/-- SUBW (R121, R124). -/
def insnSubw (o : OpA) : Insn := form3 o 0x02 2 0 (aluSub 32)
def execSubw (o : OpA) (s : State) : Result := .next (s.insn (insnSubw o))

/-- SUBL (R124). -/
def insnSubl (o : OpA) : Insn := form3 o 0x01 3 0 (aluSubL 64)
def execSubl (o : OpA) (s : State) : Result := .next (s.insn (insnSubl o))

/-- SUBLW (R121, R124). -/
def insnSublw (o : OpA) : Insn := form3 o 0x02 3 0 (aluSubL 32)
def execSublw (o : OpA) (s : State) : Result := .next (s.insn (insnSublw o))

/-- AND (R124). -/
def insnAnd (o : OpA) : Insn := form3 o 0x01 4 0 (fun b c => logicalOut (b &&& c))
def execAnd (o : OpA) (s : State) : Result := .next (s.insn (insnAnd o))

/-- OR (R124). -/
def insnOr (o : OpA) : Insn := form3 o 0x01 5 0 (fun b c => logicalOut (b ||| c))
def execOr (o : OpA) (s : State) : Result := .next (s.insn (insnOr o))

/-- XOR (R124). -/
def insnXor (o : OpA) : Insn := form3 o 0x01 6 0 (fun b c => logicalOut (b ^^^ c))
def execXor (o : OpA) (s : State) : Result := .next (s.insn (insnXor o))

/-- NOR (R124). -/
def insnNor (o : OpA) : Insn := form3 o 0x01 7 0 aluNor
def execNor (o : OpA) (s : State) : Result := .next (s.insn (insnNor o))

/-- ANDC (R124). -/
def insnAndc (o : OpA) : Insn := form3 o 0x01 8 0 aluAndc
def execAndc (o : OpA) (s : State) : Result := .next (s.insn (insnAndc o))

/-- NEG (R126). -/
def insnNeg (o : OpA) : Insn := form2 o 0x01 9 0 (aluNeg 64)
def execNeg (o : OpA) (s : State) : Result := .next (s.insn (insnNeg o))

/-- NEGW (R121, R126). -/
def insnNegw (o : OpA) : Insn := form2 o 0x02 9 0 (aluNeg 32)
def execNegw (o : OpA) (s : State) : Result := .next (s.insn (insnNegw o))

/-- CMP (R124). -/
def insnCmp (o : OpA) : Insn := formCmp o 0x01 10 (cmpS 64)
def execCmp (o : OpA) (s : State) : Result := .next (s.insn (insnCmp o))

/-- CMPW (R121, R124). -/
def insnCmpw (o : OpA) : Insn := formCmp o 0x02 10 (cmpS 32)
def execCmpw (o : OpA) (s : State) : Result := .next (s.insn (insnCmpw o))

/-- CMPL (R124). -/
def insnCmpl (o : OpA) : Insn := formCmp o 0x01 11 (cmpU 64)
def execCmpl (o : OpA) (s : State) : Result := .next (s.insn (insnCmpl o))

/-- CMPLW (R121, R124). -/
def insnCmplw (o : OpA) : Insn := formCmp o 0x02 11 (cmpU 32)
def execCmplw (o : OpA) (s : State) : Result := .next (s.insn (insnCmplw o))

/-! ## Immediate forms (R125) -/

/-- ADDI (R125). -/
def insnAddi (o : OpI) : Insn := formImm o 0x08 fun b => aluAdd 64 b (simm o.imm)
def execAddi (o : OpI) (s : State) : Result := .next (s.insn (insnAddi o))

/-- ADDLI (R125). -/
def insnAddli (o : OpI) : Insn := formImm o 0x09 fun b => aluAddL 64 b (simm o.imm)
def execAddli (o : OpI) (s : State) : Result := .next (s.insn (insnAddli o))

/-- ADDWI (R125). -/
def insnAddwi (o : OpI) : Insn := formImm o 0x12 fun b => aluAdd 32 b (simm o.imm)
def execAddwi (o : OpI) (s : State) : Result := .next (s.insn (insnAddwi o))

/-- ANDI (R125). -/
def insnAndi (o : OpI) : Insn := formImm o 0x0A fun b => logicalOut (b &&& zimm o.imm)
def execAndi (o : OpI) (s : State) : Result := .next (s.insn (insnAndi o))

/-- ORI (R125). -/
def insnOri (o : OpI) : Insn := formImm o 0x0B fun b => logicalOut (b ||| zimm o.imm)
def execOri (o : OpI) (s : State) : Result := .next (s.insn (insnOri o))

/-- XORI (R125). -/
def insnXori (o : OpI) : Insn := formImm o 0x0C fun b => logicalOut (b ^^^ zimm o.imm)
def execXori (o : OpI) (s : State) : Result := .next (s.insn (insnXori o))

/-- CMPI (R125). -/
def insnCmpi (o : OpI) : Insn := formCmpImm o 0x0D fun b => cmpS 64 b (simm o.imm)
def execCmpi (o : OpI) (s : State) : Result := .next (s.insn (insnCmpi o))

/-- CMPLI (R125). -/
def insnCmpli (o : OpI) : Insn := formCmpImm o 0x0E fun b => cmpU 64 b (zimm o.imm)
def execCmpli (o : OpI) (s : State) : Result := .next (s.insn (insnCmpli o))

/-- LI (R125). -/
def insnLi (o : OpI) : Insn := { formImm o 0x10 (fun _ => plainOut (simm o.imm)) with spec := o.rb != 0 }
def execLi (o : OpI) (s : State) : Result := .next (s.insn (insnLi o))

/-- LIS (R125). -/
def insnLis (o : OpI) : Insn := formImm o 0x11 fun b => plainOut (aluLis b o.imm)
def execLis (o : OpI) (s : State) : Result := .next (s.insn (insnLis o))

/-! ## Extension and counting (R127) -/

/-- SXB (R127). -/
def insnSxb (o : OpA) : Insn := form2 o 0x05 0 0 fun b => plainOut (sext 8 b)
def execSxb (o : OpA) (s : State) : Result := .next (s.insn (insnSxb o))

/-- SXH (R127). -/
def insnSxh (o : OpA) : Insn := form2 o 0x05 1 0 fun b => plainOut (sext 16 b)
def execSxh (o : OpA) (s : State) : Result := .next (s.insn (insnSxh o))

/-- SXW (R127). -/
def insnSxw (o : OpA) : Insn := form2 o 0x05 2 0 fun b => plainOut (sext 32 b)
def execSxw (o : OpA) (s : State) : Result := .next (s.insn (insnSxw o))

/-- ZXB (R127). -/
def insnZxb (o : OpA) : Insn := form2 o 0x05 3 0 fun b => plainOut (zext 8 b)
def execZxb (o : OpA) (s : State) : Result := .next (s.insn (insnZxb o))

/-- ZXH (R127). -/
def insnZxh (o : OpA) : Insn := form2 o 0x05 4 0 fun b => plainOut (zext 16 b)
def execZxh (o : OpA) (s : State) : Result := .next (s.insn (insnZxh o))

/-- ZXW (R127). -/
def insnZxw (o : OpA) : Insn := form2 o 0x05 5 0 fun b => plainOut (zext 32 b)
def execZxw (o : OpA) (s : State) : Result := .next (s.insn (insnZxw o))

/-- CLZ (R127). -/
def insnClz (o : OpA) : Insn := form2 o 0x05 6 1 fun b => plainOut (clz b)
def execClz (o : OpA) (s : State) : Result := .next (s.insn (insnClz o))

/-- CTZ (R127). -/
def insnCtz (o : OpA) : Insn := form2 o 0x05 7 1 fun b => plainOut (ctz b)
def execCtz (o : OpA) (s : State) : Result := .next (s.insn (insnCtz o))

/-- POPC (R127). -/
def insnPopc (o : OpA) : Insn := form2 o 0x05 8 1 fun b => plainOut (popc b)
def execPopc (o : OpA) (s : State) : Result := .next (s.insn (insnPopc o))

/-! ## Shifts and rotates (R128, R129) -/

/-- SLL (R128). -/
def insnSll (o : OpA) : Insn := formSh o 0 (shLeft 64)
def execSll (o : OpA) (s : State) : Result := .next (s.insn (insnSll o))

/-- SLLW (R121, R128). -/
def insnSllw (o : OpA) : Insn := formSh o 8 (shLeft 32)
def execSllw (o : OpA) (s : State) : Result := .next (s.insn (insnSllw o))

/-- SLLI (R128). -/
def insnSlli (o : OpSh) : Insn := formShImm o 0 (shLeft 64)
def execSlli (o : OpSh) (s : State) : Result := .next (s.insn (insnSlli o))

/-- SLLWI (R121, R128). -/
def insnSllwi (o : OpSh) : Insn := formShImm o 8 (shLeft 32)
def execSllwi (o : OpSh) (s : State) : Result := .next (s.insn (insnSllwi o))

/-- SRL (R128). -/
def insnSrl (o : OpA) : Insn := formSh o 1 (shRight 64)
def execSrl (o : OpA) (s : State) : Result := .next (s.insn (insnSrl o))

/-- SRLW (R121, R128). -/
def insnSrlw (o : OpA) : Insn := formSh o 9 (shRight 32)
def execSrlw (o : OpA) (s : State) : Result := .next (s.insn (insnSrlw o))

/-- SRLI (R128). -/
def insnSrli (o : OpSh) : Insn := formShImm o 1 (shRight 64)
def execSrli (o : OpSh) (s : State) : Result := .next (s.insn (insnSrli o))

/-- SRLWI (R121, R128): unlike SRLW it sign-extends its result (R121). -/
def insnSrlwi (o : OpSh) : Insn := formShImm o 9 shRightS
def execSrlwi (o : OpSh) (s : State) : Result := .next (s.insn (insnSrlwi o))

/-- SRA (R128). -/
def insnSra (o : OpA) : Insn := formSh o 2 (shArith 64)
def execSra (o : OpA) (s : State) : Result := .next (s.insn (insnSra o))

/-- SRAW (R121, R128). -/
def insnSraw (o : OpA) : Insn := formSh o 10 (shArith 32)
def execSraw (o : OpA) (s : State) : Result := .next (s.insn (insnSraw o))

/-- SRAI (R128). -/
def insnSrai (o : OpSh) : Insn := formShImm o 2 (shArith 64)
def execSrai (o : OpSh) (s : State) : Result := .next (s.insn (insnSrai o))

/-- SRAWI (R121, R128). -/
def insnSrawi (o : OpSh) : Insn := formShImm o 10 (shArith 32)
def execSrawi (o : OpSh) (s : State) : Result := .next (s.insn (insnSrawi o))

/-- ROL (R128). -/
def insnRol (o : OpA) : Insn := formSh o 3 (rotLeft 64)
def execRol (o : OpA) (s : State) : Result := .next (s.insn (insnRol o))

/-- ROLW (R121, R128). -/
def insnRolw (o : OpA) : Insn := formSh o 11 (rotLeft 32)
def execRolw (o : OpA) (s : State) : Result := .next (s.insn (insnRolw o))

/-- ROLI (R128). -/
def insnRoli (o : OpSh) : Insn := formShImm o 3 (rotLeft 64)
def execRoli (o : OpSh) (s : State) : Result := .next (s.insn (insnRoli o))

/-- ROLWI (R121, R128). -/
def insnRolwi (o : OpSh) : Insn := formShImm o 11 (rotLeft 32)
def execRolwi (o : OpSh) (s : State) : Result := .next (s.insn (insnRolwi o))

/-- ROR (R128). -/
def insnRor (o : OpA) : Insn := formSh o 4 (rotRight 64)
def execRor (o : OpA) (s : State) : Result := .next (s.insn (insnRor o))

/-- RORW (R121, R128). -/
def insnRorw (o : OpA) : Insn := formSh o 12 (rotRight 32)
def execRorw (o : OpA) (s : State) : Result := .next (s.insn (insnRorw o))

/-- RORI (R128). -/
def insnRori (o : OpSh) : Insn := formShImm o 4 (rotRight 64)
def execRori (o : OpSh) (s : State) : Result := .next (s.insn (insnRori o))

/-- RORWI (R121, R128). -/
def insnRorwi (o : OpSh) : Insn := formShImm o 12 (rotRight 32)
def execRorwi (o : OpSh) (s : State) : Result := .next (s.insn (insnRorwi o))

/-! ## Multiply and divide (R130 to R134) -/

/-- MUL (R130). -/
def insnMul (o : OpA) : Insn := form3 o 0x04 0 4 (aluMul 64)
def execMul (o : OpA) (s : State) : Result := .next (s.insn (insnMul o))

/-- MULW (R121, R130). -/
def insnMulw (o : OpA) : Insn := form3 o 0x04 1 4 (aluMul 32)
def execMulw (o : OpA) (s : State) : Result := .next (s.insn (insnMulw o))

/-- MULS (R130). -/
def insnMuls (o : OpA) : Insn := formPair o 2 4 fun b c => some (mulSigned b c)
def execMuls (o : OpA) (s : State) : Result := .next (s.insn (insnMuls o))

/-- MULU (R130). -/
def insnMulu (o : OpA) : Insn := formPair o 3 4 fun b c => some (mulUnsigned b c)
def execMulu (o : OpA) (s : State) : Result := .next (s.insn (insnMulu o))

/-- DIV (R131). -/
def insnDiv (o : OpA) : Insn := formPair o 4 5 (divSigned 64)
def execDiv (o : OpA) (s : State) : Result := .next (s.insn (insnDiv o))

/-- DIVL (R131). -/
def insnDivl (o : OpA) : Insn := formPair o 5 5 (divUnsigned 64)
def execDivl (o : OpA) (s : State) : Result := .next (s.insn (insnDivl o))

/-- DIVW (R121, R131). -/
def insnDivw (o : OpA) : Insn := formPair o 6 5 (divSigned 32)
def execDivw (o : OpA) (s : State) : Result := .next (s.insn (insnDivw o))

/-- DIVLW (R121, R131). -/
def insnDivlw (o : OpA) : Insn := formPair o 7 5 (divUnsigned 32)
def execDivlw (o : OpA) (s : State) : Result := .next (s.insn (insnDivlw o))

/-! ## Bit and check instructions (R146 to R150) -/

/-- CRCSTEP (R113, R147). -/
def insnCrcstep (o : OpCrc) : Insn :=
  { u := o.u, word := wordA 0x58 o.ra o.rb o.rc (8 * o.wide.toNat + 4 * o.refl.toNat + o.poly.val), lacks := !(isCpu o.u), spec := o.rc != 0,
    rows := [11], body := fun s => s.putAlu o.u o.ra (plainOut (crcStep o.poly o.refl o.wide (s.g o.u o.ra) (s.g o.u o.rb))) }
def execCrcstep (o : OpCrc) (s : State) : Result := .next (s.insn (insnCrcstep o))

/-- An instruction over the fields of gb that a mode selects: full profile, rc reserved (R113, R115). -/
def formMode (o : OpMode) (op : Nat) (f : Dword → AluOut) : Insn :=
  { u := o.u, word := wordA op o.ra o.rb o.rc o.mode.val, lacks := !(isCpu o.u), spec := o.rc != 0, rows := [2],
    body := fun s => s.putAlu o.u o.ra (f (s.g o.u o.rb)) }

/-- PARITY (R148). -/
def insnParity (o : OpMode) : Insn := formMode o 0x59 fun b => logicalOut (parityBits o.mode b)
def execParity (o : OpMode) (s : State) : Result := .next (s.insn (insnParity o))

/-- BREV (R149). -/
def insnBrev (o : OpMode) : Insn := formMode o 0x5A fun b => plainOut (brevBits o.mode b)
def execBrev (o : OpMode) (s : State) : Result := .next (s.insn (insnBrev o))

/-- BNDCHK (R150): the small profile only. -/
def insnBndchk (o : OpBnd) : Insn :=
  { u := o.u, word := wordA 0x5F o.ra o.rb o.rc o.uns.toNat, lacks := isCpu o.u,
    body := fun s =>
      if outOfBounds o.uns (s.g o.u o.ra) (s.g o.u o.rb) (s.g o.u o.rc) then .error (.stop (.exc { code := 0x000A, data := s.g o.u o.ra }))
      else .ok s }
def execBndchk (o : OpBnd) (s : State) : Result := .next (s.insn (insnBndchk o))

end Sys2Proof.Machine
end

