-- ==== Sys2Proof/Machine/Memory.lean ====
section
/-! DEFINITION. Loads, stores and address arithmetic (R135 to R137). -/
namespace Sys2Proof.Machine
open Sys2Proof

/-- The effective address gb + sext(disp, 14) (R95, R135). -/
def State.ea (s : State) (o : OpI) : Dword := s.g o.u o.rb + simm o.imm

/-- The value of loaded bytes. -/
def loaded (b : List Byte) : Dword := BitVec.ofNat 64 (beNat b)

/-- A 16-byte alignment condition of an operand (R136, R42). -/
def State.align16 (s : State) (u : Nat) (va : Dword) (k : AccKind) : Option Stop :=
  if va.toNat % 16 = 0 then none else some (s.alignStop u va 16 k)

/-- A load of n bytes, extended by `ext` (R135). -/
def formLoad (o : OpI) (op n : Nat) (ext : Dword → Dword) : Insn :=
  { u := o.u, word := wordI op o.ra o.rb o.imm, rows := [12, 13],
    body := fun s => match s.loadAt o.u (s.ea o) n .load with
      | .error e => .error e
      | .ok (s1, b) => .ok (s1.setG o.u o.ra (ext (loaded b))) }

/-- A store of the low n bytes of ga (R135). -/
def formStore (o : OpI) (op n : Nat) : Insn :=
  { u := o.u, word := wordI op o.ra o.rb o.imm, rows := [12, 14],
    body := fun s => s.storeAt o.u (s.ea o) (beBytes n (s.g o.u o.ra).toNat) .store }

/-- LB (R135). -/
def insnLb (o : OpI) : Insn := formLoad o 0x20 1 (sext 8)
def execLb (o : OpI) (s : State) : Result := .next (s.insn (insnLb o))

/-- LBU (R135). -/
def insnLbu (o : OpI) : Insn := formLoad o 0x21 1 (zext 8)
def execLbu (o : OpI) (s : State) : Result := .next (s.insn (insnLbu o))

/-- LH (R135). -/
def insnLh (o : OpI) : Insn := formLoad o 0x22 2 (sext 16)
def execLh (o : OpI) (s : State) : Result := .next (s.insn (insnLh o))

/-- LHU (R135). -/
def insnLhu (o : OpI) : Insn := formLoad o 0x23 2 (zext 16)
def execLhu (o : OpI) (s : State) : Result := .next (s.insn (insnLhu o))

/-- LW (R135). -/
def insnLw (o : OpI) : Insn := formLoad o 0x24 4 (sext 32)
def execLw (o : OpI) (s : State) : Result := .next (s.insn (insnLw o))

/-- LWU (R135). -/
def insnLwu (o : OpI) : Insn := formLoad o 0x25 4 (zext 32)
def execLwu (o : OpI) (s : State) : Result := .next (s.insn (insnLwu o))

/-- LD (R135). -/
def insnLd (o : OpI) : Insn := formLoad o 0x26 8 id
def execLd (o : OpI) (s : State) : Result := .next (s.insn (insnLd o))

/-- LQ (R135, R136): ga even, ea a multiple of 16. -/
def insnLq (o : OpI) (s : State) : Insn :=
  { u := o.u, word := wordI 0x27 o.ra o.rb o.imm, spec := isOdd o.ra, align := s.align16 o.u (s.ea o) .load, rows := [12, 13],
    body := fun s => match s.loadAt o.u (s.ea o) 16 .load with
      | .error e => .error e
      | .ok (s1, b) => .ok ((s1.setG o.u o.ra (loaded (b.take 8))).setG o.u (odd o.ra) (loaded (b.drop 8))) }
def execLq (o : OpI) (s : State) : Result := .next (s.insn (insnLq o s))

/-- STB (R135). -/
def insnStb (o : OpI) : Insn := formStore o 0x28 1
def execStb (o : OpI) (s : State) : Result := .next (s.insn (insnStb o))

/-- STH (R135). -/
def insnSth (o : OpI) : Insn := formStore o 0x29 2
def execSth (o : OpI) (s : State) : Result := .next (s.insn (insnSth o))

/-- STW (R135). -/
def insnStw (o : OpI) : Insn := formStore o 0x2A 4
def execStw (o : OpI) (s : State) : Result := .next (s.insn (insnStw o))

/-- STD (R135). -/
def insnStd (o : OpI) : Insn := formStore o 0x2B 8
def execStd (o : OpI) (s : State) : Result := .next (s.insn (insnStd o))

/-- STQ (R135, R136): ga even, ea a multiple of 16. -/
def insnStq (o : OpI) (s : State) : Insn :=
  { u := o.u, word := wordI 0x2C o.ra o.rb o.imm, spec := isOdd o.ra, align := s.align16 o.u (s.ea o) .store, rows := [12, 14],
    body := fun s => s.storeAt o.u (s.ea o) (beBytes 8 (s.g o.u o.ra).toNat ++ beBytes 8 (s.g o.u (odd o.ra)).toNat) .store }
def execStq (o : OpI) (s : State) : Result := .next (s.insn (insnStq o s))

/-- LA (R135): no storage access and no exception. -/
def insnLa (o : OpI) : Insn :=
  { u := o.u, word := wordI 0x2D o.ra o.rb o.imm, rows := [0], body := fun s => .ok (s.setG o.u o.ra (s.ea o)) }
def execLa (o : OpI) (s : State) : Result := .next (s.insn (insnLa o))

end Sys2Proof.Machine
end

