-- ==== Sys2Proof/Machine/Branch.lean ====
section
/-! DEFINITION. Branches, calls, returns, spill and fill (R69 to R71, R96, R138 to R142). In the effects below IA already names
the next instruction, so the instruction's own address is IA - 4. -/
namespace Sys2Proof.Machine
open Sys2Proof

/-- The mask bit for the current CC (R96): bit 3 of cond stands for CC 0. -/
def condMet (cond : BitVec 4) (cc : BitVec 2) : Bool := cond.getLsbD (3 - cc.toNat)

/-- The branch target: the instruction's address + 4 × displacement, modulo 2^64 (R95). -/
def State.target (s : State) (u : Nat) (disp : Dword) : Dword := (s.psw u).ia - 4 + 4 * disp

/-- CALL (R70): the address of the next instruction is pushed and the branch taken. -/
def State.call (s : State) (u : Nat) (to_ : Dword) : Except Ends State :=
  let c := s.unit u
  let r := c.rs
  let ret := (s.psw u).ia
  if r.entries.length < rsDepth u then .ok (s.setUnit u ((c.setRs { r with entries := ret :: r.entries }).setIa to_))
  else if c.psw.rso then .error (.stop (excOf 0x000B))
  else .ok (s.setUnit u ((c.setRs { entries := ret :: r.entries.dropLast, disc := true }).setIa to_))

/-- An address that names no word (R140). -/
def misaligned4 (a : Dword) : Bool := decide (a.toNat % 4 ≠ 0)

/-- BRC (R138). -/
def insnBrc (o : OpB) : Insn :=
  { u := o.u, word := wordB 0x30 o.cond o.disp, rows := [12, 15],
    body := fun s => .ok (if condMet o.cond (s.psw o.u).cc then s.setIa o.u (s.target o.u (o.disp.signExtend 64)) else s) }
def execBrc (o : OpB) (s : State) : Result := .next (s.insn (insnBrc o))

/-- BR (R138, R140). -/
def insnBr (o : OpA) (s : State) : Insn :=
  { u := o.u, word := wordA 0x32 o.ra o.rb o.rc 0, spec := o.rb != 0 || o.rc != 0 || misaligned4 (s.g o.u o.ra), rows := [12, 15],
    body := fun s => .ok (s.setIa o.u (s.g o.u o.ra)) }
def execBr (o : OpA) (s : State) : Result := .next (s.insn (insnBr o s))

/-- A compare-and-branch (R138). -/
def formCb (o : OpI) (op : Nat) (taken : Dword → Dword → Bool) : Insn :=
  { u := o.u, word := wordI op o.ra o.rb o.imm, rows := [0, 12, 15],
    body := fun s => .ok (if taken (s.g o.u o.ra) (s.g o.u o.rb) then s.setIa o.u (s.target o.u (simm o.imm)) else s) }

/-- CBEQ (R138). -/
def insnCbeq (o : OpI) : Insn := formCb o 0x34 fun a b => a == b
def execCbeq (o : OpI) (s : State) : Result := .next (s.insn (insnCbeq o))

/-- CBNE (R138). -/
def insnCbne (o : OpI) : Insn := formCb o 0x35 fun a b => a != b
def execCbne (o : OpI) (s : State) : Result := .next (s.insn (insnCbne o))

/-- CBLT (R138). -/
def insnCblt (o : OpI) : Insn := formCb o 0x36 fun a b => decide (a.toInt < b.toInt)
def execCblt (o : OpI) (s : State) : Result := .next (s.insn (insnCblt o))

/-- CBGE (R138). -/
def insnCbge (o : OpI) : Insn := formCb o 0x37 fun a b => decide (b.toInt ≤ a.toInt)
def execCbge (o : OpI) (s : State) : Result := .next (s.insn (insnCbge o))

/-- CBLTL (R138). -/
def insnCbltl (o : OpI) : Insn := formCb o 0x38 fun a b => decide (a.toNat < b.toNat)
def execCbltl (o : OpI) (s : State) : Result := .next (s.insn (insnCbltl o))

/-- CBGEL (R138). -/
def insnCbgel (o : OpI) : Insn := formCb o 0x39 fun a b => decide (b.toNat ≤ a.toNat)
def execCbgel (o : OpI) (s : State) : Result := .next (s.insn (insnCbgel o))

/-- CALLR (R139): the stack is untouched when the mask bit is 0. -/
def insnCallr (o : OpB) : Insn :=
  { u := o.u, word := wordB 0x31 o.cond o.disp, rows := [12, 15],
    body := fun s => if condMet o.cond (s.psw o.u).cc then s.call o.u (s.target o.u (o.disp.signExtend 64)) else .ok s }
def execCallr (o : OpB) (s : State) : Result := .next (s.insn (insnCallr o))

/-- CALLG (R139 to R141). -/
def insnCallg (o : OpA) (s : State) : Insn :=
  { u := o.u, word := wordA 0x32 o.ra o.rb o.rc 1, spec := o.rb != 0 || o.rc != 0 || misaligned4 (s.g o.u o.ra), rows := [12, 15],
    body := fun s => s.call o.u (s.g o.u o.ra) }
def execCallg (o : OpA) (s : State) : Result := .next (s.insn (insnCallg o s))

/-- RET has an entry 0 that names no word (R140). -/
def RStack.badTop (r : RStack) : Bool :=
  match r.entries with
  | e :: _ => misaligned4 e
  | [] => false

/-- RET (R70, R139 to R141). -/
def insnRet (o : OpA) (s : State) : Insn :=
  { u := o.u, word := wordA 0x32 o.ra o.rb o.rc 2, spec := o.ra != 0 || o.rb != 0 || o.rc != 0 || (s.unit o.u).rs.badTop, rows := [12, 15],
    body := fun s =>
      let c := s.unit o.u
      match c.rs.entries with
      | [] => .error (.stop (excOf 0x000C))
      | e :: r => .ok (s.setUnit o.u ((c.setRs { c.rs with entries := r }).setIa e)) }
def execRet (o : OpA) (s : State) : Result := .next (s.insn (insnRet o s))

/-- The addresses of k doublewords from ga on. -/
def spillAddrs (a : Dword) (k : Nat) : List Dword := (List.range k).map fun i => a + BitVec.ofNat 64 (8 * i)

/-- The first condition that an access to one of the entries meets (R71, R84). -/
def State.spillStop (s : State) (u : Nat) (k : AccKind) (l : List Dword) : Option Stop :=
  l.findSome? fun a => match s.translate u a 8 k with
    | .error x => some x
    | .ok _ => none

/-- An 8-byte alignment condition (R62). -/
def State.align8 (s : State) (u : Nat) (va : Dword) (k : AccKind) : Option Stop :=
  if va.toNat % 8 = 0 then none else some (s.alignStop u va 8 k)

/-- The stores of RSSPILL: the oldest entry first. -/
def State.spillTo (s : State) (u : Nat) : List (Dword × Dword) → Except Ends State
  | [] => .ok s
  | (a, v) :: r => match s.storeAt u a (beBytes 8 v.toNat) .store with
    | .error e => .error e
    | .ok s1 => s1.spillTo u r

/-- RSSPILL (R71). -/
def insnRsspill (o : OpA) (s : State) : Insn :=
  { u := o.u, word := wordA 0x32 o.ra o.rb o.rc 3, spec := o.rc != 0, align := s.align8 o.u (s.g o.u o.ra) .store, restricted := true,
    rows := [12, 14],
    body := fun s =>
      let es := (s.unit o.u).rs.entries
      let k := min (s.g o.u o.rb).toNat es.length
      let l := spillAddrs (s.g o.u o.ra) k
      match s.spillStop o.u .store l with
      | some x => .error (.stop x)
      | none => match s.spillTo o.u (l.zip (es.reverse.take k)) with
        | .error e => .error e
        | .ok s1 => .ok ((s1.modUnit o.u fun c => c.setRs { c.rs with entries := es.take (es.length - k) }).setG o.u o.rb (BitVec.ofNat 64 k)) }
def execRsspill (o : OpA) (s : State) : Result := .next (s.insn (insnRsspill o s))

/-- The loads of RSFILL, in storage order. -/
def State.fillFrom (s : State) (u : Nat) : List Dword → Except Ends (State × List Dword)
  | [] => .ok (s, [])
  | a :: r => match s.loadAt u a 8 .load with
    | .error e => .error e
    | .ok (s1, b) => match s1.fillFrom u r with
      | .error e => .error e
      | .ok (s2, l) => .ok (s2, loaded b :: l)

/-- RSFILL (R71): the first doubleword becomes the oldest entry. -/
def insnRsfill (o : OpA) (s : State) : Insn :=
  { u := o.u, word := wordA 0x32 o.ra o.rb o.rc 4, spec := o.rc != 0, align := s.align8 o.u (s.g o.u o.ra) .load, restricted := true,
    rows := [12, 13],
    body := fun s =>
      let es := (s.unit o.u).rs.entries
      let k := min (s.g o.u o.rb).toNat (rsDepth o.u - es.length)
      let l := spillAddrs (s.g o.u o.ra) k
      match s.spillStop o.u .load l with
      | some x => .error (.stop x)
      | none => match s.fillFrom o.u l with
        | .error e => .error e
        | .ok (s1, vs) => .ok ((s1.modUnit o.u fun c => c.setRs { c.rs with entries := es ++ vs.reverse }).setG o.u o.rb (BitVec.ofNat 64 k)) }
def execRsfill (o : OpA) (s : State) : Result := .next (s.insn (insnRsfill o s))

end Sys2Proof.Machine
end

