-- ==== Sys2Proof/Machine/Atomics.lean ====
section
/-! DEFINITION. Atomics and ordering (R143 to R145, R236, R238, R269). -/
namespace Sys2Proof.Machine
open Sys2Proof

/-- An open region's write set gains the sectors of an atomic that stores nothing (R238: it joins both sets). -/
def State.noteWrites (s : State) (u : Nat) (l : List Nat) : State :=
  s.modUnit u fun c => { c with region := c.region.map fun r => { r with writes := addSectors r.writes l } }

/-- The line of a cached operand held exclusive (R236). -/
def State.atomicLine (s : State) (u : Nat) (p : Piece) : State :=
  if isCpu u && (p.mt == .wb || p.mt == .wt) && s.l2On (s.coreOf u) && (s.unit u).region.isNone then s.coreOwn (s.coreOf u) p.pa else s

/-- How an atomic is performed on a piece: under write-combining, and by a core whose caches are disabled, as uncached (R236,
R269). -/
def State.atomicPiece (s : State) (u : Nat) (p : Piece) : Piece :=
  if isCpu u && (p.mt == .wc || !(s.l2On (s.coreOf u))) then { p with mt := .uc } else p

/-- One atomic access of n bytes: `f` gives what is stored, if anything. Write-combining buffers are written first (R222). -/
def State.atomicAt (s : State) (u : Nat) (va : Dword) (n : Nat) (f : List Byte → Option (List Byte)) : Except Ends (State × List Byte) :=
  match s.translate u va n .atomic with
  | .error x => .error (.stop x)
  | .ok qs =>
    if (s.unit u).region.isSome && endsRegion qs then .error (.abort 0x0A 0)
    else
      let ps := qs.map (s.atomicPiece u)
      let r := (s.wcFlush u).readPieces u ps false
      match r.bad with
      | some a => .error (.check r.st a)
      | none =>
        let s1 := ps.foldl (fun t p => t.atomicLine u p) r.st
        match f r.data with
        | some new => .ok (s1.writePieces u ps new, r.data)
        | none => .ok (s1.noteWrites u (ps.flatMap fun p => sectorsOf p.pa p.len), r.data)

/-- An alignment condition of an atomic's operand (R144). -/
def State.alignAtomic (s : State) (o : OpA) (n : Nat) : Option Stop :=
  if (s.g o.u o.rb).toNat % n = 0 then none else some (s.alignStop o.u (s.g o.u o.rb) n .atomic)

/-- CSD (R143). -/
def insnCsd (o : OpA) (s : State) : Insn :=
  { u := o.u, word := wordA 0x60 o.ra o.rb o.rc 0, align := s.alignAtomic o 8, rows := [0, 12],
    body := fun s =>
      let a := beBytes 8 (s.g o.u o.ra).toNat
      match s.atomicAt o.u (s.g o.u o.rb) 8 (fun old => if old = a then some (beBytes 8 (s.g o.u o.rc).toNat) else none) with
      | .error e => .error e
      | .ok (s1, old) => .ok (if old = a then s1.setCc o.u 0 else (s1.setG o.u o.ra (loaded old)).setCc o.u 1) }
def execCsd (o : OpA) (s : State) : Result := .next (s.insn (insnCsd o s))

/-- CSQ (R143): ga and gc even. -/
def insnCsq (o : OpA) (s : State) : Insn :=
  { u := o.u, word := wordA 0x60 o.ra o.rb o.rc 1, spec := isOdd o.ra || isOdd o.rc, align := s.alignAtomic o 16, rows := [0, 12],
    body := fun s =>
      let a := beBytes 8 (s.g o.u o.ra).toNat ++ beBytes 8 (s.g o.u (odd o.ra)).toNat
      let c := beBytes 8 (s.g o.u o.rc).toNat ++ beBytes 8 (s.g o.u (odd o.rc)).toNat
      match s.atomicAt o.u (s.g o.u o.rb) 16 (fun old => if old = a then some c else none) with
      | .error e => .error e
      | .ok (s1, old) =>
        .ok (if old = a then s1.setCc o.u 0
             else ((s1.setG o.u o.ra (loaded (old.take 8))).setG o.u (odd o.ra) (loaded (old.drop 8))).setCc o.u 1) }
def execCsq (o : OpA) (s : State) : Result := .next (s.insn (insnCsq o s))

/-- FAAD (R143): a sum that passes the end of the range wraps. -/
def insnFaad (o : OpA) (s : State) : Insn :=
  { u := o.u, word := wordA 0x60 o.ra o.rb o.rc 2, align := s.alignAtomic o 8, rows := [0, 12],
    body := fun s =>
      match s.atomicAt o.u (s.g o.u o.rb) 8 (fun old => some (beBytes 8 (loaded old + s.g o.u o.rc).toNat)) with
      | .error e => .error e
      | .ok (s1, old) => .ok (s1.setG o.u o.ra (loaded old)) }
def execFaad (o : OpA) (s : State) : Result := .next (s.insn (insnFaad o s))

/-- FAAW (R143): the low 32 bits. -/
def insnFaaw (o : OpA) (s : State) : Insn :=
  { u := o.u, word := wordA 0x60 o.ra o.rb o.rc 3, align := s.alignAtomic o 4, rows := [0, 12],
    body := fun s =>
      match s.atomicAt o.u (s.g o.u o.rb) 4 (fun old => some (beBytes 4 (loaded old + s.g o.u o.rc).toNat)) with
      | .error e => .error e
      | .ok (s1, old) => .ok (s1.setG o.u o.ra (sext 32 (loaded old))) }
def execFaaw (o : OpA) (s : State) : Result := .next (s.insn (insnFaaw o s))

/-- SWPD (R143). -/
def insnSwpd (o : OpA) (s : State) : Insn :=
  { u := o.u, word := wordA 0x60 o.ra o.rb o.rc 4, align := s.alignAtomic o 8, rows := [12],
    body := fun s =>
      match s.atomicAt o.u (s.g o.u o.rb) 8 (fun _ => some (beBytes 8 (s.g o.u o.rc).toNat)) with
      | .error e => .error e
      | .ok (s1, old) => .ok (s1.setG o.u o.ra (loaded old)) }
def execSwpd (o : OpA) (s : State) : Result := .next (s.insn (insnSwpd o s))

/-- FENCE and SYNC: every field reserved; what is left of the ordering in a model of one step at a time is that the
write-combining buffers are written (R145, R222). -/
def formOrder (o : OpA) (fn : Nat) : Insn :=
  { u := o.u, word := wordA 0x61 o.ra o.rb o.rc fn, spec := o.ra != 0 || o.rb != 0 || o.rc != 0, body := fun s => .ok (s.wcFlush o.u) }

/-- FENCE (R145). -/
def insnFence (o : OpA) : Insn := formOrder o 0
def execFence (o : OpA) (s : State) : Result := .next (s.insn (insnFence o))

/-- SYNC (R145). -/
def insnSync (o : OpA) : Insn := formOrder o 1
def execSync (o : OpA) (s : State) : Result := .next (s.insn (insnSync o))

end Sys2Proof.Machine
end

