-- ==== Sys2Proof/Machine/System.lean ====
section
/-! DEFINITION. System instructions: PSW and control registers (R54 to R62, R153, R228), IRUN and HCALL (R65 to R67), SVC,
CPUSIG (R63), IDENT (R90), RDTOD (R511), CHKMODE (R205). -/
namespace Sys2Proof.Machine
open Sys2Proof

/-! ## The PSW (R57 to R62) -/

/-- LPSW (R58, R61, R62). -/
def insnLpsw (o : OpI) (s : State) : Insn :=
  { u := o.u, word := wordI 0x50 o.ra o.rb o.imm, least := 1, spec := o.ra != 0, align := s.align16 o.u (s.ea o) .load, restricted := true,
    rows := [0, 12, 13],
    body := fun s => match s.loadAt o.u (s.ea o) 16 .load with
      | .error e => .error e
      | .ok (s1, b) =>
        let hi := loaded (b.take 8)
        if fget hi 62 2 = 2 ∧ (s.psw o.u).mode ≠ .host then .error (.stop (excOf 0x0002))
        else match Psw.decode hi (loaded (b.drop 8)) with
          | none => .error (.stop (excOf 0x0006))
          | some p => .ok ((s1.wcFlush o.u).loadPsw o.u p) }
def execLpsw (o : OpI) (s : State) : Result := .next (s.insn (insnLpsw o s))

/-- EPSW (R62): IA addresses the next instruction. -/
def insnEpsw (o : OpA) : Insn :=
  { u := o.u, word := wordA 0x51 o.ra o.rb o.rc 0, spec := o.rc != 0 || o.ra == o.rb, rows := [0],
    body := fun s => .ok ((s.setG o.u o.ra (s.psw o.u).high).setG o.u o.rb (s.psw o.u).ia) }
def execEpsw (o : OpA) (s : State) : Result := .next (s.insn (insnEpsw o))

/-- SPM (R62). -/
def insnSpm (o : OpA) (s : State) : Insn :=
  let v := s.g o.u o.ra
  { u := o.u, word := wordA 0x51 o.ra o.rb o.rc 1, spec := o.rb != 0 || o.rc != 0 || fget v 6 58 != 0 || fget v 0 3 != 0,
    rows := [0],
    body := fun s => .ok (s.setPsw o.u { s.psw o.u with cc := BitVec.ofNat 2 (fget (s.g o.u o.ra) 4 2), fom := bit (s.g o.u o.ra) 3 }) }
def execSpm (o : OpA) (s : State) : Result := .next (s.insn (insnSpm o s))

/-! ## Control registers (R54, R55, R153, R228) -/

/-- Reserved control registers; c8 is absent in the small profile (R54, R91). -/
def cReserved (u n : Nat) : Bool :=
  n == 7 || (decide (11 ≤ n) && decide (n ≤ 13)) || n == 15 || (decide (34 ≤ n) && decide (n ≤ 47)) || (n == 8 && !(isCpu u))

/-- The least state of LCTL (`write`) and STCTL (R54, R55): inside an image c32 to c63 are privileged, reserved or not. -/
def State.cLeast (s : State) (u n : Nat) (write : Bool) : Nat :=
  if 32 ≤ n ∧ (s.unit u).inImage = true then 2
  else if cReserved u n || n == 8 || (n == 9 && !write) then 0 else if n < 32 then 1 else 2

/-- The bits that a control register's map does not mark reserved (its table; c16 to c31 and c48 to c63 have none). -/
def cMask (n : Nat) : Nat :=
  if n = 0 then 0xF8
  else if n = 1 then (2 ^ 36 - 1) * 2 ^ 14
  else if n = 2 then 2 ^ 63 + (2 ^ 38 - 1) * 2 ^ 12
  else if n = 3 then (2 ^ 37 - 1) * 2 ^ 13
  else if n = 6 then 0xFF
  else if n = 8 then 0x471F1F
  else if n = 9 then 2 ^ 63 + 0x3F
  else if n = 10 then 2 ^ 64 - 2
  else if n = 14 then 0xC0
  else if n = 32 then 0x80
  else 2 ^ 64 - 1

/-- An LCTL that R55 or R153 refuses: a reserved bit is nonzero, or c8.RMODE is 5 to 7; an LCTL of c33 has no effect. -/
def badC (n : Nat) (v : Dword) : Bool :=
  (v &&& ~~~ (BitVec.ofNat 64 (cMask n))) != 0 || (n == 8 && decide (5 ≤ fget v 16 3))

/-- LCTL of c2 that changes KEYEN or KTO drops the context's entries (R228). -/
def State.loadC (s : State) (u n : Nat) (v : Dword) : State :=
  if n = 33 then s
  else if n = 2 ∧ v ≠ (s.unit u).getC 2 then
    (s.writeC u n v).modUnit u fun c => c.tlbDrop fun e => e.ctx == c.context
  else s.writeC u n v

/-- LCTL (R55). -/
def insnLctl (o : OpI) (s : State) : Insn :=
  let n := o.imm.toNat % 64
  { u := o.u, word := wordI 0x52 o.ra o.rb o.imm, least := s.cLeast o.u n true,
    spec := o.rb != 0 || decide (64 ≤ o.imm.toNat) || cReserved o.u n || badC n (s.g o.u o.ra), restricted := true, rows := [0],
    body := fun s => .ok ((s.wcFlush o.u).loadC o.u n (s.g o.u o.ra)) }
def execLctl (o : OpI) (s : State) : Result := .next (s.insn (insnLctl o s))

/-- STCTL (R55); of c4 it is tagged (R191). -/
def insnStctl (o : OpI) (s : State) : Insn :=
  let n := o.imm.toNat % 64
  { u := o.u, word := wordI 0x53 o.ra o.rb o.imm, least := s.cLeast o.u n false,
    spec := o.rb != 0 || decide (64 ≤ o.imm.toNat) || cReserved o.u n, rows := [0],
    body := fun s =>
      let s1 := if n = 4 then s.tagged o.u else s
      .ok (s1.setG o.u o.ra (s.readC o.u n)) }
def execStctl (o : OpI) (s : State) : Result := .next (s.insn (insnStctl o s))

/-! ## Identification, time and mode -/

/-- SLOTS of IDENT: the populated coprocessor slots (R5, R90); a slot whose engines are all out of service shows 0 (R426). -/
def State.slotBits (s : State) : Nat :=
  (if (s.accLeft false).isEmpty then 0 else 1) + (if (s.accLeft true).isEmpty then 0 else 0xE) +
    (match s.fuses.custom with | some m => m.toNat * 256 | none => 0)

/-- The value IDENT writes (R90). -/
def State.identity (s : State) (u : Nat) : Dword :=
  if isCpu u then
    let unit := match (s.unit u).irun with
      | some r => r.addr
      | none => u
    BitVec.ofNat 64 (4 <<< 56 + 1 <<< 48 + 32 <<< 40 + s.slotBits <<< 24 + unit)
  else
    let unit := smallDie u * 256 + (if u < 288 then (u - 192) % 48 else u - 288)
    BitVec.ofNat 64 (4 <<< 56 + 2 <<< 48 + 8 <<< 40 + unit)

/-- IDENT (R90). -/
def insnIdent (o : OpA) : Insn :=
  { u := o.u, word := wordA 0x51 o.ra o.rb o.rc 2, spec := o.rb != 0 || o.rc != 0, body := fun s => .ok (s.setG o.u o.ra (s.identity o.u)) }
def execIdent (o : OpA) (s : State) : Result := .next (s.insn (insnIdent o))

/-- The local time-of-day copy of a unit: within 64 units of Thyme's value (R511; the offset is open, log entry 5). -/
def State.localTod (s : State) (u : Nat) : Dword := s.tod + (Config.todSkew u).signExtend 64

/-- RDTOD (R511), tagged (R191). -/
def insnRdtod (o : OpA) : Insn :=
  { u := o.u, word := wordA 0x51 o.ra o.rb o.rc 5, spec := o.rb != 0 || o.rc != 0,
    body := fun s => .ok ((s.tagged o.u).setG o.u o.ra (s.localTod o.u)) }
def execRdtod (o : OpA) (s : State) : Result := .next (s.insn (insnRdtod o))

/-- CHKMODE (R205). -/
def insnChkmode (o : OpA) (s : State) : Insn :=
  { u := o.u, word := wordA 0x51 o.ra o.rb o.rc 4, least := 2, spec := o.rb != 0 || o.rc != 0 || fget (s.g o.u o.ra) 1 63 != 0,
    handover := (s.unit o.u).region.isSome,
    body := fun s =>
      let want := bit (s.g o.u o.ra) 0
      let s1 := s.wcFlush o.u
      if (s.unit o.u).checked = want then .ok (s1.setCc o.u 1)
      else .ok ((s1.modUnit o.u fun c => c.setC 33 (setBit (c.getC 33) 0 want)).setCc o.u 0) }
def execChkmode (o : OpA) (s : State) : Result := .next (s.insn (insnChkmode o s))

/-! ## Supervisor and host calls (R62, R67) -/

/-- SVC (R62). -/
def insnSvc (o : OpT) : Insn :=
  { u := o.u, word := wordI 0x54 o.ra 0 o.imm, spec := o.ra != 0, restricted := true, body := fun _ => .error (.svc o.imm.toNat) }
def execSvc (o : OpT) (s : State) : Result := .next (s.insn (insnSvc o))

/-- HCALL (R62, R67): outside an image it is no instruction (R97, R98). -/
def insnHcall (o : OpT) (s : State) : Insn :=
  { u := o.u, word := wordI 0x54 o.ra 1 o.imm, lacks := !(isCpu o.u) || !(s.unit o.u).inImage, least := 1, spec := o.ra != 0, restricted := true,
    body := fun _ => .error (.hcall o.imm.toNat) }
def execHcall (o : OpT) (s : State) : Result := .next (s.insn (insnHcall o s))

/-! ## CPUSIG (R63, R34, R115) -/

/-- The logical CPU that ga[15:0] names, and the sender as the target's level knows it; none where the number is at or above
the image's CPU count. -/
def State.sigTarget (s : State) (u a : Nat) : Option (Nat × Nat × Option Nat) :=
  match (s.unit u).irun with
  | none => some (a, u, none)
  | some r => match s.image r.image with
    | some e => (e.cpus[a]?).map fun n => (n, r.addr, some r.image)
    | none => none

/-- An order sent: CC 3 with no other effect in the small profile (R115). -/
def State.signal (s : State) (u : Nat) (order : SigOrder) (ga : Dword) : State :=
  if !(isCpu u) then s.setCc u 3
  else match s.sigTarget u (ga.toNat % 65536) with
    | none => s.setCc u 3
    | some (n, me, img) =>
      let x := s.cpusig n ⟨order, me, img⟩
      x.1.setCc u x.2

def formSig (o : OpSig) (code least : Nat) (order : SigOrder) : Insn :=
  { u := o.u, word := wordI 0x54 o.ra 2 (BitVec.ofNat 14 (o.res.toNat * 256 + code)), least := least, spec := o.res != 0, restricted := true,
    body := fun s => .ok (s.signal o.u order (s.g o.u o.ra)) }

/-- CPUSIG order 0x01 (R63). -/
def insnCpusigExternalCall (o : OpSig) : Insn := formSig o 0x01 1 .extCall
def execCpusigExternalCall (o : OpSig) (s : State) : Result := .next (s.insn (insnCpusigExternalCall o))

/-- CPUSIG order 0x02 (R63). -/
def insnCpusigEmergencySignal (o : OpSig) : Insn := formSig o 0x02 1 .emergency
def execCpusigEmergencySignal (o : OpSig) (s : State) : Result := .next (s.insn (insnCpusigEmergencySignal o))

/-- CPUSIG order 0x10 (R63, R222). -/
def insnCpusigStop (o : OpSig) : Insn := formSig o 0x10 2 .stop
def execCpusigStop (o : OpSig) (s : State) : Result := .next (s.insn (insnCpusigStop o))

/-- CPUSIG order 0x11 (R63, R87). -/
def insnCpusigRestart (o : OpSig) : Insn := formSig o 0x11 2 .restart
def execCpusigRestart (o : OpSig) (s : State) : Result := .next (s.insn (insnCpusigRestart o))

/-- CPUSIG order 0x12 (R63, R92). -/
def insnCpusigCoreReset (o : OpSig) : Insn := formSig o 0x12 2 .coreReset
def execCpusigCoreReset (o : OpSig) (s : State) : Result := .next (s.insn (insnCpusigCoreReset o))

/-! ## IRUN (R65 to R67) -/

/-- A descriptor's bytes as a number. -/
def descNat (d : List Byte) (off n : Nat) : Nat := beNat ((d.drop off).take n)

/-- Some byte of a range of the descriptor is not 0. -/
def descNonzero (d : List Byte) (off n : Nat) : Bool := ((d.drop off).take n).any fun b => b != 0

/-- A reserved field of the descriptor is nonzero (R65). -/
def descReserved (d : List Byte) : Bool :=
  descNonzero d 0x11 1 || descNonzero d 0x16 2 || descNonzero d 0x1A 6 || descNonzero d 0x28 216 ||
  decide (descNat d 0x301 1 % 128 ≠ 0) || descNonzero d 0x302 254

/-- The image bank and return stack of a descriptor; reserved bits of the registers read as 0, and c4 runs from now on (R56). -/
def Cpu.loadImage (c : Cpu) (d : List Byte) (elapsed : Nat) : Cpu :=
  let one (c : Cpu) (n : Nat) : Cpu :=
    let v := BitVec.ofNat 64 (descNat d (0x100 + 8 * n) 8) &&& BitVec.ofNat 64 (cMask n)
    if cReserved 0 n || n == 9 then c
    else if n = 4 then c.setC 4 (v + BitVec.ofNat 64 elapsed)
    else c.setC n v
  let c1 := (List.range 32).foldl one { c with imgC := [] }
  c1.setRs { entries := (List.range (descNat d 0x300 1)).map fun i => BitVec.ofNat 64 (descNat d (0x200 + 8 * i) 8),
             disc := decide (128 ≤ descNat d 0x301 1) }

/-- IRUN begins with a descriptor read at an absolute address, or sets the CC that R66 gives. -/
def State.irunEnter (s : State) (u abs : Nat) (d : List Byte) : State :=
  let img := descNat d 0x10 1
  let addr := descNat d 0x12 2
  match (if img ≤ 95 then s.image img else none) with
  | none => s.setCc u 3
  | some e =>
    if e.st ≠ .operating ∨ BitVec.ofNat 16 (descNat d 0x14 2) ≠ e.gen ∨ e.cpus[addr]? ≠ some u then s.setCc u 2
    else match Psw.ofBytes d with
      | none => s.setCc u 1
      | some g =>
        if descReserved d = true ∨ 32 < descNat d 0x300 1 ∨ g.mode = .host then s.setCc u 1
        else
          let s2 := s.modUnit u fun c =>
            ({ c with irun := some ⟨abs, img, e.gen, addr, c.psw⟩, imgReset := none } : Cpu).loadImage d s.elapsed
          s2.loadPsw u g

/-- IRUN (R62, R66): the descriptor is checked for store access before any other step; it performs the older stores whatever
CC it sets (R222, R233). -/
def insnIrun (o : OpA) (s : State) : Insn :=
  { u := o.u, word := wordA 0x51 o.ra o.rb o.rc 3, lacks := !(isCpu o.u), least := 2,
    spec := o.rb != 0 || o.rc != 0 || fget (s.g o.u o.ra) 0 10 != 0, restricted := true, rows := [12],
    body := fun s => match s.translate o.u (s.g o.u o.ra) 1024 .store with
      | .error x => .error (.stop x)
      | .ok ps =>
        let r := s.readPieces o.u ps false
        match r.bad with
        | some a => .error (.check r.st a)
        | none => match ps with
          | p :: _ => .ok ((r.st.wcFlush o.u).irunEnter o.u p.abs r.data)
          | [] => .ok r.st }
def execIrun (o : OpA) (s : State) : Result := .next (s.insn (insnIrun o s))

/-- IRUN ends under one of the conditions of R67 that the boundary finds. -/
def execIrunExit (n : CpuNo) (s : State) : Result :=
  .next (match s.boundary n.val with
    | .exit _ _ => s.settle n.val 64
    | _ => s)

end Sys2Proof.Machine
end

