-- ==== Sys2Proof/Machine/Transaction.lean ====
section
/-! DEFINITION. Transactional regions (R237 to R243). -/
namespace Sys2Proof.Machine
open Sys2Proof

/-- TBEGIN aborts with no region open (R237, R240): there is no checkpoint to restore. `ia` is its own address. -/
def State.abortBegin (s : State) (u code : Nat) (ia target : Dword) : State :=
  s.modUnit u fun c =>
    (((c.setC 10 (fset (c.getC 10) 2 62 (ia.toNat / 4))).setG 0 (BitVec.ofNat 64 code)).setCc (abortCc code)).setIa target

/-- The unit's caches are disabled (R269); a small unit has none. -/
def State.noCaches (s : State) (u : Nat) : Bool := !(isCpu u) || !(s.l2On (s.coreOf u))

/-- A region with its checkpoint (R237). -/
def Cpu.newRegion (c : Cpu) (target : Dword) : Region :=
  { target := target, ckG := c.g, ckF := c.f, ckC8 := c.getC 8, ckPsw := c.psw, ckRs := c.rs, reads := [], writes := [], stores := [],
    through := [], count := 0 }

/-- A region opens (R237). -/
def State.openRegion (s : State) (u : Nat) (target : Dword) : State :=
  (s.modUnit u fun c => { c with region := some (c.newRegion target) }).setCc u 0

/-- TBEGIN (R237). -/
def insnTbegin (o : OpB) : Insn :=
  { u := o.u, word := wordB 0x62 o.cond o.disp, spec := o.cond != 0, rows := [12],
    body := fun s =>
      let target := s.target o.u (o.disp.signExtend 64)
      let ia := (s.psw o.u).ia - 4
      if (s.unit o.u).region.isSome then .error (.abort 0x08 0)
      else if bit ((s.unit o.u).getC 10) 1 = false then .ok (s.abortBegin o.u 0x0B ia target)
      else if s.noCaches o.u then .ok (s.abortBegin o.u 0x03 ia target)
      else .ok ((s.wcFlush o.u).openRegion o.u target) }
def execTbegin (o : OpB) (s : State) : Result := .next (s.insn (insnTbegin o))

/-- The region ends and its stores become visible (R238). -/
def State.commit (s : State) (u : Nat) (r : Region) : State :=
  (((s.commitStores u r).modUnit u fun c => { c with region := none }).setCc u 0).wcFlush u

/-- TEND (R238, R243): every operand field is reserved. -/
def insnTend (o : OpEnd) : Insn :=
  { u := o.u, word := BitVec.ofNat 32 (0x63 * 2 ^ 24 + o.res.toNat), spec := o.res != 0,
    body := fun s => match (s.unit o.u).region with
      | none => .ok (s.setCc o.u 2)
      | some r => .ok (s.commit o.u r) }
def execTend (o : OpEnd) (s : State) : Result := .next (s.insn (insnTend o))

/-- TABORT (R240, R243). -/
def insnTabort (o : OpI) : Insn :=
  { u := o.u, word := wordI 0x64 o.ra o.rb o.imm, spec := o.ra != 0 || o.rb != 0,
    body := fun s => if (s.unit o.u).region.isSome then .error (.abort 0x01 o.imm) else .ok (s.setCc o.u 2) }
def execTabort (o : OpI) (s : State) : Result := .next (s.insn (insnTabort o))

/-- Another agent's request for an address meets the region of a CPU (R238). -/
def execTransactionConflict (n : CpuNo) (a : Pa) (write : Bool) (s : State) : Result :=
  .next (match (s.unit n.val).region with
    | some r => if r.conflicts (a.toNat / 64) write then s.abortRegion n.val 0x02 else s
    | none => s)

end Sys2Proof.Machine
end

