-- ==== Sys2Proof/Machine/Maintain.lean ====
section
/-! DEFINITION. Translation and cache maintenance instructions (R224 to R229, R264 to R271) and the broadcast invalidation as a
CPU receives it. -/
namespace Sys2Proof.Machine
open Sys2Proof

/-! ## Invalidation (R226, R227) -/

/-- A broadcast reaches every logical CPU, one that is moving takes no entries along (R34), and both channel dies (R226). -/
def State.tlbBroadcast (s : State) (i : TlbInv) : State :=
  ((s.units.map (·.1)).filter isCpu).foldl (fun t n => t.modUnit n fun c => c.invalidate i)
    { s with chanTlb := s.chanTlb.filter fun e => !(tlbInvHits i e) }

/-- TLBIV (R226): no effect in the small profile (R115). -/
def insnTlbiv (o : OpA) : Insn :=
  { u := o.u, word := wordA 0x55 o.ra o.rb o.rc 0, least := 1, spec := o.ra != 0 || o.rc != 0, restricted := true,
    body := fun s => .ok (if isCpu o.u then (s.wcFlush o.u).tlbBroadcast (.page (s.unit o.u).context (s.g o.u o.rb)) else s) }
def execTlbiv (o : OpA) (s : State) : Result := .next (s.insn (insnTlbiv o))

/-- TLBIA (R226): no effect in the small profile (R115). -/
def insnTlbia (o : OpA) : Insn :=
  { u := o.u, word := wordA 0x55 o.ra o.rb o.rc 1, least := 1, spec := o.ra != 0 || o.rb != 0 || o.rc != 0, restricted := true,
    body := fun s => .ok (if isCpu o.u then (s.wcFlush o.u).tlbBroadcast (.context (s.unit o.u).context) else s) }
def execTlbia (o : OpA) (s : State) : Result := .next (s.insn (insnTlbia o))

/-- TLBII (R226): 0x0006 for an image number above 95. -/
def insnTlbii (o : OpA) (s : State) : Insn :=
  { u := o.u, word := wordA 0x55 o.ra o.rb o.rc 2, least := 2, spec := o.rb != 0 || o.rc != 0 || decide (95 < (s.g o.u o.ra).toNat),
    restricted := true,
    body := fun s => .ok ((s.wcFlush o.u).tlbBroadcast (.image (Fin.ofNat 96 (s.g o.u o.ra).toNat))) }
def execTlbii (o : OpA) (s : State) : Result := .next (s.insn (insnTlbii o s))

/-- A broadcast reaches one CPU (R226, R34). -/
def execTlbInvalidationReceived (n : CpuNo) (inv : TlbInv) (s : State) : Result :=
  .next (if s.cmapState n.val = 1 then s.modUnit n.val fun c => c.invalidate inv else s)

/-! ## LRA (R229) -/

/-- A table fetch by the absolute address of a unit; a small unit's lie in its working store, and name their cells (log entry 19). A
bank that refuses the unit, or is in a copy, ends the walk at its cell (R436, R442). -/
def State.lraFetch (s : State) (u a : Nat) : Fetch Dword :=
  if isCpu u then s.fetchTable u a
  else if wsSize u < a + 8 then .none []
  else
    let cell := wsCell (smallDie u) a
    if s.bankOwner cell = ownerCode u ∧ s.cellStalled cell = false then .ok (BitVec.ofNat 64 (beNat (s.wsBytes cell 8))) [cell] else .exit cell []

/-- CC and ga of LRA, with the fetches made, or the host-level failure that ends IRUN. -/
def State.lra (s : State) (u : Nat) (va : Nat) : Except Stop (BitVec 2 × Nat × List Nat) :=
  if nonCanonical va then .ok (1, 0, [])
  else match walk ((s.unit u).walkHit false va) (s.lraFetch u) va levels (r1to ((s.unit u).getC 1)) [] [] with
    | .leaf base sz _ _ _ _ pas _ => .ok (0, base + va % 2 ^ sz, pas)
    | .bad a page pas => .ok (if page then 2 else 1, a, pas)
    | .none a pas => .ok (3, a, pas)
    | .exit q pas => .error (if isCpu u then .exit q true pas else if s.cellStalled q then .stall else .deny q (BitVec.ofNat 64 (q % 0x4000000)))

/-- Table entries of a small unit fetched from its working store (R434), with the address of the first that is uncorrectable. -/
def State.wsFetches (s : State) (u : Nat) (l : List Nat) : State × Option Nat :=
  l.foldl (fun r c =>
    let x := r.1.wsErrors c 8 (ownerCode u)
    (x.1, r.2.or (if x.2 then some (c % 0x4000000) else none))) (s, none)

/-- Fetches made as reads of the unit (R213), or the first that meets uncorrected data. -/
def State.fetches (s : State) (u : Nat) (l : List Nat) : Except Ends State :=
  let r := if isCpu u then (s.fetchedBy u l, l.find? (s.fetchedBy u l).poisoned) else s.wsFetches u l
  match r.2 with
  | some a => .error (.check r.1 a)
  | none => .ok r.1

/-- LRA (R229). -/
def insnLra (o : OpA) : Insn :=
  { u := o.u, word := wordA 0x55 o.ra o.rb o.rc 3, least := 1, spec := o.rc != 0, restricted := true, rows := [12],
    body := fun s => match s.lra o.u (s.g o.u o.rb).toNat with
      | .error x => .error (.stop x)
      | .ok (cc, v, pas) => match s.fetches o.u pas with
        | .error e => .error e
        | .ok s1 => .ok ((s1.setG o.u o.ra (BitVec.ofNat 64 v)).setCc o.u cc) }
def execLra (o : OpA) (s : State) : Result := .next (s.insn (insnLra o))

/-! ## Cache maintenance (R264 to R267) -/

/-- CZERO on a line by unit u under a memory type (R264, R266, R222): ordered as a store, it overtakes the unit's older write-combining
bytes of the line (R223, R230). -/
def State.czero (s : State) (u line : Nat) (mt : Mt) : State :=
  let s0 := if mt = .uc ∨ mt = .wc then s.wcFlush u else s.wcSupersede u (256 * line) 256
  let s1 := s0.lineConflict line
  if (mt = .wb ∨ mt = .wt) ∧ s1.l2On (s1.coreOf u) = true then s1.czeroCached (s1.coreOf u) line (mt = .wt)
  else s1.czeroHome line

/-- The operand of a maintenance instruction checked as a storage operand (R265), and the action on its piece. -/
def State.maintain (s : State) (u : Nat) (va : Dword) (k : AccKind) (act : State → Piece → State) : Except Ends State :=
  match s.translate u va 1 k with
  | .error x => .error (.stop x)
  | .ok ps => match ps with
    | p :: _ => match s.walkPoison u p with
      | some x => .error (.check x.1 x.2)
      | none => .ok (act (s.walked u p) p)
    | [] => .ok s

/-- The form of CINV, CCLEAN and CCLINV: no effect in the small profile (R115). -/
def formMaintain (o : OpA) (fn least : Nat) (k : AccKind) (act : State → Nat → State) : Insn :=
  { u := o.u, word := wordA 0x55 o.ra o.rb o.rc fn, least := least, spec := o.ra != 0 || o.rc != 0, restricted := true, rows := [12],
    body := fun s => if isCpu o.u then s.maintain o.u (s.g o.u o.rb) k fun t p => act t (p.pa / 256) else .ok s }

/-- CINV (R264, R267). -/
def insnCinv (o : OpA) : Insn := formMaintain o 0x10 1 .store fun t l => (t.lineConflict l).cinv l
def execCinv (o : OpA) (s : State) : Result := .next (s.insn (insnCinv o))

/-- CCLEAN (R264, R267). -/
def insnCclean (o : OpA) : Insn := formMaintain o 0x11 0 .load State.cleanLine
def execCclean (o : OpA) (s : State) : Result := .next (s.insn (insnCclean o))

/-- CCLINV (R264, R267). -/
def insnCclinv (o : OpA) : Insn := formMaintain o 0x12 0 .load fun t l => (t.lineConflict l).cclinv l
def execCclinv (o : OpA) (s : State) : Result := .next (s.insn (insnCclinv o))

/-- CZERO (R264, R266): a small unit writes 256 zero bytes of its working store. -/
def insnCzero (o : OpA) : Insn :=
  { u := o.u, word := wordA 0x55 o.ra o.rb o.rc 0x13, spec := o.ra != 0 || o.rc != 0, restricted := true, rows := [12],
    body := fun s => s.maintain o.u (s.g o.u o.rb) .store fun t p =>
      if isCpu o.u then t.czero o.u (p.pa / 256) p.mt
      else (t.wsPut (p.pa / 256 * 256) (List.replicate 256 0)).wsClean (p.pa / 256 * 256) 256 }
def execCzero (o : OpA) (s : State) : Result := .next (s.insn (insnCzero o))

/-! ## Disabling and enabling caches (R268 to R271) -/

/-- The form of L2DIS, L2EN, L3DIS and L3EN: host state, no operand; serializing (R233). -/
def formCacheCtl (o : OpA) (fn : Nat) (act : State → State × BitVec 2) : Insn :=
  { u := o.u, word := wordA 0x55 o.ra o.rb o.rc fn, least := 2, spec := o.ra != 0 || o.rb != 0 || o.rc != 0, restricted := true,
    body := fun s => let r := act (s.wcFlush o.u)
      .ok (r.1.setCc o.u r.2) }

/-- L2DIS (R268): it completes when the sweep has ended. -/
def insnL2dis (o : OpA) : Insn := formCacheCtl o 0x20 fun s =>
  let k := s.coreOf o.u
  if s.l2On k then ((s.l2Disable k).l2SweepEnd k, 0) else (s, 1)
def execL2dis (o : OpA) (s : State) : Result := .next (s.insn (insnL2dis o))

/-- L2EN (R270). -/
def insnL2en (o : OpA) : Insn := formCacheCtl o 0x21 fun s =>
  let k := s.coreOf o.u
  if s.l2On k then (s, 1) else (s.l2Enable k, if (s.l2Enable k).l2On k then 0 else 2)
def execL2en (o : OpA) (s : State) : Result := .next (s.insn (insnL2en o))

/-- L3DIS (R271). -/
def insnL3dis (o : OpA) : Insn := formCacheCtl o 0x22 fun s =>
  let d := s.coreOf o.u / 26
  if s.l3On d then ((s.l3Disable d).l3SweepEnd d, 0) else (s, 1)
def execL3dis (o : OpA) (s : State) : Result := .next (s.insn (insnL3dis o))

/-- L3EN (R271). -/
def insnL3en (o : OpA) : Insn := formCacheCtl o 0x23 fun s =>
  let d := s.coreOf o.u / 26
  if s.l3On d then (s, 1) else (s.l3Enable d, if (s.l3Enable d).l3On d then 0 else 2)
def execL3en (o : OpA) (s : State) : Result := .next (s.insn (insnL3en o))

end Sys2Proof.Machine
end

