-- ==== Sys2Proof/Machine/Io.lean ====
section
/-! DEFINITION. I/O instructions (R309, R310, R322 to R326) and the CSSET group (R315 to R320, R347 to R349, R421). -/
namespace Sys2Proof.Machine
open Sys2Proof

/-! ## I/O instructions -/

/-- A misaligned gb (R322); outside an image no access exception can arise (R310). -/
def State.alignIo (s : State) (o : OpA) (n : Nat) (k : AccKind) : Option Stop :=
  let a := s.g o.u o.rb
  if n = 0 ∨ a.toNat % n = 0 then none
  else if (s.unit o.u).inImage then some (s.alignStop o.u a n k) else some (excOf 0x0006)

/-- The form of an I/O instruction: CC 3 in the small profile and outside an image (R115, R310); inside one `run` has the
image number. -/
def formIo (o : OpA) (fn n : Nat) (k : AccKind) (run : Nat → Body) (s : State) : Insn :=
  { u := o.u, word := wordA 0x56 o.ra o.rb o.rc fn, least := 1, spec := o.rc != 0 || fget (s.g o.u o.ra) 18 46 != 0,
    align := s.alignIo o n k, restricted := true, rows := if n = 0 then [] else [12],
    body := fun s => match (s.unit o.u).irun with
      | none => .ok (s.setCc o.u 3)
      | some r => run r.image s }

/-- The subchannel that ga names for an image (R309). -/
def State.subOf (s : State) (img : Nat) (ga : Dword) : Option Nat :=
  match s.image img with
  | none => none
  | some e => if e.sets ≤ fget ga 16 2 then none else s.findSub img (fget ga 16 2) (fget ga 0 16)

/-- An operation on the subchannel ga names sets the CC, or CC 3. -/
def State.onSub (s : State) (o : OpA) (img : Nat) (f : State → Nat → State × BitVec 2) : State :=
  match s.subOf img (s.g o.u o.ra) with
  | none => s.setCc o.u 3
  | some p => let r := f s p
    r.1.setCc o.u r.2

/-- IOSTART (R322 to R324, R244). -/
def insnIostart (o : OpA) (s : State) : Insn :=
  formIo o 0 32 .load (fun img s => match s.loadAt o.u (s.g o.u o.rb) 32 .load with
    | .error e => .error e
    | .ok (s1, b) => match parseOrb b with
      | none => .error (.stop (excOf 0x0006))
      | some orb => .ok ((s1.wcFlush o.u).onSub o img fun t p => t.ioStart img p orb)) s
def execIostart (o : OpA) (s : State) : Result := .next (s.insn (insnIostart o s))

/-- IOHALT (R322, R244). -/
def insnIohalt (o : OpA) (s : State) : Insn :=
  formIo o 1 0 .load (fun img s => .ok ((s.wcFlush o.u).onSub o img State.ioHalt)) s
def execIohalt (o : OpA) (s : State) : Result := .next (s.insn (insnIohalt o s))

/-- IOCLEAR (R322, R244). -/
def insnIoclear (o : OpA) (s : State) : Insn :=
  formIo o 2 0 .load (fun img s => .ok ((s.wcFlush o.u).onSub o img State.ioClear)) s
def execIoclear (o : OpA) (s : State) : Result := .next (s.insn (insnIoclear o s))

/-- An operand of n bytes that will be stored is checked before anything changes. -/
def State.checkStore (s : State) (u : Nat) (va : Dword) (n : Nat) : Option Stop :=
  match s.translate u va n .store with
  | .error x => some x
  | .ok _ => none

/-- IOTEST (R322, R325). -/
def insnIotest (o : OpA) (s : State) : Insn :=
  formIo o 3 16 .store (fun img s => match s.checkStore o.u (s.g o.u o.rb) 32 with
    | some x => .error (.stop x)
    | none => match s.subOf img (s.g o.u o.ra) with
      | none => .ok (s.setCc o.u 3)
      | some p =>
        let r := s.ioTest p
        if r.2.2 = 3 then .ok (r.1.setCc o.u 3)
        else match r.1.storeAt o.u (s.g o.u o.rb) r.2.1 .store with
          | .error e => .error e
          | .ok s1 => .ok (s1.setCc o.u r.2.2)) s
def execIotest (o : OpA) (s : State) : Result := .next (s.insn (insnIotest o s))

/-- IOSTORE (R322, R326). -/
def insnIostore (o : OpA) (s : State) : Insn :=
  formIo o 4 16 .store (fun img s => match s.checkStore o.u (s.g o.u o.rb) 48 with
    | some x => .error (.stop x)
    | none => match s.subOf img (s.g o.u o.ra) with
      | none => .ok (s.setCc o.u 3)
      | some p =>
        let s1 := s.readEntry p
        if !(s1.sub p).mapped || !(s1.operable p) then .ok (s1.setCc o.u 3)
        else match s1.storeAt o.u (s.g o.u o.rb) (s1.sib p) .store with
          | .error e => .error e
          | .ok s2 => .ok (s2.setCc o.u 0)) s
def execIostore (o : OpA) (s : State) : Result := .next (s.insn (insnIostore o s))

/-- The reserved field of the SIB that IOMODIFY checks is nonzero (R326). -/
def sibBad (b : List Byte) : Bool := decide (blkNat b 14 2 ≠ 0)

/-- IOMODIFY (R322, R326, R244). -/
def insnIomodify (o : OpA) (s : State) : Insn :=
  formIo o 5 16 .load (fun img s => match s.loadAt o.u (s.g o.u o.rb) 48 .load with
    | .error e => .error e
    | .ok (s1, b) =>
      if sibBad b then .error (.stop (excOf 0x0006))
      else .ok ((s1.wcFlush o.u).onSub o img fun t p => t.ioModify p b)) s
def execIomodify (o : OpA) (s : State) : Result := .next (s.insn (insnIomodify o s))

/-! ## CSSET (R315) -/

/-- The state in which a CSSET instruction ends, with its CC and ga. -/
def csDone (o : OpA) : CsOut → State
  | .done t => t.setCc o.u 0
  | .refused t r => (t.setG o.u o.ra (BitVec.ofNat 64 r)).setCc o.u 2
  | .remain t n => (t.setG o.u o.ra (BitVec.ofNat 64 n)).setCc o.u 1

/-- The image number in ga, where it is one. -/
def State.csTarget (s : State) (o : OpA) : Option Nat := if (s.g o.u o.ra).toNat ≤ 95 then some (s.g o.u o.ra).toNat else none

/-- A CSSET instruction with a parameter block of n bytes, aligned on 16 (R315). -/
def formCsBlock (o : OpA) (fn n : Nat) (run : State → List Byte → State) (s : State) : Insn :=
  { u := o.u, word := wordA 0x57 o.ra o.rb o.rc fn, least := 2, spec := o.rc != 0, align := s.align16 o.u (s.g o.u o.rb) .load,
    restricted := true, rows := [12],
    body := fun s => match s.loadAt o.u (s.g o.u o.rb) n .load with
      | .error e => .error e
      | .ok (s1, b) => .ok (run s1 b) }

/-- The wrapping keys follow the key slot of an image (R349, R421). -/
def State.rekey (t : State) (img : Nat) (old : Option Nat) : State :=
  let new := (t.image img).bind (·.keySlot)
  if new = old then t
  else
    let t1 := match old with
      | some k => t.dropKey k
      | none => t
    match new with
    | some k => if t1.vaultDead then t1 else t1.newKey k
    | none => t1

/-- CSIMAGE on a block (R315 to R317, R349, R421). -/
def State.csImageRun (s : State) (o : OpA) (b : List Byte) : State :=
  match s.csTarget o with
  | none => s.setCc o.u 3
  | some img =>
    if s.image img = none ∧ blkNat b 0 1 ≠ 1 then s.setCc o.u 3
    else match s.csImage img b with
      | .done t => csDone o (.done (t.rekey img ((s.image img).bind (·.keySlot))))
      | r => csDone o r

/-- CSIMAGE, function 0x01 of its block (R316); the block's function byte decides. -/
def insnCsimageCreate (o : OpA) (s : State) : Insn := formCsBlock o 0 64 (fun t b => t.csImageRun o b) s
def execCsimageCreate (o : OpA) (s : State) : Result := .next (s.insn (insnCsimageCreate o s))

/-- CSIMAGE, function 0x02 of its block (R316, R317). -/
def insnCsimageModify (o : OpA) (s : State) : Insn := formCsBlock o 0 64 (fun t b => t.csImageRun o b) s
def execCsimageModify (o : OpA) (s : State) : Result := .next (s.insn (insnCsimageModify o s))

/-- CSIMAGE, function 0x03 of its block (R317, R349). -/
def insnCsimageRemove (o : OpA) (s : State) : Insn := formCsBlock o 0 64 (fun t b => t.csImageRun o b) s
def execCsimageRemove (o : OpA) (s : State) : Result := .next (s.insn (insnCsimageRemove o s))

/-- A CSSET instruction on a defined image, or CC 3. -/
def State.onImage (s : State) (o : OpA) (f : State → Nat → Image → CsOut) : State :=
  match s.csTarget o with
  | none => s.setCc o.u 3
  | some img => match s.image img with
    | none => s.setCc o.u 3
    | some e => csDone o (f s img e)

/-- CSMAP, function 0x01 of its block (R318); the block's function byte decides. -/
def insnCsmapMap (o : OpA) (s : State) : Insn := formCsBlock o 1 64 (fun t b => t.onImage o fun t i e => t.csMap i e b) s
def execCsmapMap (o : OpA) (s : State) : Result := .next (s.insn (insnCsmapMap o s))

/-- CSMAP, function 0x02 of its block (R318). -/
def insnCsmapUnmap (o : OpA) (s : State) : Insn := formCsBlock o 1 64 (fun t b => t.onImage o fun t i e => t.csMap i e b) s
def execCsmapUnmap (o : OpA) (s : State) : Result := .next (s.insn (insnCsmapUnmap o s))

/-- CSMAP, function 0x03 of its block (R318). -/
def insnCsmapReplace (o : OpA) (s : State) : Insn := formCsBlock o 1 64 (fun t b => t.onImage o fun t i e => t.csMap i e b) s
def execCsmapReplace (o : OpA) (s : State) : Result := .next (s.insn (insnCsmapReplace o s))

/-- CSSHARE (R319, R320). -/
def insnCsshare (o : OpA) (s : State) : Insn := formCsBlock o 2 16 (fun t b => t.onImage o fun t i e => t.csShare i e b) s
def execCsshare (o : OpA) (s : State) : Result := .next (s.insn (insnCsshare o s))

/-- A CSSET instruction without a block. -/
def formCs (o : OpA) (fn : Nat) (f : State → Nat → Image → CsOut) : Insn :=
  { u := o.u, word := wordA 0x57 o.ra o.rb o.rc fn, least := 2, spec := o.rc != 0, restricted := true,
    body := fun s => .ok (s.onImage o f) }

/-- CSQUIESCE (R347): the grace time in gb. -/
def insnCsquiesce (o : OpA) : Insn := formCs o 3 fun s i e => s.csQuiesce i e (s.g o.u o.rb).toNat
def execCsquiesce (o : OpA) (s : State) : Result := .next (s.insn (insnCsquiesce o))

/-- CSRESET (R348): gb is not used. -/
def insnCsreset (o : OpA) : Insn := formCs o 4 fun s i e => s.csReset i e
def execCsreset (o : OpA) (s : State) : Result := .next (s.insn (insnCsreset o))

end Sys2Proof.Machine
end

