-- ==== Sys2Proof/Machine/Coproc.lean ====
section
/-! DEFINITION. Coprocessor-slot instructions: the frame they share (R116, R402 to R408, R426), QUERY (R409) and the
compression functions of slot 0 (R410 to R416). -/
namespace Sys2Proof.Machine
open Sys2Proof

/-! ## The shared frame -/

/-- The engine type of a slot has no engine in service (R426). -/
def State.slotGone (s : State) (slot : Nat) : Bool := (s.accLeft (slotCrypto slot)).isEmpty

/-- The engine that serves unit u. A request waits for the self-test of an engine that could take it (R415). R400 and R426 name no
outcome where only engines of other compute dies are left: the slot is then as unpopulated (DESIGN CHOICE, log 29). -/
def State.slotEngine (s : State) (u slot : Nat) : Except Ends (Nat × Nat) :=
  let d := s.coreOf u / 26
  match s.chooseAcc d (slotCrypto slot) with
  | some e => .ok e
  | none => .error (if (s.accLeft (slotCrypto slot)).any fun e => decide (e.1 = d) || decide (8 ≤ e.1) then .wait else .stop (excOf 0x001C))

/-- A word of a slot whose engines are all out of service: its cfn is not decoded (R116, R426). -/
def goneSlot (u : Nat) (w : Word) : Insn :=
  { u := u, word := w, lacks := !(isCpu u), spec := w.toNat % 64 != 0, noSlot := true, restricted := true,
    body := fun _ => .error (.stop (excOf 0x001C)) }

/-- An engine takes a request of unit u. A channel-die engine works in its staging bank: it waits for the bank's copy, and one that the bank
refuses ends with an error response (R400, R436, R442), for which R403 gives CC 3, with nothing done (DESIGN CHOICE, log 29). -/
def State.onEngine (s : State) (u cfn : Nat) (e : Nat × Nat) (run : State → Nat × Nat → Except Ends State) : Except Ends State :=
  if e.1 < 8 || cfn == 0 then run s e
  else if s.cellStalled (stagingCell e) then .error .wait
  else if s.stagingOwned e then run s e
  else .ok ((s.wsDeny (stagingCell e) (0x50 + e.2)).setCc u 3)

/-- A slot instruction whose block lies at gb on a boundary of `al` bytes (R402). -/
def formSlot (o : OpC) (slot cfn least al : Nat) (run : State → Nat × Nat → Except Ends State) (s : State) : Insn :=
  if s.slotGone slot then goneSlot o.u (wordC slot o.ra o.rb cfn o.res)
  else
    { u := o.u, word := wordC slot o.ra o.rb cfn o.res, lacks := !(isCpu o.u), least := least, spec := o.res != 0 || o.ra != 0,
      align := if (s.g o.u o.rb).toNat % al = 0 then none else some (s.alignStop o.u (s.g o.u o.rb) (if cfn = 0 then 48 else al) .slotLoad),
      restricted := true, rows := [12],
      body := fun s => match (s.queueSeen o.queued).slotEngine o.u slot with
        | .error e => .error e
        | .ok e => (s.queueSeen o.queued).onEngine o.u cfn e run }

/-- Every byte of an operand may be stored to, or the condition that stops it. -/
def State.slotCheck (s : State) (u : Nat) (va : Dword) (n : Nat) (k : AccKind) : Except Ends Unit :=
  match s.translate u va n k with
  | .error x => .error (.stop x)
  | .ok _ => .ok ()

/-- The block at gb, n bytes, which the instruction will store again (R404). -/
def State.slotBlock (s : State) (u : Nat) (va : Dword) (n : Nat) : Except Ends (State × List Byte) :=
  match s.loadAt u va n .slotLoad with
  | .error e => .error e
  | .ok r => match s.slotCheck u va n .slotStore with
    | .error e => .error e
    | .ok _ => .ok r

/-- A number stored big-endian in n bytes of a block. -/
def putBlk (b : List Byte) (off n v : Nat) : List Byte := b.take off ++ beBytes n v ++ b.drop (off + n)

/-- Bytes stored in a block. -/
def insBytes (b : List Byte) (off : Nat) (d : List Byte) : List Byte := b.take off ++ d ++ b.drop (off + d.length)

/-- Two virtual ranges overlap, addresses modulo 2^64 (R408). -/
def overlaps (a n b m : Nat) : Bool :=
  decide (0 < n) && decide (0 < m) && (decide ((b + 2 ^ 64 - a % 2 ^ 64) % 2 ^ 64 < n) || decide ((a + 2 ^ 64 - b % 2 ^ 64) % 2 ^ 64 < m))

/-- The bytes from va that an operand gives, up to n, page by page, and the condition that ends them early; nothing is
accessed. -/
def State.peek (s : State) (u : Nat) (k : AccKind) : Nat → Nat → Nat → List Byte × Option Stop
  | 0, _, _ => ([], none)
  | fuel + 1, va, n =>
    if n = 0 then ([], none)
    else
      let m := min n (4096 - va % 4096)
      match s.translate u (BitVec.ofNat 64 va) m k with
      | .error x => ([], some x)
      | .ok ps =>
        let r := s.peek u k fuel ((va + m) % 2 ^ 64) (n - m)
        (ps.flatMap (fun p => (List.range p.len).map fun i => s.ownByte u (p.pa + i)) ++ r.1, r.2)

/-- The n source bytes as an engine reads them, in ascending order and never more than 4 KB ahead of the output derived from them,
which it has stored by then (R408), and the condition that ends them early. `run` says how many of the bytes read are consumed, and
what is stored. -/
def State.readAhead (s : State) (u src dst : Nat) (run : List Byte → Nat × List Byte) : Nat → Nat → List Byte → List Byte × Option Stop
  | 0, _, got => (got, none)
  | fuel + 1, n, got =>
    let r := run got
    let m := min (n - got.length) (4096 - (got.length - r.1))
    if m = 0 then (got, none)
    else
      let t := if r.2.isEmpty then s else match s.storeAt u (BitVec.ofNat 64 dst) r.2 .slotStore with
        | .ok t => t
        | .error _ => s
      let p := t.peek u .slotLoad 2 ((src + got.length) % 2 ^ 64) m
      if p.2.isSome then (got ++ p.1, p.2) else s.readAhead u src dst run fuel n (got ++ p.1)

/-- More pieces of a source than any execution reads. -/
def aheadPieces : Nat := 1024

/-- How many bytes from va, up to n, an operand takes, and the condition that ends them early. -/
def State.roomAt (s : State) (u : Nat) : Nat → Nat → Nat → Nat × Option Stop
  | 0, _, _ => (0, none)
  | fuel + 1, va, n =>
    if n = 0 then (0, none)
    else
      let m := min n (4096 - va % 4096)
      match s.translate u (BitVec.ofNat 64 va) m .slotStore with
      | .error x => (0, some x)
      | .ok _ =>
        let r := s.roomAt u fuel ((va + m) % 2 ^ 64) (n - m)
        (m + r.1, r.2)

/-- The stop of an access that was refused. -/
def stopOf (x : Option Stop) : Ends :=
  match x with
  | some x => .stop x
  | none => .stop (excOf 0x0005)

/-- An engine reads n source bytes at va and stores `out` at `dst` (R247), and counts them. -/
def State.slotMove (s : State) (u : Nat) (e : Nat × Nat) (src n dst : Nat) (out : List Byte) : Except Ends State :=
  match s.loadAt u (BitVec.ofNat 64 src) n .slotLoad with
  | .error x => .error x
  | .ok (s1, b) => match s1.storeAt u (BitVec.ofNat 64 dst) out .slotStore with
    | .error x => .error x
    | .ok s2 => .ok ((s2.stage e b out).accCount e n out.length)

/-- The block is stored and the condition code set. -/
def State.slotEnd (s : State) (u : Nat) (va : Dword) (b : List Byte) (cc : BitVec 2) : Except Ends State :=
  match s.storeAt u va b .slotStore with
  | .error x => .error x
  | .ok s1 => .ok (s1.setCc u cc)

/-! ## QUERY (R409) -/

/-- The bitmap of assigned cfn values, 32 bytes. -/
def slotBitmap (slot : Nat) : List Byte :=
  (List.range 32).map fun n => BitVec.ofNat 8 ((slotFns slot).foldl (fun a v => if v / 8 = n then a + 2 ^ (7 - v % 8) else a) 0)

/-- The block that QUERY stores. -/
def State.queryBlock (s : State) (slot : Nat) : List Byte :=
  slotBitmap slot ++ [BitVec.ofNat 8 (s.accLeft (slotCrypto slot)).length, 16] ++ List.replicate 14 0

/-- QUERY of slot 0 to 3. -/
def insnQuery (o : OpC) (slot : Fin 4) (s : State) : Insn :=
  formSlot o slot 0 0 16 (fun s _ => match s.storeAt o.u (s.g o.u o.rb) (s.queryBlock slot) .slotStore with
    | .error x => .error x
    | .ok s1 => .ok (s1.setCc o.u 0)) s
def execQuery (o : OpC) (slot : Fin 4) (s : State) : Result := .next (s.insn (insnQuery o slot s))

/-! ## The compression block (R410, R411) -/

/-- A compression block as read. -/
structure DefBlk where
  cont : Bool
  final : Bool
  flush : Bool
  align : Bool
  wrap : Nat
  dyn : Bool
  ended : Bool
  pbits : Nat
  pbyte : Nat
  src : Nat
  srclen : Nat
  dst : Nat
  dstlen : Nat
  totIn : Nat
  totOut : Nat
  check : Nat
  mlen : Nat
  mdist : Nat
  ca : Nat
  detail : Nat

/-- The fields of a block; those that a new stream initialises are 0 when CONT is 0. -/
def DefBlk.ofBytes (b : List Byte) : DefBlk :=
  let f := b.getD 0 0
  let c := f.getLsbD 7
  let old (v : Nat) : Nat := if c then v else 0
  { cont := c, final := f.getLsbD 6, flush := f.getLsbD 5, align := f.getLsbD 4, wrap := f.toNat / 4 % 4, dyn := f.getLsbD 1,
    ended := c && (b.getD 1 0).getLsbD 7, pbits := old (blkNat b 1 1 % 8), pbyte := old (blkNat b 2 1), src := blkNat b 8 8,
    srclen := blkNat b 0x10 8, dst := blkNat b 0x18 8, dstlen := blkNat b 0x20 8, totIn := old (blkNat b 0x28 8),
    totOut := old (blkNat b 0x30 8), check := old (blkNat b 0x38 4), mlen := old (blkNat b 0x3C 2), mdist := old (blkNat b 0x3E 2),
    ca := blkNat b 0x40 8, detail := old (blkNat b 0x48 8) }

/-- A reserved field or encoding, a misaligned continuation area, or an overlap (R404, R408). -/
def DefBlk.refused (x : DefBlk) (b : List Byte) (va : Nat) : Bool :=
  (b.getD 0 0).getLsbD 0 || x.wrap == 3 || blkNat b 4 4 != 0 || decide (beNat (b.drop 0x50) ≠ 0) || decide (x.ca % 4096 ≠ 0) ||
    overlaps x.dst x.dstlen x.src x.srclen || overlaps x.dst x.dstlen va 256 || overlaps x.dst x.dstlen x.ca 65536

/-- A block written back: STAT, PBYTE, RC and the fields that advance; `again` sets CONT, so that an unchanged re-issue
after CC 3 continues the stream (R403). -/
def DefBlk.write (b : List Byte) (again : Bool) (stat pbyte rc src srclen dst dstlen totIn totOut check mlen mdist detail : Nat) : List Byte :=
  let flags := if again then blkNat b 0 1 % 128 + 128 else blkNat b 0 1
  let b1 := putBlk (putBlk (putBlk (putBlk b 0 1 flags) 1 1 stat) 2 1 pbyte) 3 1 rc
  let b2 := putBlk (putBlk (putBlk (putBlk b1 8 8 src) 0x10 8 srclen) 0x18 8 dst) 0x20 8 dstlen
  putBlk (putBlk (putBlk (putBlk (putBlk (putBlk b2 0x28 8 totIn) 0x30 8 totOut) 0x38 4 check) 0x3C 2 mlen) 0x3E 2 mdist) 0x48 8 detail

/-- The continuation area is read and named, for CONT 1; none where its check value fails (R411). -/
def State.contRead (s : State) (u ca : Nat) : Except Ends (State × Option Cont) :=
  match s.loadAt u (BitVec.ofNat 64 ca) 65536 .slotLoad with
  | .error x => .error x
  | .ok (s1, bytes) => .ok (s1, (s1.conts.find? fun c => c.1 == bytes).map (·.2))

/-- What a continuation area stands for, as numbers. -/
def Blk.nums (b : Blk) : List Nat := match b with
  | .none => [0]
  | .stored n => [1, n]
  | .huff l d => [2, l.length] ++ l ++ d
def Head.nums (h : Head) : List Nat := match h with
  | .start => [0]
  | .extraLen => [1]
  | .extra n => [2, n]
  | .name => [3]
  | .comment => [4]
  | .crc => [5]
  | .done => [6]
def Cont.nums (c : Cont) : List Nat := match c with
  | .inflate s => [0, s.wrap, s.flg, s.hcrc, s.last.toNat, s.total, s.check, s.mlen, s.mdist, s.ended.toNat] ++ Head.nums s.head ++
      Blk.nums s.blk ++ s.hist.map (·.toNat)
  | .deflate s => [1, s.wrap, s.header.toNat, s.total, s.check, s.finalDone.toNat, s.aligned.toNat, s.ended.toNat] ++
      (match s.blk with | some o => [o.lit.length, o.final.toNat, o.used.toNat] ++ o.lit ++ o.dist | none => []) ++ s.hist.map (·.toNat)

/-- A continuation area is written: private bytes that stand for the state of the stream, the same for the same state (R401). -/
def State.contWrite (s : State) (u ca : Nat) (c : Cont) : Except Ends State :=
  let r := (List.range 65536).map (Config.contBytes c.nums)
  ({ s with conts := (r, c) :: s.conts.filter fun x => decide (x.1 ≠ r) } : State).storeAt u (BitVec.ofNat 64 ca) r .slotStore

/-- An execution that ends with CC 2 before any unit (RC 0x02). -/
def State.contBad (s : State) (u : Nat) (va : Dword) (b : List Byte) : Except Ends State := s.slotEnd u va (putBlk b 3 1 2) 2

/-! ## DEFCMP (R412, R414, R415) -/

/-- The state that DEFCMP continues from. -/
def defFrom (x : DefBlk) (c : Option Cont) : Option Def :=
  if !x.cont then some (Def.start x.wrap)
  else match c with
    | some (.deflate d) => some { d with total := x.totIn, check := x.check }
    | _ => none

/-- A segment that fails its verification: nothing of it is stored, the message is sent and the engine tests itself (R415). -/
def State.defMismatch (s : State) (u : Nat) (e : Nat × Nat) (detail : Nat) : State :=
  ((s.errInc (rAcc e.1 e.2 0x18) 0 16 62).accSend e 0x50 2 (some u) (detail % 2 ^ 32)).accLeave e 2

/-- STAT of a stream. -/
def statByte (ended open_ need : Bool) (pbits : Nat) : Nat := ended.toNat * 128 + open_.toNat * 64 + need.toNat * 32 + pbits

/-- The block after DEFCMP: `st` and `bits` are the stream and the bits of this execution, the pending ones first. -/
def defBlkOut (x : DefBlk) (b : List Byte) (again : Bool) (rc detail : Nat) (st : Def) (bits : List Bool) (ate : Nat) : List Byte :=
  let n := bits.length / 8
  DefBlk.write b again (statByte st.ended st.blk.isSome false (bits.length % 8)) (bitsNat (bits.drop (8 * n))) rc ((x.src + ate) % 2 ^ 64)
    (x.srclen - ate) ((x.dst + n) % 2 ^ 64) (x.dstlen - n) (x.totIn + ate) (x.totOut + (bits.length - x.pbits)) st.check 0 0 detail

/-- DEFCMP at its end: `ate` source bytes are taken and `out` is stored, with the state st in the continuation area (R415). -/
def State.defcmpEnd (s : State) (o : OpC) (e : Nat × Nat) (b : List Byte) (x : DefBlk) (rc cc detail : Nat) (st : Def) (out : List Bool)
    (ate : Nat) : Except Ends State :=
  let bits := lsbBits x.pbits x.pbyte ++ out
  match s.slotMove o.u e x.src ate x.dst (bitBytes (bits.take (bits.length / 8 * 8))) with
  | .error y => .error y
  | .ok s1 => match s1.contWrite o.u x.ca (.deflate st) with
    | .error y => .error y
    | .ok s2 => s2.slotEnd o.u (s.g o.u o.rb) (defBlkOut x b (cc == 3) rc detail st bits ate) (BitVec.ofNat 2 cc)

/-- More units than any execution of DEFCMP or DEFDCM takes. -/
def defUnits : Nat := 2 ^ 25

/-- The units of an execution that a cut leaves (R405, R426). -/
def cutUnits (o : OpC) : Nat := match o.cut with
  | some n => min n defUnits
  | none => defUnits

/-- The compressor on the bytes of the source that an execution of the block has, with room for `acc` bits. -/
def DefBlk.deflate (x : DefBlk) (units keep acc : Nat) (st0 : Def) (src : List Byte) :=
  defRun x.dyn x.final x.flush x.align keep (8 * x.dstlen - x.pbits) acc x.totOut units st0 [] 0 src

/-- DEFCMP on its block. A check that fails ends it at the last unit of the segments verified before: `v` is the run up to there
(R415). -/
def State.defcmpRun (s : State) (o : OpC) (e : Nat × Nat) (b : List Byte) (x : DefBlk) (st0 : Def) : Except Ends State :=
  let room := s.roomAt o.u (2 ^ 20) x.dst (min x.dstlen (2 ^ 31))
  let acc := 8 * room.1 - x.pbits
  let srcs := s.readAhead o.u x.src x.dst (fun got =>
    let r := x.deflate (cutUnits o) lookAhead acc st0 got
    let bits := lsbBits x.pbits x.pbyte ++ r.2.2.1
    (r.2.2.2, bitBytes (bits.take (bits.length / 8 * 8)))) aheadPieces (min x.srclen (2 ^ 20 + 1024)) []
  let keep := srcs.2.isSome.toNat
  let r := x.deflate (cutUnits o) keep acc st0 srcs.1
  let v := x.deflate (cutUnits o) keep (min (8 * (4096 * o.good) - x.pbits) acc) st0 srcs.1
  if decide (0 < o.fails.val) && decide (v.2.2.1.length < r.2.2.1.length) then
    (s.defMismatch o.u e (x.totIn + v.2.2.2)).defcmpEnd o e b x 1 2 (x.totIn + v.2.2.2) v.2.1 v.2.2.1 v.2.2.2
  else match r.1 with
    | .full => s.defcmpEnd o e b x 0 1 x.detail r.2.1 r.2.2.1 r.2.2.2
    | .limit => s.defcmpEnd o e b x 0 3 x.detail r.2.1 r.2.2.1 r.2.2.2
    | .access =>
      if r.2.2.1.isEmpty then .error (if st0.header && srcs.1.isEmpty && srcs.2.isSome then stopOf srcs.2 else stopOf room.2)
      else s.defcmpEnd o e b x 0 3 x.detail r.2.1 r.2.2.1 r.2.2.2
    | _ => s.defcmpEnd o e b x 0 0 x.detail r.2.1 r.2.2.1 r.2.2.2

/-- What DEFCMP and DEFDCM do before their first unit: the block is read and checked, and the continuation area (R404, R408,
R411). -/
def State.defOpen (s : State) (o : OpC) : Except Ends (State × List Byte × DefBlk × Option Cont) :=
  let va := s.g o.u o.rb
  match s.slotBlock o.u va 256 with
  | .error y => .error y
  | .ok (s1, b) =>
    let x := DefBlk.ofBytes b
    if x.refused b va.toNat then .error (.stop (excOf 0x0006))
    else match s1.slotCheck o.u (BitVec.ofNat 64 x.ca) 65536 .slotStore with
      | .error y => .error y
      | .ok _ =>
        if !x.cont || x.ended then .ok (s1, b, x, none)
        else match s1.contRead o.u x.ca with
          | .error y => .error y
          | .ok (s2, c) => .ok (s2, b, x, c)

/-- DEFCMP (R412, R414, R415). -/
def insnDefcmp (o : OpC) (s : State) : Insn :=
  formSlot o 0 1 0 256 (fun s e => match s.defOpen o with
    | .error y => .error y
    | .ok (s1, b, x, c) =>
      if x.ended then .ok (s1.setCc o.u 0)
      else match defFrom x c with
        | none => s1.contBad o.u (s.g o.u o.rb) b
        | some d => s1.defcmpRun o e b x d) s
def execDefcmp (o : OpC) (s : State) : Result := .next (s.insn (insnDefcmp o s))

/-! ## DEFDCM (R416) -/

/-- The state that DEFDCM continues from; MLEN counts the bytes left of a stored block too (R410). -/
def infFrom (x : DefBlk) (c : Option Cont) : Option Inf :=
  if !x.cont then some (Inf.start x.wrap)
  else match c with
    | some (.inflate d) =>
      let d1 := { d with total := x.totOut, check := x.check }
      match d.blk with
      | .stored _ => some { d1 with blk := if x.mlen = 0 then .none else .stored x.mlen, mlen := 0, mdist := 0 }
      | _ => some { d1 with mlen := x.mlen, mdist := x.mdist }
    | _ => none

/-- MLEN of a stream: the bytes left of a match or stored block. -/
def Inf.left (d : Inf) : Nat := match d.blk with
  | .stored n => n
  | _ => d.mlen

/-- The block after DEFDCM: `used` bits have been read and n bytes stored. -/
def infBlkOut (x : DefBlk) (b : List Byte) (again need : Bool) (rc detail : Nat) (st : Inf) (used n : Nat) : List Byte :=
  let at_ := x.pbits + used
  DefBlk.write b again (statByte st.ended (decide (st.blk ≠ .none)) need (at_ % 8)) 0 rc ((x.src + at_ / 8) % 2 ^ 64) (x.srclen - at_ / 8)
    ((x.dst + n) % 2 ^ 64) (x.dstlen - n) (x.totIn + at_ / 8) (x.totOut + n) st.check st.left st.mdist detail

/-- DEFDCM at its end: `used` bits are taken and `out` is stored, with the state st in the continuation area (R416). -/
def State.defdcmEnd (s : State) (o : OpC) (e : Nat × Nat) (b : List Byte) (x : DefBlk) (rc cc detail : Nat) (need : Bool) (st : Inf)
    (used : Nat) (out : List Byte) : Except Ends State :=
  match s.slotMove o.u e x.src ((x.pbits + used + 7) / 8) x.dst out with
  | .error y => .error y
  | .ok s1 => match s1.contWrite o.u x.ca (.inflate st) with
    | .error y => .error y
    | .ok s2 => s2.slotEnd o.u (s.g o.u o.rb) (infBlkOut x b (cc == 3) need rc detail st used out.length) (BitVec.ofNat 2 cc)

/-- The decompressor on the bytes of the source that an execution of the block has, with room for `room` bytes. -/
def DefBlk.inflate (x : DefBlk) (units room : Nat) (st0 : Inf) (src : List Byte) :=
  infRun x.dstlen room (8 * x.totIn + x.pbits) (2 * defUnits) units st0 0 [] ((toBits src).drop x.pbits)

/-- DEFDCM on its block. -/
def State.defdcmRun (s : State) (o : OpC) (e : Nat × Nat) (b : List Byte) (x : DefBlk) (st0 : Inf) : Except Ends State :=
  let room := s.roomAt o.u (2 ^ 20) x.dst (min x.dstlen (2 ^ 31))
  let srcs := s.readAhead o.u x.src x.dst (fun got => let r := x.inflate (cutUnits o) room.1 st0 got; ((x.pbits + r.2.2.1) / 8, r.2.2.2)) aheadPieces
    (min x.srclen (2 ^ 20 + 1024)) []
  let r := x.inflate (cutUnits o) room.1 st0 srcs.1
  let used := r.2.2.1
  let out := r.2.2.2
  let none_ := decide (used = 0) && out.isEmpty
  match r.1 with
  | .full => s.defdcmEnd o e b x 0 1 x.detail false r.2.1 used out
  | .limit => s.defdcmEnd o e b x 0 3 x.detail false r.2.1 used out
  | .need =>
    if srcs.2.isSome then (if none_ then .error (stopOf srcs.2) else s.defdcmEnd o e b x 0 3 x.detail false r.2.1 used out)
    else s.defdcmEnd o e b x 0 0 x.detail true r.2.1 used out
  | .access => if none_ then .error (stopOf room.2) else s.defdcmEnd o e b x 0 3 x.detail false r.2.1 used out
  | .bad rc => s.defdcmEnd o e b x rc 2 (8 * x.totIn + x.pbits + used) false r.2.1 used out
  | .done => s.defdcmEnd o e b x 0 0 x.detail false r.2.1 used out

/-- DEFDCM (R416). -/
def insnDefdcm (o : OpC) (s : State) : Insn :=
  formSlot o 0 2 0 256 (fun s e => match s.defOpen o with
    | .error y => .error y
    | .ok (s1, b, x, c) =>
      if x.ended then .ok (s1.setCc o.u 0)
      else match infFrom x c with
        | none => s1.contBad o.u (s.g o.u o.rb) b
        | some d => s1.defdcmRun o e b x d) s
def execDefdcm (o : OpC) (s : State) : Result := .next (s.insn (insnDefdcm o s))

end Sys2Proof.Machine
end

