-- ==== Sys2Proof/Machine/Cipher.lean ====
section
/-! DEFINITION. Slot 1: ciphers, HASH and PKWRAP for symmetric keys (R417, R418, R420, R422). -/
namespace Sys2Proof.Machine
open Sys2Proof

/-- The functions of slot 1 that share the 256-byte block (R402, R417). -/
inductive SymFn where
  | gcm
  | xts
  | cbc
  | ctr
  | hash
  deriving DecidableEq, Repr

/-! ## The block (R417) -/

/-- A slot 1 block as read. -/
structure SymBlk where
  variant : Nat
  cont : Bool
  final : Bool
  pkey : Bool
  src : Nat
  srclen : Nat
  dst : Nat
  dstlen : Nat
  aad : Nat
  aadlen : Nat
  key : List Byte
  iv : List Byte
  tag : List Byte
  state : List Byte

def SymBlk.ofBytes (b : List Byte) : SymBlk :=
  let f := b.getD 1 0
  { variant := blkNat b 0 1, cont := f.getLsbD 7, final := f.getLsbD 6, pkey := f.getLsbD 5, src := blkNat b 8 8, srclen := blkNat b 0x10 8,
    dst := blkNat b 0x18 8, dstlen := blkNat b 0x20 8, aad := blkNat b 0x28 8, aadlen := blkNat b 0x30 8, key := (b.drop 0x40).take 96,
    iv := (b.drop 0xA0).take 16, tag := (b.drop 0xB0).take 16, state := (b.drop 0xC0).take 64 }

/-- A reserved field of a block is nonzero. -/
def symReserved (b : List Byte) : Bool := blkNat b 1 1 % 32 != 0 || blkNat b 3 5 != 0 || blkNat b 0x38 8 != 0

/-- The key of a variant, in bytes. -/
def keyLen (f : SymFn) (variant : Nat) : Nat := (if variant = 1 then 16 else 32) * (if f = .xts then 2 else 1)

/-- The key type of a protected key that a function uses (R422). -/
def keyType (f : SymFn) (variant : Nat) : Nat := if f = .xts then variant + 2 else variant

/-- A reserved encoding, a length that breaks R418, or an overlap (R404, R408, R418). -/
def SymBlk.refused (x : SymBlk) (f : SymFn) (b : List Byte) (va : Nat) : Bool :=
  symReserved b ||
  (if f = .hash then !(hashVariants.contains x.variant) else x.variant != 1 && x.variant != 2) ||
  (f != .gcm && (x.aad != 0 || x.aadlen != 0)) ||
  (f == .xts && x.final && decide (x.srclen < 16)) || (f == .cbc && decide (x.srclen % 16 ≠ 0)) ||
  overlaps x.dst x.dstlen x.src x.srclen || overlaps x.dst x.dstlen va 256 || overlaps x.dst x.dstlen x.aad x.aadlen

/-! ## Working through whole units -/

/-- The state of a function where no unit has been done. -/
def chainStart (f : SymFn) (x : SymBlk) (key : List Byte) : Chain :=
  match f with
  | .gcm => ⟨gcmNext (x.iv.take 12 ++ [0, 0, 0, 1]), List.replicate 16 0, 0, 0⟩
  | .xts => ⟨aesEnc (key.drop (key.length / 2)) x.iv, [], 0, 0⟩
  | .hash => ⟨hashInit x.variant, [], 0, 0⟩
  | _ => ⟨x.iv, [], 0, 0⟩

/-- The hash subkey of GCM. -/
def gcmH (key : List Byte) : Nat := beNat (aesEnc key (List.replicate 16 0))

/-- The key that ciphers the data: the first half for XTS. -/
def dataKey (f : SymFn) (key : List Byte) : List Byte := if f = .xts then key.take (key.length / 2) else key

/-- Whole units done: the output and the state after them. A short last unit is allowed for GCM and CTR. -/
def symUnits (f : SymFn) (dec : Bool) (variant : Nat) (key data : List Byte) (c : Chain) : List Byte × Chain :=
  match f with
  | .gcm =>
    let r := ctrRun gcmNext key (chunked 16 data) c.a
    let y := ghash (gcmH key) (chunked 16 (if dec then data else r.1)) (beNat c.b)
    (r.1, { c with a := r.2, b := beBytes 16 y, n := c.n + data.length })
  | .xts =>
    let r := xtsRun dec (dataKey .xts key) (chunked 16 data) c.a
    (r.1, { c with a := r.2, n := c.n + data.length })
  | .cbc =>
    let r := if dec then cbcDec key (chunked 16 data) c.a else cbcEnc key (chunked 16 data) c.a
    (r.1, { c with a := r.2, n := c.n + data.length })
  | .ctr =>
    let r := ctrRun ctrNext key (chunked 16 data) c.a
    (r.1, { c with a := r.2, n := c.n + data.length })
  | .hash => ([], { c with a := (chunked (hashBlock variant) data).foldl (hashUnit variant) c.a, n := c.n + data.length })

/-- The unit of a function in source bytes (R405). -/
def symUnit (f : SymFn) (variant : Nat) : Nat := if f = .hash then hashBlock variant else 16

/-- The bytes of the last unit, which FINAL brings: for XTS the last whole block with the partial one after it. -/
def symTail (f : SymFn) (final : Bool) (variant len : Nat) : Nat :=
  if !final then 0
  else if f = .xts ∧ len % 16 ≠ 0 then 16 + len % 16
  else len % symUnit f variant

/-- What stops an execution. -/
inductive SymStop where
  | done
  | full
  | limit
  | source
  | target

/-- The boundary at which whole units end: `want` units of `unit` bytes with `out` output bytes each, of a target with cap
bytes; srcAcc and dstAcc are accessible; what comes after them is `tail` bytes with `tailOut` of output. No more than `cut` units are
done. -/
def symEnd (cut : Option Nat) (unit out want tail tailOut cap srcAcc dstAcc : Nat) : Nat × SymStop :=
  let cutAt := match cut with
    | some n => n
    | none => want + 1
  let lim := min cutAt ((2 ^ 20 + unit - 1) / unit)
  let fits (room : Nat) : Nat := if out = 0 then want else room / out
  let k := min want (min lim (min (fits cap) (min (srcAcc / unit) (fits dstAcc))))
  let next := if k < want then unit else tail
  let nextOut := if k < want then out else tailOut
  if k = want ∧ tail = 0 ∧ tailOut = 0 then (k, .done)
  else if lim ≤ k ∧ (next ≠ 0 ∨ cutAt ≤ k) then (k, .limit)
  else if cap < k * out + nextOut then (k, .full)
  else if srcAcc < k * unit + next then (k, .source)
  else if dstAcc < k * out + nextOut then (k, .target)
  else (k, .done)

/-! ## The checks of the engine (R420) -/

/-- A check of the engine fails: the message of the first failure, and of the second, which takes the engine out. -/
def State.cryptoFail (s : State) (u : Nat) (e : Nat × Nat) (slot cfn fails : Nat) : State :=
  if fails = 0 then s
  else
    let s1 := (s.errInc (rAcc e.1 e.2 0x18) 0 16 62).accSend e 0x55 1 (some u) (slot * 256 + cfn)
    if fails = 1 then s1
    else ((s1.errInc (rAcc e.1 e.2 0x18) 0 16 62).accSend e 0x55 2 (some u) (slot * 256 + cfn)).accLeave e 3

/-- An unwrap that fails in a function: RC 0x23 sends kind 0x57 (R422). -/
def State.keyFail (s : State) (u : Nat) (e : Nat × Nat) (rc : Nat) (block : List Byte) : State :=
  if rc = 0x23 then s.accSend e 0x57 0 (some u) (blkNat block 2 2) else s

/-! ## One execution (R405, R407, R418) -/

/-- The key of the block, clear or protected. -/
def State.symKey (s : State) (u : Nat) (f : SymFn) (x : SymBlk) : Except Nat (List Byte) :=
  if f = .hash then .ok []
  else if x.pkey then s.unprotect u (keyType f x.variant) (keyLen f x.variant) x.key
  else .ok (x.key.take (keyLen f x.variant))

/-- STATE of the block as the engine reads it; private bytes it has not stored stand for an open value (R411, R417). -/
def State.chainRead (s : State) (f : SymFn) (x : SymBlk) (key : List Byte) : State × Chain :=
  if !x.cont then (s, chainStart f x key)
  else
    let n := (chainStart f x key).a.length
    match s.chains.find? fun c => c.1 == x.state with
    | some c => (s, { c.2 with a := padTo n c.2.a, b := if f = .gcm then padTo 16 c.2.b else c.2.b })
    | none => (s, ⟨(List.range n).map (Config.chainOf x.state), (List.range 16).map fun i => Config.chainOf x.state (n + i), 0, 0⟩)

/-- What a chaining state stands for, as numbers. -/
def Chain.nums (c : Chain) : List Nat := [c.a.length, c.n, c.m] ++ c.a.map (·.toNat) ++ c.b.map (·.toNat)

/-- The block after an execution, with STATE saved, the same for the same state (R401); CC 3 sets CONT, so that an unchanged re-issue continues (R403). -/
def State.symClose (s : State) (u : Nat) (va : Dword) (b : List Byte) (x : SymBlk) (rc ate out aadAte : Nat) (tag : List Byte) (c : Chain)
    (cc : Nat) : Except Ends State :=
  let r := (List.range 64).map (Config.chainBytes c.nums)
  let s1 : State := { s with chains := (r, c) :: s.chains.filter fun x => decide (x.1 ≠ r) }
  let b1 := putBlk (putBlk b 1 1 (if cc = 3 then blkNat b 1 1 % 128 + 128 else blkNat b 1 1)) 2 1 rc
  let b2 := putBlk (putBlk (putBlk (putBlk b1 8 8 ((x.src + ate) % 2 ^ 64)) 0x10 8 (x.srclen - ate)) 0x18 8 ((x.dst + out) % 2 ^ 64))
    0x20 8 (x.dstlen - out)
  let b3 := if aadAte = 0 then b2 else putBlk (putBlk b2 0x28 8 ((x.aad + aadAte) % 2 ^ 64)) 0x30 8 (x.aadlen - aadAte)
  s1.slotEnd u va (insBytes (insBytes b3 0xB0 tag) 0xC0 r) (BitVec.ofNat 2 cc)

/-- The tag of GCM after every byte. -/
def gcmTag (key iv : List Byte) (c : Chain) : List Byte :=
  let y := ghash (gcmH key) [beBytes 8 (8 * c.m) ++ beBytes 8 (8 * c.n)] (beNat c.b)
  xorBytes (beBytes 16 y) (aesEnc key (iv.take 12 ++ [0, 0, 0, 1]))

/-- The additional data that an execution of GCM takes: a last partial unit only when source or FINAL follows. -/
def SymBlk.aadTake (x : SymBlk) : Nat := if x.final || decide (0 < x.srclen) then x.aadlen else x.aadlen / 16 * 16

/-- An execution at a unit boundary: the data is stored and the block closed. -/
def State.symStore (s : State) (u : Nat) (va : Dword) (e : Nat × Nat) (b : List Byte) (x : SymBlk) (rc cc ate aadAte : Nat) (data tag : List Byte)
    (c : Chain) : Except Ends State :=
  match s.slotMove u e x.src ate x.dst data with
  | .error y => .error y
  | .ok s1 => s1.symClose u va b x rc ate data.length aadAte tag c cc

/-- The output of the last bytes of a source, after its whole units. -/
def symLast (f : SymFn) (dec : Bool) (variant : Nat) (key last : List Byte) (c : Chain) : List Byte × Chain :=
  if last.isEmpty then ([], c)
  else if f = .xts then (xtsSteal dec (dataKey .xts key) c.a (last.take 16) (last.drop 16), { c with n := c.n + last.length })
  else symUnits f dec variant key last c

/-- The source as an execution reads it (R408): whole units are stored before the engine reads on. -/
def State.symSource (s : State) (u : Nat) (f : SymFn) (dec : Bool) (x : SymBlk) (key : List Byte) (c : Chain) : List Byte × Option Stop :=
  let unit := symUnit f x.variant
  s.readAhead u x.src x.dst (fun got =>
    let k := min (got.length / unit) (if f = .hash then got.length else x.dstlen / unit)
    (k * unit, (symUnits f dec x.variant key (got.take (k * unit)) c).1)) aheadPieces (min x.srclen (2 ^ 20 + 1024)) []

/-- The units and the end of an execution over source bytes `src`, of which `room` target bytes are accessible. -/
def symPlan (o : OpC) (f : SymFn) (x : SymBlk) (cut : Option Nat) (src room : Nat) : Nat × SymStop :=
  let unit := symUnit f x.variant
  let tail := symTail f x.final x.variant x.srclen
  let tailOut := if f = .hash then (if x.final then hashLen x.variant x.dstlen else 0) else tail
  let out := if f = .hash then 0 else unit
  let want := (x.srclen - tail) / unit
  let r := symEnd cut unit out want tail tailOut x.dstlen src room
  let units := r.1 + (match r.2 with | .done => decide (tail ≠ 0 ∨ tailOut ≠ 0) | _ => false).toNat
  if o.fails.val < 2 ∨ units = 0 then r else symEnd (some (min o.good (units - 1))) unit out want tail tailOut x.dstlen src room

/-- A second failed check ends this execution: some unit was done or tried (R420). -/
def symFails (o : OpC) (f : SymFn) (x : SymBlk) (cut : Option Nat) (src room : Nat) : Nat :=
  let r := symPlan { o with fails := 0 } f x cut src room
  match r with
  | (0, .done) => if symTail f x.final x.variant x.srclen = 0 ∧ !(f == .hash && x.final) then 0 else o.fails.val
  | (0, _) => 0
  | _ => o.fails.val

/-- The source of an execution once the additional data is done. -/
def State.symData (s0 : State) (o : OpC) (f : SymFn) (dec : Bool) (cfn : Nat) (e : Nat × Nat) (b : List Byte) (x : SymBlk) (key : List Byte)
    (c : Chain) (aadAte : Nat) (cut : Option Nat) : Except Ends State :=
  let u := o.u
  let va := s0.g u o.rb
  let unit := symUnit f x.variant
  let tail := symTail f x.final x.variant x.srclen
  let digest := f == .hash && x.final
  let srcs := s0.symSource u f dec x key c
  let room := s0.roomAt u (2 ^ 20) x.dst
    (if f = .hash then (if digest then min x.dstlen (hashLen x.variant x.dstlen) else 0) else min x.dstlen (2 ^ 20 + 1024))
  let r := symPlan o f x cut srcs.1.length room.1
  let s := s0.cryptoFail u e 1 cfn (symFails o f x cut srcs.1.length room.1)
  let body := symUnits f dec x.variant key (srcs.1.take (r.1 * unit)) c
  let last := (srcs.1.drop (r.1 * unit)).take tail
  let none_ := decide (r.1 = 0) && decide (aadAte = 0)
  match r.2 with
  | .full => s.symStore u va e b x 0 1 (r.1 * unit) aadAte body.1 x.tag body.2
  | .limit => s.symStore u va e b x 0 3 (r.1 * unit) aadAte body.1 x.tag body.2
  | .source => if none_ then .error (stopOf srcs.2) else s.symStore u va e b x 0 3 (r.1 * unit) aadAte body.1 x.tag body.2
  | .target => if none_ then .error (stopOf room.2) else s.symStore u va e b x 0 3 (r.1 * unit) aadAte body.1 x.tag body.2
  | .done =>
    let ate := r.1 * unit + tail
    if digest then
      s.symStore u va e b x 0 0 ate aadAte (hashFinish x.variant x.dstlen (body.2.n + last.length) body.2.a last) x.tag body.2
    else
      let t := symLast f dec x.variant key last body.2
      let data := body.1 ++ t.1
      if f = .gcm ∧ x.final then
        let tag := gcmTag key x.iv t.2
        if !dec then s.symStore u va e b x 0 0 ate aadAte data tag t.2
        else if tag = x.tag then s.symStore u va e b x 0 0 ate aadAte data x.tag t.2
        else s.symStore u va e b x 0x20 2 ate aadAte (List.replicate data.length 0) x.tag t.2
      else s.symStore u va e b x 0 0 ate aadAte data x.tag t.2

/-- GCM takes its additional data before any source byte (R418), in units of 16 bytes. -/
def State.symAad (s : State) (o : OpC) (f : SymFn) (dec : Bool) (cfn : Nat) (e : Nat × Nat) (b : List Byte) (x : SymBlk) (key : List Byte)
    (c : Chain) : Except Ends State :=
  let n := if f = .gcm then x.aadTake else 0
  if n = 0 then s.symData o f dec cfn e b x key c 0 o.cut
  else
    let a := s.peek o.u .slotLoad (2 ^ 52) x.aad n
    let all := match o.cut with
      | some m => if 16 * m < n then 16 * m else n
      | none => n
    let k := if a.1.length < all then a.1.length / 16 * 16 else all
    let c1 := { c with b := beBytes 16 (ghash (gcmH key) (chunked 16 (a.1.take k)) (beNat c.b)), m := c.m + k }
    match s.loadAt o.u (BitVec.ofNat 64 x.aad) k .slotLoad with
    | .error y => .error y
    | .ok (s1, d) =>
      let s2 := (s1.stage e d []).accCount e k 0
      if k = n then s2.symData o f dec cfn e b x key c1 k (o.cut.map fun m => m - (n + 15) / 16)
      else if k = 0 ∧ k < all then .error (stopOf a.2)
      else s2.symClose o.u (s.g o.u o.rb) b x 0 0 0 k x.tag c1 3

/-- A cipher or HASH on its block. -/
def State.symRun (s : State) (o : OpC) (f : SymFn) (dec : Bool) (cfn : Nat) (e : Nat × Nat) : Except Ends State :=
  let va := s.g o.u o.rb
  match s.slotBlock o.u va 256 with
  | .error y => .error y
  | .ok (s1, b) =>
    let x := SymBlk.ofBytes b
    if x.refused f b va.toNat then .error (.stop (excOf 0x0006))
    else match s1.symKey o.u f x with
      | .error rc => (s1.keyFail o.u e rc x.key).slotEnd o.u va (putBlk b 2 1 rc) 2
      | .ok key =>
        let c := s1.chainRead f x key
        if f = .gcm ∧ 0 < x.aadlen ∧ 0 < c.2.n then .error (.stop (excOf 0x0006))
        else c.1.symAad o f dec cfn e b x key c.2

/-- The form of a slot 1 function. -/
def formSym (o : OpC) (f : SymFn) (dec : Bool) (cfn : Nat) (s : State) : Insn :=
  formSlot o 1 cfn 0 256 (fun s e => s.symRun o f dec cfn e) s

/-- AES_GCM_ENCRYPT (R418). -/
def insnAesGcmEncrypt (o : OpC) (s : State) : Insn := formSym o .gcm false 1 s
def execAesGcmEncrypt (o : OpC) (s : State) : Result := .next (s.insn (insnAesGcmEncrypt o s))

/-- AES_GCM_DECRYPT (R418). -/
def insnAesGcmDecrypt (o : OpC) (s : State) : Insn := formSym o .gcm true 2 s
def execAesGcmDecrypt (o : OpC) (s : State) : Result := .next (s.insn (insnAesGcmDecrypt o s))

/-- AES_XTS_ENCRYPT (R418). -/
def insnAesXtsEncrypt (o : OpC) (s : State) : Insn := formSym o .xts false 3 s
def execAesXtsEncrypt (o : OpC) (s : State) : Result := .next (s.insn (insnAesXtsEncrypt o s))

/-- AES_XTS_DECRYPT (R418). -/
def insnAesXtsDecrypt (o : OpC) (s : State) : Insn := formSym o .xts true 4 s
def execAesXtsDecrypt (o : OpC) (s : State) : Result := .next (s.insn (insnAesXtsDecrypt o s))

/-- AES_CBC_ENCRYPT (R418). -/
def insnAesCbcEncrypt (o : OpC) (s : State) : Insn := formSym o .cbc false 5 s
def execAesCbcEncrypt (o : OpC) (s : State) : Result := .next (s.insn (insnAesCbcEncrypt o s))

/-- AES_CBC_DECRYPT (R418). -/
def insnAesCbcDecrypt (o : OpC) (s : State) : Insn := formSym o .cbc true 6 s
def execAesCbcDecrypt (o : OpC) (s : State) : Result := .next (s.insn (insnAesCbcDecrypt o s))

/-- AES_CTR (R418): one function for both directions. -/
def insnAesCtr (o : OpC) (s : State) : Insn := formSym o .ctr false 7 s
def execAesCtr (o : OpC) (s : State) : Result := .next (s.insn (insnAesCtr o s))

/-- HASH (R418). -/
def insnHash (o : OpC) (s : State) : Insn := formSym o .hash false 0x10 s
def execHash (o : OpC) (s : State) : Result := .next (s.insn (insnHash o s))

/-! ## PKWRAP of slot 1 (R422) -/

/-- PKWRAP: VARIANT is the key type, and KEY becomes the protected-key block. -/
def State.pkwrapSym (s : State) (o : OpC) (e : Nat × Nat) : Except Ends State :=
  let va := s.g o.u o.rb
  match s.slotBlock o.u va 256 with
  | .error y => .error y
  | .ok (s1, b) =>
    let x := SymBlk.ofBytes b
    if symReserved b || x.variant == 0 || decide (4 < x.variant) then .error (.stop (excOf 0x0006))
    else match (s1.keySlotOf o.u).bind fun k => (s1.wrapKey k).map fun w => (k, w) with
      | none => s1.slotEnd o.u va (putBlk b 2 1 0x22) 2
      | some w =>
        let n := if x.variant = 1 then 16 else if x.variant = 4 then 64 else 32
        if o.cut.isSome then .ok (s1.setCc o.u 3)
        else if 2 ≤ o.fails.val then .ok ((s1.cryptoFail o.u e 1 0x20 2).setCc o.u 3)
        else (s1.cryptoFail o.u e 1 0x20 o.fails.val).slotEnd o.u va
          (insBytes (putBlk b 2 1 0) 0x40 (protect x.variant w.1 w.2 (x.key.take n))) 0

/-- PKWRAP_SYMMETRIC (R422): least state supervisor. -/
def insnPkwrapSymmetric (o : OpC) (s : State) : Insn := formSlot o 1 0x20 1 256 (fun s e => s.pkwrapSym o e) s
def execPkwrapSymmetric (o : OpC) (s : State) : Result := .next (s.insn (insnPkwrapSymmetric o s))

end Sys2Proof.Machine
end

