-- ==== Sys2Proof/WellFormed.lean ====
section
/-! DEFINITION. Commands that the module can receive: the operands of an event are ones its rule gives it. Instructions are
all well formed: a reserved field or an odd register is the instruction's own condition (R98). -/
namespace Sys2Proof

/-- A slot number from 4 up: no function of slots 0 to 3 (R116, R117). -/
def slotWord (lo : Nat) (w : Word) : Bool := decide (0x70 + lo ≤ Word.op w) && decide (Word.op w ≤ 0x7F)

/-- n bytes from an address, none beyond the block of the given size (R287, R263). -/
def inBlock (size a n : Nat) : Bool := decide (1 ≤ n) && decide (a % size + n ≤ size)

/-- A word that is no instruction (R97). -/
def noInstruction (u : Uid) (w : Word) : Bool := !(opAssigned (decide (192 ≤ u.val)) w) || otherOrder w

/-- The readings of the 13 rails (R500, R503). -/
def railReadings (rds : List (Option Reading)) : Bool := decide (rds.length = 13)

/-- The operands are ones that the command's rule gives it. -/
def Instr.wf : Instr → Bool
  | .coprocessorUnavailable _ w => slotWord 4 w
  | .customerSlotInstruction _ w => slotWord 8 w
  | .operationException u w => noInstruction u w
  | .dramWriteRequest _ a bs _ => inBlock 128 a.toNat bs.length
  | .engineStorageRead _ len => decide (1 ≤ len)
  | .engineStorageWrite _ bs => decide (1 ≤ bs.length)
  | .pmbusPoll rds => railReadings rds
  | .smbalert rds => railReadings rds
  | _ => true

end Sys2Proof
end

