-- ==== Sys2Proof/Machine/PublicKey.lean ====
section
/-! DEFINITION. Slot 2, public-key functions (R406, R419, R420, R422); slot 3, random numbers (R423, R424); words of other
slots and of no instruction (R97, R116, R117). -/
namespace Sys2Proof.Machine
open Sys2Proof

/-! ## Functions and their arguments (R419) -/

/-- The functions of slot 2. -/
inductive PkFn where
  | sign
  | verify
  | keygen
  | encaps
  | decaps
  | pkwrap
  deriving DecidableEq, Repr

def PkFn.cfn : PkFn → Nat
  | .sign => 1
  | .verify => 2
  | .keygen => 3
  | .encaps => 4
  | .decaps => 5
  | .pkwrap => 0x20

def algKem (a : Nat) : Bool := a == 0x11 || a == 0x12
def algDsa (a : Nat) : Bool := a == 0x21 || a == 0x22
def algKnown (a : Nat) : Bool := [1, 2, 3, 0x11, 0x12, 0x21, 0x22].contains a

/-- ALG allowed. -/
def PkFn.allows (f : PkFn) (a : Nat) : Bool :=
  match f with
  | .sign | .verify => algKnown a && !(algKem a)
  | .keygen | .pkwrap => algKnown a
  | .encaps | .decaps => algKem a

/-- Lengths of FIPS 186-5, 203 and 204: public or encapsulation key, private or decapsulation key, signature or
ciphertext (PRESUMED where the spec names only the standards, log entry 16). -/
def pkSizes (a : Nat) : Nat × Nat × Nat :=
  if a = 1 then (64, 32, 64) else if a = 2 then (96, 48, 96) else if a = 3 then (32, 32, 64)
  else if a = 0x11 then (1184, 2400, 1088) else if a = 0x12 then (1568, 3168, 1568)
  else if a = 0x21 then (1952, 4032, 3309) else (2592, 4896, 4627)

/-- Descriptors that are read. -/
def PkFn.ins (f : PkFn) (a : Nat) : List Nat :=
  match f with
  | .sign => if algDsa a then [0, 1, 3] else [0, 1]
  | .verify => if algDsa a then [0, 1, 2, 3] else [0, 1, 2]
  | .keygen => []
  | .encaps => [0]
  | .decaps => [0, 1]
  | .pkwrap => [1]

/-- Descriptors that are stored, each with the length it needs. -/
def PkFn.outs (f : PkFn) (a : Nat) : List (Nat × Nat) :=
  let z := pkSizes a
  match f with
  | .sign => [(2, z.2.2)]
  | .verify => []
  | .keygen => [(0, z.1), (1, z.2.1)]
  | .encaps => [(1, z.2.2), (2, 32)]
  | .decaps => [(2, 32)]
  | .pkwrap => [(2, z.2.1 + 16)]

/-- The descriptor of a private key that may be protected. -/
def PkFn.keyArg (f : PkFn) : Option Nat :=
  match f with
  | .sign => some 1
  | .decaps => some 0
  | _ => none

/-- Address and length of descriptor k. -/
def pkArg (b : List Byte) (k : Nat) : Nat × Nat := (blkNat b (8 + 16 * k) 8, blkNat b (16 + 16 * k) 8)

/-- The length an input must have, where it is fixed; VERIFY finds a signature or key of another length not valid. -/
def PkFn.fixed (f : PkFn) (a : Nat) (pkey : Bool) (k : Nat) : Option Nat :=
  let z := pkSizes a
  let sk := if pkey then z.2.1 + 16 else z.2.1
  match f, k with
  | .sign, 1 => some sk
  | .encaps, 0 => some z.1
  | .decaps, 0 => some sk
  | .decaps, 1 => some z.2.2
  | .pkwrap, 1 => some z.2.1
  | _, _ => none

/-- A reserved field or encoding, a descriptor that shall be 0, a length that no key has, or an overlap (R404, R408, R419). -/
def pkRefused (f : PkFn) (b : List Byte) (va : Nat) : Bool :=
  let a := blkNat b 0 1
  let pkey := (b.getD 1 0).getLsbD 5
  let ins := f.ins a
  let outs := (f.outs a).map (·.1)
  !(f.allows a) || decide (blkNat b 1 1 - pkey.toNat * 32 ≠ 0) || blkNat b 3 5 != 0 || decide (beNat (b.drop 0x68) ≠ 0) ||
    (List.range 6).any (fun k => !(ins.contains k) && !(outs.contains k) && decide (pkArg b k ≠ (0, 0))) ||
    ins.any (fun k => match f.fixed a pkey k with | some n => (pkArg b k).2 != n | none => decide (k = 3) && decide (255 < (pkArg b k).2)) ||
    outs.any fun k => overlaps (pkArg b k).1 (pkArg b k).2 va 128 ||
      ins.any fun i => overlaps (pkArg b k).1 (pkArg b k).2 (pkArg b i).1 (pkArg b i).2

/-- Access to every argument, in the order of the descriptors (R406). -/
def State.pkAccess (s : State) (u : Nat) (f : PkFn) (b : List Byte) : Except Ends Unit :=
  let a := blkNat b 0 1
  let rs := (List.range 6).filterMap fun k =>
    let d := pkArg b k
    if (f.ins a).contains k then some (s.slotCheck u (BitVec.ofNat 64 d.1) d.2 .slotLoad)
    else if (f.outs a).any (fun x => x.1 == k) then some (s.slotCheck u (BitVec.ofNat 64 d.1) d.2 .slotStore)
    else none
  match rs.find? (fun r => match r with | .error _ => true | .ok _ => false) with
  | some r => r
  | none => .ok ()

/-- The inputs in the order of their descriptors. -/
def State.pkLoad (s : State) (u : Nat) (b : List Byte) : List Nat → Except Ends (State × List (List Byte))
  | [] => .ok (s, [])
  | k :: r => match s.loadAt u (BitVec.ofNat 64 (pkArg b k).1) (pkArg b k).2 .slotLoad with
    | .error e => .error e
    | .ok (s1, x) => match s1.pkLoad u b r with
      | .error e => .error e
      | .ok (s2, xs) => .ok (s2, x :: xs)

/-- The outputs stored. -/
def State.pkStore (s : State) (u : Nat) (e : Nat × Nat) (b : List Byte) : List (Nat × List Byte) → Except Ends State
  | [] => .ok s
  | x :: r => match s.storeAt u (BitVec.ofNat 64 (pkArg b x.1).1) x.2 .slotStore with
    | .error y => .error y
    | .ok s1 => (s1.accCount e 0 x.2.length).pkStore u e b r

/-- The random bytes that a function draws from the engine's DRBG: hedged signing, key generation and encapsulation (R419). -/
def PkFn.rndLen (f : PkFn) (a : Nat) : Nat :=
  match f with
  | .sign => if a = 1 then curveP256.rndLen else if a = 2 then curveP384.rndLen else if a = 3 then 0 else 32
  | .keygen => if a = 1 then curveP256.rndLen else if a = 2 then curveP384.rndLen else if algKem a then 64 else 32
  | .encaps => 32
  | _ => 0

/-- A protected private key of the inputs is unwrapped. -/
def State.pkUnwrap (s : State) (u : Nat) (f : PkFn) (a : Nat) (pkey : Bool) (xs : List (List Byte)) : Except Nat (List (List Byte)) :=
  match f.keyArg with
  | some k =>
    if pkey then match s.unprotect u a (pkSizes a).2.1 (xs.getD k []) with
      | .ok key => .ok (xs.set k key)
      | .error rc => .error rc
    else .ok xs
  | none => .ok xs

/-- The curve of ALG 1 and 2. -/
def curveOf (a : Nat) : Curve := if a = 1 then curveP256 else curveP384

/-- SIGN on message or digest, private key and context; none at the limit of iterations. An ECDSA key outside 1 to n − 1 is no
key of FIPS 186-5: what its signature holds is free (log entry 16). -/
def pkSign (a : Nat) (xs : List (List Byte)) (rnd : List Byte) : Option (List Byte) :=
  let m := xs.getD 0 []
  let k := xs.getD 1 []
  if algDsa a then dsaSign a k (xs.getD 2 []) m rnd
  else if a = 3 then some (edSign k m)
  else
    let c := curveOf a
    let d := beNat k
    some (((if 0 < d ∧ d < c.n then c.sign d (c.draw rnd) m else none)).getD (Config.pkOutput 1 a 2 xs rnd))

/-- VERIFY on message or digest, public key, signature and context. -/
def pkVerify (a : Nat) (xs : List (List Byte)) : Bool :=
  let m := xs.getD 0 []
  let k := xs.getD 1 []
  let g := xs.getD 2 []
  decide (k.length = (pkSizes a).1) && decide (g.length = (pkSizes a).2.2) &&
    if algDsa a then dsaVerify a k (xs.getD 3 []) m g else if a = 3 then edVerify m k g else (curveOf a).verify m k g

/-- KEYGEN: the public and the private key. -/
def pkKeys (a : Nat) (rnd : List Byte) : List Byte × List Byte :=
  if algDsa a then dsaKeys a rnd
  else if algKem a then kemKeys a (rnd.take 32) (rnd.drop 32)
  else if a = 3 then (edPublic rnd, rnd)
  else (curveOf a).keys ((curveOf a).draw rnd)

/-- ENCAPS: ciphertext and shared secret; free for bytes that FIPS 203 takes for no encapsulation key (log entry 16). -/
def pkEncaps (a : Nat) (xs : List (List Byte)) (rnd : List Byte) : List Byte × List Byte :=
  let ek := xs.getD 0 []
  if kemKeyOk a ek then kemEncaps a ek rnd else (Config.pkOutput 4 a 1 xs rnd, Config.pkOutput 4 a 2 xs rnd)

/-- DECAPS: the shared secret; free for bytes that FIPS 203 takes for no decapsulation key (log entry 16). -/
def pkDecaps (a : Nat) (xs : List (List Byte)) : List Byte :=
  let dk := xs.getD 0 []
  if kemPrivOk a dk then kemDecaps a dk (xs.getD 1 []) else Config.pkOutput 5 a 2 xs []

/-- The work of a slot 2 function on its inputs: what it stores, its RC and CC. -/
def pkWork (f : PkFn) (a : Nat) (xs : List (List Byte)) (rnd : List Byte) : List (Nat × List Byte) × Nat × BitVec 2 :=
  let fit (l : List (List Byte)) : List (Nat × List Byte) := List.zipWith (fun o x => (o.1, padTo o.2 x)) (f.outs a) l
  match f with
  | .verify => if pkVerify a xs then ([], 0, 0) else ([], 0x30, 2)
  | .sign => match pkSign a xs rnd with
    | some g => (fit [g], 0, 0)
    | none => ([], 0x31, 2)
  | .keygen => (fit [(pkKeys a rnd).1, (pkKeys a rnd).2], 0, 0)
  | .encaps => (fit [(pkEncaps a xs rnd).1, (pkEncaps a xs rnd).2], 0, 0)
  | .decaps => (fit [pkDecaps a xs], 0, 0)
  | .pkwrap => ([], 0, 0)

/-- The required lengths written into output descriptors that are too short; none where all are long enough. -/
def pkShort (f : PkFn) (a : Nat) (b : List Byte) : Option (List Byte) :=
  let short := (f.outs a).filter fun o => decide ((pkArg b o.1).2 < o.2)
  if short.isEmpty then none else some (short.foldl (fun t o => putBlk t (16 + 16 * o.1) 8 o.2) b)

/-- What a slot 2 function does before its work: the block read and checked, and access to every argument. -/
def State.pkOpen (s : State) (o : OpC) (f : PkFn) : Except Ends (State × List Byte) :=
  let va := s.g o.u o.rb
  match s.slotBlock o.u va 128 with
  | .error y => .error y
  | .ok (s1, b) =>
    if pkRefused f b va.toNat then .error (.stop (excOf 0x0006))
    else match s1.pkAccess o.u f b with
      | .error y => .error y
      | .ok _ => .ok (s1, b)

/-- A function of slot 2 other than PKWRAP. A cut abandons it: nothing is stored, CC 3 (R406, R426). One that draws random bits when
every DRBG has stopped cannot proceed: RC 0x40, as RNDB (R403, R425; log 29). -/
def State.pkRun (s : State) (o : OpC) (f : PkFn) (e : Nat × Nat) : Except Ends State :=
  let va := s.g o.u o.rb
  match s.pkOpen o f with
  | .error y => .error y
  | .ok (s1, b) =>
    let a := blkNat b 0 1
    match pkShort f a b with
    | some b1 => s1.slotEnd o.u va b1 1
    | none => match s1.pkLoad o.u b (f.ins a) with
      | .error y => .error y
      | .ok (s2, xs) => match s2.pkUnwrap o.u f a ((b.getD 1 0).getLsbD 5) xs with
        | .error rc => (s2.keyFail o.u e rc (xs.getD (f.keyArg.getD 0) [])).slotEnd o.u va (putBlk b 2 1 rc) 2
        | .ok ys =>
          let s3 := ((s2.stage e xs.flatten []).accCount e (xs.map List.length).sum 0).cryptoFail o.u e 2 f.cfn (if o.cut.isSome then 0 else o.fails.val)
          if o.cut.isSome ∨ 2 ≤ o.fails.val then .ok (s3.setCc o.u 3)
          else if f.rndLen a ≠ 0 ∧ s3.drbgServes e = false then s3.slotEnd o.u va (putBlk b 2 1 0x40) 2
          else
            let d := if f.rndLen a = 0 then ([], s3) else s3.generate e (f.rndLen a) false
            let r := pkWork f a ys d.1
            let s4 := d.2
            match s4.pkStore o.u e b r.1 with
            | .error y => .error y
            | .ok s5 => s5.slotEnd o.u va (putBlk b 2 1 r.2.1) r.2.2

def formPk (o : OpC) (f : PkFn) (s : State) : Insn := formSlot o 2 f.cfn 0 128 (fun s e => s.pkRun o f e) s

/-- SIGN (R419). -/
def insnSign (o : OpC) (s : State) : Insn := formPk o .sign s
def execSign (o : OpC) (s : State) : Result := .next (s.insn (insnSign o s))

/-- VERIFY (R419). -/
def insnVerify (o : OpC) (s : State) : Insn := formPk o .verify s
def execVerify (o : OpC) (s : State) : Result := .next (s.insn (insnVerify o s))

/-- KEYGEN (R419). -/
def insnKeygen (o : OpC) (s : State) : Insn := formPk o .keygen s
def execKeygen (o : OpC) (s : State) : Result := .next (s.insn (insnKeygen o s))

/-- ENCAPS (R419). -/
def insnEncaps (o : OpC) (s : State) : Insn := formPk o .encaps s
def execEncaps (o : OpC) (s : State) : Result := .next (s.insn (insnEncaps o s))

/-- DECAPS (R419). -/
def insnDecaps (o : OpC) (s : State) : Insn := formPk o .decaps s
def execDecaps (o : OpC) (s : State) : Result := .next (s.insn (insnDecaps o s))

/-- PKWRAP of slot 2: the clear private key at A1 becomes a protected-key block at A2 (R422). -/
def State.pkwrapPk (s : State) (o : OpC) (e : Nat × Nat) : Except Ends State :=
  let va := s.g o.u o.rb
  match s.pkOpen o .pkwrap with
  | .error y => .error y
  | .ok (s1, b) =>
    let a := blkNat b 0 1
    match pkShort .pkwrap a b with
    | some b1 => s1.slotEnd o.u va b1 1
    | none => match (s1.keySlotOf o.u).bind fun k => (s1.wrapKey k).map fun w => (k, w) with
      | none => s1.slotEnd o.u va (putBlk b 2 1 0x22) 2
      | some w => match s1.pkLoad o.u b [1] with
        | .error y => .error y
        | .ok (s2, xs) =>
          let s3 := ((s2.stage e xs.flatten []).accCount e (xs.map List.length).sum 0).cryptoFail o.u e 2 0x20 (if o.cut.isSome then 0 else o.fails.val)
          if o.cut.isSome ∨ 2 ≤ o.fails.val then .ok (s3.setCc o.u 3)
          else match s3.pkStore o.u e b [(2, protect a w.1 w.2 (xs.getD 0 []))] with
            | .error y => .error y
            | .ok s4 => s4.slotEnd o.u va (putBlk b 2 1 0) 0

/-- PKWRAP_PRIVATE (R422): least state supervisor. -/
def insnPkwrapPrivate (o : OpC) (s : State) : Insn := formSlot o 2 0x20 1 128 (fun s e => s.pkwrapPk o e) s
def execPkwrapPrivate (o : OpC) (s : State) : Result := .next (s.insn (insnPkwrapPrivate o s))

/-! ## Slot 3 (R423, R424) -/

/-- RNDG: 64 bits of the core's buffer, refilled when it holds too few; it waits when no engine refills it, and gives 0 and CC 2 when
no instance is in service. In CHECKED mode each pass draws its own value and the second is discarded (R191). -/
def State.rndg (s : State) (u : Nat) (ra : BitVec 5) : Except Ends State :=
  if s.sources.isEmpty then .ok ((s.setG u ra 0).setCc u 2)
  else
    let k := s.coreOf u
    let n := if (s.unit u).checked then 16 else 8
    let s1 := if (s.core k).rnd.length < n then s.refillRnd k else s
    let r := (s1.core k).rnd
    if r.length < n then .error .wait
    else .ok (((s1.modCore k fun c => { c with rnd := r.drop n }).setG u ra (loaded (r.take 8))).setCc u 0)

/-- A slot 3 instruction without a block. -/
def formRnd (o : OpC) (cfn least : Nat) (spec : Bool) (run : State → Except Ends State) (s : State) : Insn :=
  if s.slotGone 3 then goneSlot o.u (wordC 3 o.ra o.rb cfn o.res)
  else
    { u := o.u, word := wordC 3 o.ra o.rb cfn o.res, lacks := !(isCpu o.u), least := least, spec := o.res != 0 || spec,
      restricted := true, body := run }

/-- RNDG (R424). -/
def insnRndg (o : OpC) (s : State) : Insn := formRnd o 1 0 (o.rb != 0) (fun s => s.rndg o.u o.ra) s
def execRndg (o : OpC) (s : State) : Result := .next (s.insn (insnRndg o s))

/-- RESEED (R423). -/
def insnReseed (o : OpC) (s : State) : Insn := formRnd o 3 1 (o.ra != 0 || o.rb != 0) (fun s => .ok (s.reseedAll.setCc o.u 0)) s
def execReseed (o : OpC) (s : State) : Result := .next (s.insn (insnReseed o s))

/-- A reserved field of an RNDB block is nonzero. -/
def rndbBad (b : List Byte) : Bool := blkNat b 0 1 % 128 != 0 || blkNat b 2 6 != 0 || blkNat b 0x18 8 != 0

/-- RNDB on its block (R424): up to 64 KB in one execution, or as many bytes as a cut leaves. -/
def State.rndb (s : State) (o : OpC) (e : Nat × Nat) : Except Ends State :=
  let va := s.g o.u o.rb
  match s.slotBlock o.u va 32 with
  | .error y => .error y
  | .ok (s1, b) =>
    let dst := blkNat b 8 8
    let len := blkNat b 0x10 8
    if rndbBad b || overlaps dst len va.toNat 32 then .error (.stop (excOf 0x0006))
    else if s1.sources.isEmpty then s1.slotEnd o.u va (putBlk b 1 1 0x40) 2
    else
      let most := match o.cut with
        | some n => min n (min len 65536)
        | none => min len 65536
      let room := s1.roomAt o.u 32 dst most
      if room.1 = 0 ∧ 0 < most then .error (stopOf room.2)
      else
        let r := if room.1 = 0 then ([], s1) else s1.generate e room.1 ((b.getD 0 0).getLsbD 7)
        match r.2.storeAt o.u (BitVec.ofNat 64 dst) r.1 .slotStore with
        | .error y => .error y
        | .ok s2 => ((s2.stage e [] r.1).accCount e 0 room.1).slotEnd o.u va
            (putBlk (putBlk (putBlk b 1 1 0) 8 8 ((dst + room.1) % 2 ^ 64)) 0x10 8 (len - room.1)) (if room.1 = len then 0 else 3)

/-- RNDB (R424). -/
def insnRndb (o : OpC) (s : State) : Insn := formSlot o 3 2 0 32 (fun s e => s.rndb o e) s
def execRndb (o : OpC) (s : State) : Result := .next (s.insn (insnRndb o s))

/-! ## Words of other slots, and of no instruction (R97, R116, R117) -/

/-- Slot s of 4 to 15 is populated (R5, R117). -/
def State.slotFitted (s : State) (slot : Nat) : Bool :=
  match s.fuses.custom with
  | some m => decide (8 ≤ slot) && m.getLsbD (slot - 8)
  | none => false

/-- A word of slot 4 to 15: 0x0006 or 0x001C where the slot is not populated; in a customer's slot 0x0001 for a cfn that the
slot does not assign and 0x0006 for nonzero [5:0] (R116). What the logic of the slot does is not in the spec (R5). -/
def State.otherSlot (s : State) (u : Nat) (w : Word) : Result :=
  if isCpu u && s.slotFitted (Word.op w - 0x70) then
    match s.enter { u := u, word := w, lacks := !(Config.slotAssigned (Word.op w - 0x70) (w.toNat / 64 % 256)), spec := w.toNat % 64 != 0,
                    restricted := true, body := fun s => .ok s } with
    | .error t => .next t
    | .ok _ => .refused .customerSlotLogic
  else .next (s.insn (goneSlot u w))

/-- COPROCESSOR_UNAVAILABLE (R116). -/
def execCoprocessorUnavailable (u : Uid) (w : Word) (s : State) : Result :=
  if slotWord 4 w then s.otherSlot u w else .fault .illFormedCommand

/-- CUSTOMER_SLOT_INSTRUCTION (R116, R117). -/
def execCustomerSlotInstruction (u : Uid) (w : Word) (s : State) : Result :=
  if slotWord 8 w then s.otherSlot u w else .fault .illFormedCommand

/-- A word that is no instruction: 0x0001, but in a slot whose engines are all out of service, where cfn is not decoded; CPUSIG
with an order that it does not have: least state supervisor, 0x0006 (R62, R98; log 41). -/
def insnOperation (u : Uid) (w : Word) (s : State) : Insn :=
  if otherOrder w then { u := u, word := w, least := 1, spec := true, restricted := true, body := fun s => .ok s }
  else if isCpu u && decide (0x70 ≤ Word.op w) && decide (Word.op w ≤ 0x73) && s.slotGone (Word.op w - 0x70) then goneSlot u w
  else { u := u, word := w, lacks := true, body := fun s => .ok s }

/-- OPERATION_EXCEPTION (R97). -/
def execOperationException (u : Uid) (w : Word) (s : State) : Result :=
  if noInstruction u w then .next (s.insn (insnOperation u w s)) else .fault .illFormedCommand

end Sys2Proof.Machine
end

