-- ==== Sys2Proof/Machine/Checking.lean ====
section
/-! DEFINITION. Events at the executing units: interruptions taken at a boundary (R75 to R89, R333), time conditions (R56),
checked execution and sparing (R193 to R204, R535), random numbers (R423 to R425). An event whose condition does not hold
changes nothing (log entry 20). -/
namespace Sys2Proof.Machine
open Sys2Proof

/-- What goes on only while the module is not stopped (R454). -/
def State.unlessFrozen (s t : State) : State := if s.frozen then s else t

/-! ## Interruptions -/

/-- A condition of a class is taken at the boundary of unit u, if it comes next there; a host-level one first ends IRUN
(R68). -/
def State.takeNext (s : State) (u : Nat) (p : Bound → Bool) : State :=
  let s1 := match s.boundary u with
    | .exit 2 q => s.act u (.exit 2 q)
    | _ => s
  let b := s1.boundary u
  if p b then s1.act u b else s

def Bound.isExternal : Bound → Bool
  | .external _ => true
  | _ => false

def Bound.isIo : Bound → Bool
  | .io _ => true
  | _ => false

def Bound.isMachine : Bound → Bool
  | .machine _ => true
  | _ => false

/-- EXTERNAL_INTERRUPTION (R85). -/
def execExternalInterruption (u : Uid) (s : State) : Result := .next (s.takeNext u Bound.isExternal)

/-- IO_INTERRUPTION (R333). -/
def execIoInterruption (n : CpuNo) (s : State) : Result := .next (s.takeNext n Bound.isIo)

/-- MACHINE_CHECK_INTERRUPTION (R86). -/
def execMachineCheckInterruption (n : CpuNo) (s : State) : Result := .next (s.takeNext n Bound.isMachine)

/-- RESTART_INTERRUPTION (R87). -/
def execRestartInterruption (n : CpuNo) (s : State) : Result := .next (s.takeNext n fun b => b == .restart)

/-- CPU_TIMER_CONDITION (R56): time passes until c4 of the unit is negative. -/
def execCpuTimerCondition (u : Uid) (s : State) : Result :=
  let v := s.readC u 4
  .next (if bit v 63 || !s.powered then s else s.passUnits (v.toNat + 1))

/-- CLOCK_COMPARATOR_CONDITION (R56): time passes until time-of-day is above c5 of the unit. -/
def execClockComparatorCondition (u : Uid) (s : State) : Result :=
  let v := (s.readC u 5).toNat
  .next (if v < s.tod.toNat ∨ v = 2 ^ 64 - 1 ∨ s.powered = false then s else s.passUnits (v + 1 - s.tod.toNat))

/-! ## Checked execution (R193 to R198) -/

/-- MISMATCH_RETRY (R193). -/
def execMismatchRetry (n : CpuNo) (s : State) : Result := .next (s.unlessFrozen (s.mismatch n false))

/-- SQUASHED_MISMATCH (R194): kind 0x21 with the address of the instruction. -/
def execSquashedMismatch (n : CpuNo) (ia : Word) (s : State) : Result :=
  .next (if s.issuing n && (s.unit n).checked && !s.frozen then s.unitSend n 0x21 1 (checkSynd n ia.toNat) else s)

/-- LOGIC_SELFTEST_END (R193, R195); an injection of type 0x05 makes it fail in the second-pass path (R469). -/
def execLogicSelftestEnd (n : CpuNo) (v : Verdict) (s : State) : Result :=
  let k := s.coreOf n
  .next (s.unlessFrozen (match s.injAt (k / 26) (k % 26) 5 with
    | some x => if (s.unit n).selfTest then (s.dropInj x).selfTestEnd n .secondPass true else s
    | none => s.selfTestEnd n v false))

/-- COMPARATOR_FAULT (R198). -/
def execComparatorFault (n : CpuNo) (parity : Bool) (s : State) : Result := .next (s.unlessFrozen (s.comparatorFault n parity false))

/-! ## Sparing (R199 to R204, R535) -/

/-- SPARE_SELFTEST_END (R199). -/
def execSpareSelftestEnd (die : CxDie) (cluster : Fin 2) (pass : Bool) (s : State) : Result :=
  .next (s.unlessFrozen (s.spareTestEnd die cluster pass))

/-- MOVE_COMPLETE (R201). -/
def execMoveComplete (n : CpuNo) (readable : Bool) (s : State) : Result := .next (s.unlessFrozen (s.moveComplete n readable))

/-- FAILING_CORE_SWEEP_END (R201). -/
def execFailingCoreSweepEnd (core : CoreNo) (s : State) : Result := .next (s.unlessFrozen (s.coreSweepEnd core))

/-- SV_CMAP_WRITE (R33, R535). -/
def execSvCmapWrite (n : CpuNo) (v : Dword) (s : State) : Result := .next (s.regWrite .mgmt (rCmap n) v)

/-! ## Random numbers (R423 to R425) -/

/-- RANDOM_BUFFER_REFILL (R424). -/
def execRandomBufferRefill (core : CoreNo) (s : State) : Result :=
  .next (s.unlessFrozen (if (s.core core).rnd.length < 64 then s.refillRnd core else s))

/-- DRBG_RESEED_COUNT (R423). -/
def execDrbgReseedCount (die : Fin 10) (inst : Fin 8) (s : State) : Result :=
  let e := (die.val, inst.val)
  .next (s.unlessFrozen (if (accEngines true).contains e && s.drbgServes e then s.reseedCount e else s))

/-- HEALTH_TEST_FAILED (R425). -/
def execHealthTestFailed (die : Fin 10) (s : State) : Result := .next (s.unlessFrozen (s.healthFail die))

end Sys2Proof.Machine
end

