-- ==== Sys2Proof/Machine/Fabric.lean ====
section
/-! DEFINITION. Events in the caches, at the home dies (R248 to R275) and at the DRAM controllers (R287 to R307). -/
namespace Sys2Proof.Machine
open Sys2Proof

/-! ## Fills, victims and home requests (R249 to R263) -/

/-- LINE_FILL_ARRIVAL (R253). -/
def execLineFillArrival (core : CoreNo) (a : Pa) (s : State) : Result := .next (s.unlessFrozen (s.fillArrives core (a.toNat / 256)))

/-- VICTIM_ACCEPTED (R255). -/
def execVictimAccepted (core : CoreNo) (a : Pa) (s : State) : Result := .next (s.unlessFrozen (s.victimAccepted core (a.toNat / 256)))

/-- HOME_READ_REQUEST (R260). -/
def execHomeReadRequest (die : CxDie) (a : Pa) (s : State) : Result :=
  .next (s.unlessFrozen (if a.toNat < s.dramSize then (s.homeRead die a.toNat).1 else s))

/-- HOME_OWNERSHIP_REQUEST (R260). -/
def execHomeOwnershipRequest (die : CxDie) (a : Pa) (s : State) : Result :=
  .next (s.unlessFrozen (if a.toNat < s.dramSize then s.homeOwn die a.toNat else s))

/-- HOME_WRITEBACK (R260). -/
def execHomeWriteback (die : CxDie) (a : Pa) (s : State) : Result :=
  .next (s.unlessFrozen (if a.toNat < s.dramSize then s.homeWriteback die a.toNat else s))

/-- COHERENCE_REMOVAL (R262): a fill still in a miss buffer completes first; the removed sectors that are dirty go home. -/
def execCoherenceRemoval (core : CoreNo) (a : Pa) (s : State) : Result :=
  .next (s.unlessFrozen (s.removeL2 core (a.toNat / 256) true))

/-- The bytes of an engine's access lie in DRAM. -/
def State.inDram (s : State) (a n : Nat) : Bool := decide (a + n ≤ s.dramSize)

/-- ENGINE_STORAGE_READ (R263). -/
def execEngineStorageRead (a : Pa) (len : Nat) (s : State) : Result :=
  if 1 ≤ len then
    .next (s.unlessFrozen (if s.inDram a.toNat len then s.engRead a.toNat len else s))
  else .fault .illFormedCommand

/-- ENGINE_STORAGE_WRITE (R263, R245). -/
def execEngineStorageWrite (a : Pa) (data : List Byte) (s : State) : Result :=
  if 1 ≤ data.length then
    .next (s.unlessFrozen (if s.inDram a.toNat data.length then s.engWrite a.toNat data else s))
  else .fault .illFormedCommand

/-! ## Disable and enable (R268 to R271) -/

/-- L2_SWEEP_END (R268). -/
def execL2SweepEnd (core : CoreNo) (s : State) : Result := .next (s.unlessFrozen (s.l2SweepEnd core))

/-- L3_SWEEP_END (R271). -/
def execL3SweepEnd (die : CxDie) (s : State) : Result := .next (s.unlessFrozen (s.l3SweepEnd die))

/-- A write of a register with one bit as the row names it. -/
def State.writeBit (s : State) (w : Writer) (a : Nat) (v : Dword) (b : Nat) (on : Bool) : State := s.regWrite w a (setBit v b on)

/-- L2_CTL_EN_CLEAR (R268). -/
def execL2CtlEnClear (w : Writer) (core : CoreNo) (s : State) : Result := .next (s.writeBit w (rL2Ctl core) 0 63 false)

/-- L2_CTL_EN_SET (R270). -/
def execL2CtlEnSet (w : Writer) (core : CoreNo) (s : State) : Result := .next (s.writeBit w (rL2Ctl core) 0 63 true)

/-- L3_CTL_EN_CLEAR (R271): the other fields are written as they stand. -/
def execL3CtlEnClear (w : Writer) (die : CxDie) (s : State) : Result := .next (s.writeBit w (rL3Ctl die) (s.reg (rL3Ctl die)) 63 false)

/-- L3_CTL_EN_SET (R271). -/
def execL3CtlEnSet (w : Writer) (die : CxDie) (s : State) : Result := .next (s.writeBit w (rL3Ctl die) (s.reg (rL3Ctl die)) 63 true)

/-! ## DRAM controllers (R287 to R307) -/

/-- DRAM_READ_REQUEST (R288). -/
def execDramReadRequest (c : Fin 16) (a : Pa) (s : State) : Result :=
  .next (s.unlessFrozen (if s.onChannel c a.toNat then s.readRequest c (a.toNat / 128) else s))

/-- DRAM_WRITE_REQUEST (R287). -/
def execDramWriteRequest (c : Fin 16) (a : Pa) (data : List Byte) (poison : Bool) (s : State) : Result :=
  if inBlock 128 a.toNat data.length then
    .next (s.unlessFrozen (if s.onChannel c a.toNat then s.writeRequest a.toNat data poison else s))
  else .fault .illFormedCommand

/-- DRAM_COMMAND_ISSUE (R290); a command refused with a CA parity error is reported and issued again (R306). A stopped
module issues forced refreshes only, and none without clocks or power (R454, R501). -/
def execDramCommandIssue (c : Fin 16) (caErr : Bool) (s : State) : Result :=
  .next (if s.terminal || !s.powered then s
    else if s.frozen then s.forceDebts c
    else
      let s1 := if caErr then s.dcSend c 0x4A 1 0 31 false else s
      s1.issueCommand c)

/-- REFRESH_INTERVAL (R293): refresh goes on through a checkstop (R454). -/
def execRefreshInterval (c : Fin 16) (s : State) : Result := .next (if s.terminal || !s.powered then s else s.refreshInterval c)

/-- DC_REF_MODE_WRITE (R296). -/
def execDcRefModeWrite (w : Writer) (c : Fin 16) (v : Dword) (s : State) : Result := .next (s.regWrite w (rDc c 0x18) v)

/-- DC_TRAIN_START (R298). -/
def execDcTrainStart (w : Writer) (c : Fin 16) (v : Dword) (s : State) : Result := .next (s.writeBit w (rDc c 0x20) v 61 true)

/-- TRAINING_END (R298). -/
def execTrainingEnd (c : Fin 16) (ok : Bool) (s : State) : Result := .next (if s.powered && !s.terminal then s.trainingEnd c ok else s)

/-- SELF_REFRESH_ENTRY (R301). -/
def execSelfRefreshEntry (c : Fin 16) (s : State) : Result := .next (s.unlessFrozen (s.srEntry c))

/-- SELF_REFRESH_EXIT (R302). -/
def execSelfRefreshExit (c : Fin 16) (s : State) : Result := .next (s.unlessFrozen (s.srExit c))

/-- DC_CTL_ZERO (R304): a write of 1 to ZERO with EN 1. -/
def execDcCtlZero (w : Writer) (c : Fin 16) (v : Dword) (s : State) : Result := .next (s.writeBit w (rDc c 0) v 60 true)

/-- ZEROING_END (R304): the zeroing of a lifecycle change goes on while the rest of the module is stopped (R489). -/
def execZeroingEnd (c : Fin 16) (s : State) : Result := .next (if s.powered && !s.terminal && !s.chkstop then s.endZero c else s)

/-- DC_CTL_EN_SET (R307). -/
def execDcCtlEnSet (w : Writer) (c : Fin 16) (v : Dword) (s : State) : Result := .next (s.writeBit w (rDc c 0) v 63 true)

/-- DC_CTL_EN_CLEAR (R305). -/
def execDcCtlEnClear (w : Writer) (c : Fin 16) (v : Dword) (s : State) : Result := .next (s.writeBit w (rDc c 0) v 63 false)

/-- DRAIN_END (R305). -/
def execDrainEnd (c : Fin 16) (s : State) : Result := .next (s.unlessFrozen (s.endDrain c))

end Sys2Proof.Machine
end

