-- ==== Sys2Proof/Machine/ChannelCmd.lean ====
section
/-! DEFINITION. Events and register writes of the channel subsystem (R321, R338 to R347, R356 to R362), the channel ports
(R364 to R398), the accelerators (R426 to R428) and the working store (R435 to R449). -/
namespace Sys2Proof.Machine
open Sys2Proof

/-! ## Channel subsystem -/

/-- A mirror write in flight meets the journal unit's, if one does (R440). -/
def State.collideAny (s : State) (c : Option (Nat × PortBWrite)) : State :=
  match c with
  | some x => s.collide x.1 x.2
  | none => s

/-- JOURNAL_STATE_DURABLE (R338), a mirror write of the failed die still in flight before it (R440). -/
def execJournalStateDurable (w : DurableState) (s : State) : Result :=
  .next (s.unlessFrozen ((s.collideAny (w.late.map fun b => (w.p.val, b))).journalDurable w.p))

/-- MIRROR_LINK_DOWN (R340). -/
def execMirrorLinkDown (s : State) : Result := .next (s.unlessFrozen s.mirrorDown)

/-- MIRROR_LINK_RETURN (R340). -/
def execMirrorLinkReturn (s : State) : Result := .next (s.unlessFrozen s.mirrorReturn)

/-- MIRROR_COPY_END (R340). -/
def execMirrorCopyEnd (s : State) : Result := .next (s.unlessFrozen s.mirrorCopied)

/-- ENGINE_FAILURE (R341, R359). -/
def execEngineFailure (die : ChDie) (e : Fin 48) (s : State) : Result := .next (s.unlessFrozen (s.engineFail (chNum die) e false))

/-- CE_CTL_EN_SET (R362, R356). -/
def execCeCtlEnSet (w : Writer) (die : ChDie) (e : Fin 48) (v : Dword) (s : State) : Result :=
  .next (s.writeBit w (rCe (chNum die) e 0) v 63 true)

/-- CE_CTL_EN_CLEAR (R341). -/
def execCeCtlEnClear (w : Writer) (die : ChDie) (e : Fin 48) (v : Dword) (s : State) : Result :=
  .next (s.writeBit w (rCe (chNum die) e 0) v 63 false)

/-- CS_CTL_EN_SET (R361). -/
def execCsCtlEnSet (w : Writer) (die : ChDie) (v : Dword) (s : State) : Result := .next (s.writeBit w (rCs (chNum die) 0) v 63 true)

/-- CHANNEL_DIE_FAILURE (R343, R344); `coll` is a mirror write of the failed die still in flight to the word of an exchange that its
survivor resumes (R440). -/
def execChannelDieFailure (die : ChDie) (coll : Option (SubNo × PortBWrite)) (s : State) : Result :=
  .next (s.unlessFrozen ((s.chDieFail (chNum die)).collideAny (match coll with
    | some x => if s.mirrorUp && s.dieState (chNum die) != 3 && (s.slot x.1).running && ownerDie x.1 == chNum die then some (x.1.val, x.2) else none
    | none => none)))

/-- QUIESCE_GRACE_EXPIRY (R347). -/
def execQuiesceGraceExpiry (n : Fin 96) (s : State) : Result := .next (s.unlessFrozen (s.graceExpiry n))

/-- SCHEDULING_ROUND (R321). -/
def execSchedulingRound (die : ChDie) (port : Fin 12) (s : State) : Result := .next (s.unlessFrozen (s.schedRound (chNum die) port))

/-! ## Links and flow control (R364, R368, R378, R385) -/

/-- LINK_UP (R364). -/
def execLinkUp (die : ChDie) (port : Fin 12) (peer200 : Bool) (s : State) : Result :=
  .next (s.unlessFrozen (s.linkComesUp (chNum die) port peer200))

/-- LINK_DOWN (R385). -/
def execLinkDown (die : ChDie) (port : Fin 12) (s : State) : Result := .next (s.unlessFrozen (s.linkGoesDown (chNum die) port))

/-- PFC_FRAME (R368): only the priority PCP counts, and only with PFC_EN 1; IEEE 802.1Qbb numbers the times by priority from
the frame's first. -/
def execPfcFrame (die : ChDie) (port : Fin 12) (enabled : BitVec 8) (times : BitVec 128) (s : State) : Result :=
  let d := chNum die
  let v := s.reg (rCl d port 0x18)
  let pcp := fget v 59 3
  .next (s.unlessFrozen (if bit v 62 && s.linkLive d port && enabled.getLsbD pcp
    then s.pause d port (times.toNat / 2 ^ (112 - 16 * pcp) % 65536) else s))

/-- PAUSE_FRAME (R368): obeyed with PFC_EN 0. -/
def execPauseFrame (die : ChDie) (port : Fin 12) (time : BitVec 16) (s : State) : Result :=
  let d := chNum die
  .next (s.unlessFrozen (if !(bit (s.reg (rCl d port 0x18)) 62) && s.linkLive d port then s.pause d port time.toNat else s))

/-- PAUSE_TIME_EXPIRY (R368). -/
def execPauseTimeExpiry (die : ChDie) (port : Fin 12) (s : State) : Result :=
  .next (s.unlessFrozen (if (s.port (chNum die) port).paused then s.unpause (chNum die) port else s))

/-- RECEIVE_BUFFER_XON (R368). -/
def execReceiveBufferXon (die : ChDie) (port : Fin 12) (s : State) : Result := .next (s.unlessFrozen (s.xon (chNum die) port))

/-- PFC_REPEAT_EXPIRY (R368). -/
def execPfcRepeatExpiry (die : ChDie) (port : Fin 12) (s : State) : Result := .next (s.unlessFrozen (s.pfcRepeat (chNum die) port))

/-- PAUSE_MAX_EXCEEDED (R378). -/
def execPauseMaxExceeded (die : ChDie) (port : Fin 12) (s : State) : Result := .next (s.unlessFrozen (s.pauseMax (chNum die) port))

/-! ## Received frames (R371 to R391) -/

/-- LOGIN_REQ (R381). -/
def execLoginReq (f : RxFrame) (s : State) : Result := .next (s.unlessFrozen (s.rxLoginReq f))

/-- LOGIN_ACC (R381, R383). -/
def execLoginAcc (f : RxFrame) (s : State) : Result :=
  .next (s.unlessFrozen (s.receive 0x02 f fun t k => t.loginAcc k (rxData f)))

/-- LOGIN_REJ (R383). -/
def execLoginRej (f : RxFrame) (s : State) : Result := .next (s.unlessFrozen (s.receive 0x03 f fun t k => t.rxLoginRej k f))

/-- LOGOUT (R385, R386). -/
def execLogout (f : RxFrame) (s : State) : Result :=
  .next (s.unlessFrozen (s.receive 0x04 f fun t k => if t.lgnState k = 3 then t.loseLogin k true else t))

/-- ECHO (R384). -/
def execEcho (f : RxFrame) (s : State) : Result :=
  .next (s.unlessFrozen (s.receive 0x05 f fun t k => if t.lgnState k = 3 then t.sendFrame k (t.frameOn k 0x06 []) else t))

/-- ECHO_REPLY (R384): receiving it has restarted the keepalive timer. -/
def execEchoReply (f : RxFrame) (s : State) : Result := .next (s.unlessFrozen (s.receive 0x06 f fun t _ => t))

/-- A frame of an exchange is taken on an active login only. -/
def State.onActive (s : State) (typ : Nat) (f : RxFrame) : State :=
  s.receive typ f fun t k => if t.lgnState k = 3 then t.rxExchange k typ f else t.discard (chNum f.die) f.port.val

/-- DATA (R376). -/
def execData (f : RxFrame) (s : State) : Result := .next (s.unlessFrozen (s.onActive 0x11 f))

/-- ACK (R374, R376). -/
def execAck (f : RxFrame) (s : State) : Result := .next (s.unlessFrozen (s.onActive 0x12 f))

/-- STATUS (R373). -/
def execStatus (f : RxFrame) (s : State) : Result := .next (s.unlessFrozen (s.onActive 0x13 f))

/-- WORKING (R379). -/
def execWorking (f : RxFrame) (s : State) : Result := .next (s.unlessFrozen (s.onActive 0x16 f))

/-- ABORT_ACK (R387, R388). -/
def execAbortAck (f : RxFrame) (s : State) : Result :=
  .next (s.unlessFrozen (s.receive 0x19 f fun t k => if t.lgnState k = 3 then t.rxAbortAck f else t.discard (chNum f.die) f.port.val))

/-! ## Timers (R374 to R387) -/

/-- ACK_DELAY_EXPIRY (R374). -/
def execAckDelayExpiry (p : SubNo) (s : State) : Result := .next (s.unlessFrozen (s.ackDelay p))

/-- ACK_TIMEOUT (R376, R377). -/
def execAckTimeout (p : SubNo) (s : State) : Result := .next (s.unlessFrozen (s.ackTimeout p))

/-- STATUS_WAIT_EXPIRY (R379). -/
def execStatusWaitExpiry (p : SubNo) (s : State) : Result := .next (s.unlessFrozen (s.statusWait p))

/-- Login n of a channel die. -/
def loginKey (die : ChDie) (n : Fin 4096) : Nat := chNum die * 4096 + n.val

/-- KEEPALIVE_EXPIRY (R384). -/
def execKeepaliveExpiry (die : ChDie) (slot : Fin 4096) (s : State) : Result := .next (s.unlessFrozen (s.keepalive (loginKey die slot)))

/-- LOGIN_ANSWER_TIMEOUT (R383). -/
def execLoginAnswerTimeout (die : ChDie) (slot : Fin 4096) (s : State) : Result := .next (s.unlessFrozen (s.loginTimeout (loginKey die slot)))

/-- LOGIN_RETRY_EXPIRY (R383). -/
def execLoginRetryExpiry (die : ChDie) (slot : Fin 4096) (s : State) : Result := .next (s.unlessFrozen (s.loginRetry (loginKey die slot)))

/-- ABORT_RESEND_EXPIRY (R387). -/
def execAbortResendExpiry (xid : Word) (s : State) : Result := .next (s.unlessFrozen (s.abortResend xid.toNat))

/-! ## Enables of the ports and login slots (R383, R397, R398) -/

/-- CL_CTL_EN_SET (R397). -/
def execClCtlEnSet (w : Writer) (die : ChDie) (port : Fin 12) (v : Dword) (s : State) : Result :=
  .next (s.writeBit w (rCl (chNum die) port 0) v 63 true)

/-- CL_CTL_EN_CLEAR (R385). -/
def execClCtlEnClear (w : Writer) (die : ChDie) (port : Fin 12) (v : Dword) (s : State) : Result :=
  .next (s.writeBit w (rCl (chNum die) port 0) v 63 false)

/-- CL_LGN_ADDR_EN_SET (R398). -/
def execClLgnAddrEnSet (w : Writer) (die : ChDie) (slot : Fin 4096) (v : Dword) (s : State) : Result :=
  .next (s.writeBit w (rLgnAddr (chNum die) slot) v 63 true)

/-- CL_LGN_ADDR_EN_CLEAR (R383). -/
def execClLgnAddrEnClear (w : Writer) (die : ChDie) (slot : Fin 4096) (v : Dword) (s : State) : Result :=
  .next (s.writeBit w (rLgnAddr (chNum die) slot) v 63 false)

/-! ## Accelerators (R426 to R428) -/

/-- ACC_CTL_EN_SET (R428). -/
def execAccCtlEnSet (w : Writer) (die : Fin 10) (inst : Fin 8) (v : Dword) (s : State) : Result :=
  .next (s.writeBit w (rAcc die inst 0) v 63 true)

/-- ACC_CTL_EN_CLEAR (R426). -/
def execAccCtlEnClear (w : Writer) (die : Fin 10) (inst : Fin 8) (v : Dword) (s : State) : Result :=
  .next (s.writeBit w (rAcc die inst 0) v 63 false)

/-- ACCELERATOR_SELFTEST_END (R415, R426). -/
def execAcceleratorSelftestEnd (die : Fin 10) (inst : Fin 8) (pass : Bool) (s : State) : Result :=
  .next (s.unlessFrozen (s.accTestEnd (die, inst) pass))

/-! ## Working store (R435 to R449) -/

/-- The number of a die with working store. -/
def wsNum (d : WsDie) : Nat := 8 + d.val

/-- WS_BANK_OWN_WRITE (R437): by the management plane, or by an engine of the die. -/
def execWsBankOwnWrite (eng : Option (Fin 48)) (die : WsDie) (bank : Fin 128) (v : Dword) (s : State) : Result :=
  let a := rBankOwn (wsNum die) bank
  .next (match eng with
    | none => s.regWriteBy .mgmt none a v
    | some e => s.unlessFrozen (if die.val = 0 then s.regWriteBy (.engine 0) (some e) a v
      else if die.val = 1 then s.regWriteBy (.engine 1) (some e) a v else s))

/-- BANK_COPY_END (R442). -/
def execBankCopyEnd (die : WsDie) (s : State) : Result := .next (s.unlessFrozen (s.copyEnd (wsNum die)))

/-- BANK_MARCH_END (R442). -/
def execBankMarchEnd (die : WsDie) (pass : Bool) (s : State) : Result := .next (s.unlessFrozen (s.marchEnd (wsNum die) pass))

/-- TEST_IN_PLACE_END (R444). -/
def execTestInPlaceEnd (die : WsDie) (bank : Fin 128) (pass : Bool) (s : State) : Result :=
  .next (s.unlessFrozen (s.inPlaceEnd (wsNum die) bank pass))

/-- WS_TEST_EN_SET (R449). -/
def execWsTestEnSet (w : Writer) (die : WsDie) (v : Dword) (s : State) : Result :=
  .next (s.writeBit w (regAddr 7 0 (wsNum die) 0x10) v 63 true)

/-- WS_VAULT_WIPE (R445, R446): the security processor's command. -/
def execWsVaultWipe (s : State) : Result :=
  .next (if s.powered && s.boot.done.contains 1 && s.rf rVault 62 1 == 0 then s.wipeVault 4 else s)

/-- VAULT_WIPE_END (R421, R446). -/
def execVaultWipeEnd (failed : List (Fin 4)) (s : State) : Result :=
  .next (if s.powered then s.wipeEnd (failed.map (·.val)) else s)

/-- TAMPER_INDICATION (R421, R528). -/
def execTamperIndication (s : State) : Result :=
  .next (if s.powered then (s.wipeVault 2).send 10 0x12 0x9F 3 0 else s)

end Sys2Proof.Machine
end

