-- ==== Sys2Proof/Machine/Float.lean ====
section
/-! DEFINITION. Floating-point arithmetic as values (R151 to R170): unpacking, one rounding of an exact result, NaN
selection, and each operation. -/
namespace Sys2Proof.Machine
open Sys2Proof

/-- A format: precision with the hidden bit, exponent field width (R151). -/
structure Fmt where
  prec : Nat
  ew : Nat
  deriving DecidableEq, Repr

def fmtS : Fmt := ⟨24, 8⟩
def fmtD : Fmt := ⟨53, 11⟩

/-- Exponent bias (R151). -/
def Fmt.bias (f : Fmt) : Nat := 2 ^ (f.ew - 1) - 1
/-- Width in bits of an encoding. -/
def Fmt.width (f : Fmt) : Nat := f.prec + f.ew
/-- The exponent of the smallest normal number. -/
def Fmt.emin (f : Fmt) : Int := 1 - (f.bias : Int)
/-- The exponent of the largest finite number. -/
def Fmt.emax (f : Fmt) : Int := f.bias

/-- Rounding modes, RM codes 1 to 5 (R105, R155). -/
inductive Rmode where
  | near
  | zero
  | up
  | down
  | away
  deriving DecidableEq, Repr

/-- RMODE 0 to 4 of c8. -/
def Rmode.ofC8 (n : Nat) : Rmode :=
  if n = 0 then .near else if n = 1 then .zero else if n = 2 then .up else if n = 3 then .down else .away

/-- The RM code of a mode (R163). -/
def Rmode.code : Rmode → Nat
  | .near => 1
  | .zero => 2
  | .up => 3
  | .down => 4
  | .away => 5

/-- A value of a format: its class, sign and, when finite, mant * 2^exp. -/
inductive FVal where
  | zero (neg : Bool)
  | sub (neg : Bool)
  | fin (neg : Bool) (mant : Nat) (exp : Int)
  | inf (neg : Bool)
  | nan (neg signalling : Bool) (frac : Nat)
  deriving DecidableEq, Repr

/-- The value an encoding holds; a subnormal keeps its sign only (R160 to R162). -/
def unpack (f : Fmt) (v : Dword) : FVal :=
  let n := v.toNat % 2 ^ f.width
  let neg := n.testBit (f.width - 1)
  let e := (n >>> (f.prec - 1)) % 2 ^ f.ew
  let m := n % 2 ^ (f.prec - 1)
  if e = 2 ^ f.ew - 1 then
    if m = 0 then .inf neg else .nan neg (!(m.testBit (f.prec - 2))) m
  else if e = 0 then
    if m = 0 then .zero neg else .sub neg
  else .fin neg (m + 2 ^ (f.prec - 1)) ((e : Int) - f.bias - (f.prec - 1 : Nat))

/-- A subnormal operand is read as a zero of its sign under FLUSH (R162). -/
def FVal.flush : FVal → FVal
  | .sub n => .zero n
  | v => v

/-- Sign bit and the rest of an encoding. -/
def packBits (f : Fmt) (neg : Bool) (e m : Nat) : Dword :=
  BitVec.ofNat 64 ((if neg then 2 ^ (f.width - 1) else 0) + e * 2 ^ (f.prec - 1) + m)

def packZero (f : Fmt) (neg : Bool) : Dword := packBits f neg 0 0
def packInf (f : Fmt) (neg : Bool) : Dword := packBits f neg (2 ^ f.ew - 1) 0
/-- The largest finite number M (R151). -/
def packMax (f : Fmt) (neg : Bool) : Dword := packBits f neg (2 ^ f.ew - 2) (2 ^ (f.prec - 1) - 1)
/-- The default NaN (R151, R165). -/
def defaultNan (f : Fmt) : Dword := packBits f false (2 ^ f.ew - 1) (2 ^ (f.prec - 2))

/-- A NaN operand of format f made quiet and converted to format g (R164, R170). -/
def quietTo (f g : Fmt) (neg : Bool) (frac : Nat) : Dword :=
  let m := if g.prec < f.prec then frac >>> (f.prec - g.prec) else frac <<< (g.prec - f.prec)
  packBits g neg (2 ^ g.ew - 1) (m ||| 2 ^ (g.prec - 2))

/-! ## Conditions: bit positions of the c8 flags (R158, R159) -/

def condInvalid : Nat := 16
def condDivZero : Nat := 8
def condOverflow : Nat := 4
def condUnderflow : Nat := 2
def condInexact : Nat := 1

/-- A result and its raised conditions, or a tiny result that traps (R161). -/
inductive FOut where
  | val (v : Dword) (cond : Nat)
  | tiny
  deriving DecidableEq, Repr

/-! ## Rounding (R155, R156) -/

/-- Whether the kept part q grows by 1: rem of 2^sh discarded. -/
def roundUp (rm : Rmode) (neg : Bool) (q rem sh : Nat) : Bool :=
  if rem = 0 then false else
  match rm with
  | .near => decide (2 ^ sh < 2 * rem) || (decide (2 ^ sh = 2 * rem) && q.testBit 0)
  | .away => decide (2 ^ sh ≤ 2 * rem)
  | .zero => false
  | .up => !neg
  | .down => neg

/-- Number of bits of n. -/
def bitLen (n : Nat) : Nat := if n = 0 then 0 else Nat.log2 n + 1

/-- The overflow result of a mode (R156). -/
def overflowVal (f : Fmt) (rm : Rmode) (neg : Bool) : Dword :=
  match rm with
  | .near => packInf f neg
  | .away => packInf f neg
  | .zero => packMax f neg
  | .up => if neg then packMax f neg else packInf f neg
  | .down => if neg then packInf f neg else packMax f neg

/-- The exact nonzero result mant * 2^exp (its last bit sticky) delivered in format f (R156, R158, R161, R162). -/
def deliver (f : Fmt) (rm : Rmode) (trap neg : Bool) (mant : Nat) (exp : Int) : FOut :=
  let top := exp + (bitLen mant : Int) - 1
  if top < f.emin then
    if trap then .tiny else .val (packZero f neg) (condUnderflow + condInexact)
  else
    let len := bitLen mant
    let sh := len - f.prec
    let q0 := if len ≤ f.prec then mant <<< (f.prec - len) else mant >>> sh
    let rem := if len ≤ f.prec then 0 else mant % 2 ^ sh
    let q1 := if roundUp rm neg q0 rem sh then q0 + 1 else q0
    let carry := decide (q1 = 2 ^ f.prec)
    let q := if carry then 2 ^ (f.prec - 1) else q1
    let e : Int := top + (if carry then 1 else 0)
    let inex := if rem = 0 then 0 else condInexact
    if f.emax < e then .val (overflowVal f rm neg) (condOverflow + condInexact)
    else .val (packBits f neg (e + f.bias).toNat (q - 2 ^ (f.prec - 1))) inex

/-! ## Exact results (R167) -/

/-- What an operation gives before NaN, trap and rounding are applied. -/
inductive FRaw where
  | invalid
  | exact (neg : Bool) (mant : Nat) (exp : Int)
  | zero (neg : Bool)
  | inf (neg : Bool) (divZero : Bool)
  deriving DecidableEq, Repr

/-- A raw result delivered. -/
def finish (f : Fmt) (rm : Rmode) (trap : Bool) : FRaw → FOut
  | .invalid => .val (defaultNan f) condInvalid
  | .exact n m e => deliver f rm trap n m e
  | .zero n => .val (packZero f n) 0
  | .inf n dz => .val (packInf f n) (if dz then condDivZero else 0)

/-- The signed integer mantissas at a common exponent, summed. -/
def sumExact (n1 : Bool) (m1 : Nat) (e1 : Int) (n2 : Bool) (m2 : Nat) (e2 : Int) : Int × Int :=
  let e := min e1 e2
  let x : Int := (m1 <<< (e1 - e).toNat : Nat)
  let y : Int := (m2 <<< (e2 - e).toNat : Nat)
  ((if n1 then -x else x) + (if n2 then -y else y), e)

/-- The sign of an exact zero sum (R157). -/
def zeroSumSign (rm : Rmode) : Bool := decide (rm = .down)

/-- A sum of two finite nonzero terms. -/
def addFin (rm : Rmode) (n1 : Bool) (m1 : Nat) (e1 : Int) (n2 : Bool) (m2 : Nat) (e2 : Int) : FRaw :=
  let s := sumExact n1 m1 e1 n2 m2 e2
  if s.1 = 0 then .zero (zeroSumSign rm) else .exact (decide (s.1 < 0)) s.1.natAbs s.2

/-- fb + fc on values that are neither NaN nor subnormal (R167, R172). -/
def rawAdd (rm : Rmode) : FVal → FVal → FRaw
  | .inf a, .inf b => if a = b then .inf a false else .invalid
  | .inf a, _ => .inf a false
  | _, .inf b => .inf b false
  | .zero a, .zero b => .zero (if a = b then a else zeroSumSign rm)
  | .zero _, .fin n m e => .exact n m e
  | .fin n m e, .zero _ => .exact n m e
  | .fin n m e, .fin n' m' e' => addFin rm n m e n' m' e'
  | _, _ => .invalid

/-- The sign of a value inverted, NaNs kept (R165). -/
def FVal.neg : FVal → FVal
  | .zero n => .zero (!n)
  | .fin n m e => .fin (!n) m e
  | .inf n => .inf (!n)
  | v => v

/-- fb × fc (R173). -/
def rawMul : FVal → FVal → FRaw
  | .inf _, .zero _ => .invalid
  | .zero _, .inf _ => .invalid
  | .inf a, .inf b => .inf (a != b) false
  | .inf a, .fin b _ _ => .inf (a != b) false
  | .fin a _ _, .inf b => .inf (a != b) false
  | .zero a, .zero b => .zero (a != b)
  | .zero a, .fin b _ _ => .zero (a != b)
  | .fin a _ _, .zero b => .zero (a != b)
  | .fin a m e, .fin b m' e' => .exact (a != b) (m * m') (e + e')
  | _, _ => .invalid

/-- fb ÷ fc (R174): the quotient to 130 further bits with a sticky bit. -/
def rawDiv : FVal → FVal → FRaw
  | .zero _, .zero _ => .invalid
  | .inf _, .inf _ => .invalid
  | .inf a, .zero b => .inf (a != b) false
  | .inf a, .fin b _ _ => .inf (a != b) false
  | .fin a _ _, .zero b => .inf (a != b) true
  | .zero a, .fin b _ _ => .zero (a != b)
  | .zero a, .inf b => .zero (a != b)
  | .fin a _ _, .inf b => .zero (a != b)
  | .fin a m e, .fin b m' e' =>
    let x := m <<< 130
    .exact (a != b) (2 * (x / m') + (if x % m' = 0 then 0 else 1)) (e - e' - 131)
  | _, _ => .invalid

/-- The integer square root of n, decided bit by bit from bit k - 1. -/
def isqrtFrom (n : Nat) : Nat → Nat → Nat
  | 0, r => r
  | k + 1, r => if (r + 2 ^ k) * (r + 2 ^ k) ≤ n then isqrtFrom n k (r + 2 ^ k) else isqrtFrom n k r

/-- √fb (R167, R175). -/
def rawSqrt : FVal → FRaw
  | .zero n => .zero n
  | .inf n => if n then .invalid else .inf false false
  | .fin n m e =>
    if n then .invalid else
    let m2 := if e % 2 = 0 then m else 2 * m
    let e2 := if e % 2 = 0 then e else e - 1
    let x := m2 <<< 140
    let r := isqrtFrom x 100 0
    .exact false (2 * r + (if r * r = x then 0 else 1)) (e2 / 2 - 71)
  | _ => .invalid

/-- A finite value rounded to an integer: the integer's magnitude and whether it changed (R169, R175). -/
def roundInt (rm : Rmode) (neg : Bool) (m : Nat) (e : Int) : Nat × Bool :=
  if 0 ≤ e then (m <<< e.toNat, false)
  else
    let sh := (-e).toNat
    let q := m >>> sh
    let rem := m % 2 ^ sh
    (if roundUp rm neg q rem sh then q + 1 else q, decide (rem ≠ 0))

/-! ## Operand order, NaNs and traps (R160 to R165) -/

/-- The weights w, w / 2, … of the operands that are subnormal. -/
def subBits : Nat → List FVal → Nat
  | _, [] => 0
  | w, .sub _ :: r => w + subBits (w / 2) r
  | w, _ :: r => subBits (w / 2) r

/-- Cause bits 2, 1, 0 of the subnormal operands a, b and c (R163). -/
def subCause (vs : List FVal) : Nat := subBits 4 vs

/-- The first NaN among the operands (R164). -/
def firstNan : List FVal → Option (Bool × Nat)
  | [] => none
  | .nan n _ f :: _ => some (n, f)
  | _ :: r => firstNan r

/-- Some operand is a signalling NaN. -/
def anySignalling (l : List FVal) : Bool :=
  l.any (fun v => match v with | .nan _ s _ => s | _ => false)

/-- How a computational instruction ends: a subnormal trap with its cause byte, or a value and conditions. -/
inductive FEnd where
  | trap (cause : Nat)
  | done (v : Dword) (cond : Nat)
  deriving DecidableEq, Repr

/-- A tiny result that traps has cause 0x80 (R163). -/
def FOut.toEnd : FOut → FEnd
  | .tiny => .trap 0x80
  | .val v c => .done v c

/-- The procedure of R163 for an operation with a floating result: `extra` adds the invalid condition of 0 × ∞ beside a
NaN addend (R165). -/
def compute (fi fo : Fmt) (rm : Rmode) (trap : Bool) (ops : List Dword) (extra : List FVal → Bool)
    (raw : List FVal → FRaw) : FEnd :=
  let vs := ops.map (unpack fi)
  if trap ∧ subCause vs ≠ 0 then .trap (subCause vs)
  else
    let ws := vs.map FVal.flush
    match firstNan ws with
    | some (n, f) => .done (quietTo fi fo n f) (if anySignalling ws || extra ws then condInvalid else 0)
    | none => (finish fo rm trap (raw ws)).toEnd

/-- No further invalid condition. -/
def noExtra : List FVal → Bool := fun _ => false

def raw1 (f : FVal → FRaw) : List FVal → FRaw
  | [a] => f a
  | _ => .invalid

def raw2 (f : FVal → FVal → FRaw) : List FVal → FRaw
  | [a, b] => f a b
  | _ => .invalid

/-- fb × fc + fd with one rounding; `sub` negates the addend, `neg` negates the sum (R107, R167, R176). -/
def rawFma (rm : Rmode) (sub neg : Bool) : List FVal → FRaw
  | [a, b, c0] =>
    let c := if sub then c0.neg else c0
    let r : FRaw := match rawMul a b with
      | .invalid => .invalid
      | .inf n _ => rawAdd rm (.inf n) c
      | .zero n => rawAdd rm (.zero n) c
      | .exact n m e => rawAdd rm (.fin n m e) c
    if neg then
      match r with
      | .exact n m e => .exact (!n) m e
      | .zero n => .zero (!n)
      | .inf n d => .inf (!n) d
      | .invalid => .invalid
    else r
  | _ => .invalid

/-- 0 × ∞ in either order. -/
def zeroTimesInf : List FVal → Bool
  | .zero _ :: .inf _ :: _ => true
  | .inf _ :: .zero _ :: _ => true
  | _ => false

def fpAdd (f : Fmt) (rm : Rmode) (trap : Bool) (b c : Dword) : FEnd := compute f f rm trap [b, c] noExtra (raw2 (rawAdd rm))
def fpSub (f : Fmt) (rm : Rmode) (trap : Bool) (b c : Dword) : FEnd :=
  compute f f rm trap [b, c] noExtra (raw2 (fun x y => rawAdd rm x y.neg))
def fpMul (f : Fmt) (rm : Rmode) (trap : Bool) (b c : Dword) : FEnd := compute f f rm trap [b, c] noExtra (raw2 rawMul)
def fpDiv (f : Fmt) (rm : Rmode) (trap : Bool) (b c : Dword) : FEnd := compute f f rm trap [b, c] noExtra (raw2 rawDiv)
def fpSqrt (f : Fmt) (rm : Rmode) (trap : Bool) (b : Dword) : FEnd := compute f f rm trap [b] noExtra (raw1 rawSqrt)
def fpFma (f : Fmt) (rm : Rmode) (trap sub neg : Bool) (b c d : Dword) : FEnd :=
  compute f f rm trap [b, c, d] zeroTimesInf (rawFma rm sub neg)

/-- FRINT (R167, R175): an integral value in the same format, never tiny, inexact when the value changes. -/
def fpRint (f : Fmt) (rm : Rmode) (trap : Bool) (b : Dword) : FEnd :=
  match unpack f b with
  | .sub n => if trap then .trap 4 else .done (packZero f n) 0
  | .zero n => .done (packZero f n) 0
  | .inf n => .done (packInf f n) 0
  | .nan n s fr => .done (quietTo f f n fr) (if s then condInvalid else 0)
  | .fin n m e =>
    let r := roundInt rm n m e
    let x := if r.2 then condInexact else 0
    if r.1 = 0 then .done (packZero f n) x
    else match deliver f .zero false n r.1 0 with
      | .val v _ => .done v x
      | .tiny => .done (packZero f n) x

/-- CVTSD and CVTDS (R170). -/
def fpConvert (fi fo : Fmt) (rm : Rmode) (trap : Bool) (b : Dword) : FEnd :=
  compute fi fo rm trap [b] noExtra (raw1 (fun v => match v with
    | .zero n => .zero n
    | .fin n m e => .exact n m e
    | .inf n => .inf n false
    | _ => .invalid))

/-- CVTGD, CVTGS, CVTLD and CVTLS (R170): never tiny, no operand to inspect. -/
def fpFromInt (fo : Fmt) (rm : Rmode) (i : Int) : FEnd :=
  if i = 0 then .done (packZero fo false) 0
  else (deliver fo rm false (decide (i < 0)) i.natAbs 0).toEnd

/-- CVTDG, CVTSG (signed) and CVTDL, CVTSL (unsigned): R169. -/
def fpToInt (f : Fmt) (signed : Bool) (rm : Rmode) (trap : Bool) (b : Dword) : FEnd :=
  let lo : Int := if signed then -(2 ^ 63) else 0
  let hi : Int := if signed then 2 ^ 63 - 1 else 2 ^ 64 - 1
  let below : Dword := if signed then 0x8000000000000000 else 0
  let above : Dword := if signed then 0x7FFFFFFFFFFFFFFF else 0xFFFFFFFFFFFFFFFF
  match unpack f b with
  | .sub _ => if trap then .trap 4 else .done 0 0
  | .zero _ => .done 0 0
  | .inf n => .done (if n then below else above) condInvalid
  | .nan _ _ _ => .done below condInvalid
  | .fin n m e =>
    let r := roundInt rm n m e
    let i : Int := if n then -(r.1 : Int) else r.1
    if i < lo then .done below condInvalid
    else if hi < i then .done above condInvalid
    else .done (BitVec.ofInt 64 i) (if r.2 then condInexact else 0)

/-- The exact comparison of two values that are not NaN (R168). -/
def cmpVals : FVal → FVal → Nat
  | .inf a, .inf b => if a = b then 0 else if a then 1 else 2
  | .inf a, _ => if a then 1 else 2
  | _, .inf b => if b then 2 else 1
  | x, y =>
    let t (v : FVal) : Bool × Nat × Int := match v with
      | .fin n m e => (n, m, e)
      | _ => (false, 0, 0)
    let s := sumExact (t x).1 (t x).2.1 (t x).2.2 (!(t y).1) (t y).2.1 (t y).2.2
    if s.1 = 0 then 0 else if s.1 < 0 then 1 else 2

/-- FCMP and FCMPS (R168): the value is the CC. -/
def fpCmp (f : Fmt) (trap signalling : Bool) (b c : Dword) : FEnd :=
  let vs := [unpack f b, unpack f c]
  if trap ∧ subCause vs ≠ 0 then .trap (subCause vs)
  else
    let ws := vs.map FVal.flush
    if (firstNan ws).isSome then
      .done 3 (if anySignalling ws || signalling then condInvalid else 0)
    else match ws with
      | [x, y] => .done (BitVec.ofNat 64 (cmpVals x y)) 0
      | _ => .done 3 0

end Sys2Proof.Machine
end

