-- ==== Sys2Proof/Machine/FloatInsn.lean ====
section
/-! DEFINITION. Floating-point instructions (R151 to R177). -/
namespace Sys2Proof.Machine
open Sys2Proof

/-- The code of a format in the emulation record (R163). -/
def Fmt.code (f : Fmt) : Nat := if f = fmtS then 1 else 2

/-- The rounding mode in effect: an RM field of 1 to 5, else c8.RMODE (R155). -/
def State.rmode (s : State) (u : Nat) (rm : BitVec 3) : Rmode :=
  if rm = 0 then Rmode.ofC8 (fget ((s.unit u).getC 8) 16 3) else Rmode.ofC8 (rm.toNat - 1)

/-- c8.SUBNORM is TRAP (R161). -/
def State.subTrap (s : State) (u : Nat) : Bool := !(bit ((s.unit u).getC 8) 22)

/-- The emulation record of R163. -/
def emulation (word : Word) (cause : Nat) (rm : Rmode) (fi fo : Nat) (ops : List Dword) (c8 : Dword) : List Byte :=
  beBytes 4 word.toNat ++ [BitVec.ofNat 8 cause, BitVec.ofNat 8 rm.code, BitVec.ofNat 8 fi, BitVec.ofNat 8 fo] ++
  beBytes 8 (ops.getD 0 0).toNat ++ beBytes 8 (ops.getD 1 0).toNat ++ beBytes 8 (ops.getD 2 0).toNat ++ beBytes 8 c8.toNat ++ List.replicate 24 0

/-- The flags of the conditions set in c8. -/
def State.setFlags (s : State) (u cond : Nat) : State :=
  if cond = 0 then s else s.modUnit u fun c => c.setC 8 (c.getC 8 ||| BitVec.ofNat 64 cond)

/-- What a floating-point instruction carries: its word, formats and operands. -/
structure FpCall where
  u : Nat
  word : Word
  fi : Nat
  fo : Nat
  rm : Rmode
  ops : List Dword

/-- The end of an instruction under R159 and R161: `write` delivers the result. -/
def State.fpEnd (s : State) (k : FpCall) (e : FEnd) (write : State → Dword → State) : Except Ends State :=
  let c8 := (s.unit k.u).getC 8
  match e with
  | .trap cause => .error (.stop (.exc { code := 0x0019, fpRec := emulation k.word cause k.rm k.fi k.fo k.ops c8 }))
  | .done v cond =>
    let en := cond &&& fget c8 8 5
    let x : Exc := { code := 0x0018, data := BitVec.ofNat 64 cond }
    if en = 0 then .ok ((write s v).setFlags k.u cond)
    else if en &&& (condInvalid + condDivZero) ≠ 0 then .error (.stop (.exc x))
    else .error (.after ((write s v).setFlags k.u cond) x)

/-- RM 6 and 7 are unassigned (R105). -/
def badRm (rm : BitVec 3) : Bool := decide (6 ≤ rm.toNat)

/-- Two operands, rounding by c8 (R106). -/
def formF2 (o : OpF) (f : Fmt) (fn row : Nat) (op_ : Fmt → Rmode → Bool → Dword → Dword → FEnd) : Insn :=
  let word := wordA (if f = fmtS then 0x41 else 0x40) o.ra o.rb o.rc (o.rm.toNat * 64 + fn)
  { u := o.u, word := word, lacks := !(isCpu o.u), spec := o.rm != 0, rows := [row],
    body := fun s =>
      let rm := s.rmode o.u 0
      let b := s.f o.u o.rb
      let c := s.f o.u o.rc
      s.fpEnd ⟨o.u, word, f.code, f.code, rm, [b, c]⟩ (op_ f rm (s.subTrap o.u) b c) fun t v => t.setF o.u o.ra v }

/-- One operand, rc reserved: `rmOk` tells that the instruction carries RM (R105, R106). -/
def formF1 (o : OpF) (f : Fmt) (fn row : Nat) (rmOk : Bool) (op_ : Fmt → Rmode → Bool → Dword → FEnd) : Insn :=
  let word := wordA (if f = fmtS then 0x41 else 0x40) o.ra o.rb o.rc (o.rm.toNat * 64 + fn)
  { u := o.u, word := word, lacks := !(isCpu o.u), spec := o.rc != 0 || (if rmOk then badRm o.rm else o.rm != 0), rows := [row],
    body := fun s =>
      let rm := s.rmode o.u (if rmOk then o.rm else 0)
      let b := s.f o.u o.rb
      s.fpEnd ⟨o.u, word, f.code, f.code, rm, [b]⟩ (op_ f rm (s.subTrap o.u) b) fun t v => t.setF o.u o.ra v }

/-- A comparison, ra reserved (R106, R168). -/
def formFCmp (o : OpF) (f : Fmt) (fn : Nat) (signalling : Bool) : Insn :=
  let word := wordA (if f = fmtS then 0x41 else 0x40) o.ra o.rb o.rc (o.rm.toNat * 64 + fn)
  { u := o.u, word := word, lacks := !(isCpu o.u), spec := o.ra != 0 || o.rm != 0, rows := [6],
    body := fun s =>
      let b := s.f o.u o.rb
      let c := s.f o.u o.rc
      s.fpEnd ⟨o.u, word, f.code, 5, s.rmode o.u 0, [b, c]⟩ (fpCmp f (s.subTrap o.u) signalling b c)
        fun t v => t.setCc o.u (BitVec.ofNat 2 v.toNat) }

/-- A fused form (R107, R167). -/
def formFma (o : OpQ) (f : Fmt) (fn : Nat) (sub neg : Bool) : Insn :=
  let word := wordA (if f = fmtS then 0x43 else 0x42) o.ra o.rb o.rc (o.rd.toNat * 16 + fn)
  { u := o.u, word := word, lacks := !(isCpu o.u), rows := [8],
    body := fun s =>
      let rm := s.rmode o.u 0
      let b := s.f o.u o.rb
      let c := s.f o.u o.rc
      let d := s.f o.u o.rd
      s.fpEnd ⟨o.u, word, f.code, f.code, rm, [b, c, d]⟩ (fpFma f rm (s.subTrap o.u) sub neg b c d) fun t v => t.setF o.u o.ra v }

/-- A conversion, rc reserved (R108): formats, operand register and target register. -/
def formCvt (o : OpF) (fn row fi fo : Nat) (read : State → Dword) (op_ : Rmode → Bool → Dword → FEnd) (write : State → Dword → State) : Insn :=
  let word := wordA 0x44 o.ra o.rb o.rc (o.rm.toNat * 64 + fn)
  { u := o.u, word := word, lacks := !(isCpu o.u), spec := o.rc != 0 || badRm o.rm, rows := [row],
    body := fun s =>
      let rm := s.rmode o.u o.rm
      s.fpEnd ⟨o.u, word, fi, fo, rm, [read s]⟩ (op_ rm (s.subTrap o.u) (read s)) write }

/-- The operand in fb or gb, and the result in fa or ga. -/
def rdFb (o : OpF) (s : State) : Dword := s.f o.u o.rb
def rdGb (o : OpF) (s : State) : Dword := s.g o.u o.rb
def wrFa (o : OpF) (s : State) (v : Dword) : State := s.setF o.u o.ra v
def wrGa (o : OpF) (s : State) (v : Dword) : State := s.setG o.u o.ra v

/-- A move between registers, rc reserved (R109, R166). -/
def formMove (o : OpA) (fn : Nat) (move : State → State) : Insn :=
  { u := o.u, word := wordA 0x45 o.ra o.rb o.rc fn, lacks := !(isCpu o.u), spec := o.rc != 0, body := fun s => .ok (move s) }

/-- FADDD (R167, R172 to R174). -/
def insnFaddd (o : OpF) : Insn := formF2 o fmtD 0 6 fpAdd
def execFaddd (o : OpF) (s : State) : Result := .next (s.insn (insnFaddd o))

/-- FADDS (R167, R172 to R174). -/
def insnFadds (o : OpF) : Insn := formF2 o fmtS 0 6 fpAdd
def execFadds (o : OpF) (s : State) : Result := .next (s.insn (insnFadds o))

/-- FSUBD (R167, R172 to R174). -/
def insnFsubd (o : OpF) : Insn := formF2 o fmtD 1 6 fpSub
def execFsubd (o : OpF) (s : State) : Result := .next (s.insn (insnFsubd o))

/-- FSUBS (R167, R172 to R174). -/
def insnFsubs (o : OpF) : Insn := formF2 o fmtS 1 6 fpSub
def execFsubs (o : OpF) (s : State) : Result := .next (s.insn (insnFsubs o))

/-- FMULD (R167, R172 to R174). -/
def insnFmuld (o : OpF) : Insn := formF2 o fmtD 2 7 fpMul
def execFmuld (o : OpF) (s : State) : Result := .next (s.insn (insnFmuld o))

/-- FMULS (R167, R172 to R174). -/
def insnFmuls (o : OpF) : Insn := formF2 o fmtS 2 7 fpMul
def execFmuls (o : OpF) (s : State) : Result := .next (s.insn (insnFmuls o))

/-- FDIVD (R167, R172 to R174). -/
def insnFdivd (o : OpF) : Insn := formF2 o fmtD 3 7 fpDiv
def execFdivd (o : OpF) (s : State) : Result := .next (s.insn (insnFdivd o))

/-- FDIVS (R167, R172 to R174). -/
def insnFdivs (o : OpF) : Insn := formF2 o fmtS 3 7 fpDiv
def execFdivs (o : OpF) (s : State) : Result := .next (s.insn (insnFdivs o))

/-- FSQRTD (R167, R175). -/
def insnFsqrtd (o : OpF) : Insn := formF1 o fmtD 4 9 false fpSqrt
def execFsqrtd (o : OpF) (s : State) : Result := .next (s.insn (insnFsqrtd o))

/-- FCMPD (R168). -/
def insnFcmpd (o : OpF) : Insn := formFCmp o fmtD 5 false
def execFcmpd (o : OpF) (s : State) : Result := .next (s.insn (insnFcmpd o))

/-- FCMPSD (R168). -/
def insnFcmpsd (o : OpF) : Insn := formFCmp o fmtD 6 true
def execFcmpsd (o : OpF) (s : State) : Result := .next (s.insn (insnFcmpsd o))

/-- FRINTD (R167, R175). -/
def insnFrintd (o : OpF) : Insn := formF1 o fmtD 7 6 true fpRint
def execFrintd (o : OpF) (s : State) : Result := .next (s.insn (insnFrintd o))

/-- FMADDD (R107, R176). -/
def insnFmaddd (o : OpQ) : Insn := formFma o fmtD 0 false false
def execFmaddd (o : OpQ) (s : State) : Result := .next (s.insn (insnFmaddd o))

/-- FMSUBD (R107, R176). -/
def insnFmsubd (o : OpQ) : Insn := formFma o fmtD 1 true false
def execFmsubd (o : OpQ) (s : State) : Result := .next (s.insn (insnFmsubd o))

/-- FNMADDD (R107, R176). -/
def insnFnmaddd (o : OpQ) : Insn := formFma o fmtD 2 false true
def execFnmaddd (o : OpQ) (s : State) : Result := .next (s.insn (insnFnmaddd o))

/-- FNMSUBD (R107, R176). -/
def insnFnmsubd (o : OpQ) : Insn := formFma o fmtD 3 true true
def execFnmsubd (o : OpQ) (s : State) : Result := .next (s.insn (insnFnmsubd o))

/-- FSQRTS (R167, R175). -/
def insnFsqrts (o : OpF) : Insn := formF1 o fmtS 4 9 false fpSqrt
def execFsqrts (o : OpF) (s : State) : Result := .next (s.insn (insnFsqrts o))

/-- FCMPS (R168). -/
def insnFcmps (o : OpF) : Insn := formFCmp o fmtS 5 false
def execFcmps (o : OpF) (s : State) : Result := .next (s.insn (insnFcmps o))

/-- FCMPSS (R168). -/
def insnFcmpss (o : OpF) : Insn := formFCmp o fmtS 6 true
def execFcmpss (o : OpF) (s : State) : Result := .next (s.insn (insnFcmpss o))

/-- FRINTS (R167, R175). -/
def insnFrints (o : OpF) : Insn := formF1 o fmtS 7 6 true fpRint
def execFrints (o : OpF) (s : State) : Result := .next (s.insn (insnFrints o))

/-- FMADDS (R107, R176). -/
def insnFmadds (o : OpQ) : Insn := formFma o fmtS 0 false false
def execFmadds (o : OpQ) (s : State) : Result := .next (s.insn (insnFmadds o))

/-- FMSUBS (R107, R176). -/
def insnFmsubs (o : OpQ) : Insn := formFma o fmtS 1 true false
def execFmsubs (o : OpQ) (s : State) : Result := .next (s.insn (insnFmsubs o))

/-- FNMADDS (R107, R176). -/
def insnFnmadds (o : OpQ) : Insn := formFma o fmtS 2 false true
def execFnmadds (o : OpQ) (s : State) : Result := .next (s.insn (insnFnmadds o))

/-- FNMSUBS (R107, R176). -/
def insnFnmsubs (o : OpQ) : Insn := formFma o fmtS 3 true true
def execFnmsubs (o : OpQ) (s : State) : Result := .next (s.insn (insnFnmsubs o))

/-- CVTSD (R170). -/
def insnCvtsd (o : OpF) : Insn := formCvt o 0 6 1 2 (rdFb o) (fun rm t b => fpConvert fmtS fmtD rm t b) (wrFa o)
def execCvtsd (o : OpF) (s : State) : Result := .next (s.insn (insnCvtsd o))

/-- CVTDS (R170). -/
def insnCvtds (o : OpF) : Insn := formCvt o 1 6 2 1 (rdFb o) (fun rm t b => fpConvert fmtD fmtS rm t b) (wrFa o)
def execCvtds (o : OpF) (s : State) : Result := .next (s.insn (insnCvtds o))

/-- CVTGD (R170). -/
def insnCvtgd (o : OpF) : Insn := formCvt o 2 10 0 2 (rdGb o) (fun rm _ b => fpFromInt fmtD rm b.toInt) (wrFa o)
def execCvtgd (o : OpF) (s : State) : Result := .next (s.insn (insnCvtgd o))

/-- CVTGS (R170). -/
def insnCvtgs (o : OpF) : Insn := formCvt o 3 10 0 1 (rdGb o) (fun rm _ b => fpFromInt fmtS rm b.toInt) (wrFa o)
def execCvtgs (o : OpF) (s : State) : Result := .next (s.insn (insnCvtgs o))

/-- CVTLD (R170). -/
def insnCvtld (o : OpF) : Insn := formCvt o 4 10 0 2 (rdGb o) (fun rm _ b => fpFromInt fmtD rm b.toNat) (wrFa o)
def execCvtld (o : OpF) (s : State) : Result := .next (s.insn (insnCvtld o))

/-- CVTLS (R170). -/
def insnCvtls (o : OpF) : Insn := formCvt o 5 10 0 1 (rdGb o) (fun rm _ b => fpFromInt fmtS rm b.toNat) (wrFa o)
def execCvtls (o : OpF) (s : State) : Result := .next (s.insn (insnCvtls o))

/-- CVTDG (R169). -/
def insnCvtdg (o : OpF) : Insn := formCvt o 6 10 2 3 (rdFb o) (fun rm t b => fpToInt fmtD true rm t b) (wrGa o)
def execCvtdg (o : OpF) (s : State) : Result := .next (s.insn (insnCvtdg o))

/-- CVTSG (R169). -/
def insnCvtsg (o : OpF) : Insn := formCvt o 7 10 1 3 (rdFb o) (fun rm t b => fpToInt fmtS true rm t b) (wrGa o)
def execCvtsg (o : OpF) (s : State) : Result := .next (s.insn (insnCvtsg o))

/-- CVTDL (R169). -/
def insnCvtdl (o : OpF) : Insn := formCvt o 8 10 2 4 (rdFb o) (fun rm t b => fpToInt fmtD false rm t b) (wrGa o)
def execCvtdl (o : OpF) (s : State) : Result := .next (s.insn (insnCvtdl o))

/-- CVTSL (R169). -/
def insnCvtsl (o : OpF) : Insn := formCvt o 9 10 1 4 (rdFb o) (fun rm t b => fpToInt fmtS false rm t b) (wrGa o)
def execCvtsl (o : OpF) (s : State) : Result := .next (s.insn (insnCvtsl o))

/-- FMR (R166). -/
def insnFmr (o : OpA) : Insn := formMove o 0 fun s => s.setF o.u o.ra (s.f o.u o.rb)
def execFmr (o : OpA) (s : State) : Result := .next (s.insn (insnFmr o))

/-- FNEGD (R166). -/
def insnFnegd (o : OpA) : Insn := formMove o 1 fun s => s.setF o.u o.ra (s.f o.u o.rb ^^^ 0x8000000000000000)
def execFnegd (o : OpA) (s : State) : Result := .next (s.insn (insnFnegd o))

/-- FABSD (R166). -/
def insnFabsd (o : OpA) : Insn := formMove o 2 fun s => s.setF o.u o.ra (s.f o.u o.rb &&& 0x7FFFFFFFFFFFFFFF)
def execFabsd (o : OpA) (s : State) : Result := .next (s.insn (insnFabsd o))

/-- FNEGS (R166). -/
def insnFnegs (o : OpA) : Insn := formMove o 3 fun s => s.setF o.u o.ra (zext 32 (s.f o.u o.rb ^^^ 0x80000000))
def execFnegs (o : OpA) (s : State) : Result := .next (s.insn (insnFnegs o))

/-- FABSS (R166). -/
def insnFabss (o : OpA) : Insn := formMove o 4 fun s => s.setF o.u o.ra (s.f o.u o.rb &&& 0x7FFFFFFF)
def execFabss (o : OpA) (s : State) : Result := .next (s.insn (insnFabss o))

/-- MVFG (R166). -/
def insnMvfg (o : OpA) : Insn := formMove o 5 fun s => s.setG o.u o.ra (s.f o.u o.rb)
def execMvfg (o : OpA) (s : State) : Result := .next (s.insn (insnMvfg o))

/-- MVGF (R166). -/
def insnMvgf (o : OpA) : Insn := formMove o 6 fun s => s.setF o.u o.ra (s.g o.u o.rb)
def execMvgf (o : OpA) (s : State) : Result := .next (s.insn (insnMvgf o))

/-- A load into a floating register (R166). -/
def formLoadF (o : OpI) (op n : Nat) : Insn :=
  { u := o.u, word := wordI op o.ra o.rb o.imm, lacks := !(isCpu o.u), rows := [12, 13],
    body := fun s => match s.loadAt o.u (s.ea o) n .load with
      | .error e => .error e
      | .ok (s1, b) => .ok (s1.setF o.u o.ra (loaded b)) }

/-- A store from a floating register (R166). -/
def formStoreF (o : OpI) (op n : Nat) : Insn :=
  { u := o.u, word := wordI op o.ra o.rb o.imm, lacks := !(isCpu o.u), rows := [12, 14],
    body := fun s => s.storeAt o.u (s.ea o) (beBytes n (s.f o.u o.ra).toNat) .store }

/-- LFS (R166). -/
def insnLfs (o : OpI) : Insn := formLoadF o 0x4C 4
def execLfs (o : OpI) (s : State) : Result := .next (s.insn (insnLfs o))

/-- LFD (R166). -/
def insnLfd (o : OpI) : Insn := formLoadF o 0x4D 8
def execLfd (o : OpI) (s : State) : Result := .next (s.insn (insnLfd o))

/-- STFS (R166). -/
def insnStfs (o : OpI) : Insn := formStoreF o 0x4E 4
def execStfs (o : OpI) (s : State) : Result := .next (s.insn (insnStfs o))

/-- STFD (R166). -/
def insnStfd (o : OpI) : Insn := formStoreF o 0x4F 8
def execStfd (o : OpI) (s : State) : Result := .next (s.insn (insnStfd o))

end Sys2Proof.Machine
end

