-- ==== Sys2Proof/Machine/Reset.lean ====
section
/-! DEFINITION. Resets and start-up (R17, R30, R31, R92, R275, R447, R465, R491, R501, R518 to R522, R527 to R529). -/
namespace Sys2Proof.Machine
open Sys2Proof

/-! ## The Core Map at cold reset (R30, R31, R204) -/

/-- Slots of a die that take logical numbers, and the spares that R31 takes. -/
def State.dieSlots (s : State) (d : Nat) : List Nat × List Nat :=
  let ok (x : Nat) : Bool := !s.fuses.fusedOff.contains (d, x) && !s.fuses.retired.contains (d, x)
  let spares := (List.range 26).filter fun x => s.fuses.spares.contains (d, x) && ok x
  let active := (List.range 26).filter fun x => !s.fuses.spares.contains (d, x) && ok x
  let taken := spares.take (s.fuses.activePerDie - active.length)
  ((List.range 26).filter fun x => active.contains x || taken.contains x, taken)

/-- Entry n of the Core Map at cold reset. -/
def State.coldEntry (s : State) (n : Nat) : Dword :=
  if s.activeCount ≤ n then 0
  else
    let d := n / s.fuses.activePerDie
    match ((s.dieSlots d).1)[n % s.fuses.activePerDie]? with
    | some x => fset (fset (fset 0 62 2 1) 40 4 d) 32 5 x
    | none => fset 0 62 2 3

/-- SV.SPARE_POOL.AVAIL at cold reset: spares neither taken nor retired. -/
def State.coldAvail (s : State) : Nat :=
  (s.fuses.spares.filter fun x => !(s.dieSlots x.1).2.contains x.2 && !s.fuses.retired.contains x).foldl
    (fun v x => v ||| 2 ^ (2 * x.1 + (if x.2 < 13 then 0 else 1))) 0

/-- The Core Map and the spare pool of the part's fuses (R4, R30, R31, R204). -/
def State.coldMap (s : State) : State :=
  ((List.range 192).foldl (fun t n => t.setReg (rCmap n) (s.coldEntry n)) s).setRf rSparePool 0 16 s.coldAvail

/-- Step 12: Core Map, spare pool, host wrapping key. -/
def State.buildMap (s : State) : State := if s.vaultDead then s.coldMap else s.coldMap.newKey 0xFFFE

/-! ## Cold reset (R17, R519, R527) -/

/-- An error of a DRAM array, which only writing the block ends. -/
def ArrErr.inDram (e : ArrErr) : Bool := decide (e.die < 8) && (e.unit == 0x60 || e.unit == 0x61)

/-- What the DIMMs hold at cold reset: after class 6 nothing is kept (R454), and they are as after power-on (log entry 4). -/
def State.dramLeft (s : State) : List Host.Cell := if s.terminal then [] else s.dram

/-- RESET_N has risen: every register at its Reset column, the Core Map's as R30 gives it, every array but the DIMMs zero; fuses, the DIMMs and what has left
the module stay (R17, R491). -/
def State.coldReset (s : State) : State :=
  ({ State.reset with
      pending := s.pending, free := s.free, mem := s.dramLeft, dram := s.dramLeft,
      dramPoison := if s.terminal then [] else s.dramPoison, errs := if s.terminal then [] else s.errs.filter ArrErr.inDram,
      fuses := s.fuses, dimm := s.dimm, rails := s.rails, railCmds := s.railCmds, wire := s.wire, fspOut := s.fspOut, lcRows := s.lcRows, owner := s.owner,
      boot := ⟨[], false, false, bit (s.reg rLcCtl) 63⟩ } : State).coldMap.newNonce

/-- RESET_N low for a time in ns, then high (R464, R527). -/
def State.resetPin (s : State) (low : Nat) : State :=
  if low < 10000 ∨ s.terminal = true ∨ s.powered = false then s else s.coldReset

/-- The module has no power (R501, R529). -/
def State.unpower (s : State) : State :=
  { s with powered := false, halted := true, sessions := [], load := none, alive := .highZ, chkstopN := .highZ }

/-- The rails in the order in which they go down, the reverse of that of R501: VDDQ_3 to VDDQ_0, VCORE_3 to VCORE_0, VUNC,
VSERDES_L, VSERDES_H, VSERV, VAUX. -/
def railsDown : List Nat := [12, 11, 10, 9, 3, 2, 1, 0, 4, 6, 7, 5, 8]

/-- A rail commanded off by the OPERATION command at its regulator's address (R501). -/
def State.railOff (s : State) (r : Nat) : State :=
  { s with rails := s.rails.filter fun x => x != r, railCmds := s.railCmds ++ [.off r (s.rf (regAddr 11 0 10 (0x200 + 8 * r)) 0 7)] }

/-- POWER_OFF: the module stops as for checkstop, then every rail is commanded off in the reverse order (R501). -/
def State.powerDown (s : State) : State := (railsDown.foldl State.railOff { s with halted := true }).unpower

/-- VAUX falls below its range (R529). -/
def State.vauxFails (s : State) : State := { s.unpower with rails := s.rails.filter fun x => x != 8 }

/-- The board brings the rails up in the order of R501: a cold reset (R501, R518). -/
def State.powerUp (s : State) : State := if s.powered then s else { s.coldReset with rails := railsDown.reverse }

/-! ## Warm reset (R17, R522) -/

/-- Registers kept whole across warm reset (R17); DC.CFG and DC.TIM are restored. -/
def warmKept : List String :=
  ["SV.CMAP", "SV.SPARE_POOL", "FC.FIRST_MSG", "FC.FIRST_TOD", "FC.FIRST_STAT", "FC.HIST_HEAD", "FC.HIST_MSG", "FC.HIST_TOD",
   "FC.HIST_META", "FC.CNT", "FC.CNT_MISC", "FC.THR", "DC.CFG", "DC.TIM"]

/-- Fields kept across warm reset, by register: low bit and width. R17 names those of DC.ERR, L2.ERR, L3.ERR, WS.ERR and WS.BANK_OWN; of the
others the rule on the field says so (R425, R447, R494; log entry 36). -/
def warmFields (name : String) : List (Nat × Nat) :=
  if name = "DC.ERR" then [(0, 16)]
  else if name = "L2.ERR" then [(0, 8)]
  else if name = "L3.ERR" then [(0, 11)]
  else if name = "WS.ERR" then [(32, 8)]
  else if name = "WS.TEST" then [(0, 16)]
  else if name = "WS.BANK_OWN" then [(40, 8)]
  else if name = "ACC.ENT_STAT" then [(63, 1), (0, 48)]
  else if name = "CLK.PASS" then [(16, 16)]
  else if name = "WS.VAULT" then [(0, 32)]
  else if name = "CLK.TOD_STAT" then [(32, 32)]
  else []

/-- A register after warm reset. -/
def warmReg (a : Nat) (v : Dword) : Dword :=
  match findReg a with
  | none => v
  | some (d, _) =>
    if warmKept.contains d.name then v
    else (warmFields d.name).foldl (fun r f => fset r f.1 f.2 (fget v f.1 f.2)) (regDefault a)

/-- The registers after warm reset, in canonical form. -/
def warmRegs (l : Store Dword) : Store Dword := l.foldl (fun r x => sput regDefault r x.1 (warmReg x.1 x.2)) []

/-- A move that warm reset finds in progress is completed in the Core Map (R201); a core whose sweep is then still going on has
no caches left to sweep, and is recorded retired or returns to the pool (R201, R203, R535). -/
def State.settleMoves (s : State) : State :=
  let s1 := s.moves.foldl (fun t m =>
    let t1 := (t.nameCore m.1 m.2.2.1).setRf (rCmap m.1) 62 2 1
    if m.2.2.2 then t1.retire m.2.1 else t1.releaseCore m.2.1) s
  s1.coreKeys.foldl (fun t k => match (t.core k).sweeping with
    | some true => t.retire k
    | some false => (t.modCore k fun c => { c with sweeping := none }).releaseCore k
    | none => t) s1

/-- A controller after warm reset: in self-refresh, its training, counts and marks kept (R284, R522). -/
def DramCtl.warm (k : DramCtl) : DramCtl :=
  { DramCtl.reset with trained := k.trained, corrected := k.corrected, marks := k.marks, sr := .inSr }

/-- What warm reset leaves of a module whose dirty cache data and write queues are gone: everything but what R518 keeps is reset. -/
def State.warmed (s : State) : State :=
  { State.reset with
      pending := s.pending, free := s.free, regs := warmRegs s.regs, mem := s.mem, dram := s.dram, dramPoison := s.dramPoison,
      cores := s.cores.map fun c => (c.1, { CoreHw.reset with deleted := c.2.deleted }),
      dies := s.dies.map fun d => (d.1, { DieHw.reset with deleted := d.2.deleted }),
      errs := s.errs.filter fun e => e.inDram || e.die == 10, fuses := s.fuses, dimm := s.dimm,
      ctls := s.ctls.map fun c => (c.1, c.2.warm), ws := s.ws, wsTests := s.wsTests, wire := s.wire, accFailed := s.accFailed, drbgs := s.drbgs,
      wrapKeys := s.wrapKeys, serials := s.serials, conts := s.conts, chains := s.chains, vaultDead := s.vaultDead,
      vset := s.vset, rails := s.rails, railCmds := s.railCmds, govs := s.govs, temps := s.temps, fspOut := s.fspOut, lcRows := s.lcRows, lcStep := s.lcStep, owner := s.owner,
      jtag := s.jtag, msgs := s.msgs, merges := s.merges, halted := true,
      boot := ⟨[1, 2], true, s.boot.unfinished, false⟩ }

/-- Warm reset up to its step 3 (R522): dirty cache data is discarded, write queues drain, and the conditions still live are none (R461). -/
def State.warmReset (s : State) : State :=
  let s1 := (s.settleMoves.discardAll).abandonTests
  let s2 := (List.range 16).foldl (fun t c => t.drainWrites c) s1
  ((List.range 7).foldl State.showPresent s2.warmed).newNonce

/-! ## The steps of R520 -/

/-- What must have ended before step n of R520 can end (R520, R486, R522). -/
def State.stepReady (s : State) (n : Nat) : Bool :=
  let b := s.boot
  s.powered && !b.done.contains n && decide (s.lcStep = 0) && (decide (n ≠ 3) || s.rf rVault 62 1 == 0) &&
  (decide (n ≠ 10) || !((List.range 16).any s.wiping)) &&
  (if n ≤ 10 then (List.range (n - 1)).all (fun i => b.done.contains (i + 1)) && (decide (n ≠ 4) || s.fwLoaded)
   else if n = 11 then b.done.contains 8 && (sget (fun _ => none) s.engineFw 8).isSome && (sget (fun _ => none) s.engineFw 9).isSome &&
      (!b.unfinished || b.done.contains 10)
   else if n = 12 then b.done.contains 10
   else if n = 13 then b.done.contains 10 && b.done.contains 12 && (s.hostLoaded || b.warm)
   else b.done.contains 12 && b.done.contains 13)

/-- The channel engines of a die set up and enabled, then the die (step 11). -/
def State.startChannelDie (s : State) (die : Nat) : State :=
  ((List.range 48).foldl (fun t e =>
    ((t.setRf (rBankOwn die (72 + e)) 0 8 (1 + e)).setRf (rCe die e 8) 13 12 ((72 + e) * 0x20)).ceEnable die e) s).csEnable die

/-- The controllers leave self-refresh with the values they had before warm reset (R522 step 4). -/
def State.resumeDram (s : State) : State :=
  (List.range 16).foldl (fun t c =>
    let v := t.reg (rDc c 0x20)
    let t1 := t.setReg (rDc c 0x20) (fset (fset v 62 2 0) 60 1 1)
    t1.dcEnable c) s

/-- The session of the boot ROM serves under the firmware that has been loaded, as the active one (R478, R483). -/
def State.romSessions (s : State) : State :=
  (List.range 2).foldl (fun t i => match t.session i with
    | some x => if x.role = .rom then
        (if t.activeSession.isSome then t.setSession i (some { x with role := .standby }) else t.promote i) else t
    | none => t) s

/-- A controller that is not enabled gets DC.CFG and DC.TIM of the DIMMs, and its full training starts (R279, R298). -/
def State.trainOne (s : State) (c : Nat) : State :=
  if s.dcEn c then s else ((s.setReg (rDc c 8) s.dimm.cfg).setReg (rDc c 0x10) s.dimm.tim).startTraining c

/-- Step 9 begins at the end of step 8 (R520). -/
def State.trainAll (s : State) : State := (List.range 16).foldl (fun t c => t.trainOne c) s

/-- Step 10 begins at the end of step 9: the controllers serve, and those that do are zeroed, unless LC.CTL.DZ_DIS forbids it (R304,
R492). -/
def State.zeroAll (s : State) : State :=
  let keep := (s.boot.dzDis || bit (s.reg rLcCtl) 63) && !s.boot.unfinished
  (List.range 16).foldl (fun t c => if keep then t.dcEnable c else t.enableZero c) s

/-- PWR.SLEW and PWR.RAIL.ADDR written from the board's configuration, which the spec does not give (step 6, R504; log entry 5). -/
def State.boardRails (s : State) : State :=
  let s1 := (List.range 5).foldl (fun t r => t.setRf (regAddr 11 0 10 (0x100 + 8 * r)) 48 9 (25 + (Config.boardSlew r).toNat % 376)) s
  (List.range 13).foldl (fun t r => t.setRf (regAddr 11 0 10 (0x200 + 8 * r)) 0 7 (Config.boardAddr r).toNat) s1

/-- The action of step n; at the end of step 2 the wipe of step 3 starts, which ends before step 3 does (R446). A warm reset in the middle of
a start-up that completes a transition leaves that to be completed (R486). -/
def State.bootAction (s : State) (n : Nat) : State :=
  if n = 2 then
    { (s.wsReset true).wipeVault 1 with
      boot := { s.boot with unfinished := match s.lcRows.getLast? with | some r => !r.2 | none => false } }
  else if n = 3 then (if s.boot.warm then s.wsReset false else s)
  else if n = 5 then 
    { ((List.range 4).foldl State.mcStart s).romSessions with alive := if s.chkstop || s.terminal then .low else .toggling }
  else if n = 6 then s.boardRails
  else if n = 7 then { s with halted := false }
  else if n = 8 then
    let t := ({ s.setLink 2 with plainDown := [] } : State).loadRoutes
    if t.boot.warm && !t.boot.unfinished then { t.resumeDram with boot := { t.boot with done := t.boot.done ++ [9, 10, 12] } } else t.trainAll
  else if n = 9 then ((List.range 16).foldl (fun t c => t.endTraining c true) s).zeroAll
  else if n = 10 then (if s.boot.unfinished then { s.blowDone with boot := { s.boot with unfinished := false } } else s)
  else if n = 11 then ((s.startChannelDie 8).startChannelDie 9)
  else if n = 12 then s.buildMap
  else if n = 14 then
    (if s.retired then s
     else if s.cmapState 0 = 2 then { s with held := s.held ++ [(0, ⟨.restart, 0, none⟩)] }
     else if s.cmapState 0 = 1 then (s.modUnit 0 fun c => { c with restart := true }).settle 0 64
     else s)
  else s

/-- A step of the start-up sequence ends (R520, R522). -/
def State.bootStepEnd (s : State) (n : Nat) : State :=
  if s.stepReady n then { s with boot := { s.boot with done := s.boot.done ++ [n] } }.bootAction n else s

end Sys2Proof.Machine
end

