-- ==== Sys2Proof/Machine/ServiceCmd.lean ====
section
/-! DEFINITION. Events and records at the service die: the fault collector (R451 to R472), FSP (R476 to R484), lifecycle
(R486 to R490), snapshots and time-of-day (R497, R512, R513), power and clocks (R501 to R509), the Pass (R516), start-up and
resets (R518 to R529), and register writes with a row of their own (R10, R494). -/
namespace Sys2Proof.Machine
open Sys2Proof

/-! ## Fault collector (R451 to R472) -/

/-- A kind that R453 assigns. -/
def kindAssigned (k : Nat) : Bool :=
  (decide (0x01 ≤ k) && decide (k ≤ 0x03)) || (decide (0x20 ≤ k) && decide (k ≤ 0x2B)) || (decide (0x30 ≤ k) && decide (k ≤ 0x36)) ||
    (decide (0x40 ≤ k) && decide (k ≤ 0x4A)) || (decide (0x50 ≤ k) && decide (k ≤ 0x57)) || (decide (0x60 ≤ k) && decide (k ≤ 0x6F)) ||
    (decide (0x70 ≤ k) && decide (k ≤ 0x76)) || (decide (0x80 ≤ k) && decide (k ≤ 0x83)) || (decide (0x88 ≤ k) && decide (k ≤ 0x8E)) ||
    k == 0x90 || k == 0x91 || (decide (0x98 ≤ k) && decide (k ≤ 0xA0)) || k == 0xA8 || k == 0xA9 || k == 0xB0

/-- The fault collector runs: step 5 of R520 has enabled it. -/
def State.collects (s : State) : Bool := s.powered && s.firmware

/-- A message whose parity is wrong on the line, or whose kind is not assigned, is replaced by kind 0xA9 (R451). -/
def State.parityError (s : State) (m : Msg) : State := (s.unqueue m).send 10 0x10 0xA9 5 (msgDie m.word)

/-- The fault collector takes the message that is next, once it is enabled (R452, R520). -/
def State.faultAccept (s : State) (parity : Bool) : State :=
  if !s.collects then s
  else match s.nextMsg with
  | none => s
  | some m => if parity || !(kindAssigned (msgKind m.word)) then s.parityError m else s.accept m

/-- FAULT_MESSAGE_ACCEPT (R452, R454). -/
def execFaultMessageAccept (parity : Bool) (s : State) : Result := .next (s.faultAccept parity)

/-- The oldest message waiting to be merged, replaced by kind 0xA9 on a parity error (R451). -/
def State.mergeOne (s : State) (parity : Bool) : State :=
  if !s.collects then s
  else if !parity then s.merge
  else match s.merges with
  | [] => s
  | m :: r => ({ s with merges := r } : State).send 10 0x10 0xA9 5 (msgDie m.word)

/-- MESSAGE_MERGED (R451). -/
def execMessageMerged (parity : Bool) (s : State) : Result := .next (s.mergeOne parity)

/-- An event of the service die, which needs its rails (R501). -/
def State.ifPowered (s t : State) : State := if s.powered then t else s

/-- THRESHOLD_WINDOW_RESET (R459). -/
def execThresholdWindowReset (kind : Byte) (s : State) : Result := .next (s.ifPowered (s.windowEnd kind.toNat))

/-- CONDITION_END (R461). -/
def execConditionEnd (die : Fin 11) (unit kind : Byte) (part : Nat) (s : State) : Result :=
  .next (s.condEnd die unit.toNat kind.toNat part)

/-- FC_ACK_WRITE (R463). -/
def execFcAckWrite (w : Writer) (v : Dword) (s : State) : Result := .next (s.regWrite w (rFc 8) v)

/-- FIRST_STAT_VALID_CLEAR (R460): a write of 1 to VALID. -/
def execFirstStatValidClear (w : Writer) (c : Fin 7) (s : State) : Result :=
  .next (s.writeBit w (rFirstStat c) 0 63 true)

/-- FC_INJ_CTL_ARM_SET (R469). -/
def execFcInjCtlArmSet (w : Writer) (v : Dword) (s : State) : Result := .next (s.writeBit w rInjCtl v 63 true)

/-- FC_INJ_CTL_ARM_CLEAR (R469). -/
def execFcInjCtlArmClear (w : Writer) (v : Dword) (s : State) : Result := .next (s.writeBit w rInjCtl v 63 false)

/-- INJECTION_PERFORMED (R469). -/
def execInjectionPerformed (s : State) : Result := .next (s.unlessFrozen s.performInjection)

/-- FLIT_CRC_ERROR (R468): after the flits sent since the last one, the flit `back` places before the newest fails. -/
def execFlitCrcError (die : Fin 11) (port : Fin 4) (f : FlitFail) (s : State) : Result :=
  .next (s.ifPowered (s.flitError die port f.sent f.back))

/-! ## FSP sessions (R476, R478, R482, R483) -/

/-- TLS_CONNECTION (R483). -/
def execTlsConnection (port : Fin 2) (c : TlsClient) (s : State) : Result := .next (s.connect port c)

/-- HELLO (R482): a record on a session (R474). -/
def execHello (se : Fin 2) (req : Word) (vmin vmax : Byte) (s : State) : Result :=
  .next (if (s.session se).isSome then (s.mcCode 0x3101).hello se req vmin.toNat vmax.toNat else s)

/-- BYE (R484): answered, then the session closes. -/
def execBye (se : Fin 2) (req : Word) (s : State) : Result :=
  .next (s.admitRecord se req 1 2 1 false fun t => (t.respond se 1 2 req 0 []).closeSession se)

/-- PING (R484). -/
def execPing (se : Fin 2) (req : Word) (s : State) : Result :=
  .next (s.admitRecord se req 1 3 1 false fun t => t.respond se 1 3 req 0 [])

/-- TAKEOVER (R483). -/
def execTakeover (se : Fin 2) (req : Word) (s : State) : Result :=
  .next (s.admitRecord se req 1 4 1 false fun t => t.takeover se req)

/-- RELEASE (R483). -/
def execRelease (se : Fin 2) (req : Word) (s : State) : Result :=
  .next (s.admitRecord se req 1 5 1 true fun t => t.release se req)

/-- SESSION_SILENCE_EXPIRY (R483). -/
def execSessionSilenceExpiry (se : Fin 2) (s : State) : Result := .next (s.silence se)

/-- SESSION_CONNECTION_LOST (R483). -/
def execSessionConnectionLost (se : Fin 2) (s : State) : Result := .next (s.closeSession se)

/-- UNASSIGNED_FSP_RECORD (R484): answered with status 0x0001; it counts as a record (R474, R483). -/
def State.unassigned (s : State) (i : Nat) (req : Word) (group code : Nat) : State :=
  match s.session i with
  | none => s
  | some x => ((s.setSession i (some { x with silent := false })).mcCode 0x3101).respond i group code req 0x0001 []

def execUnassignedFspRecord (se : Fin 2) (req : Word) (group code : Byte) (s : State) : Result :=
  .next (s.unassigned se req group.toNat code.toNat)

/-- MANAGEMENT_CORE_FAILURE (R475). -/
def execManagementCoreFailure (m : Fin 4) (s : State) : Result := .next (s.mcFail m)

/-- The sessions of a port whose link is lost close. -/
def State.closePort (s : State) (port : Nat) : State :=
  (List.range 2).foldl (fun t i => match t.session i with
    | some x => if x.port = port then t.closeSession i else t
    | none => t) s

/-- A management port loses its link (R476): its sessions close, and its PTP masters are gone. -/
def State.mgmtDown (s : State) (port : Nat) : State :=
  let t : State := { s with mgmtPorts := sput (fun _ => none) s.mgmtPorts port none }
  ((t.condBegin 10 (0x20 + port) 0x99 1 0 port).closePort port).ptpPortDown port

/-- MANAGEMENT_LINK_DOWN (R476). -/
def execManagementLinkDown (port : Fin 2) (s : State) : Result := .next (s.ifPowered (s.mgmtDown port))

/-- MANAGEMENT_LINK_UP (R476): the condition ends, and connections are accepted again. -/
def execManagementLinkUp (l : MgmtLink) (s : State) : Result := .next (s.ifPowered (s.mgmtUp l))

/-! ## FSP records (R484) -/

/-- LOAD_BEGIN (R484). -/
def execLoadBegin (se : Fin 2) (req : Word) (k : LoadKind) (ver : Nat) (s : State) : Result :=
  .next (s.admitRecord se req 2 1 1 true fun t => t.loadBegin se req k ver)

/-- LOAD_DATA (R484). -/
def execLoadData (se : Fin 2) (req : Word) (data : List Byte) (s : State) : Result :=
  .next (s.admitRecord se req 2 2 1 true fun t => t.loadData se req data)

/-- LOAD_END (R478, R484). -/
def execLoadEnd (se : Fin 2) (req : Word) (ok : Bool) (s : State) : Result :=
  .next (s.admitRecord se req 2 3 1 true fun t => t.loadEnd se req ok)

/-- POWER_STATUS (R484). -/
def execPowerStatus (se : Fin 2) (req : Word) (s : State) : Result :=
  .next (s.admitRecord se req 3 1 1 false fun t => t.respond se 3 1 req 0 t.telemetry)

/-- WARM_RESET (R522); refused while FC.STAT.TERMINAL is 1 (R464). -/
def execWarmReset (se : Fin 2) (req : Word) (s : State) : Result :=
  .next (s.admitRecord se req 3 2 1 true fun t =>
    if t.terminal then t.respond se 3 2 req 0x0004 [] else (t.respond se 3 2 req 0 []).warmReset)

/-- POWER_OFF (R501). -/
def execPowerOff (se : Fin 2) (req : Word) (s : State) : Result :=
  .next (s.admitRecord se req 3 3 1 true fun t => (t.respond se 3 3 req 0 []).powerDown)

/-- REG_READ (R484). -/
def execRegRead (se : Fin 2) (req : Word) (l : List Pa) (s : State) : Result :=
  .next (s.admitRecord se req 4 1 1 false fun t => t.fspRegRead se req (l.map (·.toNat)))

/-- REG_WRITE (R482, R484). -/
def execRegWrite (se : Fin 2) (req : Word) (l : List (Pa × Dword)) (s : State) : Result :=
  .next (s.admitRecord se req 4 2 1 true fun t => t.fspRegWrite se req (l.map fun x => (x.1.toNat, x.2)))

/-- FAULT_READ (R484). -/
def execFaultRead (se : Fin 2) (req : Word) (s : State) : Result :=
  .next (s.admitRecord se req 5 2 1 false fun t => t.respond se 5 2 req 0 t.faultReport)

/-- FAULT_ACK (R463): a class that cannot be acknowledged is answered as FC.ACK refuses it. -/
def execFaultAck (se : Fin 2) (req : Word) (cls : BitVec 3) (seq : Word) (s : State) : Result :=
  .next (s.admitRecord se req 5 3 1 true fun t =>
    if cls.toNat < 2 ∨ 5 < cls.toNat then t.respond se 5 3 req 0x0181 []
    else (t.ackUpTo cls.toNat seq 1).respond se 5 3 req 0 [])

/-- INJECT (R469, R484). -/
def execInject (se : Fin 2) (req : Word) (tgt ctl : Dword) (s : State) : Result :=
  .next (s.admitRecord se req 5 4 2 true fun t => t.writeAndRespond se 5 4 req [(rInjTgt, tgt), (rInjCtl, ctl)])

/-- TOD_SET (R51, R513). -/
def execTodSet (se : Fin 2) (req : Word) (v : Dword) (s : State) : Result :=
  .next (s.admitRecord se req 6 1 1 true fun t =>
    if bit (t.reg rTodCtl) 63 then t.respond se 6 1 req 0x0183 []
    else (t.stepTod false v).respond se 6 1 req 0 [])

/-- CLK.TOD_CTL with the domain, transport and enable of PTP_CONFIG (R477). -/
def ptpValue (old : Dword) (domain : Byte) (transport : BitVec 2) (en : Bool) : Dword :=
  setBit (fset (fset old 8 8 domain.toNat) 6 2 transport.toNat) 63 en

/-- PTP_CONFIG (R477, R484). -/
def execPtpConfig (se : Fin 2) (req : Word) (domain : Byte) (transport : BitVec 2) (en : Bool) (s : State) : Result :=
  .next (s.admitRecord se req 6 2 1 true fun t =>
    t.writeAndRespond se 6 2 req [(rTodCtl, ptpValue (t.reg rTodCtl) domain transport en)])

/-- SNAP (R497): answered when the snapshot is captured. -/
def execSnap (se : Fin 2) (req : Word) (s : State) : Result :=
  .next (s.admitRecord se req 7 1 2 false fun t => t.snapRequest (some (se.val, req)))

/-- SPARE_POLICY (R484): SV.SPARE_POOL.XDIE and RESERVE. -/
def execSparePolicy (se : Fin 2) (req : Word) (xdie : Bool) (reserve : BitVec 16) (s : State) : Result :=
  .next (s.admitRecord se req 8 1 2 true fun t =>
    t.writeAndRespond se 8 1 req [(rSparePool, setBit (fset (t.reg rSparePool) 16 16 reserve.toNat) 32 xdie)])

/-- CMAP_WRITE (R33, R535). -/
def execCmapWrite (se : Fin 2) (req : Word) (l : List (CpuNo × Dword)) (s : State) : Result :=
  .next (s.admitRecord se req 8 2 2 true fun t => t.writeAndRespond se 8 2 req (l.map fun x => (rCmap x.1, x.2)))

/-- LC_NONCE (R484, R490). -/
def execLcNonce (se : Fin 2) (req : Word) (s : State) : Result :=
  .next (s.admitRecord se req 9 1 3 false fun t => t.respond se 9 1 req 0 ((List.range 4).map fun i => t.reg (rNonce i)))

/-- LC_TRANSITION (R488 to R490): the nonce is replaced whether it is accepted or refused. -/
def execLcTransition (se : Fin 2) (req : Word) (target : BitVec 4) (nonce : BitVec 256) (g : LcSig) (s : State) : Result :=
  let t := s.admitRecord se req 9 2 3 true fun t => t.lcTransition se req target.toNat nonce g
  .next (if (s.session se).isSome then t.newNonce else t)

/-- LC_PROVISION (R484). -/
def execLcProvision (se : Fin 2) (req : Word) (anchor keyHash node : List Byte) (s : State) : Result :=
  .next (s.admitRecord se req 9 3 3 true fun t => t.lcProvision se req ⟨anchor, keyHash, node⟩)

/-- LC_WIPE_STEP_END (R489). -/
def execLcWipeStepEnd (s : State) : Result := .next (s.ifPowered s.wipeStepEnd)

/-- JTAG_INSTRUCTION (R487). -/
def execJtagInstruction (i : JtagInstr) (s : State) : Result := .next (s.ifPowered (s.jtagLoad i))

/-! ## Snapshots and time-of-day (R497, R512, R513) -/

/-- SNAP_GO (R497). -/
def execSnapGo (w : Writer) (s : State) : Result := .next (s.writeBit w (regAddr 10 0 10 0x10) 0 63 true)

/-- SNAPSHOT_CAPTURE (R497). -/
def execSnapshotCapture (s : State) : Result := .next (s.ifPowered s.snapCapture)

/-- SNAPSHOT_DONE (R497). -/
def execSnapshotDone (s : State) : Result := .next (s.ifPowered s.snapDone)

/-- PTP_EVENT_MESSAGE (R512). -/
def execPtpEventMessage (e : PtpEvent) (s : State) : Result := .next (s.ifPowered (s.ptpMessage e))

/-- PTP_HOLDOVER (R512). -/
def execPtpHoldover (s : State) : Result := .next (s.ifPowered s.ptpHold)

/-- CLK_TOD_SET_WRITE (R513). -/
def execClkTodSetWrite (w : Writer) (v : Dword) (s : State) : Result := .next (s.regWrite w (regAddr 12 0 10 0x110) v)

/-! ## Power and clocks (R503 to R509) -/

/-- PMBUS_POLL (R503): each rail's regulator is read once. -/
def execPmbusPoll (rds : List (Option Reading)) (s : State) : Result :=
  if railReadings rds then .next (s.pollRails rds) else .fault .illFormedCommand

/-- SMBALERT (R503): an immediate read. -/
def execSmbalert (rds : List (Option Reading)) (s : State) : Result :=
  if railReadings rds then .next (s.pollRails rds) else .fault .illFormedCommand

/-- A governor's interval, while the dies of the rail are clocked. -/
def State.governs (s : State) (r : Nat) (o : GovObs) : State := if s.clocked (if r < 4 then 2 * r else 8) then (s.governor r o).adapt r o.volts else s

/-- GOVERNOR_INTERVAL (R502, R505). -/
def execGovernorInterval (rail : Fin 5) (o : GovObs) (s : State) : Result := .next (s.governs rail o)

/-- PWR_SLEW_WRITE (R504). -/
def execPwrSlewWrite (w : Writer) (r : Fin 5) (v : Dword) (s : State) : Result :=
  .next (s.regWrite w (regAddr 11 0 10 (0x100 + 8 * r.val)) v)

/-- DROOP_DETECTED (R507). -/
def execDroopDetected (die : CxDie) (cluster : Fin 2) (o : DroopObs) (s : State) : Result :=
  .next (if s.clocked die then s.droop die cluster o.supply.toNat o.stretch.toNat else s)

/-- DROOP_RELEASE (R507). -/
def execDroopRelease (die : CxDie) (cluster : Fin 2) (s : State) : Result := .next (s.droopEnd die cluster)

/-- CLOCK_SYNTHESISER_UNLOCK (R453, R509). -/
def execClockSynthesiserUnlock (d : Fin 60) (s : State) : Result :=
  .next (s.ifPowered (s.condBegin (domainDie d) 0x7C 0x8E 5 d d))

/-- PASS_START (R516). -/
def execPassStart (die : Fin 11) (o : PassObs) (s : State) : Result := .next (s.passStart die o)

/-- PLAIN_NODE_BUFFER_ERROR (R453). -/
def execPlainNodeBufferError (die : Fin 11) (s : State) : Result := .next (s.ifPowered (s.send die 0x70 0x82 5 0))

/-- TOD_DISTRIBUTION_FAULT (R453). -/
def execTodDistributionFault (s : State) : Result := .next (s.ifPowered (s.send 10 0x30 0x9D 5 0))

/-- FUSE_CONTROLLER_FAULT (R453). -/
def execFuseControllerFault (s : State) : Result := .next (s.ifPowered (s.send 10 0x11 0x9E 6 0))

/-! ## Resets and start-up (R501, R518 to R529) -/

/-- RESET_N (R527). -/
def execResetN (low : Nat) (s : State) : Result := .next (s.resetPin low)

/-- COLD_RESET_STEP_END (R520): the steps are numbered from 1. -/
def execColdResetStepEnd (n : Fin 14) (s : State) : Result := .next (s.bootStepEnd (n.val + 1))

/-- VAUX_LOSS (R529). -/
def execVauxLoss (s : State) : Result := .next s.vauxFails

/-- POWER_ON (R501). -/
def execPowerOn (s : State) : Result := .next s.powerUp

/-! ## Register writes (R10, R494) -/

/-- CORE_CHK_STAT_CLR (R494). -/
def execCoreChkStatClr (w : Writer) (core : CoreNo) (v : Dword) (s : State) : Result := .next (s.writeBit w (rChkStat core) v 60 true)

/-- L2_ERR_CLR (R494). -/
def execL2ErrClr (w : Writer) (core : CoreNo) (v : Dword) (s : State) : Result := .next (s.writeBit w (rL2Err core) v 61 true)

/-- L3_ERR_CLR (R494). -/
def execL3ErrClr (w : Writer) (die : CxDie) (v : Dword) (s : State) : Result := .next (s.writeBit w (rL3Err die) v 61 true)

/-- DC_ERR_CLR (R494). -/
def execDcErrClr (w : Writer) (c : Fin 16) (v : Dword) (s : State) : Result := .next (s.writeBit w (rDc c 0x38) v 61 true)

/-- CS_STALE_CLR (R494). -/
def execCsStaleClr (w : Writer) (die : ChDie) (img : Fin 96) (v : Dword) (s : State) : Result :=
  .next (s.writeBit w (rCs (chNum die) (0x1800 + 8 * img.val)) v 62 true)

/-- CL_CNT_CLR (R494). -/
def execClCntClr (w : Writer) (die : ChDie) (port : Fin 12) (tag : Bool) (v : Dword) (s : State) : Result :=
  .next (s.writeBit w (rCl (chNum die) port (if tag then 0x128 else 0x120)) v 62 true)

/-- ACC_ERR_CLR (R494). -/
def execAccErrClr (w : Writer) (die : Fin 10) (inst : Fin 8) (v : Dword) (s : State) : Result :=
  .next (s.writeBit w (rAcc die inst 0x18) v 61 true)

/-- WS_CNT_CLR (R494). -/
def execWsCntClr (w : Writer) (die : WsDie) (v : Dword) (s : State) : Result :=
  .next (s.writeBit w (regAddr 7 0 (wsNum die) 0x18) v 60 true)

/-- WS_ERR_CLR (R494). -/
def execWsErrClr (w : Writer) (die : WsDie) (v : Dword) (s : State) : Result :=
  .next (s.writeBit w (regAddr 7 0 (wsNum die) 0x20) v 61 true)

/-- FC_CNT_CLR (R494). -/
def execFcCntClr (w : Writer) (c : Fin 7) (v : Dword) (s : State) : Result := .next (s.writeBit w (rFcCnt c) v 62 true)

/-- FC_CNT_MISC_CLR (R494). -/
def execFcCntMiscClr (w : Writer) (v : Dword) (s : State) : Result := .next (s.writeBit w rCntMisc v 61 true)

/-- PWR_DROOP_CLR (R494). -/
def execPwrDroopClr (w : Writer) (die : CxDie) (v : Dword) (s : State) : Result := .next (s.writeBit w (rDroop die) v 62 true)

/-- REGISTER_WRITE (R10, R14 to R16). -/
def execRegisterWrite (w : Writer) (a : Pa) (v : Dword) (s : State) : Result := .next (s.regWrite w a.toNat v)

end Sys2Proof.Machine
end

