-- ==== Sys2Proof/Machine/Dispatch.lean ====
section
/-! DEFINITION. Which meaning each command has: one arm for each row of spec/opcode_table.json. -/
namespace Sys2Proof.Machine
open Sys2Proof

/-- The effect of a command on everything but the queue. -/
def exec (i : Instr) (s : State) : Host.Outcome State Fault Refusal :=
  match i with
  | .add o => Sys2Proof.Machine.execAdd o s
  | .addw o => Sys2Proof.Machine.execAddw o s
  | .addl o => Sys2Proof.Machine.execAddl o s
  | .addlw o => Sys2Proof.Machine.execAddlw o s
  | .sub o => Sys2Proof.Machine.execSub o s
  | .subw o => Sys2Proof.Machine.execSubw o s
  | .subl o => Sys2Proof.Machine.execSubl o s
  | .sublw o => Sys2Proof.Machine.execSublw o s
  | .and o => Sys2Proof.Machine.execAnd o s
  | .or o => Sys2Proof.Machine.execOr o s
  | .xor o => Sys2Proof.Machine.execXor o s
  | .nor o => Sys2Proof.Machine.execNor o s
  | .andc o => Sys2Proof.Machine.execAndc o s
  | .neg o => Sys2Proof.Machine.execNeg o s
  | .negw o => Sys2Proof.Machine.execNegw o s
  | .cmp o => Sys2Proof.Machine.execCmp o s
  | .cmpw o => Sys2Proof.Machine.execCmpw o s
  | .cmpl o => Sys2Proof.Machine.execCmpl o s
  | .cmplw o => Sys2Proof.Machine.execCmplw o s
  | .addi o => Sys2Proof.Machine.execAddi o s
  | .addli o => Sys2Proof.Machine.execAddli o s
  | .addwi o => Sys2Proof.Machine.execAddwi o s
  | .andi o => Sys2Proof.Machine.execAndi o s
  | .ori o => Sys2Proof.Machine.execOri o s
  | .xori o => Sys2Proof.Machine.execXori o s
  | .cmpi o => Sys2Proof.Machine.execCmpi o s
  | .cmpli o => Sys2Proof.Machine.execCmpli o s
  | .li o => Sys2Proof.Machine.execLi o s
  | .lis o => Sys2Proof.Machine.execLis o s
  | .sxb o => Sys2Proof.Machine.execSxb o s
  | .sxh o => Sys2Proof.Machine.execSxh o s
  | .sxw o => Sys2Proof.Machine.execSxw o s
  | .zxb o => Sys2Proof.Machine.execZxb o s
  | .zxh o => Sys2Proof.Machine.execZxh o s
  | .zxw o => Sys2Proof.Machine.execZxw o s
  | .clz o => Sys2Proof.Machine.execClz o s
  | .ctz o => Sys2Proof.Machine.execCtz o s
  | .popc o => Sys2Proof.Machine.execPopc o s
  | .sll o => Sys2Proof.Machine.execSll o s
  | .srl o => Sys2Proof.Machine.execSrl o s
  | .sra o => Sys2Proof.Machine.execSra o s
  | .rol o => Sys2Proof.Machine.execRol o s
  | .ror o => Sys2Proof.Machine.execRor o s
  | .sllw o => Sys2Proof.Machine.execSllw o s
  | .srlw o => Sys2Proof.Machine.execSrlw o s
  | .sraw o => Sys2Proof.Machine.execSraw o s
  | .rolw o => Sys2Proof.Machine.execRolw o s
  | .rorw o => Sys2Proof.Machine.execRorw o s
  | .slli o => Sys2Proof.Machine.execSlli o s
  | .srli o => Sys2Proof.Machine.execSrli o s
  | .srai o => Sys2Proof.Machine.execSrai o s
  | .roli o => Sys2Proof.Machine.execRoli o s
  | .rori o => Sys2Proof.Machine.execRori o s
  | .sllwi o => Sys2Proof.Machine.execSllwi o s
  | .srlwi o => Sys2Proof.Machine.execSrlwi o s
  | .srawi o => Sys2Proof.Machine.execSrawi o s
  | .rolwi o => Sys2Proof.Machine.execRolwi o s
  | .rorwi o => Sys2Proof.Machine.execRorwi o s
  | .mul o => Sys2Proof.Machine.execMul o s
  | .mulw o => Sys2Proof.Machine.execMulw o s
  | .muls o => Sys2Proof.Machine.execMuls o s
  | .mulu o => Sys2Proof.Machine.execMulu o s
  | .div o => Sys2Proof.Machine.execDiv o s
  | .divl o => Sys2Proof.Machine.execDivl o s
  | .divw o => Sys2Proof.Machine.execDivw o s
  | .divlw o => Sys2Proof.Machine.execDivlw o s
  | .lb o => Sys2Proof.Machine.execLb o s
  | .lbu o => Sys2Proof.Machine.execLbu o s
  | .lh o => Sys2Proof.Machine.execLh o s
  | .lhu o => Sys2Proof.Machine.execLhu o s
  | .lw o => Sys2Proof.Machine.execLw o s
  | .lwu o => Sys2Proof.Machine.execLwu o s
  | .ld o => Sys2Proof.Machine.execLd o s
  | .lq o => Sys2Proof.Machine.execLq o s
  | .stb o => Sys2Proof.Machine.execStb o s
  | .sth o => Sys2Proof.Machine.execSth o s
  | .stw o => Sys2Proof.Machine.execStw o s
  | .std o => Sys2Proof.Machine.execStd o s
  | .stq o => Sys2Proof.Machine.execStq o s
  | .la o => Sys2Proof.Machine.execLa o s
  | .brc o => Sys2Proof.Machine.execBrc o s
  | .br o => Sys2Proof.Machine.execBr o s
  | .cbeq o => Sys2Proof.Machine.execCbeq o s
  | .cbne o => Sys2Proof.Machine.execCbne o s
  | .cblt o => Sys2Proof.Machine.execCblt o s
  | .cbge o => Sys2Proof.Machine.execCbge o s
  | .cbltl o => Sys2Proof.Machine.execCbltl o s
  | .cbgel o => Sys2Proof.Machine.execCbgel o s
  | .callr o => Sys2Proof.Machine.execCallr o s
  | .callg o => Sys2Proof.Machine.execCallg o s
  | .ret o => Sys2Proof.Machine.execRet o s
  | .rsspill o => Sys2Proof.Machine.execRsspill o s
  | .rsfill o => Sys2Proof.Machine.execRsfill o s
  | .csd o => Sys2Proof.Machine.execCsd o s
  | .csq o => Sys2Proof.Machine.execCsq o s
  | .faad o => Sys2Proof.Machine.execFaad o s
  | .faaw o => Sys2Proof.Machine.execFaaw o s
  | .swpd o => Sys2Proof.Machine.execSwpd o s
  | .fence o => Sys2Proof.Machine.execFence o s
  | .sync o => Sys2Proof.Machine.execSync o s
  | .crcstep o => Sys2Proof.Machine.execCrcstep o s
  | .parity o => Sys2Proof.Machine.execParity o s
  | .brev o => Sys2Proof.Machine.execBrev o s
  | .bndchk o => Sys2Proof.Machine.execBndchk o s
  | .faddd o => Sys2Proof.Machine.execFaddd o s
  | .fadds o => Sys2Proof.Machine.execFadds o s
  | .fsubd o => Sys2Proof.Machine.execFsubd o s
  | .fsubs o => Sys2Proof.Machine.execFsubs o s
  | .fmuld o => Sys2Proof.Machine.execFmuld o s
  | .fmuls o => Sys2Proof.Machine.execFmuls o s
  | .fdivd o => Sys2Proof.Machine.execFdivd o s
  | .fdivs o => Sys2Proof.Machine.execFdivs o s
  | .fsqrtd o => Sys2Proof.Machine.execFsqrtd o s
  | .fsqrts o => Sys2Proof.Machine.execFsqrts o s
  | .frintd o => Sys2Proof.Machine.execFrintd o s
  | .frints o => Sys2Proof.Machine.execFrints o s
  | .fcmpd o => Sys2Proof.Machine.execFcmpd o s
  | .fcmps o => Sys2Proof.Machine.execFcmps o s
  | .fcmpsd o => Sys2Proof.Machine.execFcmpsd o s
  | .fcmpss o => Sys2Proof.Machine.execFcmpss o s
  | .fmaddd o => Sys2Proof.Machine.execFmaddd o s
  | .fmadds o => Sys2Proof.Machine.execFmadds o s
  | .fmsubd o => Sys2Proof.Machine.execFmsubd o s
  | .fmsubs o => Sys2Proof.Machine.execFmsubs o s
  | .fnmaddd o => Sys2Proof.Machine.execFnmaddd o s
  | .fnmadds o => Sys2Proof.Machine.execFnmadds o s
  | .fnmsubd o => Sys2Proof.Machine.execFnmsubd o s
  | .fnmsubs o => Sys2Proof.Machine.execFnmsubs o s
  | .cvtsd o => Sys2Proof.Machine.execCvtsd o s
  | .cvtds o => Sys2Proof.Machine.execCvtds o s
  | .cvtgd o => Sys2Proof.Machine.execCvtgd o s
  | .cvtgs o => Sys2Proof.Machine.execCvtgs o s
  | .cvtld o => Sys2Proof.Machine.execCvtld o s
  | .cvtls o => Sys2Proof.Machine.execCvtls o s
  | .cvtdg o => Sys2Proof.Machine.execCvtdg o s
  | .cvtsg o => Sys2Proof.Machine.execCvtsg o s
  | .cvtdl o => Sys2Proof.Machine.execCvtdl o s
  | .cvtsl o => Sys2Proof.Machine.execCvtsl o s
  | .fmr o => Sys2Proof.Machine.execFmr o s
  | .fnegd o => Sys2Proof.Machine.execFnegd o s
  | .fabsd o => Sys2Proof.Machine.execFabsd o s
  | .fnegs o => Sys2Proof.Machine.execFnegs o s
  | .fabss o => Sys2Proof.Machine.execFabss o s
  | .mvfg o => Sys2Proof.Machine.execMvfg o s
  | .mvgf o => Sys2Proof.Machine.execMvgf o s
  | .lfs o => Sys2Proof.Machine.execLfs o s
  | .lfd o => Sys2Proof.Machine.execLfd o s
  | .stfs o => Sys2Proof.Machine.execStfs o s
  | .stfd o => Sys2Proof.Machine.execStfd o s
  | .lpsw o => Sys2Proof.Machine.execLpsw o s
  | .epsw o => Sys2Proof.Machine.execEpsw o s
  | .spm o => Sys2Proof.Machine.execSpm o s
  | .ident o => Sys2Proof.Machine.execIdent o s
  | .irun o => Sys2Proof.Machine.execIrun o s
  | .irunExit n => Sys2Proof.Machine.execIrunExit n s
  | .hcall o => Sys2Proof.Machine.execHcall o s
  | .svc o => Sys2Proof.Machine.execSvc o s
  | .lctl o => Sys2Proof.Machine.execLctl o s
  | .stctl o => Sys2Proof.Machine.execStctl o s
  | .rdtod o => Sys2Proof.Machine.execRdtod o s
  | .chkmode o => Sys2Proof.Machine.execChkmode o s
  | .cpusigExternalCall o => Sys2Proof.Machine.execCpusigExternalCall o s
  | .cpusigEmergencySignal o => Sys2Proof.Machine.execCpusigEmergencySignal o s
  | .cpusigStop o => Sys2Proof.Machine.execCpusigStop o s
  | .cpusigRestart o => Sys2Proof.Machine.execCpusigRestart o s
  | .cpusigCoreReset o => Sys2Proof.Machine.execCpusigCoreReset o s
  | .tbegin o => Sys2Proof.Machine.execTbegin o s
  | .tend o => Sys2Proof.Machine.execTend o s
  | .tabort o => Sys2Proof.Machine.execTabort o s
  | .transactionConflict n a write => Sys2Proof.Machine.execTransactionConflict n a write s
  | .tlbiv o => Sys2Proof.Machine.execTlbiv o s
  | .tlbia o => Sys2Proof.Machine.execTlbia o s
  | .tlbii o => Sys2Proof.Machine.execTlbii o s
  | .tlbInvalidationReceived n inv => Sys2Proof.Machine.execTlbInvalidationReceived n inv s
  | .lra o => Sys2Proof.Machine.execLra o s
  | .cinv o => Sys2Proof.Machine.execCinv o s
  | .cclean o => Sys2Proof.Machine.execCclean o s
  | .cclinv o => Sys2Proof.Machine.execCclinv o s
  | .czero o => Sys2Proof.Machine.execCzero o s
  | .l2dis o => Sys2Proof.Machine.execL2dis o s
  | .l2en o => Sys2Proof.Machine.execL2en o s
  | .l3dis o => Sys2Proof.Machine.execL3dis o s
  | .l3en o => Sys2Proof.Machine.execL3en o s
  | .iostart o => Sys2Proof.Machine.execIostart o s
  | .iohalt o => Sys2Proof.Machine.execIohalt o s
  | .ioclear o => Sys2Proof.Machine.execIoclear o s
  | .iotest o => Sys2Proof.Machine.execIotest o s
  | .iostore o => Sys2Proof.Machine.execIostore o s
  | .iomodify o => Sys2Proof.Machine.execIomodify o s
  | .csimageCreate o => Sys2Proof.Machine.execCsimageCreate o s
  | .csimageModify o => Sys2Proof.Machine.execCsimageModify o s
  | .csimageRemove o => Sys2Proof.Machine.execCsimageRemove o s
  | .csmapMap o => Sys2Proof.Machine.execCsmapMap o s
  | .csmapUnmap o => Sys2Proof.Machine.execCsmapUnmap o s
  | .csmapReplace o => Sys2Proof.Machine.execCsmapReplace o s
  | .csshare o => Sys2Proof.Machine.execCsshare o s
  | .csquiesce o => Sys2Proof.Machine.execCsquiesce o s
  | .csreset o => Sys2Proof.Machine.execCsreset o s
  | .query o slot => Sys2Proof.Machine.execQuery o slot s
  | .defcmp o => Sys2Proof.Machine.execDefcmp o s
  | .defdcm o => Sys2Proof.Machine.execDefdcm o s
  | .aesGcmEncrypt o => Sys2Proof.Machine.execAesGcmEncrypt o s
  | .aesGcmDecrypt o => Sys2Proof.Machine.execAesGcmDecrypt o s
  | .aesXtsEncrypt o => Sys2Proof.Machine.execAesXtsEncrypt o s
  | .aesXtsDecrypt o => Sys2Proof.Machine.execAesXtsDecrypt o s
  | .aesCbcEncrypt o => Sys2Proof.Machine.execAesCbcEncrypt o s
  | .aesCbcDecrypt o => Sys2Proof.Machine.execAesCbcDecrypt o s
  | .aesCtr o => Sys2Proof.Machine.execAesCtr o s
  | .hash o => Sys2Proof.Machine.execHash o s
  | .pkwrapSymmetric o => Sys2Proof.Machine.execPkwrapSymmetric o s
  | .sign o => Sys2Proof.Machine.execSign o s
  | .verify o => Sys2Proof.Machine.execVerify o s
  | .keygen o => Sys2Proof.Machine.execKeygen o s
  | .encaps o => Sys2Proof.Machine.execEncaps o s
  | .decaps o => Sys2Proof.Machine.execDecaps o s
  | .pkwrapPrivate o => Sys2Proof.Machine.execPkwrapPrivate o s
  | .rndg o => Sys2Proof.Machine.execRndg o s
  | .rndb o => Sys2Proof.Machine.execRndb o s
  | .reseed o => Sys2Proof.Machine.execReseed o s
  | .coprocessorUnavailable u w => Sys2Proof.Machine.execCoprocessorUnavailable u w s
  | .customerSlotInstruction u w => Sys2Proof.Machine.execCustomerSlotInstruction u w s
  | .operationException u w => Sys2Proof.Machine.execOperationException u w s
  | .randomBufferRefill core => Sys2Proof.Machine.execRandomBufferRefill core s
  | .drbgReseedCount die inst => Sys2Proof.Machine.execDrbgReseedCount die inst s
  | .healthTestFailed die => Sys2Proof.Machine.execHealthTestFailed die s
  | .externalInterruption u => Sys2Proof.Machine.execExternalInterruption u s
  | .ioInterruption n => Sys2Proof.Machine.execIoInterruption n s
  | .machineCheckInterruption n => Sys2Proof.Machine.execMachineCheckInterruption n s
  | .restartInterruption n => Sys2Proof.Machine.execRestartInterruption n s
  | .cpuTimerCondition u => Sys2Proof.Machine.execCpuTimerCondition u s
  | .clockComparatorCondition u => Sys2Proof.Machine.execClockComparatorCondition u s
  | .mismatchRetry n => Sys2Proof.Machine.execMismatchRetry n s
  | .squashedMismatch n ia => Sys2Proof.Machine.execSquashedMismatch n ia s
  | .logicSelftestEnd n v => Sys2Proof.Machine.execLogicSelftestEnd n v s
  | .comparatorFault n parity => Sys2Proof.Machine.execComparatorFault n parity s
  | .spareSelftestEnd die cluster pass => Sys2Proof.Machine.execSpareSelftestEnd die cluster pass s
  | .moveComplete n readable => Sys2Proof.Machine.execMoveComplete n readable s
  | .failingCoreSweepEnd core => Sys2Proof.Machine.execFailingCoreSweepEnd core s
  | .svCmapWrite n v => Sys2Proof.Machine.execSvCmapWrite n v s
  | .lineFillArrival core a => Sys2Proof.Machine.execLineFillArrival core a s
  | .victimAccepted core a => Sys2Proof.Machine.execVictimAccepted core a s
  | .homeReadRequest die a => Sys2Proof.Machine.execHomeReadRequest die a s
  | .homeOwnershipRequest die a => Sys2Proof.Machine.execHomeOwnershipRequest die a s
  | .homeWriteback die a => Sys2Proof.Machine.execHomeWriteback die a s
  | .coherenceRemoval core a => Sys2Proof.Machine.execCoherenceRemoval core a s
  | .engineStorageRead a len => Sys2Proof.Machine.execEngineStorageRead a len s
  | .engineStorageWrite a data => Sys2Proof.Machine.execEngineStorageWrite a data s
  | .l2SweepEnd core => Sys2Proof.Machine.execL2SweepEnd core s
  | .l3SweepEnd die => Sys2Proof.Machine.execL3SweepEnd die s
  | .l2CtlEnClear w core => Sys2Proof.Machine.execL2CtlEnClear w core s
  | .l2CtlEnSet w core => Sys2Proof.Machine.execL2CtlEnSet w core s
  | .l3CtlEnClear w die => Sys2Proof.Machine.execL3CtlEnClear w die s
  | .l3CtlEnSet w die => Sys2Proof.Machine.execL3CtlEnSet w die s
  | .dramReadRequest c a => Sys2Proof.Machine.execDramReadRequest c a s
  | .dramWriteRequest c a data poison => Sys2Proof.Machine.execDramWriteRequest c a data poison s
  | .dramCommandIssue c caErr => Sys2Proof.Machine.execDramCommandIssue c caErr s
  | .refreshInterval c => Sys2Proof.Machine.execRefreshInterval c s
  | .dcRefModeWrite w c v => Sys2Proof.Machine.execDcRefModeWrite w c v s
  | .dcTrainStart w c v => Sys2Proof.Machine.execDcTrainStart w c v s
  | .trainingEnd c ok => Sys2Proof.Machine.execTrainingEnd c ok s
  | .selfRefreshEntry c => Sys2Proof.Machine.execSelfRefreshEntry c s
  | .selfRefreshExit c => Sys2Proof.Machine.execSelfRefreshExit c s
  | .dcCtlZero w c v => Sys2Proof.Machine.execDcCtlZero w c v s
  | .zeroingEnd c => Sys2Proof.Machine.execZeroingEnd c s
  | .dcCtlEnSet w c v => Sys2Proof.Machine.execDcCtlEnSet w c v s
  | .dcCtlEnClear w c v => Sys2Proof.Machine.execDcCtlEnClear w c v s
  | .drainEnd c => Sys2Proof.Machine.execDrainEnd c s
  | .journalStateDurable w => Sys2Proof.Machine.execJournalStateDurable w s
  | .mirrorLinkDown => Sys2Proof.Machine.execMirrorLinkDown s
  | .mirrorLinkReturn => Sys2Proof.Machine.execMirrorLinkReturn s
  | .mirrorCopyEnd => Sys2Proof.Machine.execMirrorCopyEnd s
  | .engineFailure die e => Sys2Proof.Machine.execEngineFailure die e s
  | .ceCtlEnSet w die e v => Sys2Proof.Machine.execCeCtlEnSet w die e v s
  | .ceCtlEnClear w die e v => Sys2Proof.Machine.execCeCtlEnClear w die e v s
  | .csCtlEnSet w die v => Sys2Proof.Machine.execCsCtlEnSet w die v s
  | .channelDieFailure die coll => Sys2Proof.Machine.execChannelDieFailure die coll s
  | .quiesceGraceExpiry n => Sys2Proof.Machine.execQuiesceGraceExpiry n s
  | .schedulingRound die port => Sys2Proof.Machine.execSchedulingRound die port s
  | .linkUp die port peer200 => Sys2Proof.Machine.execLinkUp die port peer200 s
  | .linkDown die port => Sys2Proof.Machine.execLinkDown die port s
  | .pfcFrame die port enabled times => Sys2Proof.Machine.execPfcFrame die port enabled times s
  | .pauseFrame die port time => Sys2Proof.Machine.execPauseFrame die port time s
  | .receiveBufferXon die port => Sys2Proof.Machine.execReceiveBufferXon die port s
  | .pfcRepeatExpiry die port => Sys2Proof.Machine.execPfcRepeatExpiry die port s
  | .loginReq f => Sys2Proof.Machine.execLoginReq f s
  | .loginAcc f => Sys2Proof.Machine.execLoginAcc f s
  | .loginRej f => Sys2Proof.Machine.execLoginRej f s
  | .logout f => Sys2Proof.Machine.execLogout f s
  | .echo f => Sys2Proof.Machine.execEcho f s
  | .echoReply f => Sys2Proof.Machine.execEchoReply f s
  | .data f => Sys2Proof.Machine.execData f s
  | .ack f => Sys2Proof.Machine.execAck f s
  | .status f => Sys2Proof.Machine.execStatus f s
  | .working f => Sys2Proof.Machine.execWorking f s
  | .abortAck f => Sys2Proof.Machine.execAbortAck f s
  | .ackDelayExpiry p => Sys2Proof.Machine.execAckDelayExpiry p s
  | .ackTimeout p => Sys2Proof.Machine.execAckTimeout p s
  | .pauseMaxExceeded die port => Sys2Proof.Machine.execPauseMaxExceeded die port s
  | .statusWaitExpiry p => Sys2Proof.Machine.execStatusWaitExpiry p s
  | .keepaliveExpiry die slot => Sys2Proof.Machine.execKeepaliveExpiry die slot s
  | .loginAnswerTimeout die slot => Sys2Proof.Machine.execLoginAnswerTimeout die slot s
  | .loginRetryExpiry die slot => Sys2Proof.Machine.execLoginRetryExpiry die slot s
  | .abortResendExpiry xid => Sys2Proof.Machine.execAbortResendExpiry xid s
  | .clCtlEnSet w die port v => Sys2Proof.Machine.execClCtlEnSet w die port v s
  | .clCtlEnClear w die port v => Sys2Proof.Machine.execClCtlEnClear w die port v s
  | .clLgnAddrEnSet w die slot v => Sys2Proof.Machine.execClLgnAddrEnSet w die slot v s
  | .clLgnAddrEnClear w die slot v => Sys2Proof.Machine.execClLgnAddrEnClear w die slot v s
  | .accCtlEnSet w die inst v => Sys2Proof.Machine.execAccCtlEnSet w die inst v s
  | .accCtlEnClear w die inst v => Sys2Proof.Machine.execAccCtlEnClear w die inst v s
  | .wsBankOwnWrite eng die bank v => Sys2Proof.Machine.execWsBankOwnWrite eng die bank v s
  | .bankCopyEnd die => Sys2Proof.Machine.execBankCopyEnd die s
  | .bankMarchEnd die pass => Sys2Proof.Machine.execBankMarchEnd die pass s
  | .testInPlaceEnd die bank pass => Sys2Proof.Machine.execTestInPlaceEnd die bank pass s
  | .wsTestEnSet w die v => Sys2Proof.Machine.execWsTestEnSet w die v s
  | .wsVaultWipe => Sys2Proof.Machine.execWsVaultWipe s
  | .vaultWipeEnd failed => Sys2Proof.Machine.execVaultWipeEnd failed s
  | .tamperIndication => Sys2Proof.Machine.execTamperIndication s
  | .faultMessageAccept parity => Sys2Proof.Machine.execFaultMessageAccept parity s
  | .messageMerged parity => Sys2Proof.Machine.execMessageMerged parity s
  | .thresholdWindowReset kind => Sys2Proof.Machine.execThresholdWindowReset kind s
  | .conditionEnd die unit kind part => Sys2Proof.Machine.execConditionEnd die unit kind part s
  | .fcAckWrite w v => Sys2Proof.Machine.execFcAckWrite w v s
  | .firstStatValidClear w c => Sys2Proof.Machine.execFirstStatValidClear w c s
  | .fcInjCtlArmSet w v => Sys2Proof.Machine.execFcInjCtlArmSet w v s
  | .fcInjCtlArmClear w v => Sys2Proof.Machine.execFcInjCtlArmClear w v s
  | .injectionPerformed => Sys2Proof.Machine.execInjectionPerformed s
  | .flitCrcError die port f => Sys2Proof.Machine.execFlitCrcError die port f s
  | .tlsConnection port c => Sys2Proof.Machine.execTlsConnection port c s
  | .hello se req vmin vmax => Sys2Proof.Machine.execHello se req vmin vmax s
  | .bye se req => Sys2Proof.Machine.execBye se req s
  | .ping se req => Sys2Proof.Machine.execPing se req s
  | .takeover se req => Sys2Proof.Machine.execTakeover se req s
  | .release se req => Sys2Proof.Machine.execRelease se req s
  | .sessionSilenceExpiry se => Sys2Proof.Machine.execSessionSilenceExpiry se s
  | .loadBegin se req k ver => Sys2Proof.Machine.execLoadBegin se req k ver s
  | .loadData se req data => Sys2Proof.Machine.execLoadData se req data s
  | .loadEnd se req ok => Sys2Proof.Machine.execLoadEnd se req ok s
  | .powerStatus se req => Sys2Proof.Machine.execPowerStatus se req s
  | .warmReset se req => Sys2Proof.Machine.execWarmReset se req s
  | .powerOff se req => Sys2Proof.Machine.execPowerOff se req s
  | .regRead se req l => Sys2Proof.Machine.execRegRead se req l s
  | .regWrite se req l => Sys2Proof.Machine.execRegWrite se req l s
  | .faultRead se req => Sys2Proof.Machine.execFaultRead se req s
  | .faultAck se req cls seq => Sys2Proof.Machine.execFaultAck se req cls seq s
  | .inject se req tgt ctl => Sys2Proof.Machine.execInject se req tgt ctl s
  | .todSet se req v => Sys2Proof.Machine.execTodSet se req v s
  | .ptpConfig se req domain transport en => Sys2Proof.Machine.execPtpConfig se req domain transport en s
  | .snap se req => Sys2Proof.Machine.execSnap se req s
  | .sparePolicy se req xdie reserve => Sys2Proof.Machine.execSparePolicy se req xdie reserve s
  | .cmapWrite se req l => Sys2Proof.Machine.execCmapWrite se req l s
  | .lcNonce se req => Sys2Proof.Machine.execLcNonce se req s
  | .lcTransition se req target nonce g => Sys2Proof.Machine.execLcTransition se req target nonce g s
  | .lcProvision se req anchor keyHash node => Sys2Proof.Machine.execLcProvision se req anchor keyHash node s
  | .lcWipeStepEnd => Sys2Proof.Machine.execLcWipeStepEnd s
  | .managementCoreFailure m => Sys2Proof.Machine.execManagementCoreFailure m s
  | .managementLinkDown port => Sys2Proof.Machine.execManagementLinkDown port s
  | .snapGo w => Sys2Proof.Machine.execSnapGo w s
  | .snapshotCapture => Sys2Proof.Machine.execSnapshotCapture s
  | .snapshotDone => Sys2Proof.Machine.execSnapshotDone s
  | .ptpEventMessage e => Sys2Proof.Machine.execPtpEventMessage e s
  | .ptpHoldover => Sys2Proof.Machine.execPtpHoldover s
  | .clkTodSetWrite w v => Sys2Proof.Machine.execClkTodSetWrite w v s
  | .pmbusPoll rds => Sys2Proof.Machine.execPmbusPoll rds s
  | .smbalert rds => Sys2Proof.Machine.execSmbalert rds s
  | .governorInterval rail o => Sys2Proof.Machine.execGovernorInterval rail o s
  | .pwrSlewWrite w r v => Sys2Proof.Machine.execPwrSlewWrite w r v s
  | .droopDetected die cluster o => Sys2Proof.Machine.execDroopDetected die cluster o s
  | .droopRelease die cluster => Sys2Proof.Machine.execDroopRelease die cluster s
  | .clockSynthesiserUnlock d => Sys2Proof.Machine.execClockSynthesiserUnlock d s
  | .passStart die o => Sys2Proof.Machine.execPassStart die o s
  | .resetN low => Sys2Proof.Machine.execResetN low s
  | .coldResetStepEnd n => Sys2Proof.Machine.execColdResetStepEnd n s
  | .vauxLoss => Sys2Proof.Machine.execVauxLoss s
  | .coreChkStatClr w core v => Sys2Proof.Machine.execCoreChkStatClr w core v s
  | .l2ErrClr w core v => Sys2Proof.Machine.execL2ErrClr w core v s
  | .l3ErrClr w die v => Sys2Proof.Machine.execL3ErrClr w die v s
  | .dcErrClr w c v => Sys2Proof.Machine.execDcErrClr w c v s
  | .csStaleClr w die img v => Sys2Proof.Machine.execCsStaleClr w die img v s
  | .clCntClr w die port tag v => Sys2Proof.Machine.execClCntClr w die port tag v s
  | .accErrClr w die inst v => Sys2Proof.Machine.execAccErrClr w die inst v s
  | .wsCntClr w die v => Sys2Proof.Machine.execWsCntClr w die v s
  | .wsErrClr w die v => Sys2Proof.Machine.execWsErrClr w die v s
  | .fcCntClr w c v => Sys2Proof.Machine.execFcCntClr w c v s
  | .fcCntMiscClr w v => Sys2Proof.Machine.execFcCntMiscClr w v s
  | .pwrDroopClr w die v => Sys2Proof.Machine.execPwrDroopClr w die v s
  | .registerWrite w a v => Sys2Proof.Machine.execRegisterWrite w a v s
  | .pauseTimeExpiry die port => Sys2Proof.Machine.execPauseTimeExpiry die port s
  | .acceleratorSelftestEnd die inst pass => Sys2Proof.Machine.execAcceleratorSelftestEnd die inst pass s
  | .managementLinkUp l => Sys2Proof.Machine.execManagementLinkUp l s
  | .sessionConnectionLost se => Sys2Proof.Machine.execSessionConnectionLost se s
  | .unassignedFspRecord se req group code => Sys2Proof.Machine.execUnassignedFspRecord se req group code s
  | .powerOn => Sys2Proof.Machine.execPowerOn s
  | .jtagInstruction j => Sys2Proof.Machine.execJtagInstruction j s
  | .plainNodeBufferError die => Sys2Proof.Machine.execPlainNodeBufferError die s
  | .todDistributionFault => Sys2Proof.Machine.execTodDistributionFault s
  | .fuseControllerFault => Sys2Proof.Machine.execFuseControllerFault s

end Sys2Proof.Machine
end

