-- ==== Sys2Proof/Machine/Step.lean ====
section
/-! DEFINITION. One step of the block: the command at the front of the queue, or 8 units of time-of-day. -/
namespace Sys2Proof.Machine
open Sys2Proof

/-- With no command waiting, a powered module lets one increment of Thyme pass: 512 MHz, 8 units (R510). -/
def State.tick (s : State) : State := if s.powered then s.advance 8 else s

/-- The command at the front is taken and has its effect; on an empty queue time passes. -/
def step (s : State) : Host.Outcome State Fault Refusal :=
  match s.pending with
  | [] => .next s.tick
  | c :: rest => exec c { s with pending := rest }

/-- s with the command that a word spells at the front of its queue; s where the word spells none. -/
def State.withFetchWord (s : State) (nbits w : Nat) : State :=
  match decodeTableWord nbits w with
  | some c => { s with pending := c :: s.pending }
  | none => s

end Sys2Proof.Machine
end

