-- ==== Sys2Proof/Safety.lean ====
section
/-! DEFINITION. The terms that claims use: what every step keeps, and, instruction by instruction, the result that the rules of
chapters 02 to 07 give it (the rows below; the condition for a row is that the instruction has entered, State.enter). -/
namespace Sys2Proof.Machine
open Sys2Proof

/-! ## What every step keeps -/

/-- The fuse rows of the lifecycle (R486 to R488): each holds a state that R486 assigns; 127 at most are used, and the last of
all holds RETIRED. -/
def State.lcOk (s : State) : Prop :=
  (∀ r ∈ s.lcRows, r.1 = 1 ∨ r.1 = 2 ∨ r.1 = 3 ∨ r.1 = 4 ∨ r.1 = 15) ∧
    (s.lcRows.length ≤ 127 ∨ (s.lcRows.length = 128 ∧ s.retired = true))

/-- At most one FSP session is active (R483). -/
def State.oneActive (s : State) : Prop :=
  ∀ x y, s.session 0 = some x → s.session 1 = some y → ¬(x.role = .active ∧ y.role = .active)

/-- What holds of the module at every moment: storage, the DRAM arrays and working store are in canonical form, and so are
the service registers; the lifecycle's fuse rows are legal; at most one session is active. -/
def State.Inv (s : State) : Prop :=
  Memory.wf s.mem = true ∧ Memory.wf s.dram = true ∧ Memory.wf s.ws = true ∧ swf regDefault s.regs = true ∧ s.lcOk ∧ s.oneActive

/-- The fuses other than those of retired cores (R2, R28): they are set at manufacture. -/
def Fuses.fixed (f : Fuses) : Fuses := { f with retired := [] }

/-- What no command undoes, between a state and a later one: the DIMMs and the manufacturing fuses are the same; fuses of
retired cores, frames sent and FSP records sent only grow; RETIRED stays (R486, R488). -/
def State.Grows (s t : State) : Prop :=
  t.dimm = s.dimm ∧ t.fuses.fixed = s.fuses.fixed ∧ s.fuses.retired <+: t.fuses.retired ∧ s.free ≤ t.free ∧
    s.wire <+: t.wire ∧ s.fspOut <+: t.fspOut ∧ (s.retired = true → t.retired = true)

/-! ## How an instruction completes -/

/-- IA names the instruction after the one that unit u executes. -/
def State.past (s : State) (u : Nat) : State := s.setIa u ((s.psw u).ia + 4)

/-- A completed instruction whose effect has led to t: in an open region it is counted (R239), and a retry of it is confirmed
(R193). -/
def State.finish (s : State) (u : Nat) (t : State) : State :=
  (if (s.unit u).region.isSome then t.regionStep u (s.psw u).ia else t).confirm u (s.psw u).ia

/-- What an instruction that began in s leaves where its interruption leads to t: a small unit whose prefix area lies in a bank that
a copy holds waits, and begins the instruction again (R442). -/
def State.orWaits (s : State) (u : Nat) (t : State) : State := if s.areaStalled u then s else t

/-- A result and, where the scheme sets one, its condition code (R122). -/
def State.withAlu (s : State) (u : Nat) (ra : BitVec 5) (x : AluOut) : State :=
  match x.cc with
  | some c => (s.setG u ra x.val).setCc u c
  | none => s.setG u ra x.val

/-- Two results in an even-odd pair, and the condition code. -/
def State.withPair (s : State) (u : Nat) (ra : BitVec 5) (x : PairOut) : State := ((s.setG u ra x.hi).setG u (ra + 1) x.lo).setCc u x.cc

/-- An instruction that enters as i leads to one value in a general register, IA moved on, and nothing else. -/
def gives (c : Instr) (i : Insn) (ra : BitVec 5) (s s2 : State) (v : Dword) : Prop :=
  s.enter i = .ok s2 → exec c s = .next (s2.finish i.u ((s2.past i.u).setG i.u ra v))

/-- What an instruction that stores nothing leaves as it was: storage, the DRAM arrays, working store, the service registers
and every other unit. -/
def State.sameOutside (s t : State) (u : Nat) : Prop :=
  t.mem = s.mem ∧ t.dram = s.dram ∧ t.ws = s.ws ∧ t.regs = s.regs ∧ ∀ v, v ≠ u → t.unit v = s.unit v

/-- What instructions hold in an executing unit: its registers, control registers, PSW, return stacks, open region, the image that
it runs, and its retry. -/
def Cpu.kept (c : Cpu) :
    (Store Dword × Store Dword × Store Dword × Store Dword × Store Dword) × Psw × (RStack × RStack) × Option Region × Option Irun × Nat :=
  ((c.g, c.f, c.hostC, c.imgC, c.hiC), c.psw, (c.hostRs, c.imgRs), c.region, c.irun, c.retries)

/-! ## Integer instructions (R124 to R131, R147 to R149) -/

/-- An instruction with one result: what enters, its unit, its target and its result from the registers. -/
structure AluRow where
  insn : Insn
  u : Nat
  ra : BitVec 5
  out : State → AluOut

/-- R124, R126, R130: the arithmetic and logic of opcodes 0x01, 0x02 and 0x04. -/
def aluRow : Instr → Option AluRow
  | .add o => some ⟨insnAdd o, o.u, o.ra, fun s => signedOut 64 ((s.g o.u o.rb).toInt + (s.g o.u o.rc).toInt)⟩
  | .addw o => some ⟨insnAddw o, o.u, o.ra, fun s => signedOut 32 (sval 32 (s.g o.u o.rb) + sval 32 (s.g o.u o.rc))⟩
  | .addl o => some ⟨insnAddl o, o.u, o.ra, fun s => carryOut 64 ((s.g o.u o.rb).toNat + (s.g o.u o.rc).toNat)⟩
  | .addlw o => some ⟨insnAddlw o, o.u, o.ra, fun s => carryOut 32 (uval 32 (s.g o.u o.rb) + uval 32 (s.g o.u o.rc))⟩
  | .sub o => some ⟨insnSub o, o.u, o.ra, fun s => signedOut 64 ((s.g o.u o.rb).toInt - (s.g o.u o.rc).toInt)⟩
  | .subw o => some ⟨insnSubw o, o.u, o.ra, fun s => signedOut 32 (sval 32 (s.g o.u o.rb) - sval 32 (s.g o.u o.rc))⟩
  | .subl o => some ⟨insnSubl o, o.u, o.ra, fun s => carryOut 64 ((s.g o.u o.rb).toNat + (~~~ s.g o.u o.rc).toNat + 1)⟩
  | .sublw o => some ⟨insnSublw o, o.u, o.ra, fun s => carryOut 32 (uval 32 (s.g o.u o.rb) + uval 32 (~~~ s.g o.u o.rc) + 1)⟩
  | .and o => some ⟨insnAnd o, o.u, o.ra, fun s => logicalOut (s.g o.u o.rb &&& s.g o.u o.rc)⟩
  | .or o => some ⟨insnOr o, o.u, o.ra, fun s => logicalOut (s.g o.u o.rb ||| s.g o.u o.rc)⟩
  | .xor o => some ⟨insnXor o, o.u, o.ra, fun s => logicalOut (s.g o.u o.rb ^^^ s.g o.u o.rc)⟩
  | .nor o => some ⟨insnNor o, o.u, o.ra, fun s => logicalOut (~~~ (s.g o.u o.rb ||| s.g o.u o.rc))⟩
  | .andc o => some ⟨insnAndc o, o.u, o.ra, fun s => logicalOut (s.g o.u o.rb &&& ~~~ s.g o.u o.rc)⟩
  | .neg o => some ⟨insnNeg o, o.u, o.ra, fun s => signedOut 64 (-(s.g o.u o.rb).toInt)⟩
  | .negw o => some ⟨insnNegw o, o.u, o.ra, fun s => signedOut 32 (-(sval 32 (s.g o.u o.rb)))⟩
  | .mul o => some ⟨insnMul o, o.u, o.ra, fun s => signedOut 64 ((s.g o.u o.rb).toInt * (s.g o.u o.rc).toInt)⟩
  | .mulw o => some ⟨insnMulw o, o.u, o.ra, fun s => signedOut 32 (sval 32 (s.g o.u o.rb) * sval 32 (s.g o.u o.rc))⟩
  | _ => none

/-- R125: the immediate forms, and LA's sum (R135). -/
def immRow : Instr → Option AluRow
  | .addi o => some ⟨insnAddi o, o.u, o.ra, fun s => signedOut 64 ((s.g o.u o.rb).toInt + o.imm.toInt)⟩
  | .addli o => some ⟨insnAddli o, o.u, o.ra, fun s => carryOut 64 ((s.g o.u o.rb).toNat + (o.imm.signExtend 64).toNat)⟩
  | .addwi o => some ⟨insnAddwi o, o.u, o.ra, fun s => signedOut 32 (sval 32 (s.g o.u o.rb) + o.imm.toInt)⟩
  | .andi o => some ⟨insnAndi o, o.u, o.ra, fun s => logicalOut (s.g o.u o.rb &&& BitVec.ofNat 64 o.imm.toNat)⟩
  | .ori o => some ⟨insnOri o, o.u, o.ra, fun s => logicalOut (s.g o.u o.rb ||| BitVec.ofNat 64 o.imm.toNat)⟩
  | .xori o => some ⟨insnXori o, o.u, o.ra, fun s => logicalOut (s.g o.u o.rb ^^^ BitVec.ofNat 64 o.imm.toNat)⟩
  | .li o => some ⟨insnLi o, o.u, o.ra, fun _ => plainOut (o.imm.signExtend 64)⟩
  | .lis o => some ⟨insnLis o, o.u, o.ra, fun s => plainOut (BitVec.ofNat 64 ((s.g o.u o.rb).toNat * 2 ^ 14 + o.imm.toNat))⟩
  | .la o => some ⟨insnLa o, o.u, o.ra, fun s => plainOut (s.g o.u o.rb + o.imm.signExtend 64)⟩
  | _ => none

/-- A shift or rotate of the low w bits by n (R128), as the table states it for n below w and from w on. -/
def shiftRule (w : Nat) (left : Bool) (v : Dword) (n : Nat) : Nat :=
  if w ≤ n then 0 else if left then (v.toNat % 2 ^ w) * 2 ^ n % 2 ^ w else (v.toNat % 2 ^ w) / 2 ^ n

/-- An arithmetic right shift: floor division, and -1 or 0 from w on (R128). -/
def arithRule (w : Nat) (v : Dword) (n : Nat) : Int := sval w v / 2 ^ n

/-- A left rotate by n mod w (R128). -/
def rotateRule (w : Nat) (v : Dword) (n : Nat) : Nat := (v.toNat % 2 ^ w) * 2 ^ (n % w) % 2 ^ w + (v.toNat % 2 ^ w) / 2 ^ (w - n % w)

/-- The low w bits of n, sign-extended (R121). -/
def wide (w : Nat) (n : Nat) : AluOut := plainOut ((BitVec.ofNat w n).signExtend 64)

/-- R127, R128, R129: extension, counting and the shifts by a register. -/
def shiftRow : Instr → Option AluRow
  | .sxb o => some ⟨insnSxb o, o.u, o.ra, fun s => wide 8 (s.g o.u o.rb).toNat⟩
  | .sxh o => some ⟨insnSxh o, o.u, o.ra, fun s => wide 16 (s.g o.u o.rb).toNat⟩
  | .sxw o => some ⟨insnSxw o, o.u, o.ra, fun s => wide 32 (s.g o.u o.rb).toNat⟩
  | .zxb o => some ⟨insnZxb o, o.u, o.ra, fun s => plainOut (BitVec.ofNat 64 ((s.g o.u o.rb).toNat % 2 ^ 8))⟩
  | .zxh o => some ⟨insnZxh o, o.u, o.ra, fun s => plainOut (BitVec.ofNat 64 ((s.g o.u o.rb).toNat % 2 ^ 16))⟩
  | .zxw o => some ⟨insnZxw o, o.u, o.ra, fun s => plainOut (BitVec.ofNat 64 ((s.g o.u o.rb).toNat % 2 ^ 32))⟩
  | .clz o => some ⟨insnClz o, o.u, o.ra, fun s => plainOut (clz (s.g o.u o.rb))⟩
  | .ctz o => some ⟨insnCtz o, o.u, o.ra, fun s => plainOut (ctz (s.g o.u o.rb))⟩
  | .popc o => some ⟨insnPopc o, o.u, o.ra, fun s => plainOut (popc (s.g o.u o.rb))⟩
  | .sll o => some ⟨insnSll o, o.u, o.ra, fun s => wide 64 (shiftRule 64 true (s.g o.u o.rb) ((s.g o.u o.rc).toNat % 128))⟩
  | .srl o => some ⟨insnSrl o, o.u, o.ra, fun s => wide 64 (shiftRule 64 false (s.g o.u o.rb) ((s.g o.u o.rc).toNat % 128))⟩
  | .sra o => some ⟨insnSra o, o.u, o.ra, fun s => plainOut (BitVec.ofInt 64 (arithRule 64 (s.g o.u o.rb) ((s.g o.u o.rc).toNat % 128)))⟩
  | .rol o => some ⟨insnRol o, o.u, o.ra, fun s => wide 64 (rotateRule 64 (s.g o.u o.rb) ((s.g o.u o.rc).toNat % 128))⟩
  | .ror o => some ⟨insnRor o, o.u, o.ra, fun s => wide 64 (rotateRule 64 (s.g o.u o.rb) (64 - (s.g o.u o.rc).toNat % 64))⟩
  | .sllw o => some ⟨insnSllw o, o.u, o.ra, fun s => wide 32 (shiftRule 32 true (s.g o.u o.rb) ((s.g o.u o.rc).toNat % 128))⟩
  | .srlw o => some ⟨insnSrlw o, o.u, o.ra, fun s =>
      plainOut (BitVec.ofNat 64 (shiftRule 32 false (s.g o.u o.rb) ((s.g o.u o.rc).toNat % 128)))⟩
  | .sraw o => some ⟨insnSraw o, o.u, o.ra, fun s => plainOut (BitVec.ofInt 64 (arithRule 32 (s.g o.u o.rb) ((s.g o.u o.rc).toNat % 128)))⟩
  | .rolw o => some ⟨insnRolw o, o.u, o.ra, fun s => wide 32 (rotateRule 32 (s.g o.u o.rb) ((s.g o.u o.rc).toNat % 128))⟩
  | .rorw o => some ⟨insnRorw o, o.u, o.ra, fun s => wide 32 (rotateRule 32 (s.g o.u o.rb) (32 - (s.g o.u o.rc).toNat % 32))⟩
  | _ => none

/-- R128: the shifts by an immediate. -/
def shiftImmRow : Instr → Option AluRow
  | .slli o => some ⟨insnSlli o, o.u, o.ra, fun s => wide 64 (shiftRule 64 true (s.g o.u o.rb) o.amt.toNat)⟩
  | .srli o => some ⟨insnSrli o, o.u, o.ra, fun s => wide 64 (shiftRule 64 false (s.g o.u o.rb) o.amt.toNat)⟩
  | .srai o => some ⟨insnSrai o, o.u, o.ra, fun s => plainOut (BitVec.ofInt 64 (arithRule 64 (s.g o.u o.rb) o.amt.toNat))⟩
  | .roli o => some ⟨insnRoli o, o.u, o.ra, fun s => wide 64 (rotateRule 64 (s.g o.u o.rb) o.amt.toNat)⟩
  | .rori o => some ⟨insnRori o, o.u, o.ra, fun s => wide 64 (rotateRule 64 (s.g o.u o.rb) (64 - o.amt.toNat % 64))⟩
  | .sllwi o => some ⟨insnSllwi o, o.u, o.ra, fun s => wide 32 (shiftRule 32 true (s.g o.u o.rb) o.amt.toNat)⟩
  | .srlwi o => some ⟨insnSrlwi o, o.u, o.ra, fun s => wide 32 (shiftRule 32 false (s.g o.u o.rb) o.amt.toNat)⟩
  | .srawi o => some ⟨insnSrawi o, o.u, o.ra, fun s => plainOut (BitVec.ofInt 64 (arithRule 32 (s.g o.u o.rb) o.amt.toNat))⟩
  | .rolwi o => some ⟨insnRolwi o, o.u, o.ra, fun s => wide 32 (rotateRule 32 (s.g o.u o.rb) o.amt.toNat)⟩
  | .rorwi o => some ⟨insnRorwi o, o.u, o.ra, fun s => wide 32 (rotateRule 32 (s.g o.u o.rb) (32 - o.amt.toNat % 32))⟩
  | _ => none

/-- R147 to R149: CRCSTEP, PARITY and BREV. -/
def checkRow : Instr → Option AluRow
  | .crcstep o => some ⟨insnCrcstep o, o.u, o.ra, fun s => plainOut (crcStep o.poly o.refl o.wide (s.g o.u o.ra) (s.g o.u o.rb))⟩
  | .parity o => some ⟨insnParity o, o.u, o.ra, fun s => logicalOut (parityBits o.mode (s.g o.u o.rb))⟩
  | .brev o => some ⟨insnBrev o, o.u, o.ra, fun s => plainOut (brevBits o.mode (s.g o.u o.rb))⟩
  | _ => none

/-- The CC of a comparison (R122): 0 equal, 1 the first low, 2 the first high. -/
def compareRule (a b : Int) : BitVec 2 := if a < b then 1 else if b < a then 2 else 0

/-- R124, R125: the comparisons, each with its unit and CC. -/
def compareRow : Instr → Option (Insn × Nat × (State → BitVec 2))
  | .cmp o => some (insnCmp o, o.u, fun s => compareRule (s.g o.u o.rb).toInt (s.g o.u o.rc).toInt)
  | .cmpw o => some (insnCmpw o, o.u, fun s => compareRule (sval 32 (s.g o.u o.rb)) (sval 32 (s.g o.u o.rc)))
  | .cmpl o => some (insnCmpl o, o.u, fun s => compareRule (s.g o.u o.rb).toNat (s.g o.u o.rc).toNat)
  | .cmplw o => some (insnCmplw o, o.u, fun s => compareRule (uval 32 (s.g o.u o.rb)) (uval 32 (s.g o.u o.rc)))
  | .cmpi o => some (insnCmpi o, o.u, fun s => compareRule (s.g o.u o.rb).toInt o.imm.toInt)
  | .cmpli o => some (insnCmpli o, o.u, fun s => compareRule (s.g o.u o.rb).toNat o.imm.toNat)
  | _ => none

/-- R130, R131: the instructions that write a pair; none for a divisor of 0. -/
def pairRow : Instr → Option (Insn × Nat × BitVec 5 × (State → Option PairOut))
  | .muls o => some (insnMuls o, o.u, o.ra, fun s => some (mulSigned (s.g o.u o.rb) (s.g o.u o.rc)))
  | .mulu o => some (insnMulu o, o.u, o.ra, fun s => some (mulUnsigned (s.g o.u o.rb) (s.g o.u o.rc)))
  | .div o => some (insnDiv o, o.u, o.ra, fun s => divSigned 64 (s.g o.u o.rb) (s.g o.u o.rc))
  | .divl o => some (insnDivl o, o.u, o.ra, fun s => divUnsigned 64 (s.g o.u o.rb) (s.g o.u o.rc))
  | .divw o => some (insnDivw o, o.u, o.ra, fun s => divSigned 32 (s.g o.u o.rb) (s.g o.u o.rc))
  | .divlw o => some (insnDivlw o, o.u, o.ra, fun s => divUnsigned 32 (s.g o.u o.rb) (s.g o.u o.rc))
  | _ => none

/-! ## Loads, stores and moves (R135, R166) -/

/-- A load: what enters, its unit, the number of bytes at gb + sext(disp), and where they go. -/
structure LoadRow where
  insn : Insn
  o : OpI
  n : Nat
  put : State → List Byte → State

/-- R135, R166. -/
def loadRow (s : State) : Instr → Option LoadRow
  | .lb o => some ⟨insnLb o, o, 1, fun t b => t.setG o.u o.ra ((BitVec.ofNat 8 (beNat b)).signExtend 64)⟩
  | .lbu o => some ⟨insnLbu o, o, 1, fun t b => t.setG o.u o.ra (BitVec.ofNat 64 (beNat b))⟩
  | .lh o => some ⟨insnLh o, o, 2, fun t b => t.setG o.u o.ra ((BitVec.ofNat 16 (beNat b)).signExtend 64)⟩
  | .lhu o => some ⟨insnLhu o, o, 2, fun t b => t.setG o.u o.ra (BitVec.ofNat 64 (beNat b))⟩
  | .lw o => some ⟨insnLw o, o, 4, fun t b => t.setG o.u o.ra ((BitVec.ofNat 32 (beNat b)).signExtend 64)⟩
  | .lwu o => some ⟨insnLwu o, o, 4, fun t b => t.setG o.u o.ra (BitVec.ofNat 64 (beNat b))⟩
  | .ld o => some ⟨insnLd o, o, 8, fun t b => t.setG o.u o.ra (BitVec.ofNat 64 (beNat b))⟩
  | .lq o => some ⟨insnLq o s, o, 16, fun t b =>
      (t.setG o.u o.ra (BitVec.ofNat 64 (beNat (b.take 8)))).setG o.u (o.ra + 1) (BitVec.ofNat 64 (beNat (b.drop 8)))⟩
  | .lfs o => some ⟨insnLfs o, o, 4, fun t b => t.setF o.u o.ra (BitVec.ofNat 64 (beNat b))⟩
  | .lfd o => some ⟨insnLfd o, o, 8, fun t b => t.setF o.u o.ra (BitVec.ofNat 64 (beNat b))⟩
  | _ => none

/-- A store: what enters, its unit, and the bytes stored at gb + sext(disp). -/
structure StoreRow where
  insn : Insn
  o : OpI
  data : State → List Byte

/-- R135, R166. -/
def storeRow (s : State) : Instr → Option StoreRow
  | .stb o => some ⟨insnStb o, o, fun t => beBytes 1 (t.g o.u o.ra).toNat⟩
  | .sth o => some ⟨insnSth o, o, fun t => beBytes 2 (t.g o.u o.ra).toNat⟩
  | .stw o => some ⟨insnStw o, o, fun t => beBytes 4 (t.g o.u o.ra).toNat⟩
  | .std o => some ⟨insnStd o, o, fun t => beBytes 8 (t.g o.u o.ra).toNat⟩
  | .stq o => some ⟨insnStq o s, o, fun t => beBytes 8 (t.g o.u o.ra).toNat ++ beBytes 8 (t.g o.u (o.ra + 1)).toNat⟩
  | .stfs o => some ⟨insnStfs o, o, fun t => beBytes 4 (t.f o.u o.ra).toNat⟩
  | .stfd o => some ⟨insnStfd o, o, fun t => beBytes 8 (t.f o.u o.ra).toNat⟩
  | _ => none

/-- R166: the moves between registers. -/
def moveRow : Instr → Option (Insn × Nat × (State → State))
  | .fmr o => some (insnFmr o, o.u, fun s => s.setF o.u o.ra (s.f o.u o.rb))
  | .fnegd o => some (insnFnegd o, o.u, fun s => s.setF o.u o.ra (s.f o.u o.rb ^^^ 0x8000000000000000))
  | .fabsd o => some (insnFabsd o, o.u, fun s => s.setF o.u o.ra (s.f o.u o.rb &&& 0x7FFFFFFFFFFFFFFF))
  | .fnegs o => some (insnFnegs o, o.u, fun s => s.setF o.u o.ra (BitVec.ofNat 64 (((s.f o.u o.rb) ^^^ 0x80000000).toNat % 2 ^ 32)))
  | .fabss o => some (insnFabss o, o.u, fun s => s.setF o.u o.ra (BitVec.ofNat 64 ((s.f o.u o.rb).toNat % 2 ^ 31)))
  | .mvfg o => some (insnMvfg o, o.u, fun s => s.setG o.u o.ra (s.f o.u o.rb))
  | .mvgf o => some (insnMvgf o, o.u, fun s => s.setF o.u o.ra (s.g o.u o.rb))
  | _ => none

/-! ## Branches and atomics (R138, R143) -/

/-- A branch: what enters, its unit, whether it is taken and its target. IA still names the branch. -/
structure BranchRow where
  insn : Insn
  u : Nat
  taken : State → Bool
  target : State → Dword

/-- R138. -/
def branchRow (s : State) : Instr → Option BranchRow
  | .brc o => some ⟨insnBrc o, o.u, fun t => o.cond.getLsbD (3 - (t.psw o.u).cc.toNat), fun t => (t.psw o.u).ia + 4 * o.disp.signExtend 64⟩
  | .br o => some ⟨insnBr o s, o.u, fun _ => true, fun t => t.g o.u o.ra⟩
  | .cbeq o => some ⟨insnCbeq o, o.u, fun t => decide (t.g o.u o.ra = t.g o.u o.rb), fun t => (t.psw o.u).ia + 4 * o.imm.signExtend 64⟩
  | .cbne o => some ⟨insnCbne o, o.u, fun t => decide (t.g o.u o.ra ≠ t.g o.u o.rb), fun t => (t.psw o.u).ia + 4 * o.imm.signExtend 64⟩
  | .cblt o => some ⟨insnCblt o, o.u, fun t => decide ((t.g o.u o.ra).toInt < (t.g o.u o.rb).toInt),
      fun t => (t.psw o.u).ia + 4 * o.imm.signExtend 64⟩
  | .cbge o => some ⟨insnCbge o, o.u, fun t => decide (¬ (t.g o.u o.ra).toInt < (t.g o.u o.rb).toInt),
      fun t => (t.psw o.u).ia + 4 * o.imm.signExtend 64⟩
  | .cbltl o => some ⟨insnCbltl o, o.u, fun t => decide ((t.g o.u o.ra).toNat < (t.g o.u o.rb).toNat),
      fun t => (t.psw o.u).ia + 4 * o.imm.signExtend 64⟩
  | .cbgel o => some ⟨insnCbgel o, o.u, fun t => decide (¬ (t.g o.u o.ra).toNat < (t.g o.u o.rb).toNat),
      fun t => (t.psw o.u).ia + 4 * o.imm.signExtend 64⟩
  | _ => none

/-- An atomic: what enters, its operands and width, what it stores given the bytes it finds, and what it leaves in the
registers. -/
structure AtomicRow where
  insn : Insn
  o : OpA
  n : Nat
  stores : State → List Byte → Option (List Byte)
  leaves : State → List Byte → State → State

/-- The bytes of a pair of registers. -/
def State.pairBytes (s : State) (u : Nat) (r : BitVec 5) : List Byte := beBytes 8 (s.g u r).toNat ++ beBytes 8 (s.g u (r + 1)).toNat

/-- R143. -/
def atomicRow (s : State) : Instr → Option AtomicRow
  | .csd o => some ⟨insnCsd o s, o, 8,
      fun t old => if old = beBytes 8 (t.g o.u o.ra).toNat then some (beBytes 8 (t.g o.u o.rc).toNat) else none,
      fun t old r => if old = beBytes 8 (t.g o.u o.ra).toNat then r.setCc o.u 0
        else (r.setG o.u o.ra (BitVec.ofNat 64 (beNat old))).setCc o.u 1⟩
  | .csq o => some ⟨insnCsq o s, o, 16,
      fun t old => if old = t.pairBytes o.u o.ra then some (t.pairBytes o.u o.rc) else none,
      fun t old r => if old = t.pairBytes o.u o.ra then r.setCc o.u 0
        else ((r.setG o.u o.ra (BitVec.ofNat 64 (beNat (old.take 8)))).setG o.u (o.ra + 1) (BitVec.ofNat 64 (beNat (old.drop 8)))).setCc o.u 1⟩
  | .faad o => some ⟨insnFaad o s, o, 8, fun t old => some (beBytes 8 ((beNat old + (t.g o.u o.rc).toNat) % 2 ^ 64)),
      fun _ old r => r.setG o.u o.ra (BitVec.ofNat 64 (beNat old))⟩
  | .faaw o => some ⟨insnFaaw o s, o, 4, fun t old => some (beBytes 4 ((beNat old + (t.g o.u o.rc).toNat) % 2 ^ 64)),
      fun _ old r => r.setG o.u o.ra ((BitVec.ofNat 32 (beNat old)).signExtend 64)⟩
  | .swpd o => some ⟨insnSwpd o s, o, 8, fun t _ => some (beBytes 8 (t.g o.u o.rc).toNat),
      fun _ old r => r.setG o.u o.ra (BitVec.ofNat 64 (beNat old))⟩
  | _ => none

/-! ## Floating point (R155 to R176) -/

/-- A floating-point instruction: what enters, its call (R163), its outcome and where the result goes. -/
structure FpRow where
  insn : Insn
  u : Nat
  out : State → FEnd
  put : State → Dword → State

/-- The CC that a comparison delivers. -/
def putCc (u : Nat) (s : State) (v : Dword) : State := s.setCc u (BitVec.ofNat 2 v.toNat)

/-- R167: the forms of two operands, the square roots and the roundings. -/
def fpArithRow : Instr → Option FpRow
  | .faddd o => some ⟨insnFaddd o, o.u, fun s => fpAdd fmtD (s.rmode o.u 0) (s.subTrap o.u) (s.f o.u o.rb) (s.f o.u o.rc), fun s v => s.setF o.u o.ra v⟩
  | .fadds o => some ⟨insnFadds o, o.u, fun s => fpAdd fmtS (s.rmode o.u 0) (s.subTrap o.u) (s.f o.u o.rb) (s.f o.u o.rc), fun s v => s.setF o.u o.ra v⟩
  | .fsubd o => some ⟨insnFsubd o, o.u, fun s => fpSub fmtD (s.rmode o.u 0) (s.subTrap o.u) (s.f o.u o.rb) (s.f o.u o.rc), fun s v => s.setF o.u o.ra v⟩
  | .fsubs o => some ⟨insnFsubs o, o.u, fun s => fpSub fmtS (s.rmode o.u 0) (s.subTrap o.u) (s.f o.u o.rb) (s.f o.u o.rc), fun s v => s.setF o.u o.ra v⟩
  | .fmuld o => some ⟨insnFmuld o, o.u, fun s => fpMul fmtD (s.rmode o.u 0) (s.subTrap o.u) (s.f o.u o.rb) (s.f o.u o.rc), fun s v => s.setF o.u o.ra v⟩
  | .fmuls o => some ⟨insnFmuls o, o.u, fun s => fpMul fmtS (s.rmode o.u 0) (s.subTrap o.u) (s.f o.u o.rb) (s.f o.u o.rc), fun s v => s.setF o.u o.ra v⟩
  | .fdivd o => some ⟨insnFdivd o, o.u, fun s => fpDiv fmtD (s.rmode o.u 0) (s.subTrap o.u) (s.f o.u o.rb) (s.f o.u o.rc), fun s v => s.setF o.u o.ra v⟩
  | .fdivs o => some ⟨insnFdivs o, o.u, fun s => fpDiv fmtS (s.rmode o.u 0) (s.subTrap o.u) (s.f o.u o.rb) (s.f o.u o.rc), fun s v => s.setF o.u o.ra v⟩
  | .fsqrtd o => some ⟨insnFsqrtd o, o.u, fun s => fpSqrt fmtD (s.rmode o.u 0) (s.subTrap o.u) (s.f o.u o.rb), fun s v => s.setF o.u o.ra v⟩
  | .fsqrts o => some ⟨insnFsqrts o, o.u, fun s => fpSqrt fmtS (s.rmode o.u 0) (s.subTrap o.u) (s.f o.u o.rb), fun s v => s.setF o.u o.ra v⟩
  | .frintd o => some ⟨insnFrintd o, o.u, fun s => fpRint fmtD (s.rmode o.u o.rm) (s.subTrap o.u) (s.f o.u o.rb), fun s v => s.setF o.u o.ra v⟩
  | .frints o => some ⟨insnFrints o, o.u, fun s => fpRint fmtS (s.rmode o.u o.rm) (s.subTrap o.u) (s.f o.u o.rb), fun s v => s.setF o.u o.ra v⟩
  | _ => none

/-- R168, R107, R176: comparisons and fused forms. -/
def fpFusedRow : Instr → Option FpRow
  | .fcmpd o => some ⟨insnFcmpd o, o.u, fun s => fpCmp fmtD (s.subTrap o.u) false (s.f o.u o.rb) (s.f o.u o.rc), putCc o.u⟩
  | .fcmps o => some ⟨insnFcmps o, o.u, fun s => fpCmp fmtS (s.subTrap o.u) false (s.f o.u o.rb) (s.f o.u o.rc), putCc o.u⟩
  | .fcmpsd o => some ⟨insnFcmpsd o, o.u, fun s => fpCmp fmtD (s.subTrap o.u) true (s.f o.u o.rb) (s.f o.u o.rc), putCc o.u⟩
  | .fcmpss o => some ⟨insnFcmpss o, o.u, fun s => fpCmp fmtS (s.subTrap o.u) true (s.f o.u o.rb) (s.f o.u o.rc), putCc o.u⟩
  | .fmaddd o => some ⟨insnFmaddd o, o.u, fun s => fpFma fmtD (s.rmode o.u 0) (s.subTrap o.u) false false (s.f o.u o.rb) (s.f o.u o.rc) (s.f o.u o.rd), fun s v => s.setF o.u o.ra v⟩
  | .fmadds o => some ⟨insnFmadds o, o.u, fun s => fpFma fmtS (s.rmode o.u 0) (s.subTrap o.u) false false (s.f o.u o.rb) (s.f o.u o.rc) (s.f o.u o.rd), fun s v => s.setF o.u o.ra v⟩
  | .fmsubd o => some ⟨insnFmsubd o, o.u, fun s => fpFma fmtD (s.rmode o.u 0) (s.subTrap o.u) true false (s.f o.u o.rb) (s.f o.u o.rc) (s.f o.u o.rd), fun s v => s.setF o.u o.ra v⟩
  | .fmsubs o => some ⟨insnFmsubs o, o.u, fun s => fpFma fmtS (s.rmode o.u 0) (s.subTrap o.u) true false (s.f o.u o.rb) (s.f o.u o.rc) (s.f o.u o.rd), fun s v => s.setF o.u o.ra v⟩
  | .fnmaddd o => some ⟨insnFnmaddd o, o.u, fun s => fpFma fmtD (s.rmode o.u 0) (s.subTrap o.u) false true (s.f o.u o.rb) (s.f o.u o.rc) (s.f o.u o.rd), fun s v => s.setF o.u o.ra v⟩
  | .fnmadds o => some ⟨insnFnmadds o, o.u, fun s => fpFma fmtS (s.rmode o.u 0) (s.subTrap o.u) false true (s.f o.u o.rb) (s.f o.u o.rc) (s.f o.u o.rd), fun s v => s.setF o.u o.ra v⟩
  | .fnmsubd o => some ⟨insnFnmsubd o, o.u, fun s => fpFma fmtD (s.rmode o.u 0) (s.subTrap o.u) true true (s.f o.u o.rb) (s.f o.u o.rc) (s.f o.u o.rd), fun s v => s.setF o.u o.ra v⟩
  | .fnmsubs o => some ⟨insnFnmsubs o, o.u, fun s => fpFma fmtS (s.rmode o.u 0) (s.subTrap o.u) true true (s.f o.u o.rb) (s.f o.u o.rc) (s.f o.u o.rd), fun s v => s.setF o.u o.ra v⟩
  | _ => none

/-- R169, R170: the conversions. -/
def fpConvertRow : Instr → Option FpRow
  | .cvtsd o => some ⟨insnCvtsd o, o.u, fun s => fpConvert fmtS fmtD (s.rmode o.u o.rm) (s.subTrap o.u) (s.f o.u o.rb), fun s v => s.setF o.u o.ra v⟩
  | .cvtds o => some ⟨insnCvtds o, o.u, fun s => fpConvert fmtD fmtS (s.rmode o.u o.rm) (s.subTrap o.u) (s.f o.u o.rb), fun s v => s.setF o.u o.ra v⟩
  | .cvtgd o => some ⟨insnCvtgd o, o.u, fun s => fpFromInt fmtD (s.rmode o.u o.rm) (s.g o.u o.rb).toInt, fun s v => s.setF o.u o.ra v⟩
  | .cvtgs o => some ⟨insnCvtgs o, o.u, fun s => fpFromInt fmtS (s.rmode o.u o.rm) (s.g o.u o.rb).toInt, fun s v => s.setF o.u o.ra v⟩
  | .cvtld o => some ⟨insnCvtld o, o.u, fun s => fpFromInt fmtD (s.rmode o.u o.rm) (s.g o.u o.rb).toNat, fun s v => s.setF o.u o.ra v⟩
  | .cvtls o => some ⟨insnCvtls o, o.u, fun s => fpFromInt fmtS (s.rmode o.u o.rm) (s.g o.u o.rb).toNat, fun s v => s.setF o.u o.ra v⟩
  | .cvtdg o => some ⟨insnCvtdg o, o.u, fun s => fpToInt fmtD true (s.rmode o.u o.rm) (s.subTrap o.u) (s.f o.u o.rb), fun s v => s.setG o.u o.ra v⟩
  | .cvtsg o => some ⟨insnCvtsg o, o.u, fun s => fpToInt fmtS true (s.rmode o.u o.rm) (s.subTrap o.u) (s.f o.u o.rb), fun s v => s.setG o.u o.ra v⟩
  | .cvtdl o => some ⟨insnCvtdl o, o.u, fun s => fpToInt fmtD false (s.rmode o.u o.rm) (s.subTrap o.u) (s.f o.u o.rb), fun s v => s.setG o.u o.ra v⟩
  | .cvtsl o => some ⟨insnCvtsl o, o.u, fun s => fpToInt fmtS false (s.rmode o.u o.rm) (s.subTrap o.u) (s.f o.u o.rb), fun s v => s.setG o.u o.ra v⟩
  | _ => none

/-! ## System instructions (R54 to R68, R90, R145, R205, R511) -/

/-- The system instructions with no operand in storage: what enters, its unit, and the state its effect leads to from the state
whose IA names the next instruction. -/
def systemRow (s : State) : Instr → Option (Insn × Nat × (State → State))
  | .fence o => some (insnFence o, o.u, fun t => t.wcFlush o.u)
  | .sync o => some (insnSync o, o.u, fun t => t.wcFlush o.u)
  | .epsw o => some (insnEpsw o, o.u, fun t => (t.setG o.u o.ra (t.psw o.u).high).setG o.u o.rb (t.psw o.u).ia)
  | .spm o => some (insnSpm o s, o.u, fun t =>
      t.setPsw o.u { t.psw o.u with cc := BitVec.ofNat 2 ((t.g o.u o.ra).toNat / 16 % 4), fom := (t.g o.u o.ra).getLsbD 3 })
  | .ident o => some (insnIdent o, o.u, fun t => t.setG o.u o.ra (t.identity o.u))
  | .rdtod o => some (insnRdtod o, o.u, fun t => (t.tagged o.u).setG o.u o.ra (t.tod + (Config.todSkew o.u).signExtend 64))
  | .chkmode o => some (insnChkmode o s, o.u, fun t =>
      if (t.unit o.u).checked = (t.g o.u o.ra).getLsbD 0 then (t.wcFlush o.u).setCc o.u 1
      else ((t.wcFlush o.u).modUnit o.u fun c => c.setC 33 (setBit (c.getC 33) 0 ((t.g o.u o.ra).getLsbD 0))).setCc o.u 0)
  | _ => none

/-- The orders of CPUSIG with their codes and least states (R62, R63). -/
def sigRow : Instr → Option (OpSig × SigOrder × Nat × Nat)
  | .cpusigExternalCall o => some (o, .extCall, 0x01, 1)
  | .cpusigEmergencySignal o => some (o, .emergency, 0x02, 1)
  | .cpusigStop o => some (o, .stop, 0x10, 2)
  | .cpusigRestart o => some (o, .restart, 0x11, 2)
  | .cpusigCoreReset o => some (o, .coreReset, 0x12, 2)
  | _ => none

/-! ## Maintenance, I/O, coprocessors (R226, R264 to R271, R322, R315, R402) -/

/-- The invalidations by a CPU: what enters, its unit, and what every CPU's TLBs lose (R226). -/
def tlbRow (s : State) : Instr → Option (Insn × Nat × (State → TlbInv))
  | .tlbiv o => some (insnTlbiv o, o.u, fun t => .page (t.unit o.u).context (t.g o.u o.rb))
  | .tlbia o => some (insnTlbia o, o.u, fun t => .context (t.unit o.u).context)
  | .tlbii o => some (insnTlbii o s, o.u, fun t => .image (Fin.ofNat 96 (t.g o.u o.ra).toNat))
  | _ => none

/-- The line maintenance instructions of a CPU: what enters, its operands, the access checked and the action on the line of a
piece (R264 to R267). -/
def lineRow : Instr → Option (Insn × OpA × AccKind × (State → Piece → State))
  | .cinv o => some (insnCinv o, o, .store, fun t p => (t.lineConflict (p.pa / 256)).cinv (p.pa / 256))
  | .cclean o => some (insnCclean o, o, .load, fun t p => t.cleanLine (p.pa / 256))
  | .cclinv o => some (insnCclinv o, o, .load, fun t p => (t.lineConflict (p.pa / 256)).cclinv (p.pa / 256))
  | .czero o => some (insnCzero o, o, .store, fun t p => t.czero o.u (p.pa / 256) p.mt)
  | _ => none

/-- The cache switches: what enters, its unit, whether the caches are on before it, and the state and CC where it acts
(R268, R270, R271). -/
def switchRow : Instr → Option (Insn × Nat × (State → Bool) × Bool × (State → State × BitVec 2))
  | .l2dis o => some (insnL2dis o, o.u, fun t => t.l2On (t.coreOf o.u), true, fun t => ((t.l2Disable (t.coreOf o.u)).l2SweepEnd (t.coreOf o.u), 0))
  | .l2en o => some (insnL2en o, o.u, fun t => t.l2On (t.coreOf o.u), false, fun t =>
      (t.l2Enable (t.coreOf o.u), if (t.l2Enable (t.coreOf o.u)).l2On (t.coreOf o.u) then 0 else 2))
  | .l3dis o => some (insnL3dis o, o.u, fun t => t.l3On (t.coreOf o.u / 26), true, fun t =>
      ((t.l3Disable (t.coreOf o.u / 26)).l3SweepEnd (t.coreOf o.u / 26), 0))
  | .l3en o => some (insnL3en o, o.u, fun t => t.l3On (t.coreOf o.u / 26), false, fun t =>
      (t.l3Enable (t.coreOf o.u / 26), if (t.l3Enable (t.coreOf o.u / 26)).l3On (t.coreOf o.u / 26) then 0 else 2))
  | _ => none

/-- The I/O instructions with what they do to a subchannel p of image i that ga names; `b` is the operand block they load, n
bytes of it (R322 to R326). -/
structure IoRow where
  insn : Insn
  o : OpA
  n : Nat
  act : State → Nat → List Byte → Nat → State × BitVec 2

/-- IOSTART, IOHALT, IOCLEAR and IOMODIFY. -/
def ioRow (s : State) : Instr → Option IoRow
  | .iostart o => some ⟨insnIostart o s, o, 32, fun t i b p => match parseOrb b with | some orb => t.ioStart i p orb | none => (t, 0)⟩
  | .iohalt o => some ⟨insnIohalt o s, o, 0, fun t _ _ p => t.ioHalt p⟩
  | .ioclear o => some ⟨insnIoclear o s, o, 0, fun t _ _ p => t.ioClear p⟩
  | .iomodify o => some ⟨insnIomodify o s, o, 48, fun t _ b p => t.ioModify p b⟩
  | _ => none

/-- The CSSET instructions with a parameter block: what enters, its operands, the bytes of the block and what it does with them
(R315 to R320). -/
def csBlockRow (s : State) : Instr → Option (Insn × OpA × Nat × (State → List Byte → State))
  | .csimageCreate o => some (insnCsimageCreate o s, o, 64, fun t b => t.csImageRun o b)
  | .csimageModify o => some (insnCsimageModify o s, o, 64, fun t b => t.csImageRun o b)
  | .csimageRemove o => some (insnCsimageRemove o s, o, 64, fun t b => t.csImageRun o b)
  | .csmapMap o => some (insnCsmapMap o s, o, 64, fun t b => t.onImage o fun t i e => t.csMap i e b)
  | .csmapUnmap o => some (insnCsmapUnmap o s, o, 64, fun t b => t.onImage o fun t i e => t.csMap i e b)
  | .csmapReplace o => some (insnCsmapReplace o s, o, 64, fun t b => t.onImage o fun t i e => t.csMap i e b)
  | .csshare o => some (insnCsshare o s, o, 16, fun t b => t.onImage o fun t i e => t.csShare i e b)
  | _ => none

/-- CSQUIESCE and CSRESET on a defined image (R347, R348). -/
def csRow : Instr → Option (Insn × OpA × (State → Nat → Image → CsOut))
  | .csquiesce o => some (insnCsquiesce o, o, fun t i e => t.csQuiesce i e (t.g o.u o.rb).toNat)
  | .csreset o => some (insnCsreset o, o, fun t i e => t.csReset i e)
  | _ => none

/-- A slot instruction: what enters, its operands, its slot, and what the engine that serves it does. -/
structure SlotRow where
  insn : Insn
  o : OpC
  slot : Nat
  run : State → Nat × Nat → Except Ends State

/-- Compression and ciphers (R409 to R418, R422). -/
def slotRow (s : State) : Instr → Option SlotRow
  | .defcmp o => some ⟨insnDefcmp o s, o, 0, fun t e => match t.defOpen o with
      | .error y => .error y
      | .ok (t1, b, x, c) => if x.ended then .ok (t1.setCc o.u 0) else match defFrom x c with
        | none => t1.contBad o.u (t.g o.u o.rb) b
        | some d => t1.defcmpRun o e b x d⟩
  | .defdcm o => some ⟨insnDefdcm o s, o, 0, fun t e => match t.defOpen o with
      | .error y => .error y
      | .ok (t1, b, x, c) => if x.ended then .ok (t1.setCc o.u 0) else match infFrom x c with
        | none => t1.contBad o.u (t.g o.u o.rb) b
        | some d => t1.defdcmRun o e b x d⟩
  | .aesGcmEncrypt o => some ⟨insnAesGcmEncrypt o s, o, 1, fun t e => t.symRun o .gcm false 1 e⟩
  | .aesGcmDecrypt o => some ⟨insnAesGcmDecrypt o s, o, 1, fun t e => t.symRun o .gcm true 2 e⟩
  | .aesXtsEncrypt o => some ⟨insnAesXtsEncrypt o s, o, 1, fun t e => t.symRun o .xts false 3 e⟩
  | .aesXtsDecrypt o => some ⟨insnAesXtsDecrypt o s, o, 1, fun t e => t.symRun o .xts true 4 e⟩
  | .aesCbcEncrypt o => some ⟨insnAesCbcEncrypt o s, o, 1, fun t e => t.symRun o .cbc false 5 e⟩
  | .aesCbcDecrypt o => some ⟨insnAesCbcDecrypt o s, o, 1, fun t e => t.symRun o .cbc true 6 e⟩
  | .aesCtr o => some ⟨insnAesCtr o s, o, 1, fun t e => t.symRun o .ctr false 7 e⟩
  | .hash o => some ⟨insnHash o s, o, 1, fun t e => t.symRun o .hash false 0x10 e⟩
  | .pkwrapSymmetric o => some ⟨insnPkwrapSymmetric o s, o, 1, fun t e => t.pkwrapSym o e⟩
  | _ => none

/-- Public-key functions and random blocks (R419, R422, R424). -/
def keyRow (s : State) : Instr → Option SlotRow
  | .sign o => some ⟨insnSign o s, o, 2, fun t e => t.pkRun o .sign e⟩
  | .verify o => some ⟨insnVerify o s, o, 2, fun t e => t.pkRun o .verify e⟩
  | .keygen o => some ⟨insnKeygen o s, o, 2, fun t e => t.pkRun o .keygen e⟩
  | .encaps o => some ⟨insnEncaps o s, o, 2, fun t e => t.pkRun o .encaps e⟩
  | .decaps o => some ⟨insnDecaps o s, o, 2, fun t e => t.pkRun o .decaps e⟩
  | .pkwrapPrivate o => some ⟨insnPkwrapPrivate o s, o, 2, fun t e => t.pkwrapPk o e⟩
  | .rndb o => some ⟨insnRndb o s, o, 3, fun t e => t.rndb o e⟩
  | _ => none

/-! ## Interruptions (R75, R77) -/

/-- The interruption data and the old PSW of an interruption stored in the prefix area and the new PSW fetched from it (R77),
after the table entries that lead to the area (R213), an open region aborted first and TXA set (R80, R242). -/
def State.stored (s : State) (u : Nat) (p : Area) (x : Intr) : State :=
  let s0 := (s.fetchedBy u (s.areaFetched u)).wcFlush u
  let s1 := s0.modUnit u fun c => c.abort x.ia 0x07 0
  let s2 := if (s0.unit u).region.isSome && x.cls != .program then s1.setTxa u p else s1
  ((x.data.foldl (fun t d => t.storeArea u p d.1 d.2) s2).storeArea u p x.cls.old (s2.psw u).bytes).fetchNew u p x.cls

/-! ## Events and register writes: the state that a command leads to -/

/-- Checking, sparing and random numbers (R193 to R203, R423 to R425). -/
def checkEvent (s : State) : Instr → Option State
  | .randomBufferRefill core => some (if (s.core core).rnd.length < 64 then s.refillRnd core else s)
  | .healthTestFailed die => some (s.healthFail die)
  | .mismatchRetry n => some (s.mismatch n false)
  | .comparatorFault n parity => some (s.comparatorFault n parity false)
  | .spareSelftestEnd die cluster pass => some (s.spareTestEnd die cluster pass)
  | .moveComplete n readable => some (s.moveComplete n readable)
  | .failingCoreSweepEnd core => some (s.coreSweepEnd core)
  | .drbgReseedCount die inst => some (if (accEngines true).contains (die.val, inst.val) && s.drbgServes (die.val, inst.val)
      then s.reseedCount (die.val, inst.val) else s)
  | .squashedMismatch n ia => some (if s.issuing n && (s.unit n).checked then s.unitSend n 0x21 1 (checkSynd n ia.toNat) else s)
  | .logicSelftestEnd n v => some (match s.injAt (s.coreOf n / 26) (s.coreOf n % 26) 5 with
      | some x => if (s.unit n).selfTest then (s.dropInj x).selfTestEnd n .secondPass true else s
      | none => s.selfTestEnd n v false)
  | _ => none

/-- Caches and home dies (R249 to R263, R268, R271). -/
def fabricEvent (s : State) : Instr → Option State
  | .lineFillArrival core a => some (s.fillArrives core (a.toNat / 256))
  | .victimAccepted core a => some (s.victimAccepted core (a.toNat / 256))
  | .homeReadRequest die a => some (if a.toNat < s.dramSize then (s.homeRead die a.toNat).1 else s)
  | .homeOwnershipRequest die a => some (if a.toNat < s.dramSize then s.homeOwn die a.toNat else s)
  | .homeWriteback die a => some (if a.toNat < s.dramSize then s.homeWriteback die a.toNat else s)
  | .coherenceRemoval core a => some (s.removeL2 core (a.toNat / 256) true)
  | .l2SweepEnd core => some (s.l2SweepEnd core)
  | .l3SweepEnd die => some (s.l3SweepEnd die)
  | _ => none

/-- DRAM controllers (R287 to R307), and the engines' accesses to storage (R263). -/
def dramEvent (s : State) : Instr → Option State
  | .dramReadRequest c a => some (if s.onChannel c a.toNat then s.readRequest c (a.toNat / 128) else s)
  | .selfRefreshEntry c => some (s.srEntry c)
  | .selfRefreshExit c => some (s.srExit c)
  | .zeroingEnd c => some (s.endZero c)
  | .drainEnd c => some (s.endDrain c)
  | .dramWriteRequest c a data poison => some (if s.onChannel c a.toNat then s.writeRequest a.toNat data poison else s)
  | .dramCommandIssue c caErr => some ((if caErr then s.dcSend c 0x4A 1 0 31 false else s).issueCommand c)
  | .refreshInterval c => some (s.refreshInterval c)
  | .trainingEnd c ok => some (s.trainingEnd c ok)
  | .engineStorageRead a len => some (if s.inDram a.toNat len then s.engRead a.toNat len else s)
  | .engineStorageWrite a data => some (if s.inDram a.toNat data.length then s.engWrite a.toNat data else s)
  | _ => none

/-- The channel subsystem (R321, R338 to R347), accelerators and working store (R428, R442, R444). -/
def channelEvent (s : State) : Instr → Option State
  | .journalStateDurable w => some ((s.collideAny (w.late.map fun b => (w.p.val, b))).journalDurable w.p)
  | .mirrorLinkDown => some (s.mirrorDown)
  | .mirrorLinkReturn => some (s.mirrorReturn)
  | .mirrorCopyEnd => some (s.mirrorCopied)
  | .engineFailure die e => some (s.engineFail (chNum die) e false)
  | .quiesceGraceExpiry n => some (s.graceExpiry n)
  | .schedulingRound die port => some (s.schedRound (chNum die) port)
  | .bankCopyEnd die => some (s.copyEnd (wsNum die))
  | .bankMarchEnd die pass => some (s.marchEnd (wsNum die) pass)
  | .testInPlaceEnd die bank pass => some (s.inPlaceEnd (wsNum die) bank pass)
  | .acceleratorSelftestEnd die inst pass => some (s.accTestEnd (die, inst) pass)
  | .channelDieFailure die coll => some ((s.chDieFail (chNum die)).collideAny (match coll with
      | some x => if s.mirrorUp && s.dieState (chNum die) != 3 && (s.slot x.1).running && ownerDie x.1 == chNum die then some (x.1.val, x.2)
        else none
      | none => none))
  | _ => none

/-- Channel ports: links, flow control, frames and timers (R364 to R391). -/
def portEvent (s : State) : Instr → Option State
  | .linkUp die port peer200 => some (s.linkComesUp (chNum die) port peer200)
  | .linkDown die port => some (s.linkGoesDown (chNum die) port)
  | .receiveBufferXon die port => some (s.xon (chNum die) port)
  | .pfcRepeatExpiry die port => some (s.pfcRepeat (chNum die) port)
  | .loginReq f => some (s.rxLoginReq f)
  | .loginAcc f => some (s.receive 0x02 f fun t k => t.loginAcc k (rxData f))
  | .loginRej f => some (s.receive 0x03 f fun t k => t.rxLoginRej k f)
  | .logout f => some (s.receive 0x04 f fun t k => if t.lgnState k = 3 then t.loseLogin k true else t)
  | .echo f => some (s.receive 0x05 f fun t k => if t.lgnState k = 3 then t.sendFrame k (t.frameOn k 0x06 []) else t)
  | .echoReply f => some (s.receive 0x06 f fun t _ => t)
  | .data f => some (s.onActive 0x11 f)
  | .ack f => some (s.onActive 0x12 f)
  | .status f => some (s.onActive 0x13 f)
  | .working f => some (s.onActive 0x16 f)
  | .abortAck f => some (s.receive 0x19 f fun t k => if t.lgnState k = 3 then t.rxAbortAck f else t.discard (chNum f.die) f.port.val)
  | .ackDelayExpiry p => some (s.ackDelay p)
  | .ackTimeout p => some (s.ackTimeout p)
  | .pauseMaxExceeded die port => some (s.pauseMax (chNum die) port)
  | .statusWaitExpiry p => some (s.statusWait p)
  | .keepaliveExpiry die slot => some (s.keepalive (loginKey die slot))
  | .loginAnswerTimeout die slot => some (s.loginTimeout (loginKey die slot))
  | .loginRetryExpiry die slot => some (s.loginRetry (loginKey die slot))
  | .abortResendExpiry xid => some (s.abortResend xid.toNat)
  | .pauseTimeExpiry die port => some (if (s.port (chNum die) port).paused then s.unpause (chNum die) port else s)
  | .pfcFrame die port enabled times => some (if bit (s.reg (rCl (chNum die) port 0x18)) 62 && s.linkLive (chNum die) port &&
      enabled.getLsbD (fget (s.reg (rCl (chNum die) port 0x18)) 59 3)
      then s.pause (chNum die) port (times.toNat / 2 ^ (112 - 16 * fget (s.reg (rCl (chNum die) port 0x18)) 59 3) % 65536) else s)
  | .pauseFrame die port time => some (if !(bit (s.reg (rCl (chNum die) port 0x18)) 62) && s.linkLive (chNum die) port
      then s.pause (chNum die) port time.toNat else s)
  | _ => none

/-- Service-die events that act while the module is not stopped (R469). -/
def powerEvent (s : State) : Instr → Option State
  | .injectionPerformed => some (s.performInjection)
  | _ => none

/-- Events of the service die, which act while its rails are up (R459, R468, R476, R487, R489, R497, R509, R512). -/
def serviceEvent (s : State) : Instr → Option State
  | .thresholdWindowReset kind => some (s.windowEnd kind.toNat)
  | .flitCrcError die port f => some (s.flitError die port f.sent f.back)
  | .lcWipeStepEnd => some (s.wipeStepEnd)
  | .managementLinkDown port => some (s.mgmtDown port)
  | .managementLinkUp l => some (s.mgmtUp l)
  | .snapshotCapture => some (s.snapCapture)
  | .snapshotDone => some (s.snapDone)
  | .ptpEventMessage e => some (s.ptpMessage e)
  | .ptpHoldover => some (s.ptpHold)
  | .clockSynthesiserUnlock d => some (s.condBegin (domainDie d) 0x7C 0x8E 5 d d)
  | .jtagInstruction i => some (s.jtagLoad i)
  | .plainNodeBufferError die => some (s.send die 0x70 0x82 5 0)
  | .todDistributionFault => some (s.send 10 0x30 0x9D 5 0)
  | .fuseControllerFault => some (s.send 10 0x11 0x9E 6 0)
  | .faultMessageAccept parity => some (s.faultAccept parity)
  | .messageMerged parity => some (s.mergeOne parity)
  | .pmbusPoll rds => some (s.pollRails rds)
  | .smbalert rds => some (s.pollRails rds)
  | .wsVaultWipe => some (if s.boot.done.contains 1 && s.rf rVault 62 1 == 0 then s.wipeVault 4 else s)
  | .vaultWipeEnd failed => some (s.wipeEnd (failed.map (·.val)))
  | .tamperIndication => some ((s.wipeVault 2).send 10 0x12 0x9F 3 0)
  | .cpuTimerCondition u => some (if (s.readC u 4).getLsbD 63 then s else s.passUnits ((s.readC u 4).toNat + 1))
  | .clockComparatorCondition u => some (if (s.readC u 5).toNat < s.tod.toNat ∨ (s.readC u 5).toNat = 2 ^ 64 - 1 then s
      else s.passUnits ((s.readC u 5).toNat + 1 - s.tod.toNat))
  | _ => none

/-- Connections and records outside the table of R484 (R475, R478, R479, R482). -/
def sessionEvent (s : State) : Instr → Option State
  | .tlsConnection port c => some (s.connect port c)
  | .hello se req vmin vmax => some (if (s.session se).isSome then (s.mcCode 0x3101).hello se req vmin.toNat vmax.toNat else s)
  | .sessionSilenceExpiry se => some (s.silence se)
  | .sessionConnectionLost se => some (s.closeSession se)
  | .unassignedFspRecord se req group code => some (match s.session se with
      | none => s
      | some x => ((s.setSession se (some { x with silent := false })).mcCode 0x3101).respond se group.toNat code.toNat req 0x0001 [])
  | .managementCoreFailure m => some (s.mcFail m)
  | _ => none

/-- Events of a CPU's own tables, of conditions and of clocked logic, whatever the state of the module is. -/
def moduleEvent (s : State) : Instr → Option State
  | .transactionConflict n a write => some (match (s.unit n.val).region with
      | some r => if r.conflicts (a.toNat / 64) write then s.abortRegion n.val 0x02 else s
      | none => s)
  | .tlbInvalidationReceived n inv => some (if s.cmapState n.val = 1 then s.modUnit n.val fun c =>
      (c.tlbDrop (tlbInvHits inv)).walkDrop (walkInvHits inv) else s)
  | .conditionEnd die unit kind part => some (s.condEnd die unit.toNat kind.toNat part)
  | .governorInterval rail o => some (if s.clocked (if rail.val < 4 then 2 * rail.val else 8)
      then (s.governor rail o).adapt rail o.volts else s)
  | .droopDetected die cluster o => some (if s.clocked die then s.droop die cluster o.supply.toNat o.stretch.toNat else s)
  | .droopRelease die cluster => some (s.droopEnd die cluster)
  | .passStart die o => some (s.passStart die o)
  | _ => none

/-- Resets and power (R17, R501, R518 to R520). -/
def resetEvent (s : State) : Instr → Option State
  | .resetN low => some (if low < 10000 ∨ s.terminal = true ∨ s.powered = false then s else s.coldReset)
  | .coldResetStepEnd n => some (if s.stepReady (n.val + 1)
      then { s with boot := { s.boot with done := s.boot.done ++ [n.val + 1] } }.bootAction (n.val + 1) else s)
  | .vauxLoss => some { s.unpower with rails := s.rails.filter fun x => x != 8 }
  | .powerOn => some (if s.powered then s else { s.coldReset with rails := railsDown.reverse })
  | _ => none

/-- A write of a register: the plane, the address and the value. -/
structure WriteRow where
  w : Writer
  a : Nat
  v : Dword

/-- The writes that have rows of their own, and any other (R10, R16). -/
def writeRow (s : State) : Instr → Option WriteRow
  | .svCmapWrite n v => some ⟨.mgmt, rCmap n, v⟩
  | .l2CtlEnClear w core => some ⟨w, rL2Ctl core, setBit 0 63 false⟩
  | .l2CtlEnSet w core => some ⟨w, rL2Ctl core, setBit 0 63 true⟩
  | .l3CtlEnClear w die => some ⟨w, rL3Ctl die, setBit (s.reg (rL3Ctl die)) 63 false⟩
  | .l3CtlEnSet w die => some ⟨w, rL3Ctl die, setBit (s.reg (rL3Ctl die)) 63 true⟩
  | .dcRefModeWrite w c v => some ⟨w, rDc c 0x18, v⟩
  | .dcTrainStart w c v => some ⟨w, rDc c 0x20, setBit v 61 true⟩
  | .dcCtlZero w c v => some ⟨w, rDc c 0, setBit v 60 true⟩
  | .dcCtlEnSet w c v => some ⟨w, rDc c 0, setBit v 63 true⟩
  | .dcCtlEnClear w c v => some ⟨w, rDc c 0, setBit v 63 false⟩
  | .ceCtlEnSet w die e v => some ⟨w, rCe (chNum die) e 0, setBit v 63 true⟩
  | .ceCtlEnClear w die e v => some ⟨w, rCe (chNum die) e 0, setBit v 63 false⟩
  | .csCtlEnSet w die v => some ⟨w, rCs (chNum die) 0, setBit v 63 true⟩
  | .clCtlEnSet w die port v => some ⟨w, rCl (chNum die) port 0, setBit v 63 true⟩
  | .clCtlEnClear w die port v => some ⟨w, rCl (chNum die) port 0, setBit v 63 false⟩
  | .clLgnAddrEnSet w die slot v => some ⟨w, rLgnAddr (chNum die) slot, setBit v 63 true⟩
  | .clLgnAddrEnClear w die slot v => some ⟨w, rLgnAddr (chNum die) slot, setBit v 63 false⟩
  | .accCtlEnSet w die inst v => some ⟨w, rAcc die inst 0, setBit v 63 true⟩
  | .accCtlEnClear w die inst v => some ⟨w, rAcc die inst 0, setBit v 63 false⟩
  | .wsTestEnSet w die v => some ⟨w, regAddr 7 0 (wsNum die) 0x10, setBit v 63 true⟩
  | .fcAckWrite w v => some ⟨w, rFc 8, v⟩
  | .firstStatValidClear w c => some ⟨w, rFirstStat c, setBit 0 63 true⟩
  | .fcInjCtlArmSet w v => some ⟨w, rInjCtl, setBit v 63 true⟩
  | .fcInjCtlArmClear w v => some ⟨w, rInjCtl, setBit v 63 false⟩
  | .snapGo w => some ⟨w, regAddr 10 0 10 0x10, setBit 0 63 true⟩
  | .clkTodSetWrite w v => some ⟨w, regAddr 12 0 10 0x110, v⟩
  | .pwrSlewWrite w r v => some ⟨w, regAddr 11 0 10 (0x100 + 8 * r.val), v⟩
  | .coreChkStatClr w core v => some ⟨w, rChkStat core, setBit v 60 true⟩
  | .l2ErrClr w core v => some ⟨w, rL2Err core, setBit v 61 true⟩
  | .l3ErrClr w die v => some ⟨w, rL3Err die, setBit v 61 true⟩
  | .dcErrClr w c v => some ⟨w, rDc c 0x38, setBit v 61 true⟩
  | .csStaleClr w die img v => some ⟨w, rCs (chNum die) (0x1800 + 8 * img.val), setBit v 62 true⟩
  | .clCntClr w die port tag v => some ⟨w, rCl (chNum die) port (if tag then 0x128 else 0x120), setBit v 62 true⟩
  | .accErrClr w die inst v => some ⟨w, rAcc die inst 0x18, setBit v 61 true⟩
  | .wsCntClr w die v => some ⟨w, regAddr 7 0 (wsNum die) 0x18, setBit v 60 true⟩
  | .wsErrClr w die v => some ⟨w, regAddr 7 0 (wsNum die) 0x20, setBit v 61 true⟩
  | .fcCntClr w c v => some ⟨w, rFcCnt c, setBit v 62 true⟩
  | .fcCntMiscClr w v => some ⟨w, rCntMisc, setBit v 61 true⟩
  | .pwrDroopClr w die v => some ⟨w, rDroop die, setBit v 62 true⟩
  | .registerWrite w a v => some ⟨w, a.toNat, v⟩
  | _ => none

/-! ## FSP records (R480 to R484) -/

/-- A record: its session, request, group, code, least version, whether only the active session may send it, what it does on a
state that has noted the record, and what follows on its session whether it was accepted or refused. -/
structure RecordRow where
  se : Fin 2
  req : Word
  group : Nat
  code : Nat
  ver : Nat
  active : Bool
  act : State → State
  post : State → State

/-- R484. -/
def recordRow : Instr → Option RecordRow
  | .bye se req => some ⟨se, req, 1, 2, 1, false, (fun t => (t.respond se 1 2 req 0 []).closeSession se), id⟩
  | .ping se req => some ⟨se, req, 1, 3, 1, false, (fun t => t.respond se 1 3 req 0 []), id⟩
  | .takeover se req => some ⟨se, req, 1, 4, 1, false, (fun t => t.takeover se req), id⟩
  | .release se req => some ⟨se, req, 1, 5, 1, true, (fun t => t.release se req), id⟩
  | .loadBegin se req k ver => some ⟨se, req, 2, 1, 1, true, (fun t => t.loadBegin se req k ver), id⟩
  | .loadData se req data => some ⟨se, req, 2, 2, 1, true, (fun t => t.loadData se req data), id⟩
  | .loadEnd se req ok => some ⟨se, req, 2, 3, 1, true, (fun t => t.loadEnd se req ok), id⟩
  | .powerStatus se req => some ⟨se, req, 3, 1, 1, false, (fun t => t.respond se 3 1 req 0 t.telemetry), id⟩
  | .warmReset se req => some ⟨se, req, 3, 2, 1, true, (fun t => if t.terminal then t.respond se 3 2 req 0x0004 [] else (t.respond se 3 2 req 0 []).warmReset), id⟩
  | .powerOff se req => some ⟨se, req, 3, 3, 1, true, (fun t => (t.respond se 3 3 req 0 []).powerDown), id⟩
  | .regRead se req l => some ⟨se, req, 4, 1, 1, false, (fun t => t.fspRegRead se req (l.map (·.toNat))), id⟩
  | .regWrite se req l => some ⟨se, req, 4, 2, 1, true, (fun t => t.fspRegWrite se req (l.map fun x => (x.1.toNat, x.2))), id⟩
  | .faultRead se req => some ⟨se, req, 5, 2, 1, false, (fun t => t.respond se 5 2 req 0 t.faultReport), id⟩
  | .faultAck se req cls seq => some ⟨se, req, 5, 3, 1, true, (fun t => if cls.toNat < 2 ∨ 5 < cls.toNat then t.respond se 5 3 req 0x0181 [] else (t.ackUpTo cls.toNat seq 1).respond se 5 3 req 0 []), id⟩
  | .inject se req tgt ctl => some ⟨se, req, 5, 4, 2, true, (fun t => t.writeAndRespond se 5 4 req [(rInjTgt, tgt), (rInjCtl, ctl)]), id⟩
  | .todSet se req v => some ⟨se, req, 6, 1, 1, true, (fun t => if bit (t.reg rTodCtl) 63 then t.respond se 6 1 req 0x0183 [] else (t.stepTod false v).respond se 6 1 req 0 []), id⟩
  | .ptpConfig se req domain transport en => some ⟨se, req, 6, 2, 1, true, (fun t => t.writeAndRespond se 6 2 req [(rTodCtl, ptpValue (t.reg rTodCtl) domain transport en)]), id⟩
  | .snap se req => some ⟨se, req, 7, 1, 2, false, (fun t => t.snapRequest (some (se.val, req))), id⟩
  | .sparePolicy se req xdie reserve => some ⟨se, req, 8, 1, 2, true, (fun t => t.writeAndRespond se 8 1 req [(rSparePool, setBit (fset (t.reg rSparePool) 16 16 reserve.toNat) 32 xdie)]), id⟩
  | .cmapWrite se req l => some ⟨se, req, 8, 2, 2, true, (fun t => t.writeAndRespond se 8 2 req (l.map fun x => (rCmap x.1, x.2))), id⟩
  | .lcNonce se req => some ⟨se, req, 9, 1, 3, false, (fun t => t.respond se 9 1 req 0 ((List.range 4).map fun i => t.reg (rNonce i))), id⟩
  | .lcTransition se req target nonce g => some ⟨se, req, 9, 2, 3, true, (fun t => t.lcTransition se req target.toNat nonce g), State.newNonce⟩
  | .lcProvision se req anchor keyHash node => some ⟨se, req, 9, 3, 3, true, (fun t => t.lcProvision se req ⟨anchor, keyHash, node⟩), id⟩
  | _ => none

/-! ## Decoding checks -/

/-- Instruction i has been fetched on its unit and comes to its decoding checks in state s2, after any injected mismatch:
nothing is pending at the boundary, the unit is at work (R75 to R89, R97, R98) and its core is not in the self-test that a
third mismatch begins (R193). -/
def State.arrives (s : State) (i : Insn) (s2 : State) : Prop :=
  s.boundary i.u = .clear ∧ s.waits i.u = false ∧ ∃ s1, s.fetchWordAt i.u = .ok s1 ∧ s2 = s1.injectedMismatch i.u i.rows 3 ∧ (s2.unit i.u).selfTest = false

/-- The least state of a use of control register n (R54, R55); a reserved register is no matter of state. -/
def ctlLeast (inImage write : Bool) (n : Nat) : Nat :=
  if (32 ≤ n ∧ inImage = true) ∨ n = 32 ∨ n = 33 ∨ 48 ≤ n then 2
  else if n ≤ 6 ∨ n = 10 ∨ n = 14 ∨ (16 ≤ n ∧ n ≤ 31) ∨ (n = 9 ∧ write = true) then 1
  else 0

/-- The system, translation and cache instructions with the least state that may run them (R54, R62, R110, R111). -/
def privilegedRow (s : State) : Instr → Option (Insn × Nat)
  | .lpsw o => some (insnLpsw o s, 1)
  | .lctl o => some (insnLctl o s, ctlLeast (s.unit o.u).inImage true (o.imm.toNat % 64))
  | .stctl o => some (insnStctl o s, ctlLeast (s.unit o.u).inImage false (o.imm.toNat % 64))
  | .hcall o => some (insnHcall o s, 1)
  | .irun o => some (insnIrun o s, 2)
  | .chkmode o => some (insnChkmode o s, 2)
  | .cpusigExternalCall o => some (insnCpusigExternalCall o, 1)
  | .cpusigEmergencySignal o => some (insnCpusigEmergencySignal o, 1)
  | .cpusigStop o => some (insnCpusigStop o, 2)
  | .cpusigRestart o => some (insnCpusigRestart o, 2)
  | .cpusigCoreReset o => some (insnCpusigCoreReset o, 2)
  | .tlbiv o => some (insnTlbiv o, 1)
  | .tlbia o => some (insnTlbia o, 1)
  | .tlbii o => some (insnTlbii o s, 2)
  | .lra o => some (insnLra o, 1)
  | .cinv o => some (insnCinv o, 1)
  | .l2dis o => some (insnL2dis o, 2)
  | .l2en o => some (insnL2en o, 2)
  | .l3dis o => some (insnL3dis o, 2)
  | .l3en o => some (insnL3en o, 2)
  | _ => none

/-- The I/O and CSSET instructions and the slot functions with the least state that may run them (R112, R402); a slot out of service
gives 0x001C to all of its words (R426). -/
def privilegedIoRow (s : State) : Instr → Option (Insn × Nat)
  | .iostart o => some (insnIostart o s, 1)
  | .iohalt o => some (insnIohalt o s, 1)
  | .ioclear o => some (insnIoclear o s, 1)
  | .iotest o => some (insnIotest o s, 1)
  | .iostore o => some (insnIostore o s, 1)
  | .iomodify o => some (insnIomodify o s, 1)
  | .csimageCreate o => some (insnCsimageCreate o s, 2)
  | .csimageModify o => some (insnCsimageModify o s, 2)
  | .csimageRemove o => some (insnCsimageRemove o s, 2)
  | .csmapMap o => some (insnCsmapMap o s, 2)
  | .csmapUnmap o => some (insnCsmapUnmap o s, 2)
  | .csmapReplace o => some (insnCsmapReplace o s, 2)
  | .csshare o => some (insnCsshare o s, 2)
  | .csquiesce o => some (insnCsquiesce o, 2)
  | .csreset o => some (insnCsreset o, 2)
  | .pkwrapSymmetric o => if s.slotGone 1 then none else some (insnPkwrapSymmetric o s, 1)
  | .pkwrapPrivate o => if s.slotGone 2 then none else some (insnPkwrapPrivate o s, 1)
  | .reseed o => if s.slotGone 3 then none else some (insnReseed o s, 1)
  | _ => none

end Sys2Proof.Machine
end

