-- ==== Sys2Proof/Certificates/Slice0/Obligations.lean ====
section
/-! DEFINITION. The statements put to the provers. `s.enter i = .ok s2` says that instruction i has entered execution on its
unit: nothing is pending at the boundary, the unit is at work, the fetch succeeds and no decoding check of R98 stops it; s2 is
the state its effect begins in. -/
open Sys2Proof Sys2Proof.Machine

/-! ## The block -/

/-- A step takes the command at the front of the queue and runs it on the queue's rest. -/
def Obligations.StepTakesFront : Prop :=
  ∀ (c : Instr) (q : List Instr) (s : State), step { s with pending := c :: q } = exec c { s with pending := q }

/-- With no command waiting, a powered module's time-of-day gains one increment of 8 units, where no rate adjustment, no
fraction and no waiting step or snapshot stands (R510); this is the model's choice for an empty queue (log entry 1). -/
def Obligations.IdleStepTicks : Prop :=
  ∀ (s : State), s.pending = [] →
    (s.powered = false → step s = .next s) ∧
    (s.powered = true → s.rf rTodStat 16 16 = 0 → s.todFrac = 0 → s.todWait = [] →
      ∃ t, step s = .next t ∧ t.tod = s.tod + 8 ∧ t.elapsed = s.elapsed + 8 ∧ t.todFrac = 0 ∧ t.units = s.units ∧ t.mem = s.mem)

/-- What the invariant asks for holds after reset. -/
def Obligations.ResetMeetsInvariant : Prop := State.reset.Inv

/-- Every step keeps the invariant: storage, DRAM arrays, working store and service registers stay in canonical form, the
lifecycle's fuse rows stay legal (127 at most but for the last, which holds RETIRED), and no two FSP sessions are active at once. -/
def Obligations.StepKeepsInvariant : Prop :=
  ∀ (s t : State), s.Inv → step s = .next t → t.Inv

/-- A step takes one command off the queue and puts none on it; it never changes the DIMMs or the manufacturing fuses, never
takes back a retirement, a frame or an FSP record, and never leaves RETIRED. -/
def Obligations.StepOnlyGrows : Prop :=
  ∀ (s t : State), step s = .next t → t.pending = s.pending.tail ∧ s.Grows t

/-- Right after reset every executing unit is stopped with registers, PSW and return stacks 0, c33 shows CHECKED, c5 is all
ones, and the caches are enabled (R92, R180, R276). That storage reads as 0 is the model's choice (log entry 4), and so is the
moment that State.reset stands for: power is up, and the dies are held in reset until step 7 of R520 (log entry 6). -/
def Obligations.ResetState : Prop :=
  (∀ u r, State.reset.g u r = 0 ∧ State.reset.f u r = 0 ∧ State.reset.psw u = Psw.zero ∧ (State.reset.unit u).stopped = true ∧
      (State.reset.unit u).rs.entries = [] ∧ (State.reset.unit u).rs.disc = false ∧ (State.reset.unit u).checked = true ∧
      State.reset.readC u 5 = 0xFFFFFFFFFFFFFFFF ∧ State.reset.readC u 33 = 1) ∧
  (∀ k : Fin 208, State.reset.l2On k = true) ∧ (∀ d : Fin 8, State.reset.l3On d = true) ∧
  State.reset.powered = true ∧ State.reset.halted = true ∧ State.reset.frozen = true ∧ State.reset.pending = [] ∧ (∀ a, Memory.read State.reset.mem a = 0)

/-! ## Integer instructions -/

/-- Arithmetic, logic, immediate forms and LA, CRCSTEP, PARITY and BREV (R124 to R126, R130, R135, R147 to R149): the target
receives the result, the CC follows the scheme, IA moves on, and nothing else changes, unless an overflow meets FOM 1. Extension,
counting, shifts and rotates (R127, R128): the target receives the result, and the CC is unchanged. -/
def Obligations.IntegerResults : Prop :=
  (∀ (c : Instr) (x : AluRow) (s s2 : State), (aluRow c = some x ∨ immRow c = some x ∨ checkRow c = some x) →
    s.enter x.insn = .ok s2 → ¬((x.out s2).ovf = true ∧ (s2.psw x.u).fom = true) →
    exec c s = .next (s2.finish x.u ((s2.past x.u).withAlu x.u x.ra (x.out s2)))) ∧
  (∀ (c : Instr) (x : AluRow) (s s2 : State), (shiftRow c = some x ∨ shiftImmRow c = some x) → s.enter x.insn = .ok s2 →
    (x.out s2).cc = none ∧ exec c s = .next (s2.finish x.u ((s2.past x.u).setG x.u x.ra (x.out s2).val)))

/-- Comparisons set the CC and nothing else (R122, R124, R125); moves between registers write their target and nothing else
(R166). -/
def Obligations.CompareAndMoveResults : Prop :=
  (∀ (c : Instr) (x : Insn × Nat × (State → BitVec 2)) (s s2 : State), compareRow c = some x → s.enter x.1 = .ok s2 →
    exec c s = .next (s2.finish x.2.1 ((s2.past x.2.1).setCc x.2.1 (x.2.2 s2)))) ∧
  (∀ (c : Instr) (x : Insn × Nat × (State → State)) (s s2 : State), moveRow c = some x → s.enter x.1 = .ok s2 →
    exec c s = .next (s2.finish x.2.1 (x.2.2 (s2.past x.2.1))))

/-- Multiplications to 128 bits and divisions write their pair and the CC (R130, R131). -/
def Obligations.PairResults : Prop :=
  ∀ (c : Instr) (x : Insn × Nat × BitVec 5 × (State → Option PairOut)) (r : PairOut) (s s2 : State), pairRow c = some x →
    s.enter x.1 = .ok s2 → x.2.2.2 s2 = some r → ¬(r.ovf = true ∧ (s2.psw x.2.1).fom = true) →
    exec c s = .next (s2.finish x.2.1 ((s2.past x.2.1).withPair x.2.1 x.2.2.1 r))

/-- An overflow with PSW.FOM 1 is completing (R123): the result and CC 3 are written, and the interruption of code 0x0008
finds IA at the next instruction. -/
def Obligations.OverflowTraps : Prop :=
  (∀ (c : Instr) (x : AluRow) (s s2 : State), (aluRow c = some x ∨ immRow c = some x) → s.enter x.insn = .ok s2 →
    (x.out s2).ovf = true → (s2.psw x.u).fom = true →
    (x.out s2).cc = some 3 ∧
    exec c s = .next (s2.orWaits x.u
      (((s2.past x.u).withAlu x.u x.ra (x.out s2)).excInt x.u { code := 8 } x.insn.word (s2.psw x.u).ia))) ∧
  (∀ (c : Instr) (x : Insn × Nat × BitVec 5 × (State → Option PairOut)) (r : PairOut) (s s2 : State), pairRow c = some x →
    s.enter x.1 = .ok s2 → x.2.2.2 s2 = some r → r.ovf = true → (s2.psw x.2.1).fom = true →
    r.cc = 3 ∧ exec c s = .next (s2.orWaits x.2.1
      (((s2.past x.2.1).withPair x.2.1 x.2.2.1 r).excInt x.2.1 { code := 8 } x.1.word (s2.psw x.2.1).ia)))

/-- A division by zero is suppressing, whatever FOM is (R132, R83): code 0x0009, no register and no CC written, IA at the next
instruction; a small unit whose prefix area's bank is in a copy waits (R442), here and wherever orWaits stands below. -/
def Obligations.DivideByZeroSuppresses : Prop :=
  ∀ (c : Instr) (x : Insn × Nat × BitVec 5 × (State → Option PairOut)) (s s2 : State), pairRow c = some x →
    s.enter x.1 = .ok s2 → x.2.2.2 s2 = none →
    exec c s = .next (s2.orWaits x.2.1 ((s2.past x.2.1).excInt x.2.1 { code := 9 } x.1.word (s2.psw x.2.1).ia))

/-- Division: dividend = quotient x divisor + remainder, the remainder below the divisor in magnitude and with the sign of the
dividend or zero (R131); unsigned likewise. -/
def Obligations.DivisionIdentity : Prop :=
  (∀ (b c : Dword) (r : PairOut), divSigned 64 b c = some r →
    (r.ovf = true ↔ b.toInt = -(2 ^ 63 : Int) ∧ c.toInt = -1) ∧
    (r.ovf = false → b.toInt = r.hi.toInt * c.toInt + r.lo.toInt ∧ r.lo.toInt.natAbs < c.toInt.natAbs ∧
      (r.lo.toInt = 0 ∨ (r.lo.toInt < 0 ↔ b.toInt < 0)))) ∧
  (∀ (b c : Dword) (r : PairOut), divUnsigned 64 b c = some r →
    b.toNat = r.hi.toNat * c.toNat + r.lo.toNat ∧ r.lo.toNat < c.toNat)

/-- BNDCHK (R150): a CPU has no such instruction. In the small profile it only moves IA on where the value lies within its bounds,
signed or unsigned; outside them code 0x000A, nullifying, stops it, with the value as exception data. -/
def Obligations.BndchkBounds : Prop :=
  (∀ (o : OpBnd) (s s2 : State), isCpu o.u = true → s.arrives (insnBndchk o) s2 →
    exec (.bndchk o) s = .next (s2.excInt o.u { code := 0x0001 } (insnBndchk o).word (s.psw o.u).ia)) ∧
  (∀ (o : OpBnd) (s s2 : State), s.enter (insnBndchk o) = .ok s2 →
    let v := s2.g o.u o.ra
    let lo := s2.g o.u o.rb
    let hi := s2.g o.u o.rc
    let inside := if o.uns then lo.toNat ≤ v.toNat ∧ v.toNat ≤ hi.toNat else lo.toInt ≤ v.toInt ∧ v.toInt ≤ hi.toInt
    (inside → exec (.bndchk o) s = .next (s2.finish o.u (s2.past o.u))) ∧
    (¬inside → exec (.bndchk o) s = .next (s2.orWaits o.u
      (s2.excInt o.u { code := 0x000A, data := v } (insnBndchk o).word (s2.psw o.u).ia))))

/-- R129: what SLL, SRL, SRA and ROL and their immediate forms make of 0x8000_0000_0000_0001 by the amounts of its table, and
SLLW, SRLW, SRAW and ROLW of 0x8000_0001 by 32 and 33. -/
def Obligations.ShiftTable : Prop :=
  let b : Dword := 0x8000000000000001
  let all : Dword := 0xFFFFFFFFFFFFFFFF
  let rows : List (Nat × Dword × Dword × Dword × Dword) :=
    [(0, b, b, b, b), (128, b, b, b, b), (1, 2, 0x4000000000000000, 0xC000000000000000, 3),
     (63, 0x8000000000000000, 1, all, 0xC000000000000000), (64, 0, 0, all, b), (65, 0, 0, all, 3), (127, 0, 0, all, 0xC000000000000000)]
  (∀ x ∈ rows, ∀ (o : OpA) (s s2 : State), s2.g o.u o.rb = b → s2.g o.u o.rc = BitVec.ofNat 64 x.1 →
    gives (.sll o) (insnSll o) o.ra s s2 x.2.1 ∧ gives (.srl o) (insnSrl o) o.ra s s2 x.2.2.1 ∧
    gives (.sra o) (insnSra o) o.ra s s2 x.2.2.2.1 ∧ gives (.rol o) (insnRol o) o.ra s s2 x.2.2.2.2) ∧
  (∀ x ∈ rows, ∀ (o : OpSh) (s s2 : State), s2.g o.u o.rb = b → o.amt.toNat = x.1 →
    gives (.slli o) (insnSlli o) o.ra s s2 x.2.1 ∧ gives (.srli o) (insnSrli o) o.ra s s2 x.2.2.1 ∧
    gives (.srai o) (insnSrai o) o.ra s s2 x.2.2.2.1 ∧ gives (.roli o) (insnRoli o) o.ra s s2 x.2.2.2.2) ∧
  (∀ (n : Nat) (o : OpA) (s s2 : State), n = 32 ∨ n = 33 → BitVec.truncate 32 (s2.g o.u o.rb) = 0x80000001#32 →
    s2.g o.u o.rc = BitVec.ofNat 64 n →
    gives (.sllw o) (insnSllw o) o.ra s s2 0 ∧ gives (.srlw o) (insnSrlw o) o.ra s s2 0 ∧ gives (.sraw o) (insnSraw o) o.ra s s2 all ∧
    gives (.rolw o) (insnRolw o) o.ra s s2 (if n = 32 then 0xFFFFFFFF80000001 else 3)) ∧
  (∀ (n : Nat) (o : OpSh) (s s2 : State), n = 32 ∨ n = 33 → BitVec.truncate 32 (s2.g o.u o.rb) = 0x80000001#32 → o.amt.toNat = n →
    gives (.sllwi o) (insnSllwi o) o.ra s s2 0 ∧ gives (.srlwi o) (insnSrlwi o) o.ra s s2 0 ∧ gives (.srawi o) (insnSrawi o) o.ra s s2 all ∧
    gives (.rolwi o) (insnRolwi o) o.ra s s2 (if n = 32 then 0xFFFFFFFF80000001 else 3))

/-! ## Storage, branches, atomics -/

/-- Loads (R135, R136, R166): the bytes at gb + sext(disp), extended, reach their target. -/
def Obligations.LoadResults : Prop :=
  ∀ (c : Instr) (x : LoadRow) (s s2 t : State) (b : List Byte), loadRow s c = some x → s.enter x.insn = .ok s2 →
    (s2.past x.o.u).loadAt x.o.u (s2.g x.o.u x.o.rb + x.o.imm.signExtend 64) x.n .load = .ok (t, b) → b.length = x.n →
    exec c s = .next (s2.finish x.o.u (x.put t b))

/-- Stores (R135, R136, R166): the low bytes of the source are stored at gb + sext(disp). -/
def Obligations.StoreResults : Prop :=
  ∀ (c : Instr) (x : StoreRow) (s s2 t : State), storeRow s c = some x → s.enter x.insn = .ok s2 →
    (s2.past x.o.u).storeAt x.o.u (s2.g x.o.u x.o.rb + x.o.imm.signExtend 64) (x.data s2) .store = .ok t →
    exec c s = .next (s2.finish x.o.u t)

/-- Bytes put into storage are the bytes read back from there, and every other byte of storage is as before. -/
def Obligations.StorageReadBack : Prop :=
  ∀ (s : State) (a : Nat) (b : List Byte),
    Memory.readN (s.putBytes a b).mem a b.length = b ∧
    (∀ x, (x < a ∨ a + b.length ≤ x) → Memory.read (s.putBytes a b).mem x = Memory.read s.mem x)

/-- Branches (R96, R138): IA becomes the target when the branch is taken, and the next instruction's address when not. -/
def Obligations.BranchResults : Prop :=
  ∀ (c : Instr) (x : BranchRow) (s s2 : State), branchRow s c = some x → s.enter x.insn = .ok s2 →
    exec c s = .next (s2.finish x.u (if x.taken s2 then (s2.past x.u).setIa x.u (x.target s2) else s2.past x.u))

/-- Calls and returns (R70, R139). A call with room pushes ia + 4 and goes to its target; with the stack full, under RSO 0 the
oldest entry is discarded and DISC set, and under RSO 1 code 0x000B stops it; a CALLR whose mask bit is 0 only moves IA on. RET
goes to entry 0, which leaves the stack; with COUNT 0 code 0x000C stops it. -/
def Obligations.CallsAndReturns : Prop :=
  let pushes (c : Instr) (i : Insn) (s s2 : State) (to_ : Dword) : Prop :=
    let r := (s2.unit i.u).rs
    let ia := (s2.psw i.u).ia
    (r.entries.length < rsDepth i.u → exec c s = .next (s2.finish i.u
      ((s2.past i.u).modUnit i.u fun x => (x.setRs ⟨(ia + 4) :: r.entries, r.disc⟩).setIa to_))) ∧
    (rsDepth i.u ≤ r.entries.length → (s2.psw i.u).rso = false → exec c s = .next (s2.finish i.u
      ((s2.past i.u).modUnit i.u fun x => (x.setRs ⟨(ia + 4) :: r.entries.dropLast, true⟩).setIa to_))) ∧
    (rsDepth i.u ≤ r.entries.length → (s2.psw i.u).rso = true →
      exec c s = .next (s2.orWaits i.u (s2.excInt i.u { code := 0x000B } i.word ia)))
  (∀ (o : OpB) (s s2 : State), s.enter (insnCallr o) = .ok s2 →
    (o.cond.getLsbD (3 - (s2.psw o.u).cc.toNat) = false → exec (.callr o) s = .next (s2.finish o.u (s2.past o.u))) ∧
    (o.cond.getLsbD (3 - (s2.psw o.u).cc.toNat) = true → pushes (.callr o) (insnCallr o) s s2 ((s2.psw o.u).ia + 4 * o.disp.signExtend 64))) ∧
  (∀ (o : OpA) (s s2 : State), s.enter (insnCallg o s) = .ok s2 → pushes (.callg o) (insnCallg o s) s s2 (s2.g o.u o.ra)) ∧
  (∀ (o : OpA) (s s2 : State), s.enter (insnRet o s) = .ok s2 →
    (∀ e r, (s2.unit o.u).rs.entries = e :: r → exec (.ret o) s = .next (s2.finish o.u
      ((s2.past o.u).modUnit o.u fun c => (c.setRs ⟨r, (s2.unit o.u).rs.disc⟩).setIa e))) ∧
    ((s2.unit o.u).rs.entries = [] →
      exec (.ret o) s = .next (s2.orWaits o.u (s2.excInt o.u { code := 0x000C } (insnRet o s).word (s2.psw o.u).ia))))

/-- RSSPILL stores the k oldest entries, the oldest first, and removes them; RSFILL loads k entries below those held, the first
the oldest (R71); k is gb or what the stack allows, and reaches gb. A condition that one of the k accesses meets ends the
instruction with the stack and gb as they were. -/
def Obligations.SpillAndFill : Prop :=
  (∀ (o : OpA) (s s2 : State), s.enter (insnRsspill o s) = .ok s2 →
    let es := (s2.unit o.u).rs.entries
    let k := min (s2.g o.u o.rb).toNat es.length
    let l := spillAddrs (s2.g o.u o.ra) k
    (∀ x, (s2.past o.u).spillStop o.u .store l = some x →
      exec (.rsspill o) s = .next (s2.endWith o.u (insnRsspill o s).word (s2.psw o.u).ia false (.stop x))) ∧
    (∀ t, (s2.past o.u).spillStop o.u .store l = none → (s2.past o.u).spillTo o.u (l.zip (es.reverse.take k)) = .ok t →
      exec (.rsspill o) s = .next (s2.finish o.u
        ((t.modUnit o.u fun c => c.setRs { c.rs with entries := es.take (es.length - k) }).setG o.u o.rb (BitVec.ofNat 64 k))))) ∧
  (∀ (o : OpA) (s s2 : State), s.enter (insnRsfill o s) = .ok s2 →
    let es := (s2.unit o.u).rs.entries
    let k := min (s2.g o.u o.rb).toNat (rsDepth o.u - es.length)
    let l := spillAddrs (s2.g o.u o.ra) k
    (∀ x, (s2.past o.u).spillStop o.u .load l = some x →
      exec (.rsfill o) s = .next (s2.endWith o.u (insnRsfill o s).word (s2.psw o.u).ia false (.stop x))) ∧
    (∀ t vs, (s2.past o.u).spillStop o.u .load l = none → (s2.past o.u).fillFrom o.u l = .ok (t, vs) →
      exec (.rsfill o) s = .next (s2.finish o.u
        ((t.modUnit o.u fun c => c.setRs { c.rs with entries := es ++ vs.reverse }).setG o.u o.rb (BitVec.ofNat 64 k)))))

/-- Atomics (R143): what is stored is computed from the bytes found, and the registers receive those. -/
def Obligations.AtomicResults : Prop :=
  ∀ (c : Instr) (x : AtomicRow) (s s2 t : State) (old : List Byte), atomicRow s c = some x → s.enter x.insn = .ok s2 →
    (s2.past x.o.u).atomicAt x.o.u (s2.g x.o.u x.o.rb) x.n (x.stores s2) = .ok (t, old) → old.length = x.n →
    exec c s = .next (s2.finish x.o.u (x.leaves s2 old t))

/-! ## Floating point -/

/-- Floating-point instructions (R155 to R176): a result with no enabled condition reaches its target, and the flags of its
conditions are set in c8. An enabled invalid or division by zero writes nothing (R159): code 0x0018 is suppressing and carries the
conditions; under another enabled condition result and flags are written and code 0x0018 is completing; a subnormal under TRAP is emulated through code 0x0019 (R161, R163). -/
def Obligations.FloatResults : Prop :=
  (∀ (c : Instr) (x : FpRow) (s s2 : State) (v : Dword) (cond : Nat),
    (fpArithRow c = some x ∨ fpFusedRow c = some x ∨ fpConvertRow c = some x) → s.enter x.insn = .ok s2 →
    x.out s2 = .done v cond → cond &&& fget ((s2.unit x.u).getC 8) 8 5 = 0 →
    exec c s = .next (s2.finish x.u ((x.put (s2.past x.u) v).setFlags x.u cond))) ∧
  (∀ (c : Instr) (x : FpRow) (s s2 : State),
    (fpArithRow c = some x ∨ fpFusedRow c = some x ∨ fpConvertRow c = some x) → s.enter x.insn = .ok s2 →
    (∀ v cond, x.out s2 = .done v cond → (cond &&& fget ((s2.unit x.u).getC 8) 8 5) &&& (condInvalid + condDivZero) ≠ 0 →
      exec c s = .next ((s2.past x.u).excInt x.u { code := 0x0018, data := BitVec.ofNat 64 cond } x.insn.word (s2.psw x.u).ia)) ∧
    (∀ v cond, x.out s2 = .done v cond → cond &&& fget ((s2.unit x.u).getC 8) 8 5 ≠ 0 →
      (cond &&& fget ((s2.unit x.u).getC 8) 8 5) &&& (condInvalid + condDivZero) = 0 →
      exec c s = .next (((x.put (s2.past x.u) v).setFlags x.u cond).excInt x.u { code := 0x0018, data := BitVec.ofNat 64 cond }
        x.insn.word (s2.psw x.u).ia)) ∧
    (∀ cause, x.out s2 = .trap cause → ∃ rec : List Byte, rec.length = 64 ∧ rec.getD 4 0 = BitVec.ofNat 8 cause ∧
      exec c s = .next ((s2.past x.u).excInt x.u { code := 0x0019, fpRec := rec } x.insn.word (s2.psw x.u).ia)))

/-! ## Frames -/

/-- What an instruction with one integer result, in no region and no retry, leaves as it was (R83, R119 to R131): storage, the DRAM arrays, working store
and service registers, every other unit, every other general register, every floating and control register, the return stack,
and the PSW but for IA and the CC. -/
def Obligations.IntegerFrame : Prop :=
  ∀ (c : Instr) (x : AluRow) (s s2 : State),
    (aluRow c = some x ∨ immRow c = some x ∨ shiftRow c = some x ∨ shiftImmRow c = some x ∨ checkRow c = some x) →
    s.enter x.insn = .ok s2 → (s2.unit x.u).region = none → (s2.unit x.u).retries = 0 → ¬((x.out s2).ovf = true ∧ (s2.psw x.u).fom = true) →
    ∃ t, exec c s = .next t ∧ t.g x.u x.ra = (x.out s2).val ∧ (∀ r, r ≠ x.ra → t.g x.u r = s2.g x.u r) ∧
      t.mem = s2.mem ∧ t.dram = s2.dram ∧ t.ws = s2.ws ∧ t.regs = s2.regs ∧ (∀ v, v ≠ x.u → t.unit v = s2.unit v) ∧
      (∀ r, t.f x.u r = s2.f x.u r) ∧ (∀ n, t.readC x.u n = s2.readC x.u n) ∧ (t.unit x.u).rs = (s2.unit x.u).rs ∧
      t.psw x.u = { s2.psw x.u with ia := (s2.psw x.u).ia + 4, cc := (t.psw x.u).cc } ∧
      ((x.out s2).cc = none → (t.psw x.u).cc = (s2.psw x.u).cc)

/-- In no region and no retry, branches, comparisons, moves and floating-point instructions store nothing and touch no other unit;
branches change no register, CC or other bit of the PSW but IA, comparisons the CC alone beside it, and the others their target,
the return stack, control registers but c8 and every bit of the PSW but IA and the CC staying as they were (R138, R122, R166, R155).
A load from storage or working store, with no byte waiting in a write-combining buffer, stores nothing and changes what its unit
holds by its target and IA alone (R135). -/
def Obligations.RegisterFrame : Prop :=
  (∀ (c : Instr) (x : BranchRow) (s s2 : State), branchRow s c = some x → s.enter x.insn = .ok s2 → (s2.unit x.u).region = none →
    (s2.unit x.u).retries = 0 →
    ∃ t, exec c s = .next t ∧ s2.sameOutside t x.u ∧ (∀ r, t.g x.u r = s2.g x.u r ∧ t.f x.u r = s2.f x.u r) ∧
      (∀ n, t.readC x.u n = s2.readC x.u n) ∧ (t.unit x.u).rs = (s2.unit x.u).rs ∧ t.psw x.u = { s2.psw x.u with ia := (t.psw x.u).ia }) ∧
  (∀ (c : Instr) (x : Insn × Nat × (State → BitVec 2)) (s s2 : State), compareRow c = some x → s.enter x.1 = .ok s2 →
    (s2.unit x.2.1).region = none → (s2.unit x.2.1).retries = 0 →
    ∃ t, exec c s = .next t ∧ s2.sameOutside t x.2.1 ∧ (∀ r, t.g x.2.1 r = s2.g x.2.1 r ∧ t.f x.2.1 r = s2.f x.2.1 r) ∧
      (∀ n, t.readC x.2.1 n = s2.readC x.2.1 n) ∧ (t.unit x.2.1).rs = (s2.unit x.2.1).rs ∧
      t.psw x.2.1 = { s2.psw x.2.1 with ia := (s2.psw x.2.1).ia + 4, cc := x.2.2 s2 }) ∧
  (∀ (c : Instr) (x : Insn × Nat × (State → State)) (s s2 : State), moveRow c = some x → s.enter x.1 = .ok s2 →
    (s2.unit x.2.1).region = none → (s2.unit x.2.1).retries = 0 →
    ∃ t, exec c s = .next t ∧ s2.sameOutside t x.2.1 ∧
      (∀ r, t.g x.2.1 r = (x.2.2 s2).g x.2.1 r ∧ t.f x.2.1 r = (x.2.2 s2).f x.2.1 r) ∧ (∀ n, t.readC x.2.1 n = s2.readC x.2.1 n) ∧
      (t.unit x.2.1).rs = (s2.unit x.2.1).rs ∧ t.psw x.2.1 = { s2.psw x.2.1 with ia := (s2.psw x.2.1).ia + 4 }) ∧
  (∀ (c : Instr) (x : FpRow) (s s2 : State) (v : Dword) (cond : Nat),
    (fpArithRow c = some x ∨ fpFusedRow c = some x ∨ fpConvertRow c = some x) → s.enter x.insn = .ok s2 → (s2.unit x.u).region = none →
    (s2.unit x.u).retries = 0 → x.out s2 = .done v cond → cond &&& fget ((s2.unit x.u).getC 8) 8 5 = 0 →
    ∃ t, exec c s = .next t ∧ s2.sameOutside t x.u ∧
      (∀ r, t.g x.u r = (x.put s2 v).g x.u r ∧ t.f x.u r = (x.put s2 v).f x.u r) ∧ (∀ n, n ≠ 8 → t.readC x.u n = s2.readC x.u n) ∧
      (t.unit x.u).rs = (s2.unit x.u).rs ∧
      t.psw x.u = { s2.psw x.u with ia := (s2.psw x.u).ia + 4, cc := ((x.put s2 v).psw x.u).cc }) ∧
  (∀ (c : Instr) (x : LoadRow) (s s2 t : State) (b : List Byte) (ps : List Piece), loadRow s c = some x → s.enter x.insn = .ok s2 →
    (s2.unit x.o.u).region = none → (s2.unit x.o.u).wcb = [] → (s2.unit x.o.u).retries = 0 →
    (s2.past x.o.u).translate x.o.u (s2.g x.o.u x.o.rb + x.o.imm.signExtend 64) x.n .load = .ok ps → (∀ p ∈ ps, p.target ≠ .service) →
    (s2.past x.o.u).loadAt x.o.u (s2.g x.o.u x.o.rb + x.o.imm.signExtend 64) x.n .load = .ok (t, b) →
    ∃ w, exec c s = .next w ∧ w.mem = s2.mem ∧ w.ws = s2.ws ∧ (w.unit x.o.u).kept = ((x.put (s2.past x.o.u) b).unit x.o.u).kept)

/-- What a store leaves as it was: with no region open, no retry in progress, no byte waiting in a write-combining buffer, no poison
met by a walk and every piece of the access in DRAM, each byte outside the pieces; with every piece in working store, all of storage
and each byte of working store outside the pieces. What its unit holds changes by IA alone. The same holds of an atomic, whose unit
gains what it leaves in the registers. -/
def Obligations.StoreFrame : Prop :=
  (∀ (c : Instr) (x : StoreRow) (s s2 : State) (ps : List Piece), storeRow s c = some x → s.enter x.insn = .ok s2 →
    (s2.unit x.o.u).region = none → (s2.unit x.o.u).wcb = [] → (s2.unit x.o.u).retries = 0 →
    (s2.past x.o.u).translate x.o.u (s2.g x.o.u x.o.rb + x.o.imm.signExtend 64) (x.data s2).length .store = .ok ps →
    ps.findSome? ((s2.past x.o.u).walkPoison x.o.u) = none →
    ((∀ p ∈ ps, p.target = .dram) → ∃ t, exec c s = .next t ∧ t.ws = s2.ws ∧
      (∀ a, (∀ p ∈ ps, a < p.pa ∨ p.pa + p.len ≤ a) → Memory.read t.mem a = Memory.read s2.mem a) ∧
      (t.unit x.o.u).kept = ((s2.past x.o.u).unit x.o.u).kept) ∧
    ((∀ p ∈ ps, p.target = .ws) → ∃ t, exec c s = .next t ∧ t.mem = s2.mem ∧
      (∀ a, (∀ p ∈ ps, a < p.pa ∨ p.pa + p.len ≤ a) → Memory.read t.ws a = Memory.read s2.ws a) ∧
      (t.unit x.o.u).kept = ((s2.past x.o.u).unit x.o.u).kept)) ∧
  (∀ (c : Instr) (x : AtomicRow) (s s2 t : State) (old : List Byte) (ps : List Piece), atomicRow s c = some x → s.enter x.insn = .ok s2 →
    (s2.unit x.o.u).region = none → (s2.unit x.o.u).wcb = [] → (s2.unit x.o.u).retries = 0 →
    (s2.past x.o.u).translate x.o.u (s2.g x.o.u x.o.rb) x.n .atomic = .ok ps →
    (s2.past x.o.u).atomicAt x.o.u (s2.g x.o.u x.o.rb) x.n (x.stores s2) = .ok (t, old) → old.length = x.n →
    ((∀ p ∈ ps, p.target = .dram) → ∃ w, exec c s = .next w ∧ w.ws = s2.ws ∧
      (∀ a, (∀ p ∈ ps, a < p.pa ∨ p.pa + p.len ≤ a) → Memory.read w.mem a = Memory.read s2.mem a) ∧
      (w.unit x.o.u).kept = ((x.leaves s2 old (s2.past x.o.u)).unit x.o.u).kept) ∧
    ((∀ p ∈ ps, p.target = .ws) → ∃ w, exec c s = .next w ∧ w.mem = s2.mem ∧
      (∀ a, (∀ p ∈ ps, a < p.pa ∨ p.pa + p.len ≤ a) → Memory.read w.ws a = Memory.read s2.ws a) ∧
      (w.unit x.o.u).kept = ((x.leaves s2 old (s2.past x.o.u)).unit x.o.u).kept))

/-! ## The PSW, control registers, supervisor and host -/

/-- The PSW of R57 and its 16 bytes hold the same things: what a valid PSW encodes to decodes to it, and nothing else decodes to
it; what R58 calls invalid decodes to none. -/
def Obligations.PswEncoding : Prop :=
  (∀ p : Psw, p.ia.toNat % 4 = 0 → Psw.decode p.high p.ia = some p ∧ Psw.ofBytes p.bytes = some p) ∧
  (∀ h l p, Psw.decode h l = some p → p.high = h ∧ p.ia = l) ∧
  (∀ h l, Psw.decode h l = none ↔ (h.toNat / 2 ^ 62 = 3 ∨ h.toNat % 2 ^ 49 ≠ 0 ∨ l.toNat % 4 ≠ 0))

/-- FENCE, SYNC, EPSW, SPM, IDENT, RDTOD and CHKMODE (R62, R90, R145, R205, R511). -/
def Obligations.SystemResults : Prop :=
  ∀ (c : Instr) (x : Insn × Nat × (State → State)) (s s2 : State), systemRow s c = some x → s.enter x.1 = .ok s2 →
    exec c s = .next (s2.finish x.2.1 (x.2.2 (s2.past x.2.1)))

/-- LPSW (R58, R62, R88): a valid PSW that the state may load becomes the PSW; an invalid one causes 0x0006, and one of host
state outside host state 0x0002, both nullifying. -/
def Obligations.LpswResults : Prop :=
  ∀ (o : OpI) (s s2 t : State) (b : List Byte), s.enter (insnLpsw o s) = .ok s2 →
    (s2.past o.u).loadAt o.u (s2.g o.u o.rb + o.imm.signExtend 64) 16 .load = .ok (t, b) → b.length = 16 →
    let hi := beNat (b.take 8)
    (∀ p, Psw.ofBytes b = some p → (p.mode = .host → (s2.psw o.u).mode = .host) →
      ∃ t2, exec (.lpsw o) s = .next t2 ∧ t2.psw o.u = p ∧ t2.mem = t.mem ∧ (∀ r, t2.g o.u r = t.g o.u r)) ∧
    (Psw.ofBytes b = none → ¬(hi / 2 ^ 62 = 2 ∧ (s2.psw o.u).mode ≠ .host) →
      exec (.lpsw o) s = .next (s2.orWaits o.u (s2.excInt o.u { code := 0x0006 } (insnLpsw o s).word (s2.psw o.u).ia))) ∧
    (hi / 2 ^ 62 = 2 → (s2.psw o.u).mode ≠ .host →
      exec (.lpsw o) s = .next (s2.orWaits o.u (s2.excInt o.u { code := 0x0002 } (insnLpsw o s).word (s2.psw o.u).ia)))

/-- LCTL and STCTL (R55, R56, R69): an LCTL completes; a register other than c9 and c33 then reads as the value written, c9 takes
DISC alone, and c33 keeps its value, where no retry is in progress (DEDUCED, log entry 21). STCTL writes the register's value into ga; of c4 it is tagged
(R191). -/
def Obligations.ControlRegisters : Prop :=
  (∀ (o : OpI) (s s2 : State), s.enter (insnLctl o s) = .ok s2 →
    let n := o.imm.toNat % 64
    ∃ t, exec (.lctl o) s = .next t ∧ (n ≠ 9 → n ≠ 33 → t.readC o.u n = s2.g o.u o.ra) ∧
      (n = 9 → (t.unit o.u).rs = { (s2.unit o.u).rs with disc := (s2.g o.u o.ra).getLsbD 63 }) ∧
      (n = 33 → (s2.unit o.u).retries = 0 → t.readC o.u 33 = s2.readC o.u 33) ∧ (∀ r, t.g o.u r = s2.g o.u r)) ∧
  (∀ (o : OpI) (s s2 : State), s.enter (insnStctl o s) = .ok s2 →
    let n := o.imm.toNat % 64
    let t := if n = 4 then (s2.past o.u).tagged o.u else s2.past o.u
    exec (.stctl o) s = .next (s2.finish o.u (t.setG o.u o.ra (s2.readC o.u n))))

/-- SVC takes a supervisor-call interruption with its code and IA at the next instruction; HCALL ends IRUN with reason 0x0004 and
its immediate as qualifier (R62, R67). A condition that the boundary finds ends IRUN (R66, R67): the image no longer runs, and the
held host PSW is the PSW, with CC 0. A guest interruption whose prefix area host-level translation cannot reach also ends
IRUN, and stays pending for the image (R67). -/
def Obligations.CallsAndExits : Prop :=
  (∀ (o : OpT) (s s2 : State), s.enter (insnSvc o) = .ok s2 →
    exec (.svc o) s = .next (s2.orWaits o.u
      (((s2.past o.u).svcInt o.u o.imm.toNat (s2.psw o.u).ia).confirm o.u (s2.psw o.u).ia))) ∧
  (∀ (o : OpT) (s s2 : State), s.enter (insnHcall o s) = .ok s2 →
    exec (.hcall o) s = .next (((s2.past o.u).irunExit o.u 4 (BitVec.ofNat 64 o.imm.toNat)).confirm o.u (s2.psw o.u).ia)) ∧
  (∀ (n : CpuNo) (s : State) (reason : Nat) (q : Dword), s.boundary n.val = .exit reason q →
    exec (.irunExit n) s = .next ((s.irunExit n.val reason q).settle n.val 63)) ∧
  (∀ (s : State) (u reason : Nat) (q : Dword) (r : Irun), (s.unit u).irun = some r →
    ((s.irunExit u reason q).unit u).irun = none ∧ (s.irunExit u reason q).psw u = { r.hostPsw with cc := 0 }) ∧
  (∀ (s : State) (u q : Nat) (x : Intr) (r : Irun), s.area u = .exit q → (s.unit u).irun = some r → (s.unit u).region = none →
    (r.image, x) ∈ ((s.raise u x).unit u).unstored ∧ ((s.raise u x).unit u).irun = none)

/-- IRUN (R66): with its descriptor read, CC 3 for an image number above 95 or not defined, CC 2 where the entry does not fit,
CC 1 for a descriptor that is not valid, each with no image run; else the guest PSW is the PSW and the image runs with the
host PSW held, IA at the next instruction. -/
def Obligations.IrunResults : Prop :=
  ∀ (o : OpA) (s s2 : State) (p : Piece) (ps : List Piece), s.enter (insnIrun o s) = .ok s2 →
    (s2.past o.u).translate o.u (s2.g o.u o.ra) 1024 .store = .ok (p :: ps) →
    let r := (s2.past o.u).readPieces o.u (p :: ps) false
    let img := descNat r.data 0x10 1
    let addr := descNat r.data 0x12 2
    let w := r.st.wcFlush o.u
    r.bad = none →
    ((95 < img ∨ w.image img = none) → exec (.irun o) s = .next (s2.finish o.u (w.setCc o.u 3))) ∧
    (∀ e, img ≤ 95 → w.image img = some e →
      let fits := e.st = .operating ∧ BitVec.ofNat 16 (descNat r.data 0x14 2) = e.gen ∧ e.cpus[addr]? = some o.u
      let valid := descReserved r.data = false ∧ descNat r.data 0x300 1 ≤ 32 ∧ ∃ g, Psw.ofBytes r.data = some g ∧ g.mode ≠ .host
      (¬fits → exec (.irun o) s = .next (s2.finish o.u (w.setCc o.u 2))) ∧
      (fits → ¬valid → exec (.irun o) s = .next (s2.finish o.u (w.setCc o.u 1))) ∧
      (fits → ∀ g, descReserved r.data = false → descNat r.data 0x300 1 ≤ 32 → Psw.ofBytes r.data = some g → g.mode ≠ .host →
        ∃ t, exec (.irun o) s = .next t ∧ t.psw o.u = g ∧ (t.unit o.u).irun = some ⟨p.abs, img, e.gen, addr, w.psw o.u⟩))

/-- CPUSIG (R34, R63, R115): from the small profile CC 3 and nothing else. Outside an image, to the logical CPU in ga[15:0]: CC 3
at or above the active-core count or where the Core Map entry is unused or lost; CC 1 for an external call that is already
pending; an order to a moving entry is held, and any other delivered, with CC 0. -/
def Obligations.CpusigResults : Prop :=
  ∀ (c : Instr) (o : OpSig) (k : SigOrder) (code least : Nat) (s s2 : State), sigRow c = some (o, k, code, least) →
    s.enter (formSig o code least k) = .ok s2 →
    let t := s2.past o.u
    let n := (s2.g o.u o.ra).toNat % 65536
    let x : Sig := ⟨k, o.u, none⟩
    let dead := s2.activeCount ≤ n ∨ s2.cmapState n = 0 ∨ s2.cmapState n = 3
    let twice := k = .extCall ∧ s2.callPending n none = true
    let ends (r : State) (cc : BitVec 2) : Prop := exec c s = .next (s2.finish o.u (r.setCc o.u cc))
    (isCpu o.u = false → ends t 3) ∧
    (isCpu o.u = true → (s2.unit o.u).irun = none →
      (dead → ends t 3) ∧
      (¬dead → twice → ends t 1) ∧
      (¬dead → ¬twice → s2.cmapState n = 2 → ends { t with held := t.held ++ [(n, x)] } 0) ∧
      (¬dead → ¬twice → s2.cmapState n = 1 → ends (t.deliver n x) 0))

/-! ## Transactions -/

/-- TBEGIN, TEND and TABORT (R237, R238, R240, R243, R269). A TBEGIN with transactions disabled (code 0x0B) or without caches (code
0x03) opens no region and aborts at once. That this abort restores no checkpoint and goes to the target that the TBEGIN names, and
that a nested TBEGIN goes to the target of the open region, is the model's choice (DESIGN CHOICE, log entry 31). -/
def Obligations.TransactionResults : Prop :=
  (∀ (o : OpB) (s s2 : State), s.enter (insnTbegin o) = .ok s2 →
    let ia := (s2.psw o.u).ia
    let target := ia + 4 * o.disp.signExtend 64
    ((s2.unit o.u).region.isSome = true → exec (.tbegin o) s = .next ((s2.modUnit o.u fun c => c.abort ia 0x08 0).confirm o.u ia)) ∧
    ((s2.unit o.u).region = none → ((s2.unit o.u).getC 10).getLsbD 1 = false →
      exec (.tbegin o) s = .next (s2.finish o.u ((s2.past o.u).abortBegin o.u 0x0B ia target))) ∧
    ((s2.unit o.u).region = none → ((s2.unit o.u).getC 10).getLsbD 1 = true → s2.noCaches o.u = true →
      exec (.tbegin o) s = .next (s2.finish o.u ((s2.past o.u).abortBegin o.u 0x03 ia target))) ∧
    ((s2.unit o.u).region = none → ((s2.unit o.u).getC 10).getLsbD 1 = true → s2.noCaches o.u = false →
      exec (.tbegin o) s = .next (s2.finish o.u (((s2.past o.u).wcFlush o.u).openRegion o.u target)))) ∧
  (∀ (o : OpEnd) (s s2 : State), s.enter (insnTend o) = .ok s2 →
    ((s2.unit o.u).region = none → exec (.tend o) s = .next (s2.finish o.u ((s2.past o.u).setCc o.u 2))) ∧
    (∀ r, (s2.unit o.u).region = some r → exec (.tend o) s = .next (s2.finish o.u ((s2.past o.u).commit o.u r)))) ∧
  (∀ (o : OpI) (s s2 : State), s.enter (insnTabort o) = .ok s2 →
    ((s2.unit o.u).region = none → exec (.tabort o) s = .next (s2.finish o.u ((s2.past o.u).setCc o.u 2))) ∧
    ((s2.unit o.u).region.isSome = true → exec (.tabort o) s =
      .next ((s2.modUnit o.u fun c => c.abort (s2.psw o.u).ia 0x01 o.imm).confirm o.u (s2.psw o.u).ia)))

/-- An abort (R240): the checkpoint returns, g0 holds the immediate and the code, c10.AIA the address, the PSW the CC of the code
and the abort target; no region is open. -/
def Obligations.AbortRestores : Prop :=
  (∀ (c : Cpu) (r : Region) (a : Dword) (code : Nat) (imm : BitVec 14), c.region = some r → code < 65536 →
    let t := c.abort a code imm
    t.region = none ∧ (t.getG 0).toNat = imm.toNat * 65536 + code ∧ (∀ n : BitVec 5, n ≠ 0 → t.getG n = sget (fun _ => 0) r.ckG n.toNat) ∧
    t.f = r.ckF ∧ t.getC 8 = r.ckC8 ∧ t.rs = r.ckRs ∧ (t.getC 10).toNat / 4 = a.toNat / 4 ∧
    t.psw = { r.ckPsw with cc := abortCc code, ia := r.target }) ∧
  (∀ code : Nat, 1 ≤ code → code ≤ 0x0B →
    abortCc code = if code = 1 then 1 else if code = 2 ∨ code = 7 ∨ code = 9 then 2 else 3)

/-! ## Translation and caches -/

/-- TLBIV, TLBIA and TLBII of a CPU (R226): after the stores of this CPU, every CPU's TLBs and cached
entries of walks, and the channel dies' translations, hold none that the invalidation hits; the CC is unchanged. LRA (R229) gives the CC and ga of the walk it makes. -/
def Obligations.TranslationInstructions : Prop :=
  (∀ (c : Instr) (x : Insn × Nat × (State → TlbInv)) (s s2 : State), tlbRow s c = some x → s.enter x.1 = .ok s2 → isCpu x.2.1 = true →
    ∃ t, exec c s = .next t ∧ t = s2.finish x.2.1 (((s2.past x.2.1).wcFlush x.2.1).tlbBroadcast (x.2.2 s2)) ∧
      (∀ n, n < 192 → ∀ e, (e ∈ (t.unit n).tlb1 ∨ e ∈ (t.unit n).tlb2) → tlbInvHits (x.2.2 s2) e = false) ∧
      (∀ n, n < 192 → ∀ e ∈ (t.unit n).walks, walkInvHits (x.2.2 s2) e = false) ∧ (∀ e ∈ t.chanTlb, tlbInvHits (x.2.2 s2) e = false) ∧
      (t.psw x.2.1).cc = (s2.psw x.2.1).cc) ∧
  (∀ (o : OpA) (s s2 t : State) (cc : BitVec 2) (v : Nat) (pas : List Nat), s.enter (insnLra o) = .ok s2 →
    (s2.past o.u).lra o.u (s2.g o.u o.rb).toNat = .ok (cc, v, pas) → (s2.past o.u).fetches o.u pas = .ok t →
    exec (.lra o) s = .next (s2.finish o.u ((t.setG o.u o.ra (BitVec.ofNat 64 v)).setCc o.u cc)))

/-- CINV, CCLEAN, CCLINV and CZERO of a CPU (R264, R265): the operand is translated and checked, and the action reaches the line
of its piece. In the small profile TLBIV, TLBIA, CINV, CCLEAN and CCLINV have no effect, and CZERO zeroes 256 bytes of working
store (R115, R266), outside the tables that the channel subsystem owns. -/
def Obligations.LineMaintenance : Prop :=
  (∀ (c : Instr) (x : Insn × OpA × AccKind × (State → Piece → State)) (s s2 : State) (p : Piece) (ps : List Piece),
    lineRow c = some x → s.enter x.1 = .ok s2 → isCpu x.2.1.u = true →
    (s2.past x.2.1.u).translate x.2.1.u (s2.g x.2.1.u x.2.1.rb) 1 x.2.2.1 = .ok (p :: ps) →
    (s2.past x.2.1.u).walkPoison x.2.1.u p = none →
    exec c s = .next (s2.finish x.2.1.u (x.2.2.2 ((s2.past x.2.1.u).walked x.2.1.u p) p))) ∧
  (∀ (o : OpA) (s s2 : State), isCpu o.u = false →
    (s.enter (insnTlbiv o) = .ok s2 → exec (.tlbiv o) s = .next (s2.finish o.u (s2.past o.u))) ∧
    (s.enter (insnTlbia o) = .ok s2 → exec (.tlbia o) s = .next (s2.finish o.u (s2.past o.u))) ∧
    (s.enter (insnCinv o) = .ok s2 → exec (.cinv o) s = .next (s2.finish o.u (s2.past o.u))) ∧
    (s.enter (insnCclean o) = .ok s2 → exec (.cclean o) s = .next (s2.finish o.u (s2.past o.u))) ∧
    (s.enter (insnCclinv o) = .ok s2 → exec (.cclinv o) s = .next (s2.finish o.u (s2.past o.u)))) ∧
  (∀ (o : OpA) (s s2 : State) (p : Piece) (ps : List Piece), isCpu o.u = false → s.enter (insnCzero o) = .ok s2 →
    (s2.past o.u).translate o.u (s2.g o.u o.rb) 1 .store = .ok (p :: ps) →
    (s2.past o.u).walkPoison o.u p = none → (∀ i, i < 256 → inTables (p.pa / 256 * 256 + i) = false) →
    ∃ t, exec (.czero o) s = .next t ∧ t.mem = s2.mem ∧
      (∀ a, Memory.read t.ws a = if p.pa / 256 * 256 ≤ a ∧ a < p.pa / 256 * 256 + 256 then 0 else Memory.read s2.ws a))

/-- L2DIS, L2EN, L3DIS and L3EN (R268 to R271): CC 1 and nothing else where the caches already are as asked; else they act, with the
CC of the act. An L2 that has been disabled and swept is off and empty, its first-level caches with it; an L3 is off and holds only
tags; no byte of storage changes, nor what a unit holds. An enable whose check passes turns the cache on. -/
def Obligations.CacheSwitches : Prop :=
  (∀ (c : Instr) (x : Insn × Nat × (State → Bool) × Bool × (State → State × BitVec 2)) (s s2 : State), switchRow c = some x →
    s.enter x.1 = .ok s2 →
    let t := (s2.past x.2.1).wcFlush x.2.1
    (x.2.2.1 t = x.2.2.2.1 → exec c s = .next (s2.finish x.2.1 ((x.2.2.2.2 t).1.setCc x.2.1 (x.2.2.2.2 t).2))) ∧
    (x.2.2.1 t ≠ x.2.2.2.1 → exec c s = .next (s2.finish x.2.1 (t.setCc x.2.1 1)))) ∧
  (∀ (s : State) (k : CoreNo), s.l2On k = true →
    let t := (s.l2Disable k).l2SweepEnd k
    t.l2On k = false ∧ (t.core k).l2 = [] ∧ (t.core k).l1d = [] ∧ (t.core k).l1i = [] ∧ (t.core k).miss = [] ∧ t.mem = s.mem ∧
      ∀ u, (t.unit u).kept = (s.unit u).kept) ∧
  (∀ (s : State) (d : CxDie), s.l3On d = true →
    let t := (s.l3Disable d).l3SweepEnd d
    t.l3On d = false ∧ (∀ l ∈ (t.die d).l3, l.tagOnly = true ∧ l.valid = 0 ∧ l.dirty = 0) ∧ t.mem = s.mem ∧
      ∀ u, (t.unit u).kept = (s.unit u).kept) ∧
  (∀ (s : State) (k : CoreNo), s.l2On k = false → (s.l2Enable k).l2On k = decide (s.l2Check k = 0)) ∧
  (∀ (s : State) (d : CxDie), s.l3On d = false → (s.l3Enable d).l3On d = decide (s.l3Check d = 0))

/-! ## I/O and the channel subsystem's control -/

/-- The I/O instructions (R115, R310, R322, R325, R326): CC 3 outside an image and where ga names no subchannel of the image; else
what the operation does, with its CC; IOTEST and IOSTORE store the status block or the subchannel information block. An operand of
IOSTART or IOMODIFY with a nonzero reserved field causes 0x0006. That the operand is accessed, and that 0x0006 is presented, before
CC 3, 1 or 2 is found is DEDUCED (log entry 26). -/
def Obligations.IoResults : Prop :=
  (∀ (c : Instr) (x : IoRow) (s s2 : State), ioRow s c = some x → s.enter x.insn = .ok s2 →
    ((s2.unit x.o.u).irun = none → exec c s = .next (s2.finish x.o.u ((s2.past x.o.u).setCc x.o.u 3))) ∧
    (∀ (r : Irun) (t : State) (b : List Byte), (s2.unit x.o.u).irun = some r →
      (if x.n = 0 then (t, b) = (s2.past x.o.u, []) else (s2.past x.o.u).loadAt x.o.u (s2.g x.o.u x.o.rb) x.n .load = .ok (t, b)) →
      let bad := (∃ o, c = .iostart o ∧ parseOrb b = none) ∨ (∃ o, c = .iomodify o ∧ sibBad b = true)
      let t1 := t.wcFlush x.o.u
      (bad → exec c s = .next (s2.orWaits x.o.u (s2.excInt x.o.u { code := 0x0006 } x.insn.word (s2.psw x.o.u).ia))) ∧
      (¬bad → exec c s = .next (s2.finish x.o.u (match t1.subOf r.image (t1.g x.o.u x.o.ra) with
        | none => t1.setCc x.o.u 3
        | some p => (x.act t1 r.image b p).1.setCc x.o.u (x.act t1 r.image b p).2))))) ∧
  (∀ (o : OpA) (s s2 : State), s.enter (insnIotest o s) = .ok s2 →
    ((s2.unit o.u).irun = none → exec (.iotest o) s = .next (s2.finish o.u ((s2.past o.u).setCc o.u 3))) ∧
    (∀ r, (s2.unit o.u).irun = some r → (s2.past o.u).checkStore o.u (s2.g o.u o.rb) 32 = none →
      ((s2.past o.u).subOf r.image (s2.g o.u o.ra) = none → exec (.iotest o) s = .next (s2.finish o.u ((s2.past o.u).setCc o.u 3))) ∧
      (∀ p, (s2.past o.u).subOf r.image (s2.g o.u o.ra) = some p → ((s2.past o.u).ioTest p).2.2 = 3 →
        exec (.iotest o) s = .next (s2.finish o.u (((s2.past o.u).ioTest p).1.setCc o.u 3))) ∧
      (∀ p t, (s2.past o.u).subOf r.image (s2.g o.u o.ra) = some p → ((s2.past o.u).ioTest p).2.2 ≠ 3 →
        ((s2.past o.u).ioTest p).1.storeAt o.u (s2.g o.u o.rb) ((s2.past o.u).ioTest p).2.1 .store = .ok t →
        exec (.iotest o) s = .next (s2.finish o.u (t.setCc o.u ((s2.past o.u).ioTest p).2.2))))) ∧
  (∀ (o : OpA) (s s2 : State), s.enter (insnIostore o s) = .ok s2 →
    ((s2.unit o.u).irun = none → exec (.iostore o) s = .next (s2.finish o.u ((s2.past o.u).setCc o.u 3))) ∧
    (∀ r, (s2.unit o.u).irun = some r → (s2.past o.u).checkStore o.u (s2.g o.u o.rb) 48 = none →
      ((s2.past o.u).subOf r.image (s2.g o.u o.ra) = none → exec (.iostore o) s = .next (s2.finish o.u ((s2.past o.u).setCc o.u 3))) ∧
      (∀ p, (s2.past o.u).subOf r.image (s2.g o.u o.ra) = some p →
        let e := (s2.past o.u).readEntry p
        (((e.sub p).mapped = false ∨ e.operable p = false) → exec (.iostore o) s = .next (s2.finish o.u (e.setCc o.u 3))) ∧
        (∀ t, (e.sub p).mapped = true → e.operable p = true → e.storeAt o.u (s2.g o.u o.rb) (e.sib p) .store = .ok t →
          exec (.iostore o) s = .next (s2.finish o.u (t.setCc o.u 0))))))

/-- The CSSET group (R315 to R320, R347, R348): with its block read, what the function does on the image that ga names; CC 3 for
a number above 95, and for CSQUIESCE and CSRESET for an image that is not defined. -/
def Obligations.ChannelControl : Prop :=
  (∀ (c : Instr) (x : Insn × OpA × Nat × (State → List Byte → State)) (s s2 t : State) (b : List Byte), csBlockRow s c = some x →
    s.enter x.1 = .ok s2 → (s2.past x.2.1.u).loadAt x.2.1.u (s2.g x.2.1.u x.2.1.rb) x.2.2.1 .load = .ok (t, b) →
    exec c s = .next (s2.finish x.2.1.u (x.2.2.2 t b)) ∧
      (95 < (t.g x.2.1.u x.2.1.ra).toNat → exec c s = .next (s2.finish x.2.1.u (t.setCc x.2.1.u 3)))) ∧
  (∀ (c : Instr) (x : Insn × OpA × (State → Nat → Image → CsOut)) (s s2 : State), csRow c = some x → s.enter x.1 = .ok s2 →
    let t := s2.past x.2.1.u
    let n := (s2.g x.2.1.u x.2.1.ra).toNat
    ((95 < n ∨ s2.image n = none) → exec c s = .next (s2.finish x.2.1.u (t.setCc x.2.1.u 3))) ∧
    (∀ e, n ≤ 95 → s2.image n = some e → exec c s = .next (s2.finish x.2.1.u (csDone x.2.1 (x.2.2 t n e)))))

/-! ## Coprocessor slots -/

/-- The functions of the slots (R400 to R424): an engine chosen for the request does the function, which ends the instruction, or
meets a condition of its own, which does. With no engine to choose, the request waits where one of its own die or a channel die is in
its self-test (R415), and ends with code 0x001C else; that a word of a slot whose only engines are other compute dies' gets 0x001C is
the model's choice (DESIGN CHOICE, log entry 29). RNDG gives 0 with CC 2 when no source is in service; else 8 bytes of the core's
buffer with CC 0, refilled first where it holds too few, and waits where the refill brings too few. That the refill comes below 8
bytes, 16 in checked mode, and that checked mode takes 16, is the model's choice (DESIGN CHOICE, log entry 8). RESEED reseeds every
instance, with CC 0. -/
def Obligations.SlotResults : Prop :=
  (∀ (c : Instr) (x : SlotRow) (s s2 : State), (slotRow s c = some x ∨ keyRow s c = some x) → s.slotGone x.slot = false →
    s.enter x.insn = .ok s2 →
    let t := (s2.past x.o.u).queueSeen x.o.queued
    let d := t.coreOf x.o.u / 26
    (∀ e, t.chooseAcc d (slotCrypto x.slot) = some e →
      (e.1 < 8 ∨ (t.cellStalled (stagingCell e) = false ∧ t.stagingOwned e = true)) →
      (∀ r, x.run t e = .ok r → exec c s = .next (s2.finish x.o.u r)) ∧
      (∀ y, x.run t e = .error y → exec c s = .next (s2.endWith x.o.u x.insn.word (s2.psw x.o.u).ia false y))) ∧
    (t.chooseAcc d (slotCrypto x.slot) = none →
      let tested := (t.accLeft (slotCrypto x.slot)).any fun e => decide (e.1 = d) || decide (8 ≤ e.1)
      (tested = true → exec c s = .next s2) ∧
      (tested = false → exec c s = .next (s2.endWith x.o.u x.insn.word (s2.psw x.o.u).ia false (.stop (excOf 0x001C)))))) ∧
  (∀ (o : OpC) (s s2 : State), s.slotGone 3 = false → s.enter (insnRndg o s) = .ok s2 →
    let t := s2.past o.u
    let k := s2.coreOf o.u
    let n := if (s2.unit o.u).checked then 16 else 8
    let f := if (s2.core k).rnd.length < n then t.refillRnd k else t
    (s2.sources = [] → exec (.rndg o) s = .next (s2.finish o.u ((t.setG o.u o.ra 0).setCc o.u 2))) ∧
    (s2.sources ≠ [] → (f.core k).rnd.length < n → exec (.rndg o) s = .next s2) ∧
    (s2.sources ≠ [] → n ≤ (f.core k).rnd.length → ∃ t1, exec (.rndg o) s = .next t1 ∧ (t1.psw o.u).cc = 0 ∧ t1.mem = s2.mem ∧
      t1.g o.u o.ra = BitVec.ofNat 64 (beNat ((f.core k).rnd.take 8)))) ∧
  (∀ (o : OpC) (s s2 : State), s.slotGone 3 = false → s.enter (insnReseed o s) = .ok s2 →
    exec (.reseed o) s = .next (s2.finish o.u ((s2.past o.u).reseedAll.setCc o.u 0)))

/-- The block that QUERY stores (R409): value n of the slot's cfn values is bit 7 - (n mod 8) of byte n / 8; then the number of
engines in service, those in their self-test among them, 16, and zeros; CC 0. -/
def Obligations.QueryResult : Prop :=
  (∀ (o : OpC) (k : Fin 4) (s s2 t : State) (e : Nat × Nat), s.slotGone k = false → s.enter (insnQuery o k s) = .ok s2 →
    ((s2.past o.u).queueSeen o.queued).chooseAcc (((s2.past o.u).queueSeen o.queued).coreOf o.u / 26) (slotCrypto k) = some e →
    ((s2.past o.u).queueSeen o.queued).storeAt o.u (s2.g o.u o.rb) (((s2.past o.u).queueSeen o.queued).queryBlock k) .slotStore = .ok t →
    exec (.query o k) s = .next (s2.finish o.u (t.setCc o.u 0))) ∧
  (∀ (s : State) (k : Fin 4), (s.queryBlock k).length = 48 ∧
    (∀ n : Fin 256, ((s.queryBlock k).getD (n.val / 8) 0).getLsbD (7 - n.val % 8) = (slotFns k).contains n.val) ∧
    (s.queryBlock k).getD 0x20 0 = BitVec.ofNat 8 (s.accLeft (slotCrypto k)).length ∧ (s.queryBlock k).getD 0x21 0 = 16 ∧
    (∀ i, 0x22 ≤ i → i < 48 → (s.queryBlock k).getD i 1 = 0))

/-! ## Words that are no instruction, and decoding checks -/

/-- A word that names no instruction causes 0x0001 (R97); CPUSIG with an order other than those of R63 causes 0x0002 in problem
state and 0x0006 otherwise (R62); a word of a slot that is not populated causes 0x0006 where its
reserved bits are not 0, and 0x001C otherwise (R98, R116), in the small profile 0x0001; a word of a populated customer slot that
would run is refused, because the spec leaves its effect to a supplement (R117). A command whose word is of another kind is ill
formed. -/
def Obligations.UnassignedWords : Prop :=
  (∀ (u : Uid) (w : Word) (s s2 : State), noInstruction u w = true → ¬(0x70 ≤ Word.op w ∧ Word.op w ≤ 0x73 ∧ isCpu u = true) →
    s.arrives (insnOperation u w s) s2 →
    exec (.operationException u w) s = .next (s2.orWaits u (s2.excInt u
      { code := if otherOrder w = false then 0x0001 else if (s2.psw u).mode.code < 1 then 0x0002 else 0x0006 } w (s.psw u).ia))) ∧
  (∀ (u : Uid) (w : Word) (s s2 : State) (c : Instr), c = .coprocessorUnavailable u w ∧ slotWord 4 w = true ∨
      c = .customerSlotInstruction u w ∧ slotWord 8 w = true →
    (isCpu u = true → s.slotFitted (Word.op w - 0x70) = false → s.arrives (goneSlot u w) s2 →
      exec c s = .next (s2.excInt u { code := if w.toNat % 64 = 0 then 0x001C else 0x0006 } w (s.psw u).ia)) ∧
    (isCpu u = false → s.arrives (goneSlot u w) s2 → exec c s = .next (s2.orWaits u (s2.excInt u { code := 0x0001 } w (s.psw u).ia))) ∧
    (isCpu u = true → s.slotFitted (Word.op w - 0x70) = true → s.arrives (goneSlot u w) s2 → (s2.unit u).region = none →
      exec c s = .refused .customerSlotLogic)) ∧
  (∀ (u : Uid) (w : Word) (s : State),
    (noInstruction u w = false → exec (.operationException u w) s = .fault .illFormedCommand) ∧
    (slotWord 4 w = false → exec (.coprocessorUnavailable u w) s = .fault .illFormedCommand) ∧
    (slotWord 8 w = false → exec (.customerSlotInstruction u w) s = .fault .illFormedCommand))

/-- A privileged instruction below its least state takes 0x0002 and has none of its effect, whatever its operands are (R54, R55, R62,
R98, R110 to R112, R402): the interruption finds IA at the instruction. Every privileged instruction and slot function is covered,
CPUSIG by its order and LCTL and STCTL by the register they name. -/
def Obligations.PrivilegedStops : Prop :=
  ∀ (c : Instr) (x : Insn × Nat) (s s2 : State), (privilegedRow s c = some x ∨ privilegedIoRow s c = some x) → s.arrives x.1 s2 →
    x.1.lacks = false → (s2.psw x.1.u).mode.code < x.2 →
    exec c s = .next (s2.orWaits x.1.u (s2.excInt x.1.u { code := 0x0002 } x.1.word (s.psw x.1.u).ia))

/-! ## Interruptions -/

/-- An interruption that can be taken (R77), the table entries that lead to the prefix area free of poison (R213): its data and the old PSW are stored, and the new PSW that is then read becomes the
PSW; no general register changes where no region was open. -/
def Obligations.InterruptionSwapsPsw : Prop :=
  ∀ (s back : State) (u : Nat) (x : Intr) (n : Psw), (∃ a mt, s.area u = .ram a mt ∨ s.area u = .cell a) → (s.unit u).region = none →
    (s.areaFetched u).any (s.fetchedBy u (s.areaFetched u)).poisoned = false →
    (s.stored u (s.area u) x).newPsw (s.area u) x.cls = some n → newPswOk u (s.unit u) n = true →
    (s.takeInt u x back).psw u = n ∧ (∀ r, (s.takeInt u x back).g u r = s.g u r) ∧
      (s.takeInt u x back).mem = (s.stored u (s.area u) x).mem

/-- The interruption commands take what the boundary finds (R75, R78, R85 to R87, R333), and change nothing where it finds
nothing. After CPU_TIMER_CONDITION the timer of the unit is negative, and after CLOCK_COMPARATOR_CONDITION, where no step of the
time-of-day waits, the time-of-day is above its comparator (R56), while the module is powered; that the two commands let time pass
until the condition holds is the model's choice (DESIGN CHOICE, log entry 22). -/
def Obligations.InterruptionsAndTimers : Prop :=
  (∀ (s : State) (u : Uid) (n : CpuNo),
    (∀ x, s.boundary u = .external x → exec (.externalInterruption u) s = .next (s.act u (.external x))) ∧
    (∀ x, s.boundary n = .io x → exec (.ioInterruption n) s = .next (s.act n (.io x))) ∧
    (∀ m, s.boundary n = .machine m → exec (.machineCheckInterruption n) s = .next (s.act n (.machine m))) ∧
    (s.boundary n = .restart → exec (.restartInterruption n) s = .next (s.act n .restart)) ∧
    (s.boundary u = .clear → exec (.externalInterruption u) s = .next s) ∧
    (s.boundary n = .clear → exec (.ioInterruption n) s = .next s ∧ exec (.machineCheckInterruption n) s = .next s ∧
      exec (.restartInterruption n) s = .next s)) ∧
  (∀ (u : Uid) (s : State), s.powered = true → ∃ t, exec (.cpuTimerCondition u) s = .next t ∧ (t.readC u 4).getLsbD 63 = true) ∧
  (∀ (u : Uid) (s : State), s.powered = true → (s.readC u 5).toNat < 2 ^ 64 - 1 →
    ∃ t, exec (.clockComparatorCondition u) s = .next t ∧ (s.todWait = [] → (s.readC u 5).toNat < t.tod.toNat))

/-! ## Checked execution and sparing -/

/-- Mismatches (R193): the first and second are retried; the third starts the self-test, counted in CORE.CHK_STAT.SELFTEST; the
instruction confirmed after a retry sends kind 0x20 of class 1 and ends the retry, and no other instruction does. -/
def Obligations.MismatchLadder : Prop :=
  (∀ (s : State) (n : CpuNo), s.frozen = false → s.issuing n = true → (s.unit n).checked = true →
    ((s.unit n).retries < 2 → exec (.mismatchRetry n) s = .next (s.modUnit n fun c =>
      { c with realCause := true, retries := c.retries + 1, retryIa := if c.retries = 0 then c.psw.ia else c.retryIa })) ∧
    (2 ≤ (s.unit n).retries → ∃ t, exec (.mismatchRetry n) s = .next t ∧ (t.unit n).selfTest = true ∧
      t.rf (rChkStat (s.coreOf n)) 32 8 = min 255 (s.rf (rChkStat (s.coreOf n)) 32 8 + 1))) ∧
  (∀ (s : State) (n : CpuNo) (ia : Dword),
    ((s.unit n).retries ≠ 0 → (s.unit n).selfTest = false → (s.unit n).retryIa = ia →
      ((s.confirm n ia).unit n).retries = 0 ∧
      ∃ t : State, s.confirm n ia = t.sendMsg (s.causeMsg n (s.coreOf n) 0x20 1 (checkSynd n ia.toNat))) ∧
    (((s.unit n).retries = 0 ∨ (s.unit n).retryIa ≠ ia) → s.confirm n ia = s))

/-- A move that completes (R201, R202): the Core Map names the target and is active again, c33 shows the move, the TLBs are empty
and a CR machine check is pending at the CPU. -/
def Obligations.MoveCompletes : Prop :=
  ∀ (s : State) (n : CpuNo) (former target : Nat) (sparing : Bool), s.frozen = false → s.held = [] → target < 208 →
    s.moves.find? (fun x => x.1 == n.val) = some (n.val, former, target, sparing) →
    ∃ t, exec (.moveComplete n true) s = .next t ∧ t.coreOf n = target ∧ t.cmapState n = 1 ∧ (t.unit n).tlb1 = [] ∧ (t.unit n).tlb2 = [] ∧
      ((t.unit n).getC 33).getLsbD 8 = true ∧ (t.core former).sweeping = some sparing ∧
      (∃ m, m ∈ (t.unit n).mchecks ∧ m.code.getLsbD 63 = true) ∧ (∀ r, t.g n r = s.g n r)

/-! ## Events -/

/-- The events of the caches and home dies (R249 to R263): none acts while the module is stopped (R454), and none changes a byte
of storage or working store, or what instructions hold in an executing unit. -/
def Obligations.CachesAreTransparent : Prop :=
  ∀ (c : Instr) (s t : State), fabricEvent s c = some t → c.wf = true →
    exec c s = .next (if s.frozen then s else t) ∧ t.mem = s.mem ∧ t.ws = s.ws ∧ ∀ u, (t.unit u).kept = (s.unit u).kept

/-- A DRAM read request that a serving channel with an awake rank, no queued write of the block and room in its read queue receives
joins that queue; a write request's bytes are then what every agent observes (R286 to R288). An engine's write stores its bytes and
nothing else, and its read stores nothing (R263); neither reads nor writes where no cache and no channel holds the address. None of
them changes what instructions hold in an executing unit, but for an open region that an engine's access conflicts with (R238). -/
def Obligations.RequestsAreServed : Prop :=
  let held (s t : State) : Prop := ∀ u, (t.unit u).kept = (s.unit u).kept
  let noRegion (s : State) : Prop := ∀ u, (s.unit u).region = none
  (∀ (s : State) (k : Fin 16) (a : Pa), s.frozen = false → s.onChannel k a.toNat = true → s.serves k = true → (s.ctl k).sr = .awake →
    s.queued k (a.toNat / 128) = none → (s.ctl k).rq.length < queueRoom →
    ∃ t x, exec (.dramReadRequest k a) s = .next t ∧ x.block = a.toNat / 128 ∧ (t.ctl k).rq = (s.ctl k).rq ++ [x] ∧
      t.mem = s.mem ∧ t.dram = s.dram ∧ held s t) ∧
  (∀ (s : State) (k : Fin 16) (a : Pa) (d : List Byte) (p : Bool), s.frozen = false → inBlock 128 a.toNat d.length = true →
    s.onChannel k a.toNat = true → s.dramServed a.toNat = true →
    ∃ t, exec (.dramWriteRequest k a d p) s = .next t ∧ Memory.readN t.mem a.toNat d.length = d ∧
      (∀ x, (x < a.toNat ∨ a.toNat + d.length ≤ x) → Memory.read t.mem x = Memory.read s.mem x) ∧ held s t) ∧
  (∀ (s : State) (a : Pa) (d : List Byte), s.frozen = false → 1 ≤ d.length → s.inDram a.toNat d.length = true →
    (∀ c : Fin 16, s.serves c = true) →
    ∃ t, exec (.engineStorageWrite a d) s = .next t ∧ Memory.readN t.mem a.toNat d.length = d ∧
      (∀ x, (x < a.toNat ∨ a.toNat + d.length ≤ x) → Memory.read t.mem x = Memory.read s.mem x) ∧ (noRegion s → held s t)) ∧
  (∀ (s : State) (a : Pa) (n : Nat), s.frozen = false → 1 ≤ n → s.inDram a.toNat n = true →
    ∃ t, exec (.engineStorageRead a n) s = .next t ∧ t.mem = s.mem ∧ (noRegion s → held s t)) ∧
  (∀ (s : State) (a : Pa) (d : List Byte), s.frozen = false → 1 ≤ d.length → s.inDram a.toNat d.length = true →
    (∀ q, a.toNat / 64 ≤ q → q ≤ (a.toNat + d.length - 1) / 64 → s.absent (64 * q) = true) →
    (∃ t, exec (.engineStorageWrite a d) s = .next t ∧ t.mem = s.mem ∧ t.dram = s.dram ∧ t.cores = s.cores ∧ t.dies = s.dies ∧
      t.ctls = s.ctls) ∧
    (∃ t, exec (.engineStorageRead a d.length) s = .next t ∧ t.mem = s.mem ∧ t.dram = s.dram ∧ t.cores = s.cores ∧ t.dies = s.dies ∧
      t.ctls = s.ctls) ∧
    (noRegion s → exec (.engineStorageWrite a d) s = .next s ∧ exec (.engineStorageRead a d.length) s = .next s))

/-- The events of the DRAM controllers and the engines' accesses (R263, R287 to R307): while the module is stopped only refresh and
the end of training go on (R293, R454), zeroing too where a lifecycle change stops the module (R489), and a command issue issues forced
refreshes only. Zeroing that ends leaves the channel's
lines zero but for those a cache holds (R304); training that ends leaves the channel trained, with DONE or FAIL (R298); ranks idle
with empty queues begin to enter self-refresh, and enter it next (R301); an exit serves the request that came first (R302); a drain that ends leaves the queues empty and the channel
without service (R305). -/
def Obligations.DramEvents : Prop :=
  (∀ (c : Instr) (s t : State), dramEvent s c = some t → c.wf = true → s.frozen = false → exec c s = .next t) ∧
  (∀ (c : Instr) (s t : State), dramEvent s c = some t → c.wf = true → s.frozen = true →
    (∀ k b, c ≠ .dramCommandIssue k b) → (∀ k, c ≠ .refreshInterval k) → (∀ k b, c ≠ .trainingEnd k b) → (∀ k, c ≠ .zeroingEnd k) →
    exec c s = .next s) ∧
  (∀ (s : State) (k : Fin 16) (b : Bool), s.frozen = true → s.powered = true → s.terminal = false →
    exec (.dramCommandIssue k b) s = .next (s.forceDebts k)) ∧
  (∀ (s : State) (k : Fin 16), s.powered = true → s.terminal = false → exec (.refreshInterval k) s = .next (s.refreshInterval k)) ∧
  (∀ (s : State) (k : Fin 16) (ok : Bool), s.powered = true → s.terminal = false → (s.ctl k).training = true →
    ∃ t, exec (.trainingEnd k ok) s = .next t ∧ (t.ctl k).training = false ∧ (t.ctl k).trained = true ∧
      t.rf (rDc k 0x20) 59 2 = if ok then 2 else 1) ∧
  (∀ (s : State) (k : Fin 16), s.frozen = false → bit (s.reg (rDc k 0x28)) 63 = true → s.dcEn k = true → s.dcState k = 2 →
    (s.ctl k).zeroing = false →
    ((s.ctl k).sr = .awake → (s.ctl k).rq = [] → (s.ctl k).wq = [] → ∃ t, exec (.selfRefreshEntry k) s = .next t ∧ (t.ctl k).sr = .entering) ∧
    ((s.ctl k).sr = .entering → ∃ t, exec (.selfRefreshEntry k) s = .next t ∧ (t.ctl k).sr = .inSr ∧ t.dcState k = 3)) ∧
  (∀ (s : State) (k : Fin 16), s.frozen = false → s.dcState k = 3 → (s.ctl k).sr = .waiting →
    exec (.selfRefreshExit k) s = .next (match oldestReq (((s.srx k).ctl k).rq.map .inl ++ ((s.srx k).ctl k).wq.map .inr) with
      | some r => (s.srx k).serveReq k r
      | none => s.srx k)) ∧
  (∀ (s : State) (k : Fin 16), s.powered = true → s.terminal = false → s.chkstop = false → (s.ctl k).zeroing = true →
    ∃ t, exec (.zeroingEnd k) s = .next t ∧
    (∀ a, Memory.read t.mem a = if s.onChannel k a = true ∧ s.cached (a / 256) = false then 0 else Memory.read s.mem a) ∧
    (∀ a, Memory.read t.dram a = if s.onChannel k a = true then 0 else Memory.read s.dram a) ∧ (t.ctl k).zeroing = false) ∧
  (∀ (s : State) (k : Fin 16), s.frozen = false → (s.ctl k).drain = true → ∃ t, exec (.drainEnd k) s = .next t ∧
    (t.ctl k).drain = false ∧ (t.ctl k).rq = [] ∧ (t.ctl k).wq = [] ∧ t.dcState k = 0 ∧ t.mem = s.mem) ∧
  (∀ (s : State) (k : Fin 16) (a : Pa) (d : List Byte) (p : Bool), inBlock 128 a.toNat d.length = false →
    exec (.dramWriteRequest k a d p) s = .fault .illFormedCommand)

/-- Events of checked execution, the channel subsystem, the ports, accelerators, working store and power: while the module is
stopped they change nothing (R454); else each leads to the state its rules give. -/
def Obligations.EventsWhileRunning : Prop :=
  ∀ (c : Instr) (s t : State), (checkEvent s c = some t ∨ channelEvent s c = some t ∨ portEvent s c = some t ∨ powerEvent s c = some t) →
    exec c s = .next (if s.frozen then s else t)

/-- Events of the service die need its rails (R501); the others of the module act whatever its state is. -/
def Obligations.ServiceEvents : Prop :=
  (∀ (c : Instr) (s t : State), serviceEvent s c = some t → c.wf = true → exec c s = .next (if s.powered then t else s)) ∧
  (∀ (c : Instr) (s t : State), (moduleEvent s c = some t ∨ sessionEvent s c = some t ∨ resetEvent s c = some t) → exec c s = .next t)

/-- A bank marched in place that passes is free and zero, where no earlier march has lost it (R444); one marched by the background test gives its bank back as the
spare (R442). WS_BANK_OWN_WRITE (R437, R445): an engine that does not own the bank is refused it; OWNER becomes a code that the
bank can take. -/
def Obligations.WorkingStoreBanks : Prop :=
  (∀ (s : State) (d : WsDie) (n : Fin 128), s.frozen = false → n.val < wsBanks (wsNum d) → s.rf (rBankOwn (wsNum d) n) 0 8 = 0x70 →
    (s.wsTest (wsNum d)).lost.contains n.val = false →
    ∃ t, exec (.testInPlaceEnd d n true) s = .next t ∧ t.rf (rBankOwn (wsNum d) n) 0 8 = 0 ∧
      (∀ a, a < 0x40000 → Memory.read t.ws (wsCell (wsNum d) (n.val * 0x40000) + a) = 0)) ∧
  (∀ (s : State) (d : WsDie), s.frozen = false → s.rf (rWsTest (wsNum d)) 40 8 = 2 → (s.wsTest (wsNum d)).phys < 256 →
    ∃ t, exec (.bankMarchEnd d true) s = .next t ∧ t.rf (rWsTest (wsNum d)) 40 8 = 0 ∧
      t.bankSpare (wsNum d) (bankDp (wsNum d) (s.rf (rWsTest (wsNum d)) 32 8)) = (s.wsTest (wsNum d)).phys ∧ t.ws = s.ws) ∧
  (∀ (s : State) (e : Option (Fin 48)) (d : WsDie) (n : Fin 128) (v : Dword),
    let x : Writer := match e with | none => .mgmt | some _ => .engine (if d.val = 0 then 0 else 1)
    exec (.wsBankOwnWrite e d n v) s = .next (match e with
      | none => s.regWriteBy x none (rBankOwn (wsNum d) n) v
      | some k => if s.frozen ∨ d.val = 2 then s else s.regWriteBy x (some k.val) (rBankOwn (wsNum d) n) v) ∧
    (∀ die m, m < wsBanks die → ownerOk die m (fget v 0 8) .mgmt = true → (s.wsTest die).lost.contains m = false →
      (s.bankOwnWrite none die m v).rf (rBankOwn die m) 0 8 = fget v 0 8) ∧
    (∀ k die m, m < wsBanks die → s.bankOwner (wsCell die (m * 0x40000)) ≠ 1 + k →
      s.bankOwnWrite (some k) die m v = s.wsDeny (wsCell die (m * 0x40000)) (1 + k)))

/-! ## Register writes -/

/-- A register write is refused whole or applied whole (R14 to R16); cores and engines of a stopped module write nothing (R454). Where no register that the plane may write stands, nothing
changes; a locked register (0x80) or a reserved encoding (0x81) leaves every register as it was but ERR.LAST_WRITE. -/
def Obligations.RegisterWrites : Prop :=
  ∀ (c : Instr) (x : WriteRow) (s : State), writeRow s c = some x →
    (s.frozen = true → x.w ≠ .mgmt → exec c s = .next s) ∧
    (s.writeTarget x.w x.a = none → exec c s = .next s) ∧
    (∀ d i a, (s.frozen = false ∨ x.w = .mgmt) → s.writeTarget x.w x.a = some (d, i, a) →
      (s.writeReason d a x.v ≠ 0 → ∃ t, exec c s = .next t ∧ (s.writeReason d a x.v = 0x80 ∨ s.writeReason d a x.v = 0x81) ∧
        t = s.refuse x.a x.w (s.writeReason d a x.v) ∧
        (∀ b, b ≠ regAddr (regPlace x.a).2.1 (regPlace x.a).2.2.1 (regPlace x.a).1 0xFF8 → t.reg b = s.reg b)) ∧
      (s.writeReason d a x.v = 0 → exec c s = .next (s.performWrite x.w none d i a x.v)))

/-- A write of 1 to CLR zeroes the register's counters and SAT bits (R494). -/
def Obligations.ClearsZero : Prop :=
  ∀ (c : Instr) (x : WriteRow) (s : State) (d : RegDesc) (i a b : Nat) (fs : List (Nat × Nat)), writeRow s c = some x →
    (s.frozen = false ∨ x.w = .mgmt) → s.writeTarget x.w x.a = some (d, i, a) → s.writeReason d a x.v = 0 → clrFields d.name = some (b, fs) → x.v.getLsbD b = true →
    ∃ t, exec c s = .next t ∧ ∀ f ∈ fs, t.rf a f.1 f.2 = 0

/-! ## Faults -/

/-- Acceptance of a message handled as class 0 or 1 (R452, R462): it leaves its queue, where only a threshold message can have come in
since (R459), takes the next sequence number, which is
never 0, and stands in its history entry with its time. -/
def Obligations.AcceptanceRecords : Prop :=
  (∀ (s : State) (m : Msg), let s0 := s.unqueue m
    s0.handledClass m < 2 →
    let q := nextSeq (BitVec.ofNat 32 (s.rf rHistHead 0 32))
    q ≠ 0 ∧ (s.accept m).rf rHistHead 0 32 = q.toNat ∧ (s.accept m).reg (rHistMsg (q.toNat % 64)) = m.word ∧
      (s.accept m).reg (rHistTod (q.toNat % 64)) = m.tod ∧ (s.accept m).rf (rHistMeta (q.toNat % 64)) 0 32 = q.toNat ∧
      (s.accept m).unacked = s.unacked ∧
      ∃ l, (∀ y ∈ l, msgKind y.word = 0xA8) ∧ (s.accept m).queue (msgDie m.word) = (s.queue (msgDie m.word)).erase m ++ l) ∧
  (∀ w : Word, nextSeq w = if w = 0xFFFFFFFF then 1 else w + 1)

/-- Acknowledgment (R463): a number S of class C covers exactly the unacknowledged messages of class C whose number s has
(S - s) mod 2^32 below 2^31; the others stay unacknowledged. -/
def Obligations.AcknowledgmentCovers : Prop :=
  ∀ (s : State) (c : Nat) (S : Word) (src : Nat),
    (∀ x, x ∈ (s.ackUpTo c S src).unacked ↔ (x ∈ s.unacked ∧ ¬(x.1 = c ∧ (S.toNat + 2 ^ 32 - x.2.toNat) % 2 ^ 32 < 2 ^ 31))) ∧
    (s.ackUpTo c S src).mem = s.mem ∧ (s.ackUpTo c S src).units = s.units

/-! ## FSP, lifecycle, resets -/

/-- Records on a session (R478, R480 to R484, R487): a record before HELLO, or one that the boot ROM does not serve, is answered
0x0001; one above the session's version 0x0002; one that only the active session may send 0x0003; one that RETIRED does not
serve 0x0004; any other has its effect. On no session nothing happens. -/
def Obligations.RecordsAdmitted : Prop :=
  ∀ (c : Instr) (x : RecordRow) (s : State), recordRow c = some x →
    (s.session x.se = none → exec c s = .next s) ∧
    (∀ y, s.session x.se = some y →
      let t := (s.setSession x.se (some { y with silent := false })).mcCode 0x3101
      let answer (n : Nat) : State := x.post (t.respond x.se x.group x.code x.req n [])
      let early := y.role = .fresh ∨ (y.role = .rom ∧ x.group ≠ 1 ∧ x.group ≠ 2)
      let other := x.active = true ∧ y.role ≠ .active ∧ y.role ≠ .rom
      (early → exec c s = .next (answer 1)) ∧
      (¬early → y.ver < x.ver → exec c s = .next (answer 2)) ∧
      (¬early → x.ver ≤ y.ver → other → exec c s = .next (answer 3)) ∧
      (¬early → x.ver ≤ y.ver → ¬other → s.retired = true → retiredServes x.group x.code = false → exec c s = .next (answer 4)) ∧
      (¬early → x.ver ≤ y.ver → ¬other → (s.retired = false ∨ retiredServes x.group x.code = true) → exec c s = .next (x.post (x.act t))))

/-- The lifecycle (R486, R488, R490): the pairs of the table and no other are transitions; an LC_TRANSITION for another pair is
answered 0x0004 and changes no fuse row; one with another nonce or without the signatures is answered 0x0005; an accepted one blows the next row with the target and begins the wipe. -/
def Obligations.LifecycleTransitions : Prop :=
  (∀ a b : Fin 16, a.val = 1 ∨ a.val = 2 ∨ a.val = 3 ∨ a.val = 4 ∨ a.val = 15 →
    (lcPair a b = true ↔ (a.val = 1 ∧ b.val = 2) ∨ (a.val = 2 ∧ b.val = 3) ∨ (a.val = 3 ∧ b.val = 4) ∨ (a.val = 4 ∧ b.val = 2) ∨
      (a.val ≠ 15 ∧ b.val = 15))) ∧
  (∀ (s : State) (i : Nat) (req : Word) (target : Nat) (nonce : BitVec 256) (g : LcSig), s.lcStep = 0 → s.rowsDone = true →
    let t := (((s.lcEnter target).respond i 9 2 req 0 []).fspEvent 9 4 [BitVec.ofNat 64 target, 0]).wipeStep 1
    (lcPair s.lcState target = false → s.lcTransition i req target nonce g = s.respond i 9 2 req 0x0004 []) ∧
    (lcPair s.lcState target = true → s.lcRows.length < 127 →
      s.lcTransition i req target nonce g =
        (if nonce = s.nonce ∧ s.lcProven i req target nonce g = true then t else s.respond i 9 2 req 0x0005 []) ∧
      t.lcRows = s.lcRows ++ [(target, false)] ∧ t.lcState = target ∧ t.lcStep = 1 ∧ t.halted = true ∧
      t.images = [] ∧ t.sessions = [] ∧ t.slots = [] ∧ t.sct = []))

/-- Resets and power (R17, R464, R501, R527, R529): a low level of RESET_N of less than 10 microseconds, or in class 6, is ignored;
one of 10 or more is a cold reset, which keeps the fuses, the DIMMs' contents and the lifecycle, puts every unit at its
reset values, holds the dies in reset (R520), leaves no step of start-up done and notes LC.CTL.DZ_DIS (R492). Loss of VAUX leaves the module without power and both pins high impedance. -/
def Obligations.ResetsAndPower : Prop :=
  (∀ (s : State) (low : Nat), (low < 10000 ∨ s.terminal = true) → exec (.resetN low) s = .next s) ∧
  (∀ (s : State) (low : Nat), 10000 ≤ low → s.terminal = false → s.powered = true → ∃ t, exec (.resetN low) s = .next t ∧
    (∀ u, t.unit u = Cpu.reset) ∧ t.dram = s.dram ∧ t.mem = s.dram ∧ t.lcRows = s.lcRows ∧ t.fuses = s.fuses ∧ t.boot.done = [] ∧
    t.boot.dzDis = bit (s.reg rLcCtl) 63 ∧ t.halted = true ∧ t.images = [] ∧ t.sessions = [] ∧ t.wire = s.wire) ∧
  (∀ s : State, ∃ t, exec .vauxLoss s = .next t ∧ t.powered = false ∧ t.frozen = true ∧ t.alive = .highZ ∧ t.chkstopN = .highZ ∧
    t.lcRows = s.lcRows ∧ t.fuses = s.fuses) ∧
  (∀ s : State, s.powered = false → ∃ t, exec .powerOn s = .next t ∧ t.powered = true ∧ t.boot.done = [] ∧ t.rails = railsDown.reverse)
end

