-- ==== Sys2Proof/Laws/Store.lean ====
section
/-! SUPPORT. Laws of sparse data: a read after a write, and that every write keeps the canonical form. -/
namespace Sys2Proof.Machine
open Sys2Proof

variable {α : Type}

theorem sget_serase_same (d : Nat → α) (m : Store α) (k : Nat) : sget d (serase m k) k = d k := by
  induction m with
  | nil => rfl
  | cons e r ih =>
    obtain ⟨k', v⟩ := e
    by_cases h : k' = k
    · simp [serase, h, ih]
    · simp [serase, h, sget, ih]

theorem sget_serase_other (d : Nat → α) (m : Store α) {k j : Nat} (hj : j ≠ k) : sget d (serase m k) j = sget d m j := by
  induction m with
  | nil => rfl
  | cons e r ih =>
    obtain ⟨k', v⟩ := e
    by_cases h : k' = k
    · subst h; simp [serase, sget, ih, Ne.symm hj]
    · simp only [serase, if_neg h, sget, ih]

theorem sget_sinsert (d : Nat → α) (m : Store α) (k : Nat) (v : α) (j : Nat) (hm : ∀ e ∈ m, e.1 ≠ k) :
    sget d (sinsert m k v) j = if j = k then v else sget d m j := by
  induction m with
  | nil =>
    by_cases h : j = k
    · simp [sinsert, sget, h]
    · simp [sinsert, sget, h, Ne.symm h]
  | cons e r ih =>
    obtain ⟨k', v'⟩ := e
    have hk : k' ≠ k := hm (k', v') (by simp)
    have ih := ih fun e he => hm e (by simp [he])
    by_cases h : k < k'
    · by_cases hj : j = k
      · simp [sinsert, h, sget, hj]
      · simp [sinsert, h, sget, hj, Ne.symm hj]
    · by_cases hj : j = k
      · subst hj; simpa [sinsert, h, sget, hk] using ih
      · simp only [sinsert, h, if_false, sget, ih, hj]

theorem serase_no_key (m : Store α) (k : Nat) : ∀ e ∈ serase m k, e.1 ≠ k := by
  induction m with
  | nil => simp [serase]
  | cons e r ih =>
    obtain ⟨k', v⟩ := e
    by_cases h : k' = k
    · simpa [serase, h] using ih
    · intro e he
      simp only [serase, if_neg h, List.mem_cons] at he
      rcases he with rfl | he
      · exact h
      · exact ih e he

variable [DecidableEq α]

/-- A read after a write of the same key gives the value written, and of another key what was there. -/
theorem sget_sput (d : Nat → α) (m : Store α) (k j : Nat) (v : α) : sget d (sput d m k v) j = if j = k then v else sget d m j := by
  by_cases hj : j = k
  · subst hj
    by_cases h : v = d j
    · simp [sput, h, sget_serase_same]
    · simp [sput, h, sget_sinsert d _ _ _ _ (serase_no_key m j)]
  · by_cases h : v = d k
    · simp [sput, h, hj, sget_serase_other d m hj]
    · simp [sput, h, hj, sget_sinsert d _ _ _ _ (serase_no_key m k), sget_serase_other d m hj]

@[simp] theorem sget_sput_same (d : Nat → α) (m : Store α) (k : Nat) (v : α) : sget d (sput d m k v) k = v := by
  simp [sget_sput]

theorem sget_sput_other (d : Nat → α) (m : Store α) {k j : Nat} (v : α) (h : j ≠ k) : sget d (sput d m k v) j = sget d m j := by
  simp [sget_sput, h]

/-! ## The canonical form -/

theorem swfFrom_none (d : Nat → α) (l : Nat) (m : Store α) (h : swfFrom d (some l) m = true) : swfFrom d none m = true := by
  cases m with
  | nil => rfl
  | cons e r => simp only [swfFrom, Bool.and_eq_true] at h ⊢; exact ⟨⟨trivial, h.1.2⟩, h.2⟩

theorem swfFrom_lower (d : Nat → α) {l l' : Nat} (m : Store α) (hl : l ≤ l') (h : swfFrom d (some l') m = true) :
    swfFrom d (some l) m = true := by
  cases m with
  | nil => rfl
  | cons e r =>
    simp only [swfFrom, Bool.and_eq_true, decide_eq_true_eq] at h ⊢
    exact ⟨⟨by omega, h.1.2⟩, h.2⟩

theorem swfFrom_serase (d : Nat → α) (m : Store α) (k : Nat) (lo : Option Nat) (h : swfFrom d lo m = true) :
    swfFrom d lo (serase m k) = true := by
  induction m generalizing lo with
  | nil => rfl
  | cons e r ih =>
    obtain ⟨k', v⟩ := e
    simp only [swfFrom, Bool.and_eq_true] at h
    by_cases hk : k' = k
    · simp only [serase, hk, if_true]
      refine ih lo ?_
      cases lo with
      | none => exact swfFrom_none d k' r h.2
      | some l => exact swfFrom_lower d r (by have := h.1.1; simp at this; omega) h.2
    · simp only [serase, if_neg hk, swfFrom, Bool.and_eq_true]
      exact ⟨h.1, ih (some k') h.2⟩

theorem swfFrom_sinsert (d : Nat → α) (m : Store α) (k : Nat) (v : α) (lo : Option Nat) (hv : v ≠ d k)
    (hlo : ∀ l, lo = some l → l < k) (hm : ∀ e ∈ m, e.1 ≠ k) (h : swfFrom d lo m = true) : swfFrom d lo (sinsert m k v) = true := by
  induction m generalizing lo with
  | nil => cases lo <;> simp_all [sinsert, swfFrom]
  | cons e r ih =>
    obtain ⟨k', v'⟩ := e
    have hk : k' ≠ k := hm (k', v') (by simp)
    simp only [swfFrom, Bool.and_eq_true] at h
    by_cases hlt : k < k'
    · simp only [sinsert, hlt, if_true, swfFrom, Bool.and_eq_true, decide_eq_true_eq]
      refine ⟨⟨?_, hv⟩, ⟨trivial, by simpa using h.1.2⟩, h.2⟩
      cases lo with
      | none => rfl
      | some l => simpa using hlo l rfl
    · simp only [sinsert, hlt, if_false, swfFrom, Bool.and_eq_true]
      exact ⟨h.1, ih (some k') (by rintro l ⟨⟩; omega) (fun e he => hm e (by simp [he])) h.2⟩

/-- A write keeps the canonical form. -/
theorem swf_sput (d : Nat → α) (m : Store α) (k : Nat) (v : α) (h : swf d m = true) : swf d (sput d m k v) = true := by
  unfold sput swf at *
  split
  · exact swfFrom_serase d m k none h
  · next hv =>
    exact swfFrom_sinsert d _ k v none hv (by simp) (serase_no_key m k) (swfFrom_serase d m k none h)

/-- A part of sparse data is in canonical form. -/
theorem swfFrom_filter (d : Nat → α) (m : Store α) (p : Nat × α → Bool) (lo : Option Nat) (h : swfFrom d lo m = true) :
    swfFrom d lo (m.filter p) = true := by
  induction m generalizing lo with
  | nil => rfl
  | cons e r ih =>
    simp only [swfFrom, Bool.and_eq_true] at h
    by_cases hp : p e = true
    · simp only [List.filter_cons_of_pos hp, swfFrom, Bool.and_eq_true]
      exact ⟨h.1, ih (some e.1) h.2⟩
    · rw [List.filter_cons_of_neg hp]
      refine ih lo ?_
      cases lo with
      | none => exact swfFrom_none d e.1 r h.2
      | some l => exact swfFrom_lower d r (by have := h.1.1; simp at this; omega) h.2

theorem swf_filter (d : Nat → α) (m : Store α) (p : Nat × α → Bool) (h : swf d m = true) : swf d (m.filter p) = true :=
  swfFrom_filter d m p none h

/-! ## Storage bytes -/

@[simp] theorem Memory.read_write_same (m : List Host.Cell) (a : Nat) (v : Byte) : Memory.read (Memory.write m a v) a = v := by
  simp [Memory.read, Memory.write]

theorem Memory.read_write_other (m : List Host.Cell) {a b : Nat} (v : Byte) (h : b ≠ a) :
    Memory.read (Memory.write m a v) b = Memory.read m b := by
  simp [Memory.read, Memory.write, sget_sput_other _ _ _ h]

theorem Memory.wf_write (m : List Host.Cell) (a : Nat) (v : Byte) (h : Memory.wf m = true) : Memory.wf (Memory.write m a v) = true :=
  swf_sput memDefault m a v h

theorem Memory.wf_writeN (m : List Host.Cell) (a : Nat) (b : List Byte) (h : Memory.wf m = true) : Memory.wf (Memory.writeN m a b) = true := by
  induction b generalizing m a with
  | nil => exact h
  | cons v r ih => exact ih _ _ (Memory.wf_write m a v h)

theorem Memory.wf_filter (m : List Host.Cell) (p : Host.Cell → Bool) (h : Memory.wf m = true) : Memory.wf (m.filter p) = true :=
  swf_filter memDefault m p h

theorem Memory.wf_foldr (m : List Host.Cell) (l : List Host.Cell) (h : Memory.wf m = true) :
    Memory.wf (l.foldr (fun (x : Host.Cell) m => Memory.write m x.1 x.2) m) = true := by
  induction l with
  | nil => exact h
  | cons x l ih => exact Memory.wf_write _ _ _ ih

@[simp] theorem Memory.wf_nil : Memory.wf [] = true := rfl

@[simp] theorem Memory.readN_length (m : List Host.Cell) (a n : Nat) : (Memory.readN m a n).length = n := by
  induction n generalizing a with
  | zero => rfl
  | succ n ih => simp [Memory.readN, ih]

end Sys2Proof.Machine
end

