-- ==== Sys2Proof/Laws/State.lean ====
section
/-! SUPPORT. What each update of State leaves as it was, field by field, and what is read after it. -/
namespace Sys2Proof.Machine
open Sys2Proof

variable (s : State)

/-! ## setUnit -/

@[simp] theorem State.setUnit_pending (u : Nat) (c : Cpu) : (s.setUnit u c).pending = s.pending := rfl
@[simp] theorem State.setUnit_free (u : Nat) (c : Cpu) : (s.setUnit u c).free = s.free := rfl
@[simp] theorem State.setUnit_regs (u : Nat) (c : Cpu) : (s.setUnit u c).regs = s.regs := rfl
@[simp] theorem State.setUnit_shadows (u : Nat) (c : Cpu) : (s.setUnit u c).shadows = s.shadows := rfl
@[simp] theorem State.setUnit_mem (u : Nat) (c : Cpu) : (s.setUnit u c).mem = s.mem := rfl
@[simp] theorem State.setUnit_dram (u : Nat) (c : Cpu) : (s.setUnit u c).dram = s.dram := rfl
@[simp] theorem State.setUnit_poison (u : Nat) (c : Cpu) : (s.setUnit u c).poison = s.poison := rfl
@[simp] theorem State.setUnit_cores (u : Nat) (c : Cpu) : (s.setUnit u c).cores = s.cores := rfl
@[simp] theorem State.setUnit_dies (u : Nat) (c : Cpu) : (s.setUnit u c).dies = s.dies := rfl
@[simp] theorem State.setUnit_errs (u : Nat) (c : Cpu) : (s.setUnit u c).errs = s.errs := rfl
@[simp] theorem State.setUnit_images (u : Nat) (c : Cpu) : (s.setUnit u c).images = s.images := rfl
@[simp] theorem State.setUnit_held (u : Nat) (c : Cpu) : (s.setUnit u c).held = s.held := rfl
@[simp] theorem State.setUnit_moves (u : Nat) (c : Cpu) : (s.setUnit u c).moves = s.moves := rfl
@[simp] theorem State.setUnit_msgs (u : Nat) (c : Cpu) : (s.setUnit u c).msgs = s.msgs := rfl
@[simp] theorem State.setUnit_tod (u : Nat) (c : Cpu) : (s.setUnit u c).tod = s.tod := rfl
@[simp] theorem State.setUnit_elapsed (u : Nat) (c : Cpu) : (s.setUnit u c).elapsed = s.elapsed := rfl
@[simp] theorem State.setUnit_fuses (u : Nat) (c : Cpu) : (s.setUnit u c).fuses = s.fuses := rfl
@[simp] theorem State.setUnit_merges (u : Nat) (c : Cpu) : (s.setUnit u c).merges = s.merges := rfl
@[simp] theorem State.setUnit_dimm (u : Nat) (c : Cpu) : (s.setUnit u c).dimm = s.dimm := rfl
@[simp] theorem State.setUnit_ctls (u : Nat) (c : Cpu) : (s.setUnit u c).ctls = s.ctls := rfl
@[simp] theorem State.setUnit_ws (u : Nat) (c : Cpu) : (s.setUnit u c).ws = s.ws := rfl
@[simp] theorem State.setUnit_sct (u : Nat) (c : Cpu) : (s.setUnit u c).sct = s.sct := rfl
@[simp] theorem State.setUnit_sctMir (u : Nat) (c : Cpu) : (s.setUnit u c).sctMir = s.sctMir := rfl
@[simp] theorem State.setUnit_slots (u : Nat) (c : Cpu) : (s.setUnit u c).slots = s.slots := rfl
@[simp] theorem State.setUnit_slotsMir (u : Nat) (c : Cpu) : (s.setUnit u c).slotsMir = s.slotsMir := rfl
@[simp] theorem State.setUnit_xfers (u : Nat) (c : Cpu) : (s.setUnit u c).xfers = s.xfers := rfl
@[simp] theorem State.setUnit_aborts (u : Nat) (c : Cpu) : (s.setUnit u c).aborts = s.aborts := rfl
@[simp] theorem State.setUnit_unmirrored (u : Nat) (c : Cpu) : (s.setUnit u c).unmirrored = s.unmirrored := rfl
@[simp] theorem State.setUnit_conds (u : Nat) (c : Cpu) : (s.setUnit u c).conds = s.conds := rfl
@[simp] theorem State.setUnit_logins (u : Nat) (c : Cpu) : (s.setUnit u c).logins = s.logins := rfl
@[simp] theorem State.setUnit_ports (u : Nat) (c : Cpu) : (s.setUnit u c).ports = s.ports := rfl
@[simp] theorem State.setUnit_wire (u : Nat) (c : Cpu) : (s.setUnit u c).wire = s.wire := rfl
@[simp] theorem State.setUnit_engineFw (u : Nat) (c : Cpu) : (s.setUnit u c).engineFw = s.engineFw := rfl
@[simp] theorem State.setUnit_accFailed (u : Nat) (c : Cpu) : (s.setUnit u c).accFailed = s.accFailed := rfl
@[simp] theorem State.setUnit_drbgs (u : Nat) (c : Cpu) : (s.setUnit u c).drbgs = s.drbgs := rfl
@[simp] theorem State.setUnit_wrapKeys (u : Nat) (c : Cpu) : (s.setUnit u c).wrapKeys = s.wrapKeys := rfl
@[simp] theorem State.setUnit_serials (u : Nat) (c : Cpu) : (s.setUnit u c).serials = s.serials := rfl
@[simp] theorem State.setUnit_conts (u : Nat) (c : Cpu) : (s.setUnit u c).conts = s.conts := rfl
@[simp] theorem State.setUnit_chains (u : Nat) (c : Cpu) : (s.setUnit u c).chains = s.chains := rfl
@[simp] theorem State.setUnit_wsTests (u : Nat) (c : Cpu) : (s.setUnit u c).wsTests = s.wsTests := rfl
@[simp] theorem State.setUnit_vaultDead (u : Nat) (c : Cpu) : (s.setUnit u c).vaultDead = s.vaultDead := rfl
@[simp] theorem State.setUnit_live (u : Nat) (c : Cpu) : (s.setUnit u c).live = s.live := rfl
@[simp] theorem State.setUnit_unacked (u : Nat) (c : Cpu) : (s.setUnit u c).unacked = s.unacked := rfl
@[simp] theorem State.setUnit_injected (u : Nat) (c : Cpu) : (s.setUnit u c).injected = s.injected := rfl
@[simp] theorem State.setUnit_alive (u : Nat) (c : Cpu) : (s.setUnit u c).alive = s.alive := rfl
@[simp] theorem State.setUnit_chkstopN (u : Nat) (c : Cpu) : (s.setUnit u c).chkstopN = s.chkstopN := rfl
@[simp] theorem State.setUnit_plainDown (u : Nat) (c : Cpu) : (s.setUnit u c).plainDown = s.plainDown := rfl
@[simp] theorem State.setUnit_halted (u : Nat) (c : Cpu) : (s.setUnit u c).halted = s.halted := rfl
@[simp] theorem State.setUnit_passes (u : Nat) (c : Cpu) : (s.setUnit u c).passes = s.passes := rfl
@[simp] theorem State.setUnit_boot (u : Nat) (c : Cpu) : (s.setUnit u c).boot = s.boot := rfl
@[simp] theorem State.setUnit_powered (u : Nat) (c : Cpu) : (s.setUnit u c).powered = s.powered := rfl
@[simp] theorem State.setUnit_temps (u : Nat) (c : Cpu) : (s.setUnit u c).temps = s.temps := rfl
@[simp] theorem State.setUnit_vset (u : Nat) (c : Cpu) : (s.setUnit u c).vset = s.vset := rfl
@[simp] theorem State.setUnit_stretch (u : Nat) (c : Cpu) : (s.setUnit u c).stretch = s.stretch := rfl
@[simp] theorem State.setUnit_sessions (u : Nat) (c : Cpu) : (s.setUnit u c).sessions = s.sessions := rfl
@[simp] theorem State.setUnit_fspOut (u : Nat) (c : Cpu) : (s.setUnit u c).fspOut = s.fspOut := rfl
@[simp] theorem State.setUnit_load (u : Nat) (c : Cpu) : (s.setUnit u c).load = s.load := rfl
@[simp] theorem State.setUnit_fwLoaded (u : Nat) (c : Cpu) : (s.setUnit u c).fwLoaded = s.fwLoaded := rfl
@[simp] theorem State.setUnit_hostLoaded (u : Nat) (c : Cpu) : (s.setUnit u c).hostLoaded = s.hostLoaded := rfl
@[simp] theorem State.setUnit_lcRows (u : Nat) (c : Cpu) : (s.setUnit u c).lcRows = s.lcRows := rfl
@[simp] theorem State.setUnit_lcStep (u : Nat) (c : Cpu) : (s.setUnit u c).lcStep = s.lcStep := rfl
@[simp] theorem State.setUnit_owner (u : Nat) (c : Cpu) : (s.setUnit u c).owner = s.owner := rfl
@[simp] theorem State.setUnit_jtag (u : Nat) (c : Cpu) : (s.setUnit u c).jtag = s.jtag := rfl
@[simp] theorem State.setUnit_snapAt (u : Nat) (c : Cpu) : (s.setUnit u c).snapAt = s.snapAt := rfl
@[simp] theorem State.setUnit_snapTaken (u : Nat) (c : Cpu) : (s.setUnit u c).snapTaken = s.snapTaken := rfl
@[simp] theorem State.setUnit_snapWait (u : Nat) (c : Cpu) : (s.setUnit u c).snapWait = s.snapWait := rfl
@[simp] theorem State.setUnit_snapTags (u : Nat) (c : Cpu) : (s.setUnit u c).snapTags = s.snapTags := rfl
@[simp] theorem State.setUnit_rails (u : Nat) (c : Cpu) : (s.setUnit u c).rails = s.rails := rfl
@[simp] theorem State.setUnit_railCmds (u : Nat) (c : Cpu) : (s.setUnit u c).railCmds = s.railCmds := rfl
@[simp] theorem State.setUnit_govs (u : Nat) (c : Cpu) : (s.setUnit u c).govs = s.govs := rfl
@[simp] theorem State.setUnit_spareTests (u : Nat) (c : Cpu) : (s.setUnit u c).spareTests = s.spareTests := rfl
@[simp] theorem State.setUnit_mgmtPorts (u : Nat) (c : Cpu) : (s.setUnit u c).mgmtPorts = s.mgmtPorts := rfl
@[simp] theorem State.setUnit_ptp (u : Nat) (c : Cpu) : (s.setUnit u c).ptp = s.ptp := rfl
@[simp] theorem State.setUnit_plainTx (u : Nat) (c : Cpu) : (s.setUnit u c).plainTx = s.plainTx := rfl
@[simp] theorem State.setUnit_todWait (u : Nat) (c : Cpu) : (s.setUnit u c).todWait = s.todWait := rfl
@[simp] theorem State.setUnit_dramPoison (u : Nat) (c : Cpu) : (s.setUnit u c).dramPoison = s.dramPoison := rfl
@[simp] theorem State.setUnit_chanTlb (u : Nat) (c : Cpu) : (s.setUnit u c).chanTlb = s.chanTlb := rfl
@[simp] theorem State.setUnit_routes (u : Nat) (c : Cpu) : (s.setUnit u c).routes = s.routes := rfl
@[simp] theorem State.setUnit_todFrac (u : Nat) (c : Cpu) : (s.setUnit u c).todFrac = s.todFrac := rfl

/-! ## modUnit -/

@[simp] theorem State.modUnit_pending (u : Nat) (f : Cpu → Cpu) : (s.modUnit u f).pending = s.pending := rfl
@[simp] theorem State.modUnit_free (u : Nat) (f : Cpu → Cpu) : (s.modUnit u f).free = s.free := rfl
@[simp] theorem State.modUnit_regs (u : Nat) (f : Cpu → Cpu) : (s.modUnit u f).regs = s.regs := rfl
@[simp] theorem State.modUnit_shadows (u : Nat) (f : Cpu → Cpu) : (s.modUnit u f).shadows = s.shadows := rfl
@[simp] theorem State.modUnit_mem (u : Nat) (f : Cpu → Cpu) : (s.modUnit u f).mem = s.mem := rfl
@[simp] theorem State.modUnit_dram (u : Nat) (f : Cpu → Cpu) : (s.modUnit u f).dram = s.dram := rfl
@[simp] theorem State.modUnit_poison (u : Nat) (f : Cpu → Cpu) : (s.modUnit u f).poison = s.poison := rfl
@[simp] theorem State.modUnit_cores (u : Nat) (f : Cpu → Cpu) : (s.modUnit u f).cores = s.cores := rfl
@[simp] theorem State.modUnit_dies (u : Nat) (f : Cpu → Cpu) : (s.modUnit u f).dies = s.dies := rfl
@[simp] theorem State.modUnit_errs (u : Nat) (f : Cpu → Cpu) : (s.modUnit u f).errs = s.errs := rfl
@[simp] theorem State.modUnit_images (u : Nat) (f : Cpu → Cpu) : (s.modUnit u f).images = s.images := rfl
@[simp] theorem State.modUnit_held (u : Nat) (f : Cpu → Cpu) : (s.modUnit u f).held = s.held := rfl
@[simp] theorem State.modUnit_moves (u : Nat) (f : Cpu → Cpu) : (s.modUnit u f).moves = s.moves := rfl
@[simp] theorem State.modUnit_msgs (u : Nat) (f : Cpu → Cpu) : (s.modUnit u f).msgs = s.msgs := rfl
@[simp] theorem State.modUnit_tod (u : Nat) (f : Cpu → Cpu) : (s.modUnit u f).tod = s.tod := rfl
@[simp] theorem State.modUnit_elapsed (u : Nat) (f : Cpu → Cpu) : (s.modUnit u f).elapsed = s.elapsed := rfl
@[simp] theorem State.modUnit_fuses (u : Nat) (f : Cpu → Cpu) : (s.modUnit u f).fuses = s.fuses := rfl
@[simp] theorem State.modUnit_merges (u : Nat) (f : Cpu → Cpu) : (s.modUnit u f).merges = s.merges := rfl
@[simp] theorem State.modUnit_dimm (u : Nat) (f : Cpu → Cpu) : (s.modUnit u f).dimm = s.dimm := rfl
@[simp] theorem State.modUnit_ctls (u : Nat) (f : Cpu → Cpu) : (s.modUnit u f).ctls = s.ctls := rfl
@[simp] theorem State.modUnit_ws (u : Nat) (f : Cpu → Cpu) : (s.modUnit u f).ws = s.ws := rfl
@[simp] theorem State.modUnit_sct (u : Nat) (f : Cpu → Cpu) : (s.modUnit u f).sct = s.sct := rfl
@[simp] theorem State.modUnit_sctMir (u : Nat) (f : Cpu → Cpu) : (s.modUnit u f).sctMir = s.sctMir := rfl
@[simp] theorem State.modUnit_slots (u : Nat) (f : Cpu → Cpu) : (s.modUnit u f).slots = s.slots := rfl
@[simp] theorem State.modUnit_slotsMir (u : Nat) (f : Cpu → Cpu) : (s.modUnit u f).slotsMir = s.slotsMir := rfl
@[simp] theorem State.modUnit_xfers (u : Nat) (f : Cpu → Cpu) : (s.modUnit u f).xfers = s.xfers := rfl
@[simp] theorem State.modUnit_aborts (u : Nat) (f : Cpu → Cpu) : (s.modUnit u f).aborts = s.aborts := rfl
@[simp] theorem State.modUnit_unmirrored (u : Nat) (f : Cpu → Cpu) : (s.modUnit u f).unmirrored = s.unmirrored := rfl
@[simp] theorem State.modUnit_conds (u : Nat) (f : Cpu → Cpu) : (s.modUnit u f).conds = s.conds := rfl
@[simp] theorem State.modUnit_logins (u : Nat) (f : Cpu → Cpu) : (s.modUnit u f).logins = s.logins := rfl
@[simp] theorem State.modUnit_ports (u : Nat) (f : Cpu → Cpu) : (s.modUnit u f).ports = s.ports := rfl
@[simp] theorem State.modUnit_wire (u : Nat) (f : Cpu → Cpu) : (s.modUnit u f).wire = s.wire := rfl
@[simp] theorem State.modUnit_engineFw (u : Nat) (f : Cpu → Cpu) : (s.modUnit u f).engineFw = s.engineFw := rfl
@[simp] theorem State.modUnit_accFailed (u : Nat) (f : Cpu → Cpu) : (s.modUnit u f).accFailed = s.accFailed := rfl
@[simp] theorem State.modUnit_drbgs (u : Nat) (f : Cpu → Cpu) : (s.modUnit u f).drbgs = s.drbgs := rfl
@[simp] theorem State.modUnit_wrapKeys (u : Nat) (f : Cpu → Cpu) : (s.modUnit u f).wrapKeys = s.wrapKeys := rfl
@[simp] theorem State.modUnit_serials (u : Nat) (f : Cpu → Cpu) : (s.modUnit u f).serials = s.serials := rfl
@[simp] theorem State.modUnit_conts (u : Nat) (f : Cpu → Cpu) : (s.modUnit u f).conts = s.conts := rfl
@[simp] theorem State.modUnit_chains (u : Nat) (f : Cpu → Cpu) : (s.modUnit u f).chains = s.chains := rfl
@[simp] theorem State.modUnit_wsTests (u : Nat) (f : Cpu → Cpu) : (s.modUnit u f).wsTests = s.wsTests := rfl
@[simp] theorem State.modUnit_vaultDead (u : Nat) (f : Cpu → Cpu) : (s.modUnit u f).vaultDead = s.vaultDead := rfl
@[simp] theorem State.modUnit_live (u : Nat) (f : Cpu → Cpu) : (s.modUnit u f).live = s.live := rfl
@[simp] theorem State.modUnit_unacked (u : Nat) (f : Cpu → Cpu) : (s.modUnit u f).unacked = s.unacked := rfl
@[simp] theorem State.modUnit_injected (u : Nat) (f : Cpu → Cpu) : (s.modUnit u f).injected = s.injected := rfl
@[simp] theorem State.modUnit_alive (u : Nat) (f : Cpu → Cpu) : (s.modUnit u f).alive = s.alive := rfl
@[simp] theorem State.modUnit_chkstopN (u : Nat) (f : Cpu → Cpu) : (s.modUnit u f).chkstopN = s.chkstopN := rfl
@[simp] theorem State.modUnit_plainDown (u : Nat) (f : Cpu → Cpu) : (s.modUnit u f).plainDown = s.plainDown := rfl
@[simp] theorem State.modUnit_halted (u : Nat) (f : Cpu → Cpu) : (s.modUnit u f).halted = s.halted := rfl
@[simp] theorem State.modUnit_passes (u : Nat) (f : Cpu → Cpu) : (s.modUnit u f).passes = s.passes := rfl
@[simp] theorem State.modUnit_boot (u : Nat) (f : Cpu → Cpu) : (s.modUnit u f).boot = s.boot := rfl
@[simp] theorem State.modUnit_powered (u : Nat) (f : Cpu → Cpu) : (s.modUnit u f).powered = s.powered := rfl
@[simp] theorem State.modUnit_temps (u : Nat) (f : Cpu → Cpu) : (s.modUnit u f).temps = s.temps := rfl
@[simp] theorem State.modUnit_vset (u : Nat) (f : Cpu → Cpu) : (s.modUnit u f).vset = s.vset := rfl
@[simp] theorem State.modUnit_stretch (u : Nat) (f : Cpu → Cpu) : (s.modUnit u f).stretch = s.stretch := rfl
@[simp] theorem State.modUnit_sessions (u : Nat) (f : Cpu → Cpu) : (s.modUnit u f).sessions = s.sessions := rfl
@[simp] theorem State.modUnit_fspOut (u : Nat) (f : Cpu → Cpu) : (s.modUnit u f).fspOut = s.fspOut := rfl
@[simp] theorem State.modUnit_load (u : Nat) (f : Cpu → Cpu) : (s.modUnit u f).load = s.load := rfl
@[simp] theorem State.modUnit_fwLoaded (u : Nat) (f : Cpu → Cpu) : (s.modUnit u f).fwLoaded = s.fwLoaded := rfl
@[simp] theorem State.modUnit_hostLoaded (u : Nat) (f : Cpu → Cpu) : (s.modUnit u f).hostLoaded = s.hostLoaded := rfl
@[simp] theorem State.modUnit_lcRows (u : Nat) (f : Cpu → Cpu) : (s.modUnit u f).lcRows = s.lcRows := rfl
@[simp] theorem State.modUnit_lcStep (u : Nat) (f : Cpu → Cpu) : (s.modUnit u f).lcStep = s.lcStep := rfl
@[simp] theorem State.modUnit_owner (u : Nat) (f : Cpu → Cpu) : (s.modUnit u f).owner = s.owner := rfl
@[simp] theorem State.modUnit_jtag (u : Nat) (f : Cpu → Cpu) : (s.modUnit u f).jtag = s.jtag := rfl
@[simp] theorem State.modUnit_snapAt (u : Nat) (f : Cpu → Cpu) : (s.modUnit u f).snapAt = s.snapAt := rfl
@[simp] theorem State.modUnit_snapTaken (u : Nat) (f : Cpu → Cpu) : (s.modUnit u f).snapTaken = s.snapTaken := rfl
@[simp] theorem State.modUnit_snapWait (u : Nat) (f : Cpu → Cpu) : (s.modUnit u f).snapWait = s.snapWait := rfl
@[simp] theorem State.modUnit_snapTags (u : Nat) (f : Cpu → Cpu) : (s.modUnit u f).snapTags = s.snapTags := rfl
@[simp] theorem State.modUnit_rails (u : Nat) (f : Cpu → Cpu) : (s.modUnit u f).rails = s.rails := rfl
@[simp] theorem State.modUnit_railCmds (u : Nat) (f : Cpu → Cpu) : (s.modUnit u f).railCmds = s.railCmds := rfl
@[simp] theorem State.modUnit_govs (u : Nat) (f : Cpu → Cpu) : (s.modUnit u f).govs = s.govs := rfl
@[simp] theorem State.modUnit_spareTests (u : Nat) (f : Cpu → Cpu) : (s.modUnit u f).spareTests = s.spareTests := rfl
@[simp] theorem State.modUnit_mgmtPorts (u : Nat) (f : Cpu → Cpu) : (s.modUnit u f).mgmtPorts = s.mgmtPorts := rfl
@[simp] theorem State.modUnit_ptp (u : Nat) (f : Cpu → Cpu) : (s.modUnit u f).ptp = s.ptp := rfl
@[simp] theorem State.modUnit_plainTx (u : Nat) (f : Cpu → Cpu) : (s.modUnit u f).plainTx = s.plainTx := rfl
@[simp] theorem State.modUnit_todWait (u : Nat) (f : Cpu → Cpu) : (s.modUnit u f).todWait = s.todWait := rfl
@[simp] theorem State.modUnit_dramPoison (u : Nat) (f : Cpu → Cpu) : (s.modUnit u f).dramPoison = s.dramPoison := rfl
@[simp] theorem State.modUnit_chanTlb (u : Nat) (f : Cpu → Cpu) : (s.modUnit u f).chanTlb = s.chanTlb := rfl
@[simp] theorem State.modUnit_routes (u : Nat) (f : Cpu → Cpu) : (s.modUnit u f).routes = s.routes := rfl
@[simp] theorem State.modUnit_todFrac (u : Nat) (f : Cpu → Cpu) : (s.modUnit u f).todFrac = s.todFrac := rfl

/-! ## setG -/

@[simp] theorem State.setG_pending (u : Nat) (r : BitVec 5) (v : Dword) : (s.setG u r v).pending = s.pending := rfl
@[simp] theorem State.setG_free (u : Nat) (r : BitVec 5) (v : Dword) : (s.setG u r v).free = s.free := rfl
@[simp] theorem State.setG_regs (u : Nat) (r : BitVec 5) (v : Dword) : (s.setG u r v).regs = s.regs := rfl
@[simp] theorem State.setG_shadows (u : Nat) (r : BitVec 5) (v : Dword) : (s.setG u r v).shadows = s.shadows := rfl
@[simp] theorem State.setG_mem (u : Nat) (r : BitVec 5) (v : Dword) : (s.setG u r v).mem = s.mem := rfl
@[simp] theorem State.setG_dram (u : Nat) (r : BitVec 5) (v : Dword) : (s.setG u r v).dram = s.dram := rfl
@[simp] theorem State.setG_poison (u : Nat) (r : BitVec 5) (v : Dword) : (s.setG u r v).poison = s.poison := rfl
@[simp] theorem State.setG_cores (u : Nat) (r : BitVec 5) (v : Dword) : (s.setG u r v).cores = s.cores := rfl
@[simp] theorem State.setG_dies (u : Nat) (r : BitVec 5) (v : Dword) : (s.setG u r v).dies = s.dies := rfl
@[simp] theorem State.setG_errs (u : Nat) (r : BitVec 5) (v : Dword) : (s.setG u r v).errs = s.errs := rfl
@[simp] theorem State.setG_images (u : Nat) (r : BitVec 5) (v : Dword) : (s.setG u r v).images = s.images := rfl
@[simp] theorem State.setG_held (u : Nat) (r : BitVec 5) (v : Dword) : (s.setG u r v).held = s.held := rfl
@[simp] theorem State.setG_moves (u : Nat) (r : BitVec 5) (v : Dword) : (s.setG u r v).moves = s.moves := rfl
@[simp] theorem State.setG_msgs (u : Nat) (r : BitVec 5) (v : Dword) : (s.setG u r v).msgs = s.msgs := rfl
@[simp] theorem State.setG_tod (u : Nat) (r : BitVec 5) (v : Dword) : (s.setG u r v).tod = s.tod := rfl
@[simp] theorem State.setG_elapsed (u : Nat) (r : BitVec 5) (v : Dword) : (s.setG u r v).elapsed = s.elapsed := rfl
@[simp] theorem State.setG_fuses (u : Nat) (r : BitVec 5) (v : Dword) : (s.setG u r v).fuses = s.fuses := rfl
@[simp] theorem State.setG_merges (u : Nat) (r : BitVec 5) (v : Dword) : (s.setG u r v).merges = s.merges := rfl
@[simp] theorem State.setG_dimm (u : Nat) (r : BitVec 5) (v : Dword) : (s.setG u r v).dimm = s.dimm := rfl
@[simp] theorem State.setG_ctls (u : Nat) (r : BitVec 5) (v : Dword) : (s.setG u r v).ctls = s.ctls := rfl
@[simp] theorem State.setG_ws (u : Nat) (r : BitVec 5) (v : Dword) : (s.setG u r v).ws = s.ws := rfl
@[simp] theorem State.setG_sct (u : Nat) (r : BitVec 5) (v : Dword) : (s.setG u r v).sct = s.sct := rfl
@[simp] theorem State.setG_sctMir (u : Nat) (r : BitVec 5) (v : Dword) : (s.setG u r v).sctMir = s.sctMir := rfl
@[simp] theorem State.setG_slots (u : Nat) (r : BitVec 5) (v : Dword) : (s.setG u r v).slots = s.slots := rfl
@[simp] theorem State.setG_slotsMir (u : Nat) (r : BitVec 5) (v : Dword) : (s.setG u r v).slotsMir = s.slotsMir := rfl
@[simp] theorem State.setG_xfers (u : Nat) (r : BitVec 5) (v : Dword) : (s.setG u r v).xfers = s.xfers := rfl
@[simp] theorem State.setG_aborts (u : Nat) (r : BitVec 5) (v : Dword) : (s.setG u r v).aborts = s.aborts := rfl
@[simp] theorem State.setG_unmirrored (u : Nat) (r : BitVec 5) (v : Dword) : (s.setG u r v).unmirrored = s.unmirrored := rfl
@[simp] theorem State.setG_conds (u : Nat) (r : BitVec 5) (v : Dword) : (s.setG u r v).conds = s.conds := rfl
@[simp] theorem State.setG_logins (u : Nat) (r : BitVec 5) (v : Dword) : (s.setG u r v).logins = s.logins := rfl
@[simp] theorem State.setG_ports (u : Nat) (r : BitVec 5) (v : Dword) : (s.setG u r v).ports = s.ports := rfl
@[simp] theorem State.setG_wire (u : Nat) (r : BitVec 5) (v : Dword) : (s.setG u r v).wire = s.wire := rfl
@[simp] theorem State.setG_engineFw (u : Nat) (r : BitVec 5) (v : Dword) : (s.setG u r v).engineFw = s.engineFw := rfl
@[simp] theorem State.setG_accFailed (u : Nat) (r : BitVec 5) (v : Dword) : (s.setG u r v).accFailed = s.accFailed := rfl
@[simp] theorem State.setG_drbgs (u : Nat) (r : BitVec 5) (v : Dword) : (s.setG u r v).drbgs = s.drbgs := rfl
@[simp] theorem State.setG_wrapKeys (u : Nat) (r : BitVec 5) (v : Dword) : (s.setG u r v).wrapKeys = s.wrapKeys := rfl
@[simp] theorem State.setG_serials (u : Nat) (r : BitVec 5) (v : Dword) : (s.setG u r v).serials = s.serials := rfl
@[simp] theorem State.setG_conts (u : Nat) (r : BitVec 5) (v : Dword) : (s.setG u r v).conts = s.conts := rfl
@[simp] theorem State.setG_chains (u : Nat) (r : BitVec 5) (v : Dword) : (s.setG u r v).chains = s.chains := rfl
@[simp] theorem State.setG_wsTests (u : Nat) (r : BitVec 5) (v : Dword) : (s.setG u r v).wsTests = s.wsTests := rfl
@[simp] theorem State.setG_vaultDead (u : Nat) (r : BitVec 5) (v : Dword) : (s.setG u r v).vaultDead = s.vaultDead := rfl
@[simp] theorem State.setG_live (u : Nat) (r : BitVec 5) (v : Dword) : (s.setG u r v).live = s.live := rfl
@[simp] theorem State.setG_unacked (u : Nat) (r : BitVec 5) (v : Dword) : (s.setG u r v).unacked = s.unacked := rfl
@[simp] theorem State.setG_injected (u : Nat) (r : BitVec 5) (v : Dword) : (s.setG u r v).injected = s.injected := rfl
@[simp] theorem State.setG_alive (u : Nat) (r : BitVec 5) (v : Dword) : (s.setG u r v).alive = s.alive := rfl
@[simp] theorem State.setG_chkstopN (u : Nat) (r : BitVec 5) (v : Dword) : (s.setG u r v).chkstopN = s.chkstopN := rfl
@[simp] theorem State.setG_plainDown (u : Nat) (r : BitVec 5) (v : Dword) : (s.setG u r v).plainDown = s.plainDown := rfl
@[simp] theorem State.setG_halted (u : Nat) (r : BitVec 5) (v : Dword) : (s.setG u r v).halted = s.halted := rfl
@[simp] theorem State.setG_passes (u : Nat) (r : BitVec 5) (v : Dword) : (s.setG u r v).passes = s.passes := rfl
@[simp] theorem State.setG_boot (u : Nat) (r : BitVec 5) (v : Dword) : (s.setG u r v).boot = s.boot := rfl
@[simp] theorem State.setG_powered (u : Nat) (r : BitVec 5) (v : Dword) : (s.setG u r v).powered = s.powered := rfl
@[simp] theorem State.setG_temps (u : Nat) (r : BitVec 5) (v : Dword) : (s.setG u r v).temps = s.temps := rfl
@[simp] theorem State.setG_vset (u : Nat) (r : BitVec 5) (v : Dword) : (s.setG u r v).vset = s.vset := rfl
@[simp] theorem State.setG_stretch (u : Nat) (r : BitVec 5) (v : Dword) : (s.setG u r v).stretch = s.stretch := rfl
@[simp] theorem State.setG_sessions (u : Nat) (r : BitVec 5) (v : Dword) : (s.setG u r v).sessions = s.sessions := rfl
@[simp] theorem State.setG_fspOut (u : Nat) (r : BitVec 5) (v : Dword) : (s.setG u r v).fspOut = s.fspOut := rfl
@[simp] theorem State.setG_load (u : Nat) (r : BitVec 5) (v : Dword) : (s.setG u r v).load = s.load := rfl
@[simp] theorem State.setG_fwLoaded (u : Nat) (r : BitVec 5) (v : Dword) : (s.setG u r v).fwLoaded = s.fwLoaded := rfl
@[simp] theorem State.setG_hostLoaded (u : Nat) (r : BitVec 5) (v : Dword) : (s.setG u r v).hostLoaded = s.hostLoaded := rfl
@[simp] theorem State.setG_lcRows (u : Nat) (r : BitVec 5) (v : Dword) : (s.setG u r v).lcRows = s.lcRows := rfl
@[simp] theorem State.setG_lcStep (u : Nat) (r : BitVec 5) (v : Dword) : (s.setG u r v).lcStep = s.lcStep := rfl
@[simp] theorem State.setG_owner (u : Nat) (r : BitVec 5) (v : Dword) : (s.setG u r v).owner = s.owner := rfl
@[simp] theorem State.setG_jtag (u : Nat) (r : BitVec 5) (v : Dword) : (s.setG u r v).jtag = s.jtag := rfl
@[simp] theorem State.setG_snapAt (u : Nat) (r : BitVec 5) (v : Dword) : (s.setG u r v).snapAt = s.snapAt := rfl
@[simp] theorem State.setG_snapTaken (u : Nat) (r : BitVec 5) (v : Dword) : (s.setG u r v).snapTaken = s.snapTaken := rfl
@[simp] theorem State.setG_snapWait (u : Nat) (r : BitVec 5) (v : Dword) : (s.setG u r v).snapWait = s.snapWait := rfl
@[simp] theorem State.setG_snapTags (u : Nat) (r : BitVec 5) (v : Dword) : (s.setG u r v).snapTags = s.snapTags := rfl
@[simp] theorem State.setG_rails (u : Nat) (r : BitVec 5) (v : Dword) : (s.setG u r v).rails = s.rails := rfl
@[simp] theorem State.setG_railCmds (u : Nat) (r : BitVec 5) (v : Dword) : (s.setG u r v).railCmds = s.railCmds := rfl
@[simp] theorem State.setG_govs (u : Nat) (r : BitVec 5) (v : Dword) : (s.setG u r v).govs = s.govs := rfl
@[simp] theorem State.setG_spareTests (u : Nat) (r : BitVec 5) (v : Dword) : (s.setG u r v).spareTests = s.spareTests := rfl
@[simp] theorem State.setG_mgmtPorts (u : Nat) (r : BitVec 5) (v : Dword) : (s.setG u r v).mgmtPorts = s.mgmtPorts := rfl
@[simp] theorem State.setG_ptp (u : Nat) (r : BitVec 5) (v : Dword) : (s.setG u r v).ptp = s.ptp := rfl
@[simp] theorem State.setG_plainTx (u : Nat) (r : BitVec 5) (v : Dword) : (s.setG u r v).plainTx = s.plainTx := rfl
@[simp] theorem State.setG_todWait (u : Nat) (r : BitVec 5) (v : Dword) : (s.setG u r v).todWait = s.todWait := rfl
@[simp] theorem State.setG_dramPoison (u : Nat) (r : BitVec 5) (v : Dword) : (s.setG u r v).dramPoison = s.dramPoison := rfl
@[simp] theorem State.setG_chanTlb (u : Nat) (r : BitVec 5) (v : Dword) : (s.setG u r v).chanTlb = s.chanTlb := rfl
@[simp] theorem State.setG_routes (u : Nat) (r : BitVec 5) (v : Dword) : (s.setG u r v).routes = s.routes := rfl
@[simp] theorem State.setG_todFrac (u : Nat) (r : BitVec 5) (v : Dword) : (s.setG u r v).todFrac = s.todFrac := rfl

/-! ## setF -/

@[simp] theorem State.setF_pending (u : Nat) (r : BitVec 5) (v : Dword) : (s.setF u r v).pending = s.pending := rfl
@[simp] theorem State.setF_free (u : Nat) (r : BitVec 5) (v : Dword) : (s.setF u r v).free = s.free := rfl
@[simp] theorem State.setF_regs (u : Nat) (r : BitVec 5) (v : Dword) : (s.setF u r v).regs = s.regs := rfl
@[simp] theorem State.setF_shadows (u : Nat) (r : BitVec 5) (v : Dword) : (s.setF u r v).shadows = s.shadows := rfl
@[simp] theorem State.setF_mem (u : Nat) (r : BitVec 5) (v : Dword) : (s.setF u r v).mem = s.mem := rfl
@[simp] theorem State.setF_dram (u : Nat) (r : BitVec 5) (v : Dword) : (s.setF u r v).dram = s.dram := rfl
@[simp] theorem State.setF_poison (u : Nat) (r : BitVec 5) (v : Dword) : (s.setF u r v).poison = s.poison := rfl
@[simp] theorem State.setF_cores (u : Nat) (r : BitVec 5) (v : Dword) : (s.setF u r v).cores = s.cores := rfl
@[simp] theorem State.setF_dies (u : Nat) (r : BitVec 5) (v : Dword) : (s.setF u r v).dies = s.dies := rfl
@[simp] theorem State.setF_errs (u : Nat) (r : BitVec 5) (v : Dword) : (s.setF u r v).errs = s.errs := rfl
@[simp] theorem State.setF_images (u : Nat) (r : BitVec 5) (v : Dword) : (s.setF u r v).images = s.images := rfl
@[simp] theorem State.setF_held (u : Nat) (r : BitVec 5) (v : Dword) : (s.setF u r v).held = s.held := rfl
@[simp] theorem State.setF_moves (u : Nat) (r : BitVec 5) (v : Dword) : (s.setF u r v).moves = s.moves := rfl
@[simp] theorem State.setF_msgs (u : Nat) (r : BitVec 5) (v : Dword) : (s.setF u r v).msgs = s.msgs := rfl
@[simp] theorem State.setF_tod (u : Nat) (r : BitVec 5) (v : Dword) : (s.setF u r v).tod = s.tod := rfl
@[simp] theorem State.setF_elapsed (u : Nat) (r : BitVec 5) (v : Dword) : (s.setF u r v).elapsed = s.elapsed := rfl
@[simp] theorem State.setF_fuses (u : Nat) (r : BitVec 5) (v : Dword) : (s.setF u r v).fuses = s.fuses := rfl
@[simp] theorem State.setF_merges (u : Nat) (r : BitVec 5) (v : Dword) : (s.setF u r v).merges = s.merges := rfl
@[simp] theorem State.setF_dimm (u : Nat) (r : BitVec 5) (v : Dword) : (s.setF u r v).dimm = s.dimm := rfl
@[simp] theorem State.setF_ctls (u : Nat) (r : BitVec 5) (v : Dword) : (s.setF u r v).ctls = s.ctls := rfl
@[simp] theorem State.setF_ws (u : Nat) (r : BitVec 5) (v : Dword) : (s.setF u r v).ws = s.ws := rfl
@[simp] theorem State.setF_sct (u : Nat) (r : BitVec 5) (v : Dword) : (s.setF u r v).sct = s.sct := rfl
@[simp] theorem State.setF_sctMir (u : Nat) (r : BitVec 5) (v : Dword) : (s.setF u r v).sctMir = s.sctMir := rfl
@[simp] theorem State.setF_slots (u : Nat) (r : BitVec 5) (v : Dword) : (s.setF u r v).slots = s.slots := rfl
@[simp] theorem State.setF_slotsMir (u : Nat) (r : BitVec 5) (v : Dword) : (s.setF u r v).slotsMir = s.slotsMir := rfl
@[simp] theorem State.setF_xfers (u : Nat) (r : BitVec 5) (v : Dword) : (s.setF u r v).xfers = s.xfers := rfl
@[simp] theorem State.setF_aborts (u : Nat) (r : BitVec 5) (v : Dword) : (s.setF u r v).aborts = s.aborts := rfl
@[simp] theorem State.setF_unmirrored (u : Nat) (r : BitVec 5) (v : Dword) : (s.setF u r v).unmirrored = s.unmirrored := rfl
@[simp] theorem State.setF_conds (u : Nat) (r : BitVec 5) (v : Dword) : (s.setF u r v).conds = s.conds := rfl
@[simp] theorem State.setF_logins (u : Nat) (r : BitVec 5) (v : Dword) : (s.setF u r v).logins = s.logins := rfl
@[simp] theorem State.setF_ports (u : Nat) (r : BitVec 5) (v : Dword) : (s.setF u r v).ports = s.ports := rfl
@[simp] theorem State.setF_wire (u : Nat) (r : BitVec 5) (v : Dword) : (s.setF u r v).wire = s.wire := rfl
@[simp] theorem State.setF_engineFw (u : Nat) (r : BitVec 5) (v : Dword) : (s.setF u r v).engineFw = s.engineFw := rfl
@[simp] theorem State.setF_accFailed (u : Nat) (r : BitVec 5) (v : Dword) : (s.setF u r v).accFailed = s.accFailed := rfl
@[simp] theorem State.setF_drbgs (u : Nat) (r : BitVec 5) (v : Dword) : (s.setF u r v).drbgs = s.drbgs := rfl
@[simp] theorem State.setF_wrapKeys (u : Nat) (r : BitVec 5) (v : Dword) : (s.setF u r v).wrapKeys = s.wrapKeys := rfl
@[simp] theorem State.setF_serials (u : Nat) (r : BitVec 5) (v : Dword) : (s.setF u r v).serials = s.serials := rfl
@[simp] theorem State.setF_conts (u : Nat) (r : BitVec 5) (v : Dword) : (s.setF u r v).conts = s.conts := rfl
@[simp] theorem State.setF_chains (u : Nat) (r : BitVec 5) (v : Dword) : (s.setF u r v).chains = s.chains := rfl
@[simp] theorem State.setF_wsTests (u : Nat) (r : BitVec 5) (v : Dword) : (s.setF u r v).wsTests = s.wsTests := rfl
@[simp] theorem State.setF_vaultDead (u : Nat) (r : BitVec 5) (v : Dword) : (s.setF u r v).vaultDead = s.vaultDead := rfl
@[simp] theorem State.setF_live (u : Nat) (r : BitVec 5) (v : Dword) : (s.setF u r v).live = s.live := rfl
@[simp] theorem State.setF_unacked (u : Nat) (r : BitVec 5) (v : Dword) : (s.setF u r v).unacked = s.unacked := rfl
@[simp] theorem State.setF_injected (u : Nat) (r : BitVec 5) (v : Dword) : (s.setF u r v).injected = s.injected := rfl
@[simp] theorem State.setF_alive (u : Nat) (r : BitVec 5) (v : Dword) : (s.setF u r v).alive = s.alive := rfl
@[simp] theorem State.setF_chkstopN (u : Nat) (r : BitVec 5) (v : Dword) : (s.setF u r v).chkstopN = s.chkstopN := rfl
@[simp] theorem State.setF_plainDown (u : Nat) (r : BitVec 5) (v : Dword) : (s.setF u r v).plainDown = s.plainDown := rfl
@[simp] theorem State.setF_halted (u : Nat) (r : BitVec 5) (v : Dword) : (s.setF u r v).halted = s.halted := rfl
@[simp] theorem State.setF_passes (u : Nat) (r : BitVec 5) (v : Dword) : (s.setF u r v).passes = s.passes := rfl
@[simp] theorem State.setF_boot (u : Nat) (r : BitVec 5) (v : Dword) : (s.setF u r v).boot = s.boot := rfl
@[simp] theorem State.setF_powered (u : Nat) (r : BitVec 5) (v : Dword) : (s.setF u r v).powered = s.powered := rfl
@[simp] theorem State.setF_temps (u : Nat) (r : BitVec 5) (v : Dword) : (s.setF u r v).temps = s.temps := rfl
@[simp] theorem State.setF_vset (u : Nat) (r : BitVec 5) (v : Dword) : (s.setF u r v).vset = s.vset := rfl
@[simp] theorem State.setF_stretch (u : Nat) (r : BitVec 5) (v : Dword) : (s.setF u r v).stretch = s.stretch := rfl
@[simp] theorem State.setF_sessions (u : Nat) (r : BitVec 5) (v : Dword) : (s.setF u r v).sessions = s.sessions := rfl
@[simp] theorem State.setF_fspOut (u : Nat) (r : BitVec 5) (v : Dword) : (s.setF u r v).fspOut = s.fspOut := rfl
@[simp] theorem State.setF_load (u : Nat) (r : BitVec 5) (v : Dword) : (s.setF u r v).load = s.load := rfl
@[simp] theorem State.setF_fwLoaded (u : Nat) (r : BitVec 5) (v : Dword) : (s.setF u r v).fwLoaded = s.fwLoaded := rfl
@[simp] theorem State.setF_hostLoaded (u : Nat) (r : BitVec 5) (v : Dword) : (s.setF u r v).hostLoaded = s.hostLoaded := rfl
@[simp] theorem State.setF_lcRows (u : Nat) (r : BitVec 5) (v : Dword) : (s.setF u r v).lcRows = s.lcRows := rfl
@[simp] theorem State.setF_lcStep (u : Nat) (r : BitVec 5) (v : Dword) : (s.setF u r v).lcStep = s.lcStep := rfl
@[simp] theorem State.setF_owner (u : Nat) (r : BitVec 5) (v : Dword) : (s.setF u r v).owner = s.owner := rfl
@[simp] theorem State.setF_jtag (u : Nat) (r : BitVec 5) (v : Dword) : (s.setF u r v).jtag = s.jtag := rfl
@[simp] theorem State.setF_snapAt (u : Nat) (r : BitVec 5) (v : Dword) : (s.setF u r v).snapAt = s.snapAt := rfl
@[simp] theorem State.setF_snapTaken (u : Nat) (r : BitVec 5) (v : Dword) : (s.setF u r v).snapTaken = s.snapTaken := rfl
@[simp] theorem State.setF_snapWait (u : Nat) (r : BitVec 5) (v : Dword) : (s.setF u r v).snapWait = s.snapWait := rfl
@[simp] theorem State.setF_snapTags (u : Nat) (r : BitVec 5) (v : Dword) : (s.setF u r v).snapTags = s.snapTags := rfl
@[simp] theorem State.setF_rails (u : Nat) (r : BitVec 5) (v : Dword) : (s.setF u r v).rails = s.rails := rfl
@[simp] theorem State.setF_railCmds (u : Nat) (r : BitVec 5) (v : Dword) : (s.setF u r v).railCmds = s.railCmds := rfl
@[simp] theorem State.setF_govs (u : Nat) (r : BitVec 5) (v : Dword) : (s.setF u r v).govs = s.govs := rfl
@[simp] theorem State.setF_spareTests (u : Nat) (r : BitVec 5) (v : Dword) : (s.setF u r v).spareTests = s.spareTests := rfl
@[simp] theorem State.setF_mgmtPorts (u : Nat) (r : BitVec 5) (v : Dword) : (s.setF u r v).mgmtPorts = s.mgmtPorts := rfl
@[simp] theorem State.setF_ptp (u : Nat) (r : BitVec 5) (v : Dword) : (s.setF u r v).ptp = s.ptp := rfl
@[simp] theorem State.setF_plainTx (u : Nat) (r : BitVec 5) (v : Dword) : (s.setF u r v).plainTx = s.plainTx := rfl
@[simp] theorem State.setF_todWait (u : Nat) (r : BitVec 5) (v : Dword) : (s.setF u r v).todWait = s.todWait := rfl
@[simp] theorem State.setF_dramPoison (u : Nat) (r : BitVec 5) (v : Dword) : (s.setF u r v).dramPoison = s.dramPoison := rfl
@[simp] theorem State.setF_chanTlb (u : Nat) (r : BitVec 5) (v : Dword) : (s.setF u r v).chanTlb = s.chanTlb := rfl
@[simp] theorem State.setF_routes (u : Nat) (r : BitVec 5) (v : Dword) : (s.setF u r v).routes = s.routes := rfl
@[simp] theorem State.setF_todFrac (u : Nat) (r : BitVec 5) (v : Dword) : (s.setF u r v).todFrac = s.todFrac := rfl

/-! ## setPsw -/

@[simp] theorem State.setPsw_pending (u : Nat) (p : Psw) : (s.setPsw u p).pending = s.pending := rfl
@[simp] theorem State.setPsw_free (u : Nat) (p : Psw) : (s.setPsw u p).free = s.free := rfl
@[simp] theorem State.setPsw_regs (u : Nat) (p : Psw) : (s.setPsw u p).regs = s.regs := rfl
@[simp] theorem State.setPsw_shadows (u : Nat) (p : Psw) : (s.setPsw u p).shadows = s.shadows := rfl
@[simp] theorem State.setPsw_mem (u : Nat) (p : Psw) : (s.setPsw u p).mem = s.mem := rfl
@[simp] theorem State.setPsw_dram (u : Nat) (p : Psw) : (s.setPsw u p).dram = s.dram := rfl
@[simp] theorem State.setPsw_poison (u : Nat) (p : Psw) : (s.setPsw u p).poison = s.poison := rfl
@[simp] theorem State.setPsw_cores (u : Nat) (p : Psw) : (s.setPsw u p).cores = s.cores := rfl
@[simp] theorem State.setPsw_dies (u : Nat) (p : Psw) : (s.setPsw u p).dies = s.dies := rfl
@[simp] theorem State.setPsw_errs (u : Nat) (p : Psw) : (s.setPsw u p).errs = s.errs := rfl
@[simp] theorem State.setPsw_images (u : Nat) (p : Psw) : (s.setPsw u p).images = s.images := rfl
@[simp] theorem State.setPsw_held (u : Nat) (p : Psw) : (s.setPsw u p).held = s.held := rfl
@[simp] theorem State.setPsw_moves (u : Nat) (p : Psw) : (s.setPsw u p).moves = s.moves := rfl
@[simp] theorem State.setPsw_msgs (u : Nat) (p : Psw) : (s.setPsw u p).msgs = s.msgs := rfl
@[simp] theorem State.setPsw_tod (u : Nat) (p : Psw) : (s.setPsw u p).tod = s.tod := rfl
@[simp] theorem State.setPsw_elapsed (u : Nat) (p : Psw) : (s.setPsw u p).elapsed = s.elapsed := rfl
@[simp] theorem State.setPsw_fuses (u : Nat) (p : Psw) : (s.setPsw u p).fuses = s.fuses := rfl
@[simp] theorem State.setPsw_merges (u : Nat) (p : Psw) : (s.setPsw u p).merges = s.merges := rfl
@[simp] theorem State.setPsw_dimm (u : Nat) (p : Psw) : (s.setPsw u p).dimm = s.dimm := rfl
@[simp] theorem State.setPsw_ctls (u : Nat) (p : Psw) : (s.setPsw u p).ctls = s.ctls := rfl
@[simp] theorem State.setPsw_ws (u : Nat) (p : Psw) : (s.setPsw u p).ws = s.ws := rfl
@[simp] theorem State.setPsw_sct (u : Nat) (p : Psw) : (s.setPsw u p).sct = s.sct := rfl
@[simp] theorem State.setPsw_sctMir (u : Nat) (p : Psw) : (s.setPsw u p).sctMir = s.sctMir := rfl
@[simp] theorem State.setPsw_slots (u : Nat) (p : Psw) : (s.setPsw u p).slots = s.slots := rfl
@[simp] theorem State.setPsw_slotsMir (u : Nat) (p : Psw) : (s.setPsw u p).slotsMir = s.slotsMir := rfl
@[simp] theorem State.setPsw_xfers (u : Nat) (p : Psw) : (s.setPsw u p).xfers = s.xfers := rfl
@[simp] theorem State.setPsw_aborts (u : Nat) (p : Psw) : (s.setPsw u p).aborts = s.aborts := rfl
@[simp] theorem State.setPsw_unmirrored (u : Nat) (p : Psw) : (s.setPsw u p).unmirrored = s.unmirrored := rfl
@[simp] theorem State.setPsw_conds (u : Nat) (p : Psw) : (s.setPsw u p).conds = s.conds := rfl
@[simp] theorem State.setPsw_logins (u : Nat) (p : Psw) : (s.setPsw u p).logins = s.logins := rfl
@[simp] theorem State.setPsw_ports (u : Nat) (p : Psw) : (s.setPsw u p).ports = s.ports := rfl
@[simp] theorem State.setPsw_wire (u : Nat) (p : Psw) : (s.setPsw u p).wire = s.wire := rfl
@[simp] theorem State.setPsw_engineFw (u : Nat) (p : Psw) : (s.setPsw u p).engineFw = s.engineFw := rfl
@[simp] theorem State.setPsw_accFailed (u : Nat) (p : Psw) : (s.setPsw u p).accFailed = s.accFailed := rfl
@[simp] theorem State.setPsw_drbgs (u : Nat) (p : Psw) : (s.setPsw u p).drbgs = s.drbgs := rfl
@[simp] theorem State.setPsw_wrapKeys (u : Nat) (p : Psw) : (s.setPsw u p).wrapKeys = s.wrapKeys := rfl
@[simp] theorem State.setPsw_serials (u : Nat) (p : Psw) : (s.setPsw u p).serials = s.serials := rfl
@[simp] theorem State.setPsw_conts (u : Nat) (p : Psw) : (s.setPsw u p).conts = s.conts := rfl
@[simp] theorem State.setPsw_chains (u : Nat) (p : Psw) : (s.setPsw u p).chains = s.chains := rfl
@[simp] theorem State.setPsw_wsTests (u : Nat) (p : Psw) : (s.setPsw u p).wsTests = s.wsTests := rfl
@[simp] theorem State.setPsw_vaultDead (u : Nat) (p : Psw) : (s.setPsw u p).vaultDead = s.vaultDead := rfl
@[simp] theorem State.setPsw_live (u : Nat) (p : Psw) : (s.setPsw u p).live = s.live := rfl
@[simp] theorem State.setPsw_unacked (u : Nat) (p : Psw) : (s.setPsw u p).unacked = s.unacked := rfl
@[simp] theorem State.setPsw_injected (u : Nat) (p : Psw) : (s.setPsw u p).injected = s.injected := rfl
@[simp] theorem State.setPsw_alive (u : Nat) (p : Psw) : (s.setPsw u p).alive = s.alive := rfl
@[simp] theorem State.setPsw_chkstopN (u : Nat) (p : Psw) : (s.setPsw u p).chkstopN = s.chkstopN := rfl
@[simp] theorem State.setPsw_plainDown (u : Nat) (p : Psw) : (s.setPsw u p).plainDown = s.plainDown := rfl
@[simp] theorem State.setPsw_halted (u : Nat) (p : Psw) : (s.setPsw u p).halted = s.halted := rfl
@[simp] theorem State.setPsw_passes (u : Nat) (p : Psw) : (s.setPsw u p).passes = s.passes := rfl
@[simp] theorem State.setPsw_boot (u : Nat) (p : Psw) : (s.setPsw u p).boot = s.boot := rfl
@[simp] theorem State.setPsw_powered (u : Nat) (p : Psw) : (s.setPsw u p).powered = s.powered := rfl
@[simp] theorem State.setPsw_temps (u : Nat) (p : Psw) : (s.setPsw u p).temps = s.temps := rfl
@[simp] theorem State.setPsw_vset (u : Nat) (p : Psw) : (s.setPsw u p).vset = s.vset := rfl
@[simp] theorem State.setPsw_stretch (u : Nat) (p : Psw) : (s.setPsw u p).stretch = s.stretch := rfl
@[simp] theorem State.setPsw_sessions (u : Nat) (p : Psw) : (s.setPsw u p).sessions = s.sessions := rfl
@[simp] theorem State.setPsw_fspOut (u : Nat) (p : Psw) : (s.setPsw u p).fspOut = s.fspOut := rfl
@[simp] theorem State.setPsw_load (u : Nat) (p : Psw) : (s.setPsw u p).load = s.load := rfl
@[simp] theorem State.setPsw_fwLoaded (u : Nat) (p : Psw) : (s.setPsw u p).fwLoaded = s.fwLoaded := rfl
@[simp] theorem State.setPsw_hostLoaded (u : Nat) (p : Psw) : (s.setPsw u p).hostLoaded = s.hostLoaded := rfl
@[simp] theorem State.setPsw_lcRows (u : Nat) (p : Psw) : (s.setPsw u p).lcRows = s.lcRows := rfl
@[simp] theorem State.setPsw_lcStep (u : Nat) (p : Psw) : (s.setPsw u p).lcStep = s.lcStep := rfl
@[simp] theorem State.setPsw_owner (u : Nat) (p : Psw) : (s.setPsw u p).owner = s.owner := rfl
@[simp] theorem State.setPsw_jtag (u : Nat) (p : Psw) : (s.setPsw u p).jtag = s.jtag := rfl
@[simp] theorem State.setPsw_snapAt (u : Nat) (p : Psw) : (s.setPsw u p).snapAt = s.snapAt := rfl
@[simp] theorem State.setPsw_snapTaken (u : Nat) (p : Psw) : (s.setPsw u p).snapTaken = s.snapTaken := rfl
@[simp] theorem State.setPsw_snapWait (u : Nat) (p : Psw) : (s.setPsw u p).snapWait = s.snapWait := rfl
@[simp] theorem State.setPsw_snapTags (u : Nat) (p : Psw) : (s.setPsw u p).snapTags = s.snapTags := rfl
@[simp] theorem State.setPsw_rails (u : Nat) (p : Psw) : (s.setPsw u p).rails = s.rails := rfl
@[simp] theorem State.setPsw_railCmds (u : Nat) (p : Psw) : (s.setPsw u p).railCmds = s.railCmds := rfl
@[simp] theorem State.setPsw_govs (u : Nat) (p : Psw) : (s.setPsw u p).govs = s.govs := rfl
@[simp] theorem State.setPsw_spareTests (u : Nat) (p : Psw) : (s.setPsw u p).spareTests = s.spareTests := rfl
@[simp] theorem State.setPsw_mgmtPorts (u : Nat) (p : Psw) : (s.setPsw u p).mgmtPorts = s.mgmtPorts := rfl
@[simp] theorem State.setPsw_ptp (u : Nat) (p : Psw) : (s.setPsw u p).ptp = s.ptp := rfl
@[simp] theorem State.setPsw_plainTx (u : Nat) (p : Psw) : (s.setPsw u p).plainTx = s.plainTx := rfl
@[simp] theorem State.setPsw_todWait (u : Nat) (p : Psw) : (s.setPsw u p).todWait = s.todWait := rfl
@[simp] theorem State.setPsw_dramPoison (u : Nat) (p : Psw) : (s.setPsw u p).dramPoison = s.dramPoison := rfl
@[simp] theorem State.setPsw_chanTlb (u : Nat) (p : Psw) : (s.setPsw u p).chanTlb = s.chanTlb := rfl
@[simp] theorem State.setPsw_routes (u : Nat) (p : Psw) : (s.setPsw u p).routes = s.routes := rfl
@[simp] theorem State.setPsw_todFrac (u : Nat) (p : Psw) : (s.setPsw u p).todFrac = s.todFrac := rfl

/-! ## setIa -/

@[simp] theorem State.setIa_pending (u : Nat) (a : Dword) : (s.setIa u a).pending = s.pending := rfl
@[simp] theorem State.setIa_free (u : Nat) (a : Dword) : (s.setIa u a).free = s.free := rfl
@[simp] theorem State.setIa_regs (u : Nat) (a : Dword) : (s.setIa u a).regs = s.regs := rfl
@[simp] theorem State.setIa_shadows (u : Nat) (a : Dword) : (s.setIa u a).shadows = s.shadows := rfl
@[simp] theorem State.setIa_mem (u : Nat) (a : Dword) : (s.setIa u a).mem = s.mem := rfl
@[simp] theorem State.setIa_dram (u : Nat) (a : Dword) : (s.setIa u a).dram = s.dram := rfl
@[simp] theorem State.setIa_poison (u : Nat) (a : Dword) : (s.setIa u a).poison = s.poison := rfl
@[simp] theorem State.setIa_cores (u : Nat) (a : Dword) : (s.setIa u a).cores = s.cores := rfl
@[simp] theorem State.setIa_dies (u : Nat) (a : Dword) : (s.setIa u a).dies = s.dies := rfl
@[simp] theorem State.setIa_errs (u : Nat) (a : Dword) : (s.setIa u a).errs = s.errs := rfl
@[simp] theorem State.setIa_images (u : Nat) (a : Dword) : (s.setIa u a).images = s.images := rfl
@[simp] theorem State.setIa_held (u : Nat) (a : Dword) : (s.setIa u a).held = s.held := rfl
@[simp] theorem State.setIa_moves (u : Nat) (a : Dword) : (s.setIa u a).moves = s.moves := rfl
@[simp] theorem State.setIa_msgs (u : Nat) (a : Dword) : (s.setIa u a).msgs = s.msgs := rfl
@[simp] theorem State.setIa_tod (u : Nat) (a : Dword) : (s.setIa u a).tod = s.tod := rfl
@[simp] theorem State.setIa_elapsed (u : Nat) (a : Dword) : (s.setIa u a).elapsed = s.elapsed := rfl
@[simp] theorem State.setIa_fuses (u : Nat) (a : Dword) : (s.setIa u a).fuses = s.fuses := rfl
@[simp] theorem State.setIa_merges (u : Nat) (a : Dword) : (s.setIa u a).merges = s.merges := rfl
@[simp] theorem State.setIa_dimm (u : Nat) (a : Dword) : (s.setIa u a).dimm = s.dimm := rfl
@[simp] theorem State.setIa_ctls (u : Nat) (a : Dword) : (s.setIa u a).ctls = s.ctls := rfl
@[simp] theorem State.setIa_ws (u : Nat) (a : Dword) : (s.setIa u a).ws = s.ws := rfl
@[simp] theorem State.setIa_sct (u : Nat) (a : Dword) : (s.setIa u a).sct = s.sct := rfl
@[simp] theorem State.setIa_sctMir (u : Nat) (a : Dword) : (s.setIa u a).sctMir = s.sctMir := rfl
@[simp] theorem State.setIa_slots (u : Nat) (a : Dword) : (s.setIa u a).slots = s.slots := rfl
@[simp] theorem State.setIa_slotsMir (u : Nat) (a : Dword) : (s.setIa u a).slotsMir = s.slotsMir := rfl
@[simp] theorem State.setIa_xfers (u : Nat) (a : Dword) : (s.setIa u a).xfers = s.xfers := rfl
@[simp] theorem State.setIa_aborts (u : Nat) (a : Dword) : (s.setIa u a).aborts = s.aborts := rfl
@[simp] theorem State.setIa_unmirrored (u : Nat) (a : Dword) : (s.setIa u a).unmirrored = s.unmirrored := rfl
@[simp] theorem State.setIa_conds (u : Nat) (a : Dword) : (s.setIa u a).conds = s.conds := rfl
@[simp] theorem State.setIa_logins (u : Nat) (a : Dword) : (s.setIa u a).logins = s.logins := rfl
@[simp] theorem State.setIa_ports (u : Nat) (a : Dword) : (s.setIa u a).ports = s.ports := rfl
@[simp] theorem State.setIa_wire (u : Nat) (a : Dword) : (s.setIa u a).wire = s.wire := rfl
@[simp] theorem State.setIa_engineFw (u : Nat) (a : Dword) : (s.setIa u a).engineFw = s.engineFw := rfl
@[simp] theorem State.setIa_accFailed (u : Nat) (a : Dword) : (s.setIa u a).accFailed = s.accFailed := rfl
@[simp] theorem State.setIa_drbgs (u : Nat) (a : Dword) : (s.setIa u a).drbgs = s.drbgs := rfl
@[simp] theorem State.setIa_wrapKeys (u : Nat) (a : Dword) : (s.setIa u a).wrapKeys = s.wrapKeys := rfl
@[simp] theorem State.setIa_serials (u : Nat) (a : Dword) : (s.setIa u a).serials = s.serials := rfl
@[simp] theorem State.setIa_conts (u : Nat) (a : Dword) : (s.setIa u a).conts = s.conts := rfl
@[simp] theorem State.setIa_chains (u : Nat) (a : Dword) : (s.setIa u a).chains = s.chains := rfl
@[simp] theorem State.setIa_wsTests (u : Nat) (a : Dword) : (s.setIa u a).wsTests = s.wsTests := rfl
@[simp] theorem State.setIa_vaultDead (u : Nat) (a : Dword) : (s.setIa u a).vaultDead = s.vaultDead := rfl
@[simp] theorem State.setIa_live (u : Nat) (a : Dword) : (s.setIa u a).live = s.live := rfl
@[simp] theorem State.setIa_unacked (u : Nat) (a : Dword) : (s.setIa u a).unacked = s.unacked := rfl
@[simp] theorem State.setIa_injected (u : Nat) (a : Dword) : (s.setIa u a).injected = s.injected := rfl
@[simp] theorem State.setIa_alive (u : Nat) (a : Dword) : (s.setIa u a).alive = s.alive := rfl
@[simp] theorem State.setIa_chkstopN (u : Nat) (a : Dword) : (s.setIa u a).chkstopN = s.chkstopN := rfl
@[simp] theorem State.setIa_plainDown (u : Nat) (a : Dword) : (s.setIa u a).plainDown = s.plainDown := rfl
@[simp] theorem State.setIa_halted (u : Nat) (a : Dword) : (s.setIa u a).halted = s.halted := rfl
@[simp] theorem State.setIa_passes (u : Nat) (a : Dword) : (s.setIa u a).passes = s.passes := rfl
@[simp] theorem State.setIa_boot (u : Nat) (a : Dword) : (s.setIa u a).boot = s.boot := rfl
@[simp] theorem State.setIa_powered (u : Nat) (a : Dword) : (s.setIa u a).powered = s.powered := rfl
@[simp] theorem State.setIa_temps (u : Nat) (a : Dword) : (s.setIa u a).temps = s.temps := rfl
@[simp] theorem State.setIa_vset (u : Nat) (a : Dword) : (s.setIa u a).vset = s.vset := rfl
@[simp] theorem State.setIa_stretch (u : Nat) (a : Dword) : (s.setIa u a).stretch = s.stretch := rfl
@[simp] theorem State.setIa_sessions (u : Nat) (a : Dword) : (s.setIa u a).sessions = s.sessions := rfl
@[simp] theorem State.setIa_fspOut (u : Nat) (a : Dword) : (s.setIa u a).fspOut = s.fspOut := rfl
@[simp] theorem State.setIa_load (u : Nat) (a : Dword) : (s.setIa u a).load = s.load := rfl
@[simp] theorem State.setIa_fwLoaded (u : Nat) (a : Dword) : (s.setIa u a).fwLoaded = s.fwLoaded := rfl
@[simp] theorem State.setIa_hostLoaded (u : Nat) (a : Dword) : (s.setIa u a).hostLoaded = s.hostLoaded := rfl
@[simp] theorem State.setIa_lcRows (u : Nat) (a : Dword) : (s.setIa u a).lcRows = s.lcRows := rfl
@[simp] theorem State.setIa_lcStep (u : Nat) (a : Dword) : (s.setIa u a).lcStep = s.lcStep := rfl
@[simp] theorem State.setIa_owner (u : Nat) (a : Dword) : (s.setIa u a).owner = s.owner := rfl
@[simp] theorem State.setIa_jtag (u : Nat) (a : Dword) : (s.setIa u a).jtag = s.jtag := rfl
@[simp] theorem State.setIa_snapAt (u : Nat) (a : Dword) : (s.setIa u a).snapAt = s.snapAt := rfl
@[simp] theorem State.setIa_snapTaken (u : Nat) (a : Dword) : (s.setIa u a).snapTaken = s.snapTaken := rfl
@[simp] theorem State.setIa_snapWait (u : Nat) (a : Dword) : (s.setIa u a).snapWait = s.snapWait := rfl
@[simp] theorem State.setIa_snapTags (u : Nat) (a : Dword) : (s.setIa u a).snapTags = s.snapTags := rfl
@[simp] theorem State.setIa_rails (u : Nat) (a : Dword) : (s.setIa u a).rails = s.rails := rfl
@[simp] theorem State.setIa_railCmds (u : Nat) (a : Dword) : (s.setIa u a).railCmds = s.railCmds := rfl
@[simp] theorem State.setIa_govs (u : Nat) (a : Dword) : (s.setIa u a).govs = s.govs := rfl
@[simp] theorem State.setIa_spareTests (u : Nat) (a : Dword) : (s.setIa u a).spareTests = s.spareTests := rfl
@[simp] theorem State.setIa_mgmtPorts (u : Nat) (a : Dword) : (s.setIa u a).mgmtPorts = s.mgmtPorts := rfl
@[simp] theorem State.setIa_ptp (u : Nat) (a : Dword) : (s.setIa u a).ptp = s.ptp := rfl
@[simp] theorem State.setIa_plainTx (u : Nat) (a : Dword) : (s.setIa u a).plainTx = s.plainTx := rfl
@[simp] theorem State.setIa_todWait (u : Nat) (a : Dword) : (s.setIa u a).todWait = s.todWait := rfl
@[simp] theorem State.setIa_dramPoison (u : Nat) (a : Dword) : (s.setIa u a).dramPoison = s.dramPoison := rfl
@[simp] theorem State.setIa_chanTlb (u : Nat) (a : Dword) : (s.setIa u a).chanTlb = s.chanTlb := rfl
@[simp] theorem State.setIa_routes (u : Nat) (a : Dword) : (s.setIa u a).routes = s.routes := rfl
@[simp] theorem State.setIa_todFrac (u : Nat) (a : Dword) : (s.setIa u a).todFrac = s.todFrac := rfl

/-! ## setCc -/

@[simp] theorem State.setCc_pending (u : Nat) (cc : BitVec 2) : (s.setCc u cc).pending = s.pending := rfl
@[simp] theorem State.setCc_free (u : Nat) (cc : BitVec 2) : (s.setCc u cc).free = s.free := rfl
@[simp] theorem State.setCc_regs (u : Nat) (cc : BitVec 2) : (s.setCc u cc).regs = s.regs := rfl
@[simp] theorem State.setCc_shadows (u : Nat) (cc : BitVec 2) : (s.setCc u cc).shadows = s.shadows := rfl
@[simp] theorem State.setCc_mem (u : Nat) (cc : BitVec 2) : (s.setCc u cc).mem = s.mem := rfl
@[simp] theorem State.setCc_dram (u : Nat) (cc : BitVec 2) : (s.setCc u cc).dram = s.dram := rfl
@[simp] theorem State.setCc_poison (u : Nat) (cc : BitVec 2) : (s.setCc u cc).poison = s.poison := rfl
@[simp] theorem State.setCc_cores (u : Nat) (cc : BitVec 2) : (s.setCc u cc).cores = s.cores := rfl
@[simp] theorem State.setCc_dies (u : Nat) (cc : BitVec 2) : (s.setCc u cc).dies = s.dies := rfl
@[simp] theorem State.setCc_errs (u : Nat) (cc : BitVec 2) : (s.setCc u cc).errs = s.errs := rfl
@[simp] theorem State.setCc_images (u : Nat) (cc : BitVec 2) : (s.setCc u cc).images = s.images := rfl
@[simp] theorem State.setCc_held (u : Nat) (cc : BitVec 2) : (s.setCc u cc).held = s.held := rfl
@[simp] theorem State.setCc_moves (u : Nat) (cc : BitVec 2) : (s.setCc u cc).moves = s.moves := rfl
@[simp] theorem State.setCc_msgs (u : Nat) (cc : BitVec 2) : (s.setCc u cc).msgs = s.msgs := rfl
@[simp] theorem State.setCc_tod (u : Nat) (cc : BitVec 2) : (s.setCc u cc).tod = s.tod := rfl
@[simp] theorem State.setCc_elapsed (u : Nat) (cc : BitVec 2) : (s.setCc u cc).elapsed = s.elapsed := rfl
@[simp] theorem State.setCc_fuses (u : Nat) (cc : BitVec 2) : (s.setCc u cc).fuses = s.fuses := rfl
@[simp] theorem State.setCc_merges (u : Nat) (cc : BitVec 2) : (s.setCc u cc).merges = s.merges := rfl
@[simp] theorem State.setCc_dimm (u : Nat) (cc : BitVec 2) : (s.setCc u cc).dimm = s.dimm := rfl
@[simp] theorem State.setCc_ctls (u : Nat) (cc : BitVec 2) : (s.setCc u cc).ctls = s.ctls := rfl
@[simp] theorem State.setCc_ws (u : Nat) (cc : BitVec 2) : (s.setCc u cc).ws = s.ws := rfl
@[simp] theorem State.setCc_sct (u : Nat) (cc : BitVec 2) : (s.setCc u cc).sct = s.sct := rfl
@[simp] theorem State.setCc_sctMir (u : Nat) (cc : BitVec 2) : (s.setCc u cc).sctMir = s.sctMir := rfl
@[simp] theorem State.setCc_slots (u : Nat) (cc : BitVec 2) : (s.setCc u cc).slots = s.slots := rfl
@[simp] theorem State.setCc_slotsMir (u : Nat) (cc : BitVec 2) : (s.setCc u cc).slotsMir = s.slotsMir := rfl
@[simp] theorem State.setCc_xfers (u : Nat) (cc : BitVec 2) : (s.setCc u cc).xfers = s.xfers := rfl
@[simp] theorem State.setCc_aborts (u : Nat) (cc : BitVec 2) : (s.setCc u cc).aborts = s.aborts := rfl
@[simp] theorem State.setCc_unmirrored (u : Nat) (cc : BitVec 2) : (s.setCc u cc).unmirrored = s.unmirrored := rfl
@[simp] theorem State.setCc_conds (u : Nat) (cc : BitVec 2) : (s.setCc u cc).conds = s.conds := rfl
@[simp] theorem State.setCc_logins (u : Nat) (cc : BitVec 2) : (s.setCc u cc).logins = s.logins := rfl
@[simp] theorem State.setCc_ports (u : Nat) (cc : BitVec 2) : (s.setCc u cc).ports = s.ports := rfl
@[simp] theorem State.setCc_wire (u : Nat) (cc : BitVec 2) : (s.setCc u cc).wire = s.wire := rfl
@[simp] theorem State.setCc_engineFw (u : Nat) (cc : BitVec 2) : (s.setCc u cc).engineFw = s.engineFw := rfl
@[simp] theorem State.setCc_accFailed (u : Nat) (cc : BitVec 2) : (s.setCc u cc).accFailed = s.accFailed := rfl
@[simp] theorem State.setCc_drbgs (u : Nat) (cc : BitVec 2) : (s.setCc u cc).drbgs = s.drbgs := rfl
@[simp] theorem State.setCc_wrapKeys (u : Nat) (cc : BitVec 2) : (s.setCc u cc).wrapKeys = s.wrapKeys := rfl
@[simp] theorem State.setCc_serials (u : Nat) (cc : BitVec 2) : (s.setCc u cc).serials = s.serials := rfl
@[simp] theorem State.setCc_conts (u : Nat) (cc : BitVec 2) : (s.setCc u cc).conts = s.conts := rfl
@[simp] theorem State.setCc_chains (u : Nat) (cc : BitVec 2) : (s.setCc u cc).chains = s.chains := rfl
@[simp] theorem State.setCc_wsTests (u : Nat) (cc : BitVec 2) : (s.setCc u cc).wsTests = s.wsTests := rfl
@[simp] theorem State.setCc_vaultDead (u : Nat) (cc : BitVec 2) : (s.setCc u cc).vaultDead = s.vaultDead := rfl
@[simp] theorem State.setCc_live (u : Nat) (cc : BitVec 2) : (s.setCc u cc).live = s.live := rfl
@[simp] theorem State.setCc_unacked (u : Nat) (cc : BitVec 2) : (s.setCc u cc).unacked = s.unacked := rfl
@[simp] theorem State.setCc_injected (u : Nat) (cc : BitVec 2) : (s.setCc u cc).injected = s.injected := rfl
@[simp] theorem State.setCc_alive (u : Nat) (cc : BitVec 2) : (s.setCc u cc).alive = s.alive := rfl
@[simp] theorem State.setCc_chkstopN (u : Nat) (cc : BitVec 2) : (s.setCc u cc).chkstopN = s.chkstopN := rfl
@[simp] theorem State.setCc_plainDown (u : Nat) (cc : BitVec 2) : (s.setCc u cc).plainDown = s.plainDown := rfl
@[simp] theorem State.setCc_halted (u : Nat) (cc : BitVec 2) : (s.setCc u cc).halted = s.halted := rfl
@[simp] theorem State.setCc_passes (u : Nat) (cc : BitVec 2) : (s.setCc u cc).passes = s.passes := rfl
@[simp] theorem State.setCc_boot (u : Nat) (cc : BitVec 2) : (s.setCc u cc).boot = s.boot := rfl
@[simp] theorem State.setCc_powered (u : Nat) (cc : BitVec 2) : (s.setCc u cc).powered = s.powered := rfl
@[simp] theorem State.setCc_temps (u : Nat) (cc : BitVec 2) : (s.setCc u cc).temps = s.temps := rfl
@[simp] theorem State.setCc_vset (u : Nat) (cc : BitVec 2) : (s.setCc u cc).vset = s.vset := rfl
@[simp] theorem State.setCc_stretch (u : Nat) (cc : BitVec 2) : (s.setCc u cc).stretch = s.stretch := rfl
@[simp] theorem State.setCc_sessions (u : Nat) (cc : BitVec 2) : (s.setCc u cc).sessions = s.sessions := rfl
@[simp] theorem State.setCc_fspOut (u : Nat) (cc : BitVec 2) : (s.setCc u cc).fspOut = s.fspOut := rfl
@[simp] theorem State.setCc_load (u : Nat) (cc : BitVec 2) : (s.setCc u cc).load = s.load := rfl
@[simp] theorem State.setCc_fwLoaded (u : Nat) (cc : BitVec 2) : (s.setCc u cc).fwLoaded = s.fwLoaded := rfl
@[simp] theorem State.setCc_hostLoaded (u : Nat) (cc : BitVec 2) : (s.setCc u cc).hostLoaded = s.hostLoaded := rfl
@[simp] theorem State.setCc_lcRows (u : Nat) (cc : BitVec 2) : (s.setCc u cc).lcRows = s.lcRows := rfl
@[simp] theorem State.setCc_lcStep (u : Nat) (cc : BitVec 2) : (s.setCc u cc).lcStep = s.lcStep := rfl
@[simp] theorem State.setCc_owner (u : Nat) (cc : BitVec 2) : (s.setCc u cc).owner = s.owner := rfl
@[simp] theorem State.setCc_jtag (u : Nat) (cc : BitVec 2) : (s.setCc u cc).jtag = s.jtag := rfl
@[simp] theorem State.setCc_snapAt (u : Nat) (cc : BitVec 2) : (s.setCc u cc).snapAt = s.snapAt := rfl
@[simp] theorem State.setCc_snapTaken (u : Nat) (cc : BitVec 2) : (s.setCc u cc).snapTaken = s.snapTaken := rfl
@[simp] theorem State.setCc_snapWait (u : Nat) (cc : BitVec 2) : (s.setCc u cc).snapWait = s.snapWait := rfl
@[simp] theorem State.setCc_snapTags (u : Nat) (cc : BitVec 2) : (s.setCc u cc).snapTags = s.snapTags := rfl
@[simp] theorem State.setCc_rails (u : Nat) (cc : BitVec 2) : (s.setCc u cc).rails = s.rails := rfl
@[simp] theorem State.setCc_railCmds (u : Nat) (cc : BitVec 2) : (s.setCc u cc).railCmds = s.railCmds := rfl
@[simp] theorem State.setCc_govs (u : Nat) (cc : BitVec 2) : (s.setCc u cc).govs = s.govs := rfl
@[simp] theorem State.setCc_spareTests (u : Nat) (cc : BitVec 2) : (s.setCc u cc).spareTests = s.spareTests := rfl
@[simp] theorem State.setCc_mgmtPorts (u : Nat) (cc : BitVec 2) : (s.setCc u cc).mgmtPorts = s.mgmtPorts := rfl
@[simp] theorem State.setCc_ptp (u : Nat) (cc : BitVec 2) : (s.setCc u cc).ptp = s.ptp := rfl
@[simp] theorem State.setCc_plainTx (u : Nat) (cc : BitVec 2) : (s.setCc u cc).plainTx = s.plainTx := rfl
@[simp] theorem State.setCc_todWait (u : Nat) (cc : BitVec 2) : (s.setCc u cc).todWait = s.todWait := rfl
@[simp] theorem State.setCc_dramPoison (u : Nat) (cc : BitVec 2) : (s.setCc u cc).dramPoison = s.dramPoison := rfl
@[simp] theorem State.setCc_chanTlb (u : Nat) (cc : BitVec 2) : (s.setCc u cc).chanTlb = s.chanTlb := rfl
@[simp] theorem State.setCc_routes (u : Nat) (cc : BitVec 2) : (s.setCc u cc).routes = s.routes := rfl
@[simp] theorem State.setCc_todFrac (u : Nat) (cc : BitVec 2) : (s.setCc u cc).todFrac = s.todFrac := rfl

/-! ## writeC -/

@[simp] theorem State.writeC_pending (u n : Nat) (v : Dword) : (s.writeC u n v).pending = s.pending := rfl
@[simp] theorem State.writeC_free (u n : Nat) (v : Dword) : (s.writeC u n v).free = s.free := rfl
@[simp] theorem State.writeC_regs (u n : Nat) (v : Dword) : (s.writeC u n v).regs = s.regs := rfl
@[simp] theorem State.writeC_shadows (u n : Nat) (v : Dword) : (s.writeC u n v).shadows = s.shadows := rfl
@[simp] theorem State.writeC_mem (u n : Nat) (v : Dword) : (s.writeC u n v).mem = s.mem := rfl
@[simp] theorem State.writeC_dram (u n : Nat) (v : Dword) : (s.writeC u n v).dram = s.dram := rfl
@[simp] theorem State.writeC_poison (u n : Nat) (v : Dword) : (s.writeC u n v).poison = s.poison := rfl
@[simp] theorem State.writeC_cores (u n : Nat) (v : Dword) : (s.writeC u n v).cores = s.cores := rfl
@[simp] theorem State.writeC_dies (u n : Nat) (v : Dword) : (s.writeC u n v).dies = s.dies := rfl
@[simp] theorem State.writeC_errs (u n : Nat) (v : Dword) : (s.writeC u n v).errs = s.errs := rfl
@[simp] theorem State.writeC_images (u n : Nat) (v : Dword) : (s.writeC u n v).images = s.images := rfl
@[simp] theorem State.writeC_held (u n : Nat) (v : Dword) : (s.writeC u n v).held = s.held := rfl
@[simp] theorem State.writeC_moves (u n : Nat) (v : Dword) : (s.writeC u n v).moves = s.moves := rfl
@[simp] theorem State.writeC_msgs (u n : Nat) (v : Dword) : (s.writeC u n v).msgs = s.msgs := rfl
@[simp] theorem State.writeC_tod (u n : Nat) (v : Dword) : (s.writeC u n v).tod = s.tod := rfl
@[simp] theorem State.writeC_elapsed (u n : Nat) (v : Dword) : (s.writeC u n v).elapsed = s.elapsed := rfl
@[simp] theorem State.writeC_fuses (u n : Nat) (v : Dword) : (s.writeC u n v).fuses = s.fuses := rfl
@[simp] theorem State.writeC_merges (u n : Nat) (v : Dword) : (s.writeC u n v).merges = s.merges := rfl
@[simp] theorem State.writeC_dimm (u n : Nat) (v : Dword) : (s.writeC u n v).dimm = s.dimm := rfl
@[simp] theorem State.writeC_ctls (u n : Nat) (v : Dword) : (s.writeC u n v).ctls = s.ctls := rfl
@[simp] theorem State.writeC_ws (u n : Nat) (v : Dword) : (s.writeC u n v).ws = s.ws := rfl
@[simp] theorem State.writeC_sct (u n : Nat) (v : Dword) : (s.writeC u n v).sct = s.sct := rfl
@[simp] theorem State.writeC_sctMir (u n : Nat) (v : Dword) : (s.writeC u n v).sctMir = s.sctMir := rfl
@[simp] theorem State.writeC_slots (u n : Nat) (v : Dword) : (s.writeC u n v).slots = s.slots := rfl
@[simp] theorem State.writeC_slotsMir (u n : Nat) (v : Dword) : (s.writeC u n v).slotsMir = s.slotsMir := rfl
@[simp] theorem State.writeC_xfers (u n : Nat) (v : Dword) : (s.writeC u n v).xfers = s.xfers := rfl
@[simp] theorem State.writeC_aborts (u n : Nat) (v : Dword) : (s.writeC u n v).aborts = s.aborts := rfl
@[simp] theorem State.writeC_unmirrored (u n : Nat) (v : Dword) : (s.writeC u n v).unmirrored = s.unmirrored := rfl
@[simp] theorem State.writeC_conds (u n : Nat) (v : Dword) : (s.writeC u n v).conds = s.conds := rfl
@[simp] theorem State.writeC_logins (u n : Nat) (v : Dword) : (s.writeC u n v).logins = s.logins := rfl
@[simp] theorem State.writeC_ports (u n : Nat) (v : Dword) : (s.writeC u n v).ports = s.ports := rfl
@[simp] theorem State.writeC_wire (u n : Nat) (v : Dword) : (s.writeC u n v).wire = s.wire := rfl
@[simp] theorem State.writeC_engineFw (u n : Nat) (v : Dword) : (s.writeC u n v).engineFw = s.engineFw := rfl
@[simp] theorem State.writeC_accFailed (u n : Nat) (v : Dword) : (s.writeC u n v).accFailed = s.accFailed := rfl
@[simp] theorem State.writeC_drbgs (u n : Nat) (v : Dword) : (s.writeC u n v).drbgs = s.drbgs := rfl
@[simp] theorem State.writeC_wrapKeys (u n : Nat) (v : Dword) : (s.writeC u n v).wrapKeys = s.wrapKeys := rfl
@[simp] theorem State.writeC_serials (u n : Nat) (v : Dword) : (s.writeC u n v).serials = s.serials := rfl
@[simp] theorem State.writeC_conts (u n : Nat) (v : Dword) : (s.writeC u n v).conts = s.conts := rfl
@[simp] theorem State.writeC_chains (u n : Nat) (v : Dword) : (s.writeC u n v).chains = s.chains := rfl
@[simp] theorem State.writeC_wsTests (u n : Nat) (v : Dword) : (s.writeC u n v).wsTests = s.wsTests := rfl
@[simp] theorem State.writeC_vaultDead (u n : Nat) (v : Dword) : (s.writeC u n v).vaultDead = s.vaultDead := rfl
@[simp] theorem State.writeC_live (u n : Nat) (v : Dword) : (s.writeC u n v).live = s.live := rfl
@[simp] theorem State.writeC_unacked (u n : Nat) (v : Dword) : (s.writeC u n v).unacked = s.unacked := rfl
@[simp] theorem State.writeC_injected (u n : Nat) (v : Dword) : (s.writeC u n v).injected = s.injected := rfl
@[simp] theorem State.writeC_alive (u n : Nat) (v : Dword) : (s.writeC u n v).alive = s.alive := rfl
@[simp] theorem State.writeC_chkstopN (u n : Nat) (v : Dword) : (s.writeC u n v).chkstopN = s.chkstopN := rfl
@[simp] theorem State.writeC_plainDown (u n : Nat) (v : Dword) : (s.writeC u n v).plainDown = s.plainDown := rfl
@[simp] theorem State.writeC_halted (u n : Nat) (v : Dword) : (s.writeC u n v).halted = s.halted := rfl
@[simp] theorem State.writeC_passes (u n : Nat) (v : Dword) : (s.writeC u n v).passes = s.passes := rfl
@[simp] theorem State.writeC_boot (u n : Nat) (v : Dword) : (s.writeC u n v).boot = s.boot := rfl
@[simp] theorem State.writeC_powered (u n : Nat) (v : Dword) : (s.writeC u n v).powered = s.powered := rfl
@[simp] theorem State.writeC_temps (u n : Nat) (v : Dword) : (s.writeC u n v).temps = s.temps := rfl
@[simp] theorem State.writeC_vset (u n : Nat) (v : Dword) : (s.writeC u n v).vset = s.vset := rfl
@[simp] theorem State.writeC_stretch (u n : Nat) (v : Dword) : (s.writeC u n v).stretch = s.stretch := rfl
@[simp] theorem State.writeC_sessions (u n : Nat) (v : Dword) : (s.writeC u n v).sessions = s.sessions := rfl
@[simp] theorem State.writeC_fspOut (u n : Nat) (v : Dword) : (s.writeC u n v).fspOut = s.fspOut := rfl
@[simp] theorem State.writeC_load (u n : Nat) (v : Dword) : (s.writeC u n v).load = s.load := rfl
@[simp] theorem State.writeC_fwLoaded (u n : Nat) (v : Dword) : (s.writeC u n v).fwLoaded = s.fwLoaded := rfl
@[simp] theorem State.writeC_hostLoaded (u n : Nat) (v : Dword) : (s.writeC u n v).hostLoaded = s.hostLoaded := rfl
@[simp] theorem State.writeC_lcRows (u n : Nat) (v : Dword) : (s.writeC u n v).lcRows = s.lcRows := rfl
@[simp] theorem State.writeC_lcStep (u n : Nat) (v : Dword) : (s.writeC u n v).lcStep = s.lcStep := rfl
@[simp] theorem State.writeC_owner (u n : Nat) (v : Dword) : (s.writeC u n v).owner = s.owner := rfl
@[simp] theorem State.writeC_jtag (u n : Nat) (v : Dword) : (s.writeC u n v).jtag = s.jtag := rfl
@[simp] theorem State.writeC_snapAt (u n : Nat) (v : Dword) : (s.writeC u n v).snapAt = s.snapAt := rfl
@[simp] theorem State.writeC_snapTaken (u n : Nat) (v : Dword) : (s.writeC u n v).snapTaken = s.snapTaken := rfl
@[simp] theorem State.writeC_snapWait (u n : Nat) (v : Dword) : (s.writeC u n v).snapWait = s.snapWait := rfl
@[simp] theorem State.writeC_snapTags (u n : Nat) (v : Dword) : (s.writeC u n v).snapTags = s.snapTags := rfl
@[simp] theorem State.writeC_rails (u n : Nat) (v : Dword) : (s.writeC u n v).rails = s.rails := rfl
@[simp] theorem State.writeC_railCmds (u n : Nat) (v : Dword) : (s.writeC u n v).railCmds = s.railCmds := rfl
@[simp] theorem State.writeC_govs (u n : Nat) (v : Dword) : (s.writeC u n v).govs = s.govs := rfl
@[simp] theorem State.writeC_spareTests (u n : Nat) (v : Dword) : (s.writeC u n v).spareTests = s.spareTests := rfl
@[simp] theorem State.writeC_mgmtPorts (u n : Nat) (v : Dword) : (s.writeC u n v).mgmtPorts = s.mgmtPorts := rfl
@[simp] theorem State.writeC_ptp (u n : Nat) (v : Dword) : (s.writeC u n v).ptp = s.ptp := rfl
@[simp] theorem State.writeC_plainTx (u n : Nat) (v : Dword) : (s.writeC u n v).plainTx = s.plainTx := rfl
@[simp] theorem State.writeC_todWait (u n : Nat) (v : Dword) : (s.writeC u n v).todWait = s.todWait := rfl
@[simp] theorem State.writeC_dramPoison (u n : Nat) (v : Dword) : (s.writeC u n v).dramPoison = s.dramPoison := rfl
@[simp] theorem State.writeC_chanTlb (u n : Nat) (v : Dword) : (s.writeC u n v).chanTlb = s.chanTlb := rfl
@[simp] theorem State.writeC_routes (u n : Nat) (v : Dword) : (s.writeC u n v).routes = s.routes := rfl
@[simp] theorem State.writeC_todFrac (u n : Nat) (v : Dword) : (s.writeC u n v).todFrac = s.todFrac := rfl

/-! ## setReg -/

@[simp] theorem State.setReg_pending (a : Nat) (v : Dword) : (s.setReg a v).pending = s.pending := rfl
@[simp] theorem State.setReg_free (a : Nat) (v : Dword) : (s.setReg a v).free = s.free := rfl
@[simp] theorem State.setReg_units (a : Nat) (v : Dword) : (s.setReg a v).units = s.units := rfl
@[simp] theorem State.setReg_shadows (a : Nat) (v : Dword) : (s.setReg a v).shadows = s.shadows := rfl
@[simp] theorem State.setReg_mem (a : Nat) (v : Dword) : (s.setReg a v).mem = s.mem := rfl
@[simp] theorem State.setReg_dram (a : Nat) (v : Dword) : (s.setReg a v).dram = s.dram := rfl
@[simp] theorem State.setReg_poison (a : Nat) (v : Dword) : (s.setReg a v).poison = s.poison := rfl
@[simp] theorem State.setReg_cores (a : Nat) (v : Dword) : (s.setReg a v).cores = s.cores := rfl
@[simp] theorem State.setReg_dies (a : Nat) (v : Dword) : (s.setReg a v).dies = s.dies := rfl
@[simp] theorem State.setReg_errs (a : Nat) (v : Dword) : (s.setReg a v).errs = s.errs := rfl
@[simp] theorem State.setReg_images (a : Nat) (v : Dword) : (s.setReg a v).images = s.images := rfl
@[simp] theorem State.setReg_held (a : Nat) (v : Dword) : (s.setReg a v).held = s.held := rfl
@[simp] theorem State.setReg_moves (a : Nat) (v : Dword) : (s.setReg a v).moves = s.moves := rfl
@[simp] theorem State.setReg_msgs (a : Nat) (v : Dword) : (s.setReg a v).msgs = s.msgs := rfl
@[simp] theorem State.setReg_tod (a : Nat) (v : Dword) : (s.setReg a v).tod = s.tod := rfl
@[simp] theorem State.setReg_elapsed (a : Nat) (v : Dword) : (s.setReg a v).elapsed = s.elapsed := rfl
@[simp] theorem State.setReg_fuses (a : Nat) (v : Dword) : (s.setReg a v).fuses = s.fuses := rfl
@[simp] theorem State.setReg_merges (a : Nat) (v : Dword) : (s.setReg a v).merges = s.merges := rfl
@[simp] theorem State.setReg_dimm (a : Nat) (v : Dword) : (s.setReg a v).dimm = s.dimm := rfl
@[simp] theorem State.setReg_ctls (a : Nat) (v : Dword) : (s.setReg a v).ctls = s.ctls := rfl
@[simp] theorem State.setReg_ws (a : Nat) (v : Dword) : (s.setReg a v).ws = s.ws := rfl
@[simp] theorem State.setReg_sct (a : Nat) (v : Dword) : (s.setReg a v).sct = s.sct := rfl
@[simp] theorem State.setReg_sctMir (a : Nat) (v : Dword) : (s.setReg a v).sctMir = s.sctMir := rfl
@[simp] theorem State.setReg_slots (a : Nat) (v : Dword) : (s.setReg a v).slots = s.slots := rfl
@[simp] theorem State.setReg_slotsMir (a : Nat) (v : Dword) : (s.setReg a v).slotsMir = s.slotsMir := rfl
@[simp] theorem State.setReg_xfers (a : Nat) (v : Dword) : (s.setReg a v).xfers = s.xfers := rfl
@[simp] theorem State.setReg_aborts (a : Nat) (v : Dword) : (s.setReg a v).aborts = s.aborts := rfl
@[simp] theorem State.setReg_unmirrored (a : Nat) (v : Dword) : (s.setReg a v).unmirrored = s.unmirrored := rfl
@[simp] theorem State.setReg_conds (a : Nat) (v : Dword) : (s.setReg a v).conds = s.conds := rfl
@[simp] theorem State.setReg_logins (a : Nat) (v : Dword) : (s.setReg a v).logins = s.logins := rfl
@[simp] theorem State.setReg_ports (a : Nat) (v : Dword) : (s.setReg a v).ports = s.ports := rfl
@[simp] theorem State.setReg_wire (a : Nat) (v : Dword) : (s.setReg a v).wire = s.wire := rfl
@[simp] theorem State.setReg_engineFw (a : Nat) (v : Dword) : (s.setReg a v).engineFw = s.engineFw := rfl
@[simp] theorem State.setReg_accFailed (a : Nat) (v : Dword) : (s.setReg a v).accFailed = s.accFailed := rfl
@[simp] theorem State.setReg_drbgs (a : Nat) (v : Dword) : (s.setReg a v).drbgs = s.drbgs := rfl
@[simp] theorem State.setReg_wrapKeys (a : Nat) (v : Dword) : (s.setReg a v).wrapKeys = s.wrapKeys := rfl
@[simp] theorem State.setReg_serials (a : Nat) (v : Dword) : (s.setReg a v).serials = s.serials := rfl
@[simp] theorem State.setReg_conts (a : Nat) (v : Dword) : (s.setReg a v).conts = s.conts := rfl
@[simp] theorem State.setReg_chains (a : Nat) (v : Dword) : (s.setReg a v).chains = s.chains := rfl
@[simp] theorem State.setReg_wsTests (a : Nat) (v : Dword) : (s.setReg a v).wsTests = s.wsTests := rfl
@[simp] theorem State.setReg_vaultDead (a : Nat) (v : Dword) : (s.setReg a v).vaultDead = s.vaultDead := rfl
@[simp] theorem State.setReg_live (a : Nat) (v : Dword) : (s.setReg a v).live = s.live := rfl
@[simp] theorem State.setReg_unacked (a : Nat) (v : Dword) : (s.setReg a v).unacked = s.unacked := rfl
@[simp] theorem State.setReg_injected (a : Nat) (v : Dword) : (s.setReg a v).injected = s.injected := rfl
@[simp] theorem State.setReg_alive (a : Nat) (v : Dword) : (s.setReg a v).alive = s.alive := rfl
@[simp] theorem State.setReg_chkstopN (a : Nat) (v : Dword) : (s.setReg a v).chkstopN = s.chkstopN := rfl
@[simp] theorem State.setReg_plainDown (a : Nat) (v : Dword) : (s.setReg a v).plainDown = s.plainDown := rfl
@[simp] theorem State.setReg_halted (a : Nat) (v : Dword) : (s.setReg a v).halted = s.halted := rfl
@[simp] theorem State.setReg_passes (a : Nat) (v : Dword) : (s.setReg a v).passes = s.passes := rfl
@[simp] theorem State.setReg_boot (a : Nat) (v : Dword) : (s.setReg a v).boot = s.boot := rfl
@[simp] theorem State.setReg_powered (a : Nat) (v : Dword) : (s.setReg a v).powered = s.powered := rfl
@[simp] theorem State.setReg_temps (a : Nat) (v : Dword) : (s.setReg a v).temps = s.temps := rfl
@[simp] theorem State.setReg_vset (a : Nat) (v : Dword) : (s.setReg a v).vset = s.vset := rfl
@[simp] theorem State.setReg_stretch (a : Nat) (v : Dword) : (s.setReg a v).stretch = s.stretch := rfl
@[simp] theorem State.setReg_sessions (a : Nat) (v : Dword) : (s.setReg a v).sessions = s.sessions := rfl
@[simp] theorem State.setReg_fspOut (a : Nat) (v : Dword) : (s.setReg a v).fspOut = s.fspOut := rfl
@[simp] theorem State.setReg_load (a : Nat) (v : Dword) : (s.setReg a v).load = s.load := rfl
@[simp] theorem State.setReg_fwLoaded (a : Nat) (v : Dword) : (s.setReg a v).fwLoaded = s.fwLoaded := rfl
@[simp] theorem State.setReg_hostLoaded (a : Nat) (v : Dword) : (s.setReg a v).hostLoaded = s.hostLoaded := rfl
@[simp] theorem State.setReg_lcRows (a : Nat) (v : Dword) : (s.setReg a v).lcRows = s.lcRows := rfl
@[simp] theorem State.setReg_lcStep (a : Nat) (v : Dword) : (s.setReg a v).lcStep = s.lcStep := rfl
@[simp] theorem State.setReg_owner (a : Nat) (v : Dword) : (s.setReg a v).owner = s.owner := rfl
@[simp] theorem State.setReg_jtag (a : Nat) (v : Dword) : (s.setReg a v).jtag = s.jtag := rfl
@[simp] theorem State.setReg_snapAt (a : Nat) (v : Dword) : (s.setReg a v).snapAt = s.snapAt := rfl
@[simp] theorem State.setReg_snapTaken (a : Nat) (v : Dword) : (s.setReg a v).snapTaken = s.snapTaken := rfl
@[simp] theorem State.setReg_snapWait (a : Nat) (v : Dword) : (s.setReg a v).snapWait = s.snapWait := rfl
@[simp] theorem State.setReg_snapTags (a : Nat) (v : Dword) : (s.setReg a v).snapTags = s.snapTags := rfl
@[simp] theorem State.setReg_rails (a : Nat) (v : Dword) : (s.setReg a v).rails = s.rails := rfl
@[simp] theorem State.setReg_railCmds (a : Nat) (v : Dword) : (s.setReg a v).railCmds = s.railCmds := rfl
@[simp] theorem State.setReg_govs (a : Nat) (v : Dword) : (s.setReg a v).govs = s.govs := rfl
@[simp] theorem State.setReg_spareTests (a : Nat) (v : Dword) : (s.setReg a v).spareTests = s.spareTests := rfl
@[simp] theorem State.setReg_mgmtPorts (a : Nat) (v : Dword) : (s.setReg a v).mgmtPorts = s.mgmtPorts := rfl
@[simp] theorem State.setReg_ptp (a : Nat) (v : Dword) : (s.setReg a v).ptp = s.ptp := rfl
@[simp] theorem State.setReg_plainTx (a : Nat) (v : Dword) : (s.setReg a v).plainTx = s.plainTx := rfl
@[simp] theorem State.setReg_todWait (a : Nat) (v : Dword) : (s.setReg a v).todWait = s.todWait := rfl
@[simp] theorem State.setReg_dramPoison (a : Nat) (v : Dword) : (s.setReg a v).dramPoison = s.dramPoison := rfl
@[simp] theorem State.setReg_chanTlb (a : Nat) (v : Dword) : (s.setReg a v).chanTlb = s.chanTlb := rfl
@[simp] theorem State.setReg_routes (a : Nat) (v : Dword) : (s.setReg a v).routes = s.routes := rfl
@[simp] theorem State.setReg_todFrac (a : Nat) (v : Dword) : (s.setReg a v).todFrac = s.todFrac := rfl

/-! ## putBytes -/

@[simp] theorem State.putBytes_pending (a : Nat) (b : List Byte) : (s.putBytes a b).pending = s.pending := rfl
@[simp] theorem State.putBytes_free (a : Nat) (b : List Byte) : (s.putBytes a b).free = s.free := rfl
@[simp] theorem State.putBytes_units (a : Nat) (b : List Byte) : (s.putBytes a b).units = s.units := rfl
@[simp] theorem State.putBytes_regs (a : Nat) (b : List Byte) : (s.putBytes a b).regs = s.regs := rfl
@[simp] theorem State.putBytes_shadows (a : Nat) (b : List Byte) : (s.putBytes a b).shadows = s.shadows := rfl
@[simp] theorem State.putBytes_dram (a : Nat) (b : List Byte) : (s.putBytes a b).dram = s.dram := rfl
@[simp] theorem State.putBytes_poison (a : Nat) (b : List Byte) : (s.putBytes a b).poison = s.poison := rfl
@[simp] theorem State.putBytes_cores (a : Nat) (b : List Byte) : (s.putBytes a b).cores = s.cores := rfl
@[simp] theorem State.putBytes_dies (a : Nat) (b : List Byte) : (s.putBytes a b).dies = s.dies := rfl
@[simp] theorem State.putBytes_errs (a : Nat) (b : List Byte) : (s.putBytes a b).errs = s.errs := rfl
@[simp] theorem State.putBytes_images (a : Nat) (b : List Byte) : (s.putBytes a b).images = s.images := rfl
@[simp] theorem State.putBytes_held (a : Nat) (b : List Byte) : (s.putBytes a b).held = s.held := rfl
@[simp] theorem State.putBytes_moves (a : Nat) (b : List Byte) : (s.putBytes a b).moves = s.moves := rfl
@[simp] theorem State.putBytes_msgs (a : Nat) (b : List Byte) : (s.putBytes a b).msgs = s.msgs := rfl
@[simp] theorem State.putBytes_tod (a : Nat) (b : List Byte) : (s.putBytes a b).tod = s.tod := rfl
@[simp] theorem State.putBytes_elapsed (a : Nat) (b : List Byte) : (s.putBytes a b).elapsed = s.elapsed := rfl
@[simp] theorem State.putBytes_fuses (a : Nat) (b : List Byte) : (s.putBytes a b).fuses = s.fuses := rfl
@[simp] theorem State.putBytes_merges (a : Nat) (b : List Byte) : (s.putBytes a b).merges = s.merges := rfl
@[simp] theorem State.putBytes_dimm (a : Nat) (b : List Byte) : (s.putBytes a b).dimm = s.dimm := rfl
@[simp] theorem State.putBytes_ctls (a : Nat) (b : List Byte) : (s.putBytes a b).ctls = s.ctls := rfl
@[simp] theorem State.putBytes_ws (a : Nat) (b : List Byte) : (s.putBytes a b).ws = s.ws := rfl
@[simp] theorem State.putBytes_sct (a : Nat) (b : List Byte) : (s.putBytes a b).sct = s.sct := rfl
@[simp] theorem State.putBytes_sctMir (a : Nat) (b : List Byte) : (s.putBytes a b).sctMir = s.sctMir := rfl
@[simp] theorem State.putBytes_slots (a : Nat) (b : List Byte) : (s.putBytes a b).slots = s.slots := rfl
@[simp] theorem State.putBytes_slotsMir (a : Nat) (b : List Byte) : (s.putBytes a b).slotsMir = s.slotsMir := rfl
@[simp] theorem State.putBytes_xfers (a : Nat) (b : List Byte) : (s.putBytes a b).xfers = s.xfers := rfl
@[simp] theorem State.putBytes_aborts (a : Nat) (b : List Byte) : (s.putBytes a b).aborts = s.aborts := rfl
@[simp] theorem State.putBytes_unmirrored (a : Nat) (b : List Byte) : (s.putBytes a b).unmirrored = s.unmirrored := rfl
@[simp] theorem State.putBytes_conds (a : Nat) (b : List Byte) : (s.putBytes a b).conds = s.conds := rfl
@[simp] theorem State.putBytes_logins (a : Nat) (b : List Byte) : (s.putBytes a b).logins = s.logins := rfl
@[simp] theorem State.putBytes_ports (a : Nat) (b : List Byte) : (s.putBytes a b).ports = s.ports := rfl
@[simp] theorem State.putBytes_wire (a : Nat) (b : List Byte) : (s.putBytes a b).wire = s.wire := rfl
@[simp] theorem State.putBytes_engineFw (a : Nat) (b : List Byte) : (s.putBytes a b).engineFw = s.engineFw := rfl
@[simp] theorem State.putBytes_accFailed (a : Nat) (b : List Byte) : (s.putBytes a b).accFailed = s.accFailed := rfl
@[simp] theorem State.putBytes_drbgs (a : Nat) (b : List Byte) : (s.putBytes a b).drbgs = s.drbgs := rfl
@[simp] theorem State.putBytes_wrapKeys (a : Nat) (b : List Byte) : (s.putBytes a b).wrapKeys = s.wrapKeys := rfl
@[simp] theorem State.putBytes_serials (a : Nat) (b : List Byte) : (s.putBytes a b).serials = s.serials := rfl
@[simp] theorem State.putBytes_conts (a : Nat) (b : List Byte) : (s.putBytes a b).conts = s.conts := rfl
@[simp] theorem State.putBytes_chains (a : Nat) (b : List Byte) : (s.putBytes a b).chains = s.chains := rfl
@[simp] theorem State.putBytes_wsTests (a : Nat) (b : List Byte) : (s.putBytes a b).wsTests = s.wsTests := rfl
@[simp] theorem State.putBytes_vaultDead (a : Nat) (b : List Byte) : (s.putBytes a b).vaultDead = s.vaultDead := rfl
@[simp] theorem State.putBytes_live (a : Nat) (b : List Byte) : (s.putBytes a b).live = s.live := rfl
@[simp] theorem State.putBytes_unacked (a : Nat) (b : List Byte) : (s.putBytes a b).unacked = s.unacked := rfl
@[simp] theorem State.putBytes_injected (a : Nat) (b : List Byte) : (s.putBytes a b).injected = s.injected := rfl
@[simp] theorem State.putBytes_alive (a : Nat) (b : List Byte) : (s.putBytes a b).alive = s.alive := rfl
@[simp] theorem State.putBytes_chkstopN (a : Nat) (b : List Byte) : (s.putBytes a b).chkstopN = s.chkstopN := rfl
@[simp] theorem State.putBytes_plainDown (a : Nat) (b : List Byte) : (s.putBytes a b).plainDown = s.plainDown := rfl
@[simp] theorem State.putBytes_halted (a : Nat) (b : List Byte) : (s.putBytes a b).halted = s.halted := rfl
@[simp] theorem State.putBytes_passes (a : Nat) (b : List Byte) : (s.putBytes a b).passes = s.passes := rfl
@[simp] theorem State.putBytes_boot (a : Nat) (b : List Byte) : (s.putBytes a b).boot = s.boot := rfl
@[simp] theorem State.putBytes_powered (a : Nat) (b : List Byte) : (s.putBytes a b).powered = s.powered := rfl
@[simp] theorem State.putBytes_temps (a : Nat) (b : List Byte) : (s.putBytes a b).temps = s.temps := rfl
@[simp] theorem State.putBytes_vset (a : Nat) (b : List Byte) : (s.putBytes a b).vset = s.vset := rfl
@[simp] theorem State.putBytes_stretch (a : Nat) (b : List Byte) : (s.putBytes a b).stretch = s.stretch := rfl
@[simp] theorem State.putBytes_sessions (a : Nat) (b : List Byte) : (s.putBytes a b).sessions = s.sessions := rfl
@[simp] theorem State.putBytes_fspOut (a : Nat) (b : List Byte) : (s.putBytes a b).fspOut = s.fspOut := rfl
@[simp] theorem State.putBytes_load (a : Nat) (b : List Byte) : (s.putBytes a b).load = s.load := rfl
@[simp] theorem State.putBytes_fwLoaded (a : Nat) (b : List Byte) : (s.putBytes a b).fwLoaded = s.fwLoaded := rfl
@[simp] theorem State.putBytes_hostLoaded (a : Nat) (b : List Byte) : (s.putBytes a b).hostLoaded = s.hostLoaded := rfl
@[simp] theorem State.putBytes_lcRows (a : Nat) (b : List Byte) : (s.putBytes a b).lcRows = s.lcRows := rfl
@[simp] theorem State.putBytes_lcStep (a : Nat) (b : List Byte) : (s.putBytes a b).lcStep = s.lcStep := rfl
@[simp] theorem State.putBytes_owner (a : Nat) (b : List Byte) : (s.putBytes a b).owner = s.owner := rfl
@[simp] theorem State.putBytes_jtag (a : Nat) (b : List Byte) : (s.putBytes a b).jtag = s.jtag := rfl
@[simp] theorem State.putBytes_snapAt (a : Nat) (b : List Byte) : (s.putBytes a b).snapAt = s.snapAt := rfl
@[simp] theorem State.putBytes_snapTaken (a : Nat) (b : List Byte) : (s.putBytes a b).snapTaken = s.snapTaken := rfl
@[simp] theorem State.putBytes_snapWait (a : Nat) (b : List Byte) : (s.putBytes a b).snapWait = s.snapWait := rfl
@[simp] theorem State.putBytes_snapTags (a : Nat) (b : List Byte) : (s.putBytes a b).snapTags = s.snapTags := rfl
@[simp] theorem State.putBytes_rails (a : Nat) (b : List Byte) : (s.putBytes a b).rails = s.rails := rfl
@[simp] theorem State.putBytes_railCmds (a : Nat) (b : List Byte) : (s.putBytes a b).railCmds = s.railCmds := rfl
@[simp] theorem State.putBytes_govs (a : Nat) (b : List Byte) : (s.putBytes a b).govs = s.govs := rfl
@[simp] theorem State.putBytes_spareTests (a : Nat) (b : List Byte) : (s.putBytes a b).spareTests = s.spareTests := rfl
@[simp] theorem State.putBytes_mgmtPorts (a : Nat) (b : List Byte) : (s.putBytes a b).mgmtPorts = s.mgmtPorts := rfl
@[simp] theorem State.putBytes_ptp (a : Nat) (b : List Byte) : (s.putBytes a b).ptp = s.ptp := rfl
@[simp] theorem State.putBytes_plainTx (a : Nat) (b : List Byte) : (s.putBytes a b).plainTx = s.plainTx := rfl
@[simp] theorem State.putBytes_todWait (a : Nat) (b : List Byte) : (s.putBytes a b).todWait = s.todWait := rfl
@[simp] theorem State.putBytes_dramPoison (a : Nat) (b : List Byte) : (s.putBytes a b).dramPoison = s.dramPoison := rfl
@[simp] theorem State.putBytes_chanTlb (a : Nat) (b : List Byte) : (s.putBytes a b).chanTlb = s.chanTlb := rfl
@[simp] theorem State.putBytes_routes (a : Nat) (b : List Byte) : (s.putBytes a b).routes = s.routes := rfl
@[simp] theorem State.putBytes_todFrac (a : Nat) (b : List Byte) : (s.putBytes a b).todFrac = s.todFrac := rfl

/-! ## setCore -/

@[simp] theorem State.setCore_pending (k : Nat) (c : CoreHw) : (s.setCore k c).pending = s.pending := rfl
@[simp] theorem State.setCore_free (k : Nat) (c : CoreHw) : (s.setCore k c).free = s.free := rfl
@[simp] theorem State.setCore_units (k : Nat) (c : CoreHw) : (s.setCore k c).units = s.units := rfl
@[simp] theorem State.setCore_regs (k : Nat) (c : CoreHw) : (s.setCore k c).regs = s.regs := rfl
@[simp] theorem State.setCore_shadows (k : Nat) (c : CoreHw) : (s.setCore k c).shadows = s.shadows := rfl
@[simp] theorem State.setCore_mem (k : Nat) (c : CoreHw) : (s.setCore k c).mem = s.mem := rfl
@[simp] theorem State.setCore_dram (k : Nat) (c : CoreHw) : (s.setCore k c).dram = s.dram := rfl
@[simp] theorem State.setCore_poison (k : Nat) (c : CoreHw) : (s.setCore k c).poison = s.poison := rfl
@[simp] theorem State.setCore_dies (k : Nat) (c : CoreHw) : (s.setCore k c).dies = s.dies := rfl
@[simp] theorem State.setCore_errs (k : Nat) (c : CoreHw) : (s.setCore k c).errs = s.errs := rfl
@[simp] theorem State.setCore_images (k : Nat) (c : CoreHw) : (s.setCore k c).images = s.images := rfl
@[simp] theorem State.setCore_held (k : Nat) (c : CoreHw) : (s.setCore k c).held = s.held := rfl
@[simp] theorem State.setCore_moves (k : Nat) (c : CoreHw) : (s.setCore k c).moves = s.moves := rfl
@[simp] theorem State.setCore_msgs (k : Nat) (c : CoreHw) : (s.setCore k c).msgs = s.msgs := rfl
@[simp] theorem State.setCore_tod (k : Nat) (c : CoreHw) : (s.setCore k c).tod = s.tod := rfl
@[simp] theorem State.setCore_elapsed (k : Nat) (c : CoreHw) : (s.setCore k c).elapsed = s.elapsed := rfl
@[simp] theorem State.setCore_fuses (k : Nat) (c : CoreHw) : (s.setCore k c).fuses = s.fuses := rfl
@[simp] theorem State.setCore_merges (k : Nat) (c : CoreHw) : (s.setCore k c).merges = s.merges := rfl
@[simp] theorem State.setCore_dimm (k : Nat) (c : CoreHw) : (s.setCore k c).dimm = s.dimm := rfl
@[simp] theorem State.setCore_ctls (k : Nat) (c : CoreHw) : (s.setCore k c).ctls = s.ctls := rfl
@[simp] theorem State.setCore_ws (k : Nat) (c : CoreHw) : (s.setCore k c).ws = s.ws := rfl
@[simp] theorem State.setCore_sct (k : Nat) (c : CoreHw) : (s.setCore k c).sct = s.sct := rfl
@[simp] theorem State.setCore_sctMir (k : Nat) (c : CoreHw) : (s.setCore k c).sctMir = s.sctMir := rfl
@[simp] theorem State.setCore_slots (k : Nat) (c : CoreHw) : (s.setCore k c).slots = s.slots := rfl
@[simp] theorem State.setCore_slotsMir (k : Nat) (c : CoreHw) : (s.setCore k c).slotsMir = s.slotsMir := rfl
@[simp] theorem State.setCore_xfers (k : Nat) (c : CoreHw) : (s.setCore k c).xfers = s.xfers := rfl
@[simp] theorem State.setCore_aborts (k : Nat) (c : CoreHw) : (s.setCore k c).aborts = s.aborts := rfl
@[simp] theorem State.setCore_unmirrored (k : Nat) (c : CoreHw) : (s.setCore k c).unmirrored = s.unmirrored := rfl
@[simp] theorem State.setCore_conds (k : Nat) (c : CoreHw) : (s.setCore k c).conds = s.conds := rfl
@[simp] theorem State.setCore_logins (k : Nat) (c : CoreHw) : (s.setCore k c).logins = s.logins := rfl
@[simp] theorem State.setCore_ports (k : Nat) (c : CoreHw) : (s.setCore k c).ports = s.ports := rfl
@[simp] theorem State.setCore_wire (k : Nat) (c : CoreHw) : (s.setCore k c).wire = s.wire := rfl
@[simp] theorem State.setCore_engineFw (k : Nat) (c : CoreHw) : (s.setCore k c).engineFw = s.engineFw := rfl
@[simp] theorem State.setCore_accFailed (k : Nat) (c : CoreHw) : (s.setCore k c).accFailed = s.accFailed := rfl
@[simp] theorem State.setCore_drbgs (k : Nat) (c : CoreHw) : (s.setCore k c).drbgs = s.drbgs := rfl
@[simp] theorem State.setCore_wrapKeys (k : Nat) (c : CoreHw) : (s.setCore k c).wrapKeys = s.wrapKeys := rfl
@[simp] theorem State.setCore_serials (k : Nat) (c : CoreHw) : (s.setCore k c).serials = s.serials := rfl
@[simp] theorem State.setCore_conts (k : Nat) (c : CoreHw) : (s.setCore k c).conts = s.conts := rfl
@[simp] theorem State.setCore_chains (k : Nat) (c : CoreHw) : (s.setCore k c).chains = s.chains := rfl
@[simp] theorem State.setCore_wsTests (k : Nat) (c : CoreHw) : (s.setCore k c).wsTests = s.wsTests := rfl
@[simp] theorem State.setCore_vaultDead (k : Nat) (c : CoreHw) : (s.setCore k c).vaultDead = s.vaultDead := rfl
@[simp] theorem State.setCore_live (k : Nat) (c : CoreHw) : (s.setCore k c).live = s.live := rfl
@[simp] theorem State.setCore_unacked (k : Nat) (c : CoreHw) : (s.setCore k c).unacked = s.unacked := rfl
@[simp] theorem State.setCore_injected (k : Nat) (c : CoreHw) : (s.setCore k c).injected = s.injected := rfl
@[simp] theorem State.setCore_alive (k : Nat) (c : CoreHw) : (s.setCore k c).alive = s.alive := rfl
@[simp] theorem State.setCore_chkstopN (k : Nat) (c : CoreHw) : (s.setCore k c).chkstopN = s.chkstopN := rfl
@[simp] theorem State.setCore_plainDown (k : Nat) (c : CoreHw) : (s.setCore k c).plainDown = s.plainDown := rfl
@[simp] theorem State.setCore_halted (k : Nat) (c : CoreHw) : (s.setCore k c).halted = s.halted := rfl
@[simp] theorem State.setCore_passes (k : Nat) (c : CoreHw) : (s.setCore k c).passes = s.passes := rfl
@[simp] theorem State.setCore_boot (k : Nat) (c : CoreHw) : (s.setCore k c).boot = s.boot := rfl
@[simp] theorem State.setCore_powered (k : Nat) (c : CoreHw) : (s.setCore k c).powered = s.powered := rfl
@[simp] theorem State.setCore_temps (k : Nat) (c : CoreHw) : (s.setCore k c).temps = s.temps := rfl
@[simp] theorem State.setCore_vset (k : Nat) (c : CoreHw) : (s.setCore k c).vset = s.vset := rfl
@[simp] theorem State.setCore_stretch (k : Nat) (c : CoreHw) : (s.setCore k c).stretch = s.stretch := rfl
@[simp] theorem State.setCore_sessions (k : Nat) (c : CoreHw) : (s.setCore k c).sessions = s.sessions := rfl
@[simp] theorem State.setCore_fspOut (k : Nat) (c : CoreHw) : (s.setCore k c).fspOut = s.fspOut := rfl
@[simp] theorem State.setCore_load (k : Nat) (c : CoreHw) : (s.setCore k c).load = s.load := rfl
@[simp] theorem State.setCore_fwLoaded (k : Nat) (c : CoreHw) : (s.setCore k c).fwLoaded = s.fwLoaded := rfl
@[simp] theorem State.setCore_hostLoaded (k : Nat) (c : CoreHw) : (s.setCore k c).hostLoaded = s.hostLoaded := rfl
@[simp] theorem State.setCore_lcRows (k : Nat) (c : CoreHw) : (s.setCore k c).lcRows = s.lcRows := rfl
@[simp] theorem State.setCore_lcStep (k : Nat) (c : CoreHw) : (s.setCore k c).lcStep = s.lcStep := rfl
@[simp] theorem State.setCore_owner (k : Nat) (c : CoreHw) : (s.setCore k c).owner = s.owner := rfl
@[simp] theorem State.setCore_jtag (k : Nat) (c : CoreHw) : (s.setCore k c).jtag = s.jtag := rfl
@[simp] theorem State.setCore_snapAt (k : Nat) (c : CoreHw) : (s.setCore k c).snapAt = s.snapAt := rfl
@[simp] theorem State.setCore_snapTaken (k : Nat) (c : CoreHw) : (s.setCore k c).snapTaken = s.snapTaken := rfl
@[simp] theorem State.setCore_snapWait (k : Nat) (c : CoreHw) : (s.setCore k c).snapWait = s.snapWait := rfl
@[simp] theorem State.setCore_snapTags (k : Nat) (c : CoreHw) : (s.setCore k c).snapTags = s.snapTags := rfl
@[simp] theorem State.setCore_rails (k : Nat) (c : CoreHw) : (s.setCore k c).rails = s.rails := rfl
@[simp] theorem State.setCore_railCmds (k : Nat) (c : CoreHw) : (s.setCore k c).railCmds = s.railCmds := rfl
@[simp] theorem State.setCore_govs (k : Nat) (c : CoreHw) : (s.setCore k c).govs = s.govs := rfl
@[simp] theorem State.setCore_spareTests (k : Nat) (c : CoreHw) : (s.setCore k c).spareTests = s.spareTests := rfl
@[simp] theorem State.setCore_mgmtPorts (k : Nat) (c : CoreHw) : (s.setCore k c).mgmtPorts = s.mgmtPorts := rfl
@[simp] theorem State.setCore_ptp (k : Nat) (c : CoreHw) : (s.setCore k c).ptp = s.ptp := rfl
@[simp] theorem State.setCore_plainTx (k : Nat) (c : CoreHw) : (s.setCore k c).plainTx = s.plainTx := rfl
@[simp] theorem State.setCore_todWait (k : Nat) (c : CoreHw) : (s.setCore k c).todWait = s.todWait := rfl
@[simp] theorem State.setCore_dramPoison (k : Nat) (c : CoreHw) : (s.setCore k c).dramPoison = s.dramPoison := rfl
@[simp] theorem State.setCore_chanTlb (k : Nat) (c : CoreHw) : (s.setCore k c).chanTlb = s.chanTlb := rfl
@[simp] theorem State.setCore_routes (k : Nat) (c : CoreHw) : (s.setCore k c).routes = s.routes := rfl
@[simp] theorem State.setCore_todFrac (k : Nat) (c : CoreHw) : (s.setCore k c).todFrac = s.todFrac := rfl

/-! ## setDie -/

@[simp] theorem State.setDie_pending (d : Nat) (h : DieHw) : (s.setDie d h).pending = s.pending := rfl
@[simp] theorem State.setDie_free (d : Nat) (h : DieHw) : (s.setDie d h).free = s.free := rfl
@[simp] theorem State.setDie_units (d : Nat) (h : DieHw) : (s.setDie d h).units = s.units := rfl
@[simp] theorem State.setDie_regs (d : Nat) (h : DieHw) : (s.setDie d h).regs = s.regs := rfl
@[simp] theorem State.setDie_shadows (d : Nat) (h : DieHw) : (s.setDie d h).shadows = s.shadows := rfl
@[simp] theorem State.setDie_mem (d : Nat) (h : DieHw) : (s.setDie d h).mem = s.mem := rfl
@[simp] theorem State.setDie_dram (d : Nat) (h : DieHw) : (s.setDie d h).dram = s.dram := rfl
@[simp] theorem State.setDie_poison (d : Nat) (h : DieHw) : (s.setDie d h).poison = s.poison := rfl
@[simp] theorem State.setDie_cores (d : Nat) (h : DieHw) : (s.setDie d h).cores = s.cores := rfl
@[simp] theorem State.setDie_errs (d : Nat) (h : DieHw) : (s.setDie d h).errs = s.errs := rfl
@[simp] theorem State.setDie_images (d : Nat) (h : DieHw) : (s.setDie d h).images = s.images := rfl
@[simp] theorem State.setDie_held (d : Nat) (h : DieHw) : (s.setDie d h).held = s.held := rfl
@[simp] theorem State.setDie_moves (d : Nat) (h : DieHw) : (s.setDie d h).moves = s.moves := rfl
@[simp] theorem State.setDie_msgs (d : Nat) (h : DieHw) : (s.setDie d h).msgs = s.msgs := rfl
@[simp] theorem State.setDie_tod (d : Nat) (h : DieHw) : (s.setDie d h).tod = s.tod := rfl
@[simp] theorem State.setDie_elapsed (d : Nat) (h : DieHw) : (s.setDie d h).elapsed = s.elapsed := rfl
@[simp] theorem State.setDie_fuses (d : Nat) (h : DieHw) : (s.setDie d h).fuses = s.fuses := rfl
@[simp] theorem State.setDie_merges (d : Nat) (h : DieHw) : (s.setDie d h).merges = s.merges := rfl
@[simp] theorem State.setDie_dimm (d : Nat) (h : DieHw) : (s.setDie d h).dimm = s.dimm := rfl
@[simp] theorem State.setDie_ctls (d : Nat) (h : DieHw) : (s.setDie d h).ctls = s.ctls := rfl
@[simp] theorem State.setDie_ws (d : Nat) (h : DieHw) : (s.setDie d h).ws = s.ws := rfl
@[simp] theorem State.setDie_sct (d : Nat) (h : DieHw) : (s.setDie d h).sct = s.sct := rfl
@[simp] theorem State.setDie_sctMir (d : Nat) (h : DieHw) : (s.setDie d h).sctMir = s.sctMir := rfl
@[simp] theorem State.setDie_slots (d : Nat) (h : DieHw) : (s.setDie d h).slots = s.slots := rfl
@[simp] theorem State.setDie_slotsMir (d : Nat) (h : DieHw) : (s.setDie d h).slotsMir = s.slotsMir := rfl
@[simp] theorem State.setDie_xfers (d : Nat) (h : DieHw) : (s.setDie d h).xfers = s.xfers := rfl
@[simp] theorem State.setDie_aborts (d : Nat) (h : DieHw) : (s.setDie d h).aborts = s.aborts := rfl
@[simp] theorem State.setDie_unmirrored (d : Nat) (h : DieHw) : (s.setDie d h).unmirrored = s.unmirrored := rfl
@[simp] theorem State.setDie_conds (d : Nat) (h : DieHw) : (s.setDie d h).conds = s.conds := rfl
@[simp] theorem State.setDie_logins (d : Nat) (h : DieHw) : (s.setDie d h).logins = s.logins := rfl
@[simp] theorem State.setDie_ports (d : Nat) (h : DieHw) : (s.setDie d h).ports = s.ports := rfl
@[simp] theorem State.setDie_wire (d : Nat) (h : DieHw) : (s.setDie d h).wire = s.wire := rfl
@[simp] theorem State.setDie_engineFw (d : Nat) (h : DieHw) : (s.setDie d h).engineFw = s.engineFw := rfl
@[simp] theorem State.setDie_accFailed (d : Nat) (h : DieHw) : (s.setDie d h).accFailed = s.accFailed := rfl
@[simp] theorem State.setDie_drbgs (d : Nat) (h : DieHw) : (s.setDie d h).drbgs = s.drbgs := rfl
@[simp] theorem State.setDie_wrapKeys (d : Nat) (h : DieHw) : (s.setDie d h).wrapKeys = s.wrapKeys := rfl
@[simp] theorem State.setDie_serials (d : Nat) (h : DieHw) : (s.setDie d h).serials = s.serials := rfl
@[simp] theorem State.setDie_conts (d : Nat) (h : DieHw) : (s.setDie d h).conts = s.conts := rfl
@[simp] theorem State.setDie_chains (d : Nat) (h : DieHw) : (s.setDie d h).chains = s.chains := rfl
@[simp] theorem State.setDie_wsTests (d : Nat) (h : DieHw) : (s.setDie d h).wsTests = s.wsTests := rfl
@[simp] theorem State.setDie_vaultDead (d : Nat) (h : DieHw) : (s.setDie d h).vaultDead = s.vaultDead := rfl
@[simp] theorem State.setDie_live (d : Nat) (h : DieHw) : (s.setDie d h).live = s.live := rfl
@[simp] theorem State.setDie_unacked (d : Nat) (h : DieHw) : (s.setDie d h).unacked = s.unacked := rfl
@[simp] theorem State.setDie_injected (d : Nat) (h : DieHw) : (s.setDie d h).injected = s.injected := rfl
@[simp] theorem State.setDie_alive (d : Nat) (h : DieHw) : (s.setDie d h).alive = s.alive := rfl
@[simp] theorem State.setDie_chkstopN (d : Nat) (h : DieHw) : (s.setDie d h).chkstopN = s.chkstopN := rfl
@[simp] theorem State.setDie_plainDown (d : Nat) (h : DieHw) : (s.setDie d h).plainDown = s.plainDown := rfl
@[simp] theorem State.setDie_halted (d : Nat) (h : DieHw) : (s.setDie d h).halted = s.halted := rfl
@[simp] theorem State.setDie_passes (d : Nat) (h : DieHw) : (s.setDie d h).passes = s.passes := rfl
@[simp] theorem State.setDie_boot (d : Nat) (h : DieHw) : (s.setDie d h).boot = s.boot := rfl
@[simp] theorem State.setDie_powered (d : Nat) (h : DieHw) : (s.setDie d h).powered = s.powered := rfl
@[simp] theorem State.setDie_temps (d : Nat) (h : DieHw) : (s.setDie d h).temps = s.temps := rfl
@[simp] theorem State.setDie_vset (d : Nat) (h : DieHw) : (s.setDie d h).vset = s.vset := rfl
@[simp] theorem State.setDie_stretch (d : Nat) (h : DieHw) : (s.setDie d h).stretch = s.stretch := rfl
@[simp] theorem State.setDie_sessions (d : Nat) (h : DieHw) : (s.setDie d h).sessions = s.sessions := rfl
@[simp] theorem State.setDie_fspOut (d : Nat) (h : DieHw) : (s.setDie d h).fspOut = s.fspOut := rfl
@[simp] theorem State.setDie_load (d : Nat) (h : DieHw) : (s.setDie d h).load = s.load := rfl
@[simp] theorem State.setDie_fwLoaded (d : Nat) (h : DieHw) : (s.setDie d h).fwLoaded = s.fwLoaded := rfl
@[simp] theorem State.setDie_hostLoaded (d : Nat) (h : DieHw) : (s.setDie d h).hostLoaded = s.hostLoaded := rfl
@[simp] theorem State.setDie_lcRows (d : Nat) (h : DieHw) : (s.setDie d h).lcRows = s.lcRows := rfl
@[simp] theorem State.setDie_lcStep (d : Nat) (h : DieHw) : (s.setDie d h).lcStep = s.lcStep := rfl
@[simp] theorem State.setDie_owner (d : Nat) (h : DieHw) : (s.setDie d h).owner = s.owner := rfl
@[simp] theorem State.setDie_jtag (d : Nat) (h : DieHw) : (s.setDie d h).jtag = s.jtag := rfl
@[simp] theorem State.setDie_snapAt (d : Nat) (h : DieHw) : (s.setDie d h).snapAt = s.snapAt := rfl
@[simp] theorem State.setDie_snapTaken (d : Nat) (h : DieHw) : (s.setDie d h).snapTaken = s.snapTaken := rfl
@[simp] theorem State.setDie_snapWait (d : Nat) (h : DieHw) : (s.setDie d h).snapWait = s.snapWait := rfl
@[simp] theorem State.setDie_snapTags (d : Nat) (h : DieHw) : (s.setDie d h).snapTags = s.snapTags := rfl
@[simp] theorem State.setDie_rails (d : Nat) (h : DieHw) : (s.setDie d h).rails = s.rails := rfl
@[simp] theorem State.setDie_railCmds (d : Nat) (h : DieHw) : (s.setDie d h).railCmds = s.railCmds := rfl
@[simp] theorem State.setDie_govs (d : Nat) (h : DieHw) : (s.setDie d h).govs = s.govs := rfl
@[simp] theorem State.setDie_spareTests (d : Nat) (h : DieHw) : (s.setDie d h).spareTests = s.spareTests := rfl
@[simp] theorem State.setDie_mgmtPorts (d : Nat) (h : DieHw) : (s.setDie d h).mgmtPorts = s.mgmtPorts := rfl
@[simp] theorem State.setDie_ptp (d : Nat) (h : DieHw) : (s.setDie d h).ptp = s.ptp := rfl
@[simp] theorem State.setDie_plainTx (d : Nat) (h : DieHw) : (s.setDie d h).plainTx = s.plainTx := rfl
@[simp] theorem State.setDie_todWait (d : Nat) (h : DieHw) : (s.setDie d h).todWait = s.todWait := rfl
@[simp] theorem State.setDie_dramPoison (d : Nat) (h : DieHw) : (s.setDie d h).dramPoison = s.dramPoison := rfl
@[simp] theorem State.setDie_chanTlb (d : Nat) (h : DieHw) : (s.setDie d h).chanTlb = s.chanTlb := rfl
@[simp] theorem State.setDie_routes (d : Nat) (h : DieHw) : (s.setDie d h).routes = s.routes := rfl
@[simp] theorem State.setDie_todFrac (d : Nat) (h : DieHw) : (s.setDie d h).todFrac = s.todFrac := rfl

/-! ## setImage -/

@[simp] theorem State.setImage_pending (n : Nat) (i : Option Image) : (s.setImage n i).pending = s.pending := rfl
@[simp] theorem State.setImage_free (n : Nat) (i : Option Image) : (s.setImage n i).free = s.free := rfl
@[simp] theorem State.setImage_units (n : Nat) (i : Option Image) : (s.setImage n i).units = s.units := rfl
@[simp] theorem State.setImage_regs (n : Nat) (i : Option Image) : (s.setImage n i).regs = s.regs := rfl
@[simp] theorem State.setImage_shadows (n : Nat) (i : Option Image) : (s.setImage n i).shadows = s.shadows := rfl
@[simp] theorem State.setImage_mem (n : Nat) (i : Option Image) : (s.setImage n i).mem = s.mem := rfl
@[simp] theorem State.setImage_dram (n : Nat) (i : Option Image) : (s.setImage n i).dram = s.dram := rfl
@[simp] theorem State.setImage_poison (n : Nat) (i : Option Image) : (s.setImage n i).poison = s.poison := rfl
@[simp] theorem State.setImage_cores (n : Nat) (i : Option Image) : (s.setImage n i).cores = s.cores := rfl
@[simp] theorem State.setImage_dies (n : Nat) (i : Option Image) : (s.setImage n i).dies = s.dies := rfl
@[simp] theorem State.setImage_errs (n : Nat) (i : Option Image) : (s.setImage n i).errs = s.errs := rfl
@[simp] theorem State.setImage_held (n : Nat) (i : Option Image) : (s.setImage n i).held = s.held := rfl
@[simp] theorem State.setImage_moves (n : Nat) (i : Option Image) : (s.setImage n i).moves = s.moves := rfl
@[simp] theorem State.setImage_msgs (n : Nat) (i : Option Image) : (s.setImage n i).msgs = s.msgs := rfl
@[simp] theorem State.setImage_tod (n : Nat) (i : Option Image) : (s.setImage n i).tod = s.tod := rfl
@[simp] theorem State.setImage_elapsed (n : Nat) (i : Option Image) : (s.setImage n i).elapsed = s.elapsed := rfl
@[simp] theorem State.setImage_fuses (n : Nat) (i : Option Image) : (s.setImage n i).fuses = s.fuses := rfl
@[simp] theorem State.setImage_merges (n : Nat) (i : Option Image) : (s.setImage n i).merges = s.merges := rfl
@[simp] theorem State.setImage_dimm (n : Nat) (i : Option Image) : (s.setImage n i).dimm = s.dimm := rfl
@[simp] theorem State.setImage_ctls (n : Nat) (i : Option Image) : (s.setImage n i).ctls = s.ctls := rfl
@[simp] theorem State.setImage_ws (n : Nat) (i : Option Image) : (s.setImage n i).ws = s.ws := rfl
@[simp] theorem State.setImage_sct (n : Nat) (i : Option Image) : (s.setImage n i).sct = s.sct := rfl
@[simp] theorem State.setImage_sctMir (n : Nat) (i : Option Image) : (s.setImage n i).sctMir = s.sctMir := rfl
@[simp] theorem State.setImage_slots (n : Nat) (i : Option Image) : (s.setImage n i).slots = s.slots := rfl
@[simp] theorem State.setImage_slotsMir (n : Nat) (i : Option Image) : (s.setImage n i).slotsMir = s.slotsMir := rfl
@[simp] theorem State.setImage_xfers (n : Nat) (i : Option Image) : (s.setImage n i).xfers = s.xfers := rfl
@[simp] theorem State.setImage_aborts (n : Nat) (i : Option Image) : (s.setImage n i).aborts = s.aborts := rfl
@[simp] theorem State.setImage_unmirrored (n : Nat) (i : Option Image) : (s.setImage n i).unmirrored = s.unmirrored := rfl
@[simp] theorem State.setImage_conds (n : Nat) (i : Option Image) : (s.setImage n i).conds = s.conds := rfl
@[simp] theorem State.setImage_logins (n : Nat) (i : Option Image) : (s.setImage n i).logins = s.logins := rfl
@[simp] theorem State.setImage_ports (n : Nat) (i : Option Image) : (s.setImage n i).ports = s.ports := rfl
@[simp] theorem State.setImage_wire (n : Nat) (i : Option Image) : (s.setImage n i).wire = s.wire := rfl
@[simp] theorem State.setImage_engineFw (n : Nat) (i : Option Image) : (s.setImage n i).engineFw = s.engineFw := rfl
@[simp] theorem State.setImage_accFailed (n : Nat) (i : Option Image) : (s.setImage n i).accFailed = s.accFailed := rfl
@[simp] theorem State.setImage_drbgs (n : Nat) (i : Option Image) : (s.setImage n i).drbgs = s.drbgs := rfl
@[simp] theorem State.setImage_wrapKeys (n : Nat) (i : Option Image) : (s.setImage n i).wrapKeys = s.wrapKeys := rfl
@[simp] theorem State.setImage_serials (n : Nat) (i : Option Image) : (s.setImage n i).serials = s.serials := rfl
@[simp] theorem State.setImage_conts (n : Nat) (i : Option Image) : (s.setImage n i).conts = s.conts := rfl
@[simp] theorem State.setImage_chains (n : Nat) (i : Option Image) : (s.setImage n i).chains = s.chains := rfl
@[simp] theorem State.setImage_wsTests (n : Nat) (i : Option Image) : (s.setImage n i).wsTests = s.wsTests := rfl
@[simp] theorem State.setImage_vaultDead (n : Nat) (i : Option Image) : (s.setImage n i).vaultDead = s.vaultDead := rfl
@[simp] theorem State.setImage_live (n : Nat) (i : Option Image) : (s.setImage n i).live = s.live := rfl
@[simp] theorem State.setImage_unacked (n : Nat) (i : Option Image) : (s.setImage n i).unacked = s.unacked := rfl
@[simp] theorem State.setImage_injected (n : Nat) (i : Option Image) : (s.setImage n i).injected = s.injected := rfl
@[simp] theorem State.setImage_alive (n : Nat) (i : Option Image) : (s.setImage n i).alive = s.alive := rfl
@[simp] theorem State.setImage_chkstopN (n : Nat) (i : Option Image) : (s.setImage n i).chkstopN = s.chkstopN := rfl
@[simp] theorem State.setImage_plainDown (n : Nat) (i : Option Image) : (s.setImage n i).plainDown = s.plainDown := rfl
@[simp] theorem State.setImage_halted (n : Nat) (i : Option Image) : (s.setImage n i).halted = s.halted := rfl
@[simp] theorem State.setImage_passes (n : Nat) (i : Option Image) : (s.setImage n i).passes = s.passes := rfl
@[simp] theorem State.setImage_boot (n : Nat) (i : Option Image) : (s.setImage n i).boot = s.boot := rfl
@[simp] theorem State.setImage_powered (n : Nat) (i : Option Image) : (s.setImage n i).powered = s.powered := rfl
@[simp] theorem State.setImage_temps (n : Nat) (i : Option Image) : (s.setImage n i).temps = s.temps := rfl
@[simp] theorem State.setImage_vset (n : Nat) (i : Option Image) : (s.setImage n i).vset = s.vset := rfl
@[simp] theorem State.setImage_stretch (n : Nat) (i : Option Image) : (s.setImage n i).stretch = s.stretch := rfl
@[simp] theorem State.setImage_sessions (n : Nat) (i : Option Image) : (s.setImage n i).sessions = s.sessions := rfl
@[simp] theorem State.setImage_fspOut (n : Nat) (i : Option Image) : (s.setImage n i).fspOut = s.fspOut := rfl
@[simp] theorem State.setImage_load (n : Nat) (i : Option Image) : (s.setImage n i).load = s.load := rfl
@[simp] theorem State.setImage_fwLoaded (n : Nat) (i : Option Image) : (s.setImage n i).fwLoaded = s.fwLoaded := rfl
@[simp] theorem State.setImage_hostLoaded (n : Nat) (i : Option Image) : (s.setImage n i).hostLoaded = s.hostLoaded := rfl
@[simp] theorem State.setImage_lcRows (n : Nat) (i : Option Image) : (s.setImage n i).lcRows = s.lcRows := rfl
@[simp] theorem State.setImage_lcStep (n : Nat) (i : Option Image) : (s.setImage n i).lcStep = s.lcStep := rfl
@[simp] theorem State.setImage_owner (n : Nat) (i : Option Image) : (s.setImage n i).owner = s.owner := rfl
@[simp] theorem State.setImage_jtag (n : Nat) (i : Option Image) : (s.setImage n i).jtag = s.jtag := rfl
@[simp] theorem State.setImage_snapAt (n : Nat) (i : Option Image) : (s.setImage n i).snapAt = s.snapAt := rfl
@[simp] theorem State.setImage_snapTaken (n : Nat) (i : Option Image) : (s.setImage n i).snapTaken = s.snapTaken := rfl
@[simp] theorem State.setImage_snapWait (n : Nat) (i : Option Image) : (s.setImage n i).snapWait = s.snapWait := rfl
@[simp] theorem State.setImage_snapTags (n : Nat) (i : Option Image) : (s.setImage n i).snapTags = s.snapTags := rfl
@[simp] theorem State.setImage_rails (n : Nat) (i : Option Image) : (s.setImage n i).rails = s.rails := rfl
@[simp] theorem State.setImage_railCmds (n : Nat) (i : Option Image) : (s.setImage n i).railCmds = s.railCmds := rfl
@[simp] theorem State.setImage_govs (n : Nat) (i : Option Image) : (s.setImage n i).govs = s.govs := rfl
@[simp] theorem State.setImage_spareTests (n : Nat) (i : Option Image) : (s.setImage n i).spareTests = s.spareTests := rfl
@[simp] theorem State.setImage_mgmtPorts (n : Nat) (i : Option Image) : (s.setImage n i).mgmtPorts = s.mgmtPorts := rfl
@[simp] theorem State.setImage_ptp (n : Nat) (i : Option Image) : (s.setImage n i).ptp = s.ptp := rfl
@[simp] theorem State.setImage_plainTx (n : Nat) (i : Option Image) : (s.setImage n i).plainTx = s.plainTx := rfl
@[simp] theorem State.setImage_todWait (n : Nat) (i : Option Image) : (s.setImage n i).todWait = s.todWait := rfl
@[simp] theorem State.setImage_dramPoison (n : Nat) (i : Option Image) : (s.setImage n i).dramPoison = s.dramPoison := rfl
@[simp] theorem State.setImage_chanTlb (n : Nat) (i : Option Image) : (s.setImage n i).chanTlb = s.chanTlb := rfl
@[simp] theorem State.setImage_routes (n : Nat) (i : Option Image) : (s.setImage n i).routes = s.routes := rfl
@[simp] theorem State.setImage_todFrac (n : Nat) (i : Option Image) : (s.setImage n i).todFrac = s.todFrac := rfl

/-! ## setQueue -/

@[simp] theorem State.setQueue_pending (d : Nat) (q : List Msg) : (s.setQueue d q).pending = s.pending := rfl
@[simp] theorem State.setQueue_free (d : Nat) (q : List Msg) : (s.setQueue d q).free = s.free := rfl
@[simp] theorem State.setQueue_units (d : Nat) (q : List Msg) : (s.setQueue d q).units = s.units := rfl
@[simp] theorem State.setQueue_regs (d : Nat) (q : List Msg) : (s.setQueue d q).regs = s.regs := rfl
@[simp] theorem State.setQueue_shadows (d : Nat) (q : List Msg) : (s.setQueue d q).shadows = s.shadows := rfl
@[simp] theorem State.setQueue_mem (d : Nat) (q : List Msg) : (s.setQueue d q).mem = s.mem := rfl
@[simp] theorem State.setQueue_dram (d : Nat) (q : List Msg) : (s.setQueue d q).dram = s.dram := rfl
@[simp] theorem State.setQueue_poison (d : Nat) (q : List Msg) : (s.setQueue d q).poison = s.poison := rfl
@[simp] theorem State.setQueue_cores (d : Nat) (q : List Msg) : (s.setQueue d q).cores = s.cores := rfl
@[simp] theorem State.setQueue_dies (d : Nat) (q : List Msg) : (s.setQueue d q).dies = s.dies := rfl
@[simp] theorem State.setQueue_errs (d : Nat) (q : List Msg) : (s.setQueue d q).errs = s.errs := rfl
@[simp] theorem State.setQueue_images (d : Nat) (q : List Msg) : (s.setQueue d q).images = s.images := rfl
@[simp] theorem State.setQueue_held (d : Nat) (q : List Msg) : (s.setQueue d q).held = s.held := rfl
@[simp] theorem State.setQueue_moves (d : Nat) (q : List Msg) : (s.setQueue d q).moves = s.moves := rfl
@[simp] theorem State.setQueue_tod (d : Nat) (q : List Msg) : (s.setQueue d q).tod = s.tod := rfl
@[simp] theorem State.setQueue_elapsed (d : Nat) (q : List Msg) : (s.setQueue d q).elapsed = s.elapsed := rfl
@[simp] theorem State.setQueue_fuses (d : Nat) (q : List Msg) : (s.setQueue d q).fuses = s.fuses := rfl
@[simp] theorem State.setQueue_merges (d : Nat) (q : List Msg) : (s.setQueue d q).merges = s.merges := rfl
@[simp] theorem State.setQueue_dimm (d : Nat) (q : List Msg) : (s.setQueue d q).dimm = s.dimm := rfl
@[simp] theorem State.setQueue_ctls (d : Nat) (q : List Msg) : (s.setQueue d q).ctls = s.ctls := rfl
@[simp] theorem State.setQueue_ws (d : Nat) (q : List Msg) : (s.setQueue d q).ws = s.ws := rfl
@[simp] theorem State.setQueue_sct (d : Nat) (q : List Msg) : (s.setQueue d q).sct = s.sct := rfl
@[simp] theorem State.setQueue_sctMir (d : Nat) (q : List Msg) : (s.setQueue d q).sctMir = s.sctMir := rfl
@[simp] theorem State.setQueue_slots (d : Nat) (q : List Msg) : (s.setQueue d q).slots = s.slots := rfl
@[simp] theorem State.setQueue_slotsMir (d : Nat) (q : List Msg) : (s.setQueue d q).slotsMir = s.slotsMir := rfl
@[simp] theorem State.setQueue_xfers (d : Nat) (q : List Msg) : (s.setQueue d q).xfers = s.xfers := rfl
@[simp] theorem State.setQueue_aborts (d : Nat) (q : List Msg) : (s.setQueue d q).aborts = s.aborts := rfl
@[simp] theorem State.setQueue_unmirrored (d : Nat) (q : List Msg) : (s.setQueue d q).unmirrored = s.unmirrored := rfl
@[simp] theorem State.setQueue_conds (d : Nat) (q : List Msg) : (s.setQueue d q).conds = s.conds := rfl
@[simp] theorem State.setQueue_logins (d : Nat) (q : List Msg) : (s.setQueue d q).logins = s.logins := rfl
@[simp] theorem State.setQueue_ports (d : Nat) (q : List Msg) : (s.setQueue d q).ports = s.ports := rfl
@[simp] theorem State.setQueue_wire (d : Nat) (q : List Msg) : (s.setQueue d q).wire = s.wire := rfl
@[simp] theorem State.setQueue_engineFw (d : Nat) (q : List Msg) : (s.setQueue d q).engineFw = s.engineFw := rfl
@[simp] theorem State.setQueue_accFailed (d : Nat) (q : List Msg) : (s.setQueue d q).accFailed = s.accFailed := rfl
@[simp] theorem State.setQueue_drbgs (d : Nat) (q : List Msg) : (s.setQueue d q).drbgs = s.drbgs := rfl
@[simp] theorem State.setQueue_wrapKeys (d : Nat) (q : List Msg) : (s.setQueue d q).wrapKeys = s.wrapKeys := rfl
@[simp] theorem State.setQueue_serials (d : Nat) (q : List Msg) : (s.setQueue d q).serials = s.serials := rfl
@[simp] theorem State.setQueue_conts (d : Nat) (q : List Msg) : (s.setQueue d q).conts = s.conts := rfl
@[simp] theorem State.setQueue_chains (d : Nat) (q : List Msg) : (s.setQueue d q).chains = s.chains := rfl
@[simp] theorem State.setQueue_wsTests (d : Nat) (q : List Msg) : (s.setQueue d q).wsTests = s.wsTests := rfl
@[simp] theorem State.setQueue_vaultDead (d : Nat) (q : List Msg) : (s.setQueue d q).vaultDead = s.vaultDead := rfl
@[simp] theorem State.setQueue_live (d : Nat) (q : List Msg) : (s.setQueue d q).live = s.live := rfl
@[simp] theorem State.setQueue_unacked (d : Nat) (q : List Msg) : (s.setQueue d q).unacked = s.unacked := rfl
@[simp] theorem State.setQueue_injected (d : Nat) (q : List Msg) : (s.setQueue d q).injected = s.injected := rfl
@[simp] theorem State.setQueue_alive (d : Nat) (q : List Msg) : (s.setQueue d q).alive = s.alive := rfl
@[simp] theorem State.setQueue_chkstopN (d : Nat) (q : List Msg) : (s.setQueue d q).chkstopN = s.chkstopN := rfl
@[simp] theorem State.setQueue_plainDown (d : Nat) (q : List Msg) : (s.setQueue d q).plainDown = s.plainDown := rfl
@[simp] theorem State.setQueue_halted (d : Nat) (q : List Msg) : (s.setQueue d q).halted = s.halted := rfl
@[simp] theorem State.setQueue_passes (d : Nat) (q : List Msg) : (s.setQueue d q).passes = s.passes := rfl
@[simp] theorem State.setQueue_boot (d : Nat) (q : List Msg) : (s.setQueue d q).boot = s.boot := rfl
@[simp] theorem State.setQueue_powered (d : Nat) (q : List Msg) : (s.setQueue d q).powered = s.powered := rfl
@[simp] theorem State.setQueue_temps (d : Nat) (q : List Msg) : (s.setQueue d q).temps = s.temps := rfl
@[simp] theorem State.setQueue_vset (d : Nat) (q : List Msg) : (s.setQueue d q).vset = s.vset := rfl
@[simp] theorem State.setQueue_stretch (d : Nat) (q : List Msg) : (s.setQueue d q).stretch = s.stretch := rfl
@[simp] theorem State.setQueue_sessions (d : Nat) (q : List Msg) : (s.setQueue d q).sessions = s.sessions := rfl
@[simp] theorem State.setQueue_fspOut (d : Nat) (q : List Msg) : (s.setQueue d q).fspOut = s.fspOut := rfl
@[simp] theorem State.setQueue_load (d : Nat) (q : List Msg) : (s.setQueue d q).load = s.load := rfl
@[simp] theorem State.setQueue_fwLoaded (d : Nat) (q : List Msg) : (s.setQueue d q).fwLoaded = s.fwLoaded := rfl
@[simp] theorem State.setQueue_hostLoaded (d : Nat) (q : List Msg) : (s.setQueue d q).hostLoaded = s.hostLoaded := rfl
@[simp] theorem State.setQueue_lcRows (d : Nat) (q : List Msg) : (s.setQueue d q).lcRows = s.lcRows := rfl
@[simp] theorem State.setQueue_lcStep (d : Nat) (q : List Msg) : (s.setQueue d q).lcStep = s.lcStep := rfl
@[simp] theorem State.setQueue_owner (d : Nat) (q : List Msg) : (s.setQueue d q).owner = s.owner := rfl
@[simp] theorem State.setQueue_jtag (d : Nat) (q : List Msg) : (s.setQueue d q).jtag = s.jtag := rfl
@[simp] theorem State.setQueue_snapAt (d : Nat) (q : List Msg) : (s.setQueue d q).snapAt = s.snapAt := rfl
@[simp] theorem State.setQueue_snapTaken (d : Nat) (q : List Msg) : (s.setQueue d q).snapTaken = s.snapTaken := rfl
@[simp] theorem State.setQueue_snapWait (d : Nat) (q : List Msg) : (s.setQueue d q).snapWait = s.snapWait := rfl
@[simp] theorem State.setQueue_snapTags (d : Nat) (q : List Msg) : (s.setQueue d q).snapTags = s.snapTags := rfl
@[simp] theorem State.setQueue_rails (d : Nat) (q : List Msg) : (s.setQueue d q).rails = s.rails := rfl
@[simp] theorem State.setQueue_railCmds (d : Nat) (q : List Msg) : (s.setQueue d q).railCmds = s.railCmds := rfl
@[simp] theorem State.setQueue_govs (d : Nat) (q : List Msg) : (s.setQueue d q).govs = s.govs := rfl
@[simp] theorem State.setQueue_spareTests (d : Nat) (q : List Msg) : (s.setQueue d q).spareTests = s.spareTests := rfl
@[simp] theorem State.setQueue_mgmtPorts (d : Nat) (q : List Msg) : (s.setQueue d q).mgmtPorts = s.mgmtPorts := rfl
@[simp] theorem State.setQueue_ptp (d : Nat) (q : List Msg) : (s.setQueue d q).ptp = s.ptp := rfl
@[simp] theorem State.setQueue_plainTx (d : Nat) (q : List Msg) : (s.setQueue d q).plainTx = s.plainTx := rfl
@[simp] theorem State.setQueue_todWait (d : Nat) (q : List Msg) : (s.setQueue d q).todWait = s.todWait := rfl
@[simp] theorem State.setQueue_dramPoison (d : Nat) (q : List Msg) : (s.setQueue d q).dramPoison = s.dramPoison := rfl
@[simp] theorem State.setQueue_chanTlb (d : Nat) (q : List Msg) : (s.setQueue d q).chanTlb = s.chanTlb := rfl
@[simp] theorem State.setQueue_routes (d : Nat) (q : List Msg) : (s.setQueue d q).routes = s.routes := rfl
@[simp] theorem State.setQueue_todFrac (d : Nat) (q : List Msg) : (s.setQueue d q).todFrac = s.todFrac := rfl

/-! ## What is read after an update -/

@[simp] theorem State.unit_setUnit_same (u : Nat) (c : Cpu) : (s.setUnit u c).unit u = c := sget_sput_same _ _ _ _

theorem State.unit_setUnit_other {u v : Nat} (c : Cpu) (h : v ≠ u) : (s.setUnit u c).unit v = s.unit v := sget_sput_other _ _ _ h

@[simp] theorem State.unit_modUnit_same (u : Nat) (f : Cpu → Cpu) : (s.modUnit u f).unit u = f (s.unit u) := s.unit_setUnit_same u _

theorem State.unit_modUnit_other {u v : Nat} (f : Cpu → Cpu) (h : v ≠ u) : (s.modUnit u f).unit v = s.unit v := s.unit_setUnit_other _ h

@[simp] theorem Cpu.getG_setG_same (c : Cpu) (r : BitVec 5) (v : Dword) : (c.setG r v).getG r = v := sget_sput_same _ _ _ _

theorem Cpu.getG_setG_other (c : Cpu) {r q : BitVec 5} (v : Dword) (h : q ≠ r) : (c.setG r v).getG q = c.getG q :=
  sget_sput_other _ _ _ fun e => h (BitVec.eq_of_toNat_eq e)

@[simp] theorem Cpu.getF_setF_same (c : Cpu) (r : BitVec 5) (v : Dword) : (c.setF r v).getF r = v := sget_sput_same _ _ _ _

theorem Cpu.getF_setF_other (c : Cpu) {r q : BitVec 5} (v : Dword) (h : q ≠ r) : (c.setF r v).getF q = c.getF q :=
  sget_sput_other _ _ _ fun e => h (BitVec.eq_of_toNat_eq e)

@[simp] theorem Cpu.getF_setG (c : Cpu) (r q : BitVec 5) (v : Dword) : (c.setG r v).getF q = c.getF q := rfl
@[simp] theorem Cpu.getG_setF (c : Cpu) (r q : BitVec 5) (v : Dword) : (c.setF r v).getG q = c.getG q := rfl
@[simp] theorem Cpu.setG_f (c : Cpu) (r : BitVec 5) (v : Dword) : (c.setG r v).f = c.f := rfl
@[simp] theorem Cpu.setG_hostC (c : Cpu) (r : BitVec 5) (v : Dword) : (c.setG r v).hostC = c.hostC := rfl
@[simp] theorem Cpu.setG_imgC (c : Cpu) (r : BitVec 5) (v : Dword) : (c.setG r v).imgC = c.imgC := rfl
@[simp] theorem Cpu.setG_hiC (c : Cpu) (r : BitVec 5) (v : Dword) : (c.setG r v).hiC = c.hiC := rfl
@[simp] theorem Cpu.setG_psw (c : Cpu) (r : BitVec 5) (v : Dword) : (c.setG r v).psw = c.psw := rfl
@[simp] theorem Cpu.setG_hostRs (c : Cpu) (r : BitVec 5) (v : Dword) : (c.setG r v).hostRs = c.hostRs := rfl
@[simp] theorem Cpu.setG_imgRs (c : Cpu) (r : BitVec 5) (v : Dword) : (c.setG r v).imgRs = c.imgRs := rfl
@[simp] theorem Cpu.setG_stopped (c : Cpu) (r : BitVec 5) (v : Dword) : (c.setG r v).stopped = c.stopped := rfl
@[simp] theorem Cpu.setG_stuck (c : Cpu) (r : BitVec 5) (v : Dword) : (c.setG r v).stuck = c.stuck := rfl
@[simp] theorem Cpu.setG_extCall (c : Cpu) (r : BitVec 5) (v : Dword) : (c.setG r v).extCall = c.extCall := rfl
@[simp] theorem Cpu.setG_emergency (c : Cpu) (r : BitVec 5) (v : Dword) : (c.setG r v).emergency = c.emergency := rfl
@[simp] theorem Cpu.setG_restart (c : Cpu) (r : BitVec 5) (v : Dword) : (c.setG r v).restart = c.restart := rfl
@[simp] theorem Cpu.setG_signals (c : Cpu) (r : BitVec 5) (v : Dword) : (c.setG r v).signals = c.signals := rfl
@[simp] theorem Cpu.setG_mchecks (c : Cpu) (r : BitVec 5) (v : Dword) : (c.setG r v).mchecks = c.mchecks := rfl
@[simp] theorem Cpu.setG_unitCodes (c : Cpu) (r : BitVec 5) (v : Dword) : (c.setG r v).unitCodes = c.unitCodes := rfl
@[simp] theorem Cpu.setG_irun (c : Cpu) (r : BitVec 5) (v : Dword) : (c.setG r v).irun = c.irun := rfl
@[simp] theorem Cpu.setG_imgReset (c : Cpu) (r : BitVec 5) (v : Dword) : (c.setG r v).imgReset = c.imgReset := rfl
@[simp] theorem Cpu.setG_region (c : Cpu) (r : BitVec 5) (v : Dword) : (c.setG r v).region = c.region := rfl
@[simp] theorem Cpu.setG_wcb (c : Cpu) (r : BitVec 5) (v : Dword) : (c.setG r v).wcb = c.wcb := rfl
@[simp] theorem Cpu.setG_tlb1 (c : Cpu) (r : BitVec 5) (v : Dword) : (c.setG r v).tlb1 = c.tlb1 := rfl
@[simp] theorem Cpu.setG_tlb2 (c : Cpu) (r : BitVec 5) (v : Dword) : (c.setG r v).tlb2 = c.tlb2 := rfl
@[simp] theorem Cpu.setG_retries (c : Cpu) (r : BitVec 5) (v : Dword) : (c.setG r v).retries = c.retries := rfl
@[simp] theorem Cpu.setG_selfTest (c : Cpu) (r : BitVec 5) (v : Dword) : (c.setG r v).selfTest = c.selfTest := rfl
@[simp] theorem Cpu.setG_heldSigs (c : Cpu) (r : BitVec 5) (v : Dword) : (c.setG r v).heldSigs = c.heldSigs := rfl
@[simp] theorem Cpu.setG_running (c : Cpu) (r : BitVec 5) (v : Dword) : (c.setG r v).running = c.running := rfl
@[simp] theorem Cpu.setF_g (c : Cpu) (r : BitVec 5) (v : Dword) : (c.setF r v).g = c.g := rfl
@[simp] theorem Cpu.setF_hostC (c : Cpu) (r : BitVec 5) (v : Dword) : (c.setF r v).hostC = c.hostC := rfl
@[simp] theorem Cpu.setF_imgC (c : Cpu) (r : BitVec 5) (v : Dword) : (c.setF r v).imgC = c.imgC := rfl
@[simp] theorem Cpu.setF_hiC (c : Cpu) (r : BitVec 5) (v : Dword) : (c.setF r v).hiC = c.hiC := rfl
@[simp] theorem Cpu.setF_psw (c : Cpu) (r : BitVec 5) (v : Dword) : (c.setF r v).psw = c.psw := rfl
@[simp] theorem Cpu.setF_hostRs (c : Cpu) (r : BitVec 5) (v : Dword) : (c.setF r v).hostRs = c.hostRs := rfl
@[simp] theorem Cpu.setF_imgRs (c : Cpu) (r : BitVec 5) (v : Dword) : (c.setF r v).imgRs = c.imgRs := rfl
@[simp] theorem Cpu.setF_stopped (c : Cpu) (r : BitVec 5) (v : Dword) : (c.setF r v).stopped = c.stopped := rfl
@[simp] theorem Cpu.setF_stuck (c : Cpu) (r : BitVec 5) (v : Dword) : (c.setF r v).stuck = c.stuck := rfl
@[simp] theorem Cpu.setF_extCall (c : Cpu) (r : BitVec 5) (v : Dword) : (c.setF r v).extCall = c.extCall := rfl
@[simp] theorem Cpu.setF_emergency (c : Cpu) (r : BitVec 5) (v : Dword) : (c.setF r v).emergency = c.emergency := rfl
@[simp] theorem Cpu.setF_restart (c : Cpu) (r : BitVec 5) (v : Dword) : (c.setF r v).restart = c.restart := rfl
@[simp] theorem Cpu.setF_signals (c : Cpu) (r : BitVec 5) (v : Dword) : (c.setF r v).signals = c.signals := rfl
@[simp] theorem Cpu.setF_mchecks (c : Cpu) (r : BitVec 5) (v : Dword) : (c.setF r v).mchecks = c.mchecks := rfl
@[simp] theorem Cpu.setF_unitCodes (c : Cpu) (r : BitVec 5) (v : Dword) : (c.setF r v).unitCodes = c.unitCodes := rfl
@[simp] theorem Cpu.setF_irun (c : Cpu) (r : BitVec 5) (v : Dword) : (c.setF r v).irun = c.irun := rfl
@[simp] theorem Cpu.setF_imgReset (c : Cpu) (r : BitVec 5) (v : Dword) : (c.setF r v).imgReset = c.imgReset := rfl
@[simp] theorem Cpu.setF_region (c : Cpu) (r : BitVec 5) (v : Dword) : (c.setF r v).region = c.region := rfl
@[simp] theorem Cpu.setF_wcb (c : Cpu) (r : BitVec 5) (v : Dword) : (c.setF r v).wcb = c.wcb := rfl
@[simp] theorem Cpu.setF_tlb1 (c : Cpu) (r : BitVec 5) (v : Dword) : (c.setF r v).tlb1 = c.tlb1 := rfl
@[simp] theorem Cpu.setF_tlb2 (c : Cpu) (r : BitVec 5) (v : Dword) : (c.setF r v).tlb2 = c.tlb2 := rfl
@[simp] theorem Cpu.setF_retries (c : Cpu) (r : BitVec 5) (v : Dword) : (c.setF r v).retries = c.retries := rfl
@[simp] theorem Cpu.setF_selfTest (c : Cpu) (r : BitVec 5) (v : Dword) : (c.setF r v).selfTest = c.selfTest := rfl
@[simp] theorem Cpu.setF_heldSigs (c : Cpu) (r : BitVec 5) (v : Dword) : (c.setF r v).heldSigs = c.heldSigs := rfl
@[simp] theorem Cpu.setF_running (c : Cpu) (r : BitVec 5) (v : Dword) : (c.setF r v).running = c.running := rfl
@[simp] theorem Cpu.setIa_g (c : Cpu) (a : Dword) : (c.setIa a).g = c.g := rfl
@[simp] theorem Cpu.setIa_f (c : Cpu) (a : Dword) : (c.setIa a).f = c.f := rfl
@[simp] theorem Cpu.setIa_hostC (c : Cpu) (a : Dword) : (c.setIa a).hostC = c.hostC := rfl
@[simp] theorem Cpu.setIa_imgC (c : Cpu) (a : Dword) : (c.setIa a).imgC = c.imgC := rfl
@[simp] theorem Cpu.setIa_hiC (c : Cpu) (a : Dword) : (c.setIa a).hiC = c.hiC := rfl
@[simp] theorem Cpu.setIa_hostRs (c : Cpu) (a : Dword) : (c.setIa a).hostRs = c.hostRs := rfl
@[simp] theorem Cpu.setIa_imgRs (c : Cpu) (a : Dword) : (c.setIa a).imgRs = c.imgRs := rfl
@[simp] theorem Cpu.setIa_stopped (c : Cpu) (a : Dword) : (c.setIa a).stopped = c.stopped := rfl
@[simp] theorem Cpu.setIa_stuck (c : Cpu) (a : Dword) : (c.setIa a).stuck = c.stuck := rfl
@[simp] theorem Cpu.setIa_extCall (c : Cpu) (a : Dword) : (c.setIa a).extCall = c.extCall := rfl
@[simp] theorem Cpu.setIa_emergency (c : Cpu) (a : Dword) : (c.setIa a).emergency = c.emergency := rfl
@[simp] theorem Cpu.setIa_restart (c : Cpu) (a : Dword) : (c.setIa a).restart = c.restart := rfl
@[simp] theorem Cpu.setIa_signals (c : Cpu) (a : Dword) : (c.setIa a).signals = c.signals := rfl
@[simp] theorem Cpu.setIa_mchecks (c : Cpu) (a : Dword) : (c.setIa a).mchecks = c.mchecks := rfl
@[simp] theorem Cpu.setIa_unitCodes (c : Cpu) (a : Dword) : (c.setIa a).unitCodes = c.unitCodes := rfl
@[simp] theorem Cpu.setIa_irun (c : Cpu) (a : Dword) : (c.setIa a).irun = c.irun := rfl
@[simp] theorem Cpu.setIa_imgReset (c : Cpu) (a : Dword) : (c.setIa a).imgReset = c.imgReset := rfl
@[simp] theorem Cpu.setIa_region (c : Cpu) (a : Dword) : (c.setIa a).region = c.region := rfl
@[simp] theorem Cpu.setIa_wcb (c : Cpu) (a : Dword) : (c.setIa a).wcb = c.wcb := rfl
@[simp] theorem Cpu.setIa_tlb1 (c : Cpu) (a : Dword) : (c.setIa a).tlb1 = c.tlb1 := rfl
@[simp] theorem Cpu.setIa_tlb2 (c : Cpu) (a : Dword) : (c.setIa a).tlb2 = c.tlb2 := rfl
@[simp] theorem Cpu.setIa_retries (c : Cpu) (a : Dword) : (c.setIa a).retries = c.retries := rfl
@[simp] theorem Cpu.setIa_selfTest (c : Cpu) (a : Dword) : (c.setIa a).selfTest = c.selfTest := rfl
@[simp] theorem Cpu.setIa_heldSigs (c : Cpu) (a : Dword) : (c.setIa a).heldSigs = c.heldSigs := rfl
@[simp] theorem Cpu.setIa_running (c : Cpu) (a : Dword) : (c.setIa a).running = c.running := rfl
@[simp] theorem Cpu.setCc_g (c : Cpu) (x : BitVec 2) : (c.setCc x).g = c.g := rfl
@[simp] theorem Cpu.setCc_f (c : Cpu) (x : BitVec 2) : (c.setCc x).f = c.f := rfl
@[simp] theorem Cpu.setCc_hostC (c : Cpu) (x : BitVec 2) : (c.setCc x).hostC = c.hostC := rfl
@[simp] theorem Cpu.setCc_imgC (c : Cpu) (x : BitVec 2) : (c.setCc x).imgC = c.imgC := rfl
@[simp] theorem Cpu.setCc_hiC (c : Cpu) (x : BitVec 2) : (c.setCc x).hiC = c.hiC := rfl
@[simp] theorem Cpu.setCc_hostRs (c : Cpu) (x : BitVec 2) : (c.setCc x).hostRs = c.hostRs := rfl
@[simp] theorem Cpu.setCc_imgRs (c : Cpu) (x : BitVec 2) : (c.setCc x).imgRs = c.imgRs := rfl
@[simp] theorem Cpu.setCc_stopped (c : Cpu) (x : BitVec 2) : (c.setCc x).stopped = c.stopped := rfl
@[simp] theorem Cpu.setCc_stuck (c : Cpu) (x : BitVec 2) : (c.setCc x).stuck = c.stuck := rfl
@[simp] theorem Cpu.setCc_extCall (c : Cpu) (x : BitVec 2) : (c.setCc x).extCall = c.extCall := rfl
@[simp] theorem Cpu.setCc_emergency (c : Cpu) (x : BitVec 2) : (c.setCc x).emergency = c.emergency := rfl
@[simp] theorem Cpu.setCc_restart (c : Cpu) (x : BitVec 2) : (c.setCc x).restart = c.restart := rfl
@[simp] theorem Cpu.setCc_signals (c : Cpu) (x : BitVec 2) : (c.setCc x).signals = c.signals := rfl
@[simp] theorem Cpu.setCc_mchecks (c : Cpu) (x : BitVec 2) : (c.setCc x).mchecks = c.mchecks := rfl
@[simp] theorem Cpu.setCc_unitCodes (c : Cpu) (x : BitVec 2) : (c.setCc x).unitCodes = c.unitCodes := rfl
@[simp] theorem Cpu.setCc_irun (c : Cpu) (x : BitVec 2) : (c.setCc x).irun = c.irun := rfl
@[simp] theorem Cpu.setCc_imgReset (c : Cpu) (x : BitVec 2) : (c.setCc x).imgReset = c.imgReset := rfl
@[simp] theorem Cpu.setCc_region (c : Cpu) (x : BitVec 2) : (c.setCc x).region = c.region := rfl
@[simp] theorem Cpu.setCc_wcb (c : Cpu) (x : BitVec 2) : (c.setCc x).wcb = c.wcb := rfl
@[simp] theorem Cpu.setCc_tlb1 (c : Cpu) (x : BitVec 2) : (c.setCc x).tlb1 = c.tlb1 := rfl
@[simp] theorem Cpu.setCc_tlb2 (c : Cpu) (x : BitVec 2) : (c.setCc x).tlb2 = c.tlb2 := rfl
@[simp] theorem Cpu.setCc_retries (c : Cpu) (x : BitVec 2) : (c.setCc x).retries = c.retries := rfl
@[simp] theorem Cpu.setCc_selfTest (c : Cpu) (x : BitVec 2) : (c.setCc x).selfTest = c.selfTest := rfl
@[simp] theorem Cpu.setCc_heldSigs (c : Cpu) (x : BitVec 2) : (c.setCc x).heldSigs = c.heldSigs := rfl
@[simp] theorem Cpu.setCc_running (c : Cpu) (x : BitVec 2) : (c.setCc x).running = c.running := rfl

@[simp] theorem State.g_setG_same (u : Nat) (r : BitVec 5) (v : Dword) : (s.setG u r v).g u r = v := by simp [State.g, State.setG]

theorem State.g_setG_other (u : Nat) {r q : BitVec 5} (v : Dword) (h : q ≠ r) : (s.setG u r v).g u q = s.g u q := by
  simp [State.g, State.setG, Cpu.getG_setG_other _ v h]

@[simp] theorem State.f_setF_same (u : Nat) (r : BitVec 5) (v : Dword) : (s.setF u r v).f u r = v := by simp [State.f, State.setF]

theorem State.f_setF_other (u : Nat) {r q : BitVec 5} (v : Dword) (h : q ≠ r) : (s.setF u r v).f u q = s.f u q := by
  simp [State.f, State.setF, Cpu.getF_setF_other _ v h]

@[simp] theorem State.f_setG (u : Nat) (r q : BitVec 5) (v : Dword) : (s.setG u r v).f u q = s.f u q := by simp [State.f, State.setG]
@[simp] theorem State.g_setF (u : Nat) (r q : BitVec 5) (v : Dword) : (s.setF u r v).g u q = s.g u q := by simp [State.g, State.setF]
@[simp] theorem State.psw_setG (u : Nat) (r : BitVec 5) (v : Dword) : (s.setG u r v).psw u = s.psw u := by simp [State.psw, State.setG]
@[simp] theorem State.psw_setF (u : Nat) (r : BitVec 5) (v : Dword) : (s.setF u r v).psw u = s.psw u := by simp [State.psw, State.setF]
@[simp] theorem State.psw_setPsw (u : Nat) (p : Psw) : (s.setPsw u p).psw u = p := by simp [State.psw, State.setPsw]

@[simp] theorem State.psw_setIa (u : Nat) (a : Dword) : (s.setIa u a).psw u = { s.psw u with ia := a } := by
  simp [State.psw, State.setIa, Cpu.setIa]

@[simp] theorem State.psw_setCc (u : Nat) (cc : BitVec 2) : (s.setCc u cc).psw u = { s.psw u with cc := cc } := by
  simp [State.psw, State.setCc, Cpu.setCc]

@[simp] theorem State.g_setIa (u : Nat) (r : BitVec 5) (a : Dword) : (s.setIa u a).g u r = s.g u r := by
  simp [State.g, State.setIa, Cpu.getG]

@[simp] theorem State.g_setCc (u : Nat) (r : BitVec 5) (cc : BitVec 2) : (s.setCc u cc).g u r = s.g u r := by
  simp [State.g, State.setCc, Cpu.getG]

@[simp] theorem State.reg_setReg_same (a : Nat) (v : Dword) : (s.setReg a v).reg a = v := sget_sput_same _ _ _ _

theorem State.reg_setReg_other {a b : Nat} (v : Dword) (h : b ≠ a) : (s.setReg a v).reg b = s.reg b := sget_sput_other _ _ _ h

@[simp] theorem State.image_setImage_same (n : Nat) (i : Option Image) : (s.setImage n i).image n = i := sget_sput_same _ _ _ _

theorem State.image_setImage_other {n m : Nat} (i : Option Image) (h : m ≠ n) : (s.setImage n i).image m = s.image m := sget_sput_other _ _ _ h

@[simp] theorem State.core_setCore_same (k : Nat) (c : CoreHw) : (s.setCore k c).core k = c := sget_sput_same _ _ _ _

theorem State.core_setCore_other {k j : Nat} (c : CoreHw) (h : j ≠ k) : (s.setCore k c).core j = s.core j := sget_sput_other _ _ _ h

@[simp] theorem State.queue_setQueue_same (d : Nat) (q : List Msg) : (s.setQueue d q).queue d = q := sget_sput_same _ _ _ _

theorem State.queue_setQueue_other {d e : Nat} (q : List Msg) (h : e ≠ d) : (s.setQueue d q).queue e = s.queue e := sget_sput_other _ _ _ h

end Sys2Proof.Machine
end

