-- ==== Sys2Proof/Laws/Insn.lean ====
section
/-! SUPPORT. What State.enter, State.perform and the operand accesses can answer, once for every instruction. -/
namespace Sys2Proof.Machine
open Sys2Proof

/-- An instruction that enters performs its effect on the state it entered in. -/
theorem State.insn_of_enter {s s2 : State} {i : Insn} (h : s.enter i = .ok s2) : s.insn i = s2.perform i := by
  simp [State.insn, h]

/-- An instruction that does not enter leaves what the boundary, the fetch or its checks leave. -/
theorem State.insn_of_stay {s t : State} {i : Insn} (h : s.enter i = .error t) : s.insn i = t := by
  simp [State.insn, h]

/-- An effect that completes, with the count of an open region. -/
theorem State.perform_of_ok {s t : State} {i : Insn} (h : i.body (s.past i.u) = .ok t) : s.perform i = s.finish i.u t := by
  simp only [State.past] at h
  simp only [State.perform, h, State.finish]

/-- An effect that ends in another way. -/
theorem State.perform_of_error {s : State} {i : Insn} {e : Ends} (h : i.body (s.past i.u) = .error e) :
    s.perform i = s.endWith i.u i.word (s.psw i.u).ia false e := by
  simp only [State.past] at h
  simp only [State.perform, h]

/-- An instruction that enters and completes. -/
theorem State.insn_completes {s s2 t : State} {i : Insn} (h : s.enter i = .ok s2) (hb : i.body (s2.past i.u) = .ok t) :
    s.insn i = s2.finish i.u t := (State.insn_of_enter h).trans (State.perform_of_ok hb)

/-- An instruction that enters and ends in another way than by completing. -/
theorem State.insn_ends {s s2 : State} {i : Insn} {e : Ends} (h : s.enter i = .ok s2) (hb : i.body (s2.past i.u) = .error e) :
    s.insn i = s2.endWith i.u i.word (s2.psw i.u).ia false e := (State.insn_of_enter h).trans (State.perform_of_error hb)

/-- Everything that the entry of an instruction that enters has done: the boundary is clear, the unit is at work, its word has
been fetched, no injected mismatch has led to the self-test (R193), and every decoding check passed. -/
theorem State.enter_cases {s s2 : State} {i : Insn} (h : s.enter i = .ok s2) :
    s.boundary i.u = .clear ∧ s.waits i.u = false ∧ ∃ s1, s.fetchWordAt i.u = .ok s1 ∧
      s2 = s1.injectedMismatch i.u i.rows 3 ∧ (s2.unit i.u).selfTest = false ∧ i.check (s2.psw i.u) (s2.unit i.u).region.isSome = none := by
  unfold State.enter at h
  split at h
  · cases h
  · next hb =>
    split at h
    · cases h
    · next hw =>
      split at h
      · cases h
      · next s1 hf =>
        dsimp only at h
        split at h
        · cases h
        · next ht =>
          split at h
          · cases h
          · next hc => exact ⟨by simpa using hb, by simpa using hw, s1, hf, (Except.ok.inj h).symm, by cases h; simpa using ht, by cases h; exact hc⟩

/-- Everything that the entry of an instruction that stays can leave. -/
theorem State.stay_cases {s t : State} {i : Insn} (h : s.enter i = .error t) :
    (s.boundary i.u ≠ .clear ∧ t = s.settle i.u 64) ∨ (s.boundary i.u = .clear ∧ s.waits i.u = true ∧ t = s) ∨
    (s.boundary i.u = .clear ∧ s.waits i.u = false ∧
      ((∃ e, s.fetchWordAt i.u = .error e ∧ t = s.endWith i.u 0 (s.psw i.u).ia true e) ∨
       (∃ s1, s.fetchWordAt i.u = .ok s1 ∧ ((s1.injectedMismatch i.u i.rows 3).unit i.u).selfTest = true ∧
        t = s.injectedMismatch i.u i.rows 3) ∨
       ∃ s1 e, s.fetchWordAt i.u = .ok s1 ∧ ((s1.injectedMismatch i.u i.rows 3).unit i.u).selfTest = false ∧
        i.check ((s1.injectedMismatch i.u i.rows 3).psw i.u) ((s1.injectedMismatch i.u i.rows 3).unit i.u).region.isSome = some e ∧
        t = (s1.injectedMismatch i.u i.rows 3).endWith i.u i.word (s.psw i.u).ia false e)) := by
  unfold State.enter at h
  split at h
  · next hb => exact .inl ⟨hb, (Except.error.inj h).symm⟩
  · next hb =>
    have hb : s.boundary i.u = .clear := by simpa using hb
    split at h
    · next hw => exact .inr (.inl ⟨hb, hw, (Except.error.inj h).symm⟩)
    · next hw =>
      refine .inr (.inr ⟨hb, by simpa using hw, ?_⟩)
      split at h
      · next e he => exact .inl ⟨e, he, (Except.error.inj h).symm⟩
      · next s1 hf =>
        dsimp only at h
        split at h
        · next ht => exact .inr (.inl ⟨s1, hf, ht, (Except.error.inj h).symm⟩)
        · next ht =>
          split at h
          · next e he => exact .inr (.inr ⟨s1, e, hf, by simpa using ht, he, (Except.error.inj h).symm⟩)
          · cases h

/-- An instruction that comes to its decoding checks and fails one. -/
theorem State.insn_refused {s s2 : State} {i : Insn} {e : Ends} (h : s.arrives i s2)
    (hc : i.check (s2.psw i.u) (s2.unit i.u).region.isSome = some e) :
    s.insn i = s2.endWith i.u i.word (s.psw i.u).ia false e := by
  obtain ⟨hb, hw, s1, hf, rfl, ht⟩ := h
  refine State.insn_of_stay ?_
  simp [State.enter, hb, hw, hf, ht, hc]

/-- An instruction that comes to its decoding checks and passes them enters. -/
theorem State.enter_of_arrives {s s2 : State} {i : Insn} (h : s.arrives i s2)
    (hc : i.check (s2.psw i.u) (s2.unit i.u).region.isSome = none) : s.enter i = .ok s2 := by
  obtain ⟨hb, hw, s1, hf, rfl, ht⟩ := h
  simp [State.enter, hb, hw, hf, ht, hc]

/-- Everything that a load can answer when it succeeds: bytes of storage, or a service register. -/
theorem State.loadAt_cases {s t : State} {u n : Nat} {va : Dword} {k : AccKind} {b : List Byte} (h : s.loadAt u va n k = .ok (t, b)) :
    ∃ ps, s.translate u va n k = .ok ps ∧
      ((∃ pa, t = (s.wcFlush u).tagged u ∧ b = beBytes 8 (t.regRead pa).toNat) ∨
       (t = (s.readPieces u ps false).st ∧ b = (s.readPieces u ps false).data)) := by
  unfold State.loadAt at h
  split at h
  · cases h
  · next ps hp =>
    refine ⟨ps, hp, ?_⟩
    split at h
    · cases h
    · split at h
      · next pa _ _ =>
        simp only [Except.ok.injEq, Prod.mk.injEq] at h
        obtain ⟨rfl, rfl⟩ := h
        exact .inl ⟨_, rfl, rfl⟩
      · dsimp only at h
        split at h
        · cases h
        · simp only [Except.ok.injEq, Prod.mk.injEq] at h
          exact .inr ⟨h.1.symm, h.2.symm⟩

/-- Everything that a store can answer when it succeeds. -/
theorem State.storeAt_cases {s t : State} {u : Nat} {va : Dword} {d : List Byte} {k : AccKind} (h : s.storeAt u va d k = .ok t) :
    ∃ ps, s.translate u va d.length k = .ok ps ∧
      ((∃ pa, t = (s.wcFlush u).regWriteBy (State.writerOf u) (engNumber u) pa (BitVec.ofNat 64 (beNat d))) ∨ t = s.writePieces u ps d) := by
  unfold State.storeAt at h
  split at h
  · cases h
  · next ps hp =>
    refine ⟨ps, hp, ?_⟩
    split at h
    · cases h
    · split at h
      · exact .inl ⟨_, (Except.ok.inj h).symm⟩
      · split at h
        · cases h
        · exact .inr (Except.ok.inj h).symm

end Sys2Proof.Machine
end

