-- ==== Sys2Proof/Laws/Keeps.lean ====
section
/-! SUPPORT. What every named operation keeps: the relation Keeps between a state and a later one, and how it composes. -/
namespace Sys2Proof.Machine
open Sys2Proof

/-- From s to t the queue is the same, nothing is undone that no command undoes, and the invariant carries over. -/
structure Keeps (s t : State) : Prop where
  pending : t.pending = s.pending
  grows : s.Grows t
  inv : s.Inv → t.Inv

theorem State.Grows.refl (s : State) : s.Grows s :=
  ⟨rfl, rfl, List.prefix_refl _, Nat.le_refl _, List.prefix_refl _, List.prefix_refl _, id⟩

theorem State.Grows.trans {a b c : State} (h : a.Grows b) (k : b.Grows c) : a.Grows c :=
  ⟨k.1.trans h.1, k.2.1.trans h.2.1, h.2.2.1.trans k.2.2.1, Nat.le_trans h.2.2.2.1 k.2.2.2.1, h.2.2.2.2.1.trans k.2.2.2.2.1,
    h.2.2.2.2.2.1.trans k.2.2.2.2.2.1, fun r => k.2.2.2.2.2.2 (h.2.2.2.2.2.2 r)⟩

namespace Keeps

theorem refl (s : State) : Keeps s s := ⟨rfl, State.Grows.refl s, id⟩

theorem trans {a b c : State} (h : Keeps a b) (k : Keeps b c) : Keeps a c :=
  ⟨k.pending.trans h.pending, h.grows.trans k.grows, fun i => k.inv (h.inv i)⟩

variable {s0 X : State}

/-- An update of fields that the relation does not speak of. -/
theorem upd (h : Keeps s0 X)
    {units : Store Cpu} {shadows : Store Dword} {poison : List Nat} {dramPoison : List (Nat × Nat)} {cores : Store CoreHw}
    {dies : Store DieHw} {errs : List ArrErr} {images : Store (Option Image)} {held : List (Nat × Sig)}
    {moves : List (Nat × Nat × Nat × Bool)} {msgs : Store (List Msg)} {tod : Dword} {elapsed : Nat} {merges : List Msg}
    {ctls : Store DramCtl} {sct : Store Sct} {sctMir : Store Sct} {slots : Store Slot} {slotsMir : Store Slot}
    {xfers : Store Xfer} {chanTlb : List TlbEntry} {aborts : List AbortRec} {unmirrored : List Nat}
    {conds : List (Nat × Nat × Nat)} {logins : Store Login} {ports : Store PortHw} {engineFw : Store (Option Nat)}
    {accFailed : List Nat} {drbgs : Store Drbg} {wrapKeys : Store (Option WrapKey)} {serials : Store Nat}
    {conts : List (List Byte × Cont)} {chains : List (List Byte × Chain)} {wsTests : Store WsTest} {vaultDead : Bool}
    {live : List LiveCond} {unacked : List (Nat × Word)} {injected : List Injected} {alive : Pin} {chkstopN : Pin}
    {plainDown : List Nat} {routes : List (List Nat)} {halted : Bool} {passes : Store Pass} {boot : Boot} {powered : Bool}
    {temps : Store Nat} {vset : Store Nat} {stretch : Store Nat} {load : Option Load} {fwLoaded : Bool} {hostLoaded : Bool}
    {lcStep : Nat} {owner : Option Owner} {jtag : JtagInstr} {snapAt : Option Dword} {snapTaken : Bool}
    {snapWait : List (Nat × Word)} {snapTags : Store (Option Nat)} {todWait : List TodWait} {todFrac : Nat}
    {rails : List Nat} {railCmds : List RailCmd} {govs : Store Gov} {spareTests : List Nat}
    {mgmtPorts : Store (Option MgmtPort)} {ptp : Ptp} {plainTx : Store PlainTx} :
    Keeps s0 (State.mk
      X.pending X.free units X.regs shadows X.mem X.dram poison dramPoison cores dies errs images held moves msgs tod
      elapsed X.fuses merges X.dimm ctls X.ws sct sctMir slots slotsMir xfers chanTlb aborts unmirrored conds logins ports
      X.wire engineFw accFailed drbgs wrapKeys serials conts chains wsTests vaultDead live unacked injected alive chkstopN
      plainDown routes halted passes boot powered temps vset rails railCmds govs spareTests mgmtPorts ptp
      plainTx stretch X.sessions X.fspOut load fwLoaded hostLoaded X.lcRows
      lcStep owner jtag snapAt snapTaken snapWait snapTags todWait todFrac) :=
  ⟨h.pending, h.grows, h.inv⟩

theorem ite {c : Prop} [Decidable c] {a b : State} (ha : Keeps s0 a) (hb : Keeps s0 b) : Keeps s0 (if c then a else b) := by
  split
  · exact ha
  · exact hb

theorem foldl {α : Type} {f : State → α → State} (hf : ∀ t x, Keeps s0 t → Keeps s0 (f t x)) {l : List α} {t : State}
    (h : Keeps s0 t) : Keeps s0 (l.foldl f t) := by
  induction l generalizing t with
  | nil => exact h
  | cons x l ih => exact ih (hf t x h)

theorem foldl_mem {α : Type} {f : State → α → State} {l : List α} (hf : ∀ t x, x ∈ l → Keeps s0 t → Keeps s0 (f t x)) {t : State}
    (h : Keeps s0 t) : Keeps s0 (l.foldl f t) := by
  induction l generalizing t with
  | nil => exact h
  | cons x l ih => exact ih (fun t y hy => hf t y (List.mem_cons_of_mem _ hy)) (hf t x List.mem_cons_self h)

theorem foldl_fst {α β : Type} {f : State × β → α → State × β} (hf : ∀ t x, Keeps s0 t.1 → Keeps s0 (f t x).1) {l : List α}
    {t : State × β} (h : Keeps s0 t.1) : Keeps s0 (l.foldl f t).1 := by
  induction l generalizing t with
  | nil => exact h
  | cons x l ih => exact ih (hf t x h)

theorem foldl_inv {α β : Type} {P : β → Prop} {f : β → α → β} (hf : ∀ b x, P b → P (f b x)) {l : List α} {b : β} (h : P b) :
    P (l.foldl f b) := by
  induction l generalizing b with
  | nil => exact h
  | cons x l ih => exact ih (hf b x h)

/-- The service registers, changed but in canonical form. -/
theorem regs (h : Keeps s0 X) {r : Store Dword} (hr : swf regDefault X.regs = true → swf regDefault r = true) :
    Keeps s0 { X with regs := r } :=
  ⟨h.pending, h.grows, fun i => ⟨(h.inv i).1, (h.inv i).2.1, (h.inv i).2.2.1, hr (h.inv i).2.2.2.1, (h.inv i).2.2.2.2⟩⟩

theorem mem (h : Keeps s0 X) {m : List Host.Cell} (hm : Memory.wf X.mem = true → Memory.wf m = true) : Keeps s0 { X with mem := m } :=
  ⟨h.pending, h.grows, fun i => ⟨hm (h.inv i).1, (h.inv i).2⟩⟩

theorem dram (h : Keeps s0 X) {m : List Host.Cell} (hm : Memory.wf X.dram = true → Memory.wf m = true) : Keeps s0 { X with dram := m } :=
  ⟨h.pending, h.grows, fun i => ⟨(h.inv i).1, hm (h.inv i).2.1, (h.inv i).2.2⟩⟩

theorem ws (h : Keeps s0 X) {m : List Host.Cell} (hm : Memory.wf X.ws = true → Memory.wf m = true) : Keeps s0 { X with ws := m } :=
  ⟨h.pending, h.grows, fun i => ⟨(h.inv i).1, (h.inv i).2.1, hm (h.inv i).2.2.1, (h.inv i).2.2.2⟩⟩

theorem draws (h : Keeps s0 X) (n : Nat) : Keeps s0 { X with free := X.free + n } :=
  ⟨h.pending, h.grows.trans ⟨rfl, rfl, List.prefix_refl _, Nat.le_add_right _ _, List.prefix_refl _, List.prefix_refl _, id⟩, h.inv⟩

/-- The fuse rows of the lifecycle, changed but legal. -/
theorem rows (h : Keeps s0 X) {r : List (Nat × Bool)} (hr : X.lcOk → ({ X with lcRows := r } : State).lcOk)
    (hm : X.retired = true → ({ X with lcRows := r } : State).retired = true) : Keeps s0 { X with lcRows := r } :=
  ⟨h.pending, h.grows.trans ⟨rfl, rfl, List.prefix_refl _, Nat.le_refl _, List.prefix_refl _, List.prefix_refl _, hm⟩,
    fun i => ⟨(h.inv i).1, (h.inv i).2.1, (h.inv i).2.2.1, (h.inv i).2.2.2.1, hr (h.inv i).2.2.2.2.1, (h.inv i).2.2.2.2.2⟩⟩

/-- The FSP sessions, changed but with one active at most. -/
theorem sessions (h : Keeps s0 X) {m : Store (Option Session)} (hm : X.oneActive → ({ X with sessions := m } : State).oneActive) :
    Keeps s0 { X with sessions := m } :=
  ⟨h.pending, h.grows,
    fun i => ⟨(h.inv i).1, (h.inv i).2.1, (h.inv i).2.2.1, (h.inv i).2.2.2.1, (h.inv i).2.2.2.2.1, hm (h.inv i).2.2.2.2.2⟩⟩

/-- A frame is sent. -/
theorem sends (h : Keeps s0 X) (l : List Sent) : Keeps s0 { X with wire := X.wire ++ l } :=
  ⟨h.pending, h.grows.trans ⟨rfl, rfl, List.prefix_refl _, Nat.le_refl _, List.prefix_append _ _, List.prefix_refl _, id⟩, h.inv⟩

/-- A record is sent. -/
theorem records (h : Keeps s0 X) (l : List FspOut) : Keeps s0 { X with fspOut := X.fspOut ++ l } :=
  ⟨h.pending, h.grows.trans ⟨rfl, rfl, List.prefix_refl _, Nat.le_refl _, List.prefix_refl _, List.prefix_append _ _, id⟩, h.inv⟩

/-- A core is recorded retired. -/
theorem retires (h : Keeps s0 X) (l : List (Nat × Nat)) :
    Keeps s0 { X with fuses := { X.fuses with retired := X.fuses.retired ++ l } } :=
  ⟨h.pending, h.grows.trans ⟨rfl, rfl, List.prefix_append _ _, Nat.le_refl _, List.prefix_refl _, List.prefix_refl _, id⟩, h.inv⟩

theorem of_fst {α : Type} {x : State × α} {t : State} {a : α} (e : x = (t, a)) (h : Keeps s0 x.1) : Keeps s0 t := by
  subst e; exact h

theorem of_snd {α : Type} {x : α × State} {t : State} {a : α} (e : x = (a, t)) (h : Keeps s0 x.2) : Keeps s0 t := by
  subst e; exact h

end Keeps

/-! ## Operations that may end an instruction or a transfer -/

/-- The states that an end of an instruction carries are kept. -/
def Ends.keeps (s0 : State) : Ends → Prop
  | .after t _ => Keeps s0 t
  | .check t _ => Keeps s0 t
  | _ => True

/-- An effect of an instruction. -/
inductive KeepsE (s0 : State) : Except Ends State → Prop
  | ok {t : State} (h : Keeps s0 t) : KeepsE s0 (.ok t)
  | error {e : Ends} (h : e.keeps s0) : KeepsE s0 (.error e)

/-- An effect of an instruction with a value beside the state. -/
inductive KeepsE1 {α : Type} (s0 : State) : Except Ends (State × α) → Prop
  | ok {t : State} {a : α} (h : Keeps s0 t) : KeepsE1 s0 (.ok (t, a))
  | error {e : Ends} (h : e.keeps s0) : KeepsE1 s0 (.error e)

/-- The outcome of a command: a next state is kept. -/
inductive KeepsR (s0 : State) : Result → Prop
  | next {t : State} (h : Keeps s0 t) : KeepsR s0 (.next t)
  | fault {e : Fault} : KeepsR s0 (.fault e)
  | refused {e : Refusal} : KeepsR s0 (.refused e)

section
variable {s0 t : State} {α : Type} {a : α} {e : Ends}

theorem KeepsE.of_ok {x : Except Ends State} (e : x = .ok t) (h : KeepsE s0 x) : Keeps s0 t := by subst e; cases h; assumption
theorem KeepsE.of_error {x : Except Ends State} (k : x = .error e) (h : KeepsE s0 x) : e.keeps s0 := by subst k; cases h; assumption
theorem KeepsE1.of_ok {x : Except Ends (State × α)} (e : x = .ok (t, a)) (h : KeepsE1 s0 x) : Keeps s0 t := by subst e; cases h; assumption
theorem KeepsE1.of_error {x : Except Ends (State × α)} (k : x = .error e) (h : KeepsE1 s0 x) : e.keeps s0 := by subst k; cases h; assumption
theorem Ends.keeps_stop {x : Stop} : Ends.keeps s0 (.stop x) := trivial
theorem Ends.keeps_wait : Ends.keeps s0 .wait := trivial
theorem Ends.keeps_svc {n : Nat} : Ends.keeps s0 (.svc n) := trivial
theorem Ends.keeps_hcall {n : Nat} : Ends.keeps s0 (.hcall n) := trivial
theorem Ends.keeps_abort {n : Nat} {i : BitVec 14} : Ends.keeps s0 (.abort n i) := trivial
theorem Ends.keeps_after {x : Exc} (h : Keeps s0 t) : Ends.keeps s0 (.after t x) := h
theorem Ends.keeps_check {n : Nat} (h : Keeps s0 t) : Ends.keeps s0 (.check t n) := h

end

end Sys2Proof.Machine
end

