-- ==== Sys2Proof/Laws/KeepsBase.lean ====
section
/-! SUPPORT. What they keep: the base operations and the DRAM controllers. -/
namespace Sys2Proof.Machine
open Sys2Proof

variable {sb : State}

theorem Keeps.setUnit {s : State} {u : Nat} {c : Cpu} (hK : Keeps sb s) : Keeps sb (s.setUnit u c) := by
  unfold State.setUnit
  repeat' first
    | with_reducible assumption
    | dsimp only
    | with_reducible refine Keeps.upd ?_

theorem Keeps.modUnit {s : State} {u : Nat} {f : Cpu → Cpu} (hK : Keeps sb s) : Keeps sb (s.modUnit u f) := by
  unfold State.modUnit
  repeat' first
    | with_reducible assumption
    | with_reducible refine Keeps.setUnit ?_
    | dsimp only

theorem Keeps.writeC {s : State} {u : Nat} {n : Nat} {v : Dword} (hK : Keeps sb s) : Keeps sb (s.writeC u n v) := by
  unfold State.writeC
  repeat' first
    | with_reducible assumption
    | with_reducible refine Keeps.modUnit ?_
    | with_reducible refine Keeps.ite ?_ ?_
    | split
    | dsimp only
    | with_reducible refine Keeps.upd ?_

theorem Keeps.setG {s : State} {u : Nat} {r : BitVec 5} {v : Dword} (hK : Keeps sb s) : Keeps sb (s.setG u r v) := by
  unfold State.setG
  repeat' first
    | with_reducible assumption
    | with_reducible refine Keeps.modUnit ?_
    | dsimp only

theorem Keeps.setF {s : State} {u : Nat} {r : BitVec 5} {v : Dword} (hK : Keeps sb s) : Keeps sb (s.setF u r v) := by
  unfold State.setF
  repeat' first
    | with_reducible assumption
    | with_reducible refine Keeps.modUnit ?_
    | dsimp only

theorem Keeps.setPsw {s : State} {u : Nat} {p : Psw} (hK : Keeps sb s) : Keeps sb (s.setPsw u p) := by
  unfold State.setPsw
  repeat' first
    | with_reducible assumption
    | with_reducible refine Keeps.modUnit ?_
    | dsimp only
    | with_reducible refine Keeps.upd ?_

theorem Keeps.setIa {s : State} {u : Nat} {a : Dword} (hK : Keeps sb s) : Keeps sb (s.setIa u a) := by
  unfold State.setIa
  repeat' first
    | with_reducible assumption
    | with_reducible refine Keeps.modUnit ?_
    | dsimp only

theorem Keeps.setCc {s : State} {u : Nat} {cc : BitVec 2} (hK : Keeps sb s) : Keeps sb (s.setCc u cc) := by
  unfold State.setCc
  repeat' first
    | with_reducible assumption
    | with_reducible refine Keeps.modUnit ?_
    | dsimp only

theorem Keeps.setReg {s : State} {a : Nat} {v : Dword} (hK : Keeps sb s) : Keeps sb (s.setReg a v) :=
  hK.regs (swf_sput _ _ _ _)

theorem Keeps.setRf {s : State} {a lo w n : Nat} (hK : Keeps sb s) : Keeps sb (s.setRf a lo w n) := hK.setReg

theorem Keeps.errInc {s : State} {a lo w sat : Nat} (hK : Keeps sb s) : Keeps sb (s.errInc a lo w sat) := hK.setReg

theorem Keeps.putBytes {s : State} {a : Nat} {b : List Byte} (hK : Keeps sb s) : Keeps sb (s.putBytes a b) :=
  hK.mem (Memory.wf_writeN _ _ _)

theorem Keeps.draw {s : State} (hK : Keeps sb s) : Keeps sb s.draw.2 := hK.draws 1

theorem Keeps.freeBytes {s : State} {n : Nat} (hK : Keeps sb s) : Keeps sb (s.freeBytes n).2 := hK.draws n

theorem Keeps.freeDword {s : State} (hK : Keeps sb s) : Keeps sb s.freeDword.2 := hK.draws 1

theorem Keeps.setCore {s : State} {k : Nat} {c : CoreHw} (hK : Keeps sb s) : Keeps sb (s.setCore k c) := by
  unfold State.setCore
  repeat' first
    | with_reducible assumption
    | dsimp only
    | with_reducible refine Keeps.upd ?_

theorem Keeps.modCore {s : State} {k : Nat} {f : CoreHw → CoreHw} (hK : Keeps sb s) : Keeps sb (s.modCore k f) := by
  unfold State.modCore
  repeat' first
    | with_reducible assumption
    | with_reducible refine Keeps.setCore ?_
    | dsimp only

theorem Keeps.setDie {s : State} {d : Nat} {h : DieHw} (hK : Keeps sb s) : Keeps sb (s.setDie d h) := by
  unfold State.setDie
  repeat' first
    | with_reducible assumption
    | dsimp only
    | with_reducible refine Keeps.upd ?_

theorem Keeps.modDie {s : State} {d : Nat} {f : DieHw → DieHw} (hK : Keeps sb s) : Keeps sb (s.modDie d f) := by
  unfold State.modDie
  repeat' first
    | with_reducible assumption
    | with_reducible refine Keeps.setDie ?_
    | dsimp only

theorem Keeps.setImage {s : State} {n : Nat} {i : Option Image} (hK : Keeps sb s) : Keeps sb (s.setImage n i) := by
  unfold State.setImage
  repeat' first
    | with_reducible assumption
    | dsimp only
    | with_reducible refine Keeps.upd ?_

theorem Keeps.setQueue {s : State} {die : Nat} {q : List Msg} (hK : Keeps sb s) : Keeps sb (s.setQueue die q) := by
  unfold State.setQueue
  repeat' first
    | with_reducible assumption
    | dsimp only
    | with_reducible refine Keeps.upd ?_

theorem Keeps.sendMsg {s : State} {m : Msg} (hK : Keeps sb s) : Keeps sb (s.sendMsg m) := by
  unfold State.sendMsg
  repeat' first
    | with_reducible assumption
    | with_reducible refine Keeps.setQueue ?_
    | with_reducible refine Keeps.ite ?_ ?_
    | split
    | dsimp only
    | with_reducible refine Keeps.upd ?_

theorem Keeps.send {s : State} {die : Nat} {unit : Nat} {kind : Nat} {cls : Nat} {synd : Nat} {inj : optParam Bool false} {coin : optParam Bool false} (hK : Keeps sb s) :
    Keeps sb (s.send die unit kind cls synd inj coin) := by
  unfold State.send
  repeat' first
    | with_reducible assumption
    | with_reducible refine Keeps.sendMsg ?_
    | with_reducible refine Keeps.ite ?_ ?_
    | split
    | dsimp only
    | with_reducible refine Keeps.upd ?_

theorem Keeps.condBegin {s : State} {die : Nat} {unit : Nat} {kind : Nat} {cls : Nat} {synd : Nat} {part : Nat} {inj : optParam Bool false} {coin : optParam Bool false} (hK : Keeps sb s) :
    Keeps sb (s.condBegin die unit kind cls synd part inj coin) := by
  unfold State.condBegin
  repeat' first
    | with_reducible assumption
    | with_reducible refine Keeps.send ?_
    | with_reducible refine Keeps.ite ?_ ?_
    | split
    | dsimp only
    | with_reducible refine Keeps.upd ?_

theorem Keeps.showPresent {s : State} {c : Nat} (hK : Keeps sb s) : Keeps sb (s.showPresent c) := by
  unfold State.showPresent
  exact Keeps.ite hK.setReg hK

theorem Keeps.condEnd {s : State} {die : Nat} {unit : Nat} {kind : Nat} {part : Nat} (hK : Keeps sb s) :
    Keeps sb (s.condEnd die unit kind part) := by
  unfold State.condEnd
  repeat' first
    | with_reducible assumption
    | with_reducible refine Keeps.showPresent ?_
    | with_reducible refine Keeps.ite ?_ ?_
    | with_reducible refine Keeps.foldl (fun _ _ _ => ?_) ?_
    | split
    | dsimp only
    | with_reducible refine Keeps.upd ?_

theorem Keeps.unitSend {s : State} {u : Nat} {kind : Nat} {cls : Nat} {synd : Nat} (hK : Keeps sb s) :
    Keeps sb (s.unitSend u kind cls synd) := by
  unfold State.unitSend
  repeat' first
    | with_reducible assumption
    | with_reducible refine Keeps.sendMsg ?_
    | dsimp only

theorem Keeps.pendMc {s : State} {u : Nat} {m : MCheck} (hK : Keeps sb s) : Keeps sb (s.pendMc u m) := by
  unfold State.pendMc
  repeat' first
    | with_reducible assumption
    | with_reducible refine Keeps.modUnit ?_
    | dsimp only
    | with_reducible refine Keeps.upd ?_

theorem Keeps.pendSignal {s : State} {u : Nat} {v : Dword} (hK : Keeps sb s) : Keeps sb (s.pendSignal u v) := by
  unfold State.pendSignal
  repeat' first
    | with_reducible assumption
    | with_reducible refine Keeps.modUnit ?_
    | with_reducible refine Keeps.ite ?_ ?_
    | split
    | dsimp only
    | with_reducible refine Keeps.upd ?_

theorem Keeps.hostSignal {s : State} {code : Nat} {detail : Nat} (hK : Keeps sb s) : Keeps sb (s.hostSignal code detail) := by
  unfold State.hostSignal
  repeat' first
    | with_reducible assumption
    | with_reducible refine Keeps.pendSignal ?_
    | split
    | dsimp only
    | with_reducible refine Keeps.upd ?_

theorem Keeps.fspSend {s : State} {i : Nat} {event : Bool} {group code : Nat} {req : Word} {status : Nat} {body : List Dword}
    (hK : Keeps sb s) : Keeps sb (s.fspSend i event group code req status body) := hK.records _

theorem Keeps.fspEvent {s : State} {group : Nat} {code : Nat} {body : List Dword} (hK : Keeps sb s) :
    Keeps sb (s.fspEvent group code body) := by
  unfold State.fspEvent
  repeat' first
    | with_reducible assumption
    | with_reducible refine Keeps.fspSend ?_
    | with_reducible refine Keeps.ite ?_ ?_
    | with_reducible refine Keeps.foldl (fun _ _ _ => ?_) ?_
    | split
    | dsimp only
    | with_reducible refine Keeps.upd ?_

theorem Keeps.cmapEvent {s : State} {n : Nat} (hK : Keeps sb s) : Keeps sb (s.cmapEvent n) := Keeps.fspEvent hK

theorem Keeps.cmapSignal {s : State} {n : Nat} (hK : Keeps sb s) : Keeps sb (s.cmapSignal n) := by
  unfold State.cmapSignal
  repeat' first
    | with_reducible assumption
    | with_reducible refine Keeps.pendSignal ?_
    | with_reducible refine Keeps.hostSignal ?_
    | with_reducible refine Keeps.cmapEvent ?_
    | with_reducible refine Keeps.ite ?_ ?_
    | split
    | dsimp only

theorem Keeps.pendCode {s : State} {u : Nat} {code : BitVec 16} (hK : Keeps sb s) : Keeps sb (s.pendCode u code) := by
  unfold State.pendCode
  repeat' first
    | with_reducible assumption
    | with_reducible refine Keeps.modUnit ?_
    | with_reducible refine Keeps.ite ?_ ?_
    | split
    | dsimp only
    | with_reducible refine Keeps.upd ?_

theorem Keeps.setCtl {s : State} {c : Nat} {k : DramCtl} (hK : Keeps sb s) : Keeps sb (s.setCtl c k) := by
  unfold State.setCtl
  repeat' first
    | with_reducible assumption
    | dsimp only
    | with_reducible refine Keeps.upd ?_

theorem Keeps.modCtl {s : State} {c : Nat} {f : DramCtl → DramCtl} (hK : Keeps sb s) : Keeps sb (s.modCtl c f) := by
  unfold State.modCtl
  repeat' first
    | with_reducible assumption
    | with_reducible refine Keeps.setCtl ?_
    | dsimp only

theorem Keeps.setDcState {s : State} {c : Nat} {n : Nat} (hK : Keeps sb s) : Keeps sb (s.setDcState c n) := by
  unfold State.setDcState
  repeat' first
    | with_reducible assumption
    | with_reducible refine Keeps.setRf ?_
    | dsimp only

theorem Keeps.dcSend {s : State} {c : Nat} {kind : Nat} {cls : Nat} {pa : Nat} {dev : Nat} {inj : Bool} {coin : optParam Bool false} (hK : Keeps sb s) :
    Keeps sb (s.dcSend c kind cls pa dev inj coin) := by
  unfold State.dcSend
  repeat' first
    | with_reducible assumption
    | with_reducible refine Keeps.send ?_
    | dsimp only

theorem Keeps.evInc {s : State} {a : Nat} {n : Nat} (hK : Keeps sb s) : Keeps sb (s.evInc a n) := by
  unfold State.evInc
  repeat' first
    | with_reducible assumption
    | with_reducible refine Keeps.setRf ?_
    | with_reducible refine Keeps.setReg ?_
    | with_reducible refine Keeps.hostSignal ?_
    | with_reducible refine Keeps.fspEvent ?_
    | with_reducible refine Keeps.ite ?_ ?_
    | split
    | dsimp only

theorem Keeps.manage {s : State} {c : Nat} {key : Nat} (hK : Keeps sb s) : Keeps sb (s.manage c key) := by
  unfold State.manage
  repeat' first
    | with_reducible assumption
    | with_reducible refine Keeps.modCtl ?_
    | with_reducible refine Keeps.ite ?_ ?_
    | split
    | dsimp only
    | with_reducible refine Keeps.upd ?_

theorem Keeps.openRow {s : State} {c : Nat} {block : Nat} (hK : Keeps sb s) : Keeps sb (s.openRow c block) := by
  unfold State.openRow
  repeat' first
    | with_reducible assumption
    | with_reducible refine Keeps.manage ?_
    | with_reducible refine Keeps.modCtl ?_
    | with_reducible refine Keeps.ite ?_ ?_
    | split
    | dsimp only
    | with_reducible refine Keeps.upd ?_

theorem Keeps.clearBlockErrs {s : State} {c : Nat} {block : Nat} (hK : Keeps sb s) : Keeps sb (s.clearBlockErrs c block) := by
  unfold State.clearBlockErrs
  repeat' first
    | with_reducible assumption
    | dsimp only
    | with_reducible refine Keeps.upd ?_

theorem Keeps.addPoison {s : State} {l : List Nat} (hK : Keeps sb s) : Keeps sb (s.addPoison l) := by
  unfold State.addPoison
  repeat' first
    | with_reducible assumption
    | dsimp only
    | with_reducible refine Keeps.upd ?_

theorem Keeps.clearPoison {s : State} {l : List Nat} (hK : Keeps sb s) : Keeps sb (s.clearPoison l) := by
  unfold State.clearPoison
  repeat' first
    | with_reducible assumption
    | dsimp only
    | with_reducible refine Keeps.upd ?_

theorem Keeps.setDramPoison {s : State} {c : Nat} {block : Nat} {on : Bool} (hK : Keeps sb s) :
    Keeps sb (s.setDramPoison c block on) := by
  unfold State.setDramPoison
  repeat' first
    | with_reducible assumption
    | with_reducible refine Keeps.ite ?_ ?_
    | split
    | dsimp only
    | with_reducible refine Keeps.upd ?_

theorem Keeps.countCorrected {s : State} {c : Nat} {block : Nat} {dev : Nat} {all : Bool} {inj : Bool × Bool} (hK : Keeps sb s) :
    Keeps sb (s.countCorrected c block dev all inj) := by
  unfold State.countCorrected
  repeat' first
    | with_reducible assumption
    | with_reducible refine Keeps.modCtl ?_
    | with_reducible refine Keeps.setReg ?_
    | with_reducible refine Keeps.dcSend ?_
    | with_reducible refine Keeps.ite ?_ ?_
    | split
    | dsimp only
    | with_reducible refine Keeps.upd ?_

theorem Keeps.decodeOn {s : State} {c : Nat} {block : Nat} (hK : Keeps sb s) : Keeps sb (s.decodeOn c block).1 := by
  unfold State.decodeOn
  repeat' first
    | with_reducible assumption
    | with_reducible refine Keeps.clearBlockErrs ?_
    | with_reducible refine Keeps.errInc ?_
    | with_reducible refine Keeps.dcSend ?_
    | with_reducible refine Keeps.countCorrected ?_
    | with_reducible refine Keeps.of_fst (by assumption) ?_
    | split
    | dsimp only
    | with_reducible refine Keeps.upd ?_

theorem Keeps.poisonBlock {s : State} {c : Nat} {block : Nat} (hK : Keeps sb s) : Keeps sb (s.poisonBlock c block) := by
  unfold State.poisonBlock
  repeat' first
    | with_reducible assumption
    | with_reducible refine Keeps.clearBlockErrs ?_
    | with_reducible refine Keeps.setDramPoison ?_
    | with_reducible refine Keeps.errInc ?_
    | with_reducible refine Keeps.dcSend ?_
    | with_reducible refine Keeps.ite ?_ ?_
    | split
    | dsimp only

theorem Keeps.healBlock {s : State} {c : Nat} {block : Nat} (hK : Keeps sb s) : Keeps sb (s.healBlock c block) := by
  unfold State.healBlock
  repeat' first
    | with_reducible assumption
    | with_reducible refine Keeps.clearBlockErrs ?_
    | with_reducible refine Keeps.setDramPoison ?_
    | with_reducible refine Keeps.errInc ?_
    | with_reducible refine Keeps.dcSend ?_
    | dsimp only

theorem Keeps.readCopy {s : State} {c : Nat} {block : Nat} (hK : Keeps sb s) : Keeps sb (s.readCopy c block).1 := by
  unfold State.readCopy
  repeat' first
    | with_reducible assumption
    | with_reducible refine Keeps.openRow ?_
    | with_reducible refine Keeps.decodeOn ?_
    | with_reducible refine Keeps.healBlock ?_
    | with_reducible refine Keeps.poisonBlock ?_
    | with_reducible refine Keeps.ite ?_ ?_
    | with_reducible refine Keeps.of_fst (by assumption) ?_
    | split
    | dsimp only

theorem Keeps.fetchBlock {s : State} {c : Nat} {block : Nat} (hK : Keeps sb s) : Keeps sb (s.fetchBlock c block).1 := by
  unfold State.fetchBlock
  repeat' first
    | with_reducible assumption
    | with_reducible refine Keeps.readCopy ?_
    | with_reducible refine Keeps.ite ?_ ?_
    | with_reducible refine Keeps.of_fst (by assumption) ?_
    | split
    | dsimp only
    | with_reducible refine Keeps.upd ?_

theorem Keeps.deliverBlock {s : State} {c : Nat} {block : Nat} {bad : List Nat} (hK : Keeps sb s) :
    Keeps sb (s.deliverBlock c block bad) := by
  unfold State.deliverBlock
  repeat' first
    | with_reducible assumption
    | with_reducible refine Keeps.dcSend ?_
    | with_reducible refine Keeps.clearPoison ?_
    | with_reducible refine Keeps.addPoison ?_
    | with_reducible refine Keeps.ite ?_ ?_
    | split
    | dsimp only

theorem Keeps.storeBlock {s : State} {c : Nat} {w : DramWrite} (hK : Keeps sb s) : Keeps sb (s.storeBlock c w) := by
  have h1 := (hK.dram (Memory.wf_foldr s.dram w.cells)).clearBlockErrs (c := c) (block := w.block)
  exact Keeps.ite h1.setDramPoison (Keeps.ite h1.setDramPoison h1)

theorem Keeps.issueWrite {s : State} {c : Nat} {w : DramWrite} (hK : Keeps sb s) : Keeps sb (s.issueWrite c w) := by
  unfold State.issueWrite
  repeat' first
    | with_reducible assumption
    | with_reducible refine Keeps.readCopy ?_
    | with_reducible refine Keeps.storeBlock ?_
    | with_reducible refine Keeps.ite ?_ ?_
    | with_reducible refine Keeps.of_fst (by assumption) ?_
    | split
    | dsimp only

theorem Keeps.serveRead {s : State} {c : Nat} {r : DramRead} (hK : Keeps sb s) : Keeps sb (s.serveRead c r) := by
  unfold State.serveRead
  repeat' first
    | with_reducible assumption
    | with_reducible refine Keeps.modCtl ?_
    | with_reducible refine Keeps.fetchBlock ?_
    | with_reducible refine Keeps.deliverBlock ?_
    | with_reducible refine Keeps.of_fst (by assumption) ?_
    | dsimp only
    | with_reducible refine Keeps.upd ?_

theorem Keeps.serveWrite {s : State} {c : Nat} {w : DramWrite} (hK : Keeps sb s) : Keeps sb (s.serveWrite c w) := by
  unfold State.serveWrite
  repeat' first
    | with_reducible assumption
    | with_reducible refine Keeps.openRow ?_
    | with_reducible refine Keeps.modCtl ?_
    | with_reducible refine Keeps.issueWrite ?_
    | dsimp only
    | with_reducible refine Keeps.upd ?_

theorem Keeps.serveReq {s : State} {c : Nat} {x : DramReq} (hK : Keeps sb s) : Keeps sb (s.serveReq c x) := by
  unfold State.serveReq
  repeat' first
    | with_reducible assumption
    | with_reducible refine Keeps.serveRead ?_
    | with_reducible refine Keeps.serveWrite ?_
    | split
    | dsimp only

theorem Keeps.serveOlder {s : State} {c : Nat} {bank : Nat} {seq : Nat} {fuel : Nat} (hK : Keeps sb s) :
    Keeps sb (s.serveOlder c bank seq fuel) := by
  induction fuel generalizing s c bank seq with
  | zero =>
    unfold State.serveOlder
    repeat' first
      | with_reducible assumption
      | with_reducible refine Keeps.serveReq ?_
      | split
      | dsimp only
      | with_reducible refine Keeps.upd ?_
  | succ n ih =>
    unfold State.serveOlder
    repeat' first
      | with_reducible assumption
      | with_reducible refine ih ?_
      | with_reducible refine Keeps.serveReq ?_
      | split
      | dsimp only
      | with_reducible refine Keeps.upd ?_

theorem Keeps.forceWrite {s : State} {c : Nat} {w : DramWrite} (hK : Keeps sb s) : Keeps sb (s.forceWrite c w) := by
  unfold State.forceWrite
  repeat' first
    | with_reducible assumption
    | with_reducible refine Keeps.serveOlder ?_
    | with_reducible refine Keeps.serveWrite ?_
    | with_reducible refine Keeps.ite ?_ ?_
    | split
    | dsimp only

theorem Keeps.enqueueOn {s : State} {c : Nat} {block : Nat} {cells : List Host.Cell} {bad : List Nat} (hK : Keeps sb s) :
    Keeps sb (s.enqueueOn c block cells bad) := by
  unfold State.enqueueOn
  repeat' first
    | with_reducible assumption
    | with_reducible refine Keeps.setCtl ?_
    | with_reducible refine Keeps.forceWrite ?_
    | with_reducible refine Keeps.modCtl ?_
    | with_reducible refine Keeps.ite ?_ ?_
    | split
    | dsimp only
    | with_reducible refine Keeps.upd ?_

theorem Keeps.srx {s : State} {c : Nat} (hK : Keeps sb s) : Keeps sb (s.srx c) := by
  unfold State.srx
  repeat' first
    | with_reducible assumption
    | with_reducible refine Keeps.modCtl ?_
    | with_reducible refine Keeps.setDcState ?_
    | with_reducible refine Keeps.setRf ?_
    | dsimp only
    | with_reducible refine Keeps.upd ?_

theorem Keeps.sre {s : State} {c : Nat} (hK : Keeps sb s) : Keeps sb (s.sre c) := by
  unfold State.sre
  repeat' first
    | with_reducible assumption
    | with_reducible refine Keeps.modCtl ?_
    | with_reducible refine Keeps.setDcState ?_
    | with_reducible refine Keeps.setRf ?_
    | dsimp only
    | with_reducible refine Keeps.upd ?_

theorem Keeps.srAbort {s : State} {c : Nat} (hK : Keeps sb s) : Keeps sb (s.srAbort c) := by
  unfold State.srAbort
  repeat' first
    | with_reducible assumption
    | with_reducible refine Keeps.modCtl ?_
    | with_reducible refine Keeps.evInc ?_
    | dsimp only
    | with_reducible refine Keeps.upd ?_

theorem Keeps.wake {s : State} {c : Nat} (hK : Keeps sb s) : Keeps sb (s.wake c) := by
  unfold State.wake
  repeat' first
    | with_reducible assumption
    | with_reducible refine Keeps.srAbort ?_
    | with_reducible refine Keeps.modCtl ?_
    | with_reducible refine Keeps.ite ?_ ?_
    | split
    | dsimp only
    | with_reducible refine Keeps.upd ?_

theorem Keeps.updateBusy {s : State} {c : Nat} (hK : Keeps sb s) : Keeps sb (s.updateBusy c) := by
  unfold State.updateBusy
  repeat' first
    | with_reducible assumption
    | with_reducible refine Keeps.setRf ?_
    | with_reducible refine Keeps.ite ?_ ?_
    | split
    | dsimp only

theorem Keeps.zeroDone {s : State} {c : Nat} (hK : Keeps sb s) : Keeps sb (s.zeroDone c) := by
  unfold State.zeroDone
  repeat' first
    | with_reducible assumption
    | with_reducible refine Keeps.modCtl ?_
    | with_reducible refine Keeps.setRf ?_
    | with_reducible refine Keeps.updateBusy ?_
    | with_reducible refine Keeps.ite ?_ ?_
    | split
    | dsimp only
    | with_reducible refine Keeps.upd ?_

theorem Keeps.serveFirst {s : State} {c : Nat} (hK : Keeps sb s) : Keeps sb (s.serveFirst c) := by
  unfold State.serveFirst
  repeat' first
    | with_reducible assumption
    | with_reducible refine Keeps.serveReq ?_
    | split
    | dsimp only
    | with_reducible refine Keeps.upd ?_

theorem Keeps.attend {s : State} {c : Nat} (hK : Keeps sb s) : Keeps sb (s.attend c) := by
  unfold State.attend
  repeat' first
    | with_reducible assumption
    | with_reducible refine Keeps.zeroDone ?_
    | with_reducible refine Keeps.srAbort ?_
    | with_reducible refine Keeps.srx ?_
    | with_reducible refine Keeps.serveFirst ?_
    | split
    | dsimp only
    | with_reducible refine Keeps.upd ?_

theorem Keeps.acceptOn {s : State} {c : Nat} {block : Nat} {cells : List Host.Cell} {bad : List Nat} (hK : Keeps sb s) :
    Keeps sb (s.acceptOn c block cells bad) := by
  unfold State.acceptOn
  repeat' first
    | with_reducible assumption
    | with_reducible refine Keeps.zeroDone ?_
    | with_reducible refine Keeps.wake ?_
    | with_reducible refine Keeps.enqueueOn ?_
    | with_reducible refine Keeps.ite ?_ ?_
    | split
    | dsimp only

theorem Keeps.acceptWrite {s : State} {block : Nat} {cells : List Host.Cell} {bad : List Nat} (hK : Keeps sb s) :
    Keeps sb (s.acceptWrite block cells bad) := by
  unfold State.acceptWrite
  repeat' first
    | with_reducible assumption
    | with_reducible refine Keeps.acceptOn ?_
    | with_reducible refine Keeps.ite ?_ ?_
    | split
    | dsimp only

theorem Keeps.writeSector {s : State} {sec : Nat} (hK : Keeps sb s) : Keeps sb (s.writeSector sec) := by
  unfold State.writeSector
  repeat' first
    | with_reducible assumption
    | with_reducible refine Keeps.acceptWrite ?_
    | with_reducible refine Keeps.ite ?_ ?_
    | split
    | dsimp only

theorem Keeps.orderBank {s : State} {c : Nat} {block : Nat} (hK : Keeps sb s) : Keeps sb (s.orderBank c block) := by
  unfold State.orderBank
  repeat' first
    | with_reducible assumption
    | with_reducible refine Keeps.modCtl ?_
    | with_reducible refine Keeps.evInc ?_
    | with_reducible refine Keeps.ite ?_ ?_
    | split
    | dsimp only
    | with_reducible refine Keeps.upd ?_

theorem Keeps.readBlock {s0 : State} {block : Nat} (hK : Keeps sb s0) : Keeps sb (s0.readBlock block) := by
  unfold State.readBlock
  repeat' first
    | with_reducible assumption
    | with_reducible refine Keeps.attend ?_
    | with_reducible refine Keeps.orderBank ?_
    | with_reducible refine Keeps.serveOlder ?_
    | with_reducible refine Keeps.fetchBlock ?_
    | with_reducible refine Keeps.deliverBlock ?_
    | with_reducible refine Keeps.ite ?_ ?_
    | with_reducible refine Keeps.of_fst (by assumption) ?_
    | split
    | dsimp only

theorem Keeps.readOn {s0 : State} {c : Nat} {block : Nat} (hK : Keeps sb s0) : Keeps sb (s0.readOn c block) := by
  unfold State.readOn
  repeat' first
    | with_reducible assumption
    | with_reducible refine Keeps.wake ?_
    | with_reducible refine Keeps.orderBank ?_
    | with_reducible refine Keeps.fetchBlock ?_
    | with_reducible refine Keeps.deliverBlock ?_
    | with_reducible refine Keeps.modCtl ?_
    | with_reducible refine Keeps.ite ?_ ?_
    | with_reducible refine Keeps.of_fst (by assumption) ?_
    | split
    | dsimp only
    | with_reducible refine Keeps.upd ?_

theorem Keeps.readRequest {s : State} {c : Nat} {block : Nat} (hK : Keeps sb s) : Keeps sb (s.readRequest c block) := by
  unfold State.readRequest
  repeat' first
    | with_reducible assumption
    | with_reducible refine Keeps.readOn ?_
    | with_reducible refine Keeps.ite ?_ ?_
    | split
    | dsimp only

theorem Keeps.writeRequest {s : State} {a : Nat} {data : List Byte} {poison : Bool} (hK : Keeps sb s) :
    Keeps sb (s.writeRequest a data poison) := by
  unfold State.writeRequest
  repeat' first
    | with_reducible assumption
    | with_reducible refine Keeps.putBytes ?_
    | with_reducible refine Keeps.acceptWrite ?_
    | with_reducible refine Keeps.ite ?_ ?_
    | split
    | dsimp only

theorem Keeps.refreshTo {s : State} {c : Nat} {i : Nat} {left : Nat} (hK : Keeps sb s) : Keeps sb (s.refreshTo c i left) := by
  unfold State.refreshTo
  repeat' first
    | with_reducible assumption
    | with_reducible refine Keeps.setCtl ?_
    | with_reducible refine Keeps.ite ?_ ?_
    | split
    | dsimp only
    | with_reducible refine Keeps.upd ?_

theorem Keeps.forceDebts {s : State} {c : Nat} (hK : Keeps sb s) : Keeps sb (s.forceDebts c) := by
  unfold State.forceDebts
  repeat' first
    | with_reducible assumption
    | with_reducible refine Keeps.refreshTo ?_
    | with_reducible refine Keeps.evInc ?_
    | with_reducible refine Keeps.ite ?_ ?_
    | with_reducible refine Keeps.foldl (fun _ _ _ => ?_) ?_
    | split
    | dsimp only

theorem Keeps.switchMode {s : State} {c : Nat} {compat : Bool} (hK : Keeps sb s) : Keeps sb (s.switchMode c compat) := by
  unfold State.switchMode
  repeat' first
    | with_reducible assumption
    | with_reducible refine Keeps.setCtl ?_
    | with_reducible refine Keeps.forceDebts ?_
    | with_reducible refine Keeps.ite ?_ ?_
    | with_reducible refine Keeps.foldl (fun _ _ _ => ?_) ?_
    | split
    | dsimp only
    | with_reducible refine Keeps.upd ?_

theorem Keeps.refreshIdle {s : State} {c : Nat} (hK : Keeps sb s) : Keeps sb (s.refreshIdle c) := by
  unfold State.refreshIdle
  repeat' first
    | with_reducible assumption
    | with_reducible refine Keeps.refreshTo ?_
    | with_reducible refine Keeps.ite ?_ ?_
    | with_reducible refine Keeps.foldl (fun _ _ _ => ?_) ?_
    | split
    | dsimp only

theorem Keeps.refreshInterval {s : State} {c : Nat} (hK : Keeps sb s) : Keeps sb (s.refreshInterval c) := by
  unfold State.refreshInterval
  repeat' first
    | with_reducible assumption
    | with_reducible refine Keeps.switchMode ?_
    | with_reducible refine Keeps.modCtl ?_
    | with_reducible refine Keeps.refreshIdle ?_
    | with_reducible refine Keeps.forceDebts ?_
    | with_reducible refine Keeps.ite ?_ ?_
    | with_reducible refine Keeps.foldl (fun _ _ _ => ?_) ?_
    | split
    | dsimp only
    | with_reducible refine Keeps.upd ?_

theorem Keeps.setRate {s : State} {c : Nat} {twice : Bool} (hK : Keeps sb s) : Keeps sb (s.setRate c twice) := by
  unfold State.setRate
  repeat' first
    | with_reducible assumption
    | with_reducible refine Keeps.setReg ?_
    | with_reducible refine Keeps.modCtl ?_
    | with_reducible refine Keeps.forceDebts ?_
    | with_reducible refine Keeps.ite ?_ ?_
    | split
    | dsimp only
    | with_reducible refine Keeps.upd ?_

theorem Keeps.chooseRate {s : State} {c : Nat} (hK : Keeps sb s) : Keeps sb (s.chooseRate c) := by
  unfold State.chooseRate
  repeat' first
    | with_reducible assumption
    | with_reducible refine Keeps.setRate ?_
    | split
    | dsimp only

theorem Keeps.mr4Poll {s : State} {c : Nat} {fast : Bool} {hot : Bool} (hK : Keeps sb s) : Keeps sb (s.mr4Poll c fast hot) := by
  unfold State.mr4Poll
  repeat' first
    | with_reducible assumption
    | with_reducible refine Keeps.modCtl ?_
    | with_reducible refine Keeps.chooseRate ?_
    | with_reducible refine Keeps.condBegin ?_
    | with_reducible refine Keeps.condEnd ?_
    | with_reducible refine Keeps.ite ?_ ?_
    | split
    | dsimp only
    | with_reducible refine Keeps.upd ?_

theorem Keeps.updateDraining {s : State} {c : Nat} (hK : Keeps sb s) : Keeps sb (s.updateDraining c) := by
  unfold State.updateDraining
  repeat' first
    | with_reducible assumption
    | with_reducible refine Keeps.modCtl ?_
    | with_reducible refine Keeps.ite ?_ ?_
    | split
    | dsimp only
    | with_reducible refine Keeps.upd ?_

theorem Keeps.issueCommand {s0 : State} {c : Nat} (hK : Keeps sb s0) : Keeps sb (s0.issueCommand c) := by
  unfold State.issueCommand
  repeat' first
    | with_reducible assumption
    | with_reducible refine Keeps.updateDraining ?_
    | with_reducible refine Keeps.sre ?_
    | with_reducible refine Keeps.forceDebts ?_
    | with_reducible refine Keeps.manage ?_
    | with_reducible refine Keeps.refreshTo ?_
    | with_reducible refine Keeps.serveReq ?_
    | with_reducible refine Keeps.modCtl ?_
    | with_reducible refine Keeps.ite ?_ ?_
    | split
    | dsimp only
    | with_reducible refine Keeps.upd ?_

theorem Keeps.serveAll {s : State} {c : Nat} {fuel : Nat} (hK : Keeps sb s) : Keeps sb (s.serveAll c fuel) := by
  induction fuel generalizing s c with
  | zero =>
    unfold State.serveAll
    repeat' first
      | with_reducible assumption
      | with_reducible refine Keeps.updateDraining ?_
      | with_reducible refine Keeps.updateDraining ?_
      | with_reducible refine Keeps.serveReq ?_
      | split
      | dsimp only
      | with_reducible refine Keeps.upd ?_
  | succ n ih =>
    unfold State.serveAll
    repeat' first
      | with_reducible assumption
      | with_reducible refine ih ?_
      | with_reducible refine Keeps.updateDraining ?_
      | with_reducible refine Keeps.updateDraining ?_
      | with_reducible refine Keeps.serveReq ?_
      | split
      | dsimp only
      | with_reducible refine Keeps.upd ?_

theorem Keeps.drainQueues {s : State} {c : Nat} (hK : Keeps sb s) : Keeps sb (s.drainQueues c) := by
  unfold State.drainQueues
  repeat' first
    | with_reducible assumption
    | with_reducible refine Keeps.serveAll ?_
    | dsimp only

theorem Keeps.startTraining {s : State} {c : Nat} (hK : Keeps sb s) : Keeps sb (s.startTraining c) := by
  unfold State.startTraining
  repeat' first
    | with_reducible assumption
    | with_reducible refine Keeps.setReg ?_
    | with_reducible refine Keeps.modCtl ?_
    | with_reducible refine Keeps.setDcState ?_
    | with_reducible refine Keeps.setRf ?_
    | dsimp only
    | with_reducible refine Keeps.upd ?_

theorem Keeps.endTraining {s : State} {c : Nat} {ok : Bool} (hK : Keeps sb s) : Keeps sb (s.endTraining c ok) := by
  unfold State.endTraining
  repeat' first
    | with_reducible assumption
    | with_reducible refine Keeps.setReg ?_
    | with_reducible refine Keeps.modCtl ?_
    | with_reducible refine Keeps.setDcState ?_
    | with_reducible refine Keeps.updateBusy ?_
    | with_reducible refine Keeps.ite ?_ ?_
    | split
    | dsimp only
    | with_reducible refine Keeps.upd ?_

theorem Keeps.srEntry {s : State} {c : Nat} (hK : Keeps sb s) : Keeps sb (s.srEntry c) := by
  unfold State.srEntry
  repeat' first
    | with_reducible assumption
    | with_reducible refine Keeps.refreshTo ?_
    | with_reducible refine Keeps.modCtl ?_
    | with_reducible refine Keeps.sre ?_
    | with_reducible refine Keeps.ite ?_ ?_
    | with_reducible refine Keeps.foldl (fun _ _ _ => ?_) ?_
    | split
    | dsimp only
    | with_reducible refine Keeps.upd ?_

theorem Keeps.srExit {s : State} {c : Nat} (hK : Keeps sb s) : Keeps sb (s.srExit c) := by
  unfold State.srExit
  repeat' first
    | with_reducible assumption
    | with_reducible refine Keeps.wake ?_
    | with_reducible refine Keeps.srx ?_
    | with_reducible refine Keeps.serveFirst ?_
    | with_reducible refine Keeps.ite ?_ ?_
    | split
    | dsimp only
    | with_reducible refine Keeps.upd ?_

theorem Keeps.drainWrites {s : State} {c : Nat} (hK : Keeps sb s) : Keeps sb (s.drainWrites c) := by
  unfold State.drainWrites
  repeat' first
    | with_reducible assumption
    | with_reducible refine Keeps.serveWrite ?_
    | with_reducible refine Keeps.foldl (fun _ _ _ => ?_) ?_
    | dsimp only

theorem Keeps.zeroChannel {s : State} {c : Nat} (hK : Keeps sb s) : Keeps sb (s.zeroChannel c) :=
  ((hK.mem (Memory.wf_filter s.mem _)).dram (Memory.wf_filter s.dram _)).upd

theorem Keeps.startZero {s : State} {c : Nat} (hK : Keeps sb s) : Keeps sb (s.startZero c) := by
  unfold State.startZero
  repeat' first
    | with_reducible assumption
    | with_reducible refine Keeps.attend ?_
    | with_reducible refine Keeps.drainQueues ?_
    | with_reducible refine Keeps.zeroChannel ?_
    | with_reducible refine Keeps.modCtl ?_
    | with_reducible refine Keeps.setRf ?_
    | with_reducible refine Keeps.updateBusy ?_
    | dsimp only
    | with_reducible refine Keeps.upd ?_

theorem Keeps.endZero {s : State} {c : Nat} (hK : Keeps sb s) : Keeps sb (s.endZero c) := by
  unfold State.endZero
  repeat' first
    | with_reducible assumption
    | with_reducible refine Keeps.zeroChannel ?_
    | with_reducible refine Keeps.zeroDone ?_
    | with_reducible refine Keeps.ite ?_ ?_
    | split
    | dsimp only

theorem Keeps.endDrain {s : State} {c : Nat} (hK : Keeps sb s) : Keeps sb (s.endDrain c) := by
  unfold State.endDrain
  repeat' first
    | with_reducible assumption
    | with_reducible refine Keeps.attend ?_
    | with_reducible refine Keeps.drainQueues ?_
    | with_reducible refine Keeps.sre ?_
    | with_reducible refine Keeps.modCtl ?_
    | with_reducible refine Keeps.setDcState ?_
    | with_reducible refine Keeps.updateBusy ?_
    | with_reducible refine Keeps.ite ?_ ?_
    | split
    | dsimp only
    | with_reducible refine Keeps.upd ?_

theorem Keeps.failChannel {s : State} {c : Nat} (hK : Keeps sb s) : Keeps sb (s.failChannel c) := by
  unfold State.failChannel
  repeat' first
    | with_reducible assumption
    | with_reducible refine Keeps.modCtl ?_
    | with_reducible refine Keeps.setDcState ?_
    | with_reducible refine Keeps.setRf ?_
    | with_reducible refine Keeps.updateBusy ?_
    | with_reducible refine Keeps.readOn ?_
    | with_reducible refine Keeps.dcSend ?_
    | with_reducible refine Keeps.ite ?_ ?_
    | with_reducible refine Keeps.foldl (fun _ _ _ => ?_) ?_
    | split
    | dsimp only
    | with_reducible refine Keeps.upd ?_

theorem Keeps.retrainPause {s : State} {c : Nat} {ok : Bool} {len : Nat} (hK : Keeps sb s) :
    Keeps sb (s.retrainPause c ok len) := by
  unfold State.retrainPause
  repeat' first
    | with_reducible assumption
    | with_reducible refine Keeps.refreshTo ?_
    | with_reducible refine Keeps.setReg ?_
    | with_reducible refine Keeps.modCtl ?_
    | with_reducible refine Keeps.dcSend ?_
    | with_reducible refine Keeps.failChannel ?_
    | with_reducible refine Keeps.ite ?_ ?_
    | with_reducible refine Keeps.foldl (fun _ _ _ => ?_) ?_
    | split
    | dsimp only
    | with_reducible refine Keeps.upd ?_

theorem Keeps.scrubLine {s : State} {c : Nat} (hK : Keeps sb s) : Keeps sb (s.scrubLine c) := by
  unfold State.scrubLine
  repeat' first
    | with_reducible assumption
    | with_reducible refine Keeps.readCopy ?_
    | with_reducible refine Keeps.modCtl ?_
    | with_reducible refine Keeps.setRf ?_
    | with_reducible refine Keeps.ite ?_ ?_
    | with_reducible refine Keeps.of_fst (by assumption) ?_
    | split
    | dsimp only
    | with_reducible refine Keeps.upd ?_

theorem Keeps.dcEnable {s : State} {c : Nat} (hK : Keeps sb s) : Keeps sb (s.dcEnable c) := by
  unfold State.dcEnable
  repeat' first
    | with_reducible assumption
    | with_reducible refine Keeps.setRf ?_
    | with_reducible refine Keeps.srx ?_
    | with_reducible refine Keeps.modCtl ?_
    | with_reducible refine Keeps.ite ?_ ?_
    | split
    | dsimp only
    | with_reducible refine Keeps.upd ?_

theorem Keeps.enableZero {s : State} {c : Nat} (hK : Keeps sb s) : Keeps sb (s.enableZero c) := by
  unfold State.enableZero
  repeat' first
    | with_reducible assumption
    | with_reducible refine Keeps.dcEnable ?_
    | with_reducible refine Keeps.startZero ?_
    | with_reducible refine Keeps.ite ?_ ?_
    | split
    | dsimp only

theorem Keeps.trainingEnd {s : State} {c : Nat} {ok : Bool} (hK : Keeps sb s) : Keeps sb (s.trainingEnd c ok) := by
  unfold State.trainingEnd
  repeat' first
    | with_reducible assumption
    | with_reducible refine Keeps.endTraining ?_
    | with_reducible refine Keeps.enableZero ?_
    | with_reducible refine Keeps.ite ?_ ?_
    | split
    | dsimp only

theorem Keeps.dcDisable {s : State} {c : Nat} (hK : Keeps sb s) : Keeps sb (s.dcDisable c) := by
  unfold State.dcDisable
  repeat' first
    | with_reducible assumption
    | with_reducible refine Keeps.setRf ?_
    | with_reducible refine Keeps.modCtl ?_
    | with_reducible refine Keeps.updateBusy ?_
    | with_reducible refine Keeps.dcSend ?_
    | with_reducible refine Keeps.ite ?_ ?_
    | split
    | dsimp only
    | with_reducible refine Keeps.upd ?_

end Sys2Proof.Machine
end

