-- ==== Sys2Proof/Laws/KeepsCache.lean ====
section
/-! SUPPORT. What they keep: caches, storage as the DRAM reads it. -/
namespace Sys2Proof.Machine
open Sys2Proof

variable {sb : State}

theorem Keeps.abortRegion {s : State} {u : Nat} {code : Nat} (hK : Keeps sb s) : Keeps sb (s.abortRegion u code) := by
  unfold State.abortRegion
  repeat' first
    | with_reducible assumption
    | with_reducible refine Keeps.modUnit ?_
    | dsimp only

theorem Keeps.conflict {s : State} {by_ : Option Nat} {sector : Nat} {write : Bool} (hK : Keeps sb s) :
    Keeps sb (s.conflict by_ sector write) := by
  unfold State.conflict
  repeat' first
    | with_reducible assumption
    | with_reducible refine Keeps.abortRegion ?_
    | with_reducible refine Keeps.ite ?_ ?_
    | with_reducible refine Keeps.foldl (fun _ _ _ => ?_) ?_
    | with_reducible refine Keeps.foldl_fst (fun _ _ _ => ?_) ?_
    | split
    | dsimp only
    | with_reducible refine Keeps.upd ?_

theorem Keeps.conflicts {s : State} {by_ : Option Nat} {sectors : List Nat} {write : Bool} (hK : Keeps sb s) :
    Keeps sb (s.conflicts by_ sectors write) := by
  unfold State.conflicts
  repeat' first
    | with_reducible assumption
    | with_reducible refine Keeps.conflict ?_
    | with_reducible refine Keeps.foldl (fun _ _ _ => ?_) ?_
    | dsimp only

theorem Keeps.lineConflict {s : State} {line : Nat} (hK : Keeps sb s) : Keeps sb (s.lineConflict line) := by
  unfold State.lineConflict
  repeat' first
    | with_reducible assumption
    | with_reducible refine Keeps.conflict ?_
    | with_reducible refine Keeps.foldl (fun _ _ _ => ?_) ?_
    | dsimp only

theorem Keeps.writeMask {s : State} {line : Nat} {m : BitVec 4} (hK : Keeps sb s) : Keeps sb (s.writeMask line m) := by
  unfold State.writeMask
  repeat' first
    | with_reducible assumption
    | with_reducible refine Keeps.writeSector ?_
    | with_reducible refine Keeps.foldl (fun _ _ _ => ?_) ?_
    | dsimp only

theorem Keeps.cacheSend {s : State} {die : Nat} {unit : Nat} {kind : Nat} {cls : Nat} {line : Nat} {inj : Bool × Bool} (hK : Keeps sb s) :
    Keeps sb (s.cacheSend die unit kind cls line inj) := by
  unfold State.cacheSend
  repeat' first
    | with_reducible assumption
    | with_reducible refine Keeps.send ?_
    | dsimp only

theorem Keeps.l2Disable {s : State} {core : Nat} (hK : Keeps sb s) : Keeps sb (s.l2Disable core) := by
  unfold State.l2Disable
  repeat' first
    | with_reducible assumption
    | with_reducible refine Keeps.setRf ?_
    | with_reducible refine Keeps.ite ?_ ?_
    | split
    | dsimp only

theorem Keeps.l3Disable {s : State} {die : Nat} (hK : Keeps sb s) : Keeps sb (s.l3Disable die) := by
  unfold State.l3Disable
  repeat' first
    | with_reducible assumption
    | with_reducible refine Keeps.setRf ?_
    | with_reducible refine Keeps.ite ?_ ?_
    | split
    | dsimp only

theorem Keeps.deleteL2 {s : State} {core : Nat} {set : Nat} {way : Nat} {line : Nat} {inj : Bool × Bool} (hK : Keeps sb s) :
    Keeps sb (s.deleteL2 core set way line inj) := by
  unfold State.deleteL2
  repeat' first
    | with_reducible assumption
    | with_reducible refine Keeps.modCore ?_
    | with_reducible refine Keeps.cacheSend ?_
    | with_reducible refine Keeps.setRf ?_
    | with_reducible refine Keeps.l2Disable ?_
    | with_reducible refine Keeps.ite ?_ ?_
    | split
    | dsimp only
    | with_reducible refine Keeps.upd ?_

theorem Keeps.deleteL3 {s : State} {die : Nat} {set : Nat} {way : Nat} {line : Nat} {inj : Bool × Bool} (hK : Keeps sb s) :
    Keeps sb (s.deleteL3 die set way line inj) := by
  unfold State.deleteL3
  repeat' first
    | with_reducible assumption
    | with_reducible refine Keeps.modDie ?_
    | with_reducible refine Keeps.cacheSend ?_
    | with_reducible refine Keeps.setRf ?_
    | with_reducible refine Keeps.l3Disable ?_
    | with_reducible refine Keeps.ite ?_ ?_
    | split
    | dsimp only
    | with_reducible refine Keeps.upd ?_

theorem Keeps.dropErrs {s : State} {l : List ArrErr} (hK : Keeps sb s) : Keeps sb (s.dropErrs l) := by
  unfold State.dropErrs
  repeat' first
    | with_reducible assumption
    | dsimp only
    | with_reducible refine Keeps.upd ?_

theorem Keeps.sectorsWritten {s : State} {die : Nat} {unit : Nat} {line : Nat} {m : BitVec 4} (hK : Keeps sb s) :
    Keeps sb (s.sectorsWritten die unit line m) := by
  unfold State.sectorsWritten
  repeat' first
    | with_reducible assumption
    | with_reducible refine Keeps.dropErrs ?_
    | dsimp only

theorem Keeps.eccTag {s : State} {die : Nat} {unit : Nat} {line : Nat} {l : List ArrErr} (hK : Keeps sb s) :
    Keeps sb (s.eccTag die unit line l) := by
  unfold State.eccTag
  repeat' first
    | with_reducible assumption
    | with_reducible refine Keeps.errInc ?_
    | with_reducible refine Keeps.cacheSend ?_
    | with_reducible refine Keeps.ite ?_ ?_
    | split
    | dsimp only

theorem Keeps.tagMeet {s : State} {die : Nat} {unit : Nat} {f : Nat → Bool} (hK : Keeps sb s) :
    Keeps sb (s.tagMeet die unit f) := by
  unfold State.tagMeet
  repeat' first
    | with_reducible assumption
    | with_reducible refine Keeps.eccTag ?_
    | with_reducible refine Keeps.dropErrs ?_
    | with_reducible refine Keeps.foldl (fun _ _ _ => ?_) ?_
    | dsimp only

theorem Keeps.eccWord {s : State} {die : Nat} {unit : Nat} {a : Nat} {line : Nat} {word : Nat} {dirty : Bool} {l : List ArrErr} (hK : Keeps sb s) :
    Keeps sb (s.eccWord die unit a line word dirty l).1 := by
  unfold State.eccWord
  repeat' first
    | with_reducible assumption
    | with_reducible refine Keeps.errInc ?_
    | with_reducible refine Keeps.cacheSend ?_
    | with_reducible refine Keeps.addPoison ?_
    | with_reducible refine Keeps.ite ?_ ?_
    | with_reducible refine Keeps.of_fst (by assumption) ?_
    | split
    | dsimp only

theorem Keeps.eccLine {s : State} {die : Nat} {unit : Nat} {a : Nat} {line : Nat} {dirty : BitVec 4} {l : List ArrErr} (hK : Keeps sb s) :
    Keeps sb (s.eccLine die unit a line dirty l).1 := by
  unfold State.eccLine
  repeat' first
    | with_reducible assumption
    | with_reducible refine Keeps.eccWord ?_
    | with_reducible refine Keeps.dropErrs ?_
    | with_reducible refine Keeps.foldl (fun _ _ _ => ?_) ?_
    | with_reducible refine Keeps.foldl_fst (fun _ _ _ => ?_) ?_
    | with_reducible refine Keeps.of_fst (by assumption) ?_
    | split
    | dsimp only

theorem Keeps.dropL3 {s : State} {die : Nat} {line : Nat} {clean : Bool} (hK : Keeps sb s) :
    Keeps sb (s.dropL3 die line clean) := by
  unfold State.dropL3
  repeat' first
    | with_reducible assumption
    | with_reducible refine Keeps.writeMask ?_
    | with_reducible refine Keeps.modDie ?_
    | with_reducible refine Keeps.ite ?_ ?_
    | split
    | dsimp only
    | with_reducible refine Keeps.upd ?_

theorem Keeps.dropEntry {s : State} {line : Nat} (hK : Keeps sb s) : Keeps sb (s.dropEntry line) := by
  unfold State.dropEntry
  repeat' first
    | with_reducible assumption
    | with_reducible refine Keeps.modDie ?_
    | dsimp only
    | with_reducible refine Keeps.upd ?_

theorem Keeps.loseWriter {s : State} {die : Nat} {line : Nat} (hK : Keeps sb s) : Keeps sb (s.loseWriter die line) := by
  unfold State.loseWriter
  repeat' first
    | with_reducible assumption
    | with_reducible refine Keeps.dropL3 ?_
    | with_reducible refine Keeps.dropEntry ?_
    | with_reducible refine Keeps.ite ?_ ?_
    | split
    | dsimp only
    | with_reducible refine Keeps.upd ?_

theorem Keeps.acceptVictim {s : State} {core : Nat} {v : L2Line} (hK : Keeps sb s) : Keeps sb (s.acceptVictim core v) := by
  unfold State.acceptVictim
  repeat' first
    | with_reducible assumption
    | with_reducible refine Keeps.writeMask ?_
    | with_reducible refine Keeps.loseWriter ?_
    | dsimp only

theorem Keeps.dropLine {s : State} {core : Nat} {line : Nat} {clean : Bool} (hK : Keeps sb s) :
    Keeps sb (s.dropLine core line clean) := by
  unfold State.dropLine
  repeat' first
    | with_reducible assumption
    | with_reducible refine Keeps.writeMask ?_
    | with_reducible refine Keeps.modCore ?_
    | with_reducible refine Keeps.loseWriter ?_
    | with_reducible refine Keeps.acceptVictim ?_
    | with_reducible refine Keeps.ite ?_ ?_
    | with_reducible refine Keeps.foldl (fun _ _ _ => ?_) ?_
    | split
    | dsimp only
    | with_reducible refine Keeps.upd ?_

theorem Keeps.l2Meet {s : State} {core : Nat} {line : Nat} (hK : Keeps sb s) : Keeps sb (s.l2Meet core line) := by
  unfold State.l2Meet
  repeat' first
    | with_reducible assumption
    | with_reducible refine Keeps.eccLine ?_
    | with_reducible refine Keeps.dropLine ?_
    | with_reducible refine Keeps.deleteL2 ?_
    | with_reducible refine Keeps.ite ?_ ?_
    | with_reducible refine Keeps.of_fst (by assumption) ?_
    | split
    | dsimp only
    | with_reducible refine Keeps.upd ?_

theorem Keeps.evictCore {s : State} {core : Nat} {line : Nat} {clean : Bool} (hK : Keeps sb s) :
    Keeps sb (s.evictCore core line clean) := by
  unfold State.evictCore
  repeat' first
    | with_reducible assumption
    | with_reducible refine Keeps.l2Meet ?_
    | with_reducible refine Keeps.dropLine ?_
    | with_reducible refine Keeps.ite ?_ ?_
    | split
    | dsimp only

theorem Keeps.dropDie {s : State} {die : Nat} {line : Nat} {clean : Bool} (hK : Keeps sb s) :
    Keeps sb (s.dropDie die line clean) := by
  unfold State.dropDie
  repeat' first
    | with_reducible assumption
    | with_reducible refine Keeps.evictCore ?_
    | with_reducible refine Keeps.dropL3 ?_
    | with_reducible refine Keeps.foldl (fun _ _ _ => ?_) ?_
    | dsimp only

theorem Keeps.l3Meet {s : State} {die : Nat} {line : Nat} (hK : Keeps sb s) : Keeps sb (s.l3Meet die line) := by
  unfold State.l3Meet
  repeat' first
    | with_reducible assumption
    | with_reducible refine Keeps.eccLine ?_
    | with_reducible refine Keeps.dropDie ?_
    | with_reducible refine Keeps.deleteL3 ?_
    | with_reducible refine Keeps.ite ?_ ?_
    | with_reducible refine Keeps.of_fst (by assumption) ?_
    | split
    | dsimp only
    | with_reducible refine Keeps.upd ?_

theorem Keeps.evictDie {s : State} {die : Nat} {line : Nat} {clean : Bool} (hK : Keeps sb s) :
    Keeps sb (s.evictDie die line clean) := by
  unfold State.evictDie
  repeat' first
    | with_reducible assumption
    | with_reducible refine Keeps.l3Meet ?_
    | with_reducible refine Keeps.dropDie ?_
    | with_reducible refine Keeps.loseWriter ?_
    | with_reducible refine Keeps.ite ?_ ?_
    | split
    | dsimp only
    | with_reducible refine Keeps.upd ?_

theorem Keeps.l3Room {s : State} {die : Nat} {line : Nat} {fuel : Nat} (hK : Keeps sb s) :
    Keeps sb (s.l3Room die line fuel) := by
  induction fuel generalizing s die line with
  | zero =>
    unfold State.l3Room
    repeat' first
      | with_reducible assumption
      | with_reducible refine Keeps.evictDie ?_
      | with_reducible refine Keeps.ite ?_ ?_
      | split
      | dsimp only
      | with_reducible refine Keeps.upd ?_
  | succ n ih =>
    unfold State.l3Room
    repeat' first
      | with_reducible assumption
      | with_reducible refine ih ?_
      | with_reducible refine Keeps.evictDie ?_
      | with_reducible refine Keeps.ite ?_ ?_
      | split
      | dsimp only
      | with_reducible refine Keeps.upd ?_

theorem Keeps.l3Install {s : State} {die : Nat} {line : Nat} {excl : Bool} (hK : Keeps sb s) :
    Keeps sb (s.l3Install die line excl) := by
  unfold State.l3Install
  repeat' first
    | with_reducible assumption
    | with_reducible refine Keeps.modDie ?_
    | with_reducible refine Keeps.l3Room ?_
    | with_reducible refine Keeps.dropErrs ?_
    | with_reducible refine Keeps.setDie ?_
    | with_reducible refine Keeps.ite ?_ ?_
    | split
    | dsimp only
    | with_reducible refine Keeps.upd ?_

theorem Keeps.modL3 {s : State} {die : Nat} {line : Nat} {f : L3Line → L3Line} (hK : Keeps sb s) :
    Keeps sb (s.modL3 die line f) := by
  unfold State.modL3
  repeat' first
    | with_reducible assumption
    | with_reducible refine Keeps.modDie ?_
    | with_reducible refine Keeps.ite ?_ ?_
    | split
    | dsimp only
    | with_reducible refine Keeps.upd ?_

theorem Keeps.modL2 {s : State} {core : Nat} {line : Nat} {f : L2Line → L2Line} (hK : Keeps sb s) :
    Keeps sb (s.modL2 core line f) := by
  unfold State.modL2
  repeat' first
    | with_reducible assumption
    | with_reducible refine Keeps.modCore ?_
    | with_reducible refine Keeps.ite ?_ ?_
    | split
    | dsimp only
    | with_reducible refine Keeps.upd ?_

theorem Keeps.homeDirty {s : State} {line : Nat} {m : BitVec 4} (hK : Keeps sb s) : Keeps sb (s.homeDirty line m) := by
  unfold State.homeDirty
  repeat' first
    | with_reducible assumption
    | with_reducible refine Keeps.writeMask ?_
    | with_reducible refine Keeps.l3Install ?_
    | with_reducible refine Keeps.modL3 ?_
    | with_reducible refine Keeps.sectorsWritten ?_
    | with_reducible refine Keeps.ite ?_ ?_
    | split
    | dsimp only
    | with_reducible refine Keeps.upd ?_

theorem Keeps.l3Present {s : State} {die : Nat} {slot : Nat} {line : Nat} (hK : Keeps sb s) :
    Keeps sb (s.l3Present die slot line) := by
  unfold State.l3Present
  repeat' first
    | with_reducible assumption
    | with_reducible refine Keeps.modL3 ?_
    | with_reducible refine Keeps.ite ?_ ?_
    | split
    | dsimp only
    | with_reducible refine Keeps.upd ?_

theorem Keeps.l1Fill {s : State} {core : Nat} {x : Bool × Nat} (hK : Keeps sb s) : Keeps sb (s.l1Fill core x) := by
  unfold State.l1Fill
  repeat' first
    | with_reducible assumption
    | with_reducible refine Keeps.dropErrs ?_
    | with_reducible refine Keeps.modCore ?_
    | with_reducible refine Keeps.ite ?_ ?_
    | split
    | dsimp only
    | with_reducible refine Keeps.upd ?_

theorem Keeps.placeL2 {s : State} {core : Nat} {line : Nat} {way : Nat} {excl : Bool} {fills : List (Bool × Nat)} (hK : Keeps sb s) :
    Keeps sb (s.placeL2 core line way excl fills) := by
  unfold State.placeL2
  repeat' first
    | with_reducible assumption
    | with_reducible refine Keeps.setCore ?_
    | with_reducible refine Keeps.dropErrs ?_
    | with_reducible refine Keeps.l3Install ?_
    | with_reducible refine Keeps.l3Present ?_
    | with_reducible refine Keeps.l1Fill ?_
    | with_reducible refine Keeps.ite ?_ ?_
    | with_reducible refine Keeps.foldl (fun _ _ _ => ?_) ?_
    | split
    | dsimp only
    | with_reducible refine Keeps.upd ?_

theorem Keeps.dropMiss {s : State} {core : Nat} {line : Nat} (hK : Keeps sb s) : Keeps sb (s.dropMiss core line) := by
  unfold State.dropMiss
  repeat' first
    | with_reducible assumption
    | with_reducible refine Keeps.modCore ?_
    | dsimp only
    | with_reducible refine Keeps.upd ?_

theorem Keeps.acceptVictims {s : State} {line : Nat} (hK : Keeps sb s) : Keeps sb (s.acceptVictims line) := by
  unfold State.acceptVictims
  repeat' first
    | with_reducible assumption
    | with_reducible refine Keeps.acceptVictim ?_
    | with_reducible refine Keeps.modCore ?_
    | with_reducible refine Keeps.ite ?_ ?_
    | with_reducible refine Keeps.foldl (fun _ _ _ => ?_) ?_
    | split
    | dsimp only
    | with_reducible refine Keeps.upd ?_

theorem Keeps.victimFor {s : State} {core : Nat} {line : Nat} {fuel : Nat} (hK : Keeps sb s) :
    Keeps sb (s.victimFor core line fuel).1 := by
  induction fuel generalizing s core line with
  | zero =>
    unfold State.victimFor
    repeat' first
      | with_reducible assumption
      | with_reducible refine Keeps.l2Meet ?_
      | with_reducible refine Keeps.ite ?_ ?_
      | with_reducible refine Keeps.of_fst (by assumption) ?_
      | split
      | dsimp only
      | with_reducible refine Keeps.upd ?_
  | succ n ih =>
    unfold State.victimFor
    repeat' first
      | with_reducible assumption
      | with_reducible refine ih ?_
      | with_reducible refine Keeps.l2Meet ?_
      | with_reducible refine Keeps.ite ?_ ?_
      | with_reducible refine Keeps.of_fst (by assumption) ?_
      | split
      | dsimp only
      | with_reducible refine Keeps.upd ?_

theorem Keeps.fillArrives {s : State} {core : Nat} {line : Nat} (hK : Keeps sb s) : Keeps sb (s.fillArrives core line) := by
  unfold State.fillArrives
  repeat' first
    | with_reducible assumption
    | with_reducible refine Keeps.victimFor ?_
    | with_reducible refine Keeps.dropMiss ?_
    | with_reducible refine Keeps.placeL2 ?_
    | with_reducible refine Keeps.modCore ?_
    | with_reducible refine Keeps.modL3 ?_
    | with_reducible refine Keeps.sectorsWritten ?_
    | with_reducible refine Keeps.ite ?_ ?_
    | with_reducible refine Keeps.of_fst (by assumption) ?_
    | split
    | dsimp only
    | with_reducible refine Keeps.upd ?_

theorem Keeps.fillWaiting {s : State} {core : Nat} {b : MissBuf} {v : L2Line} (hK : Keeps sb s) :
    Keeps sb (s.fillWaiting core b v) := by
  unfold State.fillWaiting
  repeat' first
    | with_reducible assumption
    | with_reducible refine Keeps.dropMiss ?_
    | with_reducible refine Keeps.acceptVictim ?_
    | with_reducible refine Keeps.placeL2 ?_
    | dsimp only

theorem Keeps.victimAccepted {s : State} {core : Nat} {line : Nat} (hK : Keeps sb s) :
    Keeps sb (s.victimAccepted core line) := by
  unfold State.victimAccepted
  repeat' first
    | with_reducible assumption
    | with_reducible refine Keeps.fillWaiting ?_
    | with_reducible refine Keeps.ite ?_ ?_
    | split
    | dsimp only
    | with_reducible refine Keeps.upd ?_

theorem Keeps.settleFills {s : State} {core : Nat} {f : Nat → Bool} (hK : Keeps sb s) : Keeps sb (s.settleFills core f) := by
  unfold State.settleFills
  repeat' first
    | with_reducible assumption
    | with_reducible refine Keeps.fillWaiting ?_
    | with_reducible refine Keeps.foldl (fun _ _ _ => ?_) ?_
    | split
    | dsimp only
    | with_reducible refine Keeps.upd ?_

theorem Keeps.completeFill {s : State} {core : Nat} {line : Nat} (hK : Keeps sb s) : Keeps sb (s.completeFill core line) := by
  unfold State.completeFill
  repeat' first
    | with_reducible assumption
    | with_reducible refine Keeps.fillArrives ?_
    | with_reducible refine Keeps.settleFills ?_
    | with_reducible refine Keeps.ite ?_ ?_
    | split
    | dsimp only

theorem Keeps.takeBuffer {s : State} {core : Nat} {b : MissBuf} (hK : Keeps sb s) : Keeps sb (s.takeBuffer core b) := by
  unfold State.takeBuffer
  repeat' first
    | with_reducible assumption
    | with_reducible refine Keeps.completeFill ?_
    | with_reducible refine Keeps.modCore ?_
    | with_reducible refine Keeps.ite ?_ ?_
    | split
    | dsimp only
    | with_reducible refine Keeps.upd ?_

theorem Keeps.removeL2 {s : State} {core : Nat} {line : Nat} {clean : Bool} (hK : Keeps sb s) :
    Keeps sb (s.removeL2 core line clean) := by
  unfold State.removeL2
  repeat' first
    | with_reducible assumption
    | with_reducible refine Keeps.completeFill ?_
    | with_reducible refine Keeps.evictCore ?_
    | dsimp only

theorem Keeps.completeFills {s : State} {ks : List Nat} {line : Nat} (hK : Keeps sb s) :
    Keeps sb (s.completeFills ks line) := by
  unfold State.completeFills
  repeat' first
    | with_reducible assumption
    | with_reducible refine Keeps.completeFill ?_
    | with_reducible refine Keeps.foldl (fun _ _ _ => ?_) ?_
    | dsimp only

theorem Keeps.removeDie {s : State} {die : Nat} {line : Nat} {clean : Bool} (hK : Keeps sb s) :
    Keeps sb (s.removeDie die line clean) := by
  unfold State.removeDie
  repeat' first
    | with_reducible assumption
    | with_reducible refine Keeps.completeFills ?_
    | with_reducible refine Keeps.evictDie ?_
    | dsimp only

theorem Keeps.removeAll {s : State} {line : Nat} {clean : Bool} (hK : Keeps sb s) : Keeps sb (s.removeAll line clean) := by
  unfold State.removeAll
  repeat' first
    | with_reducible assumption
    | with_reducible refine Keeps.acceptVictims ?_
    | with_reducible refine Keeps.completeFills ?_
    | with_reducible refine Keeps.evictDie ?_
    | with_reducible refine Keeps.dropEntry ?_
    | with_reducible refine Keeps.foldl (fun _ _ _ => ?_) ?_
    | dsimp only

theorem Keeps.supply {s : State} {line : Nat} (hK : Keeps sb s) : Keeps sb (s.supply line) := by
  unfold State.supply
  repeat' first
    | with_reducible assumption
    | with_reducible refine Keeps.l2Meet ?_
    | with_reducible refine Keeps.l3Meet ?_
    | with_reducible refine Keeps.ite ?_ ?_
    | with_reducible refine Keeps.foldl (fun _ _ _ => ?_) ?_
    | split
    | dsimp only

theorem Keeps.cleanLine {s : State} {line : Nat} (hK : Keeps sb s) : Keeps sb (s.cleanLine line) := by
  unfold State.cleanLine
  repeat' first
    | with_reducible assumption
    | with_reducible refine Keeps.acceptVictims ?_
    | with_reducible refine Keeps.completeFills ?_
    | with_reducible refine Keeps.supply ?_
    | with_reducible refine Keeps.writeMask ?_
    | with_reducible refine Keeps.modL2 ?_
    | with_reducible refine Keeps.modL3 ?_
    | with_reducible refine Keeps.ite ?_ ?_
    | with_reducible refine Keeps.foldl (fun _ _ _ => ?_) ?_
    | split
    | dsimp only
    | with_reducible refine Keeps.upd ?_

theorem Keeps.discardMask {s : State} {line : Nat} {m : BitVec 4} (hK : Keeps sb s) : Keeps sb (s.discardMask line m) := by
  unfold State.discardMask
  repeat' first
    | with_reducible assumption
    | with_reducible refine Keeps.putBytes ?_
    | with_reducible refine Keeps.clearPoison ?_
    | with_reducible refine Keeps.foldl (fun _ _ _ => ?_) ?_
    | dsimp only

theorem Keeps.dirPut {s : State} {e : DirEntry} (hK : Keeps sb s) : Keeps sb (s.dirPut e) := by
  unfold State.dirPut
  repeat' first
    | with_reducible assumption
    | with_reducible refine Keeps.modDie ?_
    | with_reducible refine Keeps.removeAll ?_
    | with_reducible refine Keeps.evInc ?_
    | with_reducible refine Keeps.ite ?_ ?_
    | split
    | dsimp only
    | with_reducible refine Keeps.upd ?_

theorem Keeps.shareCores {s : State} {ks : List Nat} {line : Nat} (hK : Keeps sb s) : Keeps sb (s.shareCores ks line) := by
  unfold State.shareCores
  repeat' first
    | with_reducible assumption
    | with_reducible refine Keeps.modCore ?_
    | with_reducible refine Keeps.homeDirty ?_
    | with_reducible refine Keeps.ite ?_ ?_
    | with_reducible refine Keeps.foldl (fun _ _ _ => ?_) ?_
    | split
    | dsimp only
    | with_reducible refine Keeps.upd ?_

theorem Keeps.downgradeDie {s : State} {die : Nat} {line : Nat} (hK : Keeps sb s) : Keeps sb (s.downgradeDie die line) := by
  unfold State.downgradeDie
  repeat' first
    | with_reducible assumption
    | with_reducible refine Keeps.shareCores ?_
    | with_reducible refine Keeps.modL3 ?_
    | with_reducible refine Keeps.ite ?_ ?_
    | split
    | dsimp only
    | with_reducible refine Keeps.upd ?_

theorem Keeps.dramLine {s : State} {pa : Nat} (hK : Keeps sb s) : Keeps sb (s.dramLine pa) := by
  unfold State.dramLine
  repeat' first
    | with_reducible assumption
    | with_reducible refine Keeps.readBlock ?_
    | dsimp only

theorem Keeps.bringLine {s : State} {pa : Nat} (hK : Keeps sb s) : Keeps sb (s.bringLine pa) := by
  unfold State.bringLine
  repeat' first
    | with_reducible assumption
    | with_reducible refine Keeps.supply ?_
    | with_reducible refine Keeps.dramLine ?_
    | with_reducible refine Keeps.ite ?_ ?_
    | split
    | dsimp only

theorem Keeps.dirLookup {s : State} {line : Nat} (hK : Keeps sb s) : Keeps sb (s.dirLookup line) := by
  unfold State.dirLookup
  repeat' first
    | with_reducible assumption
    | with_reducible refine Keeps.tagMeet ?_
    | dsimp only

theorem Keeps.ownDirty {s : State} {die : Nat} {line : Nat} {m : BitVec 4} (hK : Keeps sb s) :
    Keeps sb (s.ownDirty die line m) := by
  unfold State.ownDirty
  repeat' first
    | with_reducible assumption
    | with_reducible refine Keeps.homeDirty ?_
    | with_reducible refine Keeps.writeMask ?_
    | with_reducible refine Keeps.ite ?_ ?_
    | split
    | dsimp only

theorem Keeps.homeRead {s : State} {die : Nat} {pa : Nat} (hK : Keeps sb s) : Keeps sb (s.homeRead die pa).1 := by
  unfold State.homeRead
  repeat' first
    | with_reducible assumption
    | with_reducible refine Keeps.dirLookup ?_
    | with_reducible refine Keeps.bringLine ?_
    | with_reducible refine Keeps.dirPut ?_
    | with_reducible refine Keeps.downgradeDie ?_
    | with_reducible refine Keeps.ite ?_ ?_
    | with_reducible refine Keeps.foldl (fun _ _ _ => ?_) ?_
    | with_reducible refine Keeps.foldl_fst (fun _ _ _ => ?_) ?_
    | with_reducible refine Keeps.of_fst (by assumption) ?_
    | split
    | dsimp only
    | with_reducible refine Keeps.upd ?_

theorem Keeps.homeOwn {s : State} {die : Nat} {pa : Nat} (hK : Keeps sb s) : Keeps sb (s.homeOwn die pa) := by
  unfold State.homeOwn
  repeat' first
    | with_reducible assumption
    | with_reducible refine Keeps.dirLookup ?_
    | with_reducible refine Keeps.acceptVictims ?_
    | with_reducible refine Keeps.completeFills ?_
    | with_reducible refine Keeps.bringLine ?_
    | with_reducible refine Keeps.evictCore ?_
    | with_reducible refine Keeps.dropL3 ?_
    | with_reducible refine Keeps.ownDirty ?_
    | with_reducible refine Keeps.dirPut ?_
    | with_reducible refine Keeps.foldl (fun _ _ _ => ?_) ?_
    | dsimp only

theorem Keeps.homeWriteback {s0 : State} {die : Nat} {pa : Nat} (hK : Keeps sb s0) : Keeps sb (s0.homeWriteback die pa) := by
  unfold State.homeWriteback
  repeat' first
    | with_reducible assumption
    | with_reducible refine Keeps.acceptVictims ?_
    | with_reducible refine Keeps.removeL2 ?_
    | with_reducible refine Keeps.dropL3 ?_
    | with_reducible refine Keeps.dropEntry ?_
    | with_reducible refine Keeps.ite ?_ ?_
    | with_reducible refine Keeps.foldl (fun _ _ _ => ?_) ?_
    | split
    | dsimp only
    | with_reducible refine Keeps.upd ?_

theorem Keeps.meetErrors {s : State} {core : Nat} {pa : Nat} (hK : Keeps sb s) : Keeps sb (s.meetErrors core pa) := by
  unfold State.meetErrors
  repeat' first
    | with_reducible assumption
    | with_reducible refine Keeps.dropErrs ?_
    | with_reducible refine Keeps.modCore ?_
    | with_reducible refine Keeps.errInc ?_
    | with_reducible refine Keeps.cacheSend ?_
    | with_reducible refine Keeps.tagMeet ?_
    | with_reducible refine Keeps.l2Meet ?_
    | with_reducible refine Keeps.l3Meet ?_
    | with_reducible refine Keeps.ite ?_ ?_
    | split
    | dsimp only
    | with_reducible refine Keeps.upd ?_

theorem Keeps.dropL1i {s : State} {x : Nat} (hK : Keeps sb s) : Keeps sb (s.dropL1i x) := by
  unfold State.dropL1i
  repeat' first
    | with_reducible assumption
    | dsimp only
    | with_reducible refine Keeps.upd ?_

theorem Keeps.shareInDie {s : State} {core : Nat} {line : Nat} (hK : Keeps sb s) : Keeps sb (s.shareInDie core line).1 := by
  unfold State.shareInDie
  repeat' first
    | with_reducible assumption
    | with_reducible refine Keeps.shareCores ?_
    | with_reducible refine Keeps.ite ?_ ?_
    | with_reducible refine Keeps.of_fst (by assumption) ?_
    | split
    | dsimp only

theorem Keeps.dieRead {s : State} {core : Nat} {pa : Nat} (hK : Keeps sb s) : Keeps sb (s.dieRead core pa).1 := by
  unfold State.dieRead
  repeat' first
    | with_reducible assumption
    | with_reducible refine Keeps.shareInDie ?_
    | with_reducible refine Keeps.homeRead ?_
    | with_reducible refine Keeps.l3Install ?_
    | with_reducible refine Keeps.of_fst (by assumption) ?_
    | split
    | dsimp only

theorem Keeps.coreRead {s0 : State} {core : Nat} {pa : Nat} {fetch : Bool} (hK : Keeps sb s0) :
    Keeps sb (s0.coreRead core pa fetch) := by
  unfold State.coreRead
  repeat' first
    | with_reducible assumption
    | with_reducible refine Keeps.meetErrors ?_
    | with_reducible refine Keeps.dieRead ?_
    | with_reducible refine Keeps.modCore ?_
    | with_reducible refine Keeps.l1Fill ?_
    | with_reducible refine Keeps.l3Present ?_
    | with_reducible refine Keeps.takeBuffer ?_
    | with_reducible refine Keeps.ite ?_ ?_
    | with_reducible refine Keeps.of_fst (by assumption) ?_
    | split
    | dsimp only
    | with_reducible refine Keeps.upd ?_

theorem Keeps.coreOwn {s0 : State} {core : Nat} {pa : Nat} (hK : Keeps sb s0) : Keeps sb (s0.coreOwn core pa) := by
  unfold State.coreOwn
  repeat' first
    | with_reducible assumption
    | with_reducible refine Keeps.completeFill ?_
    | with_reducible refine Keeps.meetErrors ?_
    | with_reducible refine Keeps.modCore ?_
    | with_reducible refine Keeps.completeFills ?_
    | with_reducible refine Keeps.supply ?_
    | with_reducible refine Keeps.evictCore ?_
    | with_reducible refine Keeps.ownDirty ?_
    | with_reducible refine Keeps.homeOwn ?_
    | with_reducible refine Keeps.l3Install ?_
    | with_reducible refine Keeps.modL2 ?_
    | with_reducible refine Keeps.takeBuffer ?_
    | with_reducible refine Keeps.ite ?_ ?_
    | with_reducible refine Keeps.foldl (fun _ _ _ => ?_) ?_
    | split
    | dsimp only
    | with_reducible refine Keeps.upd ?_

theorem Keeps.markDirty {s : State} {core : Nat} {pa : Nat} (hK : Keeps sb s) : Keeps sb (s.markDirty core pa) := by
  unfold State.markDirty
  repeat' first
    | with_reducible assumption
    | with_reducible refine Keeps.modL2 ?_
    | split
    | dsimp only
    | with_reducible refine Keeps.upd ?_

theorem Keeps.markClean {s : State} {core : Nat} {pa : Nat} (hK : Keeps sb s) : Keeps sb (s.markClean core pa) := by
  unfold State.markClean
  repeat' first
    | with_reducible assumption
    | with_reducible refine Keeps.modL2 ?_
    | with_reducible refine Keeps.ite ?_ ?_
    | split
    | dsimp only
    | with_reducible refine Keeps.upd ?_

theorem Keeps.putCells {s : State} {sec : Nat} {cells : List Host.Cell} (hK : Keeps sb s) : Keeps sb (s.putCells sec cells) := by
  have h1 := hK.mem (Memory.wf_foldr s.mem cells)
  exact Keeps.ite h1.clearPoison h1

theorem Keeps.homeMerge {s : State} {sec : Nat} {cells : List Host.Cell} (hK : Keeps sb s) :
    Keeps sb (s.homeMerge sec cells) := by
  unfold State.homeMerge
  repeat' first
    | with_reducible assumption
    | with_reducible refine Keeps.removeAll ?_
    | with_reducible refine Keeps.dramLine ?_
    | with_reducible refine Keeps.putCells ?_
    | with_reducible refine Keeps.homeDirty ?_
    | with_reducible refine Keeps.dropL1i ?_
    | with_reducible refine Keeps.ite ?_ ?_
    | split
    | dsimp only

theorem Keeps.coreWrite {s : State} {core : Nat} {sec : Nat} {cells : List Host.Cell} {through : Bool} (hK : Keeps sb s) :
    Keeps sb (s.coreWrite core sec cells through) := by
  unfold State.coreWrite
  repeat' first
    | with_reducible assumption
    | with_reducible refine Keeps.homeMerge ?_
    | with_reducible refine Keeps.cleanLine ?_
    | with_reducible refine Keeps.coreOwn ?_
    | with_reducible refine Keeps.putCells ?_
    | with_reducible refine Keeps.dropL1i ?_
    | with_reducible refine Keeps.writeSector ?_
    | with_reducible refine Keeps.markClean ?_
    | with_reducible refine Keeps.markDirty ?_
    | with_reducible refine Keeps.ite ?_ ?_
    | split
    | dsimp only

theorem Keeps.uncachedRead {s : State} {pa : Nat} (hK : Keeps sb s) : Keeps sb (s.uncachedRead pa) := by
  unfold State.uncachedRead
  repeat' first
    | with_reducible assumption
    | with_reducible refine Keeps.removeAll ?_
    | with_reducible refine Keeps.readBlock ?_
    | dsimp only

theorem Keeps.homeWrite {s : State} {sec : Nat} {cells : List Host.Cell} (hK : Keeps sb s) :
    Keeps sb (s.homeWrite sec cells) := by
  unfold State.homeWrite
  repeat' first
    | with_reducible assumption
    | with_reducible refine Keeps.removeAll ?_
    | with_reducible refine Keeps.putCells ?_
    | with_reducible refine Keeps.acceptWrite ?_
    | with_reducible refine Keeps.dropL1i ?_
    | with_reducible refine Keeps.ite ?_ ?_
    | split
    | dsimp only

theorem Keeps.engineRead {s : State} {pa : Nat} (hK : Keeps sb s) : Keeps sb (s.engineRead pa) := by
  unfold State.engineRead
  repeat' first
    | with_reducible assumption
    | with_reducible refine Keeps.bringLine ?_
    | dsimp only

theorem Keeps.engineWrite {s : State} {sec : Nat} {cells : List Host.Cell} (hK : Keeps sb s) :
    Keeps sb (s.engineWrite sec cells) := by
  unfold State.engineWrite
  repeat' first
    | with_reducible assumption
    | with_reducible refine Keeps.homeWrite ?_
    | with_reducible refine Keeps.homeMerge ?_
    | with_reducible refine Keeps.ite ?_ ?_
    | split
    | dsimp only

theorem Keeps.cinv {s : State} {line : Nat} (hK : Keeps sb s) : Keeps sb (s.cinv line) := by
  unfold State.cinv
  repeat' first
    | with_reducible assumption
    | with_reducible refine Keeps.acceptVictims ?_
    | with_reducible refine Keeps.completeFills ?_
    | with_reducible refine Keeps.removeAll ?_
    | with_reducible refine Keeps.discardMask ?_
    | dsimp only

theorem Keeps.cclinv {s : State} {line : Nat} (hK : Keeps sb s) : Keeps sb (s.cclinv line) := by
  unfold State.cclinv
  repeat' first
    | with_reducible assumption
    | with_reducible refine Keeps.removeAll ?_
    | dsimp only

theorem Keeps.czeroCached {s : State} {core : Nat} {line : Nat} {through : Bool} (hK : Keeps sb s) :
    Keeps sb (s.czeroCached core line through) := by
  unfold State.czeroCached
  repeat' first
    | with_reducible assumption
    | with_reducible refine Keeps.removeAll ?_
    | with_reducible refine Keeps.clearPoison ?_
    | with_reducible refine Keeps.putBytes ?_
    | with_reducible refine Keeps.dirPut ?_
    | with_reducible refine Keeps.takeBuffer ?_
    | with_reducible refine Keeps.completeFill ?_
    | with_reducible refine Keeps.modL2 ?_
    | with_reducible refine Keeps.writeMask ?_
    | with_reducible refine Keeps.ite ?_ ?_
    | split
    | dsimp only
    | with_reducible refine Keeps.upd ?_

theorem Keeps.czeroHome {s : State} {line : Nat} (hK : Keeps sb s) : Keeps sb (s.czeroHome line) := by
  unfold State.czeroHome
  repeat' first
    | with_reducible assumption
    | with_reducible refine Keeps.removeAll ?_
    | with_reducible refine Keeps.homeWrite ?_
    | with_reducible refine Keeps.foldl (fun _ _ _ => ?_) ?_
    | dsimp only

theorem Keeps.sweepL2 {s : State} {core : Nat} (hK : Keeps sb s) : Keeps sb (s.sweepL2 core) := by
  unfold State.sweepL2
  repeat' first
    | with_reducible assumption
    | with_reducible refine Keeps.completeFill ?_
    | with_reducible refine Keeps.evictCore ?_
    | with_reducible refine Keeps.modCore ?_
    | with_reducible refine Keeps.foldl (fun _ _ _ => ?_) ?_
    | dsimp only
    | with_reducible refine Keeps.upd ?_

theorem Keeps.l2SweepEnd {s : State} {core : Nat} (hK : Keeps sb s) : Keeps sb (s.l2SweepEnd core) := by
  unfold State.l2SweepEnd
  repeat' first
    | with_reducible assumption
    | with_reducible refine Keeps.sweepL2 ?_
    | with_reducible refine Keeps.setRf ?_
    | with_reducible refine Keeps.ite ?_ ?_
    | split
    | dsimp only

theorem Keeps.l2Enable {s : State} {core : Nat} (hK : Keeps sb s) : Keeps sb (s.l2Enable core) := by
  unfold State.l2Enable
  repeat' first
    | with_reducible assumption
    | with_reducible refine Keeps.setRf ?_
    | with_reducible refine Keeps.ite ?_ ?_
    | split
    | dsimp only

theorem Keeps.sweepL3 {s : State} {die : Nat} (hK : Keeps sb s) : Keeps sb (s.sweepL3 die) := by
  unfold State.sweepL3
  repeat' first
    | with_reducible assumption
    | with_reducible refine Keeps.l3Meet ?_
    | with_reducible refine Keeps.writeMask ?_
    | with_reducible refine Keeps.modDie ?_
    | with_reducible refine Keeps.ite ?_ ?_
    | with_reducible refine Keeps.foldl (fun _ _ _ => ?_) ?_
    | split
    | dsimp only
    | with_reducible refine Keeps.upd ?_

theorem Keeps.l3SweepEnd {s : State} {die : Nat} (hK : Keeps sb s) : Keeps sb (s.l3SweepEnd die) := by
  unfold State.l3SweepEnd
  repeat' first
    | with_reducible assumption
    | with_reducible refine Keeps.sweepL3 ?_
    | with_reducible refine Keeps.setRf ?_
    | with_reducible refine Keeps.ite ?_ ?_
    | split
    | dsimp only

theorem Keeps.l3Enable {s : State} {die : Nat} (hK : Keeps sb s) : Keeps sb (s.l3Enable die) := by
  unfold State.l3Enable
  repeat' first
    | with_reducible assumption
    | with_reducible refine Keeps.setRf ?_
    | with_reducible refine Keeps.ite ?_ ?_
    | split
    | dsimp only

theorem Keeps.discardAll {s : State} (hK : Keeps sb s) : Keeps sb (s.discardAll) := by
  unfold State.discardAll
  repeat' first
    | with_reducible assumption
    | with_reducible refine Keeps.discardMask ?_
    | with_reducible refine Keeps.ite ?_ ?_
    | with_reducible refine Keeps.foldl (fun _ _ _ => ?_) ?_
    | split
    | dsimp only
    | with_reducible refine Keeps.upd ?_

theorem Keeps.scrubL2 {s : State} {core : Nat} {line : Nat} {before : List (Nat × Nat × Nat)} (hK : Keeps sb s) :
    Keeps sb (s.scrubL2 core line before).1 := by
  unfold State.scrubL2
  repeat' first
    | with_reducible assumption
    | with_reducible refine Keeps.l2Meet ?_
    | with_reducible refine Keeps.evictCore ?_
    | with_reducible refine Keeps.deleteL2 ?_
    | with_reducible refine Keeps.ite ?_ ?_
    | with_reducible refine Keeps.of_fst (by assumption) ?_
    | split
    | dsimp only
    | with_reducible refine Keeps.upd ?_

theorem Keeps.scrubL3 {s : State} {die : Nat} {line : Nat} {before : List (Nat × Nat × Nat)} (hK : Keeps sb s) :
    Keeps sb (s.scrubL3 die line before).1 := by
  unfold State.scrubL3
  repeat' first
    | with_reducible assumption
    | with_reducible refine Keeps.l3Meet ?_
    | with_reducible refine Keeps.evictDie ?_
    | with_reducible refine Keeps.deleteL3 ?_
    | with_reducible refine Keeps.ite ?_ ?_
    | with_reducible refine Keeps.of_fst (by assumption) ?_
    | split
    | dsimp only
    | with_reducible refine Keeps.upd ?_

theorem Keeps.scrubCore {s : State} {core : Nat} {pos : Nat} (hK : Keeps sb s) : Keeps sb (s.scrubCore core pos) := by
  unfold State.scrubCore
  repeat' first
    | with_reducible assumption
    | with_reducible refine Keeps.tagMeet ?_
    | with_reducible refine Keeps.scrubL2 ?_
    | with_reducible refine Keeps.modCore ?_
    | with_reducible refine Keeps.foldl (fun _ _ _ => ?_) ?_
    | with_reducible refine Keeps.foldl_fst (fun _ _ _ => ?_) ?_
    | with_reducible refine Keeps.of_fst (by assumption) ?_
    | dsimp only
    | with_reducible refine Keeps.upd ?_

theorem Keeps.scrubSlices {s : State} {die : Nat} {pos : Nat} (hK : Keeps sb s) : Keeps sb (s.scrubSlices die pos) := by
  unfold State.scrubSlices
  repeat' first
    | with_reducible assumption
    | with_reducible refine Keeps.tagMeet ?_
    | with_reducible refine Keeps.scrubL3 ?_
    | with_reducible refine Keeps.modDie ?_
    | with_reducible refine Keeps.foldl (fun _ _ _ => ?_) ?_
    | with_reducible refine Keeps.foldl_fst (fun _ _ _ => ?_) ?_
    | with_reducible refine Keeps.of_fst (by assumption) ?_
    | dsimp only
    | with_reducible refine Keeps.upd ?_

theorem Keeps.scrubDie {s : State} {die : Nat} (hK : Keeps sb s) : Keeps sb (s.scrubDie die) := by
  unfold State.scrubDie
  repeat' first
    | with_reducible assumption
    | with_reducible refine Keeps.scrubCore ?_
    | with_reducible refine Keeps.scrubSlices ?_
    | with_reducible refine Keeps.modDie ?_
    | with_reducible refine Keeps.ite ?_ ?_
    | with_reducible refine Keeps.foldl (fun _ _ _ => ?_) ?_
    | split
    | dsimp only
    | with_reducible refine Keeps.upd ?_

theorem Keeps.putEntry {s : State} {m : Bool} {p : Nat} {e : Sct} (hK : Keeps sb s) : Keeps sb (s.putEntry m p e) := by
  unfold State.putEntry
  repeat' first
    | with_reducible assumption
    | with_reducible refine Keeps.ite ?_ ?_
    | split
    | dsimp only
    | with_reducible refine Keeps.upd ?_

theorem Keeps.putSlot {s : State} {m : Bool} {p : Nat} {x : Slot} (hK : Keeps sb s) : Keeps sb (s.putSlot m p x) := by
  unfold State.putSlot
  repeat' first
    | with_reducible assumption
    | with_reducible refine Keeps.ite ?_ ?_
    | split
    | dsimp only
    | with_reducible refine Keeps.upd ?_

theorem Keeps.putRec {s : State} {r : Rec} {p : Nat} {m : Bool} {b : List Byte} (hK : Keeps sb s) :
    Keeps sb (s.putRec r p m b) := by
  unfold State.putRec
  repeat' first
    | with_reducible assumption
    | with_reducible refine Keeps.putSlot ?_
    | with_reducible refine Keeps.putEntry ?_
    | split
    | dsimp only
    | with_reducible refine Keeps.upd ?_

theorem Keeps.wsPutByte {s : State} {cell : Nat} {b : Byte} (hK : Keeps sb s) : Keeps sb (s.wsPutByte cell b) :=
  Keeps.ite hK.putRec (hK.ws (Memory.wf_write _ _ _))

theorem Keeps.wsPut {s : State} {cell : Nat} {fuel : List Byte} (hK : Keeps sb s) : Keeps sb (s.wsPut cell fuel) := by
  induction fuel generalizing s cell with
  | nil =>
    unfold State.wsPut
    repeat' first
      | with_reducible assumption
      | with_reducible refine Keeps.wsPutByte ?_
      | split
      | dsimp only
  | cons hd tl ih =>
    unfold State.wsPut
    repeat' first
      | with_reducible assumption
      | with_reducible refine ih ?_
      | with_reducible refine Keeps.wsPutByte ?_
      | split
      | dsimp only

theorem Keeps.wsZero {s : State} {lo n : Nat} (hK : Keeps sb s) : Keeps sb (s.wsZero lo n) := by
  unfold State.wsZero
  extract_lets hit s1 zero s2
  have hz : ∀ m t p, Keeps sb t → Keeps sb (zero m t p) := by
    intro m t p ht
    simp only [zero]
    repeat' first
      | with_reducible assumption
      | with_reducible refine Keeps.putSlot ?_
      | with_reducible refine Keeps.putEntry ?_
      | with_reducible refine Keeps.ite ?_ ?_
  have h2 : Keeps sb s2 := Keeps.foldl (hz false) (hK.ws (Memory.wf_filter _ _))
  exact Keeps.foldl (hz true) h2

theorem Keeps.wsSend {s : State} {cell : Nat} {owner : Nat} {kind : Nat} {cls : Nat} {inj : Bool × Bool} (hK : Keeps sb s) :
    Keeps sb (s.wsSend cell owner kind cls inj) := by
  unfold State.wsSend
  repeat' first
    | with_reducible assumption
    | with_reducible refine Keeps.send ?_
    | dsimp only

theorem Keeps.wsDeny {s : State} {cell : Nat} {owner : Nat} (hK : Keeps sb s) : Keeps sb (s.wsDeny cell owner) := by
  unfold State.wsDeny
  repeat' first
    | with_reducible assumption
    | with_reducible refine Keeps.setRf ?_
    | with_reducible refine Keeps.errInc ?_
    | with_reducible refine Keeps.wsSend ?_
    | dsimp only

theorem Keeps.wsHalf {s : State} {cell : Nat} {owner : Nat} {l : List ArrErr} (hK : Keeps sb s) :
    Keeps sb (s.wsHalf cell owner l).1 := by
  unfold State.wsHalf
  repeat' first
    | with_reducible assumption
    | with_reducible refine Keeps.errInc ?_
    | with_reducible refine Keeps.wsSend ?_
    | with_reducible refine Keeps.ite ?_ ?_
    | with_reducible refine Keeps.of_fst (by assumption) ?_
    | split
    | dsimp only
    | with_reducible refine Keeps.upd ?_

theorem Keeps.wsErrors {s : State} {cell : Nat} {n : Nat} {owner : Nat} (hK : Keeps sb s) :
    Keeps sb (s.wsErrors cell n owner).1 := by
  unfold State.wsErrors
  repeat' first
    | with_reducible assumption
    | with_reducible refine Keeps.wsHalf ?_
    | with_reducible refine Keeps.foldl (fun _ _ _ => ?_) ?_
    | with_reducible refine Keeps.foldl_fst (fun _ _ _ => ?_) ?_
    | with_reducible refine Keeps.of_fst (by assumption) ?_
    | split
    | dsimp only

theorem Keeps.wsClean {s : State} {cell : Nat} {n : Nat} (hK : Keeps sb s) : Keeps sb (s.wsClean cell n) := by
  unfold State.wsClean
  repeat' first
    | with_reducible assumption
    | dsimp only
    | with_reducible refine Keeps.upd ?_

theorem Keeps.wcWrite {s : State} {u : Nat} {b : WcBuf} (hK : Keeps sb s) : Keeps sb (s.wcWrite u b) := by
  unfold State.wcWrite
  repeat' first
    | with_reducible assumption
    | with_reducible refine Keeps.conflicts ?_
    | with_reducible refine Keeps.homeWrite ?_
    | dsimp only

theorem Keeps.wcFlush {s : State} {u : Nat} (hK : Keeps sb s) : Keeps sb (s.wcFlush u) := by
  unfold State.wcFlush
  repeat' first
    | with_reducible assumption
    | with_reducible refine Keeps.wcWrite ?_
    | with_reducible refine Keeps.modUnit ?_
    | with_reducible refine Keeps.foldl (fun _ _ _ => ?_) ?_
    | dsimp only
    | with_reducible refine Keeps.upd ?_

theorem Keeps.wcStore {s : State} {u : Nat} {pa : Nat} {data : List Byte} (hK : Keeps sb s) :
    Keeps sb (s.wcStore u pa data) := by
  unfold State.wcStore
  repeat' first
    | with_reducible assumption
    | with_reducible refine Keeps.modUnit ?_
    | with_reducible refine Keeps.wcWrite ?_
    | with_reducible refine Keeps.ite ?_ ?_
    | split
    | dsimp only
    | with_reducible refine Keeps.upd ?_

theorem Keeps.walked {s : State} {u : Nat} {p : Piece} (hK : Keeps sb s) : Keeps sb (s.walked u p) := by
  unfold State.walked
  repeat' first
    | with_reducible assumption
    | with_reducible refine Keeps.conflicts ?_
    | with_reducible refine Keeps.coreRead ?_
    | with_reducible refine Keeps.modUnit ?_
    | with_reducible refine Keeps.foldl (fun _ _ _ => ?_) ?_
    | split
    | dsimp only
    | with_reducible refine Keeps.upd ?_

theorem Keeps.readSide {s : State} {u : Nat} {p : Piece} {fetch : Bool} (hK : Keeps sb s) :
    Keeps sb (s.readSide u p fetch) := by
  unfold State.readSide
  repeat' first
    | with_reducible assumption
    | with_reducible refine Keeps.conflicts ?_
    | with_reducible refine Keeps.uncachedRead ?_
    | with_reducible refine Keeps.engineRead ?_
    | with_reducible refine Keeps.coreRead ?_
    | with_reducible refine Keeps.ite ?_ ?_
    | with_reducible refine Keeps.foldl (fun _ _ _ => ?_) ?_
    | with_reducible refine Keeps.foldl_fst (fun _ _ _ => ?_) ?_
    | split
    | dsimp only

theorem Keeps.wcSupersede {s : State} {u : Nat} {pa : Nat} {n : Nat} (hK : Keeps sb s) : Keeps sb (s.wcSupersede u pa n) := by
  unfold State.wcSupersede
  repeat' first
    | with_reducible assumption
    | with_reducible refine Keeps.modUnit ?_
    | with_reducible refine Keeps.ite ?_ ?_
    | split
    | dsimp only
    | with_reducible refine Keeps.upd ?_

theorem Keeps.noteReads {s : State} {u : Nat} {l : List Nat} (hK : Keeps sb s) : Keeps sb (s.noteReads u l) := by
  unfold State.noteReads
  repeat' first
    | with_reducible assumption
    | with_reducible refine Keeps.modUnit ?_
    | dsimp only
    | with_reducible refine Keeps.upd ?_

theorem Keeps.cpuRead {s : State} {u : Nat} {p : Piece} {fetch : Bool} (hK : Keeps sb s) :
    Keeps sb (s.cpuRead u p fetch).1 := by
  unfold State.cpuRead
  repeat' first
    | with_reducible assumption
    | with_reducible refine Keeps.wcFlush ?_
    | with_reducible refine Keeps.walked ?_
    | with_reducible refine Keeps.readSide ?_
    | with_reducible refine Keeps.noteReads ?_
    | with_reducible refine Keeps.ite ?_ ?_
    | with_reducible refine Keeps.of_fst (by assumption) ?_
    | split
    | dsimp only
    | with_reducible refine Keeps.upd ?_

theorem Keeps.performStore {s : State} {u : Nat} {pa : Nat} {data : List Byte} {mt : Mt} (hK : Keeps sb s) :
    Keeps sb (s.performStore u pa data mt) := by
  unfold State.performStore
  repeat' first
    | with_reducible assumption
    | with_reducible refine Keeps.conflicts ?_
    | with_reducible refine Keeps.coreWrite ?_
    | with_reducible refine Keeps.homeWrite ?_
    | split
    | dsimp only
    | with_reducible refine Keeps.upd ?_

theorem Keeps.performSlot {s : State} {u : Nat} {pa : Nat} {data : List Byte} {mt : Mt} (hK : Keeps sb s) :
    Keeps sb (s.performSlot u pa data mt) := by
  unfold State.performSlot
  repeat' first
    | with_reducible assumption
    | with_reducible refine Keeps.conflicts ?_
    | with_reducible refine Keeps.engineWrite ?_
    | with_reducible refine Keeps.homeWrite ?_
    | split
    | dsimp only
    | with_reducible refine Keeps.upd ?_

theorem Keeps.cpuWrite {s : State} {u : Nat} {p : Piece} {data : List Byte} (hK : Keeps sb s) :
    Keeps sb (s.cpuWrite u p data) := by
  unfold State.cpuWrite
  repeat' first
    | with_reducible assumption
    | with_reducible refine Keeps.walked ?_
    | with_reducible refine Keeps.modUnit ?_
    | with_reducible refine Keeps.wcFlush ?_
    | with_reducible refine Keeps.wcSupersede ?_
    | with_reducible refine Keeps.performSlot ?_
    | with_reducible refine Keeps.wcStore ?_
    | with_reducible refine Keeps.performStore ?_
    | with_reducible refine Keeps.ite ?_ ?_
    | with_reducible refine Keeps.foldl (fun _ _ _ => ?_) ?_
    | with_reducible refine Keeps.foldl_fst (fun _ _ _ => ?_) ?_
    | split
    | dsimp only
    | with_reducible refine Keeps.upd ?_

theorem Keeps.commitStores {s : State} {u : Nat} {r : Region} (hK : Keeps sb s) : Keeps sb (s.commitStores u r) := by
  unfold State.commitStores
  repeat' first
    | with_reducible assumption
    | with_reducible refine Keeps.conflicts ?_
    | with_reducible refine Keeps.coreWrite ?_
    | with_reducible refine Keeps.foldl (fun _ _ _ => ?_) ?_
    | with_reducible refine Keeps.foldl_fst (fun _ _ _ => ?_) ?_
    | dsimp only

theorem Keeps.readPiece {s : State} {u : Nat} {p : Piece} {fetch : Bool} (hK : Keeps sb s) :
    Keeps sb (s.readPiece u p fetch).1 := by
  unfold State.readPiece
  repeat' first
    | with_reducible assumption
    | with_reducible refine Keeps.wsErrors ?_
    | with_reducible refine Keeps.cpuRead ?_
    | with_reducible refine Keeps.ite ?_ ?_
    | with_reducible refine Keeps.of_fst (by assumption) ?_
    | split
    | dsimp only
    | with_reducible refine Keeps.upd ?_

theorem Keeps.readPieces {s : State} {u : Nat} {ps : List Piece} {fetch : Bool} (hK : Keeps sb s) :
    Keeps sb (s.readPieces u ps fetch).st := by
  have h : ∀ (l : List Piece) (r : ReadOut), Keeps sb r.st → Keeps sb (l.foldl (fun r p =>
      let x := r.st.readPiece u p fetch
      (⟨x.1, r.data ++ x.2.1, if r.bad.isNone then x.2.2 else r.bad⟩ : ReadOut)) r).st := by
    intro l
    induction l with
    | nil => exact fun _ hr => hr
    | cons p l ih => exact fun r hr => ih _ hr.readPiece
  exact h ps _ hK

theorem Keeps.writePieces {s : State} {u : Nat} {ps : List Piece} {data : List Byte} (hK : Keeps sb s) :
    Keeps sb (s.writePieces u ps data) := by
  unfold State.writePieces
  repeat' first
    | with_reducible assumption
    | with_reducible refine Keeps.wsPut ?_
    | with_reducible refine Keeps.wsClean ?_
    | with_reducible refine Keeps.cpuWrite ?_
    | with_reducible refine Keeps.foldl (fun _ _ _ => ?_) ?_
    | with_reducible refine Keeps.foldl_fst (fun _ _ _ => ?_) ?_
    | split
    | dsimp only
    | with_reducible refine Keeps.upd ?_

end Sys2Proof.Machine
end

