-- ==== Sys2Proof/Laws/KeepsChannel.lean ====
section
/-! SUPPORT. What they keep: sparing, ports and the channel subsystem. -/
namespace Sys2Proof.Machine
open Sys2Proof

variable {sb : State}

theorem Keeps.coreResetCpu {s : State} {n : Nat} (hK : Keeps sb s) : Keeps sb (s.coreResetCpu n) := by
  unfold State.coreResetCpu
  repeat' first
    | with_reducible assumption
    | with_reducible refine Keeps.wcFlush ?_
    | with_reducible refine Keeps.sweepL2 ?_
    | with_reducible refine Keeps.setRf ?_
    | with_reducible refine Keeps.modUnit ?_
    | split
    | dsimp only
    | with_reducible refine Keeps.upd ?_

theorem Keeps.actOrder {s : State} {n : Nat} {o : Sig} (hK : Keeps sb s) : Keeps sb (s.actOrder n o) := by
  unfold State.actOrder
  repeat' first
    | with_reducible assumption
    | with_reducible refine Keeps.modUnit ?_
    | with_reducible refine Keeps.wcFlush ?_
    | with_reducible refine Keeps.coreResetCpu ?_
    | with_reducible refine Keeps.ite ?_ ?_
    | split
    | dsimp only
    | with_reducible refine Keeps.upd ?_

theorem Keeps.deliver {s : State} {n : Nat} {o : Sig} (hK : Keeps sb s) : Keeps sb (s.deliver n o) := by
  unfold State.deliver
  repeat' first
    | with_reducible assumption
    | with_reducible refine Keeps.modUnit ?_
    | with_reducible refine Keeps.actOrder ?_
    | with_reducible refine Keeps.ite ?_ ?_
    | split
    | dsimp only
    | with_reducible refine Keeps.upd ?_

theorem Keeps.deliverHeld {s : State} {n : Nat} (hK : Keeps sb s) : Keeps sb (s.deliverHeld n) := by
  unfold State.deliverHeld
  repeat' first
    | with_reducible assumption
    | with_reducible refine Keeps.deliver ?_
    | with_reducible refine Keeps.foldl (fun _ _ _ => ?_) ?_
    | with_reducible refine Keeps.foldl_fst (fun _ _ _ => ?_) ?_
    | dsimp only
    | with_reducible refine Keeps.upd ?_

theorem Keeps.cpusig {s : State} {n : Nat} {o : Sig} (hK : Keeps sb s) : Keeps sb (s.cpusig n o).1 := by
  unfold State.cpusig
  repeat' first
    | with_reducible assumption
    | with_reducible refine Keeps.deliver ?_
    | with_reducible refine Keeps.ite ?_ ?_
    | with_reducible refine Keeps.of_fst (by assumption) ?_
    | split
    | dsimp only
    | with_reducible refine Keeps.upd ?_

theorem Keeps.retire {s : State} {core : Nat} (hK : Keeps sb s) : Keeps sb (s.retire core) := by
  unfold State.retire
  exact Keeps.ite hK (hK.retires _)

theorem Keeps.poolTake {s : State} {core : Nat} (hK : Keeps sb s) : Keeps sb (s.poolTake core) := by
  unfold State.poolTake
  repeat' first
    | with_reducible assumption
    | with_reducible refine Keeps.setRf ?_
    | split
    | dsimp only
    | with_reducible refine Keeps.upd ?_

theorem Keeps.poolReturn {s : State} {core : Nat} (hK : Keeps sb s) : Keeps sb (s.poolReturn core) := by
  unfold State.poolReturn
  repeat' first
    | with_reducible assumption
    | with_reducible refine Keeps.setRf ?_
    | with_reducible refine Keeps.ite ?_ ?_
    | split
    | dsimp only
    | with_reducible refine Keeps.upd ?_

theorem Keeps.releaseCore {s : State} {core : Nat} (hK : Keeps sb s) : Keeps sb (s.releaseCore core) := by
  unfold State.releaseCore
  repeat' first
    | with_reducible assumption
    | with_reducible refine Keeps.poolReturn ?_
    | with_reducible refine Keeps.ite ?_ ?_
    | split
    | dsimp only

theorem Keeps.loadRoutes {s : State} (hK : Keeps sb s) : Keeps sb (s.loadRoutes) := by
  unfold State.loadRoutes
  repeat' first
    | with_reducible assumption
    | dsimp only
    | with_reducible refine Keeps.upd ?_

theorem Keeps.discardCpu {s : State} {n : Nat} (hK : Keeps sb s) : Keeps sb (s.discardCpu n) := by
  unfold State.discardCpu
  repeat' first
    | with_reducible assumption
    | with_reducible refine Keeps.setUnit ?_
    | dsimp only

theorem Keeps.startSweep {s : State} {core : Nat} {retire : Bool} (hK : Keeps sb s) : Keeps sb (s.startSweep core retire) := by
  unfold State.startSweep
  repeat' first
    | with_reducible assumption
    | with_reducible refine Keeps.modCore ?_
    | dsimp only
    | with_reducible refine Keeps.upd ?_

theorem Keeps.loseCpu {s : State} {n : Nat} {core : Nat} (hK : Keeps sb s) : Keeps sb (s.loseCpu n core) := by
  unfold State.loseCpu
  repeat' first
    | with_reducible assumption
    | with_reducible refine Keeps.setRf ?_
    | with_reducible refine Keeps.discardCpu ?_
    | with_reducible refine Keeps.startSweep ?_
    | with_reducible refine Keeps.sendMsg ?_
    | with_reducible refine Keeps.pendMc ?_
    | with_reducible refine Keeps.cmapSignal ?_
    | with_reducible refine Keeps.foldl (fun _ _ _ => ?_) ?_
    | with_reducible refine Keeps.foldl_fst (fun _ _ _ => ?_) ?_
    | split
    | dsimp only
    | with_reducible refine Keeps.upd ?_

theorem Keeps.beginMove {s : State} {n : Nat} {former : Nat} {target : Nat} {sparing : Bool} (hK : Keeps sb s) :
    Keeps sb (s.beginMove n former target sparing) := by
  unfold State.beginMove
  repeat' first
    | with_reducible assumption
    | with_reducible refine Keeps.poolTake ?_
    | with_reducible refine Keeps.setRf ?_
    | with_reducible refine Keeps.abortRegion ?_
    | with_reducible refine Keeps.wcFlush ?_
    | with_reducible refine Keeps.modUnit ?_
    | with_reducible refine Keeps.cmapEvent ?_
    | dsimp only
    | with_reducible refine Keeps.upd ?_

theorem Keeps.spareCpu {s : State} {n : Nat} (hK : Keeps sb s) : Keeps sb (s.spareCpu n) := by
  unfold State.spareCpu
  repeat' first
    | with_reducible assumption
    | with_reducible refine Keeps.beginMove ?_
    | with_reducible refine Keeps.modUnit ?_
    | with_reducible refine Keeps.loseCpu ?_
    | with_reducible refine Keeps.ite ?_ ?_
    | split
    | dsimp only
    | with_reducible refine Keeps.upd ?_

theorem Keeps.nameCore {s : State} {n : Nat} {core : Nat} (hK : Keeps sb s) : Keeps sb (s.nameCore n core) := by
  unfold State.nameCore
  repeat' first
    | with_reducible assumption
    | with_reducible refine Keeps.setRf ?_
    | with_reducible refine Keeps.ite ?_ ?_
    | split
    | dsimp only

theorem Keeps.moveComplete {s : State} {n : Nat} {readable : Bool} (hK : Keeps sb s) :
    Keeps sb (s.moveComplete n readable) := by
  unfold State.moveComplete
  repeat' first
    | with_reducible assumption
    | with_reducible refine Keeps.poolReturn ?_
    | with_reducible refine Keeps.loseCpu ?_
    | with_reducible refine Keeps.nameCore ?_
    | with_reducible refine Keeps.setRf ?_
    | with_reducible refine Keeps.modUnit ?_
    | with_reducible refine Keeps.startSweep ?_
    | with_reducible refine Keeps.sendMsg ?_
    | with_reducible refine Keeps.pendMc ?_
    | with_reducible refine Keeps.deliverHeld ?_
    | with_reducible refine Keeps.cmapSignal ?_
    | with_reducible refine Keeps.ite ?_ ?_
    | split
    | dsimp only
    | with_reducible refine Keeps.upd ?_

theorem Keeps.coreSweepEnd {s : State} {core : Nat} (hK : Keeps sb s) : Keeps sb (s.coreSweepEnd core) := by
  unfold State.coreSweepEnd
  repeat' first
    | with_reducible assumption
    | with_reducible refine Keeps.sweepL2 ?_
    | with_reducible refine Keeps.modCore ?_
    | with_reducible refine Keeps.retire ?_
    | with_reducible refine Keeps.releaseCore ?_
    | with_reducible refine Keeps.ite ?_ ?_
    | split
    | dsimp only
    | with_reducible refine Keeps.upd ?_

theorem Keeps.dropInj {s : State} {x : Injected} (hK : Keeps sb s) : Keeps sb (s.dropInj x) := by
  unfold State.dropInj
  repeat' first
    | with_reducible assumption
    | dsimp only
    | with_reducible refine Keeps.upd ?_

theorem Keeps.mismatch {s : State} {n : Nat} {inj : Bool} (hK : Keeps sb s) : Keeps sb (s.mismatch n inj) := by
  unfold State.mismatch
  repeat' first
    | with_reducible assumption
    | with_reducible refine Keeps.modUnit ?_
    | with_reducible refine Keeps.errInc ?_
    | with_reducible refine Keeps.ite ?_ ?_
    | split
    | dsimp only
    | with_reducible refine Keeps.upd ?_

theorem Keeps.retryOk {s : State} {n : Nat} {ia : Dword} (hK : Keeps sb s) : Keeps sb (s.retryOk n ia) := by
  unfold State.retryOk
  repeat' first
    | with_reducible assumption
    | with_reducible refine Keeps.modUnit ?_
    | with_reducible refine Keeps.errInc ?_
    | with_reducible refine Keeps.sendMsg ?_
    | with_reducible refine Keeps.ite ?_ ?_
    | split
    | dsimp only

theorem Keeps.asyncDiff {s : State} {n : Nat} (hK : Keeps sb s) : Keeps sb (s.asyncDiff n) := by
  unfold State.asyncDiff
  repeat' first
    | with_reducible assumption
    | with_reducible refine Keeps.modUnit ?_
    | with_reducible refine Keeps.errInc ?_
    | with_reducible refine Keeps.ite ?_ ?_
    | split
    | dsimp only

theorem Keeps.resume {s : State} {n : Nat} (hK : Keeps sb s) : Keeps sb (s.resume n) := by
  unfold State.resume
  repeat' first
    | with_reducible assumption
    | with_reducible refine Keeps.actOrder ?_
    | with_reducible refine Keeps.modUnit ?_
    | with_reducible refine Keeps.foldl (fun _ _ _ => ?_) ?_
    | dsimp only
    | with_reducible refine Keeps.upd ?_

theorem Keeps.selfTestEnd {s : State} {n : Nat} {v : Verdict} {inj : Bool} (hK : Keeps sb s) :
    Keeps sb (s.selfTestEnd n v inj) := by
  unfold State.selfTestEnd
  repeat' first
    | with_reducible assumption
    | with_reducible refine Keeps.setRf ?_
    | with_reducible refine Keeps.sendMsg ?_
    | with_reducible refine Keeps.spareCpu ?_
    | with_reducible refine Keeps.setReg ?_
    | with_reducible refine Keeps.resume ?_
    | with_reducible refine Keeps.modUnit ?_
    | with_reducible refine Keeps.ite ?_ ?_
    | split
    | dsimp only

theorem Keeps.comparatorFault {s : State} {n : Nat} {parity : Bool} {inj : Bool} (hK : Keeps sb s) :
    Keeps sb (s.comparatorFault n parity inj) := by
  unfold State.comparatorFault
  repeat' first
    | with_reducible assumption
    | with_reducible refine Keeps.modUnit ?_
    | with_reducible refine Keeps.sendMsg ?_
    | with_reducible refine Keeps.spareCpu ?_
    | with_reducible refine Keeps.ite ?_ ?_
    | split
    | dsimp only

theorem Keeps.spareTestStart {s : State} {d : Nat} {c : Nat} (hK : Keeps sb s) : Keeps sb (s.spareTestStart d c) := by
  unfold State.spareTestStart
  repeat' first
    | with_reducible assumption
    | with_reducible refine Keeps.ite ?_ ?_
    | split
    | dsimp only
    | with_reducible refine Keeps.upd ?_

theorem Keeps.spareTestEnd {s : State} {d c : Nat} {pass : Bool} (hK : Keeps sb s) : Keeps sb (s.spareTestEnd d c pass) := by
  unfold State.spareTestEnd
  split
  · exact hK
  · refine Keeps.ite hK ?_
    extract_lets s2 retired
    have h2 : Keeps sb s2 := hK.upd
    have hr : ∀ t inj, Keeps sb t → Keeps sb (retired t inj) := fun _ _ h => h.retire.poolTake.send
    clear_value s2 retired
    split
    · exact hr _ _ h2.dropInj.setRf
    · exact Keeps.ite h2.setRf (hr _ _ (Keeps.draws h2 1).setRf)

theorem Keeps.refuse {s : State} {a : Nat} {w : Writer} {reason : Nat} (hK : Keeps sb s) : Keeps sb (s.refuse a w reason) := by
  unfold State.refuse
  repeat' first
    | with_reducible assumption
    | with_reducible refine Keeps.setReg ?_
    | with_reducible refine Keeps.ite ?_ ?_
    | split
    | dsimp only
    | with_reducible refine Keeps.upd ?_

theorem Keeps.cmapFields {s : State} {n : Nat} {st : Nat} {core : Nat} (hK : Keeps sb s) :
    Keeps sb (s.cmapFields n st core) := by
  unfold State.cmapFields
  repeat' first
    | with_reducible assumption
    | with_reducible refine Keeps.nameCore ?_
    | with_reducible refine Keeps.setRf ?_
    | dsimp only

theorem Keeps.cmapWrite {s : State} {n : Nat} {v : Dword} {w : Writer} (hK : Keeps sb s) : Keeps sb (s.cmapWrite n v w) := by
  unfold State.cmapWrite
  repeat' first
    | with_reducible assumption
    | with_reducible refine Keeps.refuse ?_
    | with_reducible refine Keeps.nameCore ?_
    | with_reducible refine Keeps.beginMove ?_
    | with_reducible refine Keeps.poolTake ?_
    | with_reducible refine Keeps.cmapFields ?_
    | with_reducible refine Keeps.releaseCore ?_
    | with_reducible refine Keeps.setUnit ?_
    | with_reducible refine Keeps.cmapSignal ?_
    | with_reducible refine Keeps.wcFlush ?_
    | with_reducible refine Keeps.discardCpu ?_
    | with_reducible refine Keeps.startSweep ?_
    | with_reducible refine Keeps.deliverHeld ?_
    | with_reducible refine Keeps.ite ?_ ?_
    | split
    | dsimp only

theorem Keeps.modPort {s : State} {die : Nat} {port : Nat} {f : PortHw → PortHw} (hK : Keeps sb s) :
    Keeps sb (s.modPort die port f) := by
  unfold State.modPort
  repeat' first
    | with_reducible assumption
    | dsimp only
    | with_reducible refine Keeps.upd ?_

theorem Keeps.modLogin {s : State} {k : Nat} {f : Login → Login} (hK : Keeps sb s) : Keeps sb (s.modLogin k f) := by
  unfold State.modLogin
  repeat' first
    | with_reducible assumption
    | dsimp only
    | with_reducible refine Keeps.upd ?_

theorem Keeps.setLgn {s : State} {k : Nat} {lo : Nat} {w : Nat} {n : Nat} (hK : Keeps sb s) : Keeps sb (s.setLgn k lo w n) := by
  unfold State.setLgn
  repeat' first
    | with_reducible assumption
    | with_reducible refine Keeps.setRf ?_
    | dsimp only

theorem Keeps.emitTo {s : State} {die : Nat} {port : Nat} {dst : Nat} {f : Frame} (hK : Keeps sb s) :
    Keeps sb (s.emitTo die port dst f) := by
  unfold State.emitTo
  repeat' first
    | with_reducible assumption
    | with_reducible refine Keeps.evInc ?_
    | with_reducible refine Keeps.ite ?_ ?_
    | split
    | dsimp only
    | with_reducible exact Keeps.sends (by with_reducible assumption) _
    | with_reducible refine Keeps.upd ?_

theorem Keeps.emitAt {s : State} {die : Nat} {port : Nat} {dst : Nat} {k : Nat} {f : Frame} (hK : Keeps sb s) :
    Keeps sb (s.emitAt die port dst k f) := by
  unfold State.emitAt
  repeat' first
    | with_reducible assumption
    | with_reducible refine Keeps.emitTo ?_
    | with_reducible refine Keeps.modLogin ?_
    | with_reducible refine Keeps.ite ?_ ?_
    | split
    | dsimp only
    | with_reducible refine Keeps.upd ?_

theorem Keeps.emit {s : State} {k : Nat} {f : Frame} (hK : Keeps sb s) : Keeps sb (s.emit k f) := by
  unfold State.emit
  repeat' first
    | with_reducible assumption
    | with_reducible refine Keeps.emitAt ?_
    | dsimp only

theorem Keeps.sendOn {s : State} {die : Nat} {port : Nat} {k : Nat} {dst : Nat} {f : Frame} (hK : Keeps sb s) :
    Keeps sb (s.sendOn die port k dst f) := by
  unfold State.sendOn
  repeat' first
    | with_reducible assumption
    | with_reducible refine Keeps.modPort ?_
    | with_reducible refine Keeps.emitTo ?_
    | with_reducible refine Keeps.emitAt ?_
    | with_reducible refine Keeps.ite ?_ ?_
    | split
    | dsimp only
    | with_reducible refine Keeps.upd ?_

theorem Keeps.sendFrame {s : State} {k : Nat} {f : Frame} (hK : Keeps sb s) : Keeps sb (s.sendFrame k f) := by
  unfold State.sendFrame
  repeat' first
    | with_reducible assumption
    | with_reducible refine Keeps.sendOn ?_
    | dsimp only

theorem Keeps.sendPfc {s : State} {die : Nat} {port : Nat} {time : Nat} (hK : Keeps sb s) :
    Keeps sb (s.sendPfc die port time) := by
  unfold State.sendPfc
  repeat' first
    | with_reducible assumption
    | dsimp only
    | with_reducible exact Keeps.sends (by with_reducible assumption) _
    | with_reducible refine Keeps.upd ?_

theorem Keeps.portEvent {s : State} {die : Nat} {port : Nat} (hK : Keeps sb s) : Keeps sb (s.portEvent die port) := by
  unfold State.portEvent
  repeat' first
    | with_reducible assumption
    | with_reducible refine Keeps.pendCode ?_
    | with_reducible refine Keeps.ite ?_ ?_
    | with_reducible refine Keeps.foldl (fun _ _ _ => ?_) ?_
    | split
    | dsimp only

theorem Keeps.portSend {s : State} {die : Nat} {port : Nat} {kind : Nat} {cls : Nat} {slot : Nat} (hK : Keeps sb s) :
    Keeps sb (s.portSend die port kind cls slot) := by
  unfold State.portSend
  repeat' first
    | with_reducible assumption
    | with_reducible refine Keeps.send ?_
    | with_reducible refine Keeps.portEvent ?_
    | with_reducible refine Keeps.ite ?_ ?_
    | split
    | dsimp only

theorem Keeps.sendLoginReq {s : State} {k : Nat} (hK : Keeps sb s) : Keeps sb (s.sendLoginReq k) := by
  unfold State.sendLoginReq
  repeat' first
    | with_reducible assumption
    | with_reducible refine Keeps.sendFrame ?_
    | with_reducible refine Keeps.modLogin ?_
    | dsimp only
    | with_reducible refine Keeps.upd ?_

theorem Keeps.beginLogin {s : State} {k : Nat} {down : optParam Nat 0} (hK : Keeps sb s) : Keeps sb (s.beginLogin k down) := by
  unfold State.beginLogin
  repeat' first
    | with_reducible assumption
    | with_reducible refine Keeps.setLgn ?_
    | with_reducible refine Keeps.modLogin ?_
    | with_reducible refine Keeps.sendLoginReq ?_
    | with_reducible refine Keeps.ite ?_ ?_
    | split
    | dsimp only
    | with_reducible refine Keeps.upd ?_

theorem Keeps.clearLogin {s : State} {k : Nat} {st : Nat} (hK : Keeps sb s) : Keeps sb (s.clearLogin k st) := by
  unfold State.clearLogin
  repeat' first
    | with_reducible assumption
    | with_reducible refine Keeps.setLgn ?_
    | with_reducible refine Keeps.modLogin ?_
    | with_reducible refine Keeps.modPort ?_
    | split
    | dsimp only
    | with_reducible refine Keeps.upd ?_

theorem Keeps.sendLogout {s : State} {k : Nat} {reason : Nat} (hK : Keeps sb s) : Keeps sb (s.sendLogout k reason) := by
  unfold State.sendLogout
  repeat' first
    | with_reducible assumption
    | with_reducible refine Keeps.sendFrame ?_
    | dsimp only
    | with_reducible refine Keeps.upd ?_

theorem Keeps.loginRefused {s : State} {k : Nat} {reason : Nat} (hK : Keeps sb s) : Keeps sb (s.loginRefused k reason) := by
  unfold State.loginRefused
  repeat' first
    | with_reducible assumption
    | with_reducible refine Keeps.setLgn ?_
    | with_reducible refine Keeps.portSend ?_
    | with_reducible refine Keeps.portEvent ?_
    | with_reducible refine Keeps.ite ?_ ?_
    | split
    | dsimp only

theorem Keeps.loginAcc {s : State} {k : Nat} {blk : List Byte} (hK : Keeps sb s) : Keeps sb (s.loginAcc k blk) := by
  unfold State.loginAcc
  repeat' first
    | with_reducible assumption
    | with_reducible refine Keeps.loginRefused ?_
    | with_reducible refine Keeps.sendFrame ?_
    | with_reducible refine Keeps.setLgn ?_
    | with_reducible refine Keeps.modLogin ?_
    | with_reducible refine Keeps.portSend ?_
    | with_reducible refine Keeps.ite ?_ ?_
    | split
    | dsimp only
    | with_reducible refine Keeps.upd ?_

theorem Keeps.loginTimeout {s : State} {k : Nat} (hK : Keeps sb s) : Keeps sb (s.loginTimeout k) := by
  unfold State.loginTimeout
  repeat' first
    | with_reducible assumption
    | with_reducible refine Keeps.sendLoginReq ?_
    | with_reducible refine Keeps.loginRefused ?_
    | with_reducible refine Keeps.ite ?_ ?_
    | split
    | dsimp only

theorem Keeps.loginRetry {s : State} {k : Nat} (hK : Keeps sb s) : Keeps sb (s.loginRetry k) := by
  unfold State.loginRetry
  repeat' first
    | with_reducible assumption
    | with_reducible refine Keeps.clearLogin ?_
    | with_reducible refine Keeps.modLogin ?_
    | with_reducible refine Keeps.beginLogin ?_
    | with_reducible refine Keeps.ite ?_ ?_
    | split
    | dsimp only
    | with_reducible refine Keeps.upd ?_

theorem Keeps.discard {s : State} {die : Nat} {port : Nat} (hK : Keeps sb s) : Keeps sb (s.discard die port) := by
  unfold State.discard
  repeat' first
    | with_reducible assumption
    | with_reducible refine Keeps.errInc ?_
    | dsimp only

theorem Keeps.malformed {s : State} {die : Nat} {port : Nat} {k : Nat} (hK : Keeps sb s) :
    Keeps sb (s.malformed die port k) := by
  unfold State.malformed
  repeat' first
    | with_reducible assumption
    | with_reducible refine Keeps.discard ?_
    | with_reducible refine Keeps.modLogin ?_
    | with_reducible refine Keeps.portSend ?_
    | with_reducible refine Keeps.ite ?_ ?_
    | split
    | dsimp only
    | with_reducible refine Keeps.upd ?_

theorem Keeps.clEnable {s : State} {die : Nat} {port : Nat} (hK : Keeps sb s) : Keeps sb (s.clEnable die port) := by
  unfold State.clEnable
  repeat' first
    | with_reducible assumption
    | with_reducible refine Keeps.setRf ?_
    | with_reducible refine Keeps.ite ?_ ?_
    | split
    | dsimp only

theorem Keeps.lgnEnable {s : State} {k : Nat} (hK : Keeps sb s) : Keeps sb (s.lgnEnable k) := by
  unfold State.lgnEnable
  repeat' first
    | with_reducible assumption
    | with_reducible refine Keeps.setLgn ?_
    | with_reducible refine Keeps.setRf ?_
    | with_reducible refine Keeps.beginLogin ?_
    | with_reducible refine Keeps.ite ?_ ?_
    | split
    | dsimp only

theorem Keeps.linkComesUp {s : State} {die : Nat} {port : Nat} {peer200 : Bool} (hK : Keeps sb s) :
    Keeps sb (s.linkComesUp die port peer200) := by
  unfold State.linkComesUp
  repeat' first
    | with_reducible assumption
    | with_reducible refine Keeps.setRf ?_
    | with_reducible refine Keeps.condEnd ?_
    | with_reducible refine Keeps.portSend ?_
    | with_reducible refine Keeps.beginLogin ?_
    | with_reducible refine Keeps.ite ?_ ?_
    | with_reducible refine Keeps.foldl (fun _ _ _ => ?_) ?_
    | split
    | dsimp only
    | with_reducible refine Keeps.upd ?_

theorem Keeps.frameIn {s : State} {h : HeldFrame} (hK : Keeps sb s) : Keeps sb (s.frameIn h) := by
  unfold State.frameIn
  repeat' first
    | with_reducible assumption
    | with_reducible refine Keeps.wsPut ?_
    | dsimp only

theorem Keeps.checkXoff {s : State} {die : Nat} {port : Nat} (hK : Keeps sb s) : Keeps sb (s.checkXoff die port) := by
  unfold State.checkXoff
  repeat' first
    | with_reducible assumption
    | with_reducible refine Keeps.modPort ?_
    | with_reducible refine Keeps.sendPfc ?_
    | with_reducible refine Keeps.ite ?_ ?_
    | split
    | dsimp only
    | with_reducible refine Keeps.upd ?_

theorem Keeps.xon {s : State} {die : Nat} {port : Nat} (hK : Keeps sb s) : Keeps sb (s.xon die port) := by
  unfold State.xon
  repeat' first
    | with_reducible assumption
    | with_reducible refine Keeps.modPort ?_
    | with_reducible refine Keeps.sendPfc ?_
    | with_reducible refine Keeps.checkXoff ?_
    | with_reducible refine Keeps.ite ?_ ?_
    | split
    | dsimp only
    | with_reducible refine Keeps.upd ?_

theorem Keeps.pfcRepeat {s : State} {die : Nat} {port : Nat} (hK : Keeps sb s) : Keeps sb (s.pfcRepeat die port) := by
  unfold State.pfcRepeat
  repeat' first
    | with_reducible assumption
    | with_reducible refine Keeps.sendPfc ?_
    | with_reducible refine Keeps.checkXoff ?_
    | with_reducible refine Keeps.ite ?_ ?_
    | split
    | dsimp only

theorem Keeps.unpause {s : State} {die : Nat} {port : Nat} (hK : Keeps sb s) : Keeps sb (s.unpause die port) := by
  unfold State.unpause
  repeat' first
    | with_reducible assumption
    | with_reducible refine Keeps.modPort ?_
    | with_reducible refine Keeps.sendOn ?_
    | with_reducible refine Keeps.checkXoff ?_
    | with_reducible refine Keeps.setRf ?_
    | with_reducible refine Keeps.beginLogin ?_
    | with_reducible refine Keeps.ite ?_ ?_
    | with_reducible refine Keeps.foldl (fun _ _ _ => ?_) ?_
    | with_reducible refine Keeps.foldl_fst (fun _ _ _ => ?_) ?_
    | split
    | dsimp only
    | with_reducible refine Keeps.upd ?_

theorem Keeps.pause {s : State} {die : Nat} {port : Nat} {time : Nat} (hK : Keeps sb s) : Keeps sb (s.pause die port time) := by
  unfold State.pause
  repeat' first
    | with_reducible assumption
    | with_reducible refine Keeps.unpause ?_
    | with_reducible refine Keeps.modPort ?_
    | with_reducible refine Keeps.checkXoff ?_
    | with_reducible refine Keeps.ite ?_ ?_
    | split
    | dsimp only
    | with_reducible refine Keeps.upd ?_

theorem Keeps.denyWrite {s : State} {r : Rec} {p : Nat} (hK : Keeps sb s) : Keeps sb (s.denyWrite r p) := by
  unfold State.denyWrite
  repeat' first
    | with_reducible assumption
    | with_reducible refine Keeps.wsDeny ?_
    | with_reducible refine Keeps.ite ?_ ?_
    | split
    | dsimp only

theorem Keeps.setSub {s0 : State} {p : Nat} {e : Sct} (hK : Keeps sb s0) : Keeps sb (s0.setSub p e) := by
  unfold State.setSub
  repeat' first
    | with_reducible assumption
    | with_reducible refine Keeps.denyWrite ?_
    | with_reducible refine Keeps.putEntry ?_
    | with_reducible refine Keeps.ite ?_ ?_
    | split
    | dsimp only

theorem Keeps.putCopy {s : State} {m : Bool} {p : Nat} {x : Slot} {w : Bool} {b : Bool} (hK : Keeps sb s) :
    Keeps sb (s.putCopy m p x w b) := by
  unfold State.putCopy
  repeat' first
    | with_reducible assumption
    | with_reducible refine Keeps.putSlot ?_
    | with_reducible refine Keeps.wsClean ?_
    | with_reducible refine Keeps.ite ?_ ?_
    | split
    | dsimp only

theorem Keeps.denySlot {s : State} {p : Nat} {x : Slot} (hK : Keeps sb s) : Keeps sb (s.denySlot p x) := by
  unfold State.denySlot
  repeat' first
    | with_reducible assumption
    | with_reducible refine Keeps.denyWrite ?_
    | with_reducible refine Keeps.ite ?_ ?_
    | split
    | dsimp only
    | with_reducible refine Keeps.upd ?_

theorem Keeps.setSlot {s0 : State} {p : Nat} {x : Slot} (hK : Keeps sb s0) : Keeps sb (s0.setSlot p x) := by
  unfold State.setSlot
  repeat' first
    | with_reducible assumption
    | with_reducible refine Keeps.denySlot ?_
    | with_reducible refine Keeps.putCopy ?_
    | dsimp only

theorem Keeps.modSlot {s : State} {p : Nat} {f : Slot → Slot} (hK : Keeps sb s) : Keeps sb (s.modSlot p f) := by
  unfold State.modSlot
  repeat' first
    | with_reducible assumption
    | with_reducible refine Keeps.setSlot ?_
    | dsimp only

theorem Keeps.setXfer {s : State} {p : Nat} {x : Xfer} (hK : Keeps sb s) : Keeps sb (s.setXfer p x) := by
  unfold State.setXfer
  repeat' first
    | with_reducible assumption
    | dsimp only
    | with_reducible refine Keeps.upd ?_

theorem Keeps.modXfer {s : State} {p : Nat} {f : Xfer → Xfer} (hK : Keeps sb s) : Keeps sb (s.modXfer p f) := by
  unfold State.modXfer
  repeat' first
    | with_reducible assumption
    | with_reducible refine Keeps.setXfer ?_
    | dsimp only

theorem Keeps.journalSend {s : State} {p : Nat} {kind : Nat} {cls : Nat} {synd : Nat} (hK : Keeps sb s) :
    Keeps sb (s.journalSend p kind cls synd) := by
  unfold State.journalSend
  repeat' first
    | with_reducible assumption
    | with_reducible refine Keeps.send ?_
    | dsimp only

theorem Keeps.addCond {s : State} {p : Nat} (hK : Keeps sb s) : Keeps sb (s.addCond p) := by
  unfold State.addCond
  repeat' first
    | with_reducible assumption
    | with_reducible refine Keeps.ite ?_ ?_
    | split
    | dsimp only
    | with_reducible refine Keeps.upd ?_

theorem Keeps.record {s : State} {p : Nat} {st : ExSt} (hK : Keeps sb s) : Keeps sb (s.record p st) := by
  unfold State.record
  repeat' first
    | with_reducible assumption
    | with_reducible refine Keeps.modSlot ?_
    | dsimp only
    | with_reducible refine Keeps.upd ?_

theorem Keeps.conclude {s : State} {p : Nat} {t : Status} (hK : Keeps sb s) : Keeps sb (s.conclude p t) := by
  unfold State.conclude
  repeat' first
    | with_reducible assumption
    | with_reducible refine Keeps.modSlot ?_
    | with_reducible refine Keeps.modXfer ?_
    | dsimp only
    | with_reducible refine Keeps.upd ?_

theorem Keeps.freeSlot {s : State} {p : Nat} (hK : Keeps sb s) : Keeps sb (s.freeSlot p) := by
  unfold State.freeSlot
  repeat' first
    | with_reducible assumption
    | with_reducible refine Keeps.modSlot ?_
    | with_reducible refine Keeps.setXfer ?_
    | dsimp only
    | with_reducible refine Keeps.upd ?_

theorem Keeps.notify {s : State} {p : Nat} {cwa : Nat} (hK : Keeps sb s) : Keeps sb (s.notify p cwa) := by
  unfold State.notify
  repeat' first
    | with_reducible assumption
    | with_reducible refine Keeps.modSlot ?_
    | with_reducible refine Keeps.addCond ?_
    | with_reducible refine Keeps.ite ?_ ?_
    | split
    | dsimp only
    | with_reducible refine Keeps.upd ?_

theorem Keeps.assign {s : State} {p : Nat} {codes : List (BitVec 16)} (hK : Keeps sb s) : Keeps sb (s.assign p codes) := by
  unfold State.assign
  repeat' first
    | with_reducible assumption
    | with_reducible refine Keeps.modSlot ?_
    | with_reducible refine Keeps.pendCode ?_
    | with_reducible refine Keeps.foldl (fun _ _ _ => ?_) ?_
    | split
    | dsimp only
    | with_reducible refine Keeps.upd ?_

theorem Keeps.engRead {s : State} {pa : Nat} {len : Nat} (hK : Keeps sb s) : Keeps sb (s.engRead pa len) := by
  unfold State.engRead
  repeat' first
    | with_reducible assumption
    | with_reducible refine Keeps.conflicts ?_
    | with_reducible refine Keeps.engineRead ?_
    | with_reducible refine Keeps.foldl (fun _ _ _ => ?_) ?_
    | with_reducible refine Keeps.foldl_fst (fun _ _ _ => ?_) ?_
    | dsimp only

theorem Keeps.engWrite {s : State} {pa : Nat} {data : List Byte} (hK : Keeps sb s) : Keeps sb (s.engWrite pa data) := by
  unfold State.engWrite
  repeat' first
    | with_reducible assumption
    | with_reducible refine Keeps.conflicts ?_
    | with_reducible refine Keeps.engineWrite ?_
    | with_reducible refine Keeps.foldl (fun _ _ _ => ?_) ?_
    | with_reducible refine Keeps.foldl_fst (fun _ _ _ => ?_) ?_
    | dsimp only

theorem Keeps.engBytes {s : State} {pa : Nat} {len : Nat} (hK : Keeps sb s) : Keeps sb (s.engBytes pa len).1 := by
  unfold State.engBytes
  repeat' first
    | with_reducible assumption
    | with_reducible refine Keeps.engRead ?_
    | with_reducible refine Keeps.ite ?_ ?_
    | with_reducible refine Keeps.of_fst (by assumption) ?_
    | split
    | dsimp only

theorem Keeps.engFetches {s : State} {pas : List Nat} (hK : Keeps sb s) : Keeps sb (s.engFetches pas).1 := by
  unfold State.engFetches
  repeat' first
    | with_reducible assumption
    | with_reducible refine Keeps.engRead ?_
    | with_reducible refine Keeps.foldl (fun _ _ _ => ?_) ?_
    | with_reducible refine Keeps.foldl_fst (fun _ _ _ => ?_) ?_
    | with_reducible refine Keeps.of_fst (by assumption) ?_
    | split
    | dsimp only

theorem Keeps.chanHost {s : State} {img : Nat} {ga : Nat} (hK : Keeps sb s) : Keeps sb (s.chanHost img ga).1 := by
  unfold State.chanHost
  repeat' first
    | with_reducible assumption
    | with_reducible refine Keeps.engFetches ?_
    | with_reducible refine Keeps.ite ?_ ?_
    | with_reducible refine Keeps.of_fst (by assumption) ?_
    | split
    | dsimp only
    | with_reducible refine Keeps.upd ?_

theorem Keeps.chanKey {s : State} {img : Nat} {ga : Nat} {key : BitVec 4} {store : Bool} (hK : Keeps sb s) :
    Keeps sb (s.chanKey img ga key store).1 := by
  unfold State.chanKey
  repeat' first
    | with_reducible assumption
    | with_reducible refine Keeps.chanHost ?_
    | with_reducible refine Keeps.engBytes ?_
    | with_reducible refine Keeps.ite ?_ ?_
    | with_reducible refine Keeps.of_fst (by assumption) ?_
    | split
    | dsimp only
    | with_reducible refine Keeps.upd ?_

theorem Keeps.chanAddr {s : State} {img : Nat} {ga : Nat} {key : BitVec 4} {store : Bool} (hK : Keeps sb s) :
    Keeps sb (s.chanAddr img ga key store).1 := by
  unfold State.chanAddr
  repeat' first
    | with_reducible assumption
    | with_reducible refine Keeps.chanKey ?_
    | with_reducible refine Keeps.chanHost ?_
    | with_reducible refine Keeps.ite ?_ ?_
    | with_reducible refine Keeps.of_fst (by assumption) ?_
    | split
    | dsimp only
    | with_reducible refine Keeps.upd ?_

theorem Keeps.chanRead {s : State} {img : Nat} {key : BitVec 4} {ga : Nat} {len : Nat} (hK : Keeps sb s) :
    Keeps sb (s.chanRead img key ga len).1 := by
  unfold State.chanRead
  repeat' first
    | with_reducible assumption
    | with_reducible refine Keeps.chanAddr ?_
    | with_reducible refine Keeps.engBytes ?_
    | with_reducible refine Keeps.foldl (fun _ _ _ => ?_) ?_
    | with_reducible refine Keeps.foldl_fst (fun _ _ _ => ?_) ?_
    | with_reducible refine Keeps.of_fst (by assumption) ?_
    | split
    | dsimp only
    | with_reducible refine Keeps.upd ?_

theorem Keeps.chanWrite {s : State} {img : Nat} {key : BitVec 4} {ga : Nat} {data : List Byte} (hK : Keeps sb s) :
    Keeps sb (s.chanWrite img key ga data).1 := by
  unfold State.chanWrite
  repeat' first
    | with_reducible assumption
    | with_reducible refine Keeps.chanAddr ?_
    | with_reducible refine Keeps.engWrite ?_
    | with_reducible refine Keeps.foldl (fun _ _ _ => ?_) ?_
    | with_reducible refine Keeps.foldl_fst (fun _ _ _ => ?_) ?_
    | with_reducible refine Keeps.of_fst (by assumption) ?_
    | split
    | dsimp only
    | with_reducible refine Keeps.upd ?_

theorem Keeps.checkList {s : State} {img : Nat} {key : BitVec 4} {c : Cw} (hK : Keeps sb s) :
    Keeps sb (s.checkList img key c).1 := by
  unfold State.checkList
  repeat' first
    | with_reducible assumption
    | with_reducible refine Keeps.chanRead ?_
    | with_reducible refine Keeps.ite ?_ ?_
    | with_reducible refine Keeps.foldl (fun _ _ _ => ?_) ?_
    | with_reducible refine Keeps.foldl_fst (fun _ _ _ => ?_) ?_
    | with_reducible refine Keeps.of_fst (by assumption) ?_
    | split
    | dsimp only
    | with_reducible refine Keeps.upd ?_

theorem Keeps.fetchWord {s : State} {p : Nat} {img : Nat} {key : BitVec 4} {limit : Nat} {a : Nat} {joined : Option Cw} (hK : Keeps sb s) :
    Keeps sb (s.fetchWord p img key limit a joined).1 := by
  unfold State.fetchWord
  repeat' first
    | with_reducible assumption
    | with_reducible refine Keeps.notify ?_
    | with_reducible refine Keeps.checkList ?_
    | with_reducible refine Keeps.chanRead ?_
    | with_reducible refine Keeps.ite ?_ ?_
    | with_reducible refine Keeps.of_fst (by assumption) ?_
    | split
    | dsimp only
    | with_reducible refine Keeps.upd ?_

theorem Keeps.dataAddr {s : State} {img : Nat} {key : BitVec 4} {c : Cw} {o : Nat} (hK : Keeps sb s) :
    Keeps sb (s.dataAddr img key c o).1 := by
  unfold State.dataAddr
  repeat' first
    | with_reducible assumption
    | with_reducible refine Keeps.chanRead ?_
    | with_reducible refine Keeps.ite ?_ ?_
    | with_reducible refine Keeps.of_fst (by assumption) ?_
    | split
    | dsimp only
    | with_reducible refine Keeps.upd ?_

theorem Keeps.gather {s : State} {img : Nat} {key : BitVec 4} {c : Cw} {fuel : Nat} {x : Nat} {y : Nat} (hK : Keeps sb s) :
    Keeps sb (s.gather img key c fuel x y).1 := by
  induction fuel generalizing s img key c x y with
  | zero =>
    unfold State.gather
    repeat' first
      | with_reducible assumption
      | with_reducible refine Keeps.dataAddr ?_
      | with_reducible refine Keeps.chanRead ?_
      | with_reducible refine Keeps.ite ?_ ?_
      | with_reducible refine Keeps.of_fst (by assumption) ?_
      | split
      | dsimp only
      | with_reducible refine Keeps.upd ?_
  | succ n ih =>
    unfold State.gather
    repeat' first
      | with_reducible assumption
      | with_reducible refine ih ?_
      | with_reducible refine Keeps.dataAddr ?_
      | with_reducible refine Keeps.chanRead ?_
      | with_reducible refine Keeps.ite ?_ ?_
      | with_reducible refine Keeps.of_fst (by assumption) ?_
      | split
      | dsimp only
      | with_reducible refine Keeps.upd ?_

theorem Keeps.scatter {s : State} {img : Nat} {key : BitVec 4} {c : Cw} {fuel : Nat} {x : Nat} {y : List Byte} (hK : Keeps sb s) :
    Keeps sb (s.scatter img key c fuel x y).1 := by
  induction fuel generalizing s img key c x y with
  | zero =>
    unfold State.scatter
    repeat' first
      | with_reducible assumption
      | with_reducible refine Keeps.dataAddr ?_
      | with_reducible refine Keeps.chanWrite ?_
      | with_reducible refine Keeps.take ?_
      | with_reducible refine Keeps.ite ?_ ?_
      | with_reducible refine Keeps.of_fst (by assumption) ?_
      | split
      | dsimp only
      | with_reducible refine Keeps.upd ?_
  | succ n ih =>
    unfold State.scatter
    repeat' first
      | with_reducible assumption
      | with_reducible refine ih ?_
      | with_reducible refine Keeps.dataAddr ?_
      | with_reducible refine Keeps.chanWrite ?_
      | with_reducible refine Keeps.take ?_
      | with_reducible refine Keeps.ite ?_ ?_
      | with_reducible refine Keeps.of_fst (by assumption) ?_
      | split
      | dsimp only
      | with_reducible refine Keeps.upd ?_

theorem Keeps.copyMsg {s : State} {die : Nat} {unit : Nat} {cls : Nat} {p : Nat} {img : Option Nat} {l : List ArrErr} (hK : Keeps sb s) :
    Keeps sb (s.copyMsg die unit cls p img l) := by
  unfold State.copyMsg
  repeat' first
    | with_reducible assumption
    | with_reducible refine Keeps.sendMsg ?_
    | dsimp only

theorem Keeps.readCopyOf {s : State} {r : Rec} {p : Nat} {m : Bool} (hK : Keeps sb s) : Keeps sb (s.readCopyOf r p m).1 := by
  unfold State.readCopyOf
  repeat' first
    | with_reducible assumption
    | with_reducible refine Keeps.wsDeny ?_
    | with_reducible refine Keeps.wsErrors ?_
    | with_reducible refine Keeps.ite ?_ ?_
    | with_reducible refine Keeps.of_fst (by assumption) ?_
    | split
    | dsimp only

theorem Keeps.copyRec {s : State} {r : Rec} {p : Nat} {m : Bool} (hK : Keeps sb s) : Keeps sb (s.copyRec r p m) := by
  unfold State.copyRec
  repeat' first
    | with_reducible assumption
    | with_reducible refine Keeps.putSlot ?_
    | with_reducible refine Keeps.putEntry ?_
    | with_reducible refine Keeps.wsClean ?_
    | split
    | dsimp only
    | with_reducible refine Keeps.upd ?_

theorem Keeps.readRec {s : State} {r : Rec} {p : Nat} {m : Bool} (hK : Keeps sb s) : Keeps sb (s.readRec r p m).1 := by
  unfold State.readRec
  repeat' first
    | with_reducible assumption
    | with_reducible refine Keeps.readCopyOf ?_
    | with_reducible refine Keeps.copyRec ?_
    | with_reducible refine Keeps.copyMsg ?_
    | with_reducible refine Keeps.of_fst (by assumption) ?_
    | split
    | dsimp only
    | with_reducible refine Keeps.upd ?_

theorem Keeps.cleanRecs {s : State} {p : Nat} {rs : List Rec} (hK : Keeps sb s) : Keeps sb (s.cleanRecs p rs) := by
  unfold State.cleanRecs
  repeat' first
    | with_reducible assumption
    | with_reducible refine Keeps.wsClean ?_
    | with_reducible refine Keeps.foldl (fun _ _ _ => ?_) ?_
    | dsimp only

theorem Keeps.endLost {s : State} {p : Nat} {wordLost : Bool} {bodyLost : Bool} {sctLost : Bool} {l : List ArrErr} (hK : Keeps sb s) :
    Keeps sb (s.endLost p wordLost bodyLost sctLost l) := by
  unfold State.endLost
  repeat' first
    | with_reducible assumption
    | with_reducible refine Keeps.conclude ?_
    | with_reducible refine Keeps.modSlot ?_
    | with_reducible refine Keeps.cleanRecs ?_
    | with_reducible refine Keeps.addCond ?_
    | with_reducible refine Keeps.copyMsg ?_
    | with_reducible refine Keeps.ite ?_ ?_
    | split
    | dsimp only
    | with_reducible refine Keeps.upd ?_

theorem Keeps.settleLost {s : State} {p : Nat} {word : Option (List ArrErr)} {body : Option (List ArrErr)} {entry : Option (List ArrErr)} (hK : Keeps sb s) :
    Keeps sb (s.settleLost p word body entry) := by
  unfold State.settleLost
  repeat' first
    | with_reducible assumption
    | with_reducible refine Keeps.setSlot ?_
    | with_reducible refine Keeps.cleanRecs ?_
    | with_reducible refine Keeps.copyMsg ?_
    | with_reducible refine Keeps.endLost ?_
    | with_reducible refine Keeps.setSub ?_
    | with_reducible refine Keeps.ite ?_ ?_
    | split
    | dsimp only
    | with_reducible refine Keeps.upd ?_

theorem Keeps.readEntry {s : State} {p : Nat} (hK : Keeps sb s) : Keeps sb (s.readEntry p) := by
  unfold State.readEntry
  repeat' first
    | with_reducible assumption
    | with_reducible refine Keeps.readRec ?_
    | with_reducible refine Keeps.settleLost ?_
    | with_reducible refine Keeps.ite ?_ ?_
    | with_reducible refine Keeps.of_fst (by assumption) ?_
    | split
    | dsimp only

theorem Keeps.readSct {s : State} {p : Nat} (hK : Keeps sb s) : Keeps sb (s.readSct p) := by
  unfold State.readSct
  repeat' first
    | with_reducible assumption
    | with_reducible refine Keeps.readRec ?_
    | with_reducible refine Keeps.settleLost ?_
    | with_reducible refine Keeps.ite ?_ ?_
    | with_reducible refine Keeps.of_fst (by assumption) ?_
    | split
    | dsimp only

theorem Keeps.keepAbort {s : State} {a : AbortRec} (hK : Keeps sb s) : Keeps sb (s.keepAbort a) := hK.upd

theorem Keeps.sendAbort {s : State} {a : AbortRec} {retx : Bool} (hK : Keeps sb s) : Keeps sb (s.sendAbort a retx) := by
  unfold State.sendAbort
  split
  · exact hK.keepAbort
  · exact hK.keepAbort.sendFrame

theorem Keeps.localEnd {s0 : State} {p : Nat} {halt : Bool} {clear : Bool} {code : Nat} {chan : Nat} {reason : Nat} (hK : Keeps sb s0) :
    Keeps sb (s0.localEnd p halt clear code chan reason) := by
  unfold State.localEnd
  repeat' first
    | with_reducible assumption
    | with_reducible refine Keeps.readEntry ?_
    | with_reducible refine Keeps.sendAbort ?_
    | with_reducible refine Keeps.conclude ?_
    | with_reducible refine Keeps.ite ?_ ?_
    | split
    | dsimp only
    | with_reducible refine Keeps.upd ?_

theorem Keeps.endError {s : State} {p : Nat} {e : ChErr} (hK : Keeps sb s) : Keeps sb (s.endError p e) := by
  unfold State.endError
  repeat' first
    | with_reducible assumption
    | with_reducible refine Keeps.localEnd ?_
    | dsimp only

theorem Keeps.readyCmd {s : State} {p : Nat} {join : Bool} {retx : Bool} (hK : Keeps sb s) :
    Keeps sb (s.readyCmd p join retx) := by
  unfold State.readyCmd
  repeat' first
    | with_reducible assumption
    | with_reducible refine Keeps.setXfer ?_
    | with_reducible refine Keeps.ite ?_ ?_
    | split
    | dsimp only
    | with_reducible refine Keeps.upd ?_

theorem Keeps.nextData {s : State} {p : Nat} (hK : Keeps sb s) : Keeps sb (s.nextData p).1 := by
  unfold State.nextData
  repeat' first
    | with_reducible assumption
    | with_reducible refine Keeps.gather ?_
    | with_reducible refine Keeps.endError ?_
    | with_reducible refine Keeps.setXfer ?_
    | with_reducible refine Keeps.ite ?_ ?_
    | with_reducible refine Keeps.of_fst (by assumption) ?_
    | split
    | dsimp only
    | with_reducible refine Keeps.upd ?_

theorem Keeps.emitReady {s : State} {p : Nat} (hK : Keeps sb s) : Keeps sb (s.emitReady p) := by
  unfold State.emitReady
  repeat' first
    | with_reducible assumption
    | with_reducible refine Keeps.emit ?_
    | with_reducible refine Keeps.setXfer ?_
    | with_reducible refine Keeps.ite ?_ ?_
    | split
    | dsimp only
    | with_reducible refine Keeps.upd ?_

theorem Keeps.startWord {s : State} {p : Nat} {a : Nat} {joined : Option Cw} (hK : Keeps sb s) :
    Keeps sb (s.startWord p a joined).1 := by
  unfold State.startWord
  repeat' first
    | with_reducible assumption
    | with_reducible refine Keeps.fetchWord ?_
    | with_reducible refine Keeps.modXfer ?_
    | with_reducible refine Keeps.modSlot ?_
    | with_reducible refine Keeps.endError ?_
    | with_reducible refine Keeps.of_fst (by assumption) ?_
    | split
    | dsimp only
    | with_reducible refine Keeps.upd ?_

theorem Keeps.actOn {s : State} {p : Nat} (hK : Keeps sb s) : Keeps sb (s.actOn p) := by
  unfold State.actOn
  repeat' first
    | with_reducible assumption
    | with_reducible refine Keeps.startWord ?_
    | with_reducible refine Keeps.record ?_
    | with_reducible refine Keeps.readyCmd ?_
    | with_reducible refine Keeps.modSlot ?_
    | with_reducible refine Keeps.addCond ?_
    | with_reducible refine Keeps.ite ?_ ?_
    | with_reducible refine Keeps.of_fst (by assumption) ?_
    | split
    | dsimp only
    | with_reducible refine Keeps.upd ?_

theorem Keeps.resendAll {s : State} {p : Nat} (hK : Keeps sb s) : Keeps sb (s.resendAll p) := by
  unfold State.resendAll
  repeat' first
    | with_reducible assumption
    | with_reducible refine Keeps.setXfer ?_
    | with_reducible refine Keeps.ite ?_ ?_
    | split
    | dsimp only
    | with_reducible refine Keeps.upd ?_

theorem Keeps.sendStatusReq {s : State} {p : Nat} (hK : Keeps sb s) : Keeps sb (s.sendStatusReq p) := by
  unfold State.sendStatusReq
  repeat' first
    | with_reducible assumption
    | with_reducible refine Keeps.modXfer ?_
    | with_reducible refine Keeps.sendFrame ?_
    | dsimp only
    | with_reducible refine Keeps.upd ?_

theorem Keeps.allTaken {s : State} {p : Nat} (hK : Keeps sb s) : Keeps sb (s.allTaken p) := by
  unfold State.allTaken
  repeat' first
    | with_reducible assumption
    | with_reducible refine Keeps.modXfer ?_
    | dsimp only
    | with_reducible refine Keeps.upd ?_

theorem Keeps.resumeEx {s : State} {p : Nat} (hK : Keeps sb s) : Keeps sb (s.resumeEx p) := by
  unfold State.resumeEx
  repeat' first
    | with_reducible assumption
    | with_reducible refine Keeps.actOn ?_
    | with_reducible refine Keeps.resendAll ?_
    | with_reducible refine Keeps.allTaken ?_
    | with_reducible refine Keeps.sendFrame ?_
    | with_reducible refine Keeps.sendStatusReq ?_
    | with_reducible refine Keeps.ite ?_ ?_
    | split
    | dsimp only
    | with_reducible refine Keeps.upd ?_

theorem Keeps.pathFail {s0 : State} {p : Nat} (hK : Keeps sb s0) : Keeps sb (s0.pathFail p) := by
  unfold State.pathFail
  repeat' first
    | with_reducible assumption
    | with_reducible refine Keeps.readEntry ?_
    | with_reducible refine Keeps.modSlot ?_
    | with_reducible refine Keeps.modXfer ?_
    | with_reducible refine Keeps.resumeEx ?_
    | with_reducible refine Keeps.resendAll ?_
    | with_reducible refine Keeps.journalSend ?_
    | with_reducible refine Keeps.localEnd ?_
    | with_reducible refine Keeps.ite ?_ ?_
    | split
    | dsimp only
    | with_reducible refine Keeps.upd ?_

theorem Keeps.resumeOn {s : State} {p : Nat} (hK : Keeps sb s) : Keeps sb (s.resumeOn p) := by
  unfold State.resumeOn
  repeat' first
    | with_reducible assumption
    | with_reducible refine Keeps.pathFail ?_
    | with_reducible refine Keeps.resumeEx ?_
    | with_reducible refine Keeps.modXfer ?_
    | with_reducible refine Keeps.ite ?_ ?_
    | split
    | dsimp only
    | with_reducible refine Keeps.upd ?_

theorem Keeps.loseLogin {s : State} {k : Nat} {again : Bool} (hK : Keeps sb s) : Keeps sb (s.loseLogin k again) := by
  unfold State.loseLogin
  repeat' first
    | with_reducible assumption
    | with_reducible refine Keeps.clearLogin ?_
    | with_reducible refine Keeps.pathFail ?_
    | with_reducible refine Keeps.portSend ?_
    | with_reducible refine Keeps.setLgn ?_
    | with_reducible refine Keeps.beginLogin ?_
    | with_reducible refine Keeps.ite ?_ ?_
    | with_reducible refine Keeps.foldl (fun _ _ _ => ?_) ?_
    | split
    | dsimp only

theorem Keeps.losePort {s : State} {die : Nat} {port : Nat} {again : Bool} (hK : Keeps sb s) :
    Keeps sb (s.losePort die port again) := by
  unfold State.losePort
  repeat' first
    | with_reducible assumption
    | with_reducible refine Keeps.loseLogin ?_
    | with_reducible refine Keeps.foldl (fun _ _ _ => ?_) ?_
    | dsimp only

theorem Keeps.journalDurable {s0 : State} {p : Nat} (hK : Keeps sb s0) : Keeps sb (s0.journalDurable p) := by
  unfold State.journalDurable
  repeat' first
    | with_reducible assumption
    | with_reducible refine Keeps.readEntry ?_
    | with_reducible refine Keeps.modSlot ?_
    | with_reducible refine Keeps.modXfer ?_
    | with_reducible refine Keeps.resumeOn ?_
    | with_reducible refine Keeps.actOn ?_
    | with_reducible refine Keeps.ite ?_ ?_
    | split
    | dsimp only
    | with_reducible refine Keeps.upd ?_

theorem Keeps.ioStart {s0 : State} {img : Nat} {p : Nat} {o : Orb} (hK : Keeps sb s0) : Keeps sb (s0.ioStart img p o).1 := by
  unfold State.ioStart
  repeat' first
    | with_reducible assumption
    | with_reducible refine Keeps.readEntry ?_
    | with_reducible refine Keeps.denyWrite ?_
    | with_reducible refine Keeps.setSub ?_
    | with_reducible refine Keeps.setSlot ?_
    | with_reducible refine Keeps.wsClean ?_
    | with_reducible refine Keeps.setXfer ?_
    | with_reducible refine Keeps.assign ?_
    | with_reducible refine Keeps.ite ?_ ?_
    | with_reducible refine Keeps.of_fst (by assumption) ?_
    | split
    | dsimp only
    | with_reducible refine Keeps.upd ?_

theorem Keeps.ioHalt {s0 : State} {p : Nat} (hK : Keeps sb s0) : Keeps sb (s0.ioHalt p).1 := by
  unfold State.ioHalt
  repeat' first
    | with_reducible assumption
    | with_reducible refine Keeps.readEntry ?_
    | with_reducible refine Keeps.localEnd ?_
    | with_reducible refine Keeps.modSlot ?_
    | with_reducible refine Keeps.conclude ?_
    | with_reducible refine Keeps.ite ?_ ?_
    | with_reducible refine Keeps.of_fst (by assumption) ?_
    | split
    | dsimp only
    | with_reducible refine Keeps.upd ?_

theorem Keeps.ioClear {s0 : State} {p : Nat} (hK : Keeps sb s0) : Keeps sb (s0.ioClear p).1 := by
  unfold State.ioClear
  repeat' first
    | with_reducible assumption
    | with_reducible refine Keeps.readEntry ?_
    | with_reducible refine Keeps.localEnd ?_
    | with_reducible refine Keeps.modSlot ?_
    | with_reducible refine Keeps.conclude ?_
    | with_reducible refine Keeps.setXfer ?_
    | with_reducible refine Keeps.ite ?_ ?_
    | with_reducible refine Keeps.of_fst (by assumption) ?_
    | split
    | dsimp only
    | with_reducible refine Keeps.upd ?_

theorem Keeps.ioTest {s0 : State} {p : Nat} (hK : Keeps sb s0) : Keeps sb (s0.ioTest p).1 := by
  unfold State.ioTest
  repeat' first
    | with_reducible assumption
    | with_reducible refine Keeps.readEntry ?_
    | with_reducible refine Keeps.freeSlot ?_
    | with_reducible refine Keeps.modSlot ?_
    | with_reducible refine Keeps.ite ?_ ?_
    | with_reducible refine Keeps.of_fst (by assumption) ?_
    | split
    | dsimp only
    | with_reducible refine Keeps.upd ?_

theorem Keeps.ioModify {s0 : State} {p : Nat} {b : List Byte} (hK : Keeps sb s0) : Keeps sb (s0.ioModify p b).1 := by
  unfold State.ioModify
  repeat' first
    | with_reducible assumption
    | with_reducible refine Keeps.readEntry ?_
    | with_reducible refine Keeps.setSub ?_
    | with_reducible refine Keeps.ite ?_ ?_
    | with_reducible refine Keeps.of_fst (by assumption) ?_
    | split
    | dsimp only
    | with_reducible refine Keeps.upd ?_

theorem Keeps.endIruns {s : State} {img : Nat} {gen : BitVec 16} (hK : Keeps sb s) : Keeps sb (s.endIruns img gen) := by
  unfold State.endIruns
  repeat' first
    | with_reducible assumption
    | with_reducible refine Keeps.modUnit ?_
    | with_reducible refine Keeps.ite ?_ ?_
    | with_reducible refine Keeps.foldl (fun _ _ _ => ?_) ?_
    | with_reducible refine Keeps.foldl_fst (fun _ _ _ => ?_) ?_
    | split
    | dsimp only
    | with_reducible refine Keeps.upd ?_

theorem Keeps.dropImageSigs {s : State} {img : Nat} (hK : Keeps sb s) : Keeps sb (s.dropImageSigs img) := by
  unfold State.dropImageSigs
  repeat' first
    | with_reducible assumption
    | with_reducible refine Keeps.modUnit ?_
    | with_reducible refine Keeps.foldl (fun _ _ _ => ?_) ?_
    | with_reducible refine Keeps.foldl_fst (fun _ _ _ => ?_) ?_
    | dsimp only
    | with_reducible refine Keeps.upd ?_

theorem Keeps.imageReset {s : State} {img : Nat} {e : Image} (hK : Keeps sb s) : Keeps sb (s.imageReset img e) := by
  unfold State.imageReset
  repeat' first
    | with_reducible assumption
    | with_reducible refine Keeps.readEntry ?_
    | with_reducible refine Keeps.freeSlot ?_
    | with_reducible refine Keeps.endIruns ?_
    | with_reducible refine Keeps.dropImageSigs ?_
    | with_reducible refine Keeps.setImage ?_
    | with_reducible refine Keeps.foldl (fun _ _ _ => ?_) ?_
    | with_reducible refine Keeps.foldl_fst (fun _ _ _ => ?_) ?_
    | dsimp only
    | with_reducible refine Keeps.upd ?_

/-- The states that the outcome of a CSSET instruction carries are kept. -/
def CsOut.keeps (sb : State) : CsOut → Prop
  | .done t => Keeps sb t
  | .refused t _ => Keeps sb t
  | .remain t _ => Keeps sb t

theorem CsOut.keeps_done {t : State} (h : Keeps sb t) : CsOut.keeps sb (.done t) := h

theorem CsOut.keeps_refused {t : State} {r : Nat} (h : Keeps sb t) : CsOut.keeps sb (.refused t r) := h

theorem CsOut.keeps_remain {t : State} {n : Nat} (h : Keeps sb t) : CsOut.keeps sb (.remain t n) := h

theorem Keeps.unmap {s : State} {p : Nat} (hK : Keeps sb s) : Keeps sb (s.unmap p) := by
  unfold State.unmap
  repeat' first
    | with_reducible assumption
    | with_reducible refine Keeps.setSub ?_
    | with_reducible refine Keeps.cleanRecs ?_
    | dsimp only
    | with_reducible refine Keeps.upd ?_

theorem Keeps.csImage {s0 : State} {img : Nat} {b : List Byte} (hK : Keeps sb s0) : CsOut.keeps sb (s0.csImage img b) := by
  unfold State.csImage
  repeat' first
    | with_reducible assumption
    | with_reducible refine Keeps.readSct ?_
    | with_reducible refine Keeps.imageReset ?_
    | with_reducible refine Keeps.unmap ?_
    | with_reducible refine Keeps.setImage ?_
    | with_reducible refine CsOut.keeps_done ?_
    | with_reducible refine CsOut.keeps_refused ?_
    | with_reducible refine CsOut.keeps_remain ?_
    | with_reducible refine Keeps.ite ?_ ?_
    | with_reducible refine Keeps.foldl (fun _ _ _ => ?_) ?_
    | split
    | dsimp only
    | with_reducible refine Keeps.upd ?_

theorem Keeps.csMap {s0 : State} {img : Nat} {e : Image} {b : List Byte} (hK : Keeps sb s0) :
    CsOut.keeps sb (s0.csMap img e b) := by
  unfold State.csMap
  repeat' first
    | with_reducible assumption
    | with_reducible refine Keeps.readEntry ?_
    | with_reducible refine Keeps.setSub ?_
    | with_reducible refine Keeps.cleanRecs ?_
    | with_reducible refine Keeps.unmap ?_
    | with_reducible refine CsOut.keeps_done ?_
    | with_reducible refine CsOut.keeps_refused ?_
    | with_reducible refine CsOut.keeps_remain ?_
    | with_reducible refine Keeps.ite ?_ ?_
    | split
    | dsimp only
    | with_reducible refine Keeps.upd ?_

theorem Keeps.csShare {s : State} {img : Nat} {e : Image} {b : List Byte} (hK : Keeps sb s) :
    CsOut.keeps sb (s.csShare img e b) := by
  unfold State.csShare
  repeat' first
    | with_reducible assumption
    | with_reducible refine Keeps.setImage ?_
    | with_reducible refine CsOut.keeps_done ?_
    | with_reducible refine CsOut.keeps_refused ?_
    | with_reducible refine CsOut.keeps_remain ?_
    | with_reducible refine Keeps.ite ?_ ?_
    | split
    | dsimp only
    | with_reducible refine Keeps.upd ?_

theorem Keeps.csQuiesce {s : State} {img : Nat} {e : Image} {grace : Nat} (hK : Keeps sb s) :
    CsOut.keeps sb (s.csQuiesce img e grace) := by
  unfold State.csQuiesce
  repeat' first
    | with_reducible assumption
    | with_reducible refine Keeps.setImage ?_
    | with_reducible refine CsOut.keeps_done ?_
    | with_reducible refine CsOut.keeps_refused ?_
    | with_reducible refine CsOut.keeps_remain ?_
    | with_reducible refine Keeps.ite ?_ ?_
    | split
    | dsimp only
    | with_reducible refine Keeps.upd ?_

theorem Keeps.csReset {s : State} {img : Nat} {e : Image} (hK : Keeps sb s) : CsOut.keeps sb (s.csReset img e) := by
  unfold State.csReset
  repeat' first
    | with_reducible assumption
    | with_reducible refine Keeps.imageReset ?_
    | with_reducible refine CsOut.keeps_done ?_
    | with_reducible refine CsOut.keeps_refused ?_
    | with_reducible refine CsOut.keeps_remain ?_
    | with_reducible refine Keeps.ite ?_ ?_
    | split
    | dsimp only

theorem Keeps.graceExpiry {s : State} {img : Nat} (hK : Keeps sb s) : Keeps sb (s.graceExpiry img) := by
  unfold State.graceExpiry
  repeat' first
    | with_reducible assumption
    | with_reducible refine Keeps.setImage ?_
    | with_reducible refine Keeps.readEntry ?_
    | with_reducible refine Keeps.journalSend ?_
    | with_reducible refine Keeps.localEnd ?_
    | with_reducible refine Keeps.ite ?_ ?_
    | with_reducible refine Keeps.foldl (fun _ _ _ => ?_) ?_
    | split
    | dsimp only
    | with_reducible refine Keeps.upd ?_

theorem Keeps.setLink {s : State} {n : Nat} (hK : Keeps sb s) : Keeps sb (s.setLink n) := by
  unfold State.setLink
  repeat' first
    | with_reducible assumption
    | with_reducible refine Keeps.setRf ?_
    | dsimp only

theorem Keeps.mirrorDown {s : State} (hK : Keeps sb s) : Keeps sb (s.mirrorDown) := by
  unfold State.mirrorDown
  repeat' first
    | with_reducible assumption
    | with_reducible refine Keeps.setLink ?_
    | with_reducible refine Keeps.condBegin ?_
    | with_reducible refine Keeps.ite ?_ ?_
    | split
    | dsimp only

theorem Keeps.mirrorReturn {s : State} (hK : Keeps sb s) : Keeps sb (s.mirrorReturn) := by
  unfold State.mirrorReturn
  repeat' first
    | with_reducible assumption
    | with_reducible refine Keeps.setLink ?_
    | with_reducible refine Keeps.ite ?_ ?_
    | split
    | dsimp only

theorem Keeps.copyOver {s : State} {p : Nat} (hK : Keeps sb s) : Keeps sb (s.copyOver p) := by
  unfold State.copyOver
  repeat' first
    | with_reducible assumption
    | with_reducible refine Keeps.wsDeny ?_
    | with_reducible refine Keeps.copyRec ?_
    | with_reducible refine Keeps.ite ?_ ?_
    | with_reducible refine Keeps.foldl (fun _ _ _ => ?_) ?_
    | split
    | dsimp only

theorem Keeps.mirrorCopied {s : State} (hK : Keeps sb s) : Keeps sb (s.mirrorCopied) := by
  unfold State.mirrorCopied
  repeat' first
    | with_reducible assumption
    | with_reducible refine Keeps.readEntry ?_
    | with_reducible refine Keeps.copyOver ?_
    | with_reducible refine Keeps.setLink ?_
    | with_reducible refine Keeps.condEnd ?_
    | with_reducible refine Keeps.send ?_
    | with_reducible refine Keeps.ite ?_ ?_
    | with_reducible refine Keeps.foldl (fun _ _ _ => ?_) ?_
    | split
    | dsimp only
    | with_reducible refine Keeps.upd ?_

theorem Keeps.reassignAll {s : State} {ps : List Nat} (hK : Keeps sb s) : Keeps sb (s.reassignAll ps) := by
  unfold State.reassignAll
  repeat' first
    | with_reducible assumption
    | with_reducible refine Keeps.readEntry ?_
    | with_reducible refine Keeps.assign ?_
    | with_reducible refine Keeps.resumeOn ?_
    | with_reducible refine Keeps.ite ?_ ?_
    | with_reducible refine Keeps.foldl (fun _ _ _ => ?_) ?_
    | split
    | dsimp only

theorem Keeps.reassign {s : State} {d : Nat} {e : Nat} (hK : Keeps sb s) : Keeps sb (s.reassign d e) := by
  unfold State.reassign
  repeat' first
    | with_reducible assumption
    | with_reducible refine Keeps.reassignAll ?_
    | dsimp only

theorem Keeps.engineFail {s : State} {d : Nat} {e : Nat} {inj : Bool} (hK : Keeps sb s) : Keeps sb (s.engineFail d e inj) := by
  unfold State.engineFail
  repeat' first
    | with_reducible assumption
    | with_reducible refine Keeps.setRf ?_
    | with_reducible refine Keeps.modUnit ?_
    | with_reducible refine Keeps.reassignAll ?_
    | with_reducible refine Keeps.send ?_
    | with_reducible refine Keeps.ite ?_ ?_
    | split
    | dsimp only
    | with_reducible refine Keeps.upd ?_

theorem Keeps.engineStop {s : State} {d : Nat} {e : Nat} (hK : Keeps sb s) : Keeps sb (s.engineStop d e) := by
  unfold State.engineStop
  repeat' first
    | with_reducible assumption
    | with_reducible refine Keeps.setRf ?_
    | with_reducible refine Keeps.modUnit ?_
    | with_reducible refine Keeps.reassign ?_
    | with_reducible refine Keeps.ite ?_ ?_
    | split
    | dsimp only
    | with_reducible refine Keeps.upd ?_

theorem Keeps.engineRun {s : State} {d : Nat} {e : Nat} {pre : Nat} {x : Option Psw} (hK : Keeps sb s) :
    Keeps sb (s.engineRun d e pre x) := by
  unfold State.engineRun
  repeat' first
    | with_reducible assumption
    | with_reducible refine Keeps.setUnit ?_
    | with_reducible refine Keeps.engineFail ?_
    | with_reducible refine Keeps.ite ?_ ?_
    | split
    | dsimp only
    | with_reducible refine Keeps.upd ?_

theorem Keeps.engineStart {s : State} {d : Nat} {e : Nat} (hK : Keeps sb s) : Keeps sb (s.engineStart d e) := by
  unfold State.engineStart
  repeat' first
    | with_reducible assumption
    | with_reducible refine Keeps.setRf ?_
    | with_reducible refine Keeps.wsErrors ?_
    | with_reducible refine Keeps.engineRun ?_
    | with_reducible refine Keeps.ite ?_ ?_
    | with_reducible refine Keeps.of_fst (by assumption) ?_
    | split
    | dsimp only

theorem Keeps.assignWaiting {s : State} (hK : Keeps sb s) : Keeps sb (s.assignWaiting) := by
  unfold State.assignWaiting
  repeat' first
    | with_reducible assumption
    | with_reducible refine Keeps.reassignAll ?_
    | dsimp only

theorem Keeps.ceEnable {s : State} {d : Nat} {e : Nat} (hK : Keeps sb s) : Keeps sb (s.ceEnable d e) := by
  unfold State.ceEnable
  repeat' first
    | with_reducible assumption
    | with_reducible refine Keeps.setRf ?_
    | with_reducible refine Keeps.engineStart ?_
    | with_reducible refine Keeps.assignWaiting ?_
    | with_reducible refine Keeps.ite ?_ ?_
    | split
    | dsimp only

theorem Keeps.csEnable {s : State} {d : Nat} (hK : Keeps sb s) : Keeps sb (s.csEnable d) := by
  unfold State.csEnable
  repeat' first
    | with_reducible assumption
    | with_reducible refine Keeps.setRf ?_
    | with_reducible refine Keeps.ite ?_ ?_
    | split
    | dsimp only

theorem Keeps.csDisable {s : State} {d : Nat} (hK : Keeps sb s) : Keeps sb (s.csDisable d) := by
  unfold State.csDisable
  repeat' first
    | with_reducible assumption
    | with_reducible refine Keeps.setRf ?_
    | with_reducible refine Keeps.ite ?_ ?_
    | split
    | dsimp only

theorem Keeps.wdImage {s : State} {img : Nat} {m : Msg} (hK : Keeps sb s) : Keeps sb (s.wdImage img m) := by
  unfold State.wdImage
  repeat' first
    | with_reducible assumption
    | with_reducible refine Keeps.pendMc ?_
    | with_reducible refine Keeps.foldl (fun _ _ _ => ?_) ?_
    | split
    | dsimp only
    | with_reducible refine Keeps.upd ?_

theorem Keeps.collide {s : State} {p : Nat} {b : PortBWrite} (hK : Keeps sb s) : Keeps sb (s.collide p b) := by
  unfold State.collide
  repeat' first
    | with_reducible assumption
    | with_reducible refine Keeps.wsDeny ?_
    | with_reducible refine Keeps.putRec ?_
    | with_reducible refine Keeps.setReg ?_
    | with_reducible refine Keeps.errInc ?_
    | with_reducible refine Keeps.wsSend ?_
    | with_reducible refine Keeps.ite ?_ ?_
    | split
    | dsimp only

theorem Keeps.rebuild {s : State} {p : Nat} (hK : Keeps sb s) : Keeps sb (s.rebuild p) := by
  unfold State.rebuild
  repeat' first
    | with_reducible assumption
    | with_reducible refine Keeps.setXfer ?_
    | with_reducible refine Keeps.startWord ?_
    | with_reducible refine Keeps.fetchWord ?_
    | with_reducible refine Keeps.endError ?_
    | with_reducible refine Keeps.of_fst (by assumption) ?_
    | split
    | dsimp only
    | with_reducible refine Keeps.upd ?_

theorem Keeps.chDieFail {s : State} {d : Nat} (hK : Keeps sb s) : Keeps sb (s.chDieFail d) := by
  unfold State.chDieFail
  repeat' first
    | with_reducible assumption
    | with_reducible refine Keeps.setRf ?_
    | with_reducible refine Keeps.modUnit ?_
    | with_reducible refine Keeps.setLink ?_
    | with_reducible refine Keeps.freeSlot ?_
    | with_reducible refine Keeps.readEntry ?_
    | with_reducible refine Keeps.modSlot ?_
    | with_reducible refine Keeps.rebuild ?_
    | with_reducible refine Keeps.losePort ?_
    | with_reducible refine Keeps.reassignAll ?_
    | with_reducible refine Keeps.wdImage ?_
    | with_reducible refine Keeps.sendMsg ?_
    | with_reducible refine Keeps.send ?_
    | with_reducible refine Keeps.ite ?_ ?_
    | with_reducible refine Keeps.foldl (fun _ _ _ => ?_) ?_
    | split
    | dsimp only
    | with_reducible refine Keeps.upd ?_

theorem Keeps.sendRound {s : State} {die port fuel budget : Nat} {used : Store Nat} (hK : Keeps sb s) :
    Keeps sb (s.sendRound die port fuel budget used) := by
  induction fuel generalizing s budget used with
  | zero => exact hK
  | succ fuel ih =>
    unfold State.sendRound
    split
    · exact hK
    · split
      · exact hK
      · dsimp only
        split
        · exact ih (Keeps.ite hK.nextData hK)
        · exact ih (Keeps.ite hK.nextData hK).emitReady

theorem Keeps.schedRound {s : State} {die : Nat} {port : Nat} (hK : Keeps sb s) : Keeps sb (s.schedRound die port) := by
  unfold State.schedRound
  repeat' first
    | with_reducible assumption
    | with_reducible refine Keeps.sendRound ?_
    | with_reducible refine Keeps.ite ?_ ?_
    | split
    | dsimp only

theorem Keeps.rxFull {s : State} {d : Nat} (hK : Keeps sb s) : Keeps sb (s.rxFull d) := by
  unfold State.rxFull
  repeat' first
    | with_reducible assumption
    | with_reducible refine Keeps.errInc ?_
    | dsimp only

theorem Keeps.rxCount {s : State} {k : Nat} {typ : Nat} {f : RxFrame} (hK : Keeps sb s) : Keeps sb (s.rxCount k typ f) := by
  unfold State.rxCount
  repeat' first
    | with_reducible assumption
    | with_reducible refine Keeps.evInc ?_
    | with_reducible refine Keeps.modLogin ?_
    | with_reducible refine Keeps.ite ?_ ?_
    | split
    | dsimp only
    | with_reducible refine Keeps.upd ?_

theorem Keeps.receive {s : State} {typ : Nat} {f : RxFrame} {act : State → Nat → State} (hK : Keeps sb s) (hf : ∀ (x0 : State) (x1 : Nat), Keeps sb x0 → Keeps sb (act x0 x1)) :
    Keeps sb (s.receive typ f act) := by
  unfold State.receive
  repeat' first
    | with_reducible assumption
    | with_reducible refine Keeps.rxFull ?_
    | with_reducible refine Keeps.discard ?_
    | with_reducible refine Keeps.malformed ?_
    | with_reducible refine Keeps.rxCount ?_
    | with_reducible refine hf _ _ ?_
    | with_reducible refine Keeps.ite ?_ ?_
    | split
    | dsimp only
    | with_reducible refine Keeps.upd ?_

theorem Keeps.rxLoginReq {s : State} {f : RxFrame} (hK : Keeps sb s) : Keeps sb (s.rxLoginReq f) := by
  unfold State.rxLoginReq
  repeat' first
    | with_reducible assumption
    | with_reducible refine Keeps.rxFull ?_
    | with_reducible refine Keeps.discard ?_
    | with_reducible refine Keeps.sendOn ?_
    | with_reducible refine Keeps.ite ?_ ?_
    | split
    | dsimp only

theorem Keeps.rxLoginRej {s : State} {k : Nat} {f : RxFrame} (hK : Keeps sb s) : Keeps sb (s.rxLoginRej k f) := by
  unfold State.rxLoginRej
  repeat' first
    | with_reducible assumption
    | with_reducible refine Keeps.loginRefused ?_
    | with_reducible refine Keeps.ite ?_ ?_
    | split
    | dsimp only

theorem Keeps.answer {s : State} {k : Nat} {typ : Nat} {f : RxFrame} {payload : List Byte} (hK : Keeps sb s) :
    Keeps sb (s.answer k typ f payload) := by
  unfold State.answer
  repeat' first
    | with_reducible assumption
    | with_reducible refine Keeps.sendFrame ?_
    | with_reducible refine Keeps.ite ?_ ?_
    | split
    | dsimp only
    | with_reducible refine Keeps.upd ?_

theorem Keeps.statusAck {s : State} {k : Nat} {f : RxFrame} {more : Bool} (hK : Keeps sb s) :
    Keeps sb (s.statusAck k f more) := by
  unfold State.statusAck
  repeat' first
    | with_reducible assumption
    | with_reducible refine Keeps.answer ?_
    | with_reducible refine Keeps.ite ?_ ?_
    | split
    | dsimp only

theorem Keeps.countStale {s : State} {die : Nat} {port : Nat} {img : Option Nat} (hK : Keeps sb s) :
    Keeps sb (s.countStale die port img) := by
  unfold State.countStale
  repeat' first
    | with_reducible assumption
    | with_reducible refine Keeps.errInc ?_
    | with_reducible refine Keeps.discard ?_
    | split
    | dsimp only
    | with_reducible refine Keeps.upd ?_

theorem Keeps.sendAck {s : State} {k : Nat} {p : Nat} (hK : Keeps sb s) : Keeps sb (s.sendAck k p) := by
  unfold State.sendAck
  repeat' first
    | with_reducible assumption
    | with_reducible refine Keeps.modXfer ?_
    | with_reducible refine Keeps.sendFrame ?_
    | dsimp only
    | with_reducible refine Keeps.upd ?_

theorem Keeps.cmdAccepted {s : State} {p : Nat} (hK : Keeps sb s) : Keeps sb (s.cmdAccepted p) := by
  unfold State.cmdAccepted
  repeat' first
    | with_reducible assumption
    | with_reducible refine Keeps.setXfer ?_
    | with_reducible refine Keeps.record ?_
    | with_reducible refine Keeps.modSlot ?_
    | with_reducible refine Keeps.ite ?_ ?_
    | split
    | dsimp only
    | with_reducible refine Keeps.upd ?_

theorem Keeps.checkDone {s : State} {p : Nat} (hK : Keeps sb s) : Keeps sb (s.checkDone p) := by
  unfold State.checkDone
  repeat' first
    | with_reducible assumption
    | with_reducible refine Keeps.record ?_
    | with_reducible refine Keeps.ite ?_ ?_
    | split
    | dsimp only
    | with_reducible refine Keeps.upd ?_

theorem Keeps.resend {s : State} {p : Nat} {f : OutFrame → Bool} (hK : Keeps sb s) : Keeps sb (s.resend p f) := by
  unfold State.resend
  repeat' first
    | with_reducible assumption
    | with_reducible refine Keeps.modXfer ?_
    | dsimp only
    | with_reducible refine Keeps.upd ?_

theorem Keeps.resendMost {s : State} {k : Nat} {p : Nat} {f : OutFrame → Bool} (hK : Keeps sb s) :
    Keeps sb (s.resendMost k p f) := by
  unfold State.resendMost
  repeat' first
    | with_reducible assumption
    | with_reducible refine Keeps.resend ?_
    | with_reducible refine Keeps.pathFail ?_
    | with_reducible refine Keeps.ite ?_ ?_
    | split
    | dsimp only

theorem Keeps.fillGaps {s : State} {k : Nat} {p : Nat} {cum : Nat} {bitmap : Nat} (hK : Keeps sb s) :
    Keeps sb (s.fillGaps k p cum bitmap) := by
  unfold State.fillGaps
  repeat' first
    | with_reducible assumption
    | with_reducible refine Keeps.resendMost ?_
    | with_reducible refine Keeps.ite ?_ ?_
    | with_reducible refine Keeps.foldl (fun _ _ _ => ?_) ?_
    | split
    | dsimp only

theorem Keeps.rxAck {s : State} {k : Nat} {p : Nat} {b : List Byte} (hK : Keeps sb s) : Keeps sb (s.rxAck k p b) := by
  unfold State.rxAck
  repeat' first
    | with_reducible assumption
    | with_reducible refine Keeps.setXfer ?_
    | with_reducible refine Keeps.cmdAccepted ?_
    | with_reducible refine Keeps.modSlot ?_
    | with_reducible refine Keeps.checkDone ?_
    | with_reducible refine Keeps.fillGaps ?_
    | with_reducible refine Keeps.resendMost ?_
    | with_reducible refine Keeps.ite ?_ ?_
    | with_reducible refine Keeps.foldl (fun _ _ _ => ?_) ?_
    | split
    | dsimp only
    | with_reducible refine Keeps.upd ?_

theorem Keeps.takeData {s : State} {p : Nat} {h : Frame} (hK : Keeps sb s) : Keeps sb (s.takeData p h) := by
  unfold State.takeData
  repeat' first
    | with_reducible assumption
    | with_reducible refine Keeps.cmdAccepted ?_
    | with_reducible refine Keeps.setXfer ?_
    | with_reducible refine Keeps.scatter ?_
    | with_reducible refine Keeps.endError ?_
    | with_reducible refine Keeps.modXfer ?_
    | with_reducible refine Keeps.modSlot ?_
    | with_reducible refine Keeps.record ?_
    | with_reducible refine Keeps.ite ?_ ?_
    | with_reducible refine Keeps.of_fst (by assumption) ?_
    | split
    | dsimp only
    | with_reducible refine Keeps.upd ?_

theorem Keeps.takeStatus {s : State} {k : Nat} {p : Nat} {h : Frame} (hK : Keeps sb s) : Keeps sb (s.takeStatus k p h) := by
  unfold State.takeStatus
  repeat' first
    | with_reducible assumption
    | with_reducible refine Keeps.cmdAccepted ?_
    | with_reducible refine Keeps.setXfer ?_
    | with_reducible refine Keeps.sendFrame ?_
    | with_reducible refine Keeps.startWord ?_
    | with_reducible refine Keeps.actOn ?_
    | with_reducible refine Keeps.conclude ?_
    | with_reducible refine Keeps.ite ?_ ?_
    | with_reducible refine Keeps.of_fst (by assumption) ?_
    | split
    | dsimp only
    | with_reducible refine Keeps.upd ?_

theorem Keeps.take {s : State} {k : Nat} {p : Nat} {h : Frame} (hK : Keeps sb s) : Keeps sb (s.take k p h) := by
  unfold State.take
  repeat' first
    | with_reducible assumption
    | with_reducible refine Keeps.takeStatus ?_
    | with_reducible refine Keeps.takeData ?_
    | with_reducible refine Keeps.ite ?_ ?_
    | split
    | dsimp only

theorem Keeps.takeHeld {s : State} {k : Nat} {p : Nat} {fuel : Nat} (hK : Keeps sb s) : Keeps sb (s.takeHeld k p fuel) := by
  induction fuel generalizing s k p with
  | zero =>
    unfold State.takeHeld
    repeat' first
      | with_reducible assumption
      | with_reducible refine Keeps.take ?_
      | with_reducible refine Keeps.setXfer ?_
      | with_reducible refine Keeps.ite ?_ ?_
      | split
      | dsimp only
      | with_reducible refine Keeps.upd ?_
  | succ n ih =>
    unfold State.takeHeld
    repeat' first
      | with_reducible assumption
      | with_reducible refine ih ?_
      | with_reducible refine Keeps.take ?_
      | with_reducible refine Keeps.setXfer ?_
      | with_reducible refine Keeps.ite ?_ ?_
      | split
      | dsimp only
      | with_reducible refine Keeps.upd ?_

theorem Keeps.releaseFrames {s : State} {die : Nat} {bank : Nat} (hK : Keeps sb s) : Keeps sb (s.releaseFrames die bank) := by
  unfold State.releaseFrames
  repeat' first
    | with_reducible assumption
    | with_reducible refine Keeps.takeHeld ?_
    | with_reducible refine Keeps.sendAck ?_
    | with_reducible refine Keeps.ite ?_ ?_
    | with_reducible refine Keeps.foldl (fun _ _ _ => ?_) ?_
    | split
    | dsimp only

theorem Keeps.tagFailed {s : State} {k : Nat} {p : Nat} {f : RxFrame} (hK : Keeps sb s) : Keeps sb (s.tagFailed k p f) := by
  unfold State.tagFailed
  repeat' first
    | with_reducible assumption
    | with_reducible refine Keeps.errInc ?_
    | with_reducible refine Keeps.setXfer ?_
    | with_reducible refine Keeps.portSend ?_
    | with_reducible refine Keeps.endError ?_
    | with_reducible refine Keeps.ite ?_ ?_
    | split
    | dsimp only
    | with_reducible refine Keeps.upd ?_

theorem Keeps.rxNumbered {s : State} {k : Nat} {p : Nat} {typ : Nat} {f : RxFrame} (hK : Keeps sb s) :
    Keeps sb (s.rxNumbered k p typ f) := by
  unfold State.rxNumbered
  repeat' first
    | with_reducible assumption
    | with_reducible refine Keeps.tagFailed ?_
    | with_reducible refine Keeps.modXfer ?_
    | with_reducible refine Keeps.take ?_
    | with_reducible refine Keeps.takeHeld ?_
    | with_reducible refine Keeps.sendAck ?_
    | with_reducible refine Keeps.frameIn ?_
    | with_reducible refine Keeps.checkXoff ?_
    | with_reducible refine Keeps.statusAck ?_
    | with_reducible refine Keeps.ite ?_ ?_
    | split
    | dsimp only
    | with_reducible refine Keeps.upd ?_

theorem Keeps.rxExchange {s0 : State} {k : Nat} {typ : Nat} {f : RxFrame} (hK : Keeps sb s0) :
    Keeps sb (s0.rxExchange k typ f) := by
  unfold State.rxExchange
  repeat' first
    | with_reducible assumption
    | with_reducible refine Keeps.readEntry ?_
    | with_reducible refine Keeps.statusAck ?_
    | with_reducible refine Keeps.countStale ?_
    | with_reducible refine Keeps.sendAck ?_
    | with_reducible refine Keeps.rxAck ?_
    | with_reducible refine Keeps.modXfer ?_
    | with_reducible refine Keeps.rxNumbered ?_
    | with_reducible refine Keeps.ite ?_ ?_
    | split
    | dsimp only
    | with_reducible refine Keeps.upd ?_

theorem Keeps.rxAbortAck {s : State} {f : RxFrame} (hK : Keeps sb s) : Keeps sb (s.rxAbortAck f) := by
  unfold State.rxAbortAck
  repeat' first
    | with_reducible assumption
    | dsimp only
    | with_reducible refine Keeps.upd ?_

theorem Keeps.ackDelay {s : State} {p : Nat} (hK : Keeps sb s) : Keeps sb (s.ackDelay p) := by
  unfold State.ackDelay
  repeat' first
    | with_reducible assumption
    | with_reducible refine Keeps.sendAck ?_
    | with_reducible refine Keeps.ite ?_ ?_
    | split
    | dsimp only

theorem Keeps.ackTimeout {s : State} {p : Nat} (hK : Keeps sb s) : Keeps sb (s.ackTimeout p) := by
  unfold State.ackTimeout
  repeat' first
    | with_reducible assumption
    | with_reducible refine Keeps.resend ?_
    | with_reducible refine Keeps.pathFail ?_
    | with_reducible refine Keeps.modXfer ?_
    | with_reducible refine Keeps.ite ?_ ?_
    | split
    | dsimp only
    | with_reducible refine Keeps.upd ?_

theorem Keeps.statusWait {s : State} {p : Nat} (hK : Keeps sb s) : Keeps sb (s.statusWait p) := by
  unfold State.statusWait
  repeat' first
    | with_reducible assumption
    | with_reducible refine Keeps.pathFail ?_
    | with_reducible refine Keeps.sendStatusReq ?_
    | with_reducible refine Keeps.ite ?_ ?_
    | split
    | dsimp only

theorem Keeps.keepalive {s : State} {k : Nat} (hK : Keeps sb s) : Keeps sb (s.keepalive k) := by
  unfold State.keepalive
  repeat' first
    | with_reducible assumption
    | with_reducible refine Keeps.loseLogin ?_
    | with_reducible refine Keeps.modLogin ?_
    | with_reducible refine Keeps.sendFrame ?_
    | with_reducible refine Keeps.ite ?_ ?_
    | split
    | dsimp only
    | with_reducible refine Keeps.upd ?_

theorem Keeps.abortResend {s : State} {xid : Nat} (hK : Keeps sb s) : Keeps sb (s.abortResend xid) := by
  unfold State.abortResend
  repeat' first
    | with_reducible assumption
    | with_reducible refine Keeps.sendAbort ?_
    | with_reducible refine Keeps.ite ?_ ?_
    | split
    | dsimp only
    | with_reducible refine Keeps.upd ?_

theorem Keeps.linkGoesDown {s : State} {die : Nat} {port : Nat} (hK : Keeps sb s) : Keeps sb (s.linkGoesDown die port) := by
  unfold State.linkGoesDown
  repeat' first
    | with_reducible assumption
    | with_reducible refine Keeps.setRf ?_
    | with_reducible refine Keeps.modPort ?_
    | with_reducible refine Keeps.condBegin ?_
    | with_reducible refine Keeps.portEvent ?_
    | with_reducible refine Keeps.losePort ?_
    | with_reducible refine Keeps.ite ?_ ?_
    | split
    | dsimp only

theorem Keeps.pauseMax {s : State} {die : Nat} {port : Nat} (hK : Keeps sb s) : Keeps sb (s.pauseMax die port) := by
  unfold State.pauseMax
  repeat' first
    | with_reducible assumption
    | with_reducible refine Keeps.setRf ?_
    | with_reducible refine Keeps.portSend ?_
    | with_reducible refine Keeps.modPort ?_
    | with_reducible refine Keeps.losePort ?_
    | with_reducible refine Keeps.ite ?_ ?_
    | split
    | dsimp only
    | with_reducible refine Keeps.upd ?_

theorem Keeps.clDisable {s : State} {die : Nat} {port : Nat} (hK : Keeps sb s) : Keeps sb (s.clDisable die port) := by
  unfold State.clDisable
  repeat' first
    | with_reducible assumption
    | with_reducible refine Keeps.sendLogout ?_
    | with_reducible refine Keeps.setRf ?_
    | with_reducible refine Keeps.linkGoesDown ?_
    | with_reducible refine Keeps.ite ?_ ?_
    | with_reducible refine Keeps.foldl (fun _ _ _ => ?_) ?_
    | split
    | dsimp only

theorem Keeps.lgnDisable {s : State} {k : Nat} (hK : Keeps sb s) : Keeps sb (s.lgnDisable k) := by
  unfold State.lgnDisable
  repeat' first
    | with_reducible assumption
    | with_reducible refine Keeps.setRf ?_
    | with_reducible refine Keeps.sendLogout ?_
    | with_reducible refine Keeps.pathFail ?_
    | with_reducible refine Keeps.clearLogin ?_
    | with_reducible refine Keeps.ite ?_ ?_
    | with_reducible refine Keeps.foldl (fun _ _ _ => ?_) ?_
    | split
    | dsimp only

end Sys2Proof.Machine
end

