-- ==== Sys2Proof/Laws/KeepsService.lean ====
section
/-! SUPPORT. What they keep: accelerators, working store, collector, register writes, service and power. -/
namespace Sys2Proof.Machine
open Sys2Proof

variable {sb : State}

theorem Keeps.queueSeen {s : State} {q : List (Fin 10 × Fin 8 × Fin 33)} (hK : Keeps sb s) : Keeps sb (s.queueSeen q) := by
  unfold State.queueSeen
  repeat' first
    | with_reducible assumption
    | with_reducible refine Keeps.setRf ?_
    | with_reducible refine Keeps.ite ?_ ?_
    | with_reducible refine Keeps.foldl (fun _ _ _ => ?_) ?_
    | with_reducible refine Keeps.foldl_fst (fun _ _ _ => ?_) ?_
    | split
    | dsimp only

theorem Keeps.accCount {s : State} {e : Nat × Nat} {inp : Nat} {out : Nat} (hK : Keeps sb s) :
    Keeps sb (s.accCount e inp out) := by
  unfold State.accCount
  repeat' first
    | with_reducible assumption
    | with_reducible refine Keeps.evInc ?_
    | dsimp only

theorem Keeps.accSend {s : State} {e : Nat × Nat} {kind : Nat} {cls : Nat} {cpu : Option Nat} {low : Nat} (hK : Keeps sb s) :
    Keeps sb (s.accSend e kind cls cpu low) := by
  unfold State.accSend
  repeat' first
    | with_reducible assumption
    | with_reducible refine Keeps.send ?_
    | split
    | dsimp only
    | with_reducible refine Keeps.upd ?_

theorem Keeps.accTo {s : State} {e : Nat × Nat} {f : State → State} {inj : optParam Bool false} (hK : Keeps sb s) (hf : ∀ (x0 : State), Keeps sb x0 → Keeps sb (f x0)) :
    Keeps sb (s.accTo e f inj) := by
  unfold State.accTo
  repeat' first
    | with_reducible assumption
    | with_reducible refine Keeps.send ?_
    | with_reducible refine hf _ ?_
    | with_reducible refine Keeps.ite ?_ ?_
    | split
    | dsimp only

theorem Keeps.accLeave {s : State} {e : Nat × Nat} {st : Nat} {inj : optParam Bool false} (hK : Keeps sb s) :
    Keeps sb (s.accLeave e st inj) := by
  unfold State.accLeave
  repeat' first
    | with_reducible assumption
    | with_reducible refine Keeps.accTo ?_ (fun _ _ => ?_)
    | with_reducible refine Keeps.setRf ?_
    | dsimp only

theorem Keeps.accTestEnd {s : State} {e : Nat × Nat} {pass : Bool} (hK : Keeps sb s) : Keeps sb (s.accTestEnd e pass) := by
  unfold State.accTestEnd
  repeat' first
    | with_reducible assumption
    | with_reducible refine Keeps.setRf ?_
    | with_reducible refine Keeps.accTo ?_ (fun _ _ => ?_)
    | with_reducible refine Keeps.accSend ?_
    | with_reducible refine Keeps.ite ?_ ?_
    | split
    | dsimp only
    | with_reducible refine Keeps.upd ?_

theorem Keeps.stage {s : State} {e : Nat × Nat} {inp : List Byte} {out : List Byte} (hK : Keeps sb s) :
    Keeps sb (s.stage e inp out) := by
  unfold State.stage
  repeat' first
    | with_reducible assumption
    | with_reducible refine Keeps.wsPut ?_
    | with_reducible refine Keeps.ite ?_ ?_
    | split
    | dsimp only

theorem Keeps.accEnable {s : State} {e : Nat × Nat} (hK : Keeps sb s) : Keeps sb (s.accEnable e) := by
  unfold State.accEnable
  repeat' first
    | with_reducible assumption
    | with_reducible refine Keeps.setRf ?_
    | with_reducible refine Keeps.ite ?_ ?_
    | split
    | dsimp only

theorem Keeps.accDisable {s : State} {e : Nat × Nat} (hK : Keeps sb s) : Keeps sb (s.accDisable e) := by
  unfold State.accDisable
  repeat' first
    | with_reducible assumption
    | with_reducible refine Keeps.accTo ?_ (fun _ _ => ?_)
    | with_reducible refine Keeps.setRf ?_
    | with_reducible refine Keeps.ite ?_ ?_
    | split
    | dsimp only

theorem Keeps.setDrbg {s : State} {e : Nat × Nat} {d : Drbg} (hK : Keeps sb s) : Keeps sb (s.setDrbg e d) := by
  unfold State.setDrbg
  repeat' first
    | with_reducible assumption
    | dsimp only
    | with_reducible refine Keeps.upd ?_

theorem Keeps.reseed {s : State} {e : Nat × Nat} (hK : Keeps sb s) : Keeps sb (s.reseed e) := by
  unfold State.reseed
  repeat' first
    | with_reducible assumption
    | with_reducible refine Keeps.setDrbg ?_
    | with_reducible refine Keeps.setRf ?_
    | with_reducible refine Keeps.ite ?_ ?_
    | split
    | dsimp only
    | with_reducible refine Keeps.upd ?_

theorem Keeps.reseedAll {s : State} (hK : Keeps sb s) : Keeps sb (s.reseedAll) := by
  unfold State.reseedAll
  repeat' first
    | with_reducible assumption
    | with_reducible refine Keeps.reseed ?_
    | with_reducible refine Keeps.foldl (fun _ _ _ => ?_) ?_
    | dsimp only

theorem Keeps.seedAll {s : State} (hK : Keeps sb s) : Keeps sb (s.seedAll) := by
  unfold State.seedAll
  repeat' first
    | with_reducible assumption
    | with_reducible refine Keeps.setDrbg ?_
    | with_reducible refine Keeps.ite ?_ ?_
    | with_reducible refine Keeps.foldl (fun _ _ _ => ?_) ?_
    | with_reducible refine Keeps.foldl_fst (fun _ _ _ => ?_) ?_
    | split
    | dsimp only

theorem Keeps.generate {s : State} {e : Nat × Nat} {n : Nat} {pr : Bool} (hK : Keeps sb s) :
    Keeps sb (s.generate e n pr).2 := by
  unfold State.generate
  repeat' first
    | with_reducible assumption
    | with_reducible refine Keeps.reseed ?_
    | with_reducible refine Keeps.setDrbg ?_
    | with_reducible refine Keeps.freeBytes ?_
    | with_reducible refine Keeps.ite ?_ ?_
    | with_reducible refine Keeps.of_snd (by assumption) ?_
    | split
    | dsimp only
    | with_reducible refine Keeps.upd ?_

theorem Keeps.reseedCount {s : State} {e : Nat × Nat} (hK : Keeps sb s) : Keeps sb (s.reseedCount e) := by
  unfold State.reseedCount
  repeat' first
    | with_reducible assumption
    | with_reducible refine Keeps.reseed ?_
    | with_reducible refine Keeps.ite ?_ ?_
    | split
    | dsimp only

theorem Keeps.healthFail {s : State} {die : Nat} (hK : Keeps sb s) : Keeps sb (s.healthFail die) := by
  unfold State.healthFail
  repeat' first
    | with_reducible assumption
    | with_reducible refine Keeps.setRf ?_
    | with_reducible refine Keeps.accSend ?_
    | with_reducible refine Keeps.reseed ?_
    | with_reducible refine Keeps.ite ?_ ?_
    | with_reducible refine Keeps.foldl (fun _ _ _ => ?_) ?_
    | split
    | dsimp only

theorem Keeps.refillRnd {s : State} {core : Nat} (hK : Keeps sb s) : Keeps sb (s.refillRnd core) := by
  unfold State.refillRnd
  repeat' first
    | with_reducible assumption
    | with_reducible refine Keeps.generate ?_
    | with_reducible refine Keeps.modCore ?_
    | with_reducible refine Keeps.of_snd (by assumption) ?_
    | split
    | dsimp only
    | with_reducible refine Keeps.upd ?_

theorem Keeps.newKey {s : State} {slot : Nat} (hK : Keeps sb s) : Keeps sb (s.newKey slot) := by
  unfold State.newKey
  repeat' first
    | with_reducible assumption
    | with_reducible refine Keeps.freeBytes ?_
    | with_reducible refine Keeps.of_snd (by assumption) ?_
    | dsimp only
    | with_reducible refine Keeps.upd ?_

theorem Keeps.dropKey {s : State} {slot : Nat} (hK : Keeps sb s) : Keeps sb (s.dropKey slot) := by
  unfold State.dropKey
  repeat' first
    | with_reducible assumption
    | dsimp only
    | with_reducible refine Keeps.upd ?_

theorem Keeps.dropKeys {s : State} (hK : Keeps sb s) : Keeps sb (s.dropKeys) := by
  unfold State.dropKeys
  repeat' first
    | with_reducible assumption
    | dsimp only
    | with_reducible refine Keeps.upd ?_

theorem Keeps.regenKeys {s : State} (hK : Keeps sb s) : Keeps sb (s.regenKeys) := by
  unfold State.regenKeys
  repeat' first
    | with_reducible assumption
    | with_reducible refine Keeps.newKey ?_
    | with_reducible refine Keeps.foldl (fun _ _ _ => ?_) ?_
    | split
    | dsimp only
    | with_reducible refine Keeps.upd ?_

theorem Keeps.setWsTest {s : State} {die : Nat} {t : WsTest} (hK : Keeps sb s) : Keeps sb (s.setWsTest die t) := by
  unfold State.setWsTest
  repeat' first
    | with_reducible assumption
    | dsimp only
    | with_reducible refine Keeps.upd ?_

theorem Keeps.setBankSpare {s : State} {die : Nat} {dp : Bool} {n : Nat} (hK : Keeps sb s) :
    Keeps sb (s.setBankSpare die dp n) := by
  unfold State.setBankSpare
  repeat' first
    | with_reducible assumption
    | with_reducible refine Keeps.setRf ?_
    | with_reducible refine Keeps.ite ?_ ?_
    | split
    | dsimp only

theorem Keeps.bankSend {s : State} {die : Nat} {bank : Nat} {phys : Nat} {kind : Nat} {cls : Nat} (hK : Keeps sb s) :
    Keeps sb (s.bankSend die bank phys kind cls) := by
  unfold State.bankSend
  repeat' first
    | with_reducible assumption
    | with_reducible refine Keeps.send ?_
    | dsimp only

theorem Keeps.zeroBank {s : State} {die : Nat} {n : Nat} (hK : Keeps sb s) : Keeps sb (s.zeroBank die n) := by
  unfold State.zeroBank
  repeat' first
    | with_reducible assumption
    | with_reducible refine Keeps.wsZero ?_
    | dsimp only
    | with_reducible refine Keeps.upd ?_

theorem Keeps.retireBank {s : State} {die : Nat} (hK : Keeps sb s) : Keeps sb (s.retireBank die) := by
  unfold State.retireBank
  repeat' first
    | with_reducible assumption
    | with_reducible refine Keeps.setRf ?_
    | dsimp only

theorem Keeps.noSpares {s : State} {die : Nat} (hK : Keeps sb s) : Keeps sb (s.noSpares die) := by
  unfold State.noSpares
  repeat' first
    | with_reducible assumption
    | with_reducible refine Keeps.setRf ?_
    | with_reducible refine Keeps.ite ?_ ?_
    | split
    | dsimp only

theorem Keeps.dropFrames {s : State} {die : Nat} {n : Nat} (hK : Keeps sb s) : Keeps sb (s.dropFrames die n) := by
  unfold State.dropFrames
  repeat' first
    | with_reducible assumption
    | dsimp only
    | with_reducible refine Keeps.upd ?_

theorem Keeps.bankOwnWrite {s : State} {eng : Option Nat} {die : Nat} {n : Nat} {v : Dword} (hK : Keeps sb s) :
    Keeps sb (s.bankOwnWrite eng die n v) := by
  unfold State.bankOwnWrite
  repeat' first
    | with_reducible assumption
    | with_reducible refine Keeps.wsDeny ?_
    | with_reducible refine Keeps.refuse ?_
    | with_reducible refine Keeps.setReg ?_
    | with_reducible refine Keeps.dropFrames ?_
    | with_reducible refine Keeps.ite ?_ ?_
    | split
    | dsimp only
    | with_reducible refine Keeps.upd ?_

theorem Keeps.inPlaceEnd {s : State} {die : Nat} {n : Nat} {pass : Bool} (hK : Keeps sb s) :
    Keeps sb (s.inPlaceEnd die n pass) := by
  unfold State.inPlaceEnd
  repeat' first
    | with_reducible assumption
    | with_reducible refine Keeps.zeroBank ?_
    | with_reducible refine Keeps.setRf ?_
    | with_reducible refine Keeps.retireBank ?_
    | with_reducible refine Keeps.setWsTest ?_
    | with_reducible refine Keeps.bankSend ?_
    | with_reducible refine Keeps.setBankSpare ?_
    | with_reducible refine Keeps.noSpares ?_
    | with_reducible refine Keeps.ite ?_ ?_
    | split
    | dsimp only
    | with_reducible refine Keeps.upd ?_

theorem Keeps.startTest {s : State} {die : Nat} {n : Nat} (hK : Keeps sb s) : Keeps sb (s.startTest die n) := by
  unfold State.startTest
  repeat' first
    | with_reducible assumption
    | with_reducible refine Keeps.setRf ?_
    | with_reducible refine Keeps.setWsTest ?_
    | dsimp only
    | with_reducible refine Keeps.upd ?_

theorem Keeps.testPass {s : State} {die : Nat} (hK : Keeps sb s) : Keeps sb (s.testPass die) := by
  unfold State.testPass
  repeat' first
    | with_reducible assumption
    | with_reducible refine Keeps.setWsTest ?_
    | with_reducible refine Keeps.startTest ?_
    | with_reducible refine Keeps.ite ?_ ?_
    | split
    | dsimp only
    | with_reducible refine Keeps.upd ?_

theorem Keeps.testRecord {s : State} {cell : Nat} (hK : Keeps sb s) : Keeps sb (s.testRecord cell) := by
  unfold State.testRecord
  repeat' first
    | with_reducible assumption
    | with_reducible refine Keeps.readRec ?_
    | with_reducible refine Keeps.settleLost ?_
    | with_reducible refine Keeps.of_fst (by assumption) ?_
    | split
    | dsimp only
    | with_reducible refine Keeps.upd ?_

theorem Keeps.testRows {s : State} {die : Nat} {n : Nat} (hK : Keeps sb s) : Keeps sb (s.testRows die n) := by
  unfold State.testRows
  repeat' first
    | with_reducible assumption
    | with_reducible refine Keeps.testRecord ?_
    | with_reducible refine Keeps.wsErrors ?_
    | with_reducible refine Keeps.ite ?_ ?_
    | with_reducible refine Keeps.foldl (fun _ _ _ => ?_) ?_
    | with_reducible refine Keeps.foldl_fst (fun _ _ _ => ?_) ?_
    | with_reducible refine Keeps.of_fst (by assumption) ?_
    | split
    | dsimp only

theorem Keeps.copyEnd {s : State} {die : Nat} (hK : Keeps sb s) : Keeps sb (s.copyEnd die) := by
  unfold State.copyEnd
  repeat' first
    | with_reducible assumption
    | with_reducible refine Keeps.testRows ?_
    | with_reducible refine Keeps.setRf ?_
    | with_reducible refine Keeps.releaseFrames ?_
    | with_reducible refine Keeps.ite ?_ ?_
    | split
    | dsimp only

theorem Keeps.marchEnd {s : State} {die : Nat} {pass : Bool} (hK : Keeps sb s) : Keeps sb (s.marchEnd die pass) := by
  unfold State.marchEnd
  repeat' first
    | with_reducible assumption
    | with_reducible refine Keeps.setRf ?_
    | with_reducible refine Keeps.setBankSpare ?_
    | with_reducible refine Keeps.retireBank ?_
    | with_reducible refine Keeps.bankSend ?_
    | with_reducible refine Keeps.noSpares ?_
    | with_reducible refine Keeps.ite ?_ ?_
    | split
    | dsimp only

theorem Keeps.testEnable {s : State} {die : Nat} (hK : Keeps sb s) : Keeps sb (s.testEnable die) := by
  unfold State.testEnable
  repeat' first
    | with_reducible assumption
    | with_reducible refine Keeps.setRf ?_
    | with_reducible refine Keeps.ite ?_ ?_
    | split
    | dsimp only

theorem Keeps.wipeVault {s : State} {cause : Nat} (hK : Keeps sb s) : Keeps sb (s.wipeVault cause) := by
  unfold State.wipeVault
  repeat' first
    | with_reducible assumption
    | with_reducible refine Keeps.zeroBank ?_
    | with_reducible refine Keeps.setRf ?_
    | with_reducible refine Keeps.dropKeys ?_
    | with_reducible refine Keeps.bankSend ?_
    | with_reducible refine Keeps.ite ?_ ?_
    | with_reducible refine Keeps.foldl (fun _ _ _ => ?_) ?_
    | split
    | dsimp only

theorem Keeps.vaultBankFails {s : State} {i : Nat} (hK : Keeps sb s) : Keeps sb (s.vaultBankFails i) := by
  unfold State.vaultBankFails
  repeat' first
    | with_reducible assumption
    | with_reducible refine Keeps.retireBank ?_
    | with_reducible refine Keeps.bankSend ?_
    | with_reducible refine Keeps.setRf ?_
    | with_reducible refine Keeps.setBankSpare ?_
    | with_reducible refine Keeps.noSpares ?_
    | with_reducible refine Keeps.ite ?_ ?_
    | split
    | dsimp only
    | with_reducible refine Keeps.upd ?_

theorem Keeps.wipeEnd {s : State} {failed : List Nat} (hK : Keeps sb s) : Keeps sb (s.wipeEnd failed) := by
  unfold State.wipeEnd
  repeat' first
    | with_reducible assumption
    | with_reducible refine Keeps.zeroBank ?_
    | with_reducible refine Keeps.setRf ?_
    | with_reducible refine Keeps.vaultBankFails ?_
    | with_reducible refine Keeps.regenKeys ?_
    | with_reducible refine Keeps.hostSignal ?_
    | with_reducible refine Keeps.ite ?_ ?_
    | with_reducible refine Keeps.foldl (fun _ _ _ => ?_) ?_
    | split
    | dsimp only

theorem Keeps.bankRestart {s : State} {die : Nat} (hK : Keeps sb s) : Keeps sb (s.bankRestart die) := by
  unfold State.bankRestart
  repeat' first
    | with_reducible assumption
    | with_reducible refine Keeps.setRf ?_
    | dsimp only

theorem Keeps.abandonTests {s : State} (hK : Keeps sb s) : Keeps sb (s.abandonTests) := by
  unfold State.abandonTests
  repeat' first
    | with_reducible assumption
    | with_reducible refine Keeps.setRf ?_
    | with_reducible refine Keeps.ite ?_ ?_
    | with_reducible refine Keeps.foldl (fun _ _ _ => ?_) ?_
    | split
    | dsimp only

theorem Keeps.wsReset {s : State} {cold : Bool} (hK : Keeps sb s) : Keeps sb (s.wsReset cold) := by
  unfold State.wsReset
  extract_lets lo s0
  have h0 : Keeps sb s0 := (hK.ws (Memory.wf_filter s.ws _)).upd
  exact Keeps.foldl (fun _ _ h => Keeps.foldl (fun _ _ h => h.setReg) (Keeps.ite h.bankRestart h)) h0

theorem Keeps.showStat {s : State} (hK : Keeps sb s) : Keeps sb (s.showStat) := by
  unfold State.showStat
  repeat' first
    | with_reducible assumption
    | with_reducible refine Keeps.setReg ?_
    | with_reducible refine Keeps.ite ?_ ?_
    | split
    | dsimp only
    | with_reducible refine Keeps.upd ?_

theorem Keeps.unqueue {s : State} {m : Msg} (hK : Keeps sb s) : Keeps sb (s.unqueue m) := by
  unfold State.unqueue
  repeat' first
    | with_reducible assumption
    | with_reducible refine Keeps.setQueue ?_
    | dsimp only

theorem Keeps.enterHistory {s : State} {m : Msg} {q : Word} {v : Dword} (hK : Keeps sb s) :
    Keeps sb (s.enterHistory m q v) := by
  unfold State.enterHistory
  repeat' first
    | with_reducible assumption
    | with_reducible refine Keeps.setReg ?_
    | dsimp only

theorem Keeps.capture {s : State} {h : Nat} {m : Msg} {q : Word} (hK : Keeps sb s) : Keeps sb (s.capture h m q) := by
  unfold State.capture
  repeat' first
    | with_reducible assumption
    | with_reducible refine Keeps.setReg ?_
    | with_reducible refine Keeps.ite ?_ ?_
    | split
    | dsimp only

theorem Keeps.threshold {s : State} {m : Msg} (hK : Keeps sb s) : Keeps sb (s.threshold m) := by
  unfold State.threshold
  repeat' first
    | with_reducible assumption
    | with_reducible refine Keeps.setReg ?_
    | with_reducible refine Keeps.send ?_
    | with_reducible refine Keeps.ite ?_ ?_
    | split
    | dsimp only

theorem Keeps.setPlainSide {s : State} {die : Nat} {port : Nat} {x : PlainTx} (hK : Keeps sb s) :
    Keeps sb (s.setPlainSide die port x) := by
  unfold State.setPlainSide
  repeat' first
    | with_reducible assumption
    | dsimp only
    | with_reducible refine Keeps.upd ?_

theorem Keeps.resendFlits {s : State} {die : Nat} {port : Nat} (hK : Keeps sb s) : Keeps sb (s.resendFlits die port) := by
  unfold State.resendFlits
  repeat' first
    | with_reducible assumption
    | with_reducible refine Keeps.setPlainSide ?_
    | with_reducible refine Keeps.foldl (fun _ _ _ => ?_) ?_
    | split
    | dsimp only
    | with_reducible refine Keeps.upd ?_

theorem Keeps.plainFail {s : State} {die : Nat} {port : Nat} {report : Bool} {inj : Bool} (hK : Keeps sb s) :
    Keeps sb (s.plainFail die port report inj) := by
  unfold State.plainFail
  repeat' first
    | with_reducible assumption
    | with_reducible refine Keeps.loadRoutes ?_
    | with_reducible refine Keeps.condBegin ?_
    | with_reducible refine Keeps.resendFlits ?_
    | with_reducible refine Keeps.ite ?_ ?_
    | with_reducible refine Keeps.foldl (fun _ _ _ => ?_) ?_
    | split
    | dsimp only
    | with_reducible refine Keeps.upd ?_

theorem Keeps.flitError {s : State} {die : Nat} {port : Nat} {sent : List Flit} {back : Nat} (hK : Keeps sb s) :
    Keeps sb (s.flitError die port sent back) := by
  unfold State.flitError
  repeat' first
    | with_reducible assumption
    | with_reducible refine Keeps.send ?_
    | with_reducible refine Keeps.dropInj ?_
    | with_reducible refine Keeps.setPlainSide ?_
    | with_reducible refine Keeps.plainFail ?_
    | with_reducible refine Keeps.ite ?_ ?_
    | split
    | dsimp only
    | with_reducible refine Keeps.upd ?_

theorem Keeps.mcStop {s : State} {m : Nat} (hK : Keeps sb s) : Keeps sb (s.mcStop m) := by
  unfold State.mcStop
  repeat' first
    | with_reducible assumption
    | with_reducible refine Keeps.modUnit ?_
    | with_reducible refine Keeps.setRf ?_
    | dsimp only
    | with_reducible refine Keeps.upd ?_

theorem Keeps.mcRun {s : State} {m : Nat} {pre : Nat} {x : Option Psw} (hK : Keeps sb s) : Keeps sb (s.mcRun m pre x) := by
  unfold State.mcRun
  repeat' first
    | with_reducible assumption
    | with_reducible refine Keeps.setUnit ?_
    | with_reducible refine Keeps.setRf ?_
    | with_reducible refine Keeps.ite ?_ ?_
    | split
    | dsimp only
    | with_reducible refine Keeps.upd ?_

theorem Keeps.mcStart {s : State} {m : Nat} (hK : Keeps sb s) : Keeps sb (s.mcStart m) := by
  unfold State.mcStart
  repeat' first
    | with_reducible assumption
    | with_reducible refine Keeps.mcRun ?_
    | dsimp only

theorem Keeps.answerHeld {s : State} (hK : Keeps sb s) : Keeps sb (s.answerHeld) := by
  unfold State.answerHeld
  repeat' first
    | with_reducible assumption
    | with_reducible refine Keeps.fspSend ?_
    | with_reducible refine Keeps.foldl (fun _ _ _ => ?_) ?_
    | with_reducible refine Keeps.foldl_fst (fun _ _ _ => ?_) ?_
    | dsimp only
    | with_reducible refine Keeps.upd ?_

theorem Keeps.mcFail {s : State} {m : Nat} (hK : Keeps sb s) : Keeps sb (s.mcFail m) := by
  unfold State.mcFail
  repeat' first
    | with_reducible assumption
    | with_reducible refine Keeps.answerHeld ?_
    | with_reducible refine Keeps.mcStop ?_
    | with_reducible refine Keeps.send ?_
    | with_reducible refine Keeps.ite ?_ ?_
    | split
    | dsimp only

theorem Keeps.mcCode {s : State} {code : BitVec 16} (hK : Keeps sb s) : Keeps sb (s.mcCode code) := by
  unfold State.mcCode
  repeat' first
    | with_reducible assumption
    | with_reducible refine Keeps.pendCode ?_
    | with_reducible refine Keeps.foldl (fun _ _ _ => ?_) ?_
    | dsimp only

theorem Keeps.stopImage {s : State} {i : Nat} {m : Msg} (hK : Keeps sb s) : Keeps sb (s.stopImage i m) := by
  unfold State.stopImage
  repeat' first
    | with_reducible assumption
    | with_reducible refine Keeps.setImage ?_
    | split
    | dsimp only
    | with_reducible refine Keeps.upd ?_

theorem Keeps.isolate {s : State} {die : Nat} {unit : Nat} (hK : Keeps sb s) : Keeps sb (s.isolate die unit) := by
  unfold State.isolate
  repeat' first
    | with_reducible assumption
    | with_reducible refine Keeps.plainFail ?_
    | with_reducible refine Keeps.spareCpu ?_
    | with_reducible refine Keeps.l2Disable ?_
    | with_reducible refine Keeps.l3Disable ?_
    | with_reducible refine Keeps.failChannel ?_
    | with_reducible refine Keeps.accLeave ?_
    | with_reducible refine Keeps.engineFail ?_
    | with_reducible refine Keeps.clDisable ?_
    | with_reducible refine Keeps.chDieFail ?_
    | with_reducible refine Keeps.mirrorDown ?_
    | with_reducible refine Keeps.mcStop ?_
    | with_reducible refine Keeps.ite ?_ ?_
    | split
    | dsimp only
    | with_reducible refine Keeps.upd ?_

theorem Keeps.tell {s : State} {h : Nat} {m : Msg} {q : Word} (hK : Keeps sb s) : Keeps sb (s.tell h m q) := by
  unfold State.tell
  repeat' first
    | with_reducible assumption
    | with_reducible refine Keeps.fspEvent ?_
    | with_reducible refine Keeps.hostSignal ?_
    | with_reducible refine Keeps.ite ?_ ?_
    | split
    | dsimp only

theorem Keeps.stopModule {s : State} (hK : Keeps sb s) : Keeps sb (s.stopModule) := by
  unfold State.stopModule
  repeat' first
    | with_reducible assumption
    | with_reducible refine Keeps.setReg ?_
    | dsimp only
    | with_reducible refine Keeps.upd ?_

theorem Keeps.avsCommand {s : State} {r : Nat} {mv : Nat} (hK : Keeps sb s) : Keeps sb (s.avsCommand r mv) := by
  unfold State.avsCommand
  repeat' first
    | with_reducible assumption
    | with_reducible refine Keeps.ite ?_ ?_
    | split
    | dsimp only
    | with_reducible refine Keeps.upd ?_

theorem Keeps.avsTo {s : State} {r : Nat} {mv : Nat} (hK : Keeps sb s) : Keeps sb (s.avsTo r mv) := by
  unfold State.avsTo
  repeat' first
    | with_reducible assumption
    | with_reducible refine Keeps.avsCommand ?_
    | with_reducible refine Keeps.foldl (fun _ _ _ => ?_) ?_
    | dsimp only

theorem Keeps.stopTerminal {s : State} (hK : Keeps sb s) : Keeps sb (s.stopTerminal) := by
  unfold State.stopTerminal
  repeat' first
    | with_reducible assumption
    | with_reducible refine Keeps.avsTo ?_
    | with_reducible refine Keeps.setReg ?_
    | with_reducible refine Keeps.foldl (fun _ _ _ => ?_) ?_
    | dsimp only
    | with_reducible refine Keeps.upd ?_

theorem Keeps.classAction {s : State} {h : Nat} {m : Msg} {q : Word} (hK : Keeps sb s) : Keeps sb (s.classAction h m q) := by
  unfold State.classAction
  repeat' first
    | with_reducible assumption
    | with_reducible refine Keeps.tell ?_
    | with_reducible refine Keeps.isolate ?_
    | with_reducible refine Keeps.stopImage ?_
    | with_reducible refine Keeps.stopModule ?_
    | with_reducible refine Keeps.stopTerminal ?_
    | with_reducible refine Keeps.ite ?_ ?_
    | split
    | dsimp only
    | with_reducible refine Keeps.upd ?_

theorem Keeps.accept {s : State} {m : Msg} (hK : Keeps sb s) : Keeps sb (s.accept m) := by
  unfold State.accept
  repeat' first
    | with_reducible assumption
    | with_reducible refine Keeps.unqueue ?_
    | with_reducible refine Keeps.enterHistory ?_
    | with_reducible refine Keeps.errInc ?_
    | with_reducible refine Keeps.capture ?_
    | with_reducible refine Keeps.threshold ?_
    | with_reducible refine Keeps.classAction ?_
    | with_reducible refine Keeps.showPresent ?_
    | with_reducible refine Keeps.showStat ?_
    | with_reducible refine Keeps.mcCode ?_
    | with_reducible refine Keeps.ite ?_ ?_
    | with_reducible refine Keeps.foldl (fun _ _ _ => ?_) ?_
    | split
    | dsimp only
    | with_reducible refine Keeps.upd ?_

theorem Keeps.merge {s : State} (hK : Keeps sb s) : Keeps sb (s.merge) := by
  unfold State.merge
  repeat' first
    | with_reducible assumption
    | with_reducible refine Keeps.errInc ?_
    | with_reducible refine Keeps.threshold ?_
    | with_reducible refine Keeps.ite ?_ ?_
    | split
    | dsimp only
    | with_reducible refine Keeps.upd ?_

theorem Keeps.ackUpTo {s : State} {c : Nat} {S : Word} {src : Nat} (hK : Keeps sb s) : Keeps sb (s.ackUpTo c S src) := by
  unfold State.ackUpTo
  repeat' first
    | with_reducible assumption
    | with_reducible refine Keeps.setReg ?_
    | with_reducible refine Keeps.showStat ?_
    | with_reducible refine Keeps.ite ?_ ?_
    | with_reducible refine Keeps.foldl (fun _ _ _ => ?_) ?_
    | with_reducible refine Keeps.foldl_fst (fun _ _ _ => ?_) ?_
    | split
    | dsimp only
    | with_reducible refine Keeps.upd ?_

theorem Keeps.rearm {s : State} {c : Nat} (hK : Keeps sb s) : Keeps sb (s.rearm c) := by
  unfold State.rearm
  repeat' first
    | with_reducible assumption
    | with_reducible refine Keeps.setReg ?_
    | dsimp only

theorem Keeps.armInjection {s : State} {was : Bool} (hK : Keeps sb s) : Keeps sb (s.armInjection was) := by
  unfold State.armInjection
  repeat' first
    | with_reducible assumption
    | with_reducible refine Keeps.setRf ?_
    | with_reducible refine Keeps.ite ?_ ?_
    | split
    | dsimp only

theorem Keeps.performInjection {s : State} (hK : Keeps sb s) : Keeps sb (s.performInjection) := by
  unfold State.performInjection
  repeat' first
    | with_reducible assumption
    | with_reducible refine Keeps.setReg ?_
    | with_reducible refine Keeps.engineFail ?_
    | with_reducible refine Keeps.send ?_
    | with_reducible refine Keeps.accLeave ?_
    | with_reducible refine Keeps.ite ?_ ?_
    | split
    | dsimp only
    | with_reducible refine Keeps.upd ?_

theorem Keeps.windows {s : State} {t : Nat} {d : Nat} (hK : Keeps sb s) : Keeps sb (s.windows t d) := by
  unfold State.windows
  repeat' first
    | with_reducible assumption
    | with_reducible refine Keeps.setRf ?_
    | with_reducible refine Keeps.ite ?_ ?_
    | with_reducible refine Keeps.foldl (fun _ _ _ => ?_) ?_
    | with_reducible refine Keeps.foldl_fst (fun _ _ _ => ?_) ?_
    | split
    | dsimp only

theorem Keeps.snapBegin {s : State} {who : List (Nat × Word)} (hK : Keeps sb s) : Keeps sb (s.snapBegin who) := by
  unfold State.snapBegin
  repeat' first
    | with_reducible assumption
    | with_reducible refine Keeps.setReg ?_
    | dsimp only
    | with_reducible refine Keeps.upd ?_

theorem Keeps.snapRequest {s : State} {who : Option (Nat × Word)} (hK : Keeps sb s) : Keeps sb (s.snapRequest who) := by
  unfold State.snapRequest
  repeat' first
    | with_reducible assumption
    | with_reducible refine Keeps.snapBegin ?_
    | with_reducible refine Keeps.ite ?_ ?_
    | split
    | dsimp only
    | with_reducible refine Keeps.upd ?_

theorem Keeps.todSet {s : State} {rel : Bool} {x : Dword} (hK : Keeps sb s) : Keeps sb (s.todSet rel x) := by
  unfold State.todSet
  repeat' first
    | with_reducible assumption
    | with_reducible refine Keeps.send ?_
    | with_reducible refine Keeps.hostSignal ?_
    | with_reducible refine Keeps.fspEvent ?_
    | with_reducible refine Keeps.ite ?_ ?_
    | split
    | dsimp only
    | with_reducible refine Keeps.upd ?_

theorem Keeps.stepTod {s : State} {rel : Bool} {x : Dword} (hK : Keeps sb s) : Keeps sb (s.stepTod rel x) := by
  unfold State.stepTod
  repeat' first
    | with_reducible assumption
    | with_reducible refine Keeps.todSet ?_
    | with_reducible refine Keeps.ite ?_ ?_
    | split
    | dsimp only
    | with_reducible refine Keeps.upd ?_

theorem Keeps.runWaiting {s : State} {fuel : List TodWait} (hK : Keeps sb s) : Keeps sb (s.runWaiting fuel) := by
  induction fuel generalizing s with
  | nil => exact hK.upd
  | cons hd tl ih =>
    cases hd with
    | step rel x => exact ih hK.todSet
    | snap who =>
      simp only [State.runWaiting]
      split
      · exact hK.upd
      · exact Keeps.snapBegin hK.upd

theorem Keeps.copyCounters {s : State} (hK : Keeps sb s) : Keeps sb (s.copyCounters) := by
  unfold State.copyCounters
  repeat' first
    | with_reducible assumption
    | with_reducible refine Keeps.runWaiting ?_
    | with_reducible refine Keeps.ite ?_ ?_
    | split
    | dsimp only
    | with_reducible refine Keeps.upd ?_

theorem Keeps.passTod {s : State} {d : Nat} (hK : Keeps sb s) : Keeps sb (s.passTod d) := by
  unfold State.passTod
  repeat' first
    | with_reducible assumption
    | with_reducible refine Keeps.windows ?_
    | dsimp only
    | with_reducible refine Keeps.upd ?_

theorem Keeps.passUnits {s : State} {d : Nat} (hK : Keeps sb s) : Keeps sb (s.passUnits d) := by
  unfold State.passUnits
  repeat' first
    | with_reducible assumption
    | with_reducible refine Keeps.passTod ?_
    | with_reducible refine Keeps.copyCounters ?_
    | with_reducible refine Keeps.ite ?_ ?_
    | split
    | dsimp only
    | with_reducible refine Keeps.upd ?_

theorem Keeps.snapCapture {s : State} (hK : Keeps sb s) : Keeps sb (s.snapCapture) := by
  unfold State.snapCapture
  repeat' first
    | with_reducible assumption
    | with_reducible refine Keeps.passUnits ?_
    | with_reducible refine Keeps.ite ?_ ?_
    | split
    | dsimp only
    | with_reducible refine Keeps.upd ?_

theorem Keeps.snapDone {s : State} (hK : Keeps sb s) : Keeps sb (s.snapDone) := by
  unfold State.snapDone
  repeat' first
    | with_reducible assumption
    | with_reducible refine Keeps.setReg ?_
    | with_reducible refine Keeps.fspSend ?_
    | with_reducible refine Keeps.hostSignal ?_
    | with_reducible refine Keeps.mcCode ?_
    | with_reducible refine Keeps.runWaiting ?_
    | with_reducible refine Keeps.ite ?_ ?_
    | with_reducible refine Keeps.foldl (fun _ _ _ => ?_) ?_
    | with_reducible refine Keeps.foldl_fst (fun _ _ _ => ?_) ?_
    | split
    | dsimp only
    | with_reducible refine Keeps.upd ?_

theorem Keeps.advance {s : State} {n : Nat} (hK : Keeps sb s) : Keeps sb (s.advance n) := by
  unfold State.advance
  repeat' first
    | with_reducible assumption
    | with_reducible refine Keeps.passUnits ?_
    | dsimp only
    | with_reducible refine Keeps.upd ?_

theorem Keeps.windowEnd {s : State} {k : Nat} (hK : Keeps sb s) : Keeps sb (s.windowEnd k) := by
  unfold State.windowEnd
  repeat' first
    | with_reducible assumption
    | with_reducible refine Keeps.passUnits ?_
    | dsimp only

theorem Keeps.dcCtlWrite {s : State} {c : Nat} {v : Dword} (hK : Keeps sb s) : Keeps sb (s.dcCtlWrite c v) := by
  unfold State.dcCtlWrite
  repeat' first
    | with_reducible assumption
    | with_reducible refine Keeps.setRf ?_
    | with_reducible refine Keeps.dcEnable ?_
    | with_reducible refine Keeps.dcDisable ?_
    | with_reducible refine Keeps.startZero ?_
    | with_reducible refine Keeps.ite ?_ ?_
    | split
    | dsimp only

theorem Keeps.lgnWrite {s : State} {k : Nat} {v : Dword} (hK : Keeps sb s) : Keeps sb (s.lgnWrite k v) := by
  unfold State.lgnWrite
  repeat' first
    | with_reducible assumption
    | with_reducible refine Keeps.lgnDisable ?_
    | with_reducible refine Keeps.setReg ?_
    | with_reducible refine Keeps.lgnEnable ?_
    | with_reducible refine Keeps.ite ?_ ?_
    | split
    | dsimp only

theorem Keeps.injCtlWrite {s : State} {d : RegDesc} {v : Dword} (hK : Keeps sb s) : Keeps sb (s.injCtlWrite d v) := by
  unfold State.injCtlWrite
  repeat' first
    | with_reducible assumption
    | with_reducible refine Keeps.setReg ?_
    | with_reducible refine Keeps.armInjection ?_
    | with_reducible refine Keeps.ite ?_ ?_
    | split
    | dsimp only

theorem Keeps.performWrite {s : State} {w : Writer} {eng : Option Nat} {d : RegDesc} {i : Nat} {a : Nat} {v : Dword} (hK : Keeps sb s) :
    Keeps sb (s.performWrite w eng d i a v) := by
  unfold State.performWrite
  repeat' first
    | with_reducible assumption
    | with_reducible refine Keeps.setReg ?_
    | with_reducible refine Keeps.l2Enable ?_
    | with_reducible refine Keeps.l2Disable ?_
    | with_reducible refine Keeps.setRf ?_
    | with_reducible refine Keeps.l3Enable ?_
    | with_reducible refine Keeps.l3Disable ?_
    | with_reducible refine Keeps.dcCtlWrite ?_
    | with_reducible refine Keeps.modCtl ?_
    | with_reducible refine Keeps.chooseRate ?_
    | with_reducible refine Keeps.switchMode ?_
    | with_reducible refine Keeps.startTraining ?_
    | with_reducible refine Keeps.csEnable ?_
    | with_reducible refine Keeps.csDisable ?_
    | with_reducible refine Keeps.ceEnable ?_
    | with_reducible refine Keeps.engineStop ?_
    | with_reducible refine Keeps.clEnable ?_
    | with_reducible refine Keeps.clDisable ?_
    | with_reducible refine Keeps.lgnWrite ?_
    | with_reducible refine Keeps.accEnable ?_
    | with_reducible refine Keeps.accDisable ?_
    | with_reducible refine Keeps.bankOwnWrite ?_
    | with_reducible refine Keeps.testEnable ?_
    | with_reducible refine Keeps.ackUpTo ?_
    | with_reducible refine Keeps.rearm ?_
    | with_reducible refine Keeps.injCtlWrite ?_
    | with_reducible refine Keeps.cmapWrite ?_
    | with_reducible refine Keeps.snapRequest ?_
    | with_reducible refine Keeps.condEnd ?_
    | with_reducible refine Keeps.stepTod ?_
    | with_reducible refine Keeps.ite ?_ ?_
    | split
    | dsimp only
    | with_reducible refine Keeps.upd ?_

theorem Keeps.regWriteBy {s : State} {w : Writer} {eng : Option Nat} {a : Nat} {v : Dword} (hK : Keeps sb s) :
    Keeps sb (s.regWriteBy w eng a v) := by
  unfold State.regWriteBy
  repeat' first
    | with_reducible assumption
    | with_reducible refine Keeps.refuse ?_
    | with_reducible refine Keeps.performWrite ?_
    | with_reducible refine Keeps.ite ?_ ?_
    | split
    | dsimp only
    | with_reducible refine Keeps.upd ?_

theorem Keeps.regWrite {s : State} {w : Writer} {a : Nat} {v : Dword} (hK : Keeps sb s) : Keeps sb (s.regWrite w a v) := by
  unfold State.regWrite
  repeat' first
    | with_reducible assumption
    | with_reducible refine Keeps.regWriteBy ?_
    | dsimp only

theorem State.session_setSession (s : State) (i j : Nat) (x : Option Session) :
    (s.setSession i x).session j = if j = i then x else s.session j := sget_sput _ _ _ _ _

/-- A session changes: where it becomes active, the other one is not. -/
theorem Keeps.setSession {s : State} {i : Nat} {x : Option Session} (hK : Keeps sb s)
    (h : i < 2 → s.oneActive → ∀ y, x = some y → y.role = .active → ∀ z, s.session (1 - i) = some z → z.role ≠ .active) :
    Keeps sb (s.setSession i x) := by
  refine hK.sessions fun ho a b ha hb hab => ?_
  have ha : (s.setSession i x).session 0 = some a := ha
  have hb : (s.setSession i x).session 1 = some b := hb
  rw [State.session_setSession] at ha hb
  obtain rfl | rfl | hi : i = 0 ∨ i = 1 ∨ 2 ≤ i := by omega
  · exact h (by omega) ho a ha hab.1 b (by simpa using hb) hab.2
  · exact h (by omega) ho b (by simpa using hb) hab.2 a (by simpa using ha) hab.1
  · rw [if_neg (by omega)] at ha hb
    exact ho a b ha hb hab

/-- A session that is not active. -/
theorem Keeps.setPassive {s : State} {i : Nat} {x : Option Session} (hK : Keeps sb s) (h : ∀ y, x = some y → y.role ≠ .active) :
    Keeps sb (s.setSession i x) := hK.setSession fun _ _ y hy hr => absurd hr (h y hy)

/-- A session that keeps its role. -/
theorem Keeps.setSame {s : State} {i : Nat} {x y : Session} (hK : Keeps sb s) (hy : s.session i = some y) (hr : x.role = y.role) :
    Keeps sb (s.setSession i (some x)) := by
  refine hK.setSession fun hi ho x' hx' hx z hz hza => ?_
  cases hx'
  obtain rfl | rfl : i = 0 ∨ i = 1 := by omega
  · exact ho y z hy (by simpa using hz) ⟨hr ▸ hx, hza⟩
  · exact ho z y (by simpa using hz) hy ⟨hza, hr ▸ hx⟩

theorem Keeps.respond {s : State} {i : Nat} {group : Nat} {code : Nat} {req : Word} {status : Nat} {body : List Dword} (hK : Keeps sb s) :
    Keeps sb (s.respond i group code req status body) := by
  unfold State.respond
  repeat' first
    | with_reducible assumption
    | with_reducible refine Keeps.fspSend ?_
    | dsimp only

theorem Keeps.seSignal {s : State} (hK : Keeps sb s) : Keeps sb (s.seSignal) := by
  unfold State.seSignal
  repeat' first
    | with_reducible assumption
    | with_reducible refine Keeps.hostSignal ?_
    | with_reducible refine Keeps.ite ?_ ?_
    | split
    | dsimp only

theorem Keeps.promote {s : State} {i : Nat} (hK : Keeps sb s)
    (h : i < 2 → ∀ z, s.session (1 - i) = some z → z.role ≠ .active) : Keeps sb (s.promote i) := by
  unfold State.promote
  split
  · exact (hK.setSession fun hi _ _ _ _ => h hi).fspSend
  · exact hK

theorem Keeps.loseActive {s : State} {former port : Nat} (hK : Keeps sb s) (hf : former < 2)
    (h : ∀ x y, s.session former = some x → s.session (1 - former) = some y → y.role = .standby → x.role ≠ .active) :
    Keeps sb (s.loseActive former port) := by
  unfold State.loseActive
  refine (Keeps.send ?_).seSignal
  split
  · next x hx =>
    split
    · next hr => exact hK.promote fun _ z hz => h z x (by rwa [show 1 - (1 - former) = former by omega] at hz) hx hr
    · exact hK
  · exact hK

theorem Keeps.dropSession {s : State} {i : Nat} (hK : Keeps sb s) : Keeps sb (s.dropSession i) :=
  (hK.setPassive (i := i) (x := none) (by simp)).upd

theorem Keeps.closeSession {s : State} {i : Nat} (hK : Keeps sb s) (hi : i < 2) : Keeps sb (s.closeSession i) := by
  unfold State.closeSession
  split
  · exact hK
  · have h1 : Keeps sb (s.dropSession i) := hK.dropSession
    refine Keeps.ite (h1.loseActive hi fun x y hx => ?_) h1
    have hx : (s.setSession i none).session i = some x := hx
    simp [State.session_setSession] at hx

theorem Keeps.mgmtUp {s : State} {l : MgmtLink} (hK : Keeps sb s) : Keeps sb (s.mgmtUp l) := by
  unfold State.mgmtUp
  repeat' first
    | with_reducible assumption
    | with_reducible refine Keeps.condEnd ?_
    | with_reducible refine Keeps.ite ?_ ?_
    | split
    | dsimp only
    | with_reducible refine Keeps.upd ?_

theorem Keeps.connect {s : State} {port : Nat} {c : TlsClient} (hK : Keeps sb s) : Keeps sb (s.connect port c) := by
  unfold State.connect
  refine Keeps.ite hK (Keeps.ite hK.fspSend (hK.setPassive ?_))
  rintro y ⟨⟩
  simp

theorem State.no_active {s : State} (h : s.activeSession = none) {i : Nat} (hi : i < 2) {z : Session} (hz : s.session i = some z) :
    z.role ≠ .active := by
  simp only [State.activeSession, List.find?_eq_none, List.mem_range] at h
  have := h i hi
  simpa [hz] using this

theorem Keeps.hello {s : State} {i : Nat} {req : Word} {vmin vmax : Nat} (hK : Keeps sb s) : Keeps sb (s.hello i req vmin vmax) := by
  unfold State.hello
  split
  · exact hK
  · next x hx =>
    refine Keeps.ite hK.respond (Keeps.ite (hK.respond.setPassive (by simp)) ?_)
    extract_lets role s1
    have h1 : Keeps sb s1 := by
      refine Keeps.respond (hK.setSession fun hi _ y hy hr => ?_)
      cases hy
      by_cases ha : s.activeSession = none
      · exact fun z hz => State.no_active ha (by omega) hz
      · have : role ≠ .active := by
          have := Option.isSome_iff_ne_none.mpr ha
          simp only [role, this]
          split <;> simp
        exact absurd hr this
    exact Keeps.ite h1.seSignal h1

theorem Keeps.admitRecord {s : State} {i : Nat} {req : Word} {group code ver : Nat} {active : Bool} {f : State → State} (hK : Keeps sb s)
    (hf : ∀ t, Keeps sb t → Keeps sb (f t)) : Keeps sb (s.admitRecord i req group code ver active f) := by
  unfold State.admitRecord
  split
  · exact hK
  · next x hx =>
    have ht := Keeps.mcCode (code := 0x3101) (hK.setSame (x := { x with silent := false }) hx rfl)
    exact Keeps.ite ht.respond (Keeps.ite ht.respond (Keeps.ite ht.respond (Keeps.ite ht.respond (hf _ ht))))

theorem Keeps.takeover {s : State} {i : Nat} {req : Word} (hK : Keeps sb s) : Keeps sb (s.takeover i req) := by
  unfold State.takeover
  split
  · next ha => exact Keeps.ite hK.respond (hK.promote fun _ z hz => State.no_active ha (by omega) hz).respond.seSignal
  · next a ha =>
    have ha2 : a < 2 := by simpa using List.mem_of_find?_eq_some ha
    split
    · split
      · exact hK.respond
      · next hn =>
        refine ((Keeps.promote (hK.setPassive ?_) fun hi z hz => ?_).respond).seSignal
        · rintro y ⟨⟩; simp
        · have h1 : 1 - i = a := by
            have : a ≠ i := fun h => hn (Or.inl h)
            omega
          rw [State.session_setSession, if_pos h1] at hz
          cases hz; simp
    · exact hK

theorem Keeps.release {s : State} {i : Nat} {req : Word} (hK : Keeps sb s) (hi : i < 2) : Keeps sb (s.release i req) := by
  unfold State.release
  split
  · next x0 _ =>
    refine Keeps.ite hK.respond (Keeps.loseActive (Keeps.respond (hK.setPassive (by rintro y ⟨⟩; simp))) hi fun x y hx => ?_)
    have hx : (s.setSession i (some { x0 with role := .standby })).session i = some x := hx
    rw [State.session_setSession, if_pos rfl] at hx
    cases hx; simp
  · exact hK

theorem Keeps.silence {s : State} {i : Nat} (hK : Keeps sb s) (hi : i < 2) : Keeps sb (s.silence i) := by
  unfold State.silence
  split
  · exact hK
  · next x hx =>
    refine Keeps.ite hK ?_
    split
    · next y hy =>
      split
      · refine Keeps.loseActive (hK.setPassive (by rintro y ⟨⟩; simp)) hi fun x' y' hx' => ?_
        rw [State.session_setSession, if_pos rfl] at hx'
        cases hx'; simp
      · next hn =>
        refine Keeps.loseActive (hK.setSame (x := { x with silent := true }) hx rfl) hi fun x' y' _ hy' hr => ?_
        rw [State.session_setSession, if_neg (by omega), hy] at hy'
        cases hy'; exact absurd hr hn
    · next hy =>
      refine Keeps.loseActive (hK.setSame (x := { x with silent := true }) hx rfl) hi fun x' y' _ hy' => ?_
      rw [State.session_setSession, if_neg (by omega), hy] at hy'
      cases hy'

theorem Keeps.loadBegin {s : State} {i : Nat} {req : Word} {k : LoadKind} {ver : Nat} (hK : Keeps sb s) :
    Keeps sb (s.loadBegin i req k ver) := by
  unfold State.loadBegin
  repeat' first
    | with_reducible assumption
    | with_reducible refine Keeps.respond ?_
    | with_reducible refine Keeps.ite ?_ ?_
    | split
    | dsimp only
    | with_reducible refine Keeps.upd ?_

theorem Keeps.loadData {s : State} {i : Nat} {req : Word} {data : List Byte} (hK : Keeps sb s) :
    Keeps sb (s.loadData i req data) := by
  unfold State.loadData
  repeat' first
    | with_reducible assumption
    | with_reducible refine Keeps.respond ?_
    | with_reducible refine Keeps.ite ?_ ?_
    | split
    | dsimp only
    | with_reducible refine Keeps.upd ?_

theorem Keeps.writeHost {s : State} {data : List Byte} (hK : Keeps sb s) : Keeps sb (s.writeHost data) := by
  unfold State.writeHost
  repeat' first
    | with_reducible assumption
    | with_reducible refine Keeps.homeWrite ?_
    | with_reducible refine Keeps.foldl (fun _ _ _ => ?_) ?_
    | with_reducible refine Keeps.foldl_fst (fun _ _ _ => ?_) ?_
    | dsimp only

theorem Keeps.loadEnd {s : State} {i : Nat} {req : Word} {ok : Bool} (hK : Keeps sb s) : Keeps sb (s.loadEnd i req ok) := by
  unfold State.loadEnd
  repeat' first
    | with_reducible assumption
    | with_reducible refine Keeps.respond ?_
    | with_reducible refine Keeps.send ?_
    | with_reducible refine Keeps.wsPut ?_
    | with_reducible refine Keeps.writeHost ?_
    | with_reducible refine Keeps.ite ?_ ?_
    | with_reducible refine Keeps.foldl (fun _ _ _ => ?_) ?_
    | split
    | dsimp only
    | with_reducible refine Keeps.upd ?_

theorem Keeps.writeList {s : State} {ver : Nat} {fuel : List (Nat × Dword)} (hK : Keeps sb s) :
    Keeps sb (s.writeList ver fuel).1 := by
  induction fuel generalizing s ver with
  | nil =>
    unfold State.writeList
    repeat' first
      | with_reducible assumption
      | with_reducible refine Keeps.regWrite ?_
      | with_reducible refine Keeps.ite ?_ ?_
      | with_reducible refine Keeps.of_fst (by assumption) ?_
      | split
      | dsimp only
      | with_reducible refine Keeps.upd ?_
  | cons hd tl ih =>
    unfold State.writeList
    repeat' first
      | with_reducible assumption
      | with_reducible refine ih ?_
      | with_reducible refine Keeps.regWrite ?_
      | with_reducible refine Keeps.ite ?_ ?_
      | with_reducible refine Keeps.of_fst (by assumption) ?_
      | split
      | dsimp only
      | with_reducible refine Keeps.upd ?_

theorem Keeps.writeAndRespond {s : State} {i : Nat} {group : Nat} {code : Nat} {req : Word} {l : List (Nat × Dword)} (hK : Keeps sb s) :
    Keeps sb (s.writeAndRespond i group code req l) := by
  unfold State.writeAndRespond
  repeat' first
    | with_reducible assumption
    | with_reducible refine Keeps.writeList ?_
    | with_reducible refine Keeps.respond ?_
    | with_reducible refine Keeps.of_fst (by assumption) ?_
    | dsimp only

theorem Keeps.fspRegWrite {s : State} {i : Nat} {req : Word} {l : List (Nat × Dword)} (hK : Keeps sb s) :
    Keeps sb (s.fspRegWrite i req l) := by
  unfold State.fspRegWrite
  repeat' first
    | with_reducible assumption
    | with_reducible refine Keeps.respond ?_
    | with_reducible refine Keeps.writeAndRespond ?_
    | with_reducible refine Keeps.ite ?_ ?_
    | split
    | dsimp only

theorem Keeps.fspRegRead {s : State} {i : Nat} {req : Word} {l : List Nat} (hK : Keeps sb s) :
    Keeps sb (s.fspRegRead i req l) := by
  unfold State.fspRegRead
  repeat' first
    | with_reducible assumption
    | with_reducible refine Keeps.respond ?_
    | with_reducible refine Keeps.ite ?_ ?_
    | split
    | dsimp only

theorem Keeps.newNonce {s : State} (hK : Keeps sb s) : Keeps sb (s.newNonce) := by
  unfold State.newNonce
  repeat' first
    | with_reducible assumption
    | with_reducible refine Keeps.freeDword ?_
    | with_reducible refine Keeps.setReg ?_
    | with_reducible refine Keeps.foldl (fun _ _ _ => ?_) ?_
    | with_reducible refine Keeps.foldl_fst (fun _ _ _ => ?_) ?_
    | with_reducible refine Keeps.of_snd (by assumption) ?_
    | dsimp only

theorem Keeps.wipeChannel {s : State} {c : Nat} (hK : Keeps sb s) : Keeps sb (s.wipeChannel c) := by
  unfold State.wipeChannel
  repeat' first
    | with_reducible assumption
    | with_reducible refine Keeps.enableZero ?_
    | with_reducible refine Keeps.setReg ?_
    | with_reducible refine Keeps.startTraining ?_
    | with_reducible refine Keeps.ite ?_ ?_
    | split
    | dsimp only

theorem State.oneActive_none (s : State) (h : s.sessions = []) : s.oneActive := by
  intro a b ha
  simp [State.session, h, sget] at ha

theorem Keeps.wipeStep {s : State} {n : Nat} (hK : Keeps sb s) : Keeps sb (s.wipeStep n) := by
  unfold State.wipeStep
  extract_lets s0 t2 w
  have h0 : Keeps sb s0 := hK.upd
  have h2 : Keeps sb t2 := h0.wipeVault
  have hw : Keeps sb w := h0.discardAll.wsReset
  clear_value s0 t2 w
  refine Keeps.ite ?_ (Keeps.ite (Keeps.seedAll h2.upd) (Keeps.ite hw.upd (Keeps.ite ?_ h0)))
  · exact (h0.sessions (m := []) fun _ => State.oneActive_none _ rfl).upd
  · exact Keeps.foldl (fun _ _ h => h.wipeChannel) h0

theorem State.lcState_append (s : State) (l : List (Nat × Bool)) (r : Nat × Bool) (h : s.lcRows = l ++ [r]) : s.lcState = r.1 := by
  simp [State.lcState, h]

theorem Keeps.blowRow {s : State} (hK : Keeps sb s) {r : Nat × Bool} (h : s.lcRows.getLast? = some r) :
    Keeps sb { s with lcRows := s.lcRows.dropLast ++ [(r.1, true)] } := by
  have hs : s.lcRows = s.lcRows.dropLast ++ [r] := by
    obtain ⟨l, hl⟩ := List.getLast?_eq_some_iff.mp h
    simp [hl]
  have h1 : s.lcState = r.1 := s.lcState_append _ r hs
  have h2 : ({ s with lcRows := s.lcRows.dropLast ++ [(r.1, true)] } : State).lcState = r.1 := State.lcState_append _ _ (r.1, true) rfl
  have hm : ({ s with lcRows := s.lcRows.dropLast ++ [(r.1, true)] } : State).retired = s.retired := by simp [State.retired, h1, h2]
  refine hK.rows (fun ⟨ha, hl⟩ => ⟨fun x hx => ?_, ?_⟩) (fun h => hm.trans h)
  · rcases List.mem_append.mp hx with hx | hx
    · exact ha x (hs ▸ List.mem_append_left _ hx)
    · rw [List.mem_singleton.mp hx]; exact ha r (hs ▸ by simp)
  · have : (s.lcRows.dropLast ++ [(r.1, true)]).length = s.lcRows.length := by
      have := congrArg List.length hs
      simp only [List.length_append, List.length_singleton] at this ⊢
      omega
    simpa [hm, this] using hl

theorem Keeps.blowDone {s : State} (hK : Keeps sb s) : Keeps sb s.blowDone := by
  unfold State.blowDone
  extract_lets rows
  refine Keeps.fspEvent (Keeps.send ?_)
  simp only [rows]
  split
  · next h => exact hK.blowRow h
  · exact hK

theorem Keeps.wipeStepEnd {s : State} (hK : Keeps sb s) : Keeps sb (s.wipeStepEnd) := by
  unfold State.wipeStepEnd
  repeat' first
    | with_reducible assumption
    | with_reducible refine Keeps.wipeStep ?_
    | with_reducible refine Keeps.blowDone ?_
    | with_reducible refine Keeps.fspEvent ?_
    | with_reducible refine Keeps.ite ?_ ?_
    | split
    | dsimp only
    | with_reducible refine Keeps.upd ?_

theorem Keeps.addRow {s : State} (hK : Keeps sb s) {to_ : Nat} (hp : lcPair s.lcState to_ = true) (hl : s.lcRows.length < 127 ∨ to_ = 15) :
    Keeps sb { s with lcRows := s.lcRows ++ [(to_, false)] } := by
  have h2 : ({ s with lcRows := s.lcRows ++ [(to_, false)] } : State).lcState = to_ := State.lcState_append _ _ (to_, false) rfl
  have hn : s.lcState ≠ 15 := by
    intro h; simp [lcPair, h] at hp
  refine hK.rows (fun ⟨ha, hlen⟩ => ⟨fun x hx => ?_, ?_⟩) (fun h => absurd (by simpa [State.retired] using h) hn)
  · rcases List.mem_append.mp hx with hx | hx
    · exact ha x hx
    · rw [List.mem_singleton.mp hx]
      simp [lcPair] at hp
      omega
  · have hlen : s.lcRows.length ≤ 127 := by
      rcases hlen with h | ⟨_, h⟩
      · exact h
      · exact absurd (by simpa [State.retired] using h) hn
    rcases Nat.lt_or_ge s.lcRows.length 127 with h | h
    · exact .inl (by simp; omega)
    · have : to_ = 15 := by omega
      refine .inr ⟨by simp; omega, ?_⟩
      show (State.lcState _ == 15) = true
      rw [h2, this]
      rfl
theorem Keeps.lcEnter {s : State} {target : Nat} (hK : Keeps sb s) (hp : lcPair s.lcState target = true)
    (hl : s.lcRows.length < 127 ∨ target = 15) : Keeps sb (s.lcEnter target) :=
  let h : Keeps sb { s with
    lcRows := s.lcRows ++ [(target, false)], jtag := match s.jtag with | .other _ => .bypass | j => j } := (hK.addRow hp hl).upd
  Keeps.ite h.setReg h

theorem State.newNonce_lcRows (s : State) : s.newNonce.lcRows = s.lcRows := rfl

theorem Keeps.lcTransition {s : State} {i : Nat} {req : Word} {target : Nat} {nonce : BitVec 256} {g : LcSig}
    (hK : Keeps sb s) : Keeps sb (s.lcTransition i req target nonce g) := by
  unfold State.lcTransition
  extract_lets st
  refine Keeps.ite hK.respond ?_
  split
  · exact hK.respond
  · next h =>
    rw [not_or] at h
    have := h.2
    exact Keeps.ite hK.respond (Keeps.wipeStep (Keeps.fspEvent (Keeps.respond
      (hK.lcEnter (show lcPair s.lcState target = true by simpa using h.1) (by omega)))))

theorem Keeps.lcProvision {s : State} {i : Nat} {req : Word} {o : Owner} (hK : Keeps sb s) : Keeps sb (s.lcProvision i req o) := by
  unfold State.lcProvision
  extract_lets change
  split
  · exact hK.respond
  · next h =>
    refine Keeps.ite hK.respond ?_
    rw [not_or] at h
    have hst : s.lcState = 2 := by simpa using h.1
    by_cases hc : change = true
    · simp only [hc, if_true]
      have hr : Keeps sb { s with lcRows := s.lcRows ++ [(2, true)] } := by
        have h2 : ({ s with lcRows := s.lcRows ++ [(2, true)] } : State).lcState = 2 := State.lcState_append _ _ (2, true) rfl
        refine hK.rows (fun ⟨ha, hlen⟩ => ⟨fun x hx => ?_, .inl ?_⟩) (fun h => by simp [State.retired, hst] at h)
        · rcases List.mem_append.mp hx with hx | hx
          · exact ha x hx
          · rw [List.mem_singleton.mp hx]; simp
        · have := Nat.lt_of_not_le fun h' => h.2 ⟨hc, h'⟩
          simp; omega
      exact hr.respond.upd
    · simp only [hc]
      exact Keeps.upd hK.respond

theorem Keeps.jtagLoad {s : State} {j : JtagInstr} (hK : Keeps sb s) : Keeps sb (s.jtagLoad j) := by
  unfold State.jtagLoad
  repeat' first
    | with_reducible assumption
    | with_reducible refine Keeps.ite ?_ ?_
    | split
    | dsimp only
    | with_reducible refine Keeps.upd ?_

theorem Keeps.newRate {s : State} {o : Int} (hK : Keeps sb s) : Keeps sb (s.newRate o) := by
  unfold State.newRate
  repeat' first
    | with_reducible assumption
    | with_reducible refine Keeps.freeDword ?_
    | with_reducible refine Keeps.setRf ?_
    | with_reducible refine Keeps.ite ?_ ?_
    | with_reducible refine Keeps.of_snd (by assumption) ?_
    | split
    | dsimp only

theorem Keeps.discipline {s : State} {o : Int} (hK : Keeps sb s) : Keeps sb (s.discipline o) := by
  unfold State.discipline
  repeat' first
    | with_reducible assumption
    | with_reducible refine Keeps.setRf ?_
    | with_reducible refine Keeps.newRate ?_
    | with_reducible refine Keeps.stepTod ?_
    | with_reducible refine Keeps.ite ?_ ?_
    | split
    | dsimp only
    | with_reducible refine Keeps.upd ?_

theorem Keeps.ptpRegained {s : State} (hK : Keeps sb s) : Keeps sb (s.ptpRegained) := by
  unfold State.ptpRegained
  repeat' first
    | with_reducible assumption
    | with_reducible refine Keeps.setRf ?_
    | with_reducible refine Keeps.condEnd ?_
    | with_reducible refine Keeps.fspEvent ?_
    | with_reducible refine Keeps.ite ?_ ?_
    | split
    | dsimp only

theorem Keeps.ptpSynced {s : State} {t1 : Int} {t2 : Dword} (hK : Keeps sb s) : Keeps sb (s.ptpSynced t1 t2) := by
  unfold State.ptpSynced
  repeat' first
    | with_reducible assumption
    | with_reducible refine Keeps.mcCode ?_
    | with_reducible refine Keeps.discipline ?_
    | split
    | dsimp only
    | with_reducible refine Keeps.upd ?_

theorem Keeps.ptpDelay {s : State} {t4 : Int} (hK : Keeps sb s) : Keeps sb (s.ptpDelay t4) := by
  unfold State.ptpDelay
  repeat' first
    | with_reducible assumption
    | with_reducible refine Keeps.discipline ?_
    | with_reducible refine Keeps.ite ?_ ?_
    | split
    | dsimp only
    | with_reducible refine Keeps.upd ?_

theorem Keeps.ptpMessage {s : State} {e : PtpEvent} (hK : Keeps sb s) : Keeps sb (s.ptpMessage e) := by
  unfold State.ptpMessage
  repeat' first
    | with_reducible assumption
    | with_reducible refine Keeps.mcCode ?_
    | with_reducible refine Keeps.ptpRegained ?_
    | with_reducible refine Keeps.ptpSynced ?_
    | with_reducible refine Keeps.ptpDelay ?_
    | with_reducible refine Keeps.ite ?_ ?_
    | split
    | dsimp only
    | with_reducible refine Keeps.upd ?_

theorem Keeps.ptpPortDown {s : State} {port : Nat} (hK : Keeps sb s) : Keeps sb (s.ptpPortDown port) := by
  unfold State.ptpPortDown
  repeat' first
    | with_reducible assumption
    | dsimp only
    | with_reducible refine Keeps.upd ?_

theorem Keeps.ptpHold {s : State} (hK : Keeps sb s) : Keeps sb (s.ptpHold) := by
  unfold State.ptpHold
  repeat' first
    | with_reducible assumption
    | with_reducible refine Keeps.setRf ?_
    | with_reducible refine Keeps.condBegin ?_
    | with_reducible refine Keeps.fspEvent ?_
    | with_reducible refine Keeps.ite ?_ ?_
    | split
    | dsimp only

theorem Keeps.pollRail {s : State} {r : Nat} {rd : Option Reading} (hK : Keeps sb s) : Keeps sb (s.pollRail r rd) := by
  unfold State.pollRail
  repeat' first
    | with_reducible assumption
    | with_reducible refine Keeps.setReg ?_
    | with_reducible refine Keeps.condBegin ?_
    | with_reducible refine Keeps.condEnd ?_
    | with_reducible refine Keeps.ite ?_ ?_
    | split
    | dsimp only
    | with_reducible refine Keeps.upd ?_

theorem Keeps.pollRails {s : State} {l : List (Option Reading)} (hK : Keeps sb s) : Keeps sb (s.pollRails l) := by
  unfold State.pollRails
  repeat' first
    | with_reducible assumption
    | with_reducible refine Keeps.pollRail ?_
    | with_reducible refine Keeps.ite ?_ ?_
    | with_reducible refine Keeps.foldl (fun _ _ _ => ?_) ?_
    | with_reducible refine Keeps.foldl_fst (fun _ _ _ => ?_) ?_
    | split
    | dsimp only

theorem Keeps.setGov {s : State} {r : Nat} {g : Gov} (hK : Keeps sb s) : Keeps sb (s.setGov r g) := by
  unfold State.setGov
  repeat' first
    | with_reducible assumption
    | dsimp only
    | with_reducible refine Keeps.upd ?_

theorem Keeps.governor {s : State} {r : Nat} {o : GovObs} (hK : Keeps sb s) : Keeps sb (s.governor r o) := by
  unfold State.governor
  repeat' first
    | with_reducible assumption
    | with_reducible refine Keeps.setGov ?_
    | with_reducible refine Keeps.evInc ?_
    | with_reducible refine Keeps.ite ?_ ?_
    | split
    | dsimp only
    | with_reducible refine Keeps.upd ?_

theorem Keeps.adapt {s : State} {r : Nat} {volts : Option Nat} (hK : Keeps sb s) : Keeps sb (s.adapt r volts) := by
  unfold State.adapt
  repeat' first
    | with_reducible assumption
    | with_reducible refine Keeps.avsCommand ?_
    | with_reducible refine Keeps.setGov ?_
    | with_reducible refine Keeps.ite ?_ ?_
    | split
    | dsimp only
    | with_reducible refine Keeps.upd ?_

theorem Keeps.setPass {s : State} {die : Nat} {p : Pass} (hK : Keeps sb s) : Keeps sb (s.setPass die p) := by
  unfold State.setPass
  repeat' first
    | with_reducible assumption
    | dsimp only
    | with_reducible refine Keeps.upd ?_

theorem Keeps.droop {s : State} {die : Nat} {cluster : Nat} {supply : Nat} {n : Nat} (hK : Keeps sb s) :
    Keeps sb (s.droop die cluster supply n) := by
  unfold State.droop
  repeat' first
    | with_reducible assumption
    | with_reducible refine Keeps.setRf ?_
    | with_reducible refine Keeps.setPass ?_
    | with_reducible refine Keeps.send ?_
    | with_reducible refine Keeps.ite ?_ ?_
    | split
    | dsimp only
    | with_reducible refine Keeps.upd ?_

theorem Keeps.droopEnd {s : State} {die : Nat} {cluster : Nat} (hK : Keeps sb s) : Keeps sb (s.droopEnd die cluster) := by
  unfold State.droopEnd
  repeat' first
    | with_reducible assumption
    | dsimp only
    | with_reducible refine Keeps.upd ?_

theorem Keeps.nearLimit {s : State} {die : Nat} {temp : Nat} {inj : Bool} (hK : Keeps sb s) :
    Keeps sb (s.nearLimit die temp inj) := by
  unfold State.nearLimit
  repeat' first
    | with_reducible assumption
    | with_reducible refine Keeps.pendMc ?_
    | with_reducible refine Keeps.foldl (fun _ _ _ => ?_) ?_
    | dsimp only
    | with_reducible refine Keeps.upd ?_

theorem Keeps.thermal {s : State} {die : Nat} {temp : Nat} {inj : Option Nat} (hK : Keeps sb s) :
    Keeps sb (s.thermal die temp inj) := by
  unfold State.thermal
  repeat' first
    | with_reducible assumption
    | with_reducible refine Keeps.condBegin ?_
    | with_reducible refine Keeps.nearLimit ?_
    | with_reducible refine Keeps.condEnd ?_
    | with_reducible refine Keeps.ite ?_ ?_
    | with_reducible refine Keeps.foldl (fun _ _ _ => ?_) ?_
    | with_reducible refine Keeps.foldl_fst (fun _ _ _ => ?_) ?_
    | split
    | dsimp only
    | with_reducible refine Keeps.upd ?_

theorem Keeps.sensor {s : State} {die : Nat} (hK : Keeps sb s) : Keeps sb (s.sensor die).1 := by
  unfold State.sensor
  repeat' first
    | with_reducible assumption
    | with_reducible refine Keeps.setPass ?_
    | with_reducible refine Keeps.dropInj ?_
    | with_reducible refine Keeps.ite ?_ ?_
    | with_reducible refine Keeps.of_fst (by assumption) ?_
    | split
    | dsimp only
    | with_reducible refine Keeps.upd ?_

theorem Keeps.comparatorTests {s : State} {die : Nat} (hK : Keeps sb s) : Keeps sb (s.comparatorTests die) := by
  unfold State.comparatorTests
  repeat' first
    | with_reducible assumption
    | with_reducible refine Keeps.dropInj ?_
    | with_reducible refine Keeps.comparatorFault ?_
    | with_reducible refine Keeps.foldl (fun _ _ _ => ?_) ?_
    | split
    | dsimp only
    | with_reducible refine Keeps.upd ?_

theorem Keeps.scrubSlot {s : State} {c : Nat} {n : Nat} (hK : Keeps sb s) : Keeps sb (s.scrubSlot c n) := by
  unfold State.scrubSlot
  repeat' first
    | with_reducible assumption
    | with_reducible refine Keeps.scrubLine ?_
    | with_reducible refine Keeps.ite ?_ ?_
    | split
    | dsimp only

theorem Keeps.pauseSlot {s : State} {c : Nat} {o : ChanObs} (hK : Keeps sb s) : Keeps sb (s.pauseSlot c o) := by
  unfold State.pauseSlot
  repeat' first
    | with_reducible assumption
    | with_reducible refine Keeps.retrainPause ?_
    | with_reducible refine Keeps.ite ?_ ?_
    | split
    | dsimp only

theorem Keeps.caError {s : State} {c : Nat} {err : Bool} (hK : Keeps sb s) : Keeps sb (s.caError c err) := by
  unfold State.caError
  repeat' first
    | with_reducible assumption
    | with_reducible refine Keeps.dcSend ?_
    | with_reducible refine Keeps.ite ?_ ?_
    | split
    | dsimp only

theorem Keeps.computeSlots {s : State} {die : Nat} {n : Nat} {o : PassObs} (hK : Keeps sb s) :
    Keeps sb (s.computeSlots die n o) := by
  unfold State.computeSlots
  repeat' first
    | with_reducible assumption
    | with_reducible refine Keeps.caError ?_
    | with_reducible refine Keeps.mr4Poll ?_
    | with_reducible refine Keeps.comparatorTests ?_
    | with_reducible refine Keeps.scrubDie ?_
    | with_reducible refine Keeps.scrubSlot ?_
    | with_reducible refine Keeps.pauseSlot ?_
    | with_reducible refine Keeps.spareTestStart ?_
    | with_reducible refine Keeps.ite ?_ ?_
    | split
    | dsimp only

theorem Keeps.accCorrected {s : State} {e : Nat × Nat} (hK : Keeps sb s) : Keeps sb (s.accCorrected e) := by
  unfold State.accCorrected
  repeat' first
    | with_reducible assumption
    | with_reducible refine Keeps.errInc ?_
    | with_reducible refine Keeps.accSend ?_
    | dsimp only

theorem Keeps.arise {s : State} {die : Nat} {l : List ArrayFault} (hK : Keeps sb s) : Keeps sb (s.arise die l) := by
  unfold State.arise
  repeat' first
    | with_reducible assumption
    | with_reducible refine Keeps.accCorrected ?_
    | with_reducible refine Keeps.send ?_
    | with_reducible refine Keeps.ite ?_ ?_
    | with_reducible refine Keeps.foldl (fun _ _ _ => ?_) ?_
    | with_reducible refine Keeps.foldl_fst (fun _ _ _ => ?_) ?_
    | split
    | dsimp only
    | with_reducible refine Keeps.upd ?_

theorem Keeps.passStart {s : State} {die : Nat} {o : PassObs} (hK : Keeps sb s) : Keeps sb (s.passStart die o) := by
  unfold State.passStart
  repeat' first
    | with_reducible assumption
    | with_reducible refine Keeps.arise ?_
    | with_reducible refine Keeps.setPass ?_
    | with_reducible refine Keeps.setRf ?_
    | with_reducible refine Keeps.evInc ?_
    | with_reducible refine Keeps.sensor ?_
    | with_reducible refine Keeps.thermal ?_
    | with_reducible refine Keeps.computeSlots ?_
    | with_reducible refine Keeps.testPass ?_
    | with_reducible refine Keeps.setReg ?_
    | with_reducible refine Keeps.send ?_
    | with_reducible refine Keeps.ite ?_ ?_
    | with_reducible refine Keeps.of_fst (by assumption) ?_
    | split
    | dsimp only
    | with_reducible refine Keeps.upd ?_

end Sys2Proof.Machine
end

