-- ==== Sys2Proof/Laws/KeepsOps.lean ====
section
/-! SUPPORT. What they keep: interruptions and the frame of an instruction. -/
namespace Sys2Proof.Machine
open Sys2Proof

variable {sb : State}

theorem Keeps.fetchedBy {s : State} {u : Nat} {l : List Nat} (hK : Keeps sb s) : Keeps sb (s.fetchedBy u l) := by
  unfold State.fetchedBy
  repeat' first
    | with_reducible assumption
    | with_reducible refine Keeps.conflicts ?_
    | with_reducible refine Keeps.coreRead ?_
    | with_reducible refine Keeps.foldl (fun _ _ _ => ?_) ?_
    | dsimp only

theorem Keeps.storePhys {s : State} {u : Nat} {pa : Nat} {data : List Byte} {mt : optParam Mt Mt.wb} (hK : Keeps sb s) :
    Keeps sb (s.storePhys u pa data mt) := by
  unfold State.storePhys
  repeat' first
    | with_reducible assumption
    | with_reducible refine Keeps.performStore ?_
    | with_reducible refine Keeps.foldl (fun _ _ _ => ?_) ?_
    | with_reducible refine Keeps.foldl_fst (fun _ _ _ => ?_) ?_
    | dsimp only

theorem Keeps.storeArea {s : State} {u : Nat} {p : Area} {off : Nat} {data : List Byte} (hK : Keeps sb s) :
    Keeps sb (s.storeArea u p off data) := by
  unfold State.storeArea
  repeat' first
    | with_reducible assumption
    | with_reducible refine Keeps.storePhys ?_
    | with_reducible refine Keeps.wsPut ?_
    | with_reducible refine Keeps.wsClean ?_
    | split
    | dsimp only
    | with_reducible refine Keeps.upd ?_

theorem Keeps.fetchNew {s : State} {u : Nat} {p : Area} {c : Cls} (hK : Keeps sb s) : Keeps sb (s.fetchNew u p c) := by
  unfold State.fetchNew
  repeat' first
    | with_reducible assumption
    | with_reducible refine Keeps.readSide ?_
    | with_reducible refine Keeps.wsErrors ?_
    | with_reducible refine Keeps.of_fst (by assumption) ?_
    | split
    | dsimp only
    | with_reducible refine Keeps.upd ?_

theorem Keeps.setTxa {s : State} {u : Nat} {p : Area} (hK : Keeps sb s) : Keeps sb (s.setTxa u p) := by
  unfold State.setTxa
  repeat' first
    | with_reducible assumption
    | with_reducible refine Keeps.storeArea ?_
    | split
    | dsimp only
    | with_reducible refine Keeps.upd ?_

theorem Keeps.loadPsw {s : State} {u : Nat} {p : Psw} (hK : Keeps sb s) : Keeps sb (s.loadPsw u p) := by
  unfold State.loadPsw
  repeat' first
    | with_reducible assumption
    | with_reducible refine Keeps.setPsw ?_
    | with_reducible refine Keeps.unitSend ?_
    | with_reducible refine Keeps.ite ?_ ?_
    | split
    | dsimp only

theorem Keeps.irunExit {s : State} {u : Nat} {reason : Nat} {q : Dword} (hK : Keeps sb s) :
    Keeps sb (s.irunExit u reason q) := by
  unfold State.irunExit
  repeat' first
    | with_reducible assumption
    | with_reducible refine Keeps.abortRegion ?_
    | with_reducible refine Keeps.wcFlush ?_
    | with_reducible refine Keeps.storePhys ?_
    | with_reducible refine Keeps.modUnit ?_
    | with_reducible refine Keeps.loadPsw ?_
    | split
    | dsimp only
    | with_reducible refine Keeps.upd ?_

theorem Keeps.unitFail {s : State} {u : Nat} (hK : Keeps sb s) : Keeps sb (s.unitFail u) := by
  unfold State.unitFail
  repeat' first
    | with_reducible assumption
    | with_reducible refine Keeps.engineFail ?_
    | with_reducible refine Keeps.mcFail ?_
    | with_reducible refine Keeps.ite ?_ ?_
    | split
    | dsimp only

theorem Keeps.cannotTake {s : State} {u : Nat} {failure : Bool} (hK : Keeps sb s) : Keeps sb (s.cannotTake u failure) := by
  unfold State.cannotTake
  repeat' first
    | with_reducible assumption
    | with_reducible refine Keeps.unitFail ?_
    | with_reducible refine Keeps.sendMsg ?_
    | with_reducible refine Keeps.irunExit ?_
    | with_reducible refine Keeps.unitSend ?_
    | with_reducible refine Keeps.modUnit ?_
    | with_reducible refine Keeps.ite ?_ ?_
    | split
    | dsimp only
    | with_reducible refine Keeps.upd ?_

theorem Keeps.takeInt {s back : State} {u : Nat} {x : Intr} (hK : Keeps sb s) (hb : Keeps sb back) : Keeps sb (s.takeInt u x back) := by
  unfold State.takeInt
  extract_lets l s0 s1
  have hf : Keeps sb (s.fetchedBy u l) := hK.fetchedBy
  have hg : Keeps sb (back.fetchedBy u l) := hb.fetchedBy
  have h1 : Keeps sb s1 := hf.wcFlush.modUnit
  clear_value s0 s1
  split
  · exact hg.irunExit
  · exact hf.cannotTake
  · exact hK.wsDeny.wsDeny.cannotTake
  · exact hb
  · refine Keeps.ite hf.cannotTake ?_
    extract_lets s2 s3
    have h2 : Keeps sb s2 := Keeps.ite h1.setTxa h1
    have h3 : Keeps sb s3 := (Keeps.storeArea (Keeps.foldl (fun _ _ h => h.storeArea) h2)).fetchNew
    clear_value s3
    split
    · exact Keeps.ite h3.loadPsw h3.cannotTake
    · exact h3.cannotTake

theorem Keeps.raise {s : State} {u : Nat} {x : Intr} (hK : Keeps sb s) : Keeps sb (s.raise u x) := hK.takeInt hK.modUnit

theorem Keeps.programInt {s : State} {u : Nat} {e : Exc} {word : Word} {ia : Dword} (hK : Keeps sb s) :
    Keeps sb (s.programInt u e word ia) := hK.raise

theorem Keeps.svcInt {s : State} {u code : Nat} {ia : Dword} (hK : Keeps sb s) :
    Keeps sb (s.svcInt u code ia) := hK.raise

theorem Keeps.beforeMc {s : State} {u : Nat} {ia : Dword} (hK : Keeps sb s) : Keeps sb (s.beforeMc u ia) := hK.wcFlush.modUnit

theorem Keeps.machineInt {s back : State} {u : Nat} {m : MCheck} {ia : Dword} (hK : Keeps sb s) (hb : Keeps sb back) :
    Keeps sb (s.machineInt u m ia back) := hK.takeInt hb

theorem Keeps.act {s : State} {u : Nat} {b : Bound} (hK : Keeps sb s) : Keeps sb (s.act u b) := by
  unfold State.act
  cases b with
  | clear => exact hK
  | exit r q => exact hK.irunExit
  | machine m => exact hK.modUnit.machineInt hK
  | external x => exact hK.modUnit.takeInt hK
  | io c => exact hK.upd.takeInt hK
  | restart => exact hK.modUnit.takeInt hK
  | unstored x => exact hK.modUnit.takeInt hK

theorem Keeps.settle {s : State} {u n : Nat} (hK : Keeps sb s) : Keeps sb (s.settle u n) := by
  induction n generalizing s with
  | zero => exact hK
  | succ n ih =>
    unfold State.settle
    split
    · exact hK
    · exact ih hK.act

theorem Keeps.exigent {s : State} {u : Nat} {m : MCheck} {ia : Dword} (hK : Keeps sb s) : Keeps sb (s.exigent u m ia) :=
  Keeps.ite hK.unitFail (Keeps.ite hK.raise hK.cannotTake)

theorem Keeps.confirm {s : State} {u : Nat} {ia : Dword} (hK : Keeps sb s) : Keeps sb (s.confirm u ia) := by
  unfold State.confirm
  repeat' first
    | with_reducible assumption
    | with_reducible refine Keeps.retryOk ?_
    | with_reducible refine Keeps.ite ?_ ?_
    | split
    | dsimp only

theorem Keeps.excInt {s : State} {u : Nat} {e : Exc} {word : Word} {ia : Dword} (hK : Keeps sb s) :
    Keeps sb (s.excInt u e word ia) := by
  unfold State.excInt
  repeat' first
    | with_reducible assumption
    | with_reducible refine Keeps.programInt ?_
    | with_reducible refine Keeps.confirm ?_
    | dsimp only

theorem Keeps.consumed {s s1 : State} {u addr : Nat} {ia : Dword} (h : Keeps sb s1) : Keeps sb (s.consumed s1 u addr ia) :=
  (Keeps.setUnit h).exigent

theorem Keeps.endWith {s : State} {u : Nat} {word : Word} {ia : Dword} {ifx : Bool} {e : Ends} (hK : Keeps sb s) (he : e.keeps sb) :
    Keeps sb (s.endWith u word ia ifx e) := by
  unfold State.endWith
  refine Keeps.ite hK ?_
  split
  · extract_lets x s1
    have h1 : Keeps sb s1 := hK.fetchedBy
    clear_value s1
    split
    · exact h1.consumed
    · exact (Keeps.ite h1.setIa h1).excInt
  · extract_lets s1
    have h1 : Keeps sb s1 := hK.fetchedBy
    clear_value s1
    split
    · exact h1.consumed
    · exact h1.irunExit.confirm
  · exact hK.wsDeny.excInt
  · exact Keeps.excInt he
  · exact hK.setIa.svcInt.confirm
  · exact hK.setIa.irunExit.confirm
  · exact hK.modUnit.confirm
  · exact Keeps.consumed he
  · exact hK
  · exact hK

theorem Keeps.tagged {s : State} {u : Nat} (hK : Keeps sb s) : Keeps sb (s.tagged u) := by
  unfold State.tagged
  exact Keeps.ite (Keeps.ite (hK.draws 1).asyncDiff (hK.draws 1)) hK

theorem Keeps.injectedMismatch {s : State} {u : Nat} {rows : List Nat} {n : Nat} (hK : Keeps sb s) :
    Keeps sb (s.injectedMismatch u rows n) := by
  induction n generalizing s with
  | zero => exact hK
  | succ n ih =>
    unfold State.injectedMismatch
    refine Keeps.ite hK ?_
    extract_lets k
    split
    · exact hK
    · exact ih hK.dropInj.mismatch

theorem Keeps.regionStep {s : State} {u : Nat} {ia : Dword} (hK : Keeps sb s) : Keeps sb (s.regionStep u ia) := by
  unfold State.regionStep
  repeat' first
    | with_reducible assumption
    | with_reducible refine Keeps.modUnit ?_
    | split
    | dsimp only
    | with_reducible refine Keeps.upd ?_

theorem Keeps.fetchWordAt {s : State} {u : Nat} (hK : Keeps sb s) : KeepsE sb (s.fetchWordAt u) := by
  unfold State.fetchWordAt
  repeat' first
    | with_reducible assumption
    | with_reducible refine Keeps.readPieces ?_
    | with_reducible refine KeepsE.ok ?_
    | with_reducible refine KeepsE.error ?_
    | with_reducible exact Ends.keeps_stop
    | with_reducible exact Ends.keeps_abort
    | with_reducible refine Ends.keeps_check ?_
    | with_reducible refine Keeps.ite ?_ ?_
    | split
    | dsimp only
    | with_reducible refine Keeps.upd ?_

theorem Keeps.enter_ok {s t : State} {i : Insn} (hK : Keeps sb s) (h : s.enter i = .ok t) : Keeps sb t := by
  unfold State.enter at h
  split at h
  · cases h
  · split at h
    · cases h
    · split at h
      · cases h
      · next h1 =>
        dsimp only at h
        split at h
        · cases h
        · split at h
          · cases h
          · cases h
            exact (KeepsE.of_ok h1 hK.fetchWordAt).injectedMismatch

theorem Insn.check_keeps {i : Insn} {p : Psw} {o : Bool} {e : Ends} (h : i.check p o = some e) : e.keeps sb := by
  unfold Insn.check at h
  repeat' split at h
  all_goals first
    | cases h; exact trivial
    | cases h

theorem Keeps.enter_error {s t : State} {i : Insn} (hK : Keeps sb s) (h : s.enter i = .error t) : Keeps sb t := by
  unfold State.enter at h
  split at h
  · cases h; exact hK.settle
  · split at h
    · cases h; exact hK
    · split at h
      · next h1 => cases h; exact hK.endWith (KeepsE.of_error h1 hK.fetchWordAt)
      · next h1 =>
        dsimp only at h
        split at h
        · cases h; exact hK.injectedMismatch
        · split at h
          · next h2 => cases h; exact (KeepsE.of_ok h1 hK.fetchWordAt).injectedMismatch.endWith (Insn.check_keeps h2)
          · cases h

theorem Keeps.perform {s : State} {i : Insn} (hK : Keeps sb s) (hi : ∀ t, Keeps sb t → KeepsE sb (i.body t)) :
    Keeps sb (s.perform i) := by
  unfold State.perform
  extract_lets ia
  have hb := hi _ (hK.setIa (u := i.u) (a := ia + 4))
  split
  · next h => exact hK.endWith (KeepsE.of_error h hb)
  · next h => exact (Keeps.ite (KeepsE.of_ok h hb).regionStep (KeepsE.of_ok h hb)).confirm

theorem Keeps.insn {s : State} {i : Insn} (hK : Keeps sb s) (hi : ∀ t, Keeps sb t → KeepsE sb (i.body t)) : Keeps sb (s.insn i) := by
  unfold State.insn
  split
  · next h => exact hK.enter_error h
  · next h => exact (hK.enter_ok h).perform hi

theorem Keeps.loadAt {s : State} {u : Nat} {va : Dword} {n : Nat} {k : AccKind} (hK : Keeps sb s) :
    KeepsE1 sb (s.loadAt u va n k) := by
  unfold State.loadAt
  repeat' first
    | with_reducible assumption
    | with_reducible refine Keeps.wcFlush ?_
    | with_reducible refine Keeps.tagged ?_
    | with_reducible refine Keeps.readPieces ?_
    | with_reducible refine KeepsE1.ok ?_
    | with_reducible refine KeepsE1.error ?_
    | with_reducible exact Ends.keeps_stop
    | with_reducible exact Ends.keeps_abort
    | with_reducible refine Ends.keeps_check ?_
    | with_reducible refine Keeps.ite ?_ ?_
    | split
    | dsimp only
    | with_reducible refine Keeps.upd ?_

theorem Keeps.storeAt {s : State} {u : Nat} {va : Dword} {data : List Byte} {k : AccKind} (hK : Keeps sb s) :
    KeepsE sb (s.storeAt u va data k) := by
  unfold State.storeAt
  split
  · exact KeepsE.error Ends.keeps_stop
  · split
    · exact KeepsE.error Ends.keeps_abort
    · split
      · exact KeepsE.ok hK.wcFlush.regWriteBy
      · split
        · next x h =>
          obtain ⟨p, _, hp⟩ := List.exists_of_findSome?_eq_some h
          obtain ⟨a, _, rfl⟩ := Option.map_eq_some_iff.mp hp
          exact KeepsE.error (Ends.keeps_check hK.walked)
        · exact KeepsE.ok hK.writePieces

end Sys2Proof.Machine
end

