-- ==== Sys2Proof/Laws/KeepsInteger.lean ====
section
/-! SUPPORT. What they keep: integer instructions and branches. -/
namespace Sys2Proof.Machine
open Sys2Proof

variable {sb : State}

theorem Keeps.putAlu {s : State} {u : Nat} {ra : BitVec 5} {x : AluOut} (hK : Keeps sb s) : KeepsE sb (s.putAlu u ra x) := by
  unfold State.putAlu
  repeat' first
    | with_reducible assumption
    | with_reducible refine Keeps.setG ?_
    | with_reducible refine Keeps.setCc ?_
    | with_reducible refine KeepsE.ok ?_
    | with_reducible refine KeepsE.error ?_
    | with_reducible refine Ends.keeps_after ?_
    | with_reducible refine Keeps.ite ?_ ?_
    | split
    | dsimp only
    | with_reducible refine Keeps.upd ?_

theorem Keeps.putPair {s : State} {u : Nat} {ra : BitVec 5} {x : PairOut} (hK : Keeps sb s) : KeepsE sb (s.putPair u ra x) := by
  unfold State.putPair
  repeat' first
    | with_reducible assumption
    | with_reducible refine Keeps.setG ?_
    | with_reducible refine Keeps.setCc ?_
    | with_reducible refine KeepsE.ok ?_
    | with_reducible refine KeepsE.error ?_
    | with_reducible refine Ends.keeps_after ?_
    | with_reducible refine Keeps.ite ?_ ?_
    | split
    | dsimp only

theorem execAdd_keeps {s : State} {o : OpA} (hK : Keeps sb s) : KeepsR sb (execAdd o s) := by
  unfold execAdd insnAdd form3
  repeat' first
    | with_reducible assumption
    | with_reducible refine KeepsR.next ?_
    | with_reducible refine Keeps.insn ?_ (fun _ _ => ?_)
    | with_reducible refine Keeps.putAlu ?_

theorem execAddw_keeps {s : State} {o : OpA} (hK : Keeps sb s) : KeepsR sb (execAddw o s) := by
  unfold execAddw insnAddw form3
  repeat' first
    | with_reducible assumption
    | with_reducible refine KeepsR.next ?_
    | with_reducible refine Keeps.insn ?_ (fun _ _ => ?_)
    | with_reducible refine Keeps.putAlu ?_

theorem execAddl_keeps {s : State} {o : OpA} (hK : Keeps sb s) : KeepsR sb (execAddl o s) := by
  unfold execAddl insnAddl form3
  repeat' first
    | with_reducible assumption
    | with_reducible refine KeepsR.next ?_
    | with_reducible refine Keeps.insn ?_ (fun _ _ => ?_)
    | with_reducible refine Keeps.putAlu ?_

theorem execAddlw_keeps {s : State} {o : OpA} (hK : Keeps sb s) : KeepsR sb (execAddlw o s) := by
  unfold execAddlw insnAddlw form3
  repeat' first
    | with_reducible assumption
    | with_reducible refine KeepsR.next ?_
    | with_reducible refine Keeps.insn ?_ (fun _ _ => ?_)
    | with_reducible refine Keeps.putAlu ?_

theorem execSub_keeps {s : State} {o : OpA} (hK : Keeps sb s) : KeepsR sb (execSub o s) := by
  unfold execSub insnSub form3
  repeat' first
    | with_reducible assumption
    | with_reducible refine KeepsR.next ?_
    | with_reducible refine Keeps.insn ?_ (fun _ _ => ?_)
    | with_reducible refine Keeps.putAlu ?_

theorem execSubw_keeps {s : State} {o : OpA} (hK : Keeps sb s) : KeepsR sb (execSubw o s) := by
  unfold execSubw insnSubw form3
  repeat' first
    | with_reducible assumption
    | with_reducible refine KeepsR.next ?_
    | with_reducible refine Keeps.insn ?_ (fun _ _ => ?_)
    | with_reducible refine Keeps.putAlu ?_

theorem execSubl_keeps {s : State} {o : OpA} (hK : Keeps sb s) : KeepsR sb (execSubl o s) := by
  unfold execSubl insnSubl form3
  repeat' first
    | with_reducible assumption
    | with_reducible refine KeepsR.next ?_
    | with_reducible refine Keeps.insn ?_ (fun _ _ => ?_)
    | with_reducible refine Keeps.putAlu ?_

theorem execSublw_keeps {s : State} {o : OpA} (hK : Keeps sb s) : KeepsR sb (execSublw o s) := by
  unfold execSublw insnSublw form3
  repeat' first
    | with_reducible assumption
    | with_reducible refine KeepsR.next ?_
    | with_reducible refine Keeps.insn ?_ (fun _ _ => ?_)
    | with_reducible refine Keeps.putAlu ?_

theorem execAnd_keeps {s : State} {o : OpA} (hK : Keeps sb s) : KeepsR sb (execAnd o s) := by
  unfold execAnd insnAnd form3
  repeat' first
    | with_reducible assumption
    | with_reducible refine KeepsR.next ?_
    | with_reducible refine Keeps.insn ?_ (fun _ _ => ?_)
    | with_reducible refine Keeps.putAlu ?_

theorem execOr_keeps {s : State} {o : OpA} (hK : Keeps sb s) : KeepsR sb (execOr o s) := by
  unfold execOr insnOr form3
  repeat' first
    | with_reducible assumption
    | with_reducible refine KeepsR.next ?_
    | with_reducible refine Keeps.insn ?_ (fun _ _ => ?_)
    | with_reducible refine Keeps.putAlu ?_

theorem execXor_keeps {s : State} {o : OpA} (hK : Keeps sb s) : KeepsR sb (execXor o s) := by
  unfold execXor insnXor form3
  repeat' first
    | with_reducible assumption
    | with_reducible refine KeepsR.next ?_
    | with_reducible refine Keeps.insn ?_ (fun _ _ => ?_)
    | with_reducible refine Keeps.putAlu ?_

theorem execNor_keeps {s : State} {o : OpA} (hK : Keeps sb s) : KeepsR sb (execNor o s) := by
  unfold execNor insnNor form3
  repeat' first
    | with_reducible assumption
    | with_reducible refine KeepsR.next ?_
    | with_reducible refine Keeps.insn ?_ (fun _ _ => ?_)
    | with_reducible refine Keeps.putAlu ?_

theorem execAndc_keeps {s : State} {o : OpA} (hK : Keeps sb s) : KeepsR sb (execAndc o s) := by
  unfold execAndc insnAndc form3
  repeat' first
    | with_reducible assumption
    | with_reducible refine KeepsR.next ?_
    | with_reducible refine Keeps.insn ?_ (fun _ _ => ?_)
    | with_reducible refine Keeps.putAlu ?_

theorem execNeg_keeps {s : State} {o : OpA} (hK : Keeps sb s) : KeepsR sb (execNeg o s) := by
  unfold execNeg insnNeg form2
  repeat' first
    | with_reducible assumption
    | with_reducible refine KeepsR.next ?_
    | with_reducible refine Keeps.insn ?_ (fun _ _ => ?_)
    | with_reducible refine Keeps.putAlu ?_

theorem execNegw_keeps {s : State} {o : OpA} (hK : Keeps sb s) : KeepsR sb (execNegw o s) := by
  unfold execNegw insnNegw form2
  repeat' first
    | with_reducible assumption
    | with_reducible refine KeepsR.next ?_
    | with_reducible refine Keeps.insn ?_ (fun _ _ => ?_)
    | with_reducible refine Keeps.putAlu ?_

theorem execCmp_keeps {s : State} {o : OpA} (hK : Keeps sb s) : KeepsR sb (execCmp o s) := by
  unfold execCmp insnCmp formCmp
  repeat' first
    | with_reducible assumption
    | with_reducible refine KeepsR.next ?_
    | with_reducible refine Keeps.insn ?_ (fun _ _ => ?_)
    | with_reducible refine Keeps.setCc ?_
    | with_reducible refine KeepsE.ok ?_

theorem execCmpw_keeps {s : State} {o : OpA} (hK : Keeps sb s) : KeepsR sb (execCmpw o s) := by
  unfold execCmpw insnCmpw formCmp
  repeat' first
    | with_reducible assumption
    | with_reducible refine KeepsR.next ?_
    | with_reducible refine Keeps.insn ?_ (fun _ _ => ?_)
    | with_reducible refine Keeps.setCc ?_
    | with_reducible refine KeepsE.ok ?_

theorem execCmpl_keeps {s : State} {o : OpA} (hK : Keeps sb s) : KeepsR sb (execCmpl o s) := by
  unfold execCmpl insnCmpl formCmp
  repeat' first
    | with_reducible assumption
    | with_reducible refine KeepsR.next ?_
    | with_reducible refine Keeps.insn ?_ (fun _ _ => ?_)
    | with_reducible refine Keeps.setCc ?_
    | with_reducible refine KeepsE.ok ?_

theorem execCmplw_keeps {s : State} {o : OpA} (hK : Keeps sb s) : KeepsR sb (execCmplw o s) := by
  unfold execCmplw insnCmplw formCmp
  repeat' first
    | with_reducible assumption
    | with_reducible refine KeepsR.next ?_
    | with_reducible refine Keeps.insn ?_ (fun _ _ => ?_)
    | with_reducible refine Keeps.setCc ?_
    | with_reducible refine KeepsE.ok ?_

theorem execAddi_keeps {s : State} {o : OpI} (hK : Keeps sb s) : KeepsR sb (execAddi o s) := by
  unfold execAddi insnAddi formImm
  repeat' first
    | with_reducible assumption
    | with_reducible refine KeepsR.next ?_
    | with_reducible refine Keeps.insn ?_ (fun _ _ => ?_)
    | with_reducible refine Keeps.putAlu ?_

theorem execAddli_keeps {s : State} {o : OpI} (hK : Keeps sb s) : KeepsR sb (execAddli o s) := by
  unfold execAddli insnAddli formImm
  repeat' first
    | with_reducible assumption
    | with_reducible refine KeepsR.next ?_
    | with_reducible refine Keeps.insn ?_ (fun _ _ => ?_)
    | with_reducible refine Keeps.putAlu ?_

theorem execAddwi_keeps {s : State} {o : OpI} (hK : Keeps sb s) : KeepsR sb (execAddwi o s) := by
  unfold execAddwi insnAddwi formImm
  repeat' first
    | with_reducible assumption
    | with_reducible refine KeepsR.next ?_
    | with_reducible refine Keeps.insn ?_ (fun _ _ => ?_)
    | with_reducible refine Keeps.putAlu ?_

theorem execAndi_keeps {s : State} {o : OpI} (hK : Keeps sb s) : KeepsR sb (execAndi o s) := by
  unfold execAndi insnAndi formImm
  repeat' first
    | with_reducible assumption
    | with_reducible refine KeepsR.next ?_
    | with_reducible refine Keeps.insn ?_ (fun _ _ => ?_)
    | with_reducible refine Keeps.putAlu ?_

theorem execOri_keeps {s : State} {o : OpI} (hK : Keeps sb s) : KeepsR sb (execOri o s) := by
  unfold execOri insnOri formImm
  repeat' first
    | with_reducible assumption
    | with_reducible refine KeepsR.next ?_
    | with_reducible refine Keeps.insn ?_ (fun _ _ => ?_)
    | with_reducible refine Keeps.putAlu ?_

theorem execXori_keeps {s : State} {o : OpI} (hK : Keeps sb s) : KeepsR sb (execXori o s) := by
  unfold execXori insnXori formImm
  repeat' first
    | with_reducible assumption
    | with_reducible refine KeepsR.next ?_
    | with_reducible refine Keeps.insn ?_ (fun _ _ => ?_)
    | with_reducible refine Keeps.putAlu ?_

theorem execCmpi_keeps {s : State} {o : OpI} (hK : Keeps sb s) : KeepsR sb (execCmpi o s) := by
  unfold execCmpi insnCmpi formCmpImm
  repeat' first
    | with_reducible assumption
    | with_reducible refine KeepsR.next ?_
    | with_reducible refine Keeps.insn ?_ (fun _ _ => ?_)
    | with_reducible refine Keeps.setCc ?_
    | with_reducible refine KeepsE.ok ?_

theorem execCmpli_keeps {s : State} {o : OpI} (hK : Keeps sb s) : KeepsR sb (execCmpli o s) := by
  unfold execCmpli insnCmpli formCmpImm
  repeat' first
    | with_reducible assumption
    | with_reducible refine KeepsR.next ?_
    | with_reducible refine Keeps.insn ?_ (fun _ _ => ?_)
    | with_reducible refine Keeps.setCc ?_
    | with_reducible refine KeepsE.ok ?_

theorem execLi_keeps {s : State} {o : OpI} (hK : Keeps sb s) : KeepsR sb (execLi o s) := by
  unfold execLi insnLi formImm Insn.body
  repeat' first
    | with_reducible assumption
    | with_reducible refine KeepsR.next ?_
    | with_reducible refine Keeps.insn ?_ (fun _ _ => ?_)
    | with_reducible refine Keeps.putAlu ?_

theorem execLis_keeps {s : State} {o : OpI} (hK : Keeps sb s) : KeepsR sb (execLis o s) := by
  unfold execLis insnLis formImm
  repeat' first
    | with_reducible assumption
    | with_reducible refine KeepsR.next ?_
    | with_reducible refine Keeps.insn ?_ (fun _ _ => ?_)
    | with_reducible refine Keeps.putAlu ?_

theorem execSxb_keeps {s : State} {o : OpA} (hK : Keeps sb s) : KeepsR sb (execSxb o s) := by
  unfold execSxb insnSxb form2
  repeat' first
    | with_reducible assumption
    | with_reducible refine KeepsR.next ?_
    | with_reducible refine Keeps.insn ?_ (fun _ _ => ?_)
    | with_reducible refine Keeps.putAlu ?_

theorem execSxh_keeps {s : State} {o : OpA} (hK : Keeps sb s) : KeepsR sb (execSxh o s) := by
  unfold execSxh insnSxh form2
  repeat' first
    | with_reducible assumption
    | with_reducible refine KeepsR.next ?_
    | with_reducible refine Keeps.insn ?_ (fun _ _ => ?_)
    | with_reducible refine Keeps.putAlu ?_

theorem execSxw_keeps {s : State} {o : OpA} (hK : Keeps sb s) : KeepsR sb (execSxw o s) := by
  unfold execSxw insnSxw form2
  repeat' first
    | with_reducible assumption
    | with_reducible refine KeepsR.next ?_
    | with_reducible refine Keeps.insn ?_ (fun _ _ => ?_)
    | with_reducible refine Keeps.putAlu ?_

theorem execZxb_keeps {s : State} {o : OpA} (hK : Keeps sb s) : KeepsR sb (execZxb o s) := by
  unfold execZxb insnZxb form2
  repeat' first
    | with_reducible assumption
    | with_reducible refine KeepsR.next ?_
    | with_reducible refine Keeps.insn ?_ (fun _ _ => ?_)
    | with_reducible refine Keeps.putAlu ?_

theorem execZxh_keeps {s : State} {o : OpA} (hK : Keeps sb s) : KeepsR sb (execZxh o s) := by
  unfold execZxh insnZxh form2
  repeat' first
    | with_reducible assumption
    | with_reducible refine KeepsR.next ?_
    | with_reducible refine Keeps.insn ?_ (fun _ _ => ?_)
    | with_reducible refine Keeps.putAlu ?_

theorem execZxw_keeps {s : State} {o : OpA} (hK : Keeps sb s) : KeepsR sb (execZxw o s) := by
  unfold execZxw insnZxw form2
  repeat' first
    | with_reducible assumption
    | with_reducible refine KeepsR.next ?_
    | with_reducible refine Keeps.insn ?_ (fun _ _ => ?_)
    | with_reducible refine Keeps.putAlu ?_

theorem execClz_keeps {s : State} {o : OpA} (hK : Keeps sb s) : KeepsR sb (execClz o s) := by
  unfold execClz insnClz form2
  repeat' first
    | with_reducible assumption
    | with_reducible refine KeepsR.next ?_
    | with_reducible refine Keeps.insn ?_ (fun _ _ => ?_)
    | with_reducible refine Keeps.putAlu ?_

theorem execCtz_keeps {s : State} {o : OpA} (hK : Keeps sb s) : KeepsR sb (execCtz o s) := by
  unfold execCtz insnCtz form2
  repeat' first
    | with_reducible assumption
    | with_reducible refine KeepsR.next ?_
    | with_reducible refine Keeps.insn ?_ (fun _ _ => ?_)
    | with_reducible refine Keeps.putAlu ?_

theorem execPopc_keeps {s : State} {o : OpA} (hK : Keeps sb s) : KeepsR sb (execPopc o s) := by
  unfold execPopc insnPopc form2
  repeat' first
    | with_reducible assumption
    | with_reducible refine KeepsR.next ?_
    | with_reducible refine Keeps.insn ?_ (fun _ _ => ?_)
    | with_reducible refine Keeps.putAlu ?_

theorem execSll_keeps {s : State} {o : OpA} (hK : Keeps sb s) : KeepsR sb (execSll o s) := by
  unfold execSll insnSll formSh form3
  repeat' first
    | with_reducible assumption
    | with_reducible refine KeepsR.next ?_
    | with_reducible refine Keeps.insn ?_ (fun _ _ => ?_)
    | with_reducible refine Keeps.putAlu ?_

theorem execSllw_keeps {s : State} {o : OpA} (hK : Keeps sb s) : KeepsR sb (execSllw o s) := by
  unfold execSllw insnSllw formSh form3
  repeat' first
    | with_reducible assumption
    | with_reducible refine KeepsR.next ?_
    | with_reducible refine Keeps.insn ?_ (fun _ _ => ?_)
    | with_reducible refine Keeps.putAlu ?_

theorem execSlli_keeps {s : State} {o : OpSh} (hK : Keeps sb s) : KeepsR sb (execSlli o s) := by
  unfold execSlli insnSlli formShImm
  repeat' first
    | with_reducible assumption
    | with_reducible refine KeepsR.next ?_
    | with_reducible refine Keeps.insn ?_ (fun _ _ => ?_)
    | with_reducible refine Keeps.putAlu ?_

theorem execSllwi_keeps {s : State} {o : OpSh} (hK : Keeps sb s) : KeepsR sb (execSllwi o s) := by
  unfold execSllwi insnSllwi formShImm
  repeat' first
    | with_reducible assumption
    | with_reducible refine KeepsR.next ?_
    | with_reducible refine Keeps.insn ?_ (fun _ _ => ?_)
    | with_reducible refine Keeps.putAlu ?_

theorem execSrl_keeps {s : State} {o : OpA} (hK : Keeps sb s) : KeepsR sb (execSrl o s) := by
  unfold execSrl insnSrl formSh form3
  repeat' first
    | with_reducible assumption
    | with_reducible refine KeepsR.next ?_
    | with_reducible refine Keeps.insn ?_ (fun _ _ => ?_)
    | with_reducible refine Keeps.putAlu ?_

theorem execSrlw_keeps {s : State} {o : OpA} (hK : Keeps sb s) : KeepsR sb (execSrlw o s) := by
  unfold execSrlw insnSrlw formSh form3
  repeat' first
    | with_reducible assumption
    | with_reducible refine KeepsR.next ?_
    | with_reducible refine Keeps.insn ?_ (fun _ _ => ?_)
    | with_reducible refine Keeps.putAlu ?_

theorem execSrli_keeps {s : State} {o : OpSh} (hK : Keeps sb s) : KeepsR sb (execSrli o s) := by
  unfold execSrli insnSrli formShImm
  repeat' first
    | with_reducible assumption
    | with_reducible refine KeepsR.next ?_
    | with_reducible refine Keeps.insn ?_ (fun _ _ => ?_)
    | with_reducible refine Keeps.putAlu ?_

theorem execSrlwi_keeps {s : State} {o : OpSh} (hK : Keeps sb s) : KeepsR sb (execSrlwi o s) := by
  unfold execSrlwi insnSrlwi formShImm
  repeat' first
    | with_reducible assumption
    | with_reducible refine KeepsR.next ?_
    | with_reducible refine Keeps.insn ?_ (fun _ _ => ?_)
    | with_reducible refine Keeps.putAlu ?_

theorem execSra_keeps {s : State} {o : OpA} (hK : Keeps sb s) : KeepsR sb (execSra o s) := by
  unfold execSra insnSra formSh form3
  repeat' first
    | with_reducible assumption
    | with_reducible refine KeepsR.next ?_
    | with_reducible refine Keeps.insn ?_ (fun _ _ => ?_)
    | with_reducible refine Keeps.putAlu ?_

theorem execSraw_keeps {s : State} {o : OpA} (hK : Keeps sb s) : KeepsR sb (execSraw o s) := by
  unfold execSraw insnSraw formSh form3
  repeat' first
    | with_reducible assumption
    | with_reducible refine KeepsR.next ?_
    | with_reducible refine Keeps.insn ?_ (fun _ _ => ?_)
    | with_reducible refine Keeps.putAlu ?_

theorem execSrai_keeps {s : State} {o : OpSh} (hK : Keeps sb s) : KeepsR sb (execSrai o s) := by
  unfold execSrai insnSrai formShImm
  repeat' first
    | with_reducible assumption
    | with_reducible refine KeepsR.next ?_
    | with_reducible refine Keeps.insn ?_ (fun _ _ => ?_)
    | with_reducible refine Keeps.putAlu ?_

theorem execSrawi_keeps {s : State} {o : OpSh} (hK : Keeps sb s) : KeepsR sb (execSrawi o s) := by
  unfold execSrawi insnSrawi formShImm
  repeat' first
    | with_reducible assumption
    | with_reducible refine KeepsR.next ?_
    | with_reducible refine Keeps.insn ?_ (fun _ _ => ?_)
    | with_reducible refine Keeps.putAlu ?_

theorem execRol_keeps {s : State} {o : OpA} (hK : Keeps sb s) : KeepsR sb (execRol o s) := by
  unfold execRol insnRol formSh form3
  repeat' first
    | with_reducible assumption
    | with_reducible refine KeepsR.next ?_
    | with_reducible refine Keeps.insn ?_ (fun _ _ => ?_)
    | with_reducible refine Keeps.putAlu ?_

theorem execRolw_keeps {s : State} {o : OpA} (hK : Keeps sb s) : KeepsR sb (execRolw o s) := by
  unfold execRolw insnRolw formSh form3
  repeat' first
    | with_reducible assumption
    | with_reducible refine KeepsR.next ?_
    | with_reducible refine Keeps.insn ?_ (fun _ _ => ?_)
    | with_reducible refine Keeps.putAlu ?_

theorem execRoli_keeps {s : State} {o : OpSh} (hK : Keeps sb s) : KeepsR sb (execRoli o s) := by
  unfold execRoli insnRoli formShImm
  repeat' first
    | with_reducible assumption
    | with_reducible refine KeepsR.next ?_
    | with_reducible refine Keeps.insn ?_ (fun _ _ => ?_)
    | with_reducible refine Keeps.putAlu ?_

theorem execRolwi_keeps {s : State} {o : OpSh} (hK : Keeps sb s) : KeepsR sb (execRolwi o s) := by
  unfold execRolwi insnRolwi formShImm
  repeat' first
    | with_reducible assumption
    | with_reducible refine KeepsR.next ?_
    | with_reducible refine Keeps.insn ?_ (fun _ _ => ?_)
    | with_reducible refine Keeps.putAlu ?_

theorem execRor_keeps {s : State} {o : OpA} (hK : Keeps sb s) : KeepsR sb (execRor o s) := by
  unfold execRor insnRor formSh form3
  repeat' first
    | with_reducible assumption
    | with_reducible refine KeepsR.next ?_
    | with_reducible refine Keeps.insn ?_ (fun _ _ => ?_)
    | with_reducible refine Keeps.putAlu ?_

theorem execRorw_keeps {s : State} {o : OpA} (hK : Keeps sb s) : KeepsR sb (execRorw o s) := by
  unfold execRorw insnRorw formSh form3
  repeat' first
    | with_reducible assumption
    | with_reducible refine KeepsR.next ?_
    | with_reducible refine Keeps.insn ?_ (fun _ _ => ?_)
    | with_reducible refine Keeps.putAlu ?_

theorem execRori_keeps {s : State} {o : OpSh} (hK : Keeps sb s) : KeepsR sb (execRori o s) := by
  unfold execRori insnRori formShImm
  repeat' first
    | with_reducible assumption
    | with_reducible refine KeepsR.next ?_
    | with_reducible refine Keeps.insn ?_ (fun _ _ => ?_)
    | with_reducible refine Keeps.putAlu ?_

theorem execRorwi_keeps {s : State} {o : OpSh} (hK : Keeps sb s) : KeepsR sb (execRorwi o s) := by
  unfold execRorwi insnRorwi formShImm
  repeat' first
    | with_reducible assumption
    | with_reducible refine KeepsR.next ?_
    | with_reducible refine Keeps.insn ?_ (fun _ _ => ?_)
    | with_reducible refine Keeps.putAlu ?_

theorem execMul_keeps {s : State} {o : OpA} (hK : Keeps sb s) : KeepsR sb (execMul o s) := by
  unfold execMul insnMul form3
  repeat' first
    | with_reducible assumption
    | with_reducible refine KeepsR.next ?_
    | with_reducible refine Keeps.insn ?_ (fun _ _ => ?_)
    | with_reducible refine Keeps.putAlu ?_

theorem execMulw_keeps {s : State} {o : OpA} (hK : Keeps sb s) : KeepsR sb (execMulw o s) := by
  unfold execMulw insnMulw form3
  repeat' first
    | with_reducible assumption
    | with_reducible refine KeepsR.next ?_
    | with_reducible refine Keeps.insn ?_ (fun _ _ => ?_)
    | with_reducible refine Keeps.putAlu ?_

theorem execMuls_keeps {s : State} {o : OpA} (hK : Keeps sb s) : KeepsR sb (execMuls o s) := by
  unfold execMuls insnMuls formPair
  repeat' first
    | with_reducible assumption
    | with_reducible refine KeepsR.next ?_
    | with_reducible refine Keeps.insn ?_ (fun _ _ => ?_)
    | with_reducible refine Keeps.putPair ?_

theorem execMulu_keeps {s : State} {o : OpA} (hK : Keeps sb s) : KeepsR sb (execMulu o s) := by
  unfold execMulu insnMulu formPair
  repeat' first
    | with_reducible assumption
    | with_reducible refine KeepsR.next ?_
    | with_reducible refine Keeps.insn ?_ (fun _ _ => ?_)
    | with_reducible refine Keeps.putPair ?_

theorem execDiv_keeps {s : State} {o : OpA} (hK : Keeps sb s) : KeepsR sb (execDiv o s) := by
  unfold execDiv insnDiv formPair
  repeat' first
    | with_reducible assumption
    | with_reducible refine KeepsR.next ?_
    | with_reducible refine Keeps.insn ?_ (fun _ _ => ?_)
    | with_reducible refine Keeps.putPair ?_
    | with_reducible refine KeepsE.error ?_
    | with_reducible exact Ends.keeps_stop
    | split
    | dsimp only

theorem execDivl_keeps {s : State} {o : OpA} (hK : Keeps sb s) : KeepsR sb (execDivl o s) := by
  unfold execDivl insnDivl formPair
  repeat' first
    | with_reducible assumption
    | with_reducible refine KeepsR.next ?_
    | with_reducible refine Keeps.insn ?_ (fun _ _ => ?_)
    | with_reducible refine Keeps.putPair ?_
    | with_reducible refine KeepsE.error ?_
    | with_reducible exact Ends.keeps_stop
    | split
    | dsimp only

theorem execDivw_keeps {s : State} {o : OpA} (hK : Keeps sb s) : KeepsR sb (execDivw o s) := by
  unfold execDivw insnDivw formPair
  repeat' first
    | with_reducible assumption
    | with_reducible refine KeepsR.next ?_
    | with_reducible refine Keeps.insn ?_ (fun _ _ => ?_)
    | with_reducible refine Keeps.putPair ?_
    | with_reducible refine KeepsE.error ?_
    | with_reducible exact Ends.keeps_stop
    | split
    | dsimp only

theorem execDivlw_keeps {s : State} {o : OpA} (hK : Keeps sb s) : KeepsR sb (execDivlw o s) := by
  unfold execDivlw insnDivlw formPair
  repeat' first
    | with_reducible assumption
    | with_reducible refine KeepsR.next ?_
    | with_reducible refine Keeps.insn ?_ (fun _ _ => ?_)
    | with_reducible refine Keeps.putPair ?_
    | with_reducible refine KeepsE.error ?_
    | with_reducible exact Ends.keeps_stop
    | split
    | dsimp only

theorem execCrcstep_keeps {s : State} {o : OpCrc} (hK : Keeps sb s) : KeepsR sb (execCrcstep o s) := by
  unfold execCrcstep insnCrcstep
  repeat' first
    | with_reducible assumption
    | with_reducible refine KeepsR.next ?_
    | with_reducible refine Keeps.insn ?_ (fun _ _ => ?_)
    | with_reducible refine Keeps.putAlu ?_

theorem execParity_keeps {s : State} {o : OpMode} (hK : Keeps sb s) : KeepsR sb (execParity o s) := by
  unfold execParity insnParity formMode
  repeat' first
    | with_reducible assumption
    | with_reducible refine KeepsR.next ?_
    | with_reducible refine Keeps.insn ?_ (fun _ _ => ?_)
    | with_reducible refine Keeps.putAlu ?_

theorem execBrev_keeps {s : State} {o : OpMode} (hK : Keeps sb s) : KeepsR sb (execBrev o s) := by
  unfold execBrev insnBrev formMode
  repeat' first
    | with_reducible assumption
    | with_reducible refine KeepsR.next ?_
    | with_reducible refine Keeps.insn ?_ (fun _ _ => ?_)
    | with_reducible refine Keeps.putAlu ?_

theorem execBndchk_keeps {s : State} {o : OpBnd} (hK : Keeps sb s) : KeepsR sb (execBndchk o s) := by
  unfold execBndchk insnBndchk
  repeat' first
    | with_reducible assumption
    | with_reducible refine KeepsR.next ?_
    | with_reducible refine Keeps.insn ?_ (fun _ _ => ?_)
    | with_reducible refine KeepsE.ok ?_
    | with_reducible refine KeepsE.error ?_
    | with_reducible exact Ends.keeps_stop
    | split
    | dsimp only

theorem Keeps.call {s : State} {u : Nat} {to_ : Dword} (hK : Keeps sb s) : KeepsE sb (s.call u to_) := by
  unfold State.call
  repeat' first
    | with_reducible assumption
    | with_reducible refine Keeps.setUnit ?_
    | with_reducible refine KeepsE.ok ?_
    | with_reducible refine KeepsE.error ?_
    | with_reducible exact Ends.keeps_stop
    | with_reducible refine Keeps.ite ?_ ?_
    | split
    | dsimp only
    | with_reducible refine Keeps.upd ?_

theorem execBrc_keeps {s : State} {o : OpB} (hK : Keeps sb s) : KeepsR sb (execBrc o s) := by
  unfold execBrc insnBrc
  repeat' first
    | with_reducible assumption
    | with_reducible refine KeepsR.next ?_
    | with_reducible refine Keeps.insn ?_ (fun _ _ => ?_)
    | with_reducible refine Keeps.setIa ?_
    | with_reducible refine Keeps.ite ?_ ?_
    | with_reducible refine KeepsE.ok ?_

theorem execBr_keeps {s : State} {o : OpA} (hK : Keeps sb s) : KeepsR sb (execBr o s) := by
  unfold execBr insnBr
  repeat' first
    | with_reducible assumption
    | with_reducible refine KeepsR.next ?_
    | with_reducible refine Keeps.insn ?_ (fun _ _ => ?_)
    | with_reducible refine Keeps.setIa ?_
    | with_reducible refine KeepsE.ok ?_

theorem execCbeq_keeps {s : State} {o : OpI} (hK : Keeps sb s) : KeepsR sb (execCbeq o s) := by
  unfold execCbeq insnCbeq formCb
  repeat' first
    | with_reducible assumption
    | with_reducible refine KeepsR.next ?_
    | with_reducible refine Keeps.insn ?_ (fun _ _ => ?_)
    | with_reducible refine Keeps.setIa ?_
    | with_reducible refine Keeps.ite ?_ ?_
    | with_reducible refine KeepsE.ok ?_

theorem execCbne_keeps {s : State} {o : OpI} (hK : Keeps sb s) : KeepsR sb (execCbne o s) := by
  unfold execCbne insnCbne formCb
  repeat' first
    | with_reducible assumption
    | with_reducible refine KeepsR.next ?_
    | with_reducible refine Keeps.insn ?_ (fun _ _ => ?_)
    | with_reducible refine Keeps.setIa ?_
    | with_reducible refine Keeps.ite ?_ ?_
    | with_reducible refine KeepsE.ok ?_

theorem execCblt_keeps {s : State} {o : OpI} (hK : Keeps sb s) : KeepsR sb (execCblt o s) := by
  unfold execCblt insnCblt formCb
  repeat' first
    | with_reducible assumption
    | with_reducible refine KeepsR.next ?_
    | with_reducible refine Keeps.insn ?_ (fun _ _ => ?_)
    | with_reducible refine Keeps.setIa ?_
    | with_reducible refine Keeps.ite ?_ ?_
    | with_reducible refine KeepsE.ok ?_

theorem execCbge_keeps {s : State} {o : OpI} (hK : Keeps sb s) : KeepsR sb (execCbge o s) := by
  unfold execCbge insnCbge formCb
  repeat' first
    | with_reducible assumption
    | with_reducible refine KeepsR.next ?_
    | with_reducible refine Keeps.insn ?_ (fun _ _ => ?_)
    | with_reducible refine Keeps.setIa ?_
    | with_reducible refine Keeps.ite ?_ ?_
    | with_reducible refine KeepsE.ok ?_

theorem execCbltl_keeps {s : State} {o : OpI} (hK : Keeps sb s) : KeepsR sb (execCbltl o s) := by
  unfold execCbltl insnCbltl formCb
  repeat' first
    | with_reducible assumption
    | with_reducible refine KeepsR.next ?_
    | with_reducible refine Keeps.insn ?_ (fun _ _ => ?_)
    | with_reducible refine Keeps.setIa ?_
    | with_reducible refine Keeps.ite ?_ ?_
    | with_reducible refine KeepsE.ok ?_

theorem execCbgel_keeps {s : State} {o : OpI} (hK : Keeps sb s) : KeepsR sb (execCbgel o s) := by
  unfold execCbgel insnCbgel formCb
  repeat' first
    | with_reducible assumption
    | with_reducible refine KeepsR.next ?_
    | with_reducible refine Keeps.insn ?_ (fun _ _ => ?_)
    | with_reducible refine Keeps.setIa ?_
    | with_reducible refine Keeps.ite ?_ ?_
    | with_reducible refine KeepsE.ok ?_

theorem execCallr_keeps {s : State} {o : OpB} (hK : Keeps sb s) : KeepsR sb (execCallr o s) := by
  unfold execCallr insnCallr
  repeat' first
    | with_reducible assumption
    | with_reducible refine KeepsR.next ?_
    | with_reducible refine Keeps.insn ?_ (fun _ _ => ?_)
    | with_reducible refine Keeps.call ?_
    | with_reducible refine KeepsE.ok ?_
    | split
    | dsimp only

theorem execCallg_keeps {s : State} {o : OpA} (hK : Keeps sb s) : KeepsR sb (execCallg o s) := by
  unfold execCallg insnCallg
  repeat' first
    | with_reducible assumption
    | with_reducible refine KeepsR.next ?_
    | with_reducible refine Keeps.insn ?_ (fun _ _ => ?_)
    | with_reducible refine Keeps.call ?_

theorem execRet_keeps {s : State} {o : OpA} (hK : Keeps sb s) : KeepsR sb (execRet o s) := by
  unfold execRet insnRet
  repeat' first
    | with_reducible assumption
    | with_reducible refine KeepsR.next ?_
    | with_reducible refine Keeps.insn ?_ (fun _ _ => ?_)
    | with_reducible refine Keeps.setUnit ?_
    | with_reducible refine KeepsE.ok ?_
    | with_reducible refine KeepsE.error ?_
    | with_reducible exact Ends.keeps_stop
    | split
    | dsimp only

theorem Keeps.spillTo {s : State} {u : Nat} {l : List (Dword × Dword)} (hK : Keeps sb s) : KeepsE sb (s.spillTo u l) := by
  induction l generalizing s with
  | nil => exact KeepsE.ok hK
  | cons x l ih =>
    obtain ⟨a, v⟩ := x
    unfold State.spillTo
    split
    · next h => exact KeepsE.error (KeepsE.of_error h hK.storeAt)
    · next h => exact ih (KeepsE.of_ok h hK.storeAt)

theorem execRsspill_keeps {s : State} {o : OpA} (hK : Keeps sb s) : KeepsR sb (execRsspill o s) := by
  unfold execRsspill insnRsspill
  repeat' first
    | with_reducible assumption
    | with_reducible refine KeepsR.next ?_
    | with_reducible refine Keeps.insn ?_ (fun _ _ => ?_)
    | with_reducible refine Keeps.spillTo ?_
    | with_reducible refine Keeps.setG ?_
    | with_reducible refine Keeps.modUnit ?_
    | with_reducible refine KeepsE.ok ?_
    | with_reducible refine KeepsE.error ?_
    | with_reducible exact Ends.keeps_stop
    | with_reducible refine KeepsE.of_ok (by assumption) ?_
    | with_reducible refine KeepsE.of_error (by assumption) ?_
    | split
    | dsimp only

theorem Keeps.fillFrom {s : State} {u : Nat} {l : List Dword} (hK : Keeps sb s) : KeepsE1 sb (s.fillFrom u l) := by
  induction l generalizing s with
  | nil => exact KeepsE1.ok hK
  | cons a l ih =>
    unfold State.fillFrom
    split
    · next h => exact KeepsE1.error (KeepsE1.of_error h hK.loadAt)
    · next h =>
      have h1 := ih (KeepsE1.of_ok h hK.loadAt)
      split
      · next h2 => exact KeepsE1.error (KeepsE1.of_error h2 h1)
      · next h2 => exact KeepsE1.ok (KeepsE1.of_ok h2 h1)

theorem execRsfill_keeps {s : State} {o : OpA} (hK : Keeps sb s) : KeepsR sb (execRsfill o s) := by
  unfold execRsfill insnRsfill
  repeat' first
    | with_reducible assumption
    | with_reducible refine KeepsR.next ?_
    | with_reducible refine Keeps.insn ?_ (fun _ _ => ?_)
    | with_reducible refine Keeps.fillFrom ?_
    | with_reducible refine Keeps.setG ?_
    | with_reducible refine Keeps.modUnit ?_
    | with_reducible refine KeepsE.ok ?_
    | with_reducible refine KeepsE.error ?_
    | with_reducible exact Ends.keeps_stop
    | with_reducible refine KeepsE1.of_ok (by assumption) ?_
    | with_reducible refine KeepsE1.of_error (by assumption) ?_
    | split
    | dsimp only

end Sys2Proof.Machine
end

