-- ==== Sys2Proof/Laws/KeepsMemory.lean ====
section
/-! SUPPORT. What they keep: loads, stores, atomics, system, transactions and maintenance. -/
namespace Sys2Proof.Machine
open Sys2Proof

variable {sb : State}

theorem execLb_keeps {s : State} {o : OpI} (hK : Keeps sb s) : KeepsR sb (execLb o s) := by
  unfold execLb insnLb formLoad
  repeat' first
    | with_reducible assumption
    | with_reducible refine KeepsR.next ?_
    | with_reducible refine Keeps.insn ?_ (fun _ _ => ?_)
    | with_reducible refine Keeps.loadAt ?_
    | with_reducible refine Keeps.setG ?_
    | with_reducible refine KeepsE.ok ?_
    | with_reducible refine KeepsE.error ?_
    | with_reducible refine KeepsE1.of_ok (by assumption) ?_
    | with_reducible refine KeepsE1.of_error (by assumption) ?_
    | split
    | dsimp only

theorem execLbu_keeps {s : State} {o : OpI} (hK : Keeps sb s) : KeepsR sb (execLbu o s) := by
  unfold execLbu insnLbu formLoad
  repeat' first
    | with_reducible assumption
    | with_reducible refine KeepsR.next ?_
    | with_reducible refine Keeps.insn ?_ (fun _ _ => ?_)
    | with_reducible refine Keeps.loadAt ?_
    | with_reducible refine Keeps.setG ?_
    | with_reducible refine KeepsE.ok ?_
    | with_reducible refine KeepsE.error ?_
    | with_reducible refine KeepsE1.of_ok (by assumption) ?_
    | with_reducible refine KeepsE1.of_error (by assumption) ?_
    | split
    | dsimp only

theorem execLh_keeps {s : State} {o : OpI} (hK : Keeps sb s) : KeepsR sb (execLh o s) := by
  unfold execLh insnLh formLoad
  repeat' first
    | with_reducible assumption
    | with_reducible refine KeepsR.next ?_
    | with_reducible refine Keeps.insn ?_ (fun _ _ => ?_)
    | with_reducible refine Keeps.loadAt ?_
    | with_reducible refine Keeps.setG ?_
    | with_reducible refine KeepsE.ok ?_
    | with_reducible refine KeepsE.error ?_
    | with_reducible refine KeepsE1.of_ok (by assumption) ?_
    | with_reducible refine KeepsE1.of_error (by assumption) ?_
    | split
    | dsimp only

theorem execLhu_keeps {s : State} {o : OpI} (hK : Keeps sb s) : KeepsR sb (execLhu o s) := by
  unfold execLhu insnLhu formLoad
  repeat' first
    | with_reducible assumption
    | with_reducible refine KeepsR.next ?_
    | with_reducible refine Keeps.insn ?_ (fun _ _ => ?_)
    | with_reducible refine Keeps.loadAt ?_
    | with_reducible refine Keeps.setG ?_
    | with_reducible refine KeepsE.ok ?_
    | with_reducible refine KeepsE.error ?_
    | with_reducible refine KeepsE1.of_ok (by assumption) ?_
    | with_reducible refine KeepsE1.of_error (by assumption) ?_
    | split
    | dsimp only

theorem execLw_keeps {s : State} {o : OpI} (hK : Keeps sb s) : KeepsR sb (execLw o s) := by
  unfold execLw insnLw formLoad
  repeat' first
    | with_reducible assumption
    | with_reducible refine KeepsR.next ?_
    | with_reducible refine Keeps.insn ?_ (fun _ _ => ?_)
    | with_reducible refine Keeps.loadAt ?_
    | with_reducible refine Keeps.setG ?_
    | with_reducible refine KeepsE.ok ?_
    | with_reducible refine KeepsE.error ?_
    | with_reducible refine KeepsE1.of_ok (by assumption) ?_
    | with_reducible refine KeepsE1.of_error (by assumption) ?_
    | split
    | dsimp only

theorem execLwu_keeps {s : State} {o : OpI} (hK : Keeps sb s) : KeepsR sb (execLwu o s) := by
  unfold execLwu insnLwu formLoad
  repeat' first
    | with_reducible assumption
    | with_reducible refine KeepsR.next ?_
    | with_reducible refine Keeps.insn ?_ (fun _ _ => ?_)
    | with_reducible refine Keeps.loadAt ?_
    | with_reducible refine Keeps.setG ?_
    | with_reducible refine KeepsE.ok ?_
    | with_reducible refine KeepsE.error ?_
    | with_reducible refine KeepsE1.of_ok (by assumption) ?_
    | with_reducible refine KeepsE1.of_error (by assumption) ?_
    | split
    | dsimp only

theorem execLd_keeps {s : State} {o : OpI} (hK : Keeps sb s) : KeepsR sb (execLd o s) := by
  unfold execLd insnLd formLoad
  repeat' first
    | with_reducible assumption
    | with_reducible refine KeepsR.next ?_
    | with_reducible refine Keeps.insn ?_ (fun _ _ => ?_)
    | with_reducible refine Keeps.loadAt ?_
    | with_reducible refine Keeps.setG ?_
    | with_reducible refine KeepsE.ok ?_
    | with_reducible refine KeepsE.error ?_
    | with_reducible refine KeepsE1.of_ok (by assumption) ?_
    | with_reducible refine KeepsE1.of_error (by assumption) ?_
    | split
    | dsimp only

theorem execLq_keeps {s : State} {o : OpI} (hK : Keeps sb s) : KeepsR sb (execLq o s) := by
  unfold execLq insnLq
  repeat' first
    | with_reducible assumption
    | with_reducible refine KeepsR.next ?_
    | with_reducible refine Keeps.insn ?_ (fun _ _ => ?_)
    | with_reducible refine Keeps.loadAt ?_
    | with_reducible refine Keeps.setG ?_
    | with_reducible refine KeepsE.ok ?_
    | with_reducible refine KeepsE.error ?_
    | with_reducible refine KeepsE1.of_ok (by assumption) ?_
    | with_reducible refine KeepsE1.of_error (by assumption) ?_
    | split
    | dsimp only

theorem execStb_keeps {s : State} {o : OpI} (hK : Keeps sb s) : KeepsR sb (execStb o s) := by
  unfold execStb insnStb formStore
  repeat' first
    | with_reducible assumption
    | with_reducible refine KeepsR.next ?_
    | with_reducible refine Keeps.insn ?_ (fun _ _ => ?_)
    | with_reducible refine Keeps.storeAt ?_

theorem execSth_keeps {s : State} {o : OpI} (hK : Keeps sb s) : KeepsR sb (execSth o s) := by
  unfold execSth insnSth formStore
  repeat' first
    | with_reducible assumption
    | with_reducible refine KeepsR.next ?_
    | with_reducible refine Keeps.insn ?_ (fun _ _ => ?_)
    | with_reducible refine Keeps.storeAt ?_

theorem execStw_keeps {s : State} {o : OpI} (hK : Keeps sb s) : KeepsR sb (execStw o s) := by
  unfold execStw insnStw formStore
  repeat' first
    | with_reducible assumption
    | with_reducible refine KeepsR.next ?_
    | with_reducible refine Keeps.insn ?_ (fun _ _ => ?_)
    | with_reducible refine Keeps.storeAt ?_

theorem execStd_keeps {s : State} {o : OpI} (hK : Keeps sb s) : KeepsR sb (execStd o s) := by
  unfold execStd insnStd formStore
  repeat' first
    | with_reducible assumption
    | with_reducible refine KeepsR.next ?_
    | with_reducible refine Keeps.insn ?_ (fun _ _ => ?_)
    | with_reducible refine Keeps.storeAt ?_

theorem execStq_keeps {s : State} {o : OpI} (hK : Keeps sb s) : KeepsR sb (execStq o s) := by
  unfold execStq insnStq
  repeat' first
    | with_reducible assumption
    | with_reducible refine KeepsR.next ?_
    | with_reducible refine Keeps.insn ?_ (fun _ _ => ?_)
    | with_reducible refine Keeps.storeAt ?_

theorem execLa_keeps {s : State} {o : OpI} (hK : Keeps sb s) : KeepsR sb (execLa o s) := by
  unfold execLa insnLa
  repeat' first
    | with_reducible assumption
    | with_reducible refine KeepsR.next ?_
    | with_reducible refine Keeps.insn ?_ (fun _ _ => ?_)
    | with_reducible refine Keeps.setG ?_
    | with_reducible refine KeepsE.ok ?_

theorem Keeps.noteWrites {s : State} {u : Nat} {l : List Nat} (hK : Keeps sb s) : Keeps sb (s.noteWrites u l) := by
  unfold State.noteWrites
  repeat' first
    | with_reducible assumption
    | with_reducible refine Keeps.modUnit ?_
    | dsimp only
    | with_reducible refine Keeps.upd ?_

theorem Keeps.atomicLine {s : State} {u : Nat} {p : Piece} (hK : Keeps sb s) : Keeps sb (s.atomicLine u p) := by
  unfold State.atomicLine
  repeat' first
    | with_reducible assumption
    | with_reducible refine Keeps.coreOwn ?_
    | with_reducible refine Keeps.ite ?_ ?_
    | split
    | dsimp only

theorem Keeps.atomicAt {s : State} {u : Nat} {va : Dword} {n : Nat} {f : List Byte → Option (List Byte)} (hK : Keeps sb s) :
    KeepsE1 sb (s.atomicAt u va n f) := by
  unfold State.atomicAt
  repeat' first
    | with_reducible assumption
    | with_reducible refine Keeps.wcFlush ?_
    | with_reducible refine Keeps.readPieces ?_
    | with_reducible refine Keeps.atomicLine ?_
    | with_reducible refine Keeps.writePieces ?_
    | with_reducible refine Keeps.noteWrites ?_
    | with_reducible refine KeepsE1.ok ?_
    | with_reducible refine KeepsE1.error ?_
    | with_reducible exact Ends.keeps_stop
    | with_reducible exact Ends.keeps_abort
    | with_reducible refine Ends.keeps_check ?_
    | with_reducible refine Keeps.ite ?_ ?_
    | with_reducible refine Keeps.foldl (fun _ _ _ => ?_) ?_
    | split
    | dsimp only
    | with_reducible refine Keeps.upd ?_

theorem execCsd_keeps {s : State} {o : OpA} (hK : Keeps sb s) : KeepsR sb (execCsd o s) := by
  unfold execCsd insnCsd
  repeat' first
    | with_reducible assumption
    | with_reducible refine KeepsR.next ?_
    | with_reducible refine Keeps.insn ?_ (fun _ _ => ?_)
    | with_reducible refine Keeps.atomicAt ?_
    | with_reducible refine Keeps.setCc ?_
    | with_reducible refine Keeps.setG ?_
    | with_reducible refine Keeps.ite ?_ ?_
    | with_reducible refine KeepsE.ok ?_
    | with_reducible refine KeepsE.error ?_
    | with_reducible refine KeepsE1.of_ok (by assumption) ?_
    | with_reducible refine KeepsE1.of_error (by assumption) ?_
    | split
    | dsimp only

theorem execCsq_keeps {s : State} {o : OpA} (hK : Keeps sb s) : KeepsR sb (execCsq o s) := by
  unfold execCsq insnCsq
  repeat' first
    | with_reducible assumption
    | with_reducible refine KeepsR.next ?_
    | with_reducible refine Keeps.insn ?_ (fun _ _ => ?_)
    | with_reducible refine Keeps.atomicAt ?_
    | with_reducible refine Keeps.setCc ?_
    | with_reducible refine Keeps.setG ?_
    | with_reducible refine Keeps.ite ?_ ?_
    | with_reducible refine KeepsE.ok ?_
    | with_reducible refine KeepsE.error ?_
    | with_reducible refine KeepsE1.of_ok (by assumption) ?_
    | with_reducible refine KeepsE1.of_error (by assumption) ?_
    | split
    | dsimp only

theorem execFaad_keeps {s : State} {o : OpA} (hK : Keeps sb s) : KeepsR sb (execFaad o s) := by
  unfold execFaad insnFaad
  repeat' first
    | with_reducible assumption
    | with_reducible refine KeepsR.next ?_
    | with_reducible refine Keeps.insn ?_ (fun _ _ => ?_)
    | with_reducible refine Keeps.atomicAt ?_
    | with_reducible refine Keeps.setG ?_
    | with_reducible refine KeepsE.ok ?_
    | with_reducible refine KeepsE.error ?_
    | with_reducible refine KeepsE1.of_ok (by assumption) ?_
    | with_reducible refine KeepsE1.of_error (by assumption) ?_
    | split
    | dsimp only

theorem execFaaw_keeps {s : State} {o : OpA} (hK : Keeps sb s) : KeepsR sb (execFaaw o s) := by
  unfold execFaaw insnFaaw
  repeat' first
    | with_reducible assumption
    | with_reducible refine KeepsR.next ?_
    | with_reducible refine Keeps.insn ?_ (fun _ _ => ?_)
    | with_reducible refine Keeps.atomicAt ?_
    | with_reducible refine Keeps.setG ?_
    | with_reducible refine KeepsE.ok ?_
    | with_reducible refine KeepsE.error ?_
    | with_reducible refine KeepsE1.of_ok (by assumption) ?_
    | with_reducible refine KeepsE1.of_error (by assumption) ?_
    | split
    | dsimp only

theorem execSwpd_keeps {s : State} {o : OpA} (hK : Keeps sb s) : KeepsR sb (execSwpd o s) := by
  unfold execSwpd insnSwpd
  repeat' first
    | with_reducible assumption
    | with_reducible refine KeepsR.next ?_
    | with_reducible refine Keeps.insn ?_ (fun _ _ => ?_)
    | with_reducible refine Keeps.atomicAt ?_
    | with_reducible refine Keeps.setG ?_
    | with_reducible refine KeepsE.ok ?_
    | with_reducible refine KeepsE.error ?_
    | with_reducible refine KeepsE1.of_ok (by assumption) ?_
    | with_reducible refine KeepsE1.of_error (by assumption) ?_
    | split
    | dsimp only

theorem execFence_keeps {s : State} {o : OpA} (hK : Keeps sb s) : KeepsR sb (execFence o s) := by
  unfold execFence insnFence formOrder
  repeat' first
    | with_reducible assumption
    | with_reducible refine KeepsR.next ?_
    | with_reducible refine Keeps.insn ?_ (fun _ _ => ?_)
    | with_reducible refine Keeps.wcFlush ?_
    | with_reducible refine KeepsE.ok ?_

theorem execSync_keeps {s : State} {o : OpA} (hK : Keeps sb s) : KeepsR sb (execSync o s) := by
  unfold execSync insnSync formOrder
  repeat' first
    | with_reducible assumption
    | with_reducible refine KeepsR.next ?_
    | with_reducible refine Keeps.insn ?_ (fun _ _ => ?_)
    | with_reducible refine Keeps.wcFlush ?_
    | with_reducible refine KeepsE.ok ?_

theorem execLpsw_keeps {s : State} {o : OpI} (hK : Keeps sb s) : KeepsR sb (execLpsw o s) := by
  unfold execLpsw insnLpsw
  repeat' first
    | with_reducible assumption
    | with_reducible refine KeepsR.next ?_
    | with_reducible refine Keeps.insn ?_ (fun _ _ => ?_)
    | with_reducible refine Keeps.loadAt ?_
    | with_reducible refine Keeps.loadPsw ?_
    | with_reducible refine Keeps.wcFlush ?_
    | with_reducible refine KeepsE.ok ?_
    | with_reducible refine KeepsE.error ?_
    | with_reducible exact Ends.keeps_stop
    | with_reducible refine KeepsE1.of_ok (by assumption) ?_
    | with_reducible refine KeepsE1.of_error (by assumption) ?_
    | split
    | dsimp only

theorem execEpsw_keeps {s : State} {o : OpA} (hK : Keeps sb s) : KeepsR sb (execEpsw o s) := by
  unfold execEpsw insnEpsw
  repeat' first
    | with_reducible assumption
    | with_reducible refine KeepsR.next ?_
    | with_reducible refine Keeps.insn ?_ (fun _ _ => ?_)
    | with_reducible refine Keeps.setG ?_
    | with_reducible refine KeepsE.ok ?_

theorem execSpm_keeps {s : State} {o : OpA} (hK : Keeps sb s) : KeepsR sb (execSpm o s) := by
  unfold execSpm insnSpm
  repeat' first
    | with_reducible assumption
    | with_reducible refine KeepsR.next ?_
    | with_reducible refine Keeps.insn ?_ (fun _ _ => ?_)
    | with_reducible refine Keeps.setPsw ?_
    | with_reducible refine KeepsE.ok ?_

theorem Keeps.loadC {s : State} {u : Nat} {n : Nat} {v : Dword} (hK : Keeps sb s) : Keeps sb (s.loadC u n v) := by
  unfold State.loadC
  repeat' first
    | with_reducible assumption
    | with_reducible refine Keeps.writeC ?_
    | with_reducible refine Keeps.modUnit ?_
    | with_reducible refine Keeps.ite ?_ ?_
    | split
    | dsimp only

theorem execLctl_keeps {s : State} {o : OpI} (hK : Keeps sb s) : KeepsR sb (execLctl o s) := by
  unfold execLctl insnLctl
  repeat' first
    | with_reducible assumption
    | with_reducible refine KeepsR.next ?_
    | with_reducible refine Keeps.insn ?_ (fun _ _ => ?_)
    | with_reducible refine Keeps.loadC ?_
    | with_reducible refine Keeps.wcFlush ?_
    | with_reducible refine KeepsE.ok ?_

theorem execStctl_keeps {s : State} {o : OpI} (hK : Keeps sb s) : KeepsR sb (execStctl o s) := by
  unfold execStctl insnStctl
  repeat' first
    | with_reducible assumption
    | with_reducible refine KeepsR.next ?_
    | with_reducible refine Keeps.insn ?_ (fun _ _ => ?_)
    | with_reducible refine Keeps.tagged ?_
    | with_reducible refine Keeps.setG ?_
    | with_reducible refine Keeps.ite ?_ ?_
    | with_reducible refine KeepsE.ok ?_

theorem execIdent_keeps {s : State} {o : OpA} (hK : Keeps sb s) : KeepsR sb (execIdent o s) := by
  unfold execIdent insnIdent
  repeat' first
    | with_reducible assumption
    | with_reducible refine KeepsR.next ?_
    | with_reducible refine Keeps.insn ?_ (fun _ _ => ?_)
    | with_reducible refine Keeps.setG ?_
    | with_reducible refine KeepsE.ok ?_

theorem execRdtod_keeps {s : State} {o : OpA} (hK : Keeps sb s) : KeepsR sb (execRdtod o s) := by
  unfold execRdtod insnRdtod
  repeat' first
    | with_reducible assumption
    | with_reducible refine KeepsR.next ?_
    | with_reducible refine Keeps.insn ?_ (fun _ _ => ?_)
    | with_reducible refine Keeps.setG ?_
    | with_reducible refine Keeps.tagged ?_
    | with_reducible refine KeepsE.ok ?_

theorem execChkmode_keeps {s : State} {o : OpA} (hK : Keeps sb s) : KeepsR sb (execChkmode o s) := by
  unfold execChkmode insnChkmode
  repeat' first
    | with_reducible assumption
    | with_reducible refine KeepsR.next ?_
    | with_reducible refine Keeps.insn ?_ (fun _ _ => ?_)
    | with_reducible refine Keeps.wcFlush ?_
    | with_reducible refine Keeps.setCc ?_
    | with_reducible refine Keeps.modUnit ?_
    | with_reducible refine KeepsE.ok ?_
    | split
    | dsimp only

theorem execSvc_keeps {s : State} {o : OpT} (hK : Keeps sb s) : KeepsR sb (execSvc o s) := by
  unfold execSvc insnSvc
  repeat' first
    | with_reducible assumption
    | with_reducible refine KeepsR.next ?_
    | with_reducible refine Keeps.insn ?_ (fun _ _ => ?_)
    | with_reducible refine KeepsE.error ?_
    | with_reducible exact Ends.keeps_svc

theorem execHcall_keeps {s : State} {o : OpT} (hK : Keeps sb s) : KeepsR sb (execHcall o s) := by
  unfold execHcall insnHcall
  repeat' first
    | with_reducible assumption
    | with_reducible refine KeepsR.next ?_
    | with_reducible refine Keeps.insn ?_ (fun _ _ => ?_)
    | with_reducible refine KeepsE.error ?_
    | with_reducible exact Ends.keeps_hcall

theorem Keeps.signal {s : State} {u : Nat} {order : SigOrder} {ga : Dword} (hK : Keeps sb s) :
    Keeps sb (s.signal u order ga) := by
  unfold State.signal
  repeat' first
    | with_reducible assumption
    | with_reducible refine Keeps.setCc ?_
    | with_reducible refine Keeps.cpusig ?_
    | with_reducible refine Keeps.ite ?_ ?_
    | with_reducible refine Keeps.of_fst (by assumption) ?_
    | split
    | dsimp only
    | with_reducible refine Keeps.upd ?_

theorem execCpusigExternalCall_keeps {s : State} {o : OpSig} (hK : Keeps sb s) : KeepsR sb (execCpusigExternalCall o s) := by
  unfold execCpusigExternalCall insnCpusigExternalCall formSig
  repeat' first
    | with_reducible assumption
    | with_reducible refine KeepsR.next ?_
    | with_reducible refine Keeps.insn ?_ (fun _ _ => ?_)
    | with_reducible refine Keeps.signal ?_
    | with_reducible refine KeepsE.ok ?_

theorem execCpusigEmergencySignal_keeps {s : State} {o : OpSig} (hK : Keeps sb s) : KeepsR sb (execCpusigEmergencySignal o s) := by
  unfold execCpusigEmergencySignal insnCpusigEmergencySignal formSig
  repeat' first
    | with_reducible assumption
    | with_reducible refine KeepsR.next ?_
    | with_reducible refine Keeps.insn ?_ (fun _ _ => ?_)
    | with_reducible refine Keeps.signal ?_
    | with_reducible refine KeepsE.ok ?_

theorem execCpusigStop_keeps {s : State} {o : OpSig} (hK : Keeps sb s) : KeepsR sb (execCpusigStop o s) := by
  unfold execCpusigStop insnCpusigStop formSig
  repeat' first
    | with_reducible assumption
    | with_reducible refine KeepsR.next ?_
    | with_reducible refine Keeps.insn ?_ (fun _ _ => ?_)
    | with_reducible refine Keeps.signal ?_
    | with_reducible refine KeepsE.ok ?_

theorem execCpusigRestart_keeps {s : State} {o : OpSig} (hK : Keeps sb s) : KeepsR sb (execCpusigRestart o s) := by
  unfold execCpusigRestart insnCpusigRestart formSig
  repeat' first
    | with_reducible assumption
    | with_reducible refine KeepsR.next ?_
    | with_reducible refine Keeps.insn ?_ (fun _ _ => ?_)
    | with_reducible refine Keeps.signal ?_
    | with_reducible refine KeepsE.ok ?_

theorem execCpusigCoreReset_keeps {s : State} {o : OpSig} (hK : Keeps sb s) : KeepsR sb (execCpusigCoreReset o s) := by
  unfold execCpusigCoreReset insnCpusigCoreReset formSig
  repeat' first
    | with_reducible assumption
    | with_reducible refine KeepsR.next ?_
    | with_reducible refine Keeps.insn ?_ (fun _ _ => ?_)
    | with_reducible refine Keeps.signal ?_
    | with_reducible refine KeepsE.ok ?_

theorem Keeps.irunEnter {s : State} {u : Nat} {abs : Nat} {d : List Byte} (hK : Keeps sb s) :
    Keeps sb (s.irunEnter u abs d) := by
  unfold State.irunEnter
  repeat' first
    | with_reducible assumption
    | with_reducible refine Keeps.setCc ?_
    | with_reducible refine Keeps.modUnit ?_
    | with_reducible refine Keeps.loadPsw ?_
    | with_reducible refine Keeps.ite ?_ ?_
    | split
    | dsimp only
    | with_reducible refine Keeps.upd ?_

theorem execIrun_keeps {s : State} {o : OpA} (hK : Keeps sb s) : KeepsR sb (execIrun o s) := by
  refine .next (hK.insn fun t ht => ?_)
  unfold insnIrun
  dsimp only
  split
  · exact KeepsE.error Ends.keeps_stop
  · next ps _ =>
    have hr : Keeps sb (t.readPieces o.u ps false).st := ht.readPieces
    split
    · exact KeepsE.error hr
    · split
      · exact KeepsE.ok hr.wcFlush.irunEnter
      · exact KeepsE.ok hr

theorem execIrunExit_keeps {n : CpuNo} {s : State} (hK : Keeps sb s) : KeepsR sb (execIrunExit n s) := by
  unfold execIrunExit
  repeat' first
    | with_reducible assumption
    | with_reducible refine KeepsR.next ?_
    | with_reducible refine Keeps.settle ?_
    | split
    | dsimp only
    | with_reducible refine Keeps.upd ?_

theorem Keeps.abortBegin {s : State} {u : Nat} {code : Nat} {ia : Dword} {target : Dword} (hK : Keeps sb s) :
    Keeps sb (s.abortBegin u code ia target) := by
  unfold State.abortBegin
  repeat' first
    | with_reducible assumption
    | with_reducible refine Keeps.modUnit ?_
    | dsimp only

theorem Keeps.openRegion {s : State} {u : Nat} {target : Dword} (hK : Keeps sb s) : Keeps sb (s.openRegion u target) := by
  unfold State.openRegion
  repeat' first
    | with_reducible assumption
    | with_reducible refine Keeps.modUnit ?_
    | with_reducible refine Keeps.setCc ?_
    | dsimp only
    | with_reducible refine Keeps.upd ?_

theorem execTbegin_keeps {s : State} {o : OpB} (hK : Keeps sb s) : KeepsR sb (execTbegin o s) := by
  unfold execTbegin insnTbegin
  repeat' first
    | with_reducible assumption
    | with_reducible refine KeepsR.next ?_
    | with_reducible refine Keeps.insn ?_ (fun _ _ => ?_)
    | with_reducible refine Keeps.abortBegin ?_
    | with_reducible refine Keeps.openRegion ?_
    | with_reducible refine Keeps.wcFlush ?_
    | with_reducible refine KeepsE.ok ?_
    | with_reducible refine KeepsE.error ?_
    | with_reducible exact Ends.keeps_abort
    | split
    | dsimp only

theorem Keeps.commit {s : State} {u : Nat} {r : Region} (hK : Keeps sb s) : Keeps sb (s.commit u r) := by
  unfold State.commit
  repeat' first
    | with_reducible assumption
    | with_reducible refine Keeps.commitStores ?_
    | with_reducible refine Keeps.modUnit ?_
    | with_reducible refine Keeps.setCc ?_
    | with_reducible refine Keeps.wcFlush ?_
    | dsimp only
    | with_reducible refine Keeps.upd ?_

theorem execTend_keeps {s : State} {o : OpEnd} (hK : Keeps sb s) : KeepsR sb (execTend o s) := by
  unfold execTend insnTend
  repeat' first
    | with_reducible assumption
    | with_reducible refine KeepsR.next ?_
    | with_reducible refine Keeps.insn ?_ (fun _ _ => ?_)
    | with_reducible refine Keeps.setCc ?_
    | with_reducible refine Keeps.commit ?_
    | with_reducible refine KeepsE.ok ?_
    | split
    | dsimp only

theorem execTabort_keeps {s : State} {o : OpI} (hK : Keeps sb s) : KeepsR sb (execTabort o s) := by
  unfold execTabort insnTabort
  repeat' first
    | with_reducible assumption
    | with_reducible refine KeepsR.next ?_
    | with_reducible refine Keeps.insn ?_ (fun _ _ => ?_)
    | with_reducible refine Keeps.setCc ?_
    | with_reducible refine KeepsE.ok ?_
    | with_reducible refine KeepsE.error ?_
    | with_reducible exact Ends.keeps_abort
    | split
    | dsimp only

theorem execTransactionConflict_keeps {n : CpuNo} {a : Pa} {write : Bool} {s : State} (hK : Keeps sb s) :
    KeepsR sb (execTransactionConflict n a write s) := by
  unfold execTransactionConflict
  repeat' first
    | with_reducible assumption
    | with_reducible refine KeepsR.next ?_
    | with_reducible refine Keeps.abortRegion ?_
    | with_reducible refine Keeps.ite ?_ ?_
    | split
    | dsimp only
    | with_reducible refine Keeps.upd ?_

theorem Keeps.tlbBroadcast {s : State} {i : TlbInv} (hK : Keeps sb s) : Keeps sb (s.tlbBroadcast i) := by
  unfold State.tlbBroadcast
  repeat' first
    | with_reducible assumption
    | with_reducible refine Keeps.modUnit ?_
    | with_reducible refine Keeps.foldl (fun _ _ _ => ?_) ?_
    | with_reducible refine Keeps.foldl_fst (fun _ _ _ => ?_) ?_
    | dsimp only
    | with_reducible refine Keeps.upd ?_

theorem execTlbiv_keeps {s : State} {o : OpA} (hK : Keeps sb s) : KeepsR sb (execTlbiv o s) := by
  unfold execTlbiv insnTlbiv
  repeat' first
    | with_reducible assumption
    | with_reducible refine KeepsR.next ?_
    | with_reducible refine Keeps.insn ?_ (fun _ _ => ?_)
    | with_reducible refine Keeps.tlbBroadcast ?_
    | with_reducible refine Keeps.wcFlush ?_
    | with_reducible refine Keeps.ite ?_ ?_
    | with_reducible refine KeepsE.ok ?_

theorem execTlbia_keeps {s : State} {o : OpA} (hK : Keeps sb s) : KeepsR sb (execTlbia o s) := by
  unfold execTlbia insnTlbia
  repeat' first
    | with_reducible assumption
    | with_reducible refine KeepsR.next ?_
    | with_reducible refine Keeps.insn ?_ (fun _ _ => ?_)
    | with_reducible refine Keeps.tlbBroadcast ?_
    | with_reducible refine Keeps.wcFlush ?_
    | with_reducible refine Keeps.ite ?_ ?_
    | with_reducible refine KeepsE.ok ?_

theorem execTlbii_keeps {s : State} {o : OpA} (hK : Keeps sb s) : KeepsR sb (execTlbii o s) := by
  unfold execTlbii insnTlbii
  repeat' first
    | with_reducible assumption
    | with_reducible refine KeepsR.next ?_
    | with_reducible refine Keeps.insn ?_ (fun _ _ => ?_)
    | with_reducible refine Keeps.tlbBroadcast ?_
    | with_reducible refine Keeps.wcFlush ?_
    | with_reducible refine KeepsE.ok ?_

theorem execTlbInvalidationReceived_keeps {n : CpuNo} {inv : TlbInv} {s : State} (hK : Keeps sb s) :
    KeepsR sb (execTlbInvalidationReceived n inv s) := by
  unfold execTlbInvalidationReceived
  repeat' first
    | with_reducible assumption
    | with_reducible refine KeepsR.next ?_
    | with_reducible refine Keeps.modUnit ?_
    | with_reducible refine Keeps.ite ?_ ?_
    | split
    | dsimp only

theorem Keeps.wsFetches {s : State} {u : Nat} {l : List Nat} (hK : Keeps sb s) : Keeps sb (s.wsFetches u l).1 := by
  unfold State.wsFetches
  repeat' first
    | with_reducible assumption
    | with_reducible refine Keeps.wsErrors ?_
    | with_reducible refine Keeps.ite ?_ ?_
    | with_reducible refine Keeps.foldl (fun _ _ _ => ?_) ?_
    | with_reducible refine Keeps.foldl_fst (fun _ _ _ => ?_) ?_
    | with_reducible refine Keeps.of_fst (by assumption) ?_
    | split
    | dsimp only

theorem Keeps.fetches {s : State} {u : Nat} {l : List Nat} (hK : Keeps sb s) : KeepsE sb (s.fetches u l) := by
  unfold State.fetches
  repeat' first
    | with_reducible assumption
    | with_reducible refine Keeps.fetchedBy ?_
    | with_reducible refine Keeps.wsFetches ?_
    | with_reducible refine KeepsE.ok ?_
    | with_reducible refine KeepsE.error ?_
    | with_reducible refine Ends.keeps_check ?_
    | with_reducible refine Keeps.ite ?_ ?_
    | with_reducible refine Keeps.of_fst (by assumption) ?_
    | split
    | dsimp only
    | with_reducible refine Keeps.upd ?_

theorem execLra_keeps {s : State} {o : OpA} (hK : Keeps sb s) : KeepsR sb (execLra o s) := by
  unfold execLra insnLra
  repeat' first
    | with_reducible assumption
    | with_reducible refine KeepsR.next ?_
    | with_reducible refine Keeps.insn ?_ (fun _ _ => ?_)
    | with_reducible refine Keeps.fetches ?_
    | with_reducible refine Keeps.setCc ?_
    | with_reducible refine Keeps.setG ?_
    | with_reducible refine KeepsE.ok ?_
    | with_reducible refine KeepsE.error ?_
    | with_reducible exact Ends.keeps_stop
    | with_reducible refine KeepsE.of_ok (by assumption) ?_
    | with_reducible refine KeepsE.of_error (by assumption) ?_
    | split
    | dsimp only

theorem Keeps.czero {s : State} {u : Nat} {line : Nat} {mt : Mt} (hK : Keeps sb s) : Keeps sb (s.czero u line mt) := by
  unfold State.czero
  repeat' first
    | with_reducible assumption
    | with_reducible refine Keeps.wcFlush ?_
    | with_reducible refine Keeps.wcSupersede ?_
    | with_reducible refine Keeps.lineConflict ?_
    | with_reducible refine Keeps.czeroCached ?_
    | with_reducible refine Keeps.czeroHome ?_
    | with_reducible refine Keeps.ite ?_ ?_
    | split
    | dsimp only

theorem Keeps.maintain {s : State} {u : Nat} {va : Dword} {k : AccKind} {act : State → Piece → State} (hK : Keeps sb s)
    (hf : ∀ (x0 : State) (x1 : Piece), Keeps sb x0 → Keeps sb (act x0 x1)) : KeepsE sb (s.maintain u va k act) := by
  unfold State.maintain
  split
  · exact KeepsE.error Ends.keeps_stop
  · split
    · split
      · next x h =>
        obtain ⟨a, _, rfl⟩ := Option.map_eq_some_iff.mp h
        exact KeepsE.error (Ends.keeps_check hK.walked)
      · exact KeepsE.ok (hf _ _ hK.walked)
    · exact KeepsE.ok hK

theorem execCinv_keeps {s : State} {o : OpA} (hK : Keeps sb s) : KeepsR sb (execCinv o s) := by
  unfold execCinv insnCinv formMaintain
  repeat' first
    | with_reducible assumption
    | with_reducible refine KeepsR.next ?_
    | with_reducible refine Keeps.insn ?_ (fun _ _ => ?_)
    | with_reducible refine Keeps.maintain ?_ (fun _ _ _ => ?_)
    | with_reducible refine Keeps.cinv ?_
    | with_reducible refine Keeps.lineConflict ?_
    | with_reducible refine KeepsE.ok ?_
    | split

theorem execCclean_keeps {s : State} {o : OpA} (hK : Keeps sb s) : KeepsR sb (execCclean o s) := by
  unfold execCclean insnCclean formMaintain
  repeat' first
    | with_reducible assumption
    | with_reducible refine KeepsR.next ?_
    | with_reducible refine Keeps.insn ?_ (fun _ _ => ?_)
    | with_reducible refine Keeps.maintain ?_ (fun _ _ _ => ?_)
    | with_reducible refine Keeps.cleanLine ?_
    | with_reducible refine KeepsE.ok ?_
    | split

theorem execCclinv_keeps {s : State} {o : OpA} (hK : Keeps sb s) : KeepsR sb (execCclinv o s) := by
  unfold execCclinv insnCclinv formMaintain
  repeat' first
    | with_reducible assumption
    | with_reducible refine KeepsR.next ?_
    | with_reducible refine Keeps.insn ?_ (fun _ _ => ?_)
    | with_reducible refine Keeps.maintain ?_ (fun _ _ _ => ?_)
    | with_reducible refine Keeps.cclinv ?_
    | with_reducible refine Keeps.lineConflict ?_
    | with_reducible refine KeepsE.ok ?_
    | split

theorem execCzero_keeps {s : State} {o : OpA} (hK : Keeps sb s) : KeepsR sb (execCzero o s) := by
  unfold execCzero insnCzero
  repeat' first
    | with_reducible assumption
    | with_reducible refine KeepsR.next ?_
    | with_reducible refine Keeps.insn ?_ (fun _ _ => ?_)
    | with_reducible refine Keeps.maintain ?_ (fun _ _ _ => ?_)
    | with_reducible refine Keeps.czero ?_
    | with_reducible refine Keeps.wsClean ?_
    | with_reducible refine Keeps.wsPut ?_
    | with_reducible refine Keeps.ite ?_ ?_

theorem execL2dis_keeps {s : State} {o : OpA} (hK : Keeps sb s) : KeepsR sb (execL2dis o s) := by
  unfold execL2dis insnL2dis formCacheCtl
  repeat' first
    | with_reducible assumption
    | with_reducible refine KeepsR.next ?_
    | with_reducible refine Keeps.insn ?_ (fun _ _ => ?_)
    | with_reducible refine Keeps.wcFlush ?_
    | with_reducible refine Keeps.setCc ?_
    | with_reducible refine Keeps.l2SweepEnd ?_
    | with_reducible refine Keeps.l2Disable ?_
    | with_reducible refine KeepsE.ok ?_
    | split
    | dsimp only

theorem execL2en_keeps {s : State} {o : OpA} (hK : Keeps sb s) : KeepsR sb (execL2en o s) := by
  unfold execL2en insnL2en formCacheCtl
  repeat' first
    | with_reducible assumption
    | with_reducible refine KeepsR.next ?_
    | with_reducible refine Keeps.insn ?_ (fun _ _ => ?_)
    | with_reducible refine Keeps.wcFlush ?_
    | with_reducible refine Keeps.setCc ?_
    | with_reducible refine Keeps.l2Enable ?_
    | with_reducible refine KeepsE.ok ?_
    | split
    | dsimp only

theorem execL3dis_keeps {s : State} {o : OpA} (hK : Keeps sb s) : KeepsR sb (execL3dis o s) := by
  unfold execL3dis insnL3dis formCacheCtl
  repeat' first
    | with_reducible assumption
    | with_reducible refine KeepsR.next ?_
    | with_reducible refine Keeps.insn ?_ (fun _ _ => ?_)
    | with_reducible refine Keeps.wcFlush ?_
    | with_reducible refine Keeps.setCc ?_
    | with_reducible refine Keeps.l3SweepEnd ?_
    | with_reducible refine Keeps.l3Disable ?_
    | with_reducible refine KeepsE.ok ?_
    | split
    | dsimp only

theorem execL3en_keeps {s : State} {o : OpA} (hK : Keeps sb s) : KeepsR sb (execL3en o s) := by
  unfold execL3en insnL3en formCacheCtl
  repeat' first
    | with_reducible assumption
    | with_reducible refine KeepsR.next ?_
    | with_reducible refine Keeps.insn ?_ (fun _ _ => ?_)
    | with_reducible refine Keeps.wcFlush ?_
    | with_reducible refine Keeps.setCc ?_
    | with_reducible refine Keeps.l3Enable ?_
    | with_reducible refine KeepsE.ok ?_
    | split
    | dsimp only

end Sys2Proof.Machine
end

