-- ==== Sys2Proof/Laws/KeepsFloat.lean ====
section
/-! SUPPORT. What they keep: floating-point instructions. -/
namespace Sys2Proof.Machine
open Sys2Proof

variable {sb : State}

theorem Keeps.setFlags {s : State} {u : Nat} {cond : Nat} (hK : Keeps sb s) : Keeps sb (s.setFlags u cond) := by
  unfold State.setFlags
  repeat' first
    | with_reducible assumption
    | with_reducible refine Keeps.modUnit ?_
    | with_reducible refine Keeps.ite ?_ ?_
    | split
    | dsimp only

theorem Keeps.fpEnd {s : State} {k : FpCall} {e : FEnd} {write : State → Dword → State} (hK : Keeps sb s)
    (hw : ∀ t v, Keeps sb t → Keeps sb (write t v)) : KeepsE sb (s.fpEnd k e write) := by
  unfold State.fpEnd
  extract_lets c8
  split
  · exact KeepsE.error Ends.keeps_stop
  · extract_lets en x
    split
    · exact KeepsE.ok (hw _ _ hK).setFlags
    · split
      · exact KeepsE.error Ends.keeps_stop
      · exact KeepsE.error (Ends.keeps_after (hw _ _ hK).setFlags)

theorem Keeps.wrFa {o : OpF} {s : State} {v : Dword} (hK : Keeps sb s) : Keeps sb (Machine.wrFa o s v) := hK.setF

theorem Keeps.wrGa {o : OpF} {s : State} {v : Dword} (hK : Keeps sb s) : Keeps sb (Machine.wrGa o s v) := hK.setG

theorem execFaddd_keeps {s : State} {o : OpF} (hK : Keeps sb s) : KeepsR sb (execFaddd o s) := by
  unfold execFaddd insnFaddd formF2
  repeat' first
    | with_reducible assumption
    | with_reducible refine KeepsR.next ?_
    | with_reducible refine Keeps.insn ?_ (fun _ _ => ?_)
    | with_reducible refine Keeps.fpEnd ?_ (fun _ _ _ => ?_)
    | with_reducible refine Keeps.setF ?_

theorem execFadds_keeps {s : State} {o : OpF} (hK : Keeps sb s) : KeepsR sb (execFadds o s) := by
  unfold execFadds insnFadds formF2
  repeat' first
    | with_reducible assumption
    | with_reducible refine KeepsR.next ?_
    | with_reducible refine Keeps.insn ?_ (fun _ _ => ?_)
    | with_reducible refine Keeps.fpEnd ?_ (fun _ _ _ => ?_)
    | with_reducible refine Keeps.setF ?_

theorem execFsubd_keeps {s : State} {o : OpF} (hK : Keeps sb s) : KeepsR sb (execFsubd o s) := by
  unfold execFsubd insnFsubd formF2
  repeat' first
    | with_reducible assumption
    | with_reducible refine KeepsR.next ?_
    | with_reducible refine Keeps.insn ?_ (fun _ _ => ?_)
    | with_reducible refine Keeps.fpEnd ?_ (fun _ _ _ => ?_)
    | with_reducible refine Keeps.setF ?_

theorem execFsubs_keeps {s : State} {o : OpF} (hK : Keeps sb s) : KeepsR sb (execFsubs o s) := by
  unfold execFsubs insnFsubs formF2
  repeat' first
    | with_reducible assumption
    | with_reducible refine KeepsR.next ?_
    | with_reducible refine Keeps.insn ?_ (fun _ _ => ?_)
    | with_reducible refine Keeps.fpEnd ?_ (fun _ _ _ => ?_)
    | with_reducible refine Keeps.setF ?_

theorem execFmuld_keeps {s : State} {o : OpF} (hK : Keeps sb s) : KeepsR sb (execFmuld o s) := by
  unfold execFmuld insnFmuld formF2
  repeat' first
    | with_reducible assumption
    | with_reducible refine KeepsR.next ?_
    | with_reducible refine Keeps.insn ?_ (fun _ _ => ?_)
    | with_reducible refine Keeps.fpEnd ?_ (fun _ _ _ => ?_)
    | with_reducible refine Keeps.setF ?_

theorem execFmuls_keeps {s : State} {o : OpF} (hK : Keeps sb s) : KeepsR sb (execFmuls o s) := by
  unfold execFmuls insnFmuls formF2
  repeat' first
    | with_reducible assumption
    | with_reducible refine KeepsR.next ?_
    | with_reducible refine Keeps.insn ?_ (fun _ _ => ?_)
    | with_reducible refine Keeps.fpEnd ?_ (fun _ _ _ => ?_)
    | with_reducible refine Keeps.setF ?_

theorem execFdivd_keeps {s : State} {o : OpF} (hK : Keeps sb s) : KeepsR sb (execFdivd o s) := by
  unfold execFdivd insnFdivd formF2
  repeat' first
    | with_reducible assumption
    | with_reducible refine KeepsR.next ?_
    | with_reducible refine Keeps.insn ?_ (fun _ _ => ?_)
    | with_reducible refine Keeps.fpEnd ?_ (fun _ _ _ => ?_)
    | with_reducible refine Keeps.setF ?_

theorem execFdivs_keeps {s : State} {o : OpF} (hK : Keeps sb s) : KeepsR sb (execFdivs o s) := by
  unfold execFdivs insnFdivs formF2
  repeat' first
    | with_reducible assumption
    | with_reducible refine KeepsR.next ?_
    | with_reducible refine Keeps.insn ?_ (fun _ _ => ?_)
    | with_reducible refine Keeps.fpEnd ?_ (fun _ _ _ => ?_)
    | with_reducible refine Keeps.setF ?_

theorem execFsqrtd_keeps {s : State} {o : OpF} (hK : Keeps sb s) : KeepsR sb (execFsqrtd o s) := by
  unfold execFsqrtd insnFsqrtd formF1
  repeat' first
    | with_reducible assumption
    | with_reducible refine KeepsR.next ?_
    | with_reducible refine Keeps.insn ?_ (fun _ _ => ?_)
    | with_reducible refine Keeps.fpEnd ?_ (fun _ _ _ => ?_)
    | with_reducible refine Keeps.setF ?_

theorem execFcmpd_keeps {s : State} {o : OpF} (hK : Keeps sb s) : KeepsR sb (execFcmpd o s) := by
  unfold execFcmpd insnFcmpd formFCmp
  repeat' first
    | with_reducible assumption
    | with_reducible refine KeepsR.next ?_
    | with_reducible refine Keeps.insn ?_ (fun _ _ => ?_)
    | with_reducible refine Keeps.fpEnd ?_ (fun _ _ _ => ?_)
    | with_reducible refine Keeps.setCc ?_

theorem execFcmpsd_keeps {s : State} {o : OpF} (hK : Keeps sb s) : KeepsR sb (execFcmpsd o s) := by
  unfold execFcmpsd insnFcmpsd formFCmp
  repeat' first
    | with_reducible assumption
    | with_reducible refine KeepsR.next ?_
    | with_reducible refine Keeps.insn ?_ (fun _ _ => ?_)
    | with_reducible refine Keeps.fpEnd ?_ (fun _ _ _ => ?_)
    | with_reducible refine Keeps.setCc ?_

theorem execFrintd_keeps {s : State} {o : OpF} (hK : Keeps sb s) : KeepsR sb (execFrintd o s) := by
  unfold execFrintd insnFrintd formF1
  repeat' first
    | with_reducible assumption
    | with_reducible refine KeepsR.next ?_
    | with_reducible refine Keeps.insn ?_ (fun _ _ => ?_)
    | with_reducible refine Keeps.fpEnd ?_ (fun _ _ _ => ?_)
    | with_reducible refine Keeps.setF ?_

theorem execFmaddd_keeps {s : State} {o : OpQ} (hK : Keeps sb s) : KeepsR sb (execFmaddd o s) := by
  unfold execFmaddd insnFmaddd formFma
  repeat' first
    | with_reducible assumption
    | with_reducible refine KeepsR.next ?_
    | with_reducible refine Keeps.insn ?_ (fun _ _ => ?_)
    | with_reducible refine Keeps.fpEnd ?_ (fun _ _ _ => ?_)
    | with_reducible refine Keeps.setF ?_

theorem execFmsubd_keeps {s : State} {o : OpQ} (hK : Keeps sb s) : KeepsR sb (execFmsubd o s) := by
  unfold execFmsubd insnFmsubd formFma
  repeat' first
    | with_reducible assumption
    | with_reducible refine KeepsR.next ?_
    | with_reducible refine Keeps.insn ?_ (fun _ _ => ?_)
    | with_reducible refine Keeps.fpEnd ?_ (fun _ _ _ => ?_)
    | with_reducible refine Keeps.setF ?_

theorem execFnmaddd_keeps {s : State} {o : OpQ} (hK : Keeps sb s) : KeepsR sb (execFnmaddd o s) := by
  unfold execFnmaddd insnFnmaddd formFma
  repeat' first
    | with_reducible assumption
    | with_reducible refine KeepsR.next ?_
    | with_reducible refine Keeps.insn ?_ (fun _ _ => ?_)
    | with_reducible refine Keeps.fpEnd ?_ (fun _ _ _ => ?_)
    | with_reducible refine Keeps.setF ?_

theorem execFnmsubd_keeps {s : State} {o : OpQ} (hK : Keeps sb s) : KeepsR sb (execFnmsubd o s) := by
  unfold execFnmsubd insnFnmsubd formFma
  repeat' first
    | with_reducible assumption
    | with_reducible refine KeepsR.next ?_
    | with_reducible refine Keeps.insn ?_ (fun _ _ => ?_)
    | with_reducible refine Keeps.fpEnd ?_ (fun _ _ _ => ?_)
    | with_reducible refine Keeps.setF ?_

theorem execFsqrts_keeps {s : State} {o : OpF} (hK : Keeps sb s) : KeepsR sb (execFsqrts o s) := by
  unfold execFsqrts insnFsqrts formF1
  repeat' first
    | with_reducible assumption
    | with_reducible refine KeepsR.next ?_
    | with_reducible refine Keeps.insn ?_ (fun _ _ => ?_)
    | with_reducible refine Keeps.fpEnd ?_ (fun _ _ _ => ?_)
    | with_reducible refine Keeps.setF ?_

theorem execFcmps_keeps {s : State} {o : OpF} (hK : Keeps sb s) : KeepsR sb (execFcmps o s) := by
  unfold execFcmps insnFcmps formFCmp
  repeat' first
    | with_reducible assumption
    | with_reducible refine KeepsR.next ?_
    | with_reducible refine Keeps.insn ?_ (fun _ _ => ?_)
    | with_reducible refine Keeps.fpEnd ?_ (fun _ _ _ => ?_)
    | with_reducible refine Keeps.setCc ?_

theorem execFcmpss_keeps {s : State} {o : OpF} (hK : Keeps sb s) : KeepsR sb (execFcmpss o s) := by
  unfold execFcmpss insnFcmpss formFCmp
  repeat' first
    | with_reducible assumption
    | with_reducible refine KeepsR.next ?_
    | with_reducible refine Keeps.insn ?_ (fun _ _ => ?_)
    | with_reducible refine Keeps.fpEnd ?_ (fun _ _ _ => ?_)
    | with_reducible refine Keeps.setCc ?_

theorem execFrints_keeps {s : State} {o : OpF} (hK : Keeps sb s) : KeepsR sb (execFrints o s) := by
  unfold execFrints insnFrints formF1
  repeat' first
    | with_reducible assumption
    | with_reducible refine KeepsR.next ?_
    | with_reducible refine Keeps.insn ?_ (fun _ _ => ?_)
    | with_reducible refine Keeps.fpEnd ?_ (fun _ _ _ => ?_)
    | with_reducible refine Keeps.setF ?_

theorem execFmadds_keeps {s : State} {o : OpQ} (hK : Keeps sb s) : KeepsR sb (execFmadds o s) := by
  unfold execFmadds insnFmadds formFma
  repeat' first
    | with_reducible assumption
    | with_reducible refine KeepsR.next ?_
    | with_reducible refine Keeps.insn ?_ (fun _ _ => ?_)
    | with_reducible refine Keeps.fpEnd ?_ (fun _ _ _ => ?_)
    | with_reducible refine Keeps.setF ?_

theorem execFmsubs_keeps {s : State} {o : OpQ} (hK : Keeps sb s) : KeepsR sb (execFmsubs o s) := by
  unfold execFmsubs insnFmsubs formFma
  repeat' first
    | with_reducible assumption
    | with_reducible refine KeepsR.next ?_
    | with_reducible refine Keeps.insn ?_ (fun _ _ => ?_)
    | with_reducible refine Keeps.fpEnd ?_ (fun _ _ _ => ?_)
    | with_reducible refine Keeps.setF ?_

theorem execFnmadds_keeps {s : State} {o : OpQ} (hK : Keeps sb s) : KeepsR sb (execFnmadds o s) := by
  unfold execFnmadds insnFnmadds formFma
  repeat' first
    | with_reducible assumption
    | with_reducible refine KeepsR.next ?_
    | with_reducible refine Keeps.insn ?_ (fun _ _ => ?_)
    | with_reducible refine Keeps.fpEnd ?_ (fun _ _ _ => ?_)
    | with_reducible refine Keeps.setF ?_

theorem execFnmsubs_keeps {s : State} {o : OpQ} (hK : Keeps sb s) : KeepsR sb (execFnmsubs o s) := by
  unfold execFnmsubs insnFnmsubs formFma
  repeat' first
    | with_reducible assumption
    | with_reducible refine KeepsR.next ?_
    | with_reducible refine Keeps.insn ?_ (fun _ _ => ?_)
    | with_reducible refine Keeps.fpEnd ?_ (fun _ _ _ => ?_)
    | with_reducible refine Keeps.setF ?_

theorem execCvtsd_keeps {s : State} {o : OpF} (hK : Keeps sb s) : KeepsR sb (execCvtsd o s) := by
  unfold execCvtsd insnCvtsd formCvt
  repeat' first
    | with_reducible assumption
    | with_reducible refine KeepsR.next ?_
    | with_reducible refine Keeps.insn ?_ (fun _ _ => ?_)
    | with_reducible refine Keeps.fpEnd ?_ (fun _ _ _ => ?_)
    | with_reducible refine Keeps.wrFa ?_

theorem execCvtds_keeps {s : State} {o : OpF} (hK : Keeps sb s) : KeepsR sb (execCvtds o s) := by
  unfold execCvtds insnCvtds formCvt
  repeat' first
    | with_reducible assumption
    | with_reducible refine KeepsR.next ?_
    | with_reducible refine Keeps.insn ?_ (fun _ _ => ?_)
    | with_reducible refine Keeps.fpEnd ?_ (fun _ _ _ => ?_)
    | with_reducible refine Keeps.wrFa ?_

theorem execCvtgd_keeps {s : State} {o : OpF} (hK : Keeps sb s) : KeepsR sb (execCvtgd o s) := by
  unfold execCvtgd insnCvtgd formCvt
  repeat' first
    | with_reducible assumption
    | with_reducible refine KeepsR.next ?_
    | with_reducible refine Keeps.insn ?_ (fun _ _ => ?_)
    | with_reducible refine Keeps.fpEnd ?_ (fun _ _ _ => ?_)
    | with_reducible refine Keeps.wrFa ?_

theorem execCvtgs_keeps {s : State} {o : OpF} (hK : Keeps sb s) : KeepsR sb (execCvtgs o s) := by
  unfold execCvtgs insnCvtgs formCvt
  repeat' first
    | with_reducible assumption
    | with_reducible refine KeepsR.next ?_
    | with_reducible refine Keeps.insn ?_ (fun _ _ => ?_)
    | with_reducible refine Keeps.fpEnd ?_ (fun _ _ _ => ?_)
    | with_reducible refine Keeps.wrFa ?_

theorem execCvtld_keeps {s : State} {o : OpF} (hK : Keeps sb s) : KeepsR sb (execCvtld o s) := by
  unfold execCvtld insnCvtld formCvt
  repeat' first
    | with_reducible assumption
    | with_reducible refine KeepsR.next ?_
    | with_reducible refine Keeps.insn ?_ (fun _ _ => ?_)
    | with_reducible refine Keeps.fpEnd ?_ (fun _ _ _ => ?_)
    | with_reducible refine Keeps.wrFa ?_

theorem execCvtls_keeps {s : State} {o : OpF} (hK : Keeps sb s) : KeepsR sb (execCvtls o s) := by
  unfold execCvtls insnCvtls formCvt
  repeat' first
    | with_reducible assumption
    | with_reducible refine KeepsR.next ?_
    | with_reducible refine Keeps.insn ?_ (fun _ _ => ?_)
    | with_reducible refine Keeps.fpEnd ?_ (fun _ _ _ => ?_)
    | with_reducible refine Keeps.wrFa ?_

theorem execCvtdg_keeps {s : State} {o : OpF} (hK : Keeps sb s) : KeepsR sb (execCvtdg o s) := by
  unfold execCvtdg insnCvtdg formCvt
  repeat' first
    | with_reducible assumption
    | with_reducible refine KeepsR.next ?_
    | with_reducible refine Keeps.insn ?_ (fun _ _ => ?_)
    | with_reducible refine Keeps.fpEnd ?_ (fun _ _ _ => ?_)
    | with_reducible refine Keeps.wrGa ?_

theorem execCvtsg_keeps {s : State} {o : OpF} (hK : Keeps sb s) : KeepsR sb (execCvtsg o s) := by
  unfold execCvtsg insnCvtsg formCvt
  repeat' first
    | with_reducible assumption
    | with_reducible refine KeepsR.next ?_
    | with_reducible refine Keeps.insn ?_ (fun _ _ => ?_)
    | with_reducible refine Keeps.fpEnd ?_ (fun _ _ _ => ?_)
    | with_reducible refine Keeps.wrGa ?_

theorem execCvtdl_keeps {s : State} {o : OpF} (hK : Keeps sb s) : KeepsR sb (execCvtdl o s) := by
  unfold execCvtdl insnCvtdl formCvt
  repeat' first
    | with_reducible assumption
    | with_reducible refine KeepsR.next ?_
    | with_reducible refine Keeps.insn ?_ (fun _ _ => ?_)
    | with_reducible refine Keeps.fpEnd ?_ (fun _ _ _ => ?_)
    | with_reducible refine Keeps.wrGa ?_

theorem execCvtsl_keeps {s : State} {o : OpF} (hK : Keeps sb s) : KeepsR sb (execCvtsl o s) := by
  unfold execCvtsl insnCvtsl formCvt
  repeat' first
    | with_reducible assumption
    | with_reducible refine KeepsR.next ?_
    | with_reducible refine Keeps.insn ?_ (fun _ _ => ?_)
    | with_reducible refine Keeps.fpEnd ?_ (fun _ _ _ => ?_)
    | with_reducible refine Keeps.wrGa ?_

theorem execFmr_keeps {s : State} {o : OpA} (hK : Keeps sb s) : KeepsR sb (execFmr o s) := by
  unfold execFmr insnFmr formMove
  repeat' first
    | with_reducible assumption
    | with_reducible refine KeepsR.next ?_
    | with_reducible refine Keeps.insn ?_ (fun _ _ => ?_)
    | with_reducible refine Keeps.setF ?_
    | with_reducible refine KeepsE.ok ?_

theorem execFnegd_keeps {s : State} {o : OpA} (hK : Keeps sb s) : KeepsR sb (execFnegd o s) := by
  unfold execFnegd insnFnegd formMove
  repeat' first
    | with_reducible assumption
    | with_reducible refine KeepsR.next ?_
    | with_reducible refine Keeps.insn ?_ (fun _ _ => ?_)
    | with_reducible refine Keeps.setF ?_
    | with_reducible refine KeepsE.ok ?_

theorem execFabsd_keeps {s : State} {o : OpA} (hK : Keeps sb s) : KeepsR sb (execFabsd o s) := by
  unfold execFabsd insnFabsd formMove
  repeat' first
    | with_reducible assumption
    | with_reducible refine KeepsR.next ?_
    | with_reducible refine Keeps.insn ?_ (fun _ _ => ?_)
    | with_reducible refine Keeps.setF ?_
    | with_reducible refine KeepsE.ok ?_

theorem execFnegs_keeps {s : State} {o : OpA} (hK : Keeps sb s) : KeepsR sb (execFnegs o s) := by
  unfold execFnegs insnFnegs formMove
  repeat' first
    | with_reducible assumption
    | with_reducible refine KeepsR.next ?_
    | with_reducible refine Keeps.insn ?_ (fun _ _ => ?_)
    | with_reducible refine Keeps.setF ?_
    | with_reducible refine KeepsE.ok ?_

theorem execFabss_keeps {s : State} {o : OpA} (hK : Keeps sb s) : KeepsR sb (execFabss o s) := by
  unfold execFabss insnFabss formMove
  repeat' first
    | with_reducible assumption
    | with_reducible refine KeepsR.next ?_
    | with_reducible refine Keeps.insn ?_ (fun _ _ => ?_)
    | with_reducible refine Keeps.setF ?_
    | with_reducible refine KeepsE.ok ?_

theorem execMvfg_keeps {s : State} {o : OpA} (hK : Keeps sb s) : KeepsR sb (execMvfg o s) := by
  unfold execMvfg insnMvfg formMove
  repeat' first
    | with_reducible assumption
    | with_reducible refine KeepsR.next ?_
    | with_reducible refine Keeps.insn ?_ (fun _ _ => ?_)
    | with_reducible refine Keeps.setG ?_
    | with_reducible refine KeepsE.ok ?_

theorem execMvgf_keeps {s : State} {o : OpA} (hK : Keeps sb s) : KeepsR sb (execMvgf o s) := by
  unfold execMvgf insnMvgf formMove
  repeat' first
    | with_reducible assumption
    | with_reducible refine KeepsR.next ?_
    | with_reducible refine Keeps.insn ?_ (fun _ _ => ?_)
    | with_reducible refine Keeps.setF ?_
    | with_reducible refine KeepsE.ok ?_

theorem execLfs_keeps {s : State} {o : OpI} (hK : Keeps sb s) : KeepsR sb (execLfs o s) := by
  unfold execLfs insnLfs formLoadF
  repeat' first
    | with_reducible assumption
    | with_reducible refine KeepsR.next ?_
    | with_reducible refine Keeps.insn ?_ (fun _ _ => ?_)
    | with_reducible refine Keeps.loadAt ?_
    | with_reducible refine Keeps.setF ?_
    | with_reducible refine KeepsE.ok ?_
    | with_reducible refine KeepsE.error ?_
    | with_reducible refine KeepsE1.of_ok (by assumption) ?_
    | with_reducible refine KeepsE1.of_error (by assumption) ?_
    | split
    | dsimp only

theorem execLfd_keeps {s : State} {o : OpI} (hK : Keeps sb s) : KeepsR sb (execLfd o s) := by
  unfold execLfd insnLfd formLoadF
  repeat' first
    | with_reducible assumption
    | with_reducible refine KeepsR.next ?_
    | with_reducible refine Keeps.insn ?_ (fun _ _ => ?_)
    | with_reducible refine Keeps.loadAt ?_
    | with_reducible refine Keeps.setF ?_
    | with_reducible refine KeepsE.ok ?_
    | with_reducible refine KeepsE.error ?_
    | with_reducible refine KeepsE1.of_ok (by assumption) ?_
    | with_reducible refine KeepsE1.of_error (by assumption) ?_
    | split
    | dsimp only

theorem execStfs_keeps {s : State} {o : OpI} (hK : Keeps sb s) : KeepsR sb (execStfs o s) := by
  unfold execStfs insnStfs formStoreF
  repeat' first
    | with_reducible assumption
    | with_reducible refine KeepsR.next ?_
    | with_reducible refine Keeps.insn ?_ (fun _ _ => ?_)
    | with_reducible refine Keeps.storeAt ?_

theorem execStfd_keeps {s : State} {o : OpI} (hK : Keeps sb s) : KeepsR sb (execStfd o s) := by
  unfold execStfd insnStfd formStoreF
  repeat' first
    | with_reducible assumption
    | with_reducible refine KeepsR.next ?_
    | with_reducible refine Keeps.insn ?_ (fun _ _ => ?_)
    | with_reducible refine Keeps.storeAt ?_

end Sys2Proof.Machine
end

