-- ==== Sys2Proof/Laws/KeepsSlots.lean ====
section
/-! SUPPORT. What they keep: I/O and the coprocessor slots. -/
namespace Sys2Proof.Machine
open Sys2Proof

variable {sb : State}

theorem Keeps.onSub {s : State} {o : OpA} {img : Nat} {f : State → Nat → State × BitVec 2} (hK : Keeps sb s)
    (hf : ∀ t p, Keeps sb t → Keeps sb (f t p).1) : Keeps sb (s.onSub o img f) := by
  unfold State.onSub
  split
  · exact hK.setCc
  · exact (hf _ _ hK).setCc

theorem execIostart_keeps {s : State} {o : OpA} (hK : Keeps sb s) : KeepsR sb (execIostart o s) := by
  unfold execIostart insnIostart formIo
  repeat' first
    | with_reducible assumption
    | with_reducible refine KeepsR.next ?_
    | with_reducible refine Keeps.insn ?_ (fun _ _ => ?_)
    | with_reducible refine Keeps.setCc ?_
    | with_reducible refine Keeps.loadAt ?_
    | with_reducible refine Keeps.onSub ?_ (fun _ _ _ => ?_)
    | with_reducible refine Keeps.wcFlush ?_
    | with_reducible refine Keeps.ioStart ?_
    | with_reducible refine KeepsE.ok ?_
    | with_reducible refine KeepsE.error ?_
    | with_reducible exact Ends.keeps_stop
    | with_reducible refine KeepsE1.of_ok (by assumption) ?_
    | with_reducible refine KeepsE1.of_error (by assumption) ?_
    | split
    | dsimp only

theorem execIohalt_keeps {s : State} {o : OpA} (hK : Keeps sb s) : KeepsR sb (execIohalt o s) := by
  unfold execIohalt insnIohalt formIo
  repeat' first
    | with_reducible assumption
    | with_reducible refine KeepsR.next ?_
    | with_reducible refine Keeps.insn ?_ (fun _ _ => ?_)
    | with_reducible refine Keeps.setCc ?_
    | with_reducible refine Keeps.onSub ?_ (fun _ _ _ => ?_)
    | with_reducible refine Keeps.wcFlush ?_
    | with_reducible refine Keeps.ioHalt ?_
    | with_reducible refine KeepsE.ok ?_
    | split
    | dsimp only

theorem execIoclear_keeps {s : State} {o : OpA} (hK : Keeps sb s) : KeepsR sb (execIoclear o s) := by
  unfold execIoclear insnIoclear formIo
  repeat' first
    | with_reducible assumption
    | with_reducible refine KeepsR.next ?_
    | with_reducible refine Keeps.insn ?_ (fun _ _ => ?_)
    | with_reducible refine Keeps.setCc ?_
    | with_reducible refine Keeps.onSub ?_ (fun _ _ _ => ?_)
    | with_reducible refine Keeps.wcFlush ?_
    | with_reducible refine Keeps.ioClear ?_
    | with_reducible refine KeepsE.ok ?_
    | split
    | dsimp only

theorem execIotest_keeps {s : State} {o : OpA} (hK : Keeps sb s) : KeepsR sb (execIotest o s) := by
  unfold execIotest insnIotest formIo
  repeat' first
    | with_reducible assumption
    | with_reducible refine KeepsR.next ?_
    | with_reducible refine Keeps.insn ?_ (fun _ _ => ?_)
    | with_reducible refine Keeps.setCc ?_
    | with_reducible refine Keeps.ioTest ?_
    | with_reducible refine Keeps.storeAt ?_
    | with_reducible refine KeepsE.ok ?_
    | with_reducible refine KeepsE.error ?_
    | with_reducible exact Ends.keeps_stop
    | with_reducible refine KeepsE.of_ok (by assumption) ?_
    | with_reducible refine KeepsE.of_error (by assumption) ?_
    | split
    | dsimp only

theorem execIostore_keeps {s : State} {o : OpA} (hK : Keeps sb s) : KeepsR sb (execIostore o s) := by
  unfold execIostore insnIostore formIo
  repeat' first
    | with_reducible assumption
    | with_reducible refine KeepsR.next ?_
    | with_reducible refine Keeps.insn ?_ (fun _ _ => ?_)
    | with_reducible refine Keeps.setCc ?_
    | with_reducible refine Keeps.readEntry ?_
    | with_reducible refine Keeps.storeAt ?_
    | with_reducible refine KeepsE.ok ?_
    | with_reducible refine KeepsE.error ?_
    | with_reducible exact Ends.keeps_stop
    | with_reducible refine KeepsE.of_ok (by assumption) ?_
    | with_reducible refine KeepsE.of_error (by assumption) ?_
    | split
    | dsimp only

theorem execIomodify_keeps {s : State} {o : OpA} (hK : Keeps sb s) : KeepsR sb (execIomodify o s) := by
  unfold execIomodify insnIomodify formIo
  repeat' first
    | with_reducible assumption
    | with_reducible refine KeepsR.next ?_
    | with_reducible refine Keeps.insn ?_ (fun _ _ => ?_)
    | with_reducible refine Keeps.setCc ?_
    | with_reducible refine Keeps.loadAt ?_
    | with_reducible refine Keeps.onSub ?_ (fun _ _ _ => ?_)
    | with_reducible refine Keeps.wcFlush ?_
    | with_reducible refine Keeps.ioModify ?_
    | with_reducible refine KeepsE.ok ?_
    | with_reducible refine KeepsE.error ?_
    | with_reducible exact Ends.keeps_stop
    | with_reducible refine KeepsE1.of_ok (by assumption) ?_
    | with_reducible refine KeepsE1.of_error (by assumption) ?_
    | split
    | dsimp only

theorem Keeps.csDone {o : OpA} {x : CsOut} (hx : x.keeps sb) : Keeps sb (Machine.csDone o x) := by
  unfold Machine.csDone
  split
  · exact Keeps.setCc hx
  · exact (Keeps.setG hx).setCc
  · exact (Keeps.setG hx).setCc

theorem Keeps.rekey {t : State} {img : Nat} {old : Option Nat} (hK : Keeps sb t) : Keeps sb (t.rekey img old) := by
  unfold State.rekey
  repeat' first
    | with_reducible assumption
    | with_reducible refine Keeps.dropKey ?_
    | with_reducible refine Keeps.newKey ?_
    | with_reducible refine Keeps.ite ?_ ?_
    | split
    | dsimp only
    | with_reducible refine Keeps.upd ?_

theorem Keeps.csImageRun {s : State} {o : OpA} {b : List Byte} (hK : Keeps sb s) : Keeps sb (s.csImageRun o b) := by
  unfold State.csImageRun
  split
  · exact hK.setCc
  · split
    · exact hK.setCc
    · next img _ _ =>
      have h := hK.csImage (img := img) (b := b)
      split
      · next t e => rw [e] at h; exact Keeps.csDone (Keeps.rekey (t := t) h)
      · exact Keeps.csDone h

theorem execCsimageCreate_keeps {s : State} {o : OpA} (hK : Keeps sb s) : KeepsR sb (execCsimageCreate o s) := by
  unfold execCsimageCreate insnCsimageCreate formCsBlock
  repeat' first
    | with_reducible assumption
    | with_reducible refine KeepsR.next ?_
    | with_reducible refine Keeps.insn ?_ (fun _ _ => ?_)
    | with_reducible refine Keeps.loadAt ?_
    | with_reducible refine Keeps.csImageRun ?_
    | with_reducible refine KeepsE.ok ?_
    | with_reducible refine KeepsE.error ?_
    | with_reducible refine KeepsE1.of_ok (by assumption) ?_
    | with_reducible refine KeepsE1.of_error (by assumption) ?_
    | split
    | dsimp only

theorem execCsimageModify_keeps {s : State} {o : OpA} (hK : Keeps sb s) : KeepsR sb (execCsimageModify o s) := by
  unfold execCsimageModify insnCsimageModify formCsBlock
  repeat' first
    | with_reducible assumption
    | with_reducible refine KeepsR.next ?_
    | with_reducible refine Keeps.insn ?_ (fun _ _ => ?_)
    | with_reducible refine Keeps.loadAt ?_
    | with_reducible refine Keeps.csImageRun ?_
    | with_reducible refine KeepsE.ok ?_
    | with_reducible refine KeepsE.error ?_
    | with_reducible refine KeepsE1.of_ok (by assumption) ?_
    | with_reducible refine KeepsE1.of_error (by assumption) ?_
    | split
    | dsimp only

theorem execCsimageRemove_keeps {s : State} {o : OpA} (hK : Keeps sb s) : KeepsR sb (execCsimageRemove o s) := by
  unfold execCsimageRemove insnCsimageRemove formCsBlock
  repeat' first
    | with_reducible assumption
    | with_reducible refine KeepsR.next ?_
    | with_reducible refine Keeps.insn ?_ (fun _ _ => ?_)
    | with_reducible refine Keeps.loadAt ?_
    | with_reducible refine Keeps.csImageRun ?_
    | with_reducible refine KeepsE.ok ?_
    | with_reducible refine KeepsE.error ?_
    | with_reducible refine KeepsE1.of_ok (by assumption) ?_
    | with_reducible refine KeepsE1.of_error (by assumption) ?_
    | split
    | dsimp only

theorem Keeps.onImage {s : State} {o : OpA} {f : State → Nat → Image → CsOut} (hK : Keeps sb s)
    (hf : ∀ t n e, Keeps sb t → (f t n e).keeps sb) : Keeps sb (s.onImage o f) := by
  unfold State.onImage
  split
  · exact hK.setCc
  · split
    · exact hK.setCc
    · exact Keeps.csDone (hf _ _ _ hK)

theorem execCsmapMap_keeps {s : State} {o : OpA} (hK : Keeps sb s) : KeepsR sb (execCsmapMap o s) := by
  unfold execCsmapMap insnCsmapMap formCsBlock
  repeat' first
    | with_reducible assumption
    | with_reducible refine KeepsR.next ?_
    | with_reducible refine Keeps.insn ?_ (fun _ _ => ?_)
    | with_reducible refine Keeps.loadAt ?_
    | with_reducible refine Keeps.onImage ?_ (fun _ _ _ _ => ?_)
    | with_reducible refine Keeps.csMap ?_
    | with_reducible refine KeepsE.ok ?_
    | with_reducible refine KeepsE.error ?_
    | with_reducible refine KeepsE1.of_ok (by assumption) ?_
    | with_reducible refine KeepsE1.of_error (by assumption) ?_
    | split
    | dsimp only

theorem execCsmapUnmap_keeps {s : State} {o : OpA} (hK : Keeps sb s) : KeepsR sb (execCsmapUnmap o s) := by
  unfold execCsmapUnmap insnCsmapUnmap formCsBlock
  repeat' first
    | with_reducible assumption
    | with_reducible refine KeepsR.next ?_
    | with_reducible refine Keeps.insn ?_ (fun _ _ => ?_)
    | with_reducible refine Keeps.loadAt ?_
    | with_reducible refine Keeps.onImage ?_ (fun _ _ _ _ => ?_)
    | with_reducible refine Keeps.csMap ?_
    | with_reducible refine KeepsE.ok ?_
    | with_reducible refine KeepsE.error ?_
    | with_reducible refine KeepsE1.of_ok (by assumption) ?_
    | with_reducible refine KeepsE1.of_error (by assumption) ?_
    | split
    | dsimp only

theorem execCsmapReplace_keeps {s : State} {o : OpA} (hK : Keeps sb s) : KeepsR sb (execCsmapReplace o s) := by
  unfold execCsmapReplace insnCsmapReplace formCsBlock
  repeat' first
    | with_reducible assumption
    | with_reducible refine KeepsR.next ?_
    | with_reducible refine Keeps.insn ?_ (fun _ _ => ?_)
    | with_reducible refine Keeps.loadAt ?_
    | with_reducible refine Keeps.onImage ?_ (fun _ _ _ _ => ?_)
    | with_reducible refine Keeps.csMap ?_
    | with_reducible refine KeepsE.ok ?_
    | with_reducible refine KeepsE.error ?_
    | with_reducible refine KeepsE1.of_ok (by assumption) ?_
    | with_reducible refine KeepsE1.of_error (by assumption) ?_
    | split
    | dsimp only

theorem execCsshare_keeps {s : State} {o : OpA} (hK : Keeps sb s) : KeepsR sb (execCsshare o s) := by
  unfold execCsshare insnCsshare formCsBlock
  repeat' first
    | with_reducible assumption
    | with_reducible refine KeepsR.next ?_
    | with_reducible refine Keeps.insn ?_ (fun _ _ => ?_)
    | with_reducible refine Keeps.loadAt ?_
    | with_reducible refine Keeps.onImage ?_ (fun _ _ _ _ => ?_)
    | with_reducible refine Keeps.csShare ?_
    | with_reducible refine KeepsE.ok ?_
    | with_reducible refine KeepsE.error ?_
    | with_reducible refine KeepsE1.of_ok (by assumption) ?_
    | with_reducible refine KeepsE1.of_error (by assumption) ?_
    | split
    | dsimp only

theorem execCsquiesce_keeps {s : State} {o : OpA} (hK : Keeps sb s) : KeepsR sb (execCsquiesce o s) := by
  unfold execCsquiesce insnCsquiesce formCs
  repeat' first
    | with_reducible assumption
    | with_reducible refine KeepsR.next ?_
    | with_reducible refine Keeps.insn ?_ (fun _ _ => ?_)
    | with_reducible refine Keeps.onImage ?_ (fun _ _ _ _ => ?_)
    | with_reducible refine Keeps.csQuiesce ?_
    | with_reducible refine KeepsE.ok ?_

theorem execCsreset_keeps {s : State} {o : OpA} (hK : Keeps sb s) : KeepsR sb (execCsreset o s) := by
  unfold execCsreset insnCsreset formCs
  repeat' first
    | with_reducible assumption
    | with_reducible refine KeepsR.next ?_
    | with_reducible refine Keeps.insn ?_ (fun _ _ => ?_)
    | with_reducible refine Keeps.onImage ?_ (fun _ _ _ _ => ?_)
    | with_reducible refine Keeps.csReset ?_
    | with_reducible refine KeepsE.ok ?_

theorem Keeps.onEngine {s : State} {u : Nat} {cfn : Nat} {e : Nat × Nat} {run : State → Nat × Nat → Except Ends State} (hK : Keeps sb s) (hf : ∀ (x0 : State) (x1 : Nat × Nat), Keeps sb x0 → KeepsE sb (run x0 x1)) :
    KeepsE sb (s.onEngine u cfn e run) := by
  unfold State.onEngine
  repeat' first
    | with_reducible assumption
    | with_reducible refine Keeps.wsDeny ?_
    | with_reducible refine Keeps.setCc ?_
    | with_reducible refine hf _ _ ?_
    | with_reducible refine KeepsE.ok ?_
    | with_reducible refine KeepsE.error ?_
    | with_reducible exact Ends.keeps_wait
    | with_reducible refine Keeps.ite ?_ ?_
    | split
    | dsimp only

theorem State.slotCheck_keeps {s : State} {u : Nat} {va : Dword} {n : Nat} {k : AccKind} {e : Ends}
    (h : s.slotCheck u va n k = .error e) : e.keeps sb := by
  unfold State.slotCheck at h
  split at h
  · cases h; exact trivial
  · cases h

theorem Keeps.slotBlock {s : State} {u : Nat} {va : Dword} {n : Nat} (hK : Keeps sb s) : KeepsE1 sb (s.slotBlock u va n) := by
  unfold State.slotBlock
  split
  · next h => exact KeepsE1.error (KeepsE1.of_error h hK.loadAt)
  · next r h =>
    split
    · next h2 => exact KeepsE1.error (State.slotCheck_keeps h2)
    · exact KeepsE1.ok (KeepsE1.of_ok h hK.loadAt)

theorem Keeps.slotMove {s : State} {u : Nat} {e : Nat × Nat} {src : Nat} {n : Nat} {dst : Nat} {out : List Byte} (hK : Keeps sb s) :
    KeepsE sb (s.slotMove u e src n dst out) := by
  unfold State.slotMove
  repeat' first
    | with_reducible assumption
    | with_reducible refine Keeps.loadAt ?_
    | with_reducible refine Keeps.storeAt ?_
    | with_reducible refine Keeps.stage ?_
    | with_reducible refine Keeps.accCount ?_
    | with_reducible refine KeepsE.ok ?_
    | with_reducible refine KeepsE.error ?_
    | with_reducible refine KeepsE.of_ok (by assumption) ?_
    | with_reducible refine KeepsE.of_error (by assumption) ?_
    | with_reducible refine KeepsE1.of_ok (by assumption) ?_
    | with_reducible refine KeepsE1.of_error (by assumption) ?_
    | split
    | dsimp only
    | with_reducible refine Keeps.upd ?_

theorem Keeps.slotEnd {s : State} {u : Nat} {va : Dword} {b : List Byte} {cc : BitVec 2} (hK : Keeps sb s) :
    KeepsE sb (s.slotEnd u va b cc) := by
  unfold State.slotEnd
  repeat' first
    | with_reducible assumption
    | with_reducible refine Keeps.storeAt ?_
    | with_reducible refine Keeps.setCc ?_
    | with_reducible refine KeepsE.ok ?_
    | with_reducible refine KeepsE.error ?_
    | with_reducible refine KeepsE.of_ok (by assumption) ?_
    | with_reducible refine KeepsE.of_error (by assumption) ?_
    | split
    | dsimp only
    | with_reducible refine Keeps.upd ?_

theorem Keeps.goneSlot_body {u : Nat} {w : Word} {t : State} : KeepsE sb ((goneSlot u w).body t) := KeepsE.error Ends.keeps_stop

theorem Keeps.slotForm {o : OpC} {slot cfn least al : Nat} {run : State → Nat × Nat → Except Ends State} {s : State}
    (hr : ∀ t e, Keeps sb t → KeepsE sb (run t e)) {t : State} (ht : Keeps sb t) :
    KeepsE sb ((formSlot o slot cfn least al run s).body t) := by
  unfold formSlot
  split
  · exact goneSlot_body
  · dsimp only
    split
    · next e h =>
      unfold State.slotEngine at h
      dsimp only at h
      split at h
      · cases h
      · cases h
        refine KeepsE.error ?_
        split
        · exact Ends.keeps_wait
        · exact Ends.keeps_stop
    · exact ht.queueSeen.onEngine (fun _ _ h => hr _ _ h)

theorem execQuery_keeps {s : State} {o : OpC} {k : Fin 4} (hK : Keeps sb s) : KeepsR sb (execQuery o k s) := by
  refine .next (hK.insn fun t ht => ?_)
  exact Keeps.slotForm (fun _ _ h => by
    split
    · next h1 => exact KeepsE.error (KeepsE.of_error h1 (Keeps.storeAt h))
    · next h1 => exact KeepsE.ok (Keeps.setCc (KeepsE.of_ok h1 (Keeps.storeAt h)))) ht

theorem Keeps.contRead {s : State} {u : Nat} {ca : Nat} (hK : Keeps sb s) : KeepsE1 sb (s.contRead u ca) := by
  unfold State.contRead
  repeat' first
    | with_reducible assumption
    | with_reducible refine Keeps.loadAt ?_
    | with_reducible refine KeepsE1.ok ?_
    | with_reducible refine KeepsE1.error ?_
    | with_reducible refine KeepsE1.of_ok (by assumption) ?_
    | with_reducible refine KeepsE1.of_error (by assumption) ?_
    | split
    | dsimp only
    | with_reducible refine Keeps.upd ?_

theorem Keeps.contWrite {s : State} {u : Nat} {ca : Nat} {c : Cont} (hK : Keeps sb s) : KeepsE sb (s.contWrite u ca c) := by
  unfold State.contWrite
  repeat' first
    | with_reducible assumption
    | with_reducible refine Keeps.storeAt ?_
    | with_reducible refine KeepsE.ok ?_
    | with_reducible refine KeepsE.error ?_
    | with_reducible refine KeepsE.of_ok (by assumption) ?_
    | with_reducible refine KeepsE.of_error (by assumption) ?_
    | split
    | dsimp only
    | with_reducible refine Keeps.upd ?_

theorem Keeps.contBad {s : State} {u : Nat} {va : Dword} {b : List Byte} (hK : Keeps sb s) : KeepsE sb (s.contBad u va b) := by
  unfold State.contBad
  repeat' first
    | with_reducible assumption
    | with_reducible refine Keeps.slotEnd ?_
    | with_reducible refine KeepsE.ok ?_
    | with_reducible refine KeepsE.error ?_
    | with_reducible refine KeepsE.of_ok (by assumption) ?_
    | with_reducible refine KeepsE.of_error (by assumption) ?_
    | split
    | dsimp only

theorem Keeps.defMismatch {s : State} {u : Nat} {e : Nat × Nat} {detail : Nat} (hK : Keeps sb s) :
    Keeps sb (s.defMismatch u e detail) := by
  unfold State.defMismatch
  repeat' first
    | with_reducible assumption
    | with_reducible refine Keeps.errInc ?_
    | with_reducible refine Keeps.accSend ?_
    | with_reducible refine Keeps.accLeave ?_
    | split
    | dsimp only

theorem Keeps.defcmpEnd {s : State} {o : OpC} {e : Nat × Nat} {b : List Byte} {x : DefBlk} {rc : Nat} {cc : Nat} {detail : Nat} {st : Def} {out : List Bool} {ate : Nat} (hK : Keeps sb s) :
    KeepsE sb (s.defcmpEnd o e b x rc cc detail st out ate) := by
  unfold State.defcmpEnd
  repeat' first
    | with_reducible assumption
    | with_reducible refine Keeps.slotMove ?_
    | with_reducible refine Keeps.contWrite ?_
    | with_reducible refine Keeps.slotEnd ?_
    | with_reducible refine KeepsE.ok ?_
    | with_reducible refine KeepsE.error ?_
    | with_reducible refine KeepsE.of_ok (by assumption) ?_
    | with_reducible refine KeepsE.of_error (by assumption) ?_
    | split
    | dsimp only
    | with_reducible refine Keeps.upd ?_

theorem stopOf_keeps (x : Option Stop) : (stopOf x).keeps sb := by
  unfold stopOf
  split <;> exact trivial

theorem Keeps.defcmpRun {s : State} {o : OpC} {e : Nat × Nat} {b : List Byte} {x : DefBlk} {st0 : Def} (hK : Keeps sb s) :
    KeepsE sb (s.defcmpRun o e b x st0) := by
  unfold State.defcmpRun
  repeat' first
    | with_reducible assumption
    | with_reducible refine Keeps.defMismatch ?_
    | with_reducible refine Keeps.defcmpEnd ?_
    | with_reducible refine KeepsE.ok ?_
    | with_reducible refine KeepsE.error ?_
    | with_reducible exact stopOf_keeps _
    | with_reducible refine KeepsE.of_ok (by assumption) ?_
    | with_reducible refine KeepsE.of_error (by assumption) ?_
    | with_reducible refine Keeps.ite ?_ ?_
    | split
    | dsimp only
    | with_reducible refine Keeps.upd ?_

theorem Keeps.defOpen {s : State} {o : OpC} (hK : Keeps sb s) : KeepsE1 sb (s.defOpen o) := by
  unfold State.defOpen
  extract_lets va
  split
  · next h => exact KeepsE1.error (KeepsE1.of_error h hK.slotBlock)
  · next h =>
    have h1 := KeepsE1.of_ok h hK.slotBlock
    extract_lets x
    split
    · exact KeepsE1.error Ends.keeps_stop
    · split
      · next h2 => exact KeepsE1.error (State.slotCheck_keeps h2)
      · split
        · exact KeepsE1.ok h1
        · split
          · next h3 => exact KeepsE1.error (KeepsE1.of_error h3 h1.contRead)
          · next h3 => exact KeepsE1.ok (KeepsE1.of_ok h3 h1.contRead)

theorem execDefcmp_keeps {s : State} {o : OpC} (hK : Keeps sb s) : KeepsR sb (execDefcmp o s) := by
  refine .next (hK.insn fun t ht => ?_)
  exact Keeps.slotForm (fun _ _ h => by
    split
    · next h1 => exact KeepsE.error (KeepsE1.of_error h1 (Keeps.defOpen h))
    · next h1 =>
      have h2 := KeepsE1.of_ok h1 (Keeps.defOpen h)
      split
      · exact KeepsE.ok (Keeps.setCc h2)
      · split
        · exact Keeps.contBad h2
        · exact Keeps.defcmpRun h2) ht

theorem Keeps.defdcmEnd {s : State} {o : OpC} {e : Nat × Nat} {b : List Byte} {x : DefBlk} {rc : Nat} {cc : Nat} {detail : Nat} {need : Bool} {st : Inf} {used : Nat} {out : List Byte} (hK : Keeps sb s) :
    KeepsE sb (s.defdcmEnd o e b x rc cc detail need st used out) := by
  unfold State.defdcmEnd
  repeat' first
    | with_reducible assumption
    | with_reducible refine Keeps.slotMove ?_
    | with_reducible refine Keeps.contWrite ?_
    | with_reducible refine Keeps.slotEnd ?_
    | with_reducible refine KeepsE.ok ?_
    | with_reducible refine KeepsE.error ?_
    | with_reducible refine KeepsE.of_ok (by assumption) ?_
    | with_reducible refine KeepsE.of_error (by assumption) ?_
    | split
    | dsimp only
    | with_reducible refine Keeps.upd ?_

theorem Keeps.defdcmRun {s : State} {o : OpC} {e : Nat × Nat} {b : List Byte} {x : DefBlk} {st0 : Inf} (hK : Keeps sb s) :
    KeepsE sb (s.defdcmRun o e b x st0) := by
  unfold State.defdcmRun
  extract_lets room srcs r used out none_
  clear_value room srcs r used out none_
  have hx : ∀ n, KeepsE sb (.error (stopOf n)) := fun n => KeepsE.error (stopOf_keeps n)
  repeat' first
    | with_reducible exact hx _
    | with_reducible exact Keeps.defdcmEnd hK
    | split

theorem execDefdcm_keeps {s : State} {o : OpC} (hK : Keeps sb s) : KeepsR sb (execDefdcm o s) := by
  refine .next (hK.insn fun t ht => ?_)
  exact Keeps.slotForm (fun _ _ h => by
    split
    · next h1 => exact KeepsE.error (KeepsE1.of_error h1 (Keeps.defOpen h))
    · next h1 =>
      have h2 := KeepsE1.of_ok h1 (Keeps.defOpen h)
      split
      · exact KeepsE.ok (Keeps.setCc h2)
      · split
        · exact Keeps.contBad h2
        · exact Keeps.defdcmRun h2) ht

theorem Keeps.cryptoFail {s : State} {u : Nat} {e : Nat × Nat} {slot : Nat} {cfn : Nat} {fails : Nat} (hK : Keeps sb s) :
    Keeps sb (s.cryptoFail u e slot cfn fails) := by
  unfold State.cryptoFail
  repeat' first
    | with_reducible assumption
    | with_reducible refine Keeps.errInc ?_
    | with_reducible refine Keeps.accSend ?_
    | with_reducible refine Keeps.accLeave ?_
    | with_reducible refine Keeps.ite ?_ ?_
    | split
    | dsimp only

theorem Keeps.keyFail {s : State} {u : Nat} {e : Nat × Nat} {rc : Nat} {block : List Byte} (hK : Keeps sb s) :
    Keeps sb (s.keyFail u e rc block) := by
  unfold State.keyFail
  repeat' first
    | with_reducible assumption
    | with_reducible refine Keeps.accSend ?_
    | with_reducible refine Keeps.ite ?_ ?_
    | split
    | dsimp only

theorem Keeps.chainRead {s : State} {f : SymFn} {x : SymBlk} {key : List Byte} (hK : Keeps sb s) :
    Keeps sb (s.chainRead f x key).1 := by
  unfold State.chainRead
  repeat' first
    | with_reducible assumption
    | with_reducible refine Keeps.ite ?_ ?_
    | with_reducible refine Keeps.of_fst (by assumption) ?_
    | split
    | dsimp only
    | with_reducible refine Keeps.upd ?_

theorem Keeps.symClose {s : State} {u : Nat} {va : Dword} {b : List Byte} {x : SymBlk} {rc : Nat} {ate : Nat} {out : Nat} {aadAte : Nat} {tag : List Byte} {c : Chain} {cc : Nat} (hK : Keeps sb s) :
    KeepsE sb (s.symClose u va b x rc ate out aadAte tag c cc) := by
  unfold State.symClose
  repeat' first
    | with_reducible assumption
    | with_reducible refine Keeps.slotEnd ?_
    | with_reducible refine KeepsE.ok ?_
    | with_reducible refine KeepsE.error ?_
    | with_reducible refine KeepsE.of_ok (by assumption) ?_
    | with_reducible refine KeepsE.of_error (by assumption) ?_
    | with_reducible refine Keeps.ite ?_ ?_
    | split
    | dsimp only
    | with_reducible refine Keeps.upd ?_

theorem Keeps.symStore {s : State} {u : Nat} {va : Dword} {e : Nat × Nat} {b : List Byte} {x : SymBlk} {rc : Nat} {cc : Nat} {ate : Nat} {aadAte : Nat} {data : List Byte} {tag : List Byte} {c : Chain} (hK : Keeps sb s) :
    KeepsE sb (s.symStore u va e b x rc cc ate aadAte data tag c) := by
  unfold State.symStore
  repeat' first
    | with_reducible assumption
    | with_reducible refine Keeps.slotMove ?_
    | with_reducible refine Keeps.symClose ?_
    | with_reducible refine KeepsE.ok ?_
    | with_reducible refine KeepsE.error ?_
    | with_reducible refine KeepsE.of_ok (by assumption) ?_
    | with_reducible refine KeepsE.of_error (by assumption) ?_
    | split
    | dsimp only
    | with_reducible refine Keeps.upd ?_

theorem Keeps.symData {s0 : State} {o : OpC} {f : SymFn} {dec : Bool} {cfn : Nat} {e : Nat × Nat} {b : List Byte} {x : SymBlk} {key : List Byte} {c : Chain} {aadAte : Nat} {cut : Option Nat} (hK : Keeps sb s0) :
    KeepsE sb (s0.symData o f dec cfn e b x key c aadAte cut) := by
  unfold State.symData
  repeat' first
    | with_reducible assumption
    | with_reducible refine Keeps.cryptoFail ?_
    | with_reducible refine Keeps.symStore ?_
    | with_reducible refine KeepsE.ok ?_
    | with_reducible refine KeepsE.error ?_
    | with_reducible exact stopOf_keeps _
    | with_reducible refine KeepsE.of_ok (by assumption) ?_
    | with_reducible refine KeepsE.of_error (by assumption) ?_
    | with_reducible refine Keeps.ite ?_ ?_
    | split
    | dsimp only
    | with_reducible refine Keeps.upd ?_

theorem Keeps.symAad {s : State} {o : OpC} {f : SymFn} {dec : Bool} {cfn : Nat} {e : Nat × Nat} {b : List Byte} {x : SymBlk} {key : List Byte} {c : Chain} (hK : Keeps sb s) :
    KeepsE sb (s.symAad o f dec cfn e b x key c) := by
  unfold State.symAad
  repeat' first
    | with_reducible assumption
    | with_reducible refine Keeps.symData ?_
    | with_reducible refine Keeps.loadAt ?_
    | with_reducible refine Keeps.stage ?_
    | with_reducible refine Keeps.accCount ?_
    | with_reducible refine Keeps.symClose ?_
    | with_reducible refine KeepsE.ok ?_
    | with_reducible refine KeepsE.error ?_
    | with_reducible exact stopOf_keeps _
    | with_reducible refine KeepsE.of_ok (by assumption) ?_
    | with_reducible refine KeepsE.of_error (by assumption) ?_
    | with_reducible refine KeepsE1.of_ok (by assumption) ?_
    | with_reducible refine KeepsE1.of_error (by assumption) ?_
    | with_reducible refine Keeps.ite ?_ ?_
    | split
    | dsimp only
    | with_reducible refine Keeps.upd ?_

theorem Keeps.symRun {s : State} {o : OpC} {f : SymFn} {dec : Bool} {cfn : Nat} {e : Nat × Nat} (hK : Keeps sb s) :
    KeepsE sb (s.symRun o f dec cfn e) := by
  unfold State.symRun
  repeat' first
    | with_reducible assumption
    | with_reducible refine Keeps.slotBlock ?_
    | with_reducible refine Keeps.keyFail ?_
    | with_reducible refine Keeps.slotEnd ?_
    | with_reducible refine Keeps.chainRead ?_
    | with_reducible refine Keeps.symAad ?_
    | with_reducible refine KeepsE.ok ?_
    | with_reducible refine KeepsE.error ?_
    | with_reducible exact Ends.keeps_stop
    | with_reducible refine KeepsE.of_ok (by assumption) ?_
    | with_reducible refine KeepsE.of_error (by assumption) ?_
    | with_reducible refine KeepsE1.of_ok (by assumption) ?_
    | with_reducible refine KeepsE1.of_error (by assumption) ?_
    | with_reducible refine Keeps.ite ?_ ?_
    | with_reducible refine Keeps.of_fst (by assumption) ?_
    | split
    | dsimp only
    | with_reducible refine Keeps.upd ?_

theorem execAesGcmEncrypt_keeps {s : State} {o : OpC} (hK : Keeps sb s) : KeepsR sb (execAesGcmEncrypt o s) := by
  refine .next (hK.insn fun t ht => ?_)
  exact Keeps.slotForm (fun _ _ h => Keeps.symRun h) ht

theorem execAesGcmDecrypt_keeps {s : State} {o : OpC} (hK : Keeps sb s) : KeepsR sb (execAesGcmDecrypt o s) := by
  refine .next (hK.insn fun t ht => ?_)
  exact Keeps.slotForm (fun _ _ h => Keeps.symRun h) ht

theorem execAesXtsEncrypt_keeps {s : State} {o : OpC} (hK : Keeps sb s) : KeepsR sb (execAesXtsEncrypt o s) := by
  refine .next (hK.insn fun t ht => ?_)
  exact Keeps.slotForm (fun _ _ h => Keeps.symRun h) ht

theorem execAesXtsDecrypt_keeps {s : State} {o : OpC} (hK : Keeps sb s) : KeepsR sb (execAesXtsDecrypt o s) := by
  refine .next (hK.insn fun t ht => ?_)
  exact Keeps.slotForm (fun _ _ h => Keeps.symRun h) ht

theorem execAesCbcEncrypt_keeps {s : State} {o : OpC} (hK : Keeps sb s) : KeepsR sb (execAesCbcEncrypt o s) := by
  refine .next (hK.insn fun t ht => ?_)
  exact Keeps.slotForm (fun _ _ h => Keeps.symRun h) ht

theorem execAesCbcDecrypt_keeps {s : State} {o : OpC} (hK : Keeps sb s) : KeepsR sb (execAesCbcDecrypt o s) := by
  refine .next (hK.insn fun t ht => ?_)
  exact Keeps.slotForm (fun _ _ h => Keeps.symRun h) ht

theorem execAesCtr_keeps {s : State} {o : OpC} (hK : Keeps sb s) : KeepsR sb (execAesCtr o s) := by
  refine .next (hK.insn fun t ht => ?_)
  exact Keeps.slotForm (fun _ _ h => Keeps.symRun h) ht

theorem execHash_keeps {s : State} {o : OpC} (hK : Keeps sb s) : KeepsR sb (execHash o s) := by
  refine .next (hK.insn fun t ht => ?_)
  exact Keeps.slotForm (fun _ _ h => Keeps.symRun h) ht

theorem Keeps.pkwrapSym {s : State} {o : OpC} {e : Nat × Nat} (hK : Keeps sb s) : KeepsE sb (s.pkwrapSym o e) := by
  unfold State.pkwrapSym
  repeat' first
    | with_reducible assumption
    | with_reducible refine Keeps.slotBlock ?_
    | with_reducible refine Keeps.slotEnd ?_
    | with_reducible refine Keeps.setCc ?_
    | with_reducible refine Keeps.cryptoFail ?_
    | with_reducible refine KeepsE.ok ?_
    | with_reducible refine KeepsE.error ?_
    | with_reducible exact Ends.keeps_stop
    | with_reducible refine KeepsE.of_ok (by assumption) ?_
    | with_reducible refine KeepsE.of_error (by assumption) ?_
    | with_reducible refine KeepsE1.of_ok (by assumption) ?_
    | with_reducible refine KeepsE1.of_error (by assumption) ?_
    | with_reducible refine Keeps.ite ?_ ?_
    | split
    | dsimp only
    | with_reducible refine Keeps.upd ?_

theorem execPkwrapSymmetric_keeps {s : State} {o : OpC} (hK : Keeps sb s) : KeepsR sb (execPkwrapSymmetric o s) := by
  refine .next (hK.insn fun t ht => ?_)
  exact Keeps.slotForm (fun _ _ h => Keeps.pkwrapSym h) ht

theorem Keeps.pkLoad {s : State} {u : Nat} {b : List Byte} {l : List Nat} (hK : Keeps sb s) : KeepsE1 sb (s.pkLoad u b l) := by
  induction l generalizing s with
  | nil => exact KeepsE1.ok hK
  | cons k l ih =>
    unfold State.pkLoad
    split
    · next h => exact KeepsE1.error (KeepsE1.of_error h hK.loadAt)
    · next h =>
      have h1 := ih (KeepsE1.of_ok h hK.loadAt)
      split
      · next h2 => exact KeepsE1.error (KeepsE1.of_error h2 h1)
      · next h2 => exact KeepsE1.ok (KeepsE1.of_ok h2 h1)

theorem Keeps.pkStore {s : State} {u : Nat} {e : Nat × Nat} {b : List Byte} {l : List (Nat × List Byte)} (hK : Keeps sb s) :
    KeepsE sb (s.pkStore u e b l) := by
  induction l generalizing s with
  | nil => exact KeepsE.ok hK
  | cons x l ih =>
    unfold State.pkStore
    split
    · next h => exact KeepsE.error (KeepsE.of_error h hK.storeAt)
    · next h => exact ih (KeepsE.of_ok h hK.storeAt).accCount

theorem State.pkAccess_keeps {s : State} {u : Nat} {f : PkFn} {b : List Byte} {e : Ends} (h : s.pkAccess u f b = .error e) : e.keeps sb := by
  unfold State.pkAccess at h
  extract_lets a rs at h
  split at h
  · next r hr =>
    have hm := List.mem_of_find?_eq_some hr
    simp only [rs, List.mem_filterMap] at hm
    obtain ⟨k, _, hk⟩ := hm
    subst h
    split at hk
    · exact State.slotCheck_keeps (Option.some.inj hk)
    · split at hk
      · exact State.slotCheck_keeps (Option.some.inj hk)
      · cases hk
  · cases h

theorem Keeps.pkOpen {s : State} {o : OpC} {f : PkFn} (hK : Keeps sb s) : KeepsE1 sb (s.pkOpen o f) := by
  unfold State.pkOpen
  extract_lets va
  split
  · next h => exact KeepsE1.error (KeepsE1.of_error h hK.slotBlock)
  · next h =>
    have h1 := KeepsE1.of_ok h hK.slotBlock
    split
    · exact KeepsE1.error Ends.keeps_stop
    · split
      · next h2 => exact KeepsE1.error (State.pkAccess_keeps h2)
      · exact KeepsE1.ok h1

theorem Keeps.pkRun {s : State} {o : OpC} {f : PkFn} {e : Nat × Nat} (hK : Keeps sb s) : KeepsE sb (s.pkRun o f e) := by
  unfold State.pkRun
  repeat' first
    | with_reducible assumption
    | with_reducible refine Keeps.pkOpen ?_
    | with_reducible refine Keeps.slotEnd ?_
    | with_reducible refine Keeps.pkLoad ?_
    | with_reducible refine Keeps.keyFail ?_
    | with_reducible refine Keeps.stage ?_
    | with_reducible refine Keeps.accCount ?_
    | with_reducible refine Keeps.cryptoFail ?_
    | with_reducible refine Keeps.setCc ?_
    | with_reducible refine Keeps.generate ?_
    | with_reducible refine Keeps.pkStore ?_
    | with_reducible refine KeepsE.ok ?_
    | with_reducible refine KeepsE.error ?_
    | with_reducible refine KeepsE.of_ok (by assumption) ?_
    | with_reducible refine KeepsE.of_error (by assumption) ?_
    | with_reducible refine KeepsE1.of_ok (by assumption) ?_
    | with_reducible refine KeepsE1.of_error (by assumption) ?_
    | with_reducible refine Keeps.ite ?_ ?_
    | with_reducible refine Keeps.of_snd (by assumption) ?_
    | split
    | dsimp only
    | with_reducible refine Keeps.upd ?_

theorem KeepsR.otherSlot {s : State} {u : Nat} {w : Word} (hK : Keeps sb s) : KeepsR sb (s.otherSlot u w) := by
  unfold State.otherSlot
  split
  · split
    · next h => exact .next (hK.enter_error h)
    · exact .refused
  · exact .next (hK.insn fun _ _ => Keeps.goneSlot_body)

theorem execSign_keeps {s : State} {o : OpC} (hK : Keeps sb s) : KeepsR sb (execSign o s) := by
  refine .next (hK.insn fun t ht => ?_)
  exact Keeps.slotForm (fun _ _ h => Keeps.pkRun h) ht

theorem execVerify_keeps {s : State} {o : OpC} (hK : Keeps sb s) : KeepsR sb (execVerify o s) := by
  refine .next (hK.insn fun t ht => ?_)
  exact Keeps.slotForm (fun _ _ h => Keeps.pkRun h) ht

theorem execKeygen_keeps {s : State} {o : OpC} (hK : Keeps sb s) : KeepsR sb (execKeygen o s) := by
  refine .next (hK.insn fun t ht => ?_)
  exact Keeps.slotForm (fun _ _ h => Keeps.pkRun h) ht

theorem execEncaps_keeps {s : State} {o : OpC} (hK : Keeps sb s) : KeepsR sb (execEncaps o s) := by
  refine .next (hK.insn fun t ht => ?_)
  exact Keeps.slotForm (fun _ _ h => Keeps.pkRun h) ht

theorem execDecaps_keeps {s : State} {o : OpC} (hK : Keeps sb s) : KeepsR sb (execDecaps o s) := by
  refine .next (hK.insn fun t ht => ?_)
  exact Keeps.slotForm (fun _ _ h => Keeps.pkRun h) ht

theorem Keeps.pkwrapPk {s : State} {o : OpC} {e : Nat × Nat} (hK : Keeps sb s) : KeepsE sb (s.pkwrapPk o e) := by
  unfold State.pkwrapPk
  repeat' first
    | with_reducible assumption
    | with_reducible refine Keeps.pkOpen ?_
    | with_reducible refine Keeps.slotEnd ?_
    | with_reducible refine Keeps.pkLoad ?_
    | with_reducible refine Keeps.stage ?_
    | with_reducible refine Keeps.accCount ?_
    | with_reducible refine Keeps.cryptoFail ?_
    | with_reducible refine Keeps.setCc ?_
    | with_reducible refine Keeps.pkStore ?_
    | with_reducible refine KeepsE.ok ?_
    | with_reducible refine KeepsE.error ?_
    | with_reducible refine KeepsE.of_ok (by assumption) ?_
    | with_reducible refine KeepsE.of_error (by assumption) ?_
    | with_reducible refine KeepsE1.of_ok (by assumption) ?_
    | with_reducible refine KeepsE1.of_error (by assumption) ?_
    | with_reducible refine Keeps.ite ?_ ?_
    | split
    | dsimp only
    | with_reducible refine Keeps.upd ?_

theorem execPkwrapPrivate_keeps {s : State} {o : OpC} (hK : Keeps sb s) : KeepsR sb (execPkwrapPrivate o s) := by
  refine .next (hK.insn fun t ht => ?_)
  exact Keeps.slotForm (fun _ _ h => Keeps.pkwrapPk h) ht

theorem Keeps.rndg {s : State} {u : Nat} {ra : BitVec 5} (hK : Keeps sb s) : KeepsE sb (s.rndg u ra) := by
  unfold State.rndg
  repeat' first
    | with_reducible assumption
    | with_reducible refine Keeps.setG ?_
    | with_reducible refine Keeps.setCc ?_
    | with_reducible refine Keeps.refillRnd ?_
    | with_reducible refine Keeps.modCore ?_
    | with_reducible refine KeepsE.ok ?_
    | with_reducible refine KeepsE.error ?_
    | with_reducible refine Ends.keeps_check ?_
    | with_reducible exact Ends.keeps_wait
    | with_reducible refine Keeps.ite ?_ ?_
    | split
    | dsimp only
    | with_reducible refine Keeps.upd ?_

theorem execRndg_keeps {s : State} {o : OpC} (hK : Keeps sb s) : KeepsR sb (execRndg o s) := by
  unfold execRndg insnRndg formRnd goneSlot
  repeat' first
    | with_reducible assumption
    | with_reducible refine KeepsR.next ?_
    | with_reducible refine Keeps.insn ?_ (fun _ _ => ?_)
    | with_reducible refine Keeps.rndg ?_
    | with_reducible refine KeepsE.ok ?_
    | with_reducible refine KeepsE.error ?_
    | with_reducible exact Ends.keeps_stop
    | split

theorem execReseed_keeps {s : State} {o : OpC} (hK : Keeps sb s) : KeepsR sb (execReseed o s) := by
  unfold execReseed insnReseed formRnd goneSlot
  repeat' first
    | with_reducible assumption
    | with_reducible refine KeepsR.next ?_
    | with_reducible refine Keeps.insn ?_ (fun _ _ => ?_)
    | with_reducible refine Keeps.setCc ?_
    | with_reducible refine Keeps.reseedAll ?_
    | with_reducible refine KeepsE.ok ?_
    | with_reducible refine KeepsE.error ?_
    | with_reducible exact Ends.keeps_stop
    | split

theorem Keeps.rndb {s : State} {o : OpC} {e : Nat × Nat} (hK : Keeps sb s) : KeepsE sb (s.rndb o e) := by
  unfold State.rndb
  repeat' first
    | with_reducible assumption
    | with_reducible refine Keeps.slotBlock ?_
    | with_reducible refine Keeps.slotEnd ?_
    | with_reducible refine Keeps.generate ?_
    | with_reducible refine Keeps.storeAt ?_
    | with_reducible refine Keeps.stage ?_
    | with_reducible refine Keeps.accCount ?_
    | with_reducible refine KeepsE.ok ?_
    | with_reducible refine KeepsE.error ?_
    | with_reducible exact stopOf_keeps _
    | with_reducible exact Ends.keeps_stop
    | with_reducible refine KeepsE.of_ok (by assumption) ?_
    | with_reducible refine KeepsE.of_error (by assumption) ?_
    | with_reducible refine KeepsE1.of_ok (by assumption) ?_
    | with_reducible refine KeepsE1.of_error (by assumption) ?_
    | with_reducible refine Keeps.ite ?_ ?_
    | with_reducible refine Keeps.of_snd (by assumption) ?_
    | split
    | dsimp only
    | with_reducible refine Keeps.upd ?_

theorem execRndb_keeps {s : State} {o : OpC} (hK : Keeps sb s) : KeepsR sb (execRndb o s) := by
  refine .next (hK.insn fun t ht => ?_)
  exact Keeps.slotForm (fun _ _ h => Keeps.rndb h) ht

theorem execCoprocessorUnavailable_keeps {s : State} {u : Uid} {w : Word} (hK : Keeps sb s) : KeepsR sb (execCoprocessorUnavailable u w s) := by
  unfold execCoprocessorUnavailable
  split
  · exact KeepsR.otherSlot hK
  · exact .fault

theorem execCustomerSlotInstruction_keeps {s : State} {u : Uid} {w : Word} (hK : Keeps sb s) : KeepsR sb (execCustomerSlotInstruction u w s) := by
  unfold execCustomerSlotInstruction
  split
  · exact KeepsR.otherSlot hK
  · exact .fault

theorem execOperationException_keeps {s : State} {u : Uid} {w : Word} (hK : Keeps sb s) : KeepsR sb (execOperationException u w s) := by
  unfold execOperationException insnOperation goneSlot
  repeat' first
    | with_reducible assumption
    | with_reducible refine KeepsR.next ?_
    | with_reducible exact KeepsR.fault
    | with_reducible refine Keeps.insn ?_ (fun _ _ => ?_)
    | with_reducible refine KeepsE.ok ?_
    | with_reducible refine KeepsE.error ?_
    | with_reducible exact Ends.keeps_stop
    | split

end Sys2Proof.Machine
end

