-- ==== Sys2Proof/Laws/KeepsEvents.lean ====
section
/-! SUPPORT. What they keep: the events. -/
namespace Sys2Proof.Machine
open Sys2Proof

variable {sb : State}

theorem Keeps.unlessFrozen {s t : State} (hK : Keeps sb s) (ht : Keeps sb t) : Keeps sb (s.unlessFrozen t) := Keeps.ite hK ht

theorem Keeps.takeNext {s : State} {u : Nat} {p : Bound → Bool} (hK : Keeps sb s) : Keeps sb (s.takeNext u p) := by
  unfold State.takeNext
  extract_lets s1 b
  have h1 : Keeps sb s1 := by
    simp only [s1]
    split
    · exact hK.act
    · exact hK
  exact Keeps.ite h1.act hK

theorem execExternalInterruption_keeps {u : Uid} {s : State} (hK : Keeps sb s) : KeepsR sb (execExternalInterruption u s) := by
  unfold execExternalInterruption
  repeat' first
    | with_reducible assumption
    | with_reducible refine KeepsR.next ?_
    | with_reducible refine Keeps.takeNext ?_
    | split
    | dsimp only

theorem execIoInterruption_keeps {n : CpuNo} {s : State} (hK : Keeps sb s) : KeepsR sb (execIoInterruption n s) := by
  unfold execIoInterruption
  repeat' first
    | with_reducible assumption
    | with_reducible refine KeepsR.next ?_
    | with_reducible refine Keeps.takeNext ?_
    | split
    | dsimp only

theorem execMachineCheckInterruption_keeps {n : CpuNo} {s : State} (hK : Keeps sb s) :
    KeepsR sb (execMachineCheckInterruption n s) := by
  unfold execMachineCheckInterruption
  repeat' first
    | with_reducible assumption
    | with_reducible refine KeepsR.next ?_
    | with_reducible refine Keeps.takeNext ?_
    | split
    | dsimp only

theorem execRestartInterruption_keeps {n : CpuNo} {s : State} (hK : Keeps sb s) : KeepsR sb (execRestartInterruption n s) := by
  unfold execRestartInterruption
  repeat' first
    | with_reducible assumption
    | with_reducible refine KeepsR.next ?_
    | with_reducible refine Keeps.takeNext ?_
    | split
    | dsimp only

theorem execCpuTimerCondition_keeps {u : Uid} {s : State} (hK : Keeps sb s) : KeepsR sb (execCpuTimerCondition u s) := by
  unfold execCpuTimerCondition
  repeat' first
    | with_reducible assumption
    | with_reducible refine KeepsR.next ?_
    | with_reducible refine Keeps.passUnits ?_
    | with_reducible refine Keeps.ite ?_ ?_
    | split
    | dsimp only

theorem execClockComparatorCondition_keeps {u : Uid} {s : State} (hK : Keeps sb s) :
    KeepsR sb (execClockComparatorCondition u s) := by
  unfold execClockComparatorCondition
  repeat' first
    | with_reducible assumption
    | with_reducible refine KeepsR.next ?_
    | with_reducible refine Keeps.passUnits ?_
    | with_reducible refine Keeps.ite ?_ ?_
    | split
    | dsimp only

theorem execMismatchRetry_keeps {n : CpuNo} {s : State} (hK : Keeps sb s) : KeepsR sb (execMismatchRetry n s) := by
  unfold execMismatchRetry
  repeat' first
    | with_reducible assumption
    | with_reducible refine KeepsR.next ?_
    | with_reducible refine Keeps.unlessFrozen ?_ ?_
    | with_reducible refine Keeps.mismatch ?_
    | split
    | dsimp only

theorem execSquashedMismatch_keeps {n : CpuNo} {ia : Word} {s : State} (hK : Keeps sb s) :
    KeepsR sb (execSquashedMismatch n ia s) := by
  unfold execSquashedMismatch
  repeat' first
    | with_reducible assumption
    | with_reducible refine KeepsR.next ?_
    | with_reducible refine Keeps.unitSend ?_
    | with_reducible refine Keeps.ite ?_ ?_
    | split
    | dsimp only

theorem execLogicSelftestEnd_keeps {n : CpuNo} {v : Verdict} {s : State} (hK : Keeps sb s) :
    KeepsR sb (execLogicSelftestEnd n v s) := by
  unfold execLogicSelftestEnd
  repeat' first
    | with_reducible assumption
    | with_reducible refine KeepsR.next ?_
    | with_reducible refine Keeps.unlessFrozen ?_ ?_
    | with_reducible refine Keeps.dropInj ?_
    | with_reducible refine Keeps.selfTestEnd ?_
    | with_reducible refine Keeps.ite ?_ ?_
    | split
    | dsimp only
    | with_reducible refine Keeps.upd ?_

theorem execComparatorFault_keeps {n : CpuNo} {parity : Bool} {s : State} (hK : Keeps sb s) :
    KeepsR sb (execComparatorFault n parity s) := by
  unfold execComparatorFault
  repeat' first
    | with_reducible assumption
    | with_reducible refine KeepsR.next ?_
    | with_reducible refine Keeps.unlessFrozen ?_ ?_
    | with_reducible refine Keeps.comparatorFault ?_
    | split
    | dsimp only

theorem execSpareSelftestEnd_keeps {die : CxDie} {cluster : Fin 2} {pass : Bool} {s : State} (hK : Keeps sb s) :
    KeepsR sb (execSpareSelftestEnd die cluster pass s) := by
  unfold execSpareSelftestEnd
  repeat' first
    | with_reducible assumption
    | with_reducible refine KeepsR.next ?_
    | with_reducible refine Keeps.unlessFrozen ?_ ?_
    | with_reducible refine Keeps.spareTestEnd ?_
    | split
    | dsimp only

theorem execMoveComplete_keeps {n : CpuNo} {readable : Bool} {s : State} (hK : Keeps sb s) :
    KeepsR sb (execMoveComplete n readable s) := by
  unfold execMoveComplete
  repeat' first
    | with_reducible assumption
    | with_reducible refine KeepsR.next ?_
    | with_reducible refine Keeps.unlessFrozen ?_ ?_
    | with_reducible refine Keeps.moveComplete ?_
    | split
    | dsimp only

theorem execFailingCoreSweepEnd_keeps {core : CoreNo} {s : State} (hK : Keeps sb s) :
    KeepsR sb (execFailingCoreSweepEnd core s) := by
  unfold execFailingCoreSweepEnd
  repeat' first
    | with_reducible assumption
    | with_reducible refine KeepsR.next ?_
    | with_reducible refine Keeps.unlessFrozen ?_ ?_
    | with_reducible refine Keeps.coreSweepEnd ?_
    | split
    | dsimp only

theorem execSvCmapWrite_keeps {n : CpuNo} {v : Dword} {s : State} (hK : Keeps sb s) : KeepsR sb (execSvCmapWrite n v s) := by
  unfold execSvCmapWrite
  repeat' first
    | with_reducible assumption
    | with_reducible refine KeepsR.next ?_
    | with_reducible refine Keeps.regWrite ?_
    | split
    | dsimp only

theorem execRandomBufferRefill_keeps {core : CoreNo} {s : State} (hK : Keeps sb s) :
    KeepsR sb (execRandomBufferRefill core s) := by
  unfold execRandomBufferRefill
  repeat' first
    | with_reducible assumption
    | with_reducible refine KeepsR.next ?_
    | with_reducible refine Keeps.unlessFrozen ?_ ?_
    | with_reducible refine Keeps.refillRnd ?_
    | with_reducible refine Keeps.ite ?_ ?_
    | split
    | dsimp only

theorem execDrbgReseedCount_keeps {die : Fin 10} {inst : Fin 8} {s : State} (hK : Keeps sb s) :
    KeepsR sb (execDrbgReseedCount die inst s) := by
  unfold execDrbgReseedCount
  repeat' first
    | with_reducible assumption
    | with_reducible refine KeepsR.next ?_
    | with_reducible refine Keeps.unlessFrozen ?_ ?_
    | with_reducible refine Keeps.reseedCount ?_
    | with_reducible refine Keeps.ite ?_ ?_
    | split
    | dsimp only

theorem execHealthTestFailed_keeps {die : Fin 10} {s : State} (hK : Keeps sb s) : KeepsR sb (execHealthTestFailed die s) := by
  unfold execHealthTestFailed
  repeat' first
    | with_reducible assumption
    | with_reducible refine KeepsR.next ?_
    | with_reducible refine Keeps.unlessFrozen ?_ ?_
    | with_reducible refine Keeps.healthFail ?_
    | split
    | dsimp only

theorem execLineFillArrival_keeps {core : CoreNo} {a : Pa} {s : State} (hK : Keeps sb s) :
    KeepsR sb (execLineFillArrival core a s) := by
  unfold execLineFillArrival
  repeat' first
    | with_reducible assumption
    | with_reducible refine KeepsR.next ?_
    | with_reducible refine Keeps.unlessFrozen ?_ ?_
    | with_reducible refine Keeps.fillArrives ?_
    | split
    | dsimp only

theorem execVictimAccepted_keeps {core : CoreNo} {a : Pa} {s : State} (hK : Keeps sb s) :
    KeepsR sb (execVictimAccepted core a s) := by
  unfold execVictimAccepted
  repeat' first
    | with_reducible assumption
    | with_reducible refine KeepsR.next ?_
    | with_reducible refine Keeps.unlessFrozen ?_ ?_
    | with_reducible refine Keeps.victimAccepted ?_
    | split
    | dsimp only

theorem execHomeReadRequest_keeps {die : CxDie} {a : Pa} {s : State} (hK : Keeps sb s) :
    KeepsR sb (execHomeReadRequest die a s) := by
  unfold execHomeReadRequest
  repeat' first
    | with_reducible assumption
    | with_reducible refine KeepsR.next ?_
    | with_reducible refine Keeps.unlessFrozen ?_ ?_
    | with_reducible refine Keeps.homeRead ?_
    | with_reducible refine Keeps.ite ?_ ?_
    | with_reducible refine Keeps.of_fst (by assumption) ?_
    | split
    | dsimp only

theorem execHomeOwnershipRequest_keeps {die : CxDie} {a : Pa} {s : State} (hK : Keeps sb s) :
    KeepsR sb (execHomeOwnershipRequest die a s) := by
  unfold execHomeOwnershipRequest
  repeat' first
    | with_reducible assumption
    | with_reducible refine KeepsR.next ?_
    | with_reducible refine Keeps.unlessFrozen ?_ ?_
    | with_reducible refine Keeps.homeOwn ?_
    | with_reducible refine Keeps.ite ?_ ?_
    | split
    | dsimp only

theorem execHomeWriteback_keeps {die : CxDie} {a : Pa} {s : State} (hK : Keeps sb s) :
    KeepsR sb (execHomeWriteback die a s) := by
  unfold execHomeWriteback
  repeat' first
    | with_reducible assumption
    | with_reducible refine KeepsR.next ?_
    | with_reducible refine Keeps.unlessFrozen ?_ ?_
    | with_reducible refine Keeps.homeWriteback ?_
    | with_reducible refine Keeps.ite ?_ ?_
    | split
    | dsimp only

theorem execCoherenceRemoval_keeps {core : CoreNo} {a : Pa} {s : State} (hK : Keeps sb s) :
    KeepsR sb (execCoherenceRemoval core a s) := by
  unfold execCoherenceRemoval
  repeat' first
    | with_reducible assumption
    | with_reducible refine KeepsR.next ?_
    | with_reducible refine Keeps.unlessFrozen ?_ ?_
    | with_reducible refine Keeps.removeL2 ?_
    | split
    | dsimp only

theorem execEngineStorageRead_keeps {a : Pa} {len : Nat} {s : State} (hK : Keeps sb s) :
    KeepsR sb (execEngineStorageRead a len s) := by
  unfold execEngineStorageRead
  repeat' first
    | with_reducible assumption
    | with_reducible refine KeepsR.next ?_
    | with_reducible refine Keeps.unlessFrozen ?_ ?_
    | with_reducible refine Keeps.engRead ?_
    | with_reducible exact KeepsR.fault
    | with_reducible refine Keeps.ite ?_ ?_
    | split
    | dsimp only

theorem execEngineStorageWrite_keeps {a : Pa} {data : List Byte} {s : State} (hK : Keeps sb s) :
    KeepsR sb (execEngineStorageWrite a data s) := by
  unfold execEngineStorageWrite
  repeat' first
    | with_reducible assumption
    | with_reducible refine KeepsR.next ?_
    | with_reducible refine Keeps.unlessFrozen ?_ ?_
    | with_reducible refine Keeps.engWrite ?_
    | with_reducible exact KeepsR.fault
    | with_reducible refine Keeps.ite ?_ ?_
    | split
    | dsimp only

theorem execL2SweepEnd_keeps {core : CoreNo} {s : State} (hK : Keeps sb s) : KeepsR sb (execL2SweepEnd core s) := by
  unfold execL2SweepEnd
  repeat' first
    | with_reducible assumption
    | with_reducible refine KeepsR.next ?_
    | with_reducible refine Keeps.unlessFrozen ?_ ?_
    | with_reducible refine Keeps.l2SweepEnd ?_
    | split
    | dsimp only

theorem execL3SweepEnd_keeps {die : CxDie} {s : State} (hK : Keeps sb s) : KeepsR sb (execL3SweepEnd die s) := by
  unfold execL3SweepEnd
  repeat' first
    | with_reducible assumption
    | with_reducible refine KeepsR.next ?_
    | with_reducible refine Keeps.unlessFrozen ?_ ?_
    | with_reducible refine Keeps.l3SweepEnd ?_
    | split
    | dsimp only

theorem Keeps.writeBit {s : State} {w : Writer} {a : Nat} {v : Dword} {b : Nat} {on : Bool} (hK : Keeps sb s) :
    Keeps sb (s.writeBit w a v b on) := by
  unfold State.writeBit
  repeat' first
    | with_reducible assumption
    | with_reducible refine Keeps.regWrite ?_
    | dsimp only

theorem execL2CtlEnClear_keeps {w : Writer} {core : CoreNo} {s : State} (hK : Keeps sb s) :
    KeepsR sb (execL2CtlEnClear w core s) := by
  unfold execL2CtlEnClear
  repeat' first
    | with_reducible assumption
    | with_reducible refine KeepsR.next ?_
    | with_reducible refine Keeps.writeBit ?_
    | split
    | dsimp only

theorem execL2CtlEnSet_keeps {w : Writer} {core : CoreNo} {s : State} (hK : Keeps sb s) :
    KeepsR sb (execL2CtlEnSet w core s) := by
  unfold execL2CtlEnSet
  repeat' first
    | with_reducible assumption
    | with_reducible refine KeepsR.next ?_
    | with_reducible refine Keeps.writeBit ?_
    | split
    | dsimp only

theorem execL3CtlEnClear_keeps {w : Writer} {die : CxDie} {s : State} (hK : Keeps sb s) :
    KeepsR sb (execL3CtlEnClear w die s) := by
  unfold execL3CtlEnClear
  repeat' first
    | with_reducible assumption
    | with_reducible refine KeepsR.next ?_
    | with_reducible refine Keeps.writeBit ?_
    | split
    | dsimp only

theorem execL3CtlEnSet_keeps {w : Writer} {die : CxDie} {s : State} (hK : Keeps sb s) : KeepsR sb (execL3CtlEnSet w die s) := by
  unfold execL3CtlEnSet
  repeat' first
    | with_reducible assumption
    | with_reducible refine KeepsR.next ?_
    | with_reducible refine Keeps.writeBit ?_
    | split
    | dsimp only

theorem execDramReadRequest_keeps {c : Fin 16} {a : Pa} {s : State} (hK : Keeps sb s) :
    KeepsR sb (execDramReadRequest c a s) := by
  unfold execDramReadRequest
  repeat' first
    | with_reducible assumption
    | with_reducible refine KeepsR.next ?_
    | with_reducible refine Keeps.unlessFrozen ?_ ?_
    | with_reducible refine Keeps.readRequest ?_
    | with_reducible refine Keeps.ite ?_ ?_
    | split
    | dsimp only

theorem execDramWriteRequest_keeps {c : Fin 16} {a : Pa} {data : List Byte} {poison : Bool} {s : State} (hK : Keeps sb s) :
    KeepsR sb (execDramWriteRequest c a data poison s) := by
  unfold execDramWriteRequest
  repeat' first
    | with_reducible assumption
    | with_reducible refine KeepsR.next ?_
    | with_reducible refine Keeps.unlessFrozen ?_ ?_
    | with_reducible refine Keeps.writeRequest ?_
    | with_reducible exact KeepsR.fault
    | with_reducible refine Keeps.ite ?_ ?_
    | split
    | dsimp only

theorem execDramCommandIssue_keeps {c : Fin 16} {caErr : Bool} {s : State} (hK : Keeps sb s) :
    KeepsR sb (execDramCommandIssue c caErr s) := by
  unfold execDramCommandIssue
  repeat' first
    | with_reducible assumption
    | with_reducible refine KeepsR.next ?_
    | with_reducible refine Keeps.forceDebts ?_
    | with_reducible refine Keeps.dcSend ?_
    | with_reducible refine Keeps.issueCommand ?_
    | with_reducible refine Keeps.ite ?_ ?_
    | split
    | dsimp only

theorem execRefreshInterval_keeps {c : Fin 16} {s : State} (hK : Keeps sb s) : KeepsR sb (execRefreshInterval c s) := by
  unfold execRefreshInterval
  repeat' first
    | with_reducible assumption
    | with_reducible refine KeepsR.next ?_
    | with_reducible refine Keeps.refreshInterval ?_
    | with_reducible refine Keeps.ite ?_ ?_
    | split
    | dsimp only

theorem execDcRefModeWrite_keeps {w : Writer} {c : Fin 16} {v : Dword} {s : State} (hK : Keeps sb s) :
    KeepsR sb (execDcRefModeWrite w c v s) := by
  unfold execDcRefModeWrite
  repeat' first
    | with_reducible assumption
    | with_reducible refine KeepsR.next ?_
    | with_reducible refine Keeps.regWrite ?_
    | split
    | dsimp only

theorem execDcTrainStart_keeps {w : Writer} {c : Fin 16} {v : Dword} {s : State} (hK : Keeps sb s) :
    KeepsR sb (execDcTrainStart w c v s) := by
  unfold execDcTrainStart
  repeat' first
    | with_reducible assumption
    | with_reducible refine KeepsR.next ?_
    | with_reducible refine Keeps.writeBit ?_
    | split
    | dsimp only

theorem execTrainingEnd_keeps {c : Fin 16} {ok : Bool} {s : State} (hK : Keeps sb s) : KeepsR sb (execTrainingEnd c ok s) := by
  unfold execTrainingEnd
  repeat' first
    | with_reducible assumption
    | with_reducible refine KeepsR.next ?_
    | with_reducible refine Keeps.trainingEnd ?_
    | with_reducible refine Keeps.ite ?_ ?_
    | split
    | dsimp only

theorem execSelfRefreshEntry_keeps {c : Fin 16} {s : State} (hK : Keeps sb s) : KeepsR sb (execSelfRefreshEntry c s) := by
  unfold execSelfRefreshEntry
  repeat' first
    | with_reducible assumption
    | with_reducible refine KeepsR.next ?_
    | with_reducible refine Keeps.unlessFrozen ?_ ?_
    | with_reducible refine Keeps.srEntry ?_
    | split
    | dsimp only

theorem execSelfRefreshExit_keeps {c : Fin 16} {s : State} (hK : Keeps sb s) : KeepsR sb (execSelfRefreshExit c s) := by
  unfold execSelfRefreshExit
  repeat' first
    | with_reducible assumption
    | with_reducible refine KeepsR.next ?_
    | with_reducible refine Keeps.unlessFrozen ?_ ?_
    | with_reducible refine Keeps.srExit ?_
    | split
    | dsimp only

theorem execDcCtlZero_keeps {w : Writer} {c : Fin 16} {v : Dword} {s : State} (hK : Keeps sb s) :
    KeepsR sb (execDcCtlZero w c v s) := by
  unfold execDcCtlZero
  repeat' first
    | with_reducible assumption
    | with_reducible refine KeepsR.next ?_
    | with_reducible refine Keeps.writeBit ?_
    | split
    | dsimp only

theorem execZeroingEnd_keeps {c : Fin 16} {s : State} (hK : Keeps sb s) : KeepsR sb (execZeroingEnd c s) := by
  unfold execZeroingEnd
  repeat' first
    | with_reducible assumption
    | with_reducible refine KeepsR.next ?_
    | with_reducible refine Keeps.endZero ?_
    | with_reducible refine Keeps.ite ?_ ?_
    | split
    | dsimp only

theorem execDcCtlEnSet_keeps {w : Writer} {c : Fin 16} {v : Dword} {s : State} (hK : Keeps sb s) :
    KeepsR sb (execDcCtlEnSet w c v s) := by
  unfold execDcCtlEnSet
  repeat' first
    | with_reducible assumption
    | with_reducible refine KeepsR.next ?_
    | with_reducible refine Keeps.writeBit ?_
    | split
    | dsimp only

theorem execDcCtlEnClear_keeps {w : Writer} {c : Fin 16} {v : Dword} {s : State} (hK : Keeps sb s) :
    KeepsR sb (execDcCtlEnClear w c v s) := by
  unfold execDcCtlEnClear
  repeat' first
    | with_reducible assumption
    | with_reducible refine KeepsR.next ?_
    | with_reducible refine Keeps.writeBit ?_
    | split
    | dsimp only

theorem execDrainEnd_keeps {c : Fin 16} {s : State} (hK : Keeps sb s) : KeepsR sb (execDrainEnd c s) := by
  unfold execDrainEnd
  repeat' first
    | with_reducible assumption
    | with_reducible refine KeepsR.next ?_
    | with_reducible refine Keeps.unlessFrozen ?_ ?_
    | with_reducible refine Keeps.endDrain ?_
    | split
    | dsimp only

theorem Keeps.collideAny {s : State} {c : Option (Nat × PortBWrite)} (hK : Keeps sb s) : Keeps sb (s.collideAny c) := by
  unfold State.collideAny
  repeat' first
    | with_reducible assumption
    | with_reducible refine Keeps.collide ?_
    | split
    | dsimp only
    | with_reducible refine Keeps.upd ?_

theorem execJournalStateDurable_keeps {w : DurableState} {s : State} (hK : Keeps sb s) :
    KeepsR sb (execJournalStateDurable w s) := by
  unfold execJournalStateDurable
  repeat' first
    | with_reducible assumption
    | with_reducible refine KeepsR.next ?_
    | with_reducible refine Keeps.unlessFrozen ?_ ?_
    | with_reducible refine Keeps.collideAny ?_
    | with_reducible refine Keeps.journalDurable ?_
    | split
    | dsimp only

theorem execMirrorLinkDown_keeps {s : State} (hK : Keeps sb s) : KeepsR sb (execMirrorLinkDown s) := by
  unfold execMirrorLinkDown
  repeat' first
    | with_reducible assumption
    | with_reducible refine KeepsR.next ?_
    | with_reducible refine Keeps.unlessFrozen ?_ ?_
    | with_reducible refine Keeps.mirrorDown ?_
    | split
    | dsimp only

theorem execMirrorLinkReturn_keeps {s : State} (hK : Keeps sb s) : KeepsR sb (execMirrorLinkReturn s) := by
  unfold execMirrorLinkReturn
  repeat' first
    | with_reducible assumption
    | with_reducible refine KeepsR.next ?_
    | with_reducible refine Keeps.unlessFrozen ?_ ?_
    | with_reducible refine Keeps.mirrorReturn ?_
    | split
    | dsimp only

theorem execMirrorCopyEnd_keeps {s : State} (hK : Keeps sb s) : KeepsR sb (execMirrorCopyEnd s) := by
  unfold execMirrorCopyEnd
  repeat' first
    | with_reducible assumption
    | with_reducible refine KeepsR.next ?_
    | with_reducible refine Keeps.unlessFrozen ?_ ?_
    | with_reducible refine Keeps.mirrorCopied ?_
    | split
    | dsimp only

theorem execEngineFailure_keeps {die : ChDie} {e : Fin 48} {s : State} (hK : Keeps sb s) :
    KeepsR sb (execEngineFailure die e s) := by
  unfold execEngineFailure
  repeat' first
    | with_reducible assumption
    | with_reducible refine KeepsR.next ?_
    | with_reducible refine Keeps.unlessFrozen ?_ ?_
    | with_reducible refine Keeps.engineFail ?_
    | split
    | dsimp only

theorem execCeCtlEnSet_keeps {w : Writer} {die : ChDie} {e : Fin 48} {v : Dword} {s : State} (hK : Keeps sb s) :
    KeepsR sb (execCeCtlEnSet w die e v s) := by
  unfold execCeCtlEnSet
  repeat' first
    | with_reducible assumption
    | with_reducible refine KeepsR.next ?_
    | with_reducible refine Keeps.writeBit ?_
    | split
    | dsimp only

theorem execCeCtlEnClear_keeps {w : Writer} {die : ChDie} {e : Fin 48} {v : Dword} {s : State} (hK : Keeps sb s) :
    KeepsR sb (execCeCtlEnClear w die e v s) := by
  unfold execCeCtlEnClear
  repeat' first
    | with_reducible assumption
    | with_reducible refine KeepsR.next ?_
    | with_reducible refine Keeps.writeBit ?_
    | split
    | dsimp only

theorem execCsCtlEnSet_keeps {w : Writer} {die : ChDie} {v : Dword} {s : State} (hK : Keeps sb s) :
    KeepsR sb (execCsCtlEnSet w die v s) := by
  unfold execCsCtlEnSet
  repeat' first
    | with_reducible assumption
    | with_reducible refine KeepsR.next ?_
    | with_reducible refine Keeps.writeBit ?_
    | split
    | dsimp only

theorem execChannelDieFailure_keeps {die : ChDie} {coll : Option (SubNo × PortBWrite)} {s : State} (hK : Keeps sb s) :
    KeepsR sb (execChannelDieFailure die coll s) := by
  unfold execChannelDieFailure
  repeat' first
    | with_reducible assumption
    | with_reducible refine KeepsR.next ?_
    | with_reducible refine Keeps.unlessFrozen ?_ ?_
    | with_reducible refine Keeps.chDieFail ?_
    | with_reducible refine Keeps.collideAny ?_
    | with_reducible refine Keeps.ite ?_ ?_
    | split
    | dsimp only
    | with_reducible refine Keeps.upd ?_

theorem execQuiesceGraceExpiry_keeps {n : Fin 96} {s : State} (hK : Keeps sb s) : KeepsR sb (execQuiesceGraceExpiry n s) := by
  unfold execQuiesceGraceExpiry
  repeat' first
    | with_reducible assumption
    | with_reducible refine KeepsR.next ?_
    | with_reducible refine Keeps.unlessFrozen ?_ ?_
    | with_reducible refine Keeps.graceExpiry ?_
    | split
    | dsimp only

theorem execSchedulingRound_keeps {die : ChDie} {port : Fin 12} {s : State} (hK : Keeps sb s) :
    KeepsR sb (execSchedulingRound die port s) := by
  unfold execSchedulingRound
  repeat' first
    | with_reducible assumption
    | with_reducible refine KeepsR.next ?_
    | with_reducible refine Keeps.unlessFrozen ?_ ?_
    | with_reducible refine Keeps.schedRound ?_
    | split
    | dsimp only

theorem execLinkUp_keeps {die : ChDie} {port : Fin 12} {peer200 : Bool} {s : State} (hK : Keeps sb s) :
    KeepsR sb (execLinkUp die port peer200 s) := by
  unfold execLinkUp
  repeat' first
    | with_reducible assumption
    | with_reducible refine KeepsR.next ?_
    | with_reducible refine Keeps.unlessFrozen ?_ ?_
    | with_reducible refine Keeps.linkComesUp ?_
    | split
    | dsimp only

theorem execLinkDown_keeps {die : ChDie} {port : Fin 12} {s : State} (hK : Keeps sb s) :
    KeepsR sb (execLinkDown die port s) := by
  unfold execLinkDown
  repeat' first
    | with_reducible assumption
    | with_reducible refine KeepsR.next ?_
    | with_reducible refine Keeps.unlessFrozen ?_ ?_
    | with_reducible refine Keeps.linkGoesDown ?_
    | split
    | dsimp only

theorem execPfcFrame_keeps {die : ChDie} {port : Fin 12} {enabled : BitVec 8} {times : BitVec 128} {s : State} (hK : Keeps sb s) :
    KeepsR sb (execPfcFrame die port enabled times s) := by
  unfold execPfcFrame
  repeat' first
    | with_reducible assumption
    | with_reducible refine KeepsR.next ?_
    | with_reducible refine Keeps.unlessFrozen ?_ ?_
    | with_reducible refine Keeps.pause ?_
    | with_reducible refine Keeps.ite ?_ ?_
    | split
    | dsimp only

theorem execPauseFrame_keeps {die : ChDie} {port : Fin 12} {time : BitVec 16} {s : State} (hK : Keeps sb s) :
    KeepsR sb (execPauseFrame die port time s) := by
  unfold execPauseFrame
  repeat' first
    | with_reducible assumption
    | with_reducible refine KeepsR.next ?_
    | with_reducible refine Keeps.unlessFrozen ?_ ?_
    | with_reducible refine Keeps.pause ?_
    | with_reducible refine Keeps.ite ?_ ?_
    | split
    | dsimp only

theorem execPauseTimeExpiry_keeps {die : ChDie} {port : Fin 12} {s : State} (hK : Keeps sb s) :
    KeepsR sb (execPauseTimeExpiry die port s) := by
  unfold execPauseTimeExpiry
  repeat' first
    | with_reducible assumption
    | with_reducible refine KeepsR.next ?_
    | with_reducible refine Keeps.unlessFrozen ?_ ?_
    | with_reducible refine Keeps.unpause ?_
    | with_reducible refine Keeps.ite ?_ ?_
    | split
    | dsimp only

theorem execReceiveBufferXon_keeps {die : ChDie} {port : Fin 12} {s : State} (hK : Keeps sb s) :
    KeepsR sb (execReceiveBufferXon die port s) := by
  unfold execReceiveBufferXon
  repeat' first
    | with_reducible assumption
    | with_reducible refine KeepsR.next ?_
    | with_reducible refine Keeps.unlessFrozen ?_ ?_
    | with_reducible refine Keeps.xon ?_
    | split
    | dsimp only

theorem execPfcRepeatExpiry_keeps {die : ChDie} {port : Fin 12} {s : State} (hK : Keeps sb s) :
    KeepsR sb (execPfcRepeatExpiry die port s) := by
  unfold execPfcRepeatExpiry
  repeat' first
    | with_reducible assumption
    | with_reducible refine KeepsR.next ?_
    | with_reducible refine Keeps.unlessFrozen ?_ ?_
    | with_reducible refine Keeps.pfcRepeat ?_
    | split
    | dsimp only

theorem execPauseMaxExceeded_keeps {die : ChDie} {port : Fin 12} {s : State} (hK : Keeps sb s) :
    KeepsR sb (execPauseMaxExceeded die port s) := by
  unfold execPauseMaxExceeded
  repeat' first
    | with_reducible assumption
    | with_reducible refine KeepsR.next ?_
    | with_reducible refine Keeps.unlessFrozen ?_ ?_
    | with_reducible refine Keeps.pauseMax ?_
    | split
    | dsimp only

theorem execLoginReq_keeps {f : RxFrame} {s : State} (hK : Keeps sb s) : KeepsR sb (execLoginReq f s) := by
  unfold execLoginReq
  repeat' first
    | with_reducible assumption
    | with_reducible refine KeepsR.next ?_
    | with_reducible refine Keeps.unlessFrozen ?_ ?_
    | with_reducible refine Keeps.rxLoginReq ?_
    | split
    | dsimp only

theorem execLoginAcc_keeps {f : RxFrame} {s : State} (hK : Keeps sb s) : KeepsR sb (execLoginAcc f s) := by
  unfold execLoginAcc
  repeat' first
    | with_reducible assumption
    | with_reducible refine KeepsR.next ?_
    | with_reducible refine Keeps.unlessFrozen ?_ ?_
    | with_reducible refine Keeps.receive ?_ (fun _ _ _ => ?_)
    | with_reducible refine Keeps.loginAcc ?_
    | split
    | dsimp only

theorem execLoginRej_keeps {f : RxFrame} {s : State} (hK : Keeps sb s) : KeepsR sb (execLoginRej f s) := by
  unfold execLoginRej
  repeat' first
    | with_reducible assumption
    | with_reducible refine KeepsR.next ?_
    | with_reducible refine Keeps.unlessFrozen ?_ ?_
    | with_reducible refine Keeps.receive ?_ (fun _ _ _ => ?_)
    | with_reducible refine Keeps.rxLoginRej ?_
    | split
    | dsimp only

theorem execLogout_keeps {f : RxFrame} {s : State} (hK : Keeps sb s) : KeepsR sb (execLogout f s) := by
  unfold execLogout
  repeat' first
    | with_reducible assumption
    | with_reducible refine KeepsR.next ?_
    | with_reducible refine Keeps.unlessFrozen ?_ ?_
    | with_reducible refine Keeps.receive ?_ (fun _ _ _ => ?_)
    | with_reducible refine Keeps.loseLogin ?_
    | with_reducible refine Keeps.ite ?_ ?_
    | split
    | dsimp only

theorem execEcho_keeps {f : RxFrame} {s : State} (hK : Keeps sb s) : KeepsR sb (execEcho f s) := by
  unfold execEcho
  repeat' first
    | with_reducible assumption
    | with_reducible refine KeepsR.next ?_
    | with_reducible refine Keeps.unlessFrozen ?_ ?_
    | with_reducible refine Keeps.receive ?_ (fun _ _ _ => ?_)
    | with_reducible refine Keeps.sendFrame ?_
    | with_reducible refine Keeps.ite ?_ ?_
    | split
    | dsimp only

theorem execEchoReply_keeps {f : RxFrame} {s : State} (hK : Keeps sb s) : KeepsR sb (execEchoReply f s) := by
  unfold execEchoReply
  repeat' first
    | with_reducible assumption
    | with_reducible refine KeepsR.next ?_
    | with_reducible refine Keeps.unlessFrozen ?_ ?_
    | with_reducible refine Keeps.receive ?_ (fun _ _ _ => ?_)
    | split
    | dsimp only

theorem Keeps.onActive {s : State} {typ : Nat} {f : RxFrame} (hK : Keeps sb s) : Keeps sb (s.onActive typ f) := by
  unfold State.onActive
  repeat' first
    | with_reducible assumption
    | with_reducible refine Keeps.receive ?_ (fun _ _ _ => ?_)
    | with_reducible refine Keeps.rxExchange ?_
    | with_reducible refine Keeps.discard ?_
    | with_reducible refine Keeps.ite ?_ ?_
    | split
    | dsimp only

theorem execData_keeps {f : RxFrame} {s : State} (hK : Keeps sb s) : KeepsR sb (execData f s) := by
  unfold execData
  repeat' first
    | with_reducible assumption
    | with_reducible refine KeepsR.next ?_
    | with_reducible refine Keeps.unlessFrozen ?_ ?_
    | with_reducible refine Keeps.onActive ?_
    | split
    | dsimp only

theorem execAck_keeps {f : RxFrame} {s : State} (hK : Keeps sb s) : KeepsR sb (execAck f s) := by
  unfold execAck
  repeat' first
    | with_reducible assumption
    | with_reducible refine KeepsR.next ?_
    | with_reducible refine Keeps.unlessFrozen ?_ ?_
    | with_reducible refine Keeps.onActive ?_
    | split
    | dsimp only

theorem execStatus_keeps {f : RxFrame} {s : State} (hK : Keeps sb s) : KeepsR sb (execStatus f s) := by
  unfold execStatus
  repeat' first
    | with_reducible assumption
    | with_reducible refine KeepsR.next ?_
    | with_reducible refine Keeps.unlessFrozen ?_ ?_
    | with_reducible refine Keeps.onActive ?_
    | split
    | dsimp only

theorem execWorking_keeps {f : RxFrame} {s : State} (hK : Keeps sb s) : KeepsR sb (execWorking f s) := by
  unfold execWorking
  repeat' first
    | with_reducible assumption
    | with_reducible refine KeepsR.next ?_
    | with_reducible refine Keeps.unlessFrozen ?_ ?_
    | with_reducible refine Keeps.onActive ?_
    | split
    | dsimp only

theorem execAbortAck_keeps {f : RxFrame} {s : State} (hK : Keeps sb s) : KeepsR sb (execAbortAck f s) := by
  unfold execAbortAck
  repeat' first
    | with_reducible assumption
    | with_reducible refine KeepsR.next ?_
    | with_reducible refine Keeps.unlessFrozen ?_ ?_
    | with_reducible refine Keeps.receive ?_ (fun _ _ _ => ?_)
    | with_reducible refine Keeps.rxAbortAck ?_
    | with_reducible refine Keeps.discard ?_
    | with_reducible refine Keeps.ite ?_ ?_
    | split
    | dsimp only

theorem execAckDelayExpiry_keeps {p : SubNo} {s : State} (hK : Keeps sb s) : KeepsR sb (execAckDelayExpiry p s) := by
  unfold execAckDelayExpiry
  repeat' first
    | with_reducible assumption
    | with_reducible refine KeepsR.next ?_
    | with_reducible refine Keeps.unlessFrozen ?_ ?_
    | with_reducible refine Keeps.ackDelay ?_
    | split
    | dsimp only

theorem execAckTimeout_keeps {p : SubNo} {s : State} (hK : Keeps sb s) : KeepsR sb (execAckTimeout p s) := by
  unfold execAckTimeout
  repeat' first
    | with_reducible assumption
    | with_reducible refine KeepsR.next ?_
    | with_reducible refine Keeps.unlessFrozen ?_ ?_
    | with_reducible refine Keeps.ackTimeout ?_
    | split
    | dsimp only

theorem execStatusWaitExpiry_keeps {p : SubNo} {s : State} (hK : Keeps sb s) : KeepsR sb (execStatusWaitExpiry p s) := by
  unfold execStatusWaitExpiry
  repeat' first
    | with_reducible assumption
    | with_reducible refine KeepsR.next ?_
    | with_reducible refine Keeps.unlessFrozen ?_ ?_
    | with_reducible refine Keeps.statusWait ?_
    | split
    | dsimp only

theorem execKeepaliveExpiry_keeps {die : ChDie} {slot : Fin 4096} {s : State} (hK : Keeps sb s) :
    KeepsR sb (execKeepaliveExpiry die slot s) := by
  unfold execKeepaliveExpiry
  repeat' first
    | with_reducible assumption
    | with_reducible refine KeepsR.next ?_
    | with_reducible refine Keeps.unlessFrozen ?_ ?_
    | with_reducible refine Keeps.keepalive ?_
    | split
    | dsimp only

theorem execLoginAnswerTimeout_keeps {die : ChDie} {slot : Fin 4096} {s : State} (hK : Keeps sb s) :
    KeepsR sb (execLoginAnswerTimeout die slot s) := by
  unfold execLoginAnswerTimeout
  repeat' first
    | with_reducible assumption
    | with_reducible refine KeepsR.next ?_
    | with_reducible refine Keeps.unlessFrozen ?_ ?_
    | with_reducible refine Keeps.loginTimeout ?_
    | split
    | dsimp only

theorem execLoginRetryExpiry_keeps {die : ChDie} {slot : Fin 4096} {s : State} (hK : Keeps sb s) :
    KeepsR sb (execLoginRetryExpiry die slot s) := by
  unfold execLoginRetryExpiry
  repeat' first
    | with_reducible assumption
    | with_reducible refine KeepsR.next ?_
    | with_reducible refine Keeps.unlessFrozen ?_ ?_
    | with_reducible refine Keeps.loginRetry ?_
    | split
    | dsimp only

theorem execAbortResendExpiry_keeps {xid : Word} {s : State} (hK : Keeps sb s) : KeepsR sb (execAbortResendExpiry xid s) := by
  unfold execAbortResendExpiry
  repeat' first
    | with_reducible assumption
    | with_reducible refine KeepsR.next ?_
    | with_reducible refine Keeps.unlessFrozen ?_ ?_
    | with_reducible refine Keeps.abortResend ?_
    | split
    | dsimp only

theorem execClCtlEnSet_keeps {w : Writer} {die : ChDie} {port : Fin 12} {v : Dword} {s : State} (hK : Keeps sb s) :
    KeepsR sb (execClCtlEnSet w die port v s) := by
  unfold execClCtlEnSet
  repeat' first
    | with_reducible assumption
    | with_reducible refine KeepsR.next ?_
    | with_reducible refine Keeps.writeBit ?_
    | split
    | dsimp only

theorem execClCtlEnClear_keeps {w : Writer} {die : ChDie} {port : Fin 12} {v : Dword} {s : State} (hK : Keeps sb s) :
    KeepsR sb (execClCtlEnClear w die port v s) := by
  unfold execClCtlEnClear
  repeat' first
    | with_reducible assumption
    | with_reducible refine KeepsR.next ?_
    | with_reducible refine Keeps.writeBit ?_
    | split
    | dsimp only

theorem execClLgnAddrEnSet_keeps {w : Writer} {die : ChDie} {slot : Fin 4096} {v : Dword} {s : State} (hK : Keeps sb s) :
    KeepsR sb (execClLgnAddrEnSet w die slot v s) := by
  unfold execClLgnAddrEnSet
  repeat' first
    | with_reducible assumption
    | with_reducible refine KeepsR.next ?_
    | with_reducible refine Keeps.writeBit ?_
    | split
    | dsimp only

theorem execClLgnAddrEnClear_keeps {w : Writer} {die : ChDie} {slot : Fin 4096} {v : Dword} {s : State} (hK : Keeps sb s) :
    KeepsR sb (execClLgnAddrEnClear w die slot v s) := by
  unfold execClLgnAddrEnClear
  repeat' first
    | with_reducible assumption
    | with_reducible refine KeepsR.next ?_
    | with_reducible refine Keeps.writeBit ?_
    | split
    | dsimp only

theorem execAccCtlEnSet_keeps {w : Writer} {die : Fin 10} {inst : Fin 8} {v : Dword} {s : State} (hK : Keeps sb s) :
    KeepsR sb (execAccCtlEnSet w die inst v s) := by
  unfold execAccCtlEnSet
  repeat' first
    | with_reducible assumption
    | with_reducible refine KeepsR.next ?_
    | with_reducible refine Keeps.writeBit ?_
    | split
    | dsimp only

theorem execAccCtlEnClear_keeps {w : Writer} {die : Fin 10} {inst : Fin 8} {v : Dword} {s : State} (hK : Keeps sb s) :
    KeepsR sb (execAccCtlEnClear w die inst v s) := by
  unfold execAccCtlEnClear
  repeat' first
    | with_reducible assumption
    | with_reducible refine KeepsR.next ?_
    | with_reducible refine Keeps.writeBit ?_
    | split
    | dsimp only

theorem execAcceleratorSelftestEnd_keeps {die : Fin 10} {inst : Fin 8} {pass : Bool} {s : State} (hK : Keeps sb s) :
    KeepsR sb (execAcceleratorSelftestEnd die inst pass s) := by
  unfold execAcceleratorSelftestEnd
  repeat' first
    | with_reducible assumption
    | with_reducible refine KeepsR.next ?_
    | with_reducible refine Keeps.unlessFrozen ?_ ?_
    | with_reducible refine Keeps.accTestEnd ?_
    | split
    | dsimp only

theorem execWsBankOwnWrite_keeps {eng : Option (Fin 48)} {die : WsDie} {bank : Fin 128} {v : Dword} {s : State} (hK : Keeps sb s) :
    KeepsR sb (execWsBankOwnWrite eng die bank v s) := by
  unfold execWsBankOwnWrite
  repeat' first
    | with_reducible assumption
    | with_reducible refine KeepsR.next ?_
    | with_reducible refine Keeps.regWriteBy ?_
    | with_reducible refine Keeps.unlessFrozen ?_ ?_
    | with_reducible refine Keeps.ite ?_ ?_
    | split
    | dsimp only
    | with_reducible refine Keeps.upd ?_

theorem execBankCopyEnd_keeps {die : WsDie} {s : State} (hK : Keeps sb s) : KeepsR sb (execBankCopyEnd die s) := by
  unfold execBankCopyEnd
  repeat' first
    | with_reducible assumption
    | with_reducible refine KeepsR.next ?_
    | with_reducible refine Keeps.unlessFrozen ?_ ?_
    | with_reducible refine Keeps.copyEnd ?_
    | split
    | dsimp only

theorem execBankMarchEnd_keeps {die : WsDie} {pass : Bool} {s : State} (hK : Keeps sb s) :
    KeepsR sb (execBankMarchEnd die pass s) := by
  unfold execBankMarchEnd
  repeat' first
    | with_reducible assumption
    | with_reducible refine KeepsR.next ?_
    | with_reducible refine Keeps.unlessFrozen ?_ ?_
    | with_reducible refine Keeps.marchEnd ?_
    | split
    | dsimp only

theorem execTestInPlaceEnd_keeps {die : WsDie} {bank : Fin 128} {pass : Bool} {s : State} (hK : Keeps sb s) :
    KeepsR sb (execTestInPlaceEnd die bank pass s) := by
  unfold execTestInPlaceEnd
  repeat' first
    | with_reducible assumption
    | with_reducible refine KeepsR.next ?_
    | with_reducible refine Keeps.unlessFrozen ?_ ?_
    | with_reducible refine Keeps.inPlaceEnd ?_
    | split
    | dsimp only

theorem execWsTestEnSet_keeps {w : Writer} {die : WsDie} {v : Dword} {s : State} (hK : Keeps sb s) :
    KeepsR sb (execWsTestEnSet w die v s) := by
  unfold execWsTestEnSet
  repeat' first
    | with_reducible assumption
    | with_reducible refine KeepsR.next ?_
    | with_reducible refine Keeps.writeBit ?_
    | split
    | dsimp only

theorem execWsVaultWipe_keeps {s : State} (hK : Keeps sb s) : KeepsR sb (execWsVaultWipe s) := by
  unfold execWsVaultWipe
  repeat' first
    | with_reducible assumption
    | with_reducible refine KeepsR.next ?_
    | with_reducible refine Keeps.wipeVault ?_
    | with_reducible refine Keeps.ite ?_ ?_
    | split
    | dsimp only

theorem execVaultWipeEnd_keeps {failed : List (Fin 4)} {s : State} (hK : Keeps sb s) :
    KeepsR sb (execVaultWipeEnd failed s) := by
  unfold execVaultWipeEnd
  repeat' first
    | with_reducible assumption
    | with_reducible refine KeepsR.next ?_
    | with_reducible refine Keeps.wipeEnd ?_
    | with_reducible refine Keeps.ite ?_ ?_
    | split
    | dsimp only

theorem execTamperIndication_keeps {s : State} (hK : Keeps sb s) : KeepsR sb (execTamperIndication s) := by
  unfold execTamperIndication
  repeat' first
    | with_reducible assumption
    | with_reducible refine KeepsR.next ?_
    | with_reducible refine Keeps.wipeVault ?_
    | with_reducible refine Keeps.send ?_
    | with_reducible refine Keeps.ite ?_ ?_
    | split
    | dsimp only

theorem Keeps.coldMap {s : State} (hK : Keeps sb s) : Keeps sb (s.coldMap) := by
  unfold State.coldMap
  repeat' first
    | with_reducible assumption
    | with_reducible refine Keeps.setReg ?_
    | with_reducible refine Keeps.setRf ?_
    | with_reducible refine Keeps.foldl (fun _ _ _ => ?_) ?_
    | dsimp only

theorem Keeps.buildMap {s : State} (hK : Keeps sb s) : Keeps sb (s.buildMap) := by
  unfold State.buildMap
  repeat' first
    | with_reducible assumption
    | with_reducible refine Keeps.coldMap ?_
    | with_reducible refine Keeps.newKey ?_
    | with_reducible refine Keeps.ite ?_ ?_
    | split
    | dsimp only

/-- A state that stands in another's place, keeping what no command undoes. -/
theorem Keeps.replace {s t : State} (hK : Keeps sb s) (hp : t.pending = s.pending) (hg : s.Grows t) (hi : s.Inv → t.Inv) : Keeps sb t :=
  hK.trans ⟨hp, hg, hi⟩

theorem Keeps.coldReset {s : State} (hK : Keeps sb s) : Keeps sb s.coldReset := by
  refine Keeps.newNonce (Keeps.coldMap (hK.replace rfl (State.Grows.refl s) fun i => ?_))
  have hd : Memory.wf s.dramLeft = true := by
    unfold State.dramLeft
    split
    · rfl
    · exact i.2.1
  exact ⟨hd, hd, rfl, rfl, i.2.2.2.2.1, State.oneActive_none _ rfl⟩

theorem Keeps.resetPin {s : State} {low : Nat} (hK : Keeps sb s) : Keeps sb (s.resetPin low) := by
  unfold State.resetPin
  repeat' first
    | with_reducible assumption
    | with_reducible refine Keeps.coldReset ?_
    | with_reducible refine Keeps.ite ?_ ?_
    | split
    | dsimp only

theorem Keeps.unpower {s : State} (hK : Keeps sb s) : Keeps sb s.unpower :=
  (hK.sessions (m := []) fun _ => State.oneActive_none _ rfl).upd

theorem Keeps.railOff {s : State} {r : Nat} (hK : Keeps sb s) : Keeps sb (s.railOff r) := by
  unfold State.railOff
  repeat' first
    | with_reducible assumption
    | dsimp only
    | with_reducible refine Keeps.upd ?_

theorem Keeps.powerDown {s : State} (hK : Keeps sb s) : Keeps sb (s.powerDown) := by
  unfold State.powerDown
  repeat' first
    | with_reducible assumption
    | with_reducible refine Keeps.railOff ?_
    | with_reducible refine Keeps.unpower ?_
    | with_reducible refine Keeps.foldl (fun _ _ _ => ?_) ?_
    | dsimp only
    | with_reducible refine Keeps.upd ?_

theorem Keeps.vauxFails {s : State} (hK : Keeps sb s) : Keeps sb (s.vauxFails) := by
  unfold State.vauxFails
  repeat' first
    | with_reducible assumption
    | with_reducible refine Keeps.unpower ?_
    | dsimp only
    | with_reducible refine Keeps.upd ?_

theorem Keeps.powerUp {s : State} (hK : Keeps sb s) : Keeps sb (s.powerUp) := by
  unfold State.powerUp
  repeat' first
    | with_reducible assumption
    | with_reducible refine Keeps.coldReset ?_
    | with_reducible refine Keeps.ite ?_ ?_
    | split
    | dsimp only
    | with_reducible refine Keeps.upd ?_

theorem Keeps.settleMoves {s : State} (hK : Keeps sb s) : Keeps sb (s.settleMoves) := by
  unfold State.settleMoves
  repeat' first
    | with_reducible assumption
    | with_reducible refine Keeps.nameCore ?_
    | with_reducible refine Keeps.setRf ?_
    | with_reducible refine Keeps.retire ?_
    | with_reducible refine Keeps.releaseCore ?_
    | with_reducible refine Keeps.modCore ?_
    | with_reducible refine Keeps.ite ?_ ?_
    | with_reducible refine Keeps.foldl (fun _ _ _ => ?_) ?_
    | with_reducible refine Keeps.foldl_fst (fun _ _ _ => ?_) ?_
    | split
    | dsimp only
    | with_reducible refine Keeps.upd ?_

theorem swf_warmRegs (l : Store Dword) : swf regDefault (warmRegs l) = true := by
  refine Keeps.foldl_inv (P := fun r => swf regDefault r = true) (fun r x hr => ?_) rfl
  exact swf_sput _ _ _ _ hr

theorem Keeps.warmReset {s : State} (hK : Keeps sb s) : Keeps sb s.warmReset := by
  unfold State.warmReset
  extract_lets s1 s2
  have h2 : Keeps sb s2 := Keeps.foldl (fun _ _ h => h.drainWrites) hK.settleMoves.discardAll.abandonTests
  clear_value s1 s2
  have hw : Keeps sb s2.warmed :=
    h2.replace rfl (State.Grows.refl s2) fun i => ⟨i.1, i.2.1, i.2.2.1, swf_warmRegs _, i.2.2.2.2.1, State.oneActive_none _ rfl⟩
  generalize s2.warmed = w at hw ⊢
  exact (Keeps.foldl (fun _ _ h => h.showPresent) hw).newNonce

theorem Keeps.startChannelDie {s : State} {die : Nat} (hK : Keeps sb s) : Keeps sb (s.startChannelDie die) := by
  unfold State.startChannelDie
  repeat' first
    | with_reducible assumption
    | with_reducible refine Keeps.setRf ?_
    | with_reducible refine Keeps.ceEnable ?_
    | with_reducible refine Keeps.csEnable ?_
    | with_reducible refine Keeps.foldl (fun _ _ _ => ?_) ?_
    | dsimp only

theorem Keeps.resumeDram {s : State} (hK : Keeps sb s) : Keeps sb (s.resumeDram) := by
  unfold State.resumeDram
  repeat' first
    | with_reducible assumption
    | with_reducible refine Keeps.setReg ?_
    | with_reducible refine Keeps.dcEnable ?_
    | with_reducible refine Keeps.foldl (fun _ _ _ => ?_) ?_
    | dsimp only

theorem Keeps.romSessions {s : State} (hK : Keeps sb s) : Keeps sb s.romSessions := by
  refine Keeps.foldl (fun t i ht => ?_) hK
  split
  · refine Keeps.ite ?_ ht
    split
    · exact ht.setPassive (by rintro y ⟨⟩; simp)
    · next ha =>
      exact ht.promote fun _ z hz => State.no_active (by simpa using ha) (by omega) hz
  · exact ht

theorem Keeps.trainOne {s : State} {c : Nat} (hK : Keeps sb s) : Keeps sb (s.trainOne c) := by
  unfold State.trainOne
  repeat' first
    | with_reducible assumption
    | with_reducible refine Keeps.setReg ?_
    | with_reducible refine Keeps.startTraining ?_
    | with_reducible refine Keeps.ite ?_ ?_
    | split
    | dsimp only

theorem Keeps.trainAll {s : State} (hK : Keeps sb s) : Keeps sb (s.trainAll) := by
  unfold State.trainAll
  repeat' first
    | with_reducible assumption
    | with_reducible refine Keeps.trainOne ?_
    | with_reducible refine Keeps.foldl (fun _ _ _ => ?_) ?_
    | dsimp only

theorem Keeps.zeroAll {s : State} (hK : Keeps sb s) : Keeps sb (s.zeroAll) := by
  unfold State.zeroAll
  repeat' first
    | with_reducible assumption
    | with_reducible refine Keeps.dcEnable ?_
    | with_reducible refine Keeps.enableZero ?_
    | with_reducible refine Keeps.ite ?_ ?_
    | with_reducible refine Keeps.foldl (fun _ _ _ => ?_) ?_
    | split
    | dsimp only

theorem Keeps.boardRails {s : State} (hK : Keeps sb s) : Keeps sb (s.boardRails) := by
  unfold State.boardRails
  repeat' first
    | with_reducible assumption
    | with_reducible refine Keeps.setRf ?_
    | with_reducible refine Keeps.foldl (fun _ _ _ => ?_) ?_
    | dsimp only

theorem Keeps.bootAction {s : State} {n : Nat} (hK : Keeps sb s) : Keeps sb (s.bootAction n) := by
  unfold State.bootAction
  repeat' first
    | with_reducible assumption
    | with_reducible refine Keeps.wsReset ?_
    | with_reducible refine Keeps.wipeVault ?_
    | with_reducible refine Keeps.mcStart ?_
    | with_reducible refine Keeps.romSessions ?_
    | with_reducible refine Keeps.boardRails ?_
    | with_reducible refine Keeps.setLink ?_
    | with_reducible refine Keeps.loadRoutes ?_
    | with_reducible refine Keeps.resumeDram ?_
    | with_reducible refine Keeps.trainAll ?_
    | with_reducible refine Keeps.endTraining ?_
    | with_reducible refine Keeps.zeroAll ?_
    | with_reducible refine Keeps.blowDone ?_
    | with_reducible refine Keeps.startChannelDie ?_
    | with_reducible refine Keeps.buildMap ?_
    | with_reducible refine Keeps.modUnit ?_
    | with_reducible refine Keeps.settle ?_
    | with_reducible refine Keeps.ite ?_ ?_
    | with_reducible refine Keeps.foldl (fun _ _ _ => ?_) ?_
    | split
    | dsimp only
    | with_reducible refine Keeps.upd ?_

theorem Keeps.bootStepEnd {s : State} {n : Nat} (hK : Keeps sb s) : Keeps sb (s.bootStepEnd n) := by
  unfold State.bootStepEnd
  repeat' first
    | with_reducible assumption
    | with_reducible refine Keeps.bootAction ?_
    | with_reducible refine Keeps.ite ?_ ?_
    | split
    | dsimp only
    | with_reducible refine Keeps.upd ?_

theorem Keeps.parityError {s : State} {m : Msg} (hK : Keeps sb s) : Keeps sb (s.parityError m) := by
  unfold State.parityError
  repeat' first
    | with_reducible assumption
    | with_reducible refine Keeps.unqueue ?_
    | with_reducible refine Keeps.send ?_
    | dsimp only

theorem Keeps.faultAccept {s : State} {parity : Bool} (hK : Keeps sb s) : Keeps sb (s.faultAccept parity) := by
  unfold State.faultAccept
  repeat' first
    | with_reducible assumption
    | with_reducible refine Keeps.parityError ?_
    | with_reducible refine Keeps.accept ?_
    | with_reducible refine Keeps.ite ?_ ?_
    | split
    | dsimp only
    | with_reducible refine Keeps.upd ?_

theorem execFaultMessageAccept_keeps {parity : Bool} {s : State} (hK : Keeps sb s) :
    KeepsR sb (execFaultMessageAccept parity s) := by
  unfold execFaultMessageAccept
  repeat' first
    | with_reducible assumption
    | with_reducible refine KeepsR.next ?_
    | with_reducible refine Keeps.faultAccept ?_
    | with_reducible exact KeepsR.fault
    | split
    | dsimp only

theorem Keeps.mergeOne {s : State} {parity : Bool} (hK : Keeps sb s) : Keeps sb (s.mergeOne parity) := by
  unfold State.mergeOne
  repeat' first
    | with_reducible assumption
    | with_reducible refine Keeps.merge ?_
    | with_reducible refine Keeps.send ?_
    | with_reducible refine Keeps.ite ?_ ?_
    | split
    | dsimp only
    | with_reducible refine Keeps.upd ?_

theorem execMessageMerged_keeps {parity : Bool} {s : State} (hK : Keeps sb s) : KeepsR sb (execMessageMerged parity s) := by
  unfold execMessageMerged
  repeat' first
    | with_reducible assumption
    | with_reducible refine KeepsR.next ?_
    | with_reducible refine Keeps.mergeOne ?_
    | split
    | dsimp only

theorem Keeps.ifPowered {s t : State} (hK : Keeps sb s) (ht : Keeps sb t) : Keeps sb (s.ifPowered t) := Keeps.ite ht hK

theorem execThresholdWindowReset_keeps {kind : Byte} {s : State} (hK : Keeps sb s) :
    KeepsR sb (execThresholdWindowReset kind s) := by
  unfold execThresholdWindowReset
  repeat' first
    | with_reducible assumption
    | with_reducible refine KeepsR.next ?_
    | with_reducible refine Keeps.ifPowered ?_ ?_
    | with_reducible refine Keeps.windowEnd ?_
    | split
    | dsimp only

theorem execConditionEnd_keeps {die : Fin 11} {unit : Byte} {kind : Byte} {part : Nat} {s : State} (hK : Keeps sb s) :
    KeepsR sb (execConditionEnd die unit kind part s) := by
  unfold execConditionEnd
  repeat' first
    | with_reducible assumption
    | with_reducible refine KeepsR.next ?_
    | with_reducible refine Keeps.condEnd ?_
    | split
    | dsimp only

theorem execFcAckWrite_keeps {w : Writer} {v : Dword} {s : State} (hK : Keeps sb s) : KeepsR sb (execFcAckWrite w v s) := by
  unfold execFcAckWrite
  repeat' first
    | with_reducible assumption
    | with_reducible refine KeepsR.next ?_
    | with_reducible refine Keeps.regWrite ?_
    | split
    | dsimp only

theorem execFirstStatValidClear_keeps {w : Writer} {c : Fin 7} {s : State} (hK : Keeps sb s) :
    KeepsR sb (execFirstStatValidClear w c s) := by
  unfold execFirstStatValidClear
  repeat' first
    | with_reducible assumption
    | with_reducible refine KeepsR.next ?_
    | with_reducible refine Keeps.writeBit ?_
    | split
    | dsimp only

theorem execFcInjCtlArmSet_keeps {w : Writer} {v : Dword} {s : State} (hK : Keeps sb s) :
    KeepsR sb (execFcInjCtlArmSet w v s) := by
  unfold execFcInjCtlArmSet
  repeat' first
    | with_reducible assumption
    | with_reducible refine KeepsR.next ?_
    | with_reducible refine Keeps.writeBit ?_
    | split
    | dsimp only

theorem execFcInjCtlArmClear_keeps {w : Writer} {v : Dword} {s : State} (hK : Keeps sb s) :
    KeepsR sb (execFcInjCtlArmClear w v s) := by
  unfold execFcInjCtlArmClear
  repeat' first
    | with_reducible assumption
    | with_reducible refine KeepsR.next ?_
    | with_reducible refine Keeps.writeBit ?_
    | split
    | dsimp only

theorem execInjectionPerformed_keeps {s : State} (hK : Keeps sb s) : KeepsR sb (execInjectionPerformed s) := by
  unfold execInjectionPerformed
  repeat' first
    | with_reducible assumption
    | with_reducible refine KeepsR.next ?_
    | with_reducible refine Keeps.unlessFrozen ?_ ?_
    | with_reducible refine Keeps.performInjection ?_
    | split
    | dsimp only

theorem execFlitCrcError_keeps {die : Fin 11} {port : Fin 4} {f : FlitFail} {s : State} (hK : Keeps sb s) :
    KeepsR sb (execFlitCrcError die port f s) := by
  unfold execFlitCrcError
  repeat' first
    | with_reducible assumption
    | with_reducible refine KeepsR.next ?_
    | with_reducible refine Keeps.ifPowered ?_ ?_
    | with_reducible refine Keeps.flitError ?_
    | split
    | dsimp only

theorem execTlsConnection_keeps {port : Fin 2} {c : TlsClient} {s : State} (hK : Keeps sb s) :
    KeepsR sb (execTlsConnection port c s) := by
  unfold execTlsConnection
  repeat' first
    | with_reducible assumption
    | with_reducible refine KeepsR.next ?_
    | with_reducible refine Keeps.connect ?_
    | split
    | dsimp only

theorem execHello_keeps {se : Fin 2} {req : Word} {vmin : Byte} {vmax : Byte} {s : State} (hK : Keeps sb s) :
    KeepsR sb (execHello se req vmin vmax s) := by
  unfold execHello
  repeat' first
    | with_reducible assumption
    | with_reducible refine KeepsR.next ?_
    | with_reducible refine Keeps.mcCode ?_
    | with_reducible refine Keeps.hello ?_
    | with_reducible refine Keeps.ite ?_ ?_
    | split
    | dsimp only

theorem execBye_keeps {se : Fin 2} {req : Word} {s : State} (hK : Keeps sb s) : KeepsR sb (execBye se req s) := by
  unfold execBye
  repeat' first
    | with_reducible assumption
    | with_reducible refine KeepsR.next ?_
    | with_reducible refine Keeps.admitRecord ?_ (fun _ _ => ?_)
    | with_reducible refine Keeps.respond ?_
    | with_reducible refine Keeps.closeSession ?_ (by omega)
    | split
    | dsimp only

theorem execPing_keeps {se : Fin 2} {req : Word} {s : State} (hK : Keeps sb s) : KeepsR sb (execPing se req s) := by
  unfold execPing
  repeat' first
    | with_reducible assumption
    | with_reducible refine KeepsR.next ?_
    | with_reducible refine Keeps.admitRecord ?_ (fun _ _ => ?_)
    | with_reducible refine Keeps.respond ?_
    | split
    | dsimp only

theorem execTakeover_keeps {se : Fin 2} {req : Word} {s : State} (hK : Keeps sb s) : KeepsR sb (execTakeover se req s) := by
  unfold execTakeover
  repeat' first
    | with_reducible assumption
    | with_reducible refine KeepsR.next ?_
    | with_reducible refine Keeps.admitRecord ?_ (fun _ _ => ?_)
    | with_reducible refine Keeps.takeover ?_
    | split
    | dsimp only

theorem execRelease_keeps {se : Fin 2} {req : Word} {s : State} (hK : Keeps sb s) : KeepsR sb (execRelease se req s) := by
  unfold execRelease
  repeat' first
    | with_reducible assumption
    | with_reducible refine KeepsR.next ?_
    | with_reducible refine Keeps.admitRecord ?_ (fun _ _ => ?_)
    | with_reducible refine Keeps.release ?_ (by omega)
    | split
    | dsimp only

theorem execSessionSilenceExpiry_keeps {se : Fin 2} {s : State} (hK : Keeps sb s) :
    KeepsR sb (execSessionSilenceExpiry se s) := by
  unfold execSessionSilenceExpiry
  repeat' first
    | with_reducible assumption
    | with_reducible refine KeepsR.next ?_
    | with_reducible refine Keeps.silence ?_ (by omega)
    | split
    | dsimp only

theorem execSessionConnectionLost_keeps {se : Fin 2} {s : State} (hK : Keeps sb s) :
    KeepsR sb (execSessionConnectionLost se s) := by
  unfold execSessionConnectionLost
  repeat' first
    | with_reducible assumption
    | with_reducible refine KeepsR.next ?_
    | with_reducible refine Keeps.closeSession ?_ (by omega)
    | split
    | dsimp only

theorem Keeps.unassigned {s : State} {i : Nat} {req : Word} {group code : Nat} (hK : Keeps sb s) :
    Keeps sb (s.unassigned i req group code) := by
  unfold State.unassigned
  split
  · exact hK
  · next x hx => exact (Keeps.mcCode (hK.setSame (x := { x with silent := false }) hx rfl)).respond

theorem execUnassignedFspRecord_keeps {se : Fin 2} {req : Word} {group : Byte} {code : Byte} {s : State} (hK : Keeps sb s) :
    KeepsR sb (execUnassignedFspRecord se req group code s) := by
  unfold execUnassignedFspRecord
  repeat' first
    | with_reducible assumption
    | with_reducible refine KeepsR.next ?_
    | with_reducible refine Keeps.unassigned ?_
    | split
    | dsimp only

theorem execManagementCoreFailure_keeps {m : Fin 4} {s : State} (hK : Keeps sb s) :
    KeepsR sb (execManagementCoreFailure m s) := by
  unfold execManagementCoreFailure
  repeat' first
    | with_reducible assumption
    | with_reducible refine KeepsR.next ?_
    | with_reducible refine Keeps.mcFail ?_
    | split
    | dsimp only

theorem Keeps.closePort {s : State} {port : Nat} (hK : Keeps sb s) : Keeps sb (s.closePort port) := by
  refine Keeps.foldl_mem (fun t i hi ht => ?_) hK
  split
  · exact Keeps.ite (ht.closeSession (List.mem_range.mp hi)) ht
  · exact ht

theorem Keeps.mgmtDown {s : State} {port : Nat} (hK : Keeps sb s) : Keeps sb (s.mgmtDown port) := by
  unfold State.mgmtDown
  repeat' first
    | with_reducible assumption
    | with_reducible refine Keeps.condBegin ?_
    | with_reducible refine Keeps.closePort ?_
    | with_reducible refine Keeps.ptpPortDown ?_
    | dsimp only
    | with_reducible refine Keeps.upd ?_

theorem execManagementLinkDown_keeps {port : Fin 2} {s : State} (hK : Keeps sb s) :
    KeepsR sb (execManagementLinkDown port s) := by
  unfold execManagementLinkDown
  repeat' first
    | with_reducible assumption
    | with_reducible refine KeepsR.next ?_
    | with_reducible refine Keeps.ifPowered ?_ ?_
    | with_reducible refine Keeps.mgmtDown ?_
    | split
    | dsimp only

theorem execManagementLinkUp_keeps {l : MgmtLink} {s : State} (hK : Keeps sb s) :
    KeepsR sb (execManagementLinkUp l s) := by
  unfold execManagementLinkUp
  repeat' first
    | with_reducible assumption
    | with_reducible refine KeepsR.next ?_
    | with_reducible refine Keeps.ifPowered ?_ ?_
    | with_reducible refine Keeps.mgmtUp ?_
    | split
    | dsimp only

theorem execLoadBegin_keeps {se : Fin 2} {req : Word} {k : LoadKind} {ver : Nat} {s : State} (hK : Keeps sb s) :
    KeepsR sb (execLoadBegin se req k ver s) := by
  unfold execLoadBegin
  repeat' first
    | with_reducible assumption
    | with_reducible refine KeepsR.next ?_
    | with_reducible refine Keeps.admitRecord ?_ (fun _ _ => ?_)
    | with_reducible refine Keeps.loadBegin ?_
    | split
    | dsimp only

theorem execLoadData_keeps {se : Fin 2} {req : Word} {data : List Byte} {s : State} (hK : Keeps sb s) :
    KeepsR sb (execLoadData se req data s) := by
  unfold execLoadData
  repeat' first
    | with_reducible assumption
    | with_reducible refine KeepsR.next ?_
    | with_reducible refine Keeps.admitRecord ?_ (fun _ _ => ?_)
    | with_reducible refine Keeps.loadData ?_
    | split
    | dsimp only

theorem execLoadEnd_keeps {se : Fin 2} {req : Word} {ok : Bool} {s : State} (hK : Keeps sb s) :
    KeepsR sb (execLoadEnd se req ok s) := by
  unfold execLoadEnd
  repeat' first
    | with_reducible assumption
    | with_reducible refine KeepsR.next ?_
    | with_reducible refine Keeps.admitRecord ?_ (fun _ _ => ?_)
    | with_reducible refine Keeps.loadEnd ?_
    | split
    | dsimp only

theorem execPowerStatus_keeps {se : Fin 2} {req : Word} {s : State} (hK : Keeps sb s) :
    KeepsR sb (execPowerStatus se req s) := by
  unfold execPowerStatus
  repeat' first
    | with_reducible assumption
    | with_reducible refine KeepsR.next ?_
    | with_reducible refine Keeps.admitRecord ?_ (fun _ _ => ?_)
    | with_reducible refine Keeps.respond ?_
    | split
    | dsimp only

theorem execWarmReset_keeps {se : Fin 2} {req : Word} {s : State} (hK : Keeps sb s) : KeepsR sb (execWarmReset se req s) := by
  unfold execWarmReset
  repeat' first
    | with_reducible assumption
    | with_reducible refine KeepsR.next ?_
    | with_reducible refine Keeps.admitRecord ?_ (fun _ _ => ?_)
    | with_reducible refine Keeps.respond ?_
    | with_reducible refine Keeps.warmReset ?_
    | with_reducible refine Keeps.ite ?_ ?_
    | split
    | dsimp only

theorem execPowerOff_keeps {se : Fin 2} {req : Word} {s : State} (hK : Keeps sb s) : KeepsR sb (execPowerOff se req s) := by
  unfold execPowerOff
  repeat' first
    | with_reducible assumption
    | with_reducible refine KeepsR.next ?_
    | with_reducible refine Keeps.admitRecord ?_ (fun _ _ => ?_)
    | with_reducible refine Keeps.respond ?_
    | with_reducible refine Keeps.powerDown ?_
    | split
    | dsimp only

theorem execRegRead_keeps {se : Fin 2} {req : Word} {l : List Pa} {s : State} (hK : Keeps sb s) :
    KeepsR sb (execRegRead se req l s) := by
  unfold execRegRead
  repeat' first
    | with_reducible assumption
    | with_reducible refine KeepsR.next ?_
    | with_reducible refine Keeps.admitRecord ?_ (fun _ _ => ?_)
    | with_reducible refine Keeps.fspRegRead ?_
    | split
    | dsimp only

theorem execRegWrite_keeps {se : Fin 2} {req : Word} {l : List (Pa × Dword)} {s : State} (hK : Keeps sb s) :
    KeepsR sb (execRegWrite se req l s) := by
  unfold execRegWrite
  repeat' first
    | with_reducible assumption
    | with_reducible refine KeepsR.next ?_
    | with_reducible refine Keeps.admitRecord ?_ (fun _ _ => ?_)
    | with_reducible refine Keeps.fspRegWrite ?_
    | split
    | dsimp only

theorem execFaultRead_keeps {se : Fin 2} {req : Word} {s : State} (hK : Keeps sb s) : KeepsR sb (execFaultRead se req s) := by
  unfold execFaultRead
  repeat' first
    | with_reducible assumption
    | with_reducible refine KeepsR.next ?_
    | with_reducible refine Keeps.admitRecord ?_ (fun _ _ => ?_)
    | with_reducible refine Keeps.respond ?_
    | with_reducible exact KeepsR.fault
    | split
    | dsimp only

theorem execFaultAck_keeps {se : Fin 2} {req : Word} {cls : BitVec 3} {seq : Word} {s : State} (hK : Keeps sb s) :
    KeepsR sb (execFaultAck se req cls seq s) := by
  unfold execFaultAck
  repeat' first
    | with_reducible assumption
    | with_reducible refine KeepsR.next ?_
    | with_reducible refine Keeps.admitRecord ?_ (fun _ _ => ?_)
    | with_reducible refine Keeps.respond ?_
    | with_reducible refine Keeps.ackUpTo ?_
    | with_reducible refine Keeps.ite ?_ ?_
    | split
    | dsimp only

theorem execInject_keeps {se : Fin 2} {req : Word} {tgt : Dword} {ctl : Dword} {s : State} (hK : Keeps sb s) :
    KeepsR sb (execInject se req tgt ctl s) := by
  unfold execInject
  repeat' first
    | with_reducible assumption
    | with_reducible refine KeepsR.next ?_
    | with_reducible refine Keeps.admitRecord ?_ (fun _ _ => ?_)
    | with_reducible refine Keeps.writeAndRespond ?_
    | split
    | dsimp only

theorem execTodSet_keeps {se : Fin 2} {req : Word} {v : Dword} {s : State} (hK : Keeps sb s) :
    KeepsR sb (execTodSet se req v s) := by
  unfold execTodSet
  repeat' first
    | with_reducible assumption
    | with_reducible refine KeepsR.next ?_
    | with_reducible refine Keeps.admitRecord ?_ (fun _ _ => ?_)
    | with_reducible refine Keeps.respond ?_
    | with_reducible refine Keeps.stepTod ?_
    | with_reducible refine Keeps.ite ?_ ?_
    | split
    | dsimp only

theorem execPtpConfig_keeps {se : Fin 2} {req : Word} {domain : Byte} {transport : BitVec 2} {en : Bool} {s : State} (hK : Keeps sb s) :
    KeepsR sb (execPtpConfig se req domain transport en s) := by
  unfold execPtpConfig
  repeat' first
    | with_reducible assumption
    | with_reducible refine KeepsR.next ?_
    | with_reducible refine Keeps.admitRecord ?_ (fun _ _ => ?_)
    | with_reducible refine Keeps.writeAndRespond ?_
    | split
    | dsimp only

theorem execSnap_keeps {se : Fin 2} {req : Word} {s : State} (hK : Keeps sb s) : KeepsR sb (execSnap se req s) := by
  unfold execSnap
  repeat' first
    | with_reducible assumption
    | with_reducible refine KeepsR.next ?_
    | with_reducible refine Keeps.admitRecord ?_ (fun _ _ => ?_)
    | with_reducible refine Keeps.snapRequest ?_
    | split
    | dsimp only

theorem execSparePolicy_keeps {se : Fin 2} {req : Word} {xdie : Bool} {reserve : BitVec 16} {s : State} (hK : Keeps sb s) :
    KeepsR sb (execSparePolicy se req xdie reserve s) := by
  unfold execSparePolicy
  repeat' first
    | with_reducible assumption
    | with_reducible refine KeepsR.next ?_
    | with_reducible refine Keeps.admitRecord ?_ (fun _ _ => ?_)
    | with_reducible refine Keeps.writeAndRespond ?_
    | split
    | dsimp only

theorem execCmapWrite_keeps {se : Fin 2} {req : Word} {l : List (CpuNo × Dword)} {s : State} (hK : Keeps sb s) :
    KeepsR sb (execCmapWrite se req l s) := by
  unfold execCmapWrite
  repeat' first
    | with_reducible assumption
    | with_reducible refine KeepsR.next ?_
    | with_reducible refine Keeps.admitRecord ?_ (fun _ _ => ?_)
    | with_reducible refine Keeps.writeAndRespond ?_
    | split
    | dsimp only

theorem execLcNonce_keeps {se : Fin 2} {req : Word} {s : State} (hK : Keeps sb s) : KeepsR sb (execLcNonce se req s) := by
  unfold execLcNonce
  repeat' first
    | with_reducible assumption
    | with_reducible refine KeepsR.next ?_
    | with_reducible refine Keeps.admitRecord ?_ (fun _ _ => ?_)
    | with_reducible refine Keeps.respond ?_
    | split
    | dsimp only

theorem execLcTransition_keeps {se : Fin 2} {req : Word} {target : BitVec 4} {nonce : BitVec 256} {g : LcSig} {s : State} (hK : Keeps sb s) :
    KeepsR sb (execLcTransition se req target nonce g s) := by
  unfold execLcTransition
  repeat' first
    | with_reducible assumption
    | with_reducible refine KeepsR.next ?_
    | with_reducible refine Keeps.admitRecord ?_ (fun _ _ => ?_)
    | with_reducible refine Keeps.lcTransition ?_
    | with_reducible refine Keeps.newNonce ?_
    | with_reducible refine Keeps.ite ?_ ?_
    | split
    | dsimp only

theorem execLcProvision_keeps {se : Fin 2} {req : Word} {anchor : List Byte} {keyHash : List Byte} {node : List Byte} {s : State} (hK : Keeps sb s) :
    KeepsR sb (execLcProvision se req anchor keyHash node s) := by
  unfold execLcProvision
  repeat' first
    | with_reducible assumption
    | with_reducible refine KeepsR.next ?_
    | with_reducible refine Keeps.admitRecord ?_ (fun _ _ => ?_)
    | with_reducible refine Keeps.lcProvision ?_
    | split
    | dsimp only

theorem execLcWipeStepEnd_keeps {s : State} (hK : Keeps sb s) : KeepsR sb (execLcWipeStepEnd s) := by
  unfold execLcWipeStepEnd
  repeat' first
    | with_reducible assumption
    | with_reducible refine KeepsR.next ?_
    | with_reducible refine Keeps.ifPowered ?_ ?_
    | with_reducible refine Keeps.wipeStepEnd ?_
    | split
    | dsimp only

theorem execJtagInstruction_keeps {i : JtagInstr} {s : State} (hK : Keeps sb s) : KeepsR sb (execJtagInstruction i s) := by
  unfold execJtagInstruction
  repeat' first
    | with_reducible assumption
    | with_reducible refine KeepsR.next ?_
    | with_reducible refine Keeps.ifPowered ?_ ?_
    | with_reducible refine Keeps.jtagLoad ?_
    | split
    | dsimp only

theorem execSnapGo_keeps {w : Writer} {s : State} (hK : Keeps sb s) : KeepsR sb (execSnapGo w s) := by
  unfold execSnapGo
  repeat' first
    | with_reducible assumption
    | with_reducible refine KeepsR.next ?_
    | with_reducible refine Keeps.writeBit ?_
    | split
    | dsimp only

theorem execSnapshotCapture_keeps {s : State} (hK : Keeps sb s) : KeepsR sb (execSnapshotCapture s) := by
  unfold execSnapshotCapture
  repeat' first
    | with_reducible assumption
    | with_reducible refine KeepsR.next ?_
    | with_reducible refine Keeps.ifPowered ?_ ?_
    | with_reducible refine Keeps.snapCapture ?_
    | split
    | dsimp only

theorem execSnapshotDone_keeps {s : State} (hK : Keeps sb s) : KeepsR sb (execSnapshotDone s) := by
  unfold execSnapshotDone
  repeat' first
    | with_reducible assumption
    | with_reducible refine KeepsR.next ?_
    | with_reducible refine Keeps.ifPowered ?_ ?_
    | with_reducible refine Keeps.snapDone ?_
    | split
    | dsimp only

theorem execPtpEventMessage_keeps {e : PtpEvent} {s : State} (hK : Keeps sb s) : KeepsR sb (execPtpEventMessage e s) := by
  unfold execPtpEventMessage
  repeat' first
    | with_reducible assumption
    | with_reducible refine KeepsR.next ?_
    | with_reducible refine Keeps.ifPowered ?_ ?_
    | with_reducible refine Keeps.ptpMessage ?_
    | split
    | dsimp only

theorem execPtpHoldover_keeps {s : State} (hK : Keeps sb s) : KeepsR sb (execPtpHoldover s) := by
  unfold execPtpHoldover
  repeat' first
    | with_reducible assumption
    | with_reducible refine KeepsR.next ?_
    | with_reducible refine Keeps.ifPowered ?_ ?_
    | with_reducible refine Keeps.ptpHold ?_
    | split
    | dsimp only

theorem execClkTodSetWrite_keeps {w : Writer} {v : Dword} {s : State} (hK : Keeps sb s) :
    KeepsR sb (execClkTodSetWrite w v s) := by
  unfold execClkTodSetWrite
  repeat' first
    | with_reducible assumption
    | with_reducible refine KeepsR.next ?_
    | with_reducible refine Keeps.regWrite ?_
    | split
    | dsimp only

theorem execPmbusPoll_keeps {rds : List (Option Reading)} {s : State} (hK : Keeps sb s) : KeepsR sb (execPmbusPoll rds s) := by
  unfold execPmbusPoll
  repeat' first
    | with_reducible assumption
    | with_reducible refine KeepsR.next ?_
    | with_reducible refine Keeps.pollRails ?_
    | with_reducible exact KeepsR.fault
    | with_reducible refine Keeps.ite ?_ ?_
    | split
    | dsimp only

theorem execSmbalert_keeps {rds : List (Option Reading)} {s : State} (hK : Keeps sb s) : KeepsR sb (execSmbalert rds s) := by
  unfold execSmbalert
  repeat' first
    | with_reducible assumption
    | with_reducible refine KeepsR.next ?_
    | with_reducible refine Keeps.pollRails ?_
    | with_reducible exact KeepsR.fault
    | with_reducible refine Keeps.ite ?_ ?_
    | split
    | dsimp only

theorem Keeps.governs {s : State} {r : Nat} {o : GovObs} (hK : Keeps sb s) : Keeps sb (s.governs r o) := by
  unfold State.governs
  repeat' first
    | with_reducible assumption
    | with_reducible refine Keeps.governor ?_
    | with_reducible refine Keeps.adapt ?_
    | with_reducible refine Keeps.ite ?_ ?_
    | split
    | dsimp only

theorem execGovernorInterval_keeps {rail : Fin 5} {o : GovObs} {s : State} (hK : Keeps sb s) :
    KeepsR sb (execGovernorInterval rail o s) := by
  unfold execGovernorInterval
  repeat' first
    | with_reducible assumption
    | with_reducible refine KeepsR.next ?_
    | with_reducible refine Keeps.governs ?_
    | split
    | dsimp only

theorem execPwrSlewWrite_keeps {w : Writer} {r : Fin 5} {v : Dword} {s : State} (hK : Keeps sb s) :
    KeepsR sb (execPwrSlewWrite w r v s) := by
  unfold execPwrSlewWrite
  repeat' first
    | with_reducible assumption
    | with_reducible refine KeepsR.next ?_
    | with_reducible refine Keeps.regWrite ?_
    | split
    | dsimp only

theorem execDroopDetected_keeps {die : CxDie} {cluster : Fin 2} {o : DroopObs} {s : State} (hK : Keeps sb s) :
    KeepsR sb (execDroopDetected die cluster o s) := by
  unfold execDroopDetected
  repeat' first
    | with_reducible assumption
    | with_reducible refine KeepsR.next ?_
    | with_reducible refine Keeps.droop ?_
    | with_reducible refine Keeps.ite ?_ ?_
    | split
    | dsimp only

theorem execDroopRelease_keeps {die : CxDie} {cluster : Fin 2} {s : State} (hK : Keeps sb s) :
    KeepsR sb (execDroopRelease die cluster s) := by
  unfold execDroopRelease
  repeat' first
    | with_reducible assumption
    | with_reducible refine KeepsR.next ?_
    | with_reducible refine Keeps.droopEnd ?_
    | split
    | dsimp only

theorem execClockSynthesiserUnlock_keeps {d : Fin 60} {s : State} (hK : Keeps sb s) :
    KeepsR sb (execClockSynthesiserUnlock d s) := by
  unfold execClockSynthesiserUnlock
  repeat' first
    | with_reducible assumption
    | with_reducible refine KeepsR.next ?_
    | with_reducible refine Keeps.ifPowered ?_ ?_
    | with_reducible refine Keeps.condBegin ?_
    | split
    | dsimp only

theorem execPassStart_keeps {die : Fin 11} {o : PassObs} {s : State} (hK : Keeps sb s) : KeepsR sb (execPassStart die o s) := by
  unfold execPassStart
  repeat' first
    | with_reducible assumption
    | with_reducible refine KeepsR.next ?_
    | with_reducible refine Keeps.passStart ?_
    | split
    | dsimp only

theorem execPlainNodeBufferError_keeps {die : Fin 11} {s : State} (hK : Keeps sb s) :
    KeepsR sb (execPlainNodeBufferError die s) := by
  unfold execPlainNodeBufferError
  repeat' first
    | with_reducible assumption
    | with_reducible refine KeepsR.next ?_
    | with_reducible refine Keeps.ifPowered ?_ ?_
    | with_reducible refine Keeps.send ?_
    | split
    | dsimp only

theorem execTodDistributionFault_keeps {s : State} (hK : Keeps sb s) : KeepsR sb (execTodDistributionFault s) := by
  unfold execTodDistributionFault
  repeat' first
    | with_reducible assumption
    | with_reducible refine KeepsR.next ?_
    | with_reducible refine Keeps.ifPowered ?_ ?_
    | with_reducible refine Keeps.send ?_
    | split
    | dsimp only

theorem execFuseControllerFault_keeps {s : State} (hK : Keeps sb s) : KeepsR sb (execFuseControllerFault s) := by
  unfold execFuseControllerFault
  repeat' first
    | with_reducible assumption
    | with_reducible refine KeepsR.next ?_
    | with_reducible refine Keeps.ifPowered ?_ ?_
    | with_reducible refine Keeps.send ?_
    | split
    | dsimp only

theorem execResetN_keeps {low : Nat} {s : State} (hK : Keeps sb s) : KeepsR sb (execResetN low s) := by
  unfold execResetN
  repeat' first
    | with_reducible assumption
    | with_reducible refine KeepsR.next ?_
    | with_reducible refine Keeps.resetPin ?_
    | split
    | dsimp only

theorem execColdResetStepEnd_keeps {n : Fin 14} {s : State} (hK : Keeps sb s) : KeepsR sb (execColdResetStepEnd n s) := by
  unfold execColdResetStepEnd
  repeat' first
    | with_reducible assumption
    | with_reducible refine KeepsR.next ?_
    | with_reducible refine Keeps.bootStepEnd ?_
    | split
    | dsimp only

theorem execVauxLoss_keeps {s : State} (hK : Keeps sb s) : KeepsR sb (execVauxLoss s) := by
  unfold execVauxLoss
  repeat' first
    | with_reducible assumption
    | with_reducible refine KeepsR.next ?_
    | with_reducible refine Keeps.vauxFails ?_
    | split
    | dsimp only

theorem execPowerOn_keeps {s : State} (hK : Keeps sb s) : KeepsR sb (execPowerOn s) := by
  unfold execPowerOn
  repeat' first
    | with_reducible assumption
    | with_reducible refine KeepsR.next ?_
    | with_reducible refine Keeps.powerUp ?_
    | split
    | dsimp only

theorem execCoreChkStatClr_keeps {w : Writer} {core : CoreNo} {v : Dword} {s : State} (hK : Keeps sb s) :
    KeepsR sb (execCoreChkStatClr w core v s) := by
  unfold execCoreChkStatClr
  repeat' first
    | with_reducible assumption
    | with_reducible refine KeepsR.next ?_
    | with_reducible refine Keeps.writeBit ?_
    | split
    | dsimp only

theorem execL2ErrClr_keeps {w : Writer} {core : CoreNo} {v : Dword} {s : State} (hK : Keeps sb s) :
    KeepsR sb (execL2ErrClr w core v s) := by
  unfold execL2ErrClr
  repeat' first
    | with_reducible assumption
    | with_reducible refine KeepsR.next ?_
    | with_reducible refine Keeps.writeBit ?_
    | split
    | dsimp only

theorem execL3ErrClr_keeps {w : Writer} {die : CxDie} {v : Dword} {s : State} (hK : Keeps sb s) :
    KeepsR sb (execL3ErrClr w die v s) := by
  unfold execL3ErrClr
  repeat' first
    | with_reducible assumption
    | with_reducible refine KeepsR.next ?_
    | with_reducible refine Keeps.writeBit ?_
    | split
    | dsimp only

theorem execDcErrClr_keeps {w : Writer} {c : Fin 16} {v : Dword} {s : State} (hK : Keeps sb s) :
    KeepsR sb (execDcErrClr w c v s) := by
  unfold execDcErrClr
  repeat' first
    | with_reducible assumption
    | with_reducible refine KeepsR.next ?_
    | with_reducible refine Keeps.writeBit ?_
    | split
    | dsimp only

theorem execCsStaleClr_keeps {w : Writer} {die : ChDie} {img : Fin 96} {v : Dword} {s : State} (hK : Keeps sb s) :
    KeepsR sb (execCsStaleClr w die img v s) := by
  unfold execCsStaleClr
  repeat' first
    | with_reducible assumption
    | with_reducible refine KeepsR.next ?_
    | with_reducible refine Keeps.writeBit ?_
    | split
    | dsimp only

theorem execClCntClr_keeps {w : Writer} {die : ChDie} {port : Fin 12} {tag : Bool} {v : Dword} {s : State} (hK : Keeps sb s) :
    KeepsR sb (execClCntClr w die port tag v s) := by
  unfold execClCntClr
  repeat' first
    | with_reducible assumption
    | with_reducible refine KeepsR.next ?_
    | with_reducible refine Keeps.writeBit ?_
    | with_reducible refine Keeps.ite ?_ ?_
    | split
    | dsimp only

theorem execAccErrClr_keeps {w : Writer} {die : Fin 10} {inst : Fin 8} {v : Dword} {s : State} (hK : Keeps sb s) :
    KeepsR sb (execAccErrClr w die inst v s) := by
  unfold execAccErrClr
  repeat' first
    | with_reducible assumption
    | with_reducible refine KeepsR.next ?_
    | with_reducible refine Keeps.writeBit ?_
    | split
    | dsimp only

theorem execWsCntClr_keeps {w : Writer} {die : WsDie} {v : Dword} {s : State} (hK : Keeps sb s) :
    KeepsR sb (execWsCntClr w die v s) := by
  unfold execWsCntClr
  repeat' first
    | with_reducible assumption
    | with_reducible refine KeepsR.next ?_
    | with_reducible refine Keeps.writeBit ?_
    | split
    | dsimp only

theorem execWsErrClr_keeps {w : Writer} {die : WsDie} {v : Dword} {s : State} (hK : Keeps sb s) :
    KeepsR sb (execWsErrClr w die v s) := by
  unfold execWsErrClr
  repeat' first
    | with_reducible assumption
    | with_reducible refine KeepsR.next ?_
    | with_reducible refine Keeps.writeBit ?_
    | split
    | dsimp only

theorem execFcCntClr_keeps {w : Writer} {c : Fin 7} {v : Dword} {s : State} (hK : Keeps sb s) :
    KeepsR sb (execFcCntClr w c v s) := by
  unfold execFcCntClr
  repeat' first
    | with_reducible assumption
    | with_reducible refine KeepsR.next ?_
    | with_reducible refine Keeps.writeBit ?_
    | split
    | dsimp only

theorem execFcCntMiscClr_keeps {w : Writer} {v : Dword} {s : State} (hK : Keeps sb s) : KeepsR sb (execFcCntMiscClr w v s) := by
  unfold execFcCntMiscClr
  repeat' first
    | with_reducible assumption
    | with_reducible refine KeepsR.next ?_
    | with_reducible refine Keeps.writeBit ?_
    | split
    | dsimp only

theorem execPwrDroopClr_keeps {w : Writer} {die : CxDie} {v : Dword} {s : State} (hK : Keeps sb s) :
    KeepsR sb (execPwrDroopClr w die v s) := by
  unfold execPwrDroopClr
  repeat' first
    | with_reducible assumption
    | with_reducible refine KeepsR.next ?_
    | with_reducible refine Keeps.writeBit ?_
    | split
    | dsimp only

theorem execRegisterWrite_keeps {w : Writer} {a : Pa} {v : Dword} {s : State} (hK : Keeps sb s) :
    KeepsR sb (execRegisterWrite w a v s) := by
  unfold execRegisterWrite
  repeat' first
    | with_reducible assumption
    | with_reducible refine KeepsR.next ?_
    | with_reducible refine Keeps.regWrite ?_
    | split
    | dsimp only

end Sys2Proof.Machine
end

