-- ==== Sys2Proof/Laws/Quiet.lean ====
section
/-! SUPPORT. What the caches, the home dies and the DRAM controllers leave as it was: storage as every agent observes it, working
store, and what instructions hold in every executing unit. -/
namespace Sys2Proof.Machine
open Sys2Proof

/-- From s to t storage, working store and what instructions hold in the executing units are the same. -/
structure Quiet (s t : State) : Prop where
  mem : t.mem = s.mem
  ws : t.ws = s.ws
  held : ∀ u, (t.unit u).kept = (s.unit u).kept

namespace Quiet

variable {sb X : State}

theorem refl (s : State) : Quiet s s := ⟨rfl, rfl, fun _ => rfl⟩

theorem upd (h : Quiet sb X)
    {pending : List Instr} {free : Nat} {regs : Store Dword} {shadows : Store Dword} {dram : List Host.Cell}
    {poison : List Nat} {dramPoison : List (Nat × Nat)} {cores : Store CoreHw} {dies : Store DieHw} {errs : List ArrErr}
    {images : Store (Option Image)} {held : List (Nat × Sig)} {moves : List (Nat × Nat × Nat × Bool)}
    {msgs : Store (List Msg)} {tod : Dword} {elapsed : Nat} {fuses : Fuses} {merges : List Msg} {dimm : Dimm}
    {ctls : Store DramCtl} {sct : Store Sct} {sctMir : Store Sct} {slots : Store Slot} {slotsMir : Store Slot}
    {xfers : Store Xfer} {chanTlb : List TlbEntry} {aborts : List AbortRec} {unmirrored : List Nat}
    {conds : List (Nat × Nat × Nat)} {logins : Store Login} {ports : Store PortHw} {wire : List Sent}
    {engineFw : Store (Option Nat)} {accFailed : List Nat} {drbgs : Store Drbg} {wrapKeys : Store (Option WrapKey)}
    {serials : Store Nat} {conts : List (List Byte × Cont)} {chains : List (List Byte × Chain)} {wsTests : Store WsTest}
    {vaultDead : Bool} {live : List LiveCond} {unacked : List (Nat × Word)} {injected : List Injected} {alive : Pin}
    {chkstopN : Pin} {plainDown : List Nat} {routes : List (List Nat)} {halted : Bool} {passes : Store Pass} {boot : Boot}
    {powered : Bool} {temps : Store Nat} {vset : Store Nat} {rails : List Nat} {railCmds : List RailCmd} {govs : Store Gov}
    {spareTests : List Nat} {mgmtPorts : Store (Option MgmtPort)} {ptp : Ptp} {plainTx : Store PlainTx}
    {stretch : Store Nat} {sessions : Store (Option Session)} {fspOut : List FspOut} {load : Option Load} {fwLoaded : Bool}
    {hostLoaded : Bool} {lcRows : List (Nat × Bool)} {lcStep : Nat} {owner : Option Owner} {jtag : JtagInstr}
    {snapAt : Option Dword} {snapTaken : Bool} {snapWait : List (Nat × Word)} {snapTags : Store (Option Nat)}
    {todWait : List TodWait} {todFrac : Nat} :
    Quiet sb (State.mk
      pending free X.units regs shadows X.mem dram poison dramPoison cores dies errs images held moves msgs tod elapsed
      fuses merges dimm ctls X.ws sct sctMir slots slotsMir xfers chanTlb aborts unmirrored conds logins ports wire engineFw
      accFailed drbgs wrapKeys serials conts chains wsTests vaultDead live unacked injected alive chkstopN plainDown routes
      halted passes boot powered temps vset rails railCmds govs spareTests mgmtPorts ptp plainTx stretch sessions fspOut
      load fwLoaded hostLoaded lcRows lcStep owner jtag snapAt snapTaken snapWait snapTags todWait todFrac) :=
  ⟨h.mem, h.ws, h.held⟩

theorem ite {c : Prop} [Decidable c] {a b : State} (ha : Quiet sb a) (hb : Quiet sb b) : Quiet sb (if c then a else b) := by
  split
  · exact ha
  · exact hb

theorem foldl {α : Type} {f : State → α → State} (hf : ∀ t x, Quiet sb t → Quiet sb (f t x)) {l : List α} {t : State}
    (h : Quiet sb t) : Quiet sb (l.foldl f t) := by
  induction l generalizing t with
  | nil => exact h
  | cons x l ih => exact ih (hf t x h)

theorem foldl_fst {α β : Type} {f : State × β → α → State × β} (hf : ∀ t x, Quiet sb t.1 → Quiet sb (f t x).1) {l : List α}
    {t : State × β} (h : Quiet sb t.1) : Quiet sb (l.foldl f t).1 := by
  induction l generalizing t with
  | nil => exact h
  | cons x l ih => exact ih (hf t x h)

theorem of_fst {α : Type} {x : State × α} {t : State} {a : α} (e : x = (t, a)) (h : Quiet sb x.1) : Quiet sb t := by
  subst e; exact h

theorem of_snd {α : Type} {x : α × State} {t : State} {a : α} (e : x = (a, t)) (h : Quiet sb x.2) : Quiet sb t := by
  subst e; exact h

/-- A change of a unit that leaves what its instructions hold. -/
theorem modUnit {u : Nat} {f : Cpu → Cpu} (h : Quiet sb X)
    (hf : ∀ c, (f c).kept = c.kept) : Quiet sb (X.modUnit u f) := by
  refine ⟨h.mem, h.ws, fun v => ?_⟩
  have hv : (X.modUnit u f).unit v = if v = u then f (X.unit u) else X.unit v := sget_sput _ _ _ _ _
  rw [hv]
  split
  · next e => subst e; exact (hf _).trans (h.held v)
  · exact h.held v

end Quiet

variable {sb : State}

theorem Quiet.setReg {s : State} {a : Nat} {v : Dword} (hK : Quiet sb s) : Quiet sb (s.setReg a v) := by
  unfold State.setReg
  repeat' first
    | with_reducible assumption
    | dsimp only
    | with_reducible refine Quiet.upd ?_

theorem Quiet.setRf {s : State} {a : Nat} {lo : Nat} {w : Nat} {n : Nat} (hK : Quiet sb s) : Quiet sb (s.setRf a lo w n) := by
  unfold State.setRf
  repeat' first
    | with_reducible assumption
    | with_reducible refine Quiet.setReg ?_
    | dsimp only

theorem Quiet.errInc {s : State} {a : Nat} {lo : Nat} {w : Nat} {sat : Nat} (hK : Quiet sb s) :
    Quiet sb (s.errInc a lo w sat) := by
  unfold State.errInc
  repeat' first
    | with_reducible assumption
    | with_reducible refine Quiet.setReg ?_
    | with_reducible refine Quiet.ite ?_ ?_
    | split
    | dsimp only

theorem Quiet.setCore {s : State} {k : Nat} {c : CoreHw} (hK : Quiet sb s) : Quiet sb (s.setCore k c) := by
  unfold State.setCore
  repeat' first
    | with_reducible assumption
    | dsimp only
    | with_reducible refine Quiet.upd ?_

theorem Quiet.modCore {s : State} {k : Nat} {f : CoreHw → CoreHw} (hK : Quiet sb s) : Quiet sb (s.modCore k f) := by
  unfold State.modCore
  repeat' first
    | with_reducible assumption
    | with_reducible refine Quiet.setCore ?_
    | dsimp only

theorem Quiet.setDie {s : State} {d : Nat} {h : DieHw} (hK : Quiet sb s) : Quiet sb (s.setDie d h) := by
  unfold State.setDie
  repeat' first
    | with_reducible assumption
    | dsimp only
    | with_reducible refine Quiet.upd ?_

theorem Quiet.modDie {s : State} {d : Nat} {f : DieHw → DieHw} (hK : Quiet sb s) : Quiet sb (s.modDie d f) := by
  unfold State.modDie
  repeat' first
    | with_reducible assumption
    | with_reducible refine Quiet.setDie ?_
    | dsimp only

theorem Quiet.setQueue {s : State} {die : Nat} {q : List Msg} (hK : Quiet sb s) : Quiet sb (s.setQueue die q) := by
  unfold State.setQueue
  repeat' first
    | with_reducible assumption
    | dsimp only
    | with_reducible refine Quiet.upd ?_

theorem Quiet.sendMsg {s : State} {m : Msg} (hK : Quiet sb s) : Quiet sb (s.sendMsg m) := by
  unfold State.sendMsg
  repeat' first
    | with_reducible assumption
    | with_reducible refine Quiet.setQueue ?_
    | with_reducible refine Quiet.ite ?_ ?_
    | split
    | dsimp only
    | with_reducible refine Quiet.upd ?_

theorem Quiet.send {s : State} {die : Nat} {unit : Nat} {kind : Nat} {cls : Nat} {synd : Nat} {inj : optParam Bool false} {coin : optParam Bool false} (hK : Quiet sb s) :
    Quiet sb (s.send die unit kind cls synd inj coin) := by
  unfold State.send
  repeat' first
    | with_reducible assumption
    | with_reducible refine Quiet.sendMsg ?_
    | with_reducible refine Quiet.ite ?_ ?_
    | split
    | dsimp only
    | with_reducible refine Quiet.upd ?_

theorem Quiet.pendSignal {s : State} {u : Nat} {v : Dword} (hK : Quiet sb s) : Quiet sb (s.pendSignal u v) :=
  hK.modUnit fun c => by split <;> rfl

theorem Quiet.hostSignal {s : State} {code : Nat} {detail : Nat} (hK : Quiet sb s) : Quiet sb (s.hostSignal code detail) := by
  unfold State.hostSignal
  repeat' first
    | with_reducible assumption
    | with_reducible refine Quiet.pendSignal ?_
    | split
    | dsimp only
    | with_reducible refine Quiet.upd ?_

theorem Quiet.fspSend {s : State} {i : Nat} {event : Bool} {group : Nat} {code : Nat} {req : Word} {status : Nat} {body : List Dword} (hK : Quiet sb s) :
    Quiet sb (s.fspSend i event group code req status body) := by
  unfold State.fspSend
  repeat' first
    | with_reducible assumption
    | dsimp only
    | with_reducible refine Quiet.upd ?_

theorem Quiet.fspEvent {s : State} {group : Nat} {code : Nat} {body : List Dword} (hK : Quiet sb s) :
    Quiet sb (s.fspEvent group code body) := by
  unfold State.fspEvent
  repeat' first
    | with_reducible assumption
    | with_reducible refine Quiet.fspSend ?_
    | with_reducible refine Quiet.ite ?_ ?_
    | with_reducible refine Quiet.foldl (fun _ _ _ => ?_) ?_
    | split
    | dsimp only
    | with_reducible refine Quiet.upd ?_

theorem Quiet.setCtl {s : State} {c : Nat} {k : DramCtl} (hK : Quiet sb s) : Quiet sb (s.setCtl c k) := by
  unfold State.setCtl
  repeat' first
    | with_reducible assumption
    | dsimp only
    | with_reducible refine Quiet.upd ?_

theorem Quiet.modCtl {s : State} {c : Nat} {f : DramCtl → DramCtl} (hK : Quiet sb s) : Quiet sb (s.modCtl c f) := by
  unfold State.modCtl
  repeat' first
    | with_reducible assumption
    | with_reducible refine Quiet.setCtl ?_
    | dsimp only

theorem Quiet.setDcState {s : State} {c : Nat} {n : Nat} (hK : Quiet sb s) : Quiet sb (s.setDcState c n) := by
  unfold State.setDcState
  repeat' first
    | with_reducible assumption
    | with_reducible refine Quiet.setRf ?_
    | dsimp only

theorem Quiet.dcSend {s : State} {c : Nat} {kind : Nat} {cls : Nat} {pa : Nat} {dev : Nat} {inj : Bool} {coin : optParam Bool false} (hK : Quiet sb s) :
    Quiet sb (s.dcSend c kind cls pa dev inj coin) := by
  unfold State.dcSend
  repeat' first
    | with_reducible assumption
    | with_reducible refine Quiet.send ?_
    | dsimp only

theorem Quiet.evInc {s : State} {a : Nat} {n : Nat} (hK : Quiet sb s) : Quiet sb (s.evInc a n) := by
  unfold State.evInc
  repeat' first
    | with_reducible assumption
    | with_reducible refine Quiet.setRf ?_
    | with_reducible refine Quiet.setReg ?_
    | with_reducible refine Quiet.hostSignal ?_
    | with_reducible refine Quiet.fspEvent ?_
    | with_reducible refine Quiet.ite ?_ ?_
    | split
    | dsimp only

theorem Quiet.manage {s : State} {c : Nat} {key : Nat} (hK : Quiet sb s) : Quiet sb (s.manage c key) := by
  unfold State.manage
  repeat' first
    | with_reducible assumption
    | with_reducible refine Quiet.modCtl ?_
    | with_reducible refine Quiet.ite ?_ ?_
    | split
    | dsimp only
    | with_reducible refine Quiet.upd ?_

theorem Quiet.openRow {s : State} {c : Nat} {block : Nat} (hK : Quiet sb s) : Quiet sb (s.openRow c block) := by
  unfold State.openRow
  repeat' first
    | with_reducible assumption
    | with_reducible refine Quiet.manage ?_
    | with_reducible refine Quiet.modCtl ?_
    | with_reducible refine Quiet.ite ?_ ?_
    | split
    | dsimp only
    | with_reducible refine Quiet.upd ?_

theorem Quiet.clearBlockErrs {s : State} {c : Nat} {block : Nat} (hK : Quiet sb s) : Quiet sb (s.clearBlockErrs c block) := by
  unfold State.clearBlockErrs
  repeat' first
    | with_reducible assumption
    | dsimp only
    | with_reducible refine Quiet.upd ?_

theorem Quiet.addPoison {s : State} {l : List Nat} (hK : Quiet sb s) : Quiet sb (s.addPoison l) := by
  unfold State.addPoison
  repeat' first
    | with_reducible assumption
    | dsimp only
    | with_reducible refine Quiet.upd ?_

theorem Quiet.clearPoison {s : State} {l : List Nat} (hK : Quiet sb s) : Quiet sb (s.clearPoison l) := by
  unfold State.clearPoison
  repeat' first
    | with_reducible assumption
    | dsimp only
    | with_reducible refine Quiet.upd ?_

theorem Quiet.setDramPoison {s : State} {c : Nat} {block : Nat} {on : Bool} (hK : Quiet sb s) :
    Quiet sb (s.setDramPoison c block on) := by
  unfold State.setDramPoison
  repeat' first
    | with_reducible assumption
    | with_reducible refine Quiet.ite ?_ ?_
    | split
    | dsimp only
    | with_reducible refine Quiet.upd ?_

theorem Quiet.countCorrected {s : State} {c : Nat} {block : Nat} {dev : Nat} {all : Bool} {inj : Bool × Bool} (hK : Quiet sb s) :
    Quiet sb (s.countCorrected c block dev all inj) := by
  unfold State.countCorrected
  repeat' first
    | with_reducible assumption
    | with_reducible refine Quiet.modCtl ?_
    | with_reducible refine Quiet.setReg ?_
    | with_reducible refine Quiet.dcSend ?_
    | with_reducible refine Quiet.ite ?_ ?_
    | split
    | dsimp only
    | with_reducible refine Quiet.upd ?_

theorem Quiet.decodeOn {s : State} {c : Nat} {block : Nat} (hK : Quiet sb s) : Quiet sb (s.decodeOn c block).1 := by
  unfold State.decodeOn
  repeat' first
    | with_reducible assumption
    | with_reducible refine Quiet.clearBlockErrs ?_
    | with_reducible refine Quiet.errInc ?_
    | with_reducible refine Quiet.dcSend ?_
    | with_reducible refine Quiet.countCorrected ?_
    | with_reducible refine Quiet.of_fst (by assumption) ?_
    | split
    | dsimp only
    | with_reducible refine Quiet.upd ?_

theorem Quiet.poisonBlock {s : State} {c : Nat} {block : Nat} (hK : Quiet sb s) : Quiet sb (s.poisonBlock c block) := by
  unfold State.poisonBlock
  repeat' first
    | with_reducible assumption
    | with_reducible refine Quiet.clearBlockErrs ?_
    | with_reducible refine Quiet.setDramPoison ?_
    | with_reducible refine Quiet.errInc ?_
    | with_reducible refine Quiet.dcSend ?_
    | with_reducible refine Quiet.ite ?_ ?_
    | split
    | dsimp only

theorem Quiet.healBlock {s : State} {c : Nat} {block : Nat} (hK : Quiet sb s) : Quiet sb (s.healBlock c block) := by
  unfold State.healBlock
  repeat' first
    | with_reducible assumption
    | with_reducible refine Quiet.clearBlockErrs ?_
    | with_reducible refine Quiet.setDramPoison ?_
    | with_reducible refine Quiet.errInc ?_
    | with_reducible refine Quiet.dcSend ?_
    | dsimp only

theorem Quiet.readCopy {s : State} {c : Nat} {block : Nat} (hK : Quiet sb s) : Quiet sb (s.readCopy c block).1 := by
  unfold State.readCopy
  repeat' first
    | with_reducible assumption
    | with_reducible refine Quiet.openRow ?_
    | with_reducible refine Quiet.decodeOn ?_
    | with_reducible refine Quiet.healBlock ?_
    | with_reducible refine Quiet.poisonBlock ?_
    | with_reducible refine Quiet.ite ?_ ?_
    | with_reducible refine Quiet.of_fst (by assumption) ?_
    | split
    | dsimp only

theorem Quiet.fetchBlock {s : State} {c : Nat} {block : Nat} (hK : Quiet sb s) : Quiet sb (s.fetchBlock c block).1 := by
  unfold State.fetchBlock
  repeat' first
    | with_reducible assumption
    | with_reducible refine Quiet.readCopy ?_
    | with_reducible refine Quiet.ite ?_ ?_
    | with_reducible refine Quiet.of_fst (by assumption) ?_
    | split
    | dsimp only
    | with_reducible refine Quiet.upd ?_

theorem Quiet.deliverBlock {s : State} {c : Nat} {block : Nat} {bad : List Nat} (hK : Quiet sb s) :
    Quiet sb (s.deliverBlock c block bad) := by
  unfold State.deliverBlock
  repeat' first
    | with_reducible assumption
    | with_reducible refine Quiet.dcSend ?_
    | with_reducible refine Quiet.clearPoison ?_
    | with_reducible refine Quiet.addPoison ?_
    | with_reducible refine Quiet.ite ?_ ?_
    | split
    | dsimp only

theorem Quiet.storeBlock {s : State} {c : Nat} {w : DramWrite} (hK : Quiet sb s) : Quiet sb (s.storeBlock c w) := by
  unfold State.storeBlock
  repeat' first
    | with_reducible assumption
    | with_reducible refine Quiet.clearBlockErrs ?_
    | with_reducible refine Quiet.setDramPoison ?_
    | with_reducible refine Quiet.ite ?_ ?_
    | split
    | dsimp only
    | with_reducible refine Quiet.upd ?_

theorem Quiet.issueWrite {s : State} {c : Nat} {w : DramWrite} (hK : Quiet sb s) : Quiet sb (s.issueWrite c w) := by
  unfold State.issueWrite
  repeat' first
    | with_reducible assumption
    | with_reducible refine Quiet.readCopy ?_
    | with_reducible refine Quiet.storeBlock ?_
    | with_reducible refine Quiet.ite ?_ ?_
    | with_reducible refine Quiet.of_fst (by assumption) ?_
    | split
    | dsimp only

theorem Quiet.serveRead {s : State} {c : Nat} {r : DramRead} (hK : Quiet sb s) : Quiet sb (s.serveRead c r) := by
  unfold State.serveRead
  repeat' first
    | with_reducible assumption
    | with_reducible refine Quiet.modCtl ?_
    | with_reducible refine Quiet.fetchBlock ?_
    | with_reducible refine Quiet.deliverBlock ?_
    | with_reducible refine Quiet.of_fst (by assumption) ?_
    | dsimp only
    | with_reducible refine Quiet.upd ?_

theorem Quiet.serveWrite {s : State} {c : Nat} {w : DramWrite} (hK : Quiet sb s) : Quiet sb (s.serveWrite c w) := by
  unfold State.serveWrite
  repeat' first
    | with_reducible assumption
    | with_reducible refine Quiet.openRow ?_
    | with_reducible refine Quiet.modCtl ?_
    | with_reducible refine Quiet.issueWrite ?_
    | dsimp only
    | with_reducible refine Quiet.upd ?_

theorem Quiet.serveReq {s : State} {c : Nat} {x : DramReq} (hK : Quiet sb s) : Quiet sb (s.serveReq c x) := by
  unfold State.serveReq
  repeat' first
    | with_reducible assumption
    | with_reducible refine Quiet.serveRead ?_
    | with_reducible refine Quiet.serveWrite ?_
    | split
    | dsimp only

theorem Quiet.serveOlder {s : State} {c : Nat} {bank : Nat} {seq : Nat} {fuel : Nat} (hK : Quiet sb s) :
    Quiet sb (s.serveOlder c bank seq fuel) := by
  induction fuel generalizing s c bank seq with
  | zero =>
    unfold State.serveOlder
    repeat' first
      | with_reducible assumption
      | with_reducible refine Quiet.serveReq ?_
      | split
      | dsimp only
      | with_reducible refine Quiet.upd ?_
  | succ n ih =>
    unfold State.serveOlder
    repeat' first
      | with_reducible assumption
      | with_reducible refine ih ?_
      | with_reducible refine Quiet.serveReq ?_
      | split
      | dsimp only
      | with_reducible refine Quiet.upd ?_

theorem Quiet.forceWrite {s : State} {c : Nat} {w : DramWrite} (hK : Quiet sb s) : Quiet sb (s.forceWrite c w) := by
  unfold State.forceWrite
  repeat' first
    | with_reducible assumption
    | with_reducible refine Quiet.serveOlder ?_
    | with_reducible refine Quiet.serveWrite ?_
    | with_reducible refine Quiet.ite ?_ ?_
    | split
    | dsimp only

theorem Quiet.enqueueOn {s : State} {c : Nat} {block : Nat} {cells : List Host.Cell} {bad : List Nat} (hK : Quiet sb s) :
    Quiet sb (s.enqueueOn c block cells bad) := by
  unfold State.enqueueOn
  repeat' first
    | with_reducible assumption
    | with_reducible refine Quiet.setCtl ?_
    | with_reducible refine Quiet.forceWrite ?_
    | with_reducible refine Quiet.modCtl ?_
    | with_reducible refine Quiet.ite ?_ ?_
    | split
    | dsimp only
    | with_reducible refine Quiet.upd ?_

theorem Quiet.srx {s : State} {c : Nat} (hK : Quiet sb s) : Quiet sb (s.srx c) := by
  unfold State.srx
  repeat' first
    | with_reducible assumption
    | with_reducible refine Quiet.modCtl ?_
    | with_reducible refine Quiet.setDcState ?_
    | with_reducible refine Quiet.setRf ?_
    | dsimp only
    | with_reducible refine Quiet.upd ?_

theorem Quiet.sre {s : State} {c : Nat} (hK : Quiet sb s) : Quiet sb (s.sre c) := by
  unfold State.sre
  repeat' first
    | with_reducible assumption
    | with_reducible refine Quiet.modCtl ?_
    | with_reducible refine Quiet.setDcState ?_
    | with_reducible refine Quiet.setRf ?_
    | dsimp only
    | with_reducible refine Quiet.upd ?_

theorem Quiet.srAbort {s : State} {c : Nat} (hK : Quiet sb s) : Quiet sb (s.srAbort c) := by
  unfold State.srAbort
  repeat' first
    | with_reducible assumption
    | with_reducible refine Quiet.modCtl ?_
    | with_reducible refine Quiet.evInc ?_
    | dsimp only
    | with_reducible refine Quiet.upd ?_

theorem Quiet.wake {s : State} {c : Nat} (hK : Quiet sb s) : Quiet sb (s.wake c) := by
  unfold State.wake
  repeat' first
    | with_reducible assumption
    | with_reducible refine Quiet.srAbort ?_
    | with_reducible refine Quiet.modCtl ?_
    | with_reducible refine Quiet.ite ?_ ?_
    | split
    | dsimp only
    | with_reducible refine Quiet.upd ?_

theorem Quiet.updateBusy {s : State} {c : Nat} (hK : Quiet sb s) : Quiet sb (s.updateBusy c) := by
  unfold State.updateBusy
  repeat' first
    | with_reducible assumption
    | with_reducible refine Quiet.setRf ?_
    | with_reducible refine Quiet.ite ?_ ?_
    | split
    | dsimp only

theorem Quiet.zeroDone {s : State} {c : Nat} (hK : Quiet sb s) : Quiet sb (s.zeroDone c) := by
  unfold State.zeroDone
  repeat' first
    | with_reducible assumption
    | with_reducible refine Quiet.modCtl ?_
    | with_reducible refine Quiet.setRf ?_
    | with_reducible refine Quiet.updateBusy ?_
    | with_reducible refine Quiet.ite ?_ ?_
    | split
    | dsimp only
    | with_reducible refine Quiet.upd ?_

theorem Quiet.serveFirst {s : State} {c : Nat} (hK : Quiet sb s) : Quiet sb (s.serveFirst c) := by
  unfold State.serveFirst
  repeat' first
    | with_reducible assumption
    | with_reducible refine Quiet.serveReq ?_
    | split
    | dsimp only
    | with_reducible refine Quiet.upd ?_

theorem Quiet.attend {s : State} {c : Nat} (hK : Quiet sb s) : Quiet sb (s.attend c) := by
  unfold State.attend
  repeat' first
    | with_reducible assumption
    | with_reducible refine Quiet.zeroDone ?_
    | with_reducible refine Quiet.srAbort ?_
    | with_reducible refine Quiet.srx ?_
    | with_reducible refine Quiet.serveFirst ?_
    | split
    | dsimp only
    | with_reducible refine Quiet.upd ?_

theorem Quiet.acceptOn {s : State} {c : Nat} {block : Nat} {cells : List Host.Cell} {bad : List Nat} (hK : Quiet sb s) :
    Quiet sb (s.acceptOn c block cells bad) := by
  unfold State.acceptOn
  repeat' first
    | with_reducible assumption
    | with_reducible refine Quiet.zeroDone ?_
    | with_reducible refine Quiet.wake ?_
    | with_reducible refine Quiet.enqueueOn ?_
    | with_reducible refine Quiet.ite ?_ ?_
    | split
    | dsimp only

theorem Quiet.acceptWrite {s : State} {block : Nat} {cells : List Host.Cell} {bad : List Nat} (hK : Quiet sb s) :
    Quiet sb (s.acceptWrite block cells bad) := by
  unfold State.acceptWrite
  repeat' first
    | with_reducible assumption
    | with_reducible refine Quiet.acceptOn ?_
    | with_reducible refine Quiet.ite ?_ ?_
    | split
    | dsimp only

theorem Quiet.writeSector {s : State} {sec : Nat} (hK : Quiet sb s) : Quiet sb (s.writeSector sec) := by
  unfold State.writeSector
  repeat' first
    | with_reducible assumption
    | with_reducible refine Quiet.acceptWrite ?_
    | with_reducible refine Quiet.ite ?_ ?_
    | split
    | dsimp only

theorem Quiet.orderBank {s : State} {c : Nat} {block : Nat} (hK : Quiet sb s) : Quiet sb (s.orderBank c block) := by
  unfold State.orderBank
  repeat' first
    | with_reducible assumption
    | with_reducible refine Quiet.modCtl ?_
    | with_reducible refine Quiet.evInc ?_
    | with_reducible refine Quiet.ite ?_ ?_
    | split
    | dsimp only
    | with_reducible refine Quiet.upd ?_

theorem Quiet.readBlock {s0 : State} {block : Nat} (hK : Quiet sb s0) : Quiet sb (s0.readBlock block) := by
  unfold State.readBlock
  repeat' first
    | with_reducible assumption
    | with_reducible refine Quiet.attend ?_
    | with_reducible refine Quiet.orderBank ?_
    | with_reducible refine Quiet.serveOlder ?_
    | with_reducible refine Quiet.fetchBlock ?_
    | with_reducible refine Quiet.deliverBlock ?_
    | with_reducible refine Quiet.ite ?_ ?_
    | with_reducible refine Quiet.of_fst (by assumption) ?_
    | split
    | dsimp only

theorem Quiet.readOn {s0 : State} {c : Nat} {block : Nat} (hK : Quiet sb s0) : Quiet sb (s0.readOn c block) := by
  unfold State.readOn
  repeat' first
    | with_reducible assumption
    | with_reducible refine Quiet.wake ?_
    | with_reducible refine Quiet.orderBank ?_
    | with_reducible refine Quiet.fetchBlock ?_
    | with_reducible refine Quiet.deliverBlock ?_
    | with_reducible refine Quiet.modCtl ?_
    | with_reducible refine Quiet.ite ?_ ?_
    | with_reducible refine Quiet.of_fst (by assumption) ?_
    | split
    | dsimp only
    | with_reducible refine Quiet.upd ?_

theorem Quiet.readRequest {s : State} {c : Nat} {block : Nat} (hK : Quiet sb s) : Quiet sb (s.readRequest c block) := by
  unfold State.readRequest
  repeat' first
    | with_reducible assumption
    | with_reducible refine Quiet.readOn ?_
    | with_reducible refine Quiet.ite ?_ ?_
    | split
    | dsimp only

theorem Quiet.refreshTo {s : State} {c : Nat} {i : Nat} {left : Nat} (hK : Quiet sb s) : Quiet sb (s.refreshTo c i left) := by
  unfold State.refreshTo
  repeat' first
    | with_reducible assumption
    | with_reducible refine Quiet.setCtl ?_
    | with_reducible refine Quiet.ite ?_ ?_
    | split
    | dsimp only
    | with_reducible refine Quiet.upd ?_

theorem Quiet.forceDebts {s : State} {c : Nat} (hK : Quiet sb s) : Quiet sb (s.forceDebts c) := by
  unfold State.forceDebts
  repeat' first
    | with_reducible assumption
    | with_reducible refine Quiet.refreshTo ?_
    | with_reducible refine Quiet.evInc ?_
    | with_reducible refine Quiet.ite ?_ ?_
    | with_reducible refine Quiet.foldl (fun _ _ _ => ?_) ?_
    | split
    | dsimp only

theorem Quiet.switchMode {s : State} {c : Nat} {compat : Bool} (hK : Quiet sb s) : Quiet sb (s.switchMode c compat) := by
  unfold State.switchMode
  repeat' first
    | with_reducible assumption
    | with_reducible refine Quiet.setCtl ?_
    | with_reducible refine Quiet.forceDebts ?_
    | with_reducible refine Quiet.ite ?_ ?_
    | with_reducible refine Quiet.foldl (fun _ _ _ => ?_) ?_
    | split
    | dsimp only
    | with_reducible refine Quiet.upd ?_

theorem Quiet.refreshIdle {s : State} {c : Nat} (hK : Quiet sb s) : Quiet sb (s.refreshIdle c) := by
  unfold State.refreshIdle
  repeat' first
    | with_reducible assumption
    | with_reducible refine Quiet.refreshTo ?_
    | with_reducible refine Quiet.ite ?_ ?_
    | with_reducible refine Quiet.foldl (fun _ _ _ => ?_) ?_
    | split
    | dsimp only

theorem Quiet.refreshInterval {s : State} {c : Nat} (hK : Quiet sb s) : Quiet sb (s.refreshInterval c) := by
  unfold State.refreshInterval
  repeat' first
    | with_reducible assumption
    | with_reducible refine Quiet.switchMode ?_
    | with_reducible refine Quiet.modCtl ?_
    | with_reducible refine Quiet.refreshIdle ?_
    | with_reducible refine Quiet.forceDebts ?_
    | with_reducible refine Quiet.ite ?_ ?_
    | with_reducible refine Quiet.foldl (fun _ _ _ => ?_) ?_
    | split
    | dsimp only
    | with_reducible refine Quiet.upd ?_

theorem Quiet.updateDraining {s : State} {c : Nat} (hK : Quiet sb s) : Quiet sb (s.updateDraining c) := by
  unfold State.updateDraining
  repeat' first
    | with_reducible assumption
    | with_reducible refine Quiet.modCtl ?_
    | with_reducible refine Quiet.ite ?_ ?_
    | split
    | dsimp only
    | with_reducible refine Quiet.upd ?_

theorem Quiet.issueCommand {s0 : State} {c : Nat} (hK : Quiet sb s0) : Quiet sb (s0.issueCommand c) := by
  unfold State.issueCommand
  repeat' first
    | with_reducible assumption
    | with_reducible refine Quiet.updateDraining ?_
    | with_reducible refine Quiet.sre ?_
    | with_reducible refine Quiet.forceDebts ?_
    | with_reducible refine Quiet.manage ?_
    | with_reducible refine Quiet.refreshTo ?_
    | with_reducible refine Quiet.serveReq ?_
    | with_reducible refine Quiet.modCtl ?_
    | with_reducible refine Quiet.ite ?_ ?_
    | split
    | dsimp only
    | with_reducible refine Quiet.upd ?_

theorem Quiet.serveAll {s : State} {c : Nat} {fuel : Nat} (hK : Quiet sb s) : Quiet sb (s.serveAll c fuel) := by
  induction fuel generalizing s c with
  | zero =>
    unfold State.serveAll
    repeat' first
      | with_reducible assumption
      | with_reducible refine Quiet.updateDraining ?_
      | with_reducible refine Quiet.updateDraining ?_
      | with_reducible refine Quiet.serveReq ?_
      | split
      | dsimp only
      | with_reducible refine Quiet.upd ?_
  | succ n ih =>
    unfold State.serveAll
    repeat' first
      | with_reducible assumption
      | with_reducible refine ih ?_
      | with_reducible refine Quiet.updateDraining ?_
      | with_reducible refine Quiet.updateDraining ?_
      | with_reducible refine Quiet.serveReq ?_
      | split
      | dsimp only
      | with_reducible refine Quiet.upd ?_

theorem Quiet.drainQueues {s : State} {c : Nat} (hK : Quiet sb s) : Quiet sb (s.drainQueues c) := by
  unfold State.drainQueues
  repeat' first
    | with_reducible assumption
    | with_reducible refine Quiet.serveAll ?_
    | dsimp only

theorem Quiet.endTraining {s : State} {c : Nat} {ok : Bool} (hK : Quiet sb s) : Quiet sb (s.endTraining c ok) := by
  unfold State.endTraining
  repeat' first
    | with_reducible assumption
    | with_reducible refine Quiet.setReg ?_
    | with_reducible refine Quiet.modCtl ?_
    | with_reducible refine Quiet.setDcState ?_
    | with_reducible refine Quiet.updateBusy ?_
    | with_reducible refine Quiet.ite ?_ ?_
    | split
    | dsimp only
    | with_reducible refine Quiet.upd ?_

theorem Quiet.srEntry {s : State} {c : Nat} (hK : Quiet sb s) : Quiet sb (s.srEntry c) := by
  unfold State.srEntry
  repeat' first
    | with_reducible assumption
    | with_reducible refine Quiet.refreshTo ?_
    | with_reducible refine Quiet.modCtl ?_
    | with_reducible refine Quiet.sre ?_
    | with_reducible refine Quiet.ite ?_ ?_
    | with_reducible refine Quiet.foldl (fun _ _ _ => ?_) ?_
    | split
    | dsimp only
    | with_reducible refine Quiet.upd ?_

theorem Quiet.srExit {s : State} {c : Nat} (hK : Quiet sb s) : Quiet sb (s.srExit c) := by
  unfold State.srExit
  repeat' first
    | with_reducible assumption
    | with_reducible refine Quiet.wake ?_
    | with_reducible refine Quiet.srx ?_
    | with_reducible refine Quiet.serveFirst ?_
    | with_reducible refine Quiet.ite ?_ ?_
    | split
    | dsimp only
    | with_reducible refine Quiet.upd ?_

theorem Quiet.endDrain {s : State} {c : Nat} (hK : Quiet sb s) : Quiet sb (s.endDrain c) := by
  unfold State.endDrain
  repeat' first
    | with_reducible assumption
    | with_reducible refine Quiet.attend ?_
    | with_reducible refine Quiet.drainQueues ?_
    | with_reducible refine Quiet.sre ?_
    | with_reducible refine Quiet.modCtl ?_
    | with_reducible refine Quiet.setDcState ?_
    | with_reducible refine Quiet.updateBusy ?_
    | with_reducible refine Quiet.ite ?_ ?_
    | split
    | dsimp only
    | with_reducible refine Quiet.upd ?_

theorem Quiet.writeMask {s : State} {line : Nat} {m : BitVec 4} (hK : Quiet sb s) : Quiet sb (s.writeMask line m) := by
  unfold State.writeMask
  repeat' first
    | with_reducible assumption
    | with_reducible refine Quiet.writeSector ?_
    | with_reducible refine Quiet.foldl (fun _ _ _ => ?_) ?_
    | dsimp only

theorem Quiet.cacheSend {s : State} {die : Nat} {unit : Nat} {kind : Nat} {cls : Nat} {line : Nat} {inj : Bool × Bool} (hK : Quiet sb s) :
    Quiet sb (s.cacheSend die unit kind cls line inj) := by
  unfold State.cacheSend
  repeat' first
    | with_reducible assumption
    | with_reducible refine Quiet.send ?_
    | dsimp only

theorem Quiet.l2Disable {s : State} {core : Nat} (hK : Quiet sb s) : Quiet sb (s.l2Disable core) := by
  unfold State.l2Disable
  repeat' first
    | with_reducible assumption
    | with_reducible refine Quiet.setRf ?_
    | with_reducible refine Quiet.ite ?_ ?_
    | split
    | dsimp only

theorem Quiet.l3Disable {s : State} {die : Nat} (hK : Quiet sb s) : Quiet sb (s.l3Disable die) := by
  unfold State.l3Disable
  repeat' first
    | with_reducible assumption
    | with_reducible refine Quiet.setRf ?_
    | with_reducible refine Quiet.ite ?_ ?_
    | split
    | dsimp only

theorem Quiet.deleteL2 {s : State} {core : Nat} {set : Nat} {way : Nat} {line : Nat} {inj : Bool × Bool} (hK : Quiet sb s) :
    Quiet sb (s.deleteL2 core set way line inj) := by
  unfold State.deleteL2
  repeat' first
    | with_reducible assumption
    | with_reducible refine Quiet.modCore ?_
    | with_reducible refine Quiet.cacheSend ?_
    | with_reducible refine Quiet.setRf ?_
    | with_reducible refine Quiet.l2Disable ?_
    | with_reducible refine Quiet.ite ?_ ?_
    | split
    | dsimp only
    | with_reducible refine Quiet.upd ?_

theorem Quiet.deleteL3 {s : State} {die : Nat} {set : Nat} {way : Nat} {line : Nat} {inj : Bool × Bool} (hK : Quiet sb s) :
    Quiet sb (s.deleteL3 die set way line inj) := by
  unfold State.deleteL3
  repeat' first
    | with_reducible assumption
    | with_reducible refine Quiet.modDie ?_
    | with_reducible refine Quiet.cacheSend ?_
    | with_reducible refine Quiet.setRf ?_
    | with_reducible refine Quiet.l3Disable ?_
    | with_reducible refine Quiet.ite ?_ ?_
    | split
    | dsimp only
    | with_reducible refine Quiet.upd ?_

theorem Quiet.dropErrs {s : State} {l : List ArrErr} (hK : Quiet sb s) : Quiet sb (s.dropErrs l) := by
  unfold State.dropErrs
  repeat' first
    | with_reducible assumption
    | dsimp only
    | with_reducible refine Quiet.upd ?_

theorem Quiet.sectorsWritten {s : State} {die : Nat} {unit : Nat} {line : Nat} {m : BitVec 4} (hK : Quiet sb s) :
    Quiet sb (s.sectorsWritten die unit line m) := by
  unfold State.sectorsWritten
  repeat' first
    | with_reducible assumption
    | with_reducible refine Quiet.dropErrs ?_
    | dsimp only

theorem Quiet.eccTag {s : State} {die : Nat} {unit : Nat} {line : Nat} {l : List ArrErr} (hK : Quiet sb s) :
    Quiet sb (s.eccTag die unit line l) := by
  unfold State.eccTag
  repeat' first
    | with_reducible assumption
    | with_reducible refine Quiet.errInc ?_
    | with_reducible refine Quiet.cacheSend ?_
    | with_reducible refine Quiet.ite ?_ ?_
    | split
    | dsimp only

theorem Quiet.tagMeet {s : State} {die : Nat} {unit : Nat} {f : Nat → Bool} (hK : Quiet sb s) :
    Quiet sb (s.tagMeet die unit f) := by
  unfold State.tagMeet
  repeat' first
    | with_reducible assumption
    | with_reducible refine Quiet.eccTag ?_
    | with_reducible refine Quiet.dropErrs ?_
    | with_reducible refine Quiet.foldl (fun _ _ _ => ?_) ?_
    | dsimp only

theorem Quiet.eccWord {s : State} {die : Nat} {unit : Nat} {a : Nat} {line : Nat} {word : Nat} {dirty : Bool} {l : List ArrErr} (hK : Quiet sb s) :
    Quiet sb (s.eccWord die unit a line word dirty l).1 := by
  unfold State.eccWord
  repeat' first
    | with_reducible assumption
    | with_reducible refine Quiet.errInc ?_
    | with_reducible refine Quiet.cacheSend ?_
    | with_reducible refine Quiet.addPoison ?_
    | with_reducible refine Quiet.ite ?_ ?_
    | with_reducible refine Quiet.of_fst (by assumption) ?_
    | split
    | dsimp only

theorem Quiet.eccLine {s : State} {die : Nat} {unit : Nat} {a : Nat} {line : Nat} {dirty : BitVec 4} {l : List ArrErr} (hK : Quiet sb s) :
    Quiet sb (s.eccLine die unit a line dirty l).1 := by
  unfold State.eccLine
  repeat' first
    | with_reducible assumption
    | with_reducible refine Quiet.eccWord ?_
    | with_reducible refine Quiet.dropErrs ?_
    | with_reducible refine Quiet.foldl (fun _ _ _ => ?_) ?_
    | with_reducible refine Quiet.foldl_fst (fun _ _ _ => ?_) ?_
    | with_reducible refine Quiet.of_fst (by assumption) ?_
    | split
    | dsimp only

theorem Quiet.dropL3 {s : State} {die : Nat} {line : Nat} {clean : Bool} (hK : Quiet sb s) :
    Quiet sb (s.dropL3 die line clean) := by
  unfold State.dropL3
  repeat' first
    | with_reducible assumption
    | with_reducible refine Quiet.writeMask ?_
    | with_reducible refine Quiet.modDie ?_
    | with_reducible refine Quiet.ite ?_ ?_
    | split
    | dsimp only
    | with_reducible refine Quiet.upd ?_

theorem Quiet.dropEntry {s : State} {line : Nat} (hK : Quiet sb s) : Quiet sb (s.dropEntry line) := by
  unfold State.dropEntry
  repeat' first
    | with_reducible assumption
    | with_reducible refine Quiet.modDie ?_
    | dsimp only
    | with_reducible refine Quiet.upd ?_

theorem Quiet.loseWriter {s : State} {die : Nat} {line : Nat} (hK : Quiet sb s) : Quiet sb (s.loseWriter die line) := by
  unfold State.loseWriter
  repeat' first
    | with_reducible assumption
    | with_reducible refine Quiet.dropL3 ?_
    | with_reducible refine Quiet.dropEntry ?_
    | with_reducible refine Quiet.ite ?_ ?_
    | split
    | dsimp only
    | with_reducible refine Quiet.upd ?_

theorem Quiet.acceptVictim {s : State} {core : Nat} {v : L2Line} (hK : Quiet sb s) : Quiet sb (s.acceptVictim core v) := by
  unfold State.acceptVictim
  repeat' first
    | with_reducible assumption
    | with_reducible refine Quiet.writeMask ?_
    | with_reducible refine Quiet.loseWriter ?_
    | dsimp only

theorem Quiet.dropLine {s : State} {core : Nat} {line : Nat} {clean : Bool} (hK : Quiet sb s) :
    Quiet sb (s.dropLine core line clean) := by
  unfold State.dropLine
  repeat' first
    | with_reducible assumption
    | with_reducible refine Quiet.writeMask ?_
    | with_reducible refine Quiet.modCore ?_
    | with_reducible refine Quiet.loseWriter ?_
    | with_reducible refine Quiet.acceptVictim ?_
    | with_reducible refine Quiet.ite ?_ ?_
    | with_reducible refine Quiet.foldl (fun _ _ _ => ?_) ?_
    | split
    | dsimp only
    | with_reducible refine Quiet.upd ?_

theorem Quiet.l2Meet {s : State} {core : Nat} {line : Nat} (hK : Quiet sb s) : Quiet sb (s.l2Meet core line) := by
  unfold State.l2Meet
  repeat' first
    | with_reducible assumption
    | with_reducible refine Quiet.eccLine ?_
    | with_reducible refine Quiet.dropLine ?_
    | with_reducible refine Quiet.deleteL2 ?_
    | with_reducible refine Quiet.ite ?_ ?_
    | with_reducible refine Quiet.of_fst (by assumption) ?_
    | split
    | dsimp only
    | with_reducible refine Quiet.upd ?_

theorem Quiet.evictCore {s : State} {core : Nat} {line : Nat} {clean : Bool} (hK : Quiet sb s) :
    Quiet sb (s.evictCore core line clean) := by
  unfold State.evictCore
  repeat' first
    | with_reducible assumption
    | with_reducible refine Quiet.l2Meet ?_
    | with_reducible refine Quiet.dropLine ?_
    | with_reducible refine Quiet.ite ?_ ?_
    | split
    | dsimp only

theorem Quiet.dropDie {s : State} {die : Nat} {line : Nat} {clean : Bool} (hK : Quiet sb s) :
    Quiet sb (s.dropDie die line clean) := by
  unfold State.dropDie
  repeat' first
    | with_reducible assumption
    | with_reducible refine Quiet.evictCore ?_
    | with_reducible refine Quiet.dropL3 ?_
    | with_reducible refine Quiet.foldl (fun _ _ _ => ?_) ?_
    | dsimp only

theorem Quiet.l3Meet {s : State} {die : Nat} {line : Nat} (hK : Quiet sb s) : Quiet sb (s.l3Meet die line) := by
  unfold State.l3Meet
  repeat' first
    | with_reducible assumption
    | with_reducible refine Quiet.eccLine ?_
    | with_reducible refine Quiet.dropDie ?_
    | with_reducible refine Quiet.deleteL3 ?_
    | with_reducible refine Quiet.ite ?_ ?_
    | with_reducible refine Quiet.of_fst (by assumption) ?_
    | split
    | dsimp only
    | with_reducible refine Quiet.upd ?_

theorem Quiet.evictDie {s : State} {die : Nat} {line : Nat} {clean : Bool} (hK : Quiet sb s) :
    Quiet sb (s.evictDie die line clean) := by
  unfold State.evictDie
  repeat' first
    | with_reducible assumption
    | with_reducible refine Quiet.l3Meet ?_
    | with_reducible refine Quiet.dropDie ?_
    | with_reducible refine Quiet.loseWriter ?_
    | with_reducible refine Quiet.ite ?_ ?_
    | split
    | dsimp only
    | with_reducible refine Quiet.upd ?_

theorem Quiet.l3Room {s : State} {die : Nat} {line : Nat} {fuel : Nat} (hK : Quiet sb s) :
    Quiet sb (s.l3Room die line fuel) := by
  induction fuel generalizing s die line with
  | zero =>
    unfold State.l3Room
    repeat' first
      | with_reducible assumption
      | with_reducible refine Quiet.evictDie ?_
      | with_reducible refine Quiet.ite ?_ ?_
      | split
      | dsimp only
      | with_reducible refine Quiet.upd ?_
  | succ n ih =>
    unfold State.l3Room
    repeat' first
      | with_reducible assumption
      | with_reducible refine ih ?_
      | with_reducible refine Quiet.evictDie ?_
      | with_reducible refine Quiet.ite ?_ ?_
      | split
      | dsimp only
      | with_reducible refine Quiet.upd ?_

theorem Quiet.l3Install {s : State} {die : Nat} {line : Nat} {excl : Bool} (hK : Quiet sb s) :
    Quiet sb (s.l3Install die line excl) := by
  unfold State.l3Install
  repeat' first
    | with_reducible assumption
    | with_reducible refine Quiet.modDie ?_
    | with_reducible refine Quiet.l3Room ?_
    | with_reducible refine Quiet.dropErrs ?_
    | with_reducible refine Quiet.setDie ?_
    | with_reducible refine Quiet.ite ?_ ?_
    | split
    | dsimp only
    | with_reducible refine Quiet.upd ?_

theorem Quiet.modL3 {s : State} {die : Nat} {line : Nat} {f : L3Line → L3Line} (hK : Quiet sb s) :
    Quiet sb (s.modL3 die line f) := by
  unfold State.modL3
  repeat' first
    | with_reducible assumption
    | with_reducible refine Quiet.modDie ?_
    | with_reducible refine Quiet.ite ?_ ?_
    | split
    | dsimp only
    | with_reducible refine Quiet.upd ?_

theorem Quiet.homeDirty {s : State} {line : Nat} {m : BitVec 4} (hK : Quiet sb s) : Quiet sb (s.homeDirty line m) := by
  unfold State.homeDirty
  repeat' first
    | with_reducible assumption
    | with_reducible refine Quiet.writeMask ?_
    | with_reducible refine Quiet.l3Install ?_
    | with_reducible refine Quiet.modL3 ?_
    | with_reducible refine Quiet.sectorsWritten ?_
    | with_reducible refine Quiet.ite ?_ ?_
    | split
    | dsimp only
    | with_reducible refine Quiet.upd ?_

theorem Quiet.l3Present {s : State} {die : Nat} {slot : Nat} {line : Nat} (hK : Quiet sb s) :
    Quiet sb (s.l3Present die slot line) := by
  unfold State.l3Present
  repeat' first
    | with_reducible assumption
    | with_reducible refine Quiet.modL3 ?_
    | with_reducible refine Quiet.ite ?_ ?_
    | split
    | dsimp only
    | with_reducible refine Quiet.upd ?_

theorem Quiet.l1Fill {s : State} {core : Nat} {x : Bool × Nat} (hK : Quiet sb s) : Quiet sb (s.l1Fill core x) := by
  unfold State.l1Fill
  repeat' first
    | with_reducible assumption
    | with_reducible refine Quiet.dropErrs ?_
    | with_reducible refine Quiet.modCore ?_
    | with_reducible refine Quiet.ite ?_ ?_
    | split
    | dsimp only
    | with_reducible refine Quiet.upd ?_

theorem Quiet.placeL2 {s : State} {core : Nat} {line : Nat} {way : Nat} {excl : Bool} {fills : List (Bool × Nat)} (hK : Quiet sb s) :
    Quiet sb (s.placeL2 core line way excl fills) := by
  unfold State.placeL2
  repeat' first
    | with_reducible assumption
    | with_reducible refine Quiet.setCore ?_
    | with_reducible refine Quiet.dropErrs ?_
    | with_reducible refine Quiet.l3Install ?_
    | with_reducible refine Quiet.l3Present ?_
    | with_reducible refine Quiet.l1Fill ?_
    | with_reducible refine Quiet.ite ?_ ?_
    | with_reducible refine Quiet.foldl (fun _ _ _ => ?_) ?_
    | split
    | dsimp only
    | with_reducible refine Quiet.upd ?_

theorem Quiet.dropMiss {s : State} {core : Nat} {line : Nat} (hK : Quiet sb s) : Quiet sb (s.dropMiss core line) := by
  unfold State.dropMiss
  repeat' first
    | with_reducible assumption
    | with_reducible refine Quiet.modCore ?_
    | dsimp only
    | with_reducible refine Quiet.upd ?_

theorem Quiet.acceptVictims {s : State} {line : Nat} (hK : Quiet sb s) : Quiet sb (s.acceptVictims line) := by
  unfold State.acceptVictims
  repeat' first
    | with_reducible assumption
    | with_reducible refine Quiet.acceptVictim ?_
    | with_reducible refine Quiet.modCore ?_
    | with_reducible refine Quiet.ite ?_ ?_
    | with_reducible refine Quiet.foldl (fun _ _ _ => ?_) ?_
    | split
    | dsimp only
    | with_reducible refine Quiet.upd ?_

theorem Quiet.victimFor {s : State} {core : Nat} {line : Nat} {fuel : Nat} (hK : Quiet sb s) :
    Quiet sb (s.victimFor core line fuel).1 := by
  induction fuel generalizing s core line with
  | zero =>
    unfold State.victimFor
    repeat' first
      | with_reducible assumption
      | with_reducible refine Quiet.l2Meet ?_
      | with_reducible refine Quiet.ite ?_ ?_
      | with_reducible refine Quiet.of_fst (by assumption) ?_
      | split
      | dsimp only
      | with_reducible refine Quiet.upd ?_
  | succ n ih =>
    unfold State.victimFor
    repeat' first
      | with_reducible assumption
      | with_reducible refine ih ?_
      | with_reducible refine Quiet.l2Meet ?_
      | with_reducible refine Quiet.ite ?_ ?_
      | with_reducible refine Quiet.of_fst (by assumption) ?_
      | split
      | dsimp only
      | with_reducible refine Quiet.upd ?_

theorem Quiet.fillArrives {s : State} {core : Nat} {line : Nat} (hK : Quiet sb s) : Quiet sb (s.fillArrives core line) := by
  unfold State.fillArrives
  repeat' first
    | with_reducible assumption
    | with_reducible refine Quiet.victimFor ?_
    | with_reducible refine Quiet.dropMiss ?_
    | with_reducible refine Quiet.placeL2 ?_
    | with_reducible refine Quiet.modCore ?_
    | with_reducible refine Quiet.modL3 ?_
    | with_reducible refine Quiet.sectorsWritten ?_
    | with_reducible refine Quiet.ite ?_ ?_
    | with_reducible refine Quiet.of_fst (by assumption) ?_
    | split
    | dsimp only
    | with_reducible refine Quiet.upd ?_

theorem Quiet.fillWaiting {s : State} {core : Nat} {b : MissBuf} {v : L2Line} (hK : Quiet sb s) :
    Quiet sb (s.fillWaiting core b v) := by
  unfold State.fillWaiting
  repeat' first
    | with_reducible assumption
    | with_reducible refine Quiet.dropMiss ?_
    | with_reducible refine Quiet.acceptVictim ?_
    | with_reducible refine Quiet.placeL2 ?_
    | dsimp only

theorem Quiet.victimAccepted {s : State} {core : Nat} {line : Nat} (hK : Quiet sb s) :
    Quiet sb (s.victimAccepted core line) := by
  unfold State.victimAccepted
  repeat' first
    | with_reducible assumption
    | with_reducible refine Quiet.fillWaiting ?_
    | with_reducible refine Quiet.ite ?_ ?_
    | split
    | dsimp only
    | with_reducible refine Quiet.upd ?_

theorem Quiet.settleFills {s : State} {core : Nat} {f : Nat → Bool} (hK : Quiet sb s) : Quiet sb (s.settleFills core f) := by
  unfold State.settleFills
  repeat' first
    | with_reducible assumption
    | with_reducible refine Quiet.fillWaiting ?_
    | with_reducible refine Quiet.foldl (fun _ _ _ => ?_) ?_
    | split
    | dsimp only
    | with_reducible refine Quiet.upd ?_

theorem Quiet.completeFill {s : State} {core : Nat} {line : Nat} (hK : Quiet sb s) : Quiet sb (s.completeFill core line) := by
  unfold State.completeFill
  repeat' first
    | with_reducible assumption
    | with_reducible refine Quiet.fillArrives ?_
    | with_reducible refine Quiet.settleFills ?_
    | with_reducible refine Quiet.ite ?_ ?_
    | split
    | dsimp only

theorem Quiet.removeL2 {s : State} {core : Nat} {line : Nat} {clean : Bool} (hK : Quiet sb s) :
    Quiet sb (s.removeL2 core line clean) := by
  unfold State.removeL2
  repeat' first
    | with_reducible assumption
    | with_reducible refine Quiet.completeFill ?_
    | with_reducible refine Quiet.evictCore ?_
    | dsimp only

theorem Quiet.completeFills {s : State} {ks : List Nat} {line : Nat} (hK : Quiet sb s) :
    Quiet sb (s.completeFills ks line) := by
  unfold State.completeFills
  repeat' first
    | with_reducible assumption
    | with_reducible refine Quiet.completeFill ?_
    | with_reducible refine Quiet.foldl (fun _ _ _ => ?_) ?_
    | dsimp only

theorem Quiet.removeAll {s : State} {line : Nat} {clean : Bool} (hK : Quiet sb s) : Quiet sb (s.removeAll line clean) := by
  unfold State.removeAll
  repeat' first
    | with_reducible assumption
    | with_reducible refine Quiet.acceptVictims ?_
    | with_reducible refine Quiet.completeFills ?_
    | with_reducible refine Quiet.evictDie ?_
    | with_reducible refine Quiet.dropEntry ?_
    | with_reducible refine Quiet.foldl (fun _ _ _ => ?_) ?_
    | dsimp only

theorem Quiet.supply {s : State} {line : Nat} (hK : Quiet sb s) : Quiet sb (s.supply line) := by
  unfold State.supply
  repeat' first
    | with_reducible assumption
    | with_reducible refine Quiet.l2Meet ?_
    | with_reducible refine Quiet.l3Meet ?_
    | with_reducible refine Quiet.ite ?_ ?_
    | with_reducible refine Quiet.foldl (fun _ _ _ => ?_) ?_
    | split
    | dsimp only

theorem Quiet.dirPut {s : State} {e : DirEntry} (hK : Quiet sb s) : Quiet sb (s.dirPut e) := by
  unfold State.dirPut
  repeat' first
    | with_reducible assumption
    | with_reducible refine Quiet.modDie ?_
    | with_reducible refine Quiet.removeAll ?_
    | with_reducible refine Quiet.evInc ?_
    | with_reducible refine Quiet.ite ?_ ?_
    | split
    | dsimp only
    | with_reducible refine Quiet.upd ?_

theorem Quiet.shareCores {s : State} {ks : List Nat} {line : Nat} (hK : Quiet sb s) : Quiet sb (s.shareCores ks line) := by
  unfold State.shareCores
  repeat' first
    | with_reducible assumption
    | with_reducible refine Quiet.modCore ?_
    | with_reducible refine Quiet.homeDirty ?_
    | with_reducible refine Quiet.ite ?_ ?_
    | with_reducible refine Quiet.foldl (fun _ _ _ => ?_) ?_
    | split
    | dsimp only
    | with_reducible refine Quiet.upd ?_

theorem Quiet.downgradeDie {s : State} {die : Nat} {line : Nat} (hK : Quiet sb s) : Quiet sb (s.downgradeDie die line) := by
  unfold State.downgradeDie
  repeat' first
    | with_reducible assumption
    | with_reducible refine Quiet.shareCores ?_
    | with_reducible refine Quiet.modL3 ?_
    | with_reducible refine Quiet.ite ?_ ?_
    | split
    | dsimp only
    | with_reducible refine Quiet.upd ?_

theorem Quiet.dramLine {s : State} {pa : Nat} (hK : Quiet sb s) : Quiet sb (s.dramLine pa) := by
  unfold State.dramLine
  repeat' first
    | with_reducible assumption
    | with_reducible refine Quiet.readBlock ?_
    | dsimp only

theorem Quiet.bringLine {s : State} {pa : Nat} (hK : Quiet sb s) : Quiet sb (s.bringLine pa) := by
  unfold State.bringLine
  repeat' first
    | with_reducible assumption
    | with_reducible refine Quiet.supply ?_
    | with_reducible refine Quiet.dramLine ?_
    | with_reducible refine Quiet.ite ?_ ?_
    | split
    | dsimp only

theorem Quiet.dirLookup {s : State} {line : Nat} (hK : Quiet sb s) : Quiet sb (s.dirLookup line) := by
  unfold State.dirLookup
  repeat' first
    | with_reducible assumption
    | with_reducible refine Quiet.tagMeet ?_
    | dsimp only

theorem Quiet.ownDirty {s : State} {die : Nat} {line : Nat} {m : BitVec 4} (hK : Quiet sb s) :
    Quiet sb (s.ownDirty die line m) := by
  unfold State.ownDirty
  repeat' first
    | with_reducible assumption
    | with_reducible refine Quiet.homeDirty ?_
    | with_reducible refine Quiet.writeMask ?_
    | with_reducible refine Quiet.ite ?_ ?_
    | split
    | dsimp only

theorem Quiet.homeRead {s : State} {die : Nat} {pa : Nat} (hK : Quiet sb s) : Quiet sb (s.homeRead die pa).1 := by
  unfold State.homeRead
  repeat' first
    | with_reducible assumption
    | with_reducible refine Quiet.dirLookup ?_
    | with_reducible refine Quiet.bringLine ?_
    | with_reducible refine Quiet.dirPut ?_
    | with_reducible refine Quiet.downgradeDie ?_
    | with_reducible refine Quiet.ite ?_ ?_
    | with_reducible refine Quiet.foldl (fun _ _ _ => ?_) ?_
    | with_reducible refine Quiet.foldl_fst (fun _ _ _ => ?_) ?_
    | with_reducible refine Quiet.of_fst (by assumption) ?_
    | split
    | dsimp only
    | with_reducible refine Quiet.upd ?_

theorem Quiet.homeOwn {s : State} {die : Nat} {pa : Nat} (hK : Quiet sb s) : Quiet sb (s.homeOwn die pa) := by
  unfold State.homeOwn
  repeat' first
    | with_reducible assumption
    | with_reducible refine Quiet.dirLookup ?_
    | with_reducible refine Quiet.acceptVictims ?_
    | with_reducible refine Quiet.completeFills ?_
    | with_reducible refine Quiet.bringLine ?_
    | with_reducible refine Quiet.evictCore ?_
    | with_reducible refine Quiet.dropL3 ?_
    | with_reducible refine Quiet.ownDirty ?_
    | with_reducible refine Quiet.dirPut ?_
    | with_reducible refine Quiet.foldl (fun _ _ _ => ?_) ?_
    | dsimp only

theorem Quiet.homeWriteback {s0 : State} {die : Nat} {pa : Nat} (hK : Quiet sb s0) : Quiet sb (s0.homeWriteback die pa) := by
  unfold State.homeWriteback
  repeat' first
    | with_reducible assumption
    | with_reducible refine Quiet.acceptVictims ?_
    | with_reducible refine Quiet.removeL2 ?_
    | with_reducible refine Quiet.dropL3 ?_
    | with_reducible refine Quiet.dropEntry ?_
    | with_reducible refine Quiet.ite ?_ ?_
    | with_reducible refine Quiet.foldl (fun _ _ _ => ?_) ?_
    | split
    | dsimp only
    | with_reducible refine Quiet.upd ?_

theorem Quiet.sweepL2 {s : State} {core : Nat} (hK : Quiet sb s) : Quiet sb (s.sweepL2 core) := by
  unfold State.sweepL2
  repeat' first
    | with_reducible assumption
    | with_reducible refine Quiet.completeFill ?_
    | with_reducible refine Quiet.evictCore ?_
    | with_reducible refine Quiet.modCore ?_
    | with_reducible refine Quiet.foldl (fun _ _ _ => ?_) ?_
    | dsimp only
    | with_reducible refine Quiet.upd ?_

theorem Quiet.l2SweepEnd {s : State} {core : Nat} (hK : Quiet sb s) : Quiet sb (s.l2SweepEnd core) := by
  unfold State.l2SweepEnd
  repeat' first
    | with_reducible assumption
    | with_reducible refine Quiet.sweepL2 ?_
    | with_reducible refine Quiet.setRf ?_
    | with_reducible refine Quiet.ite ?_ ?_
    | split
    | dsimp only

theorem Quiet.l2Enable {s : State} {core : Nat} (hK : Quiet sb s) : Quiet sb (s.l2Enable core) := by
  unfold State.l2Enable
  repeat' first
    | with_reducible assumption
    | with_reducible refine Quiet.setRf ?_
    | with_reducible refine Quiet.ite ?_ ?_
    | split
    | dsimp only

theorem Quiet.sweepL3 {s : State} {die : Nat} (hK : Quiet sb s) : Quiet sb (s.sweepL3 die) := by
  unfold State.sweepL3
  repeat' first
    | with_reducible assumption
    | with_reducible refine Quiet.l3Meet ?_
    | with_reducible refine Quiet.writeMask ?_
    | with_reducible refine Quiet.modDie ?_
    | with_reducible refine Quiet.ite ?_ ?_
    | with_reducible refine Quiet.foldl (fun _ _ _ => ?_) ?_
    | split
    | dsimp only
    | with_reducible refine Quiet.upd ?_

theorem Quiet.l3SweepEnd {s : State} {die : Nat} (hK : Quiet sb s) : Quiet sb (s.l3SweepEnd die) := by
  unfold State.l3SweepEnd
  repeat' first
    | with_reducible assumption
    | with_reducible refine Quiet.sweepL3 ?_
    | with_reducible refine Quiet.setRf ?_
    | with_reducible refine Quiet.ite ?_ ?_
    | split
    | dsimp only

theorem Quiet.l3Enable {s : State} {die : Nat} (hK : Quiet sb s) : Quiet sb (s.l3Enable die) := by
  unfold State.l3Enable
  repeat' first
    | with_reducible assumption
    | with_reducible refine Quiet.setRf ?_
    | with_reducible refine Quiet.ite ?_ ?_
    | split
    | dsimp only

end Sys2Proof.Machine
end

