-- ==== Sys2Proof/Tests/Slice0.lean ====
section
/-! SUPPORT. The author's own tests, each about one step on a small state with values taken from the spec's rules and tables, and for every statement with
hypotheses a concrete state and operands that meet them (witness_). -/
namespace Sys2Proof.Tests
open Sys2Proof Sys2Proof.Machine
set_option maxRecDepth 30000

/-! ## Small states -/

/-- The dies are out of reset (step 7 of R520), and nothing else has happened since reset. -/
def live : State := { State.reset with halted := false }

/-- Every DRAM channel is operating: DC.CTL.EN is 1 and STATE is 2. -/
def up : List (Nat × Dword) := (List.range 16).map fun c => (rDc c 0, 0x8000020000000000)

/-- Logical CPU 0 at work as c says. -/
def cpuWith (c : Cpu) : State := { live with regs := up, units := [(0, { c with stopped := false })] }

/-- Logical CPU 0 in problem state with general registers g. -/
def cpu0 (g : List (Nat × Dword)) : State := cpuWith { Cpu.reset with g := g }

/-- Logical CPU 0 in host state. -/
def host0 (g : List (Nat × Dword)) : State := cpuWith { Cpu.reset with g := g, psw := { Psw.zero with mode := .host } }

/-- Logical CPU 0 with floating registers f and c8. -/
def fp0 (f : List (Nat × Dword)) (c8 : Dword) : State := cpuWith { Cpu.reset with f := f, hostC := if c8 = 0 then [] else [(8, c8)] }

/-- Management core 0 at work in host state. -/
def mgmt0 (g : List (Nat × Dword)) : State :=
  { live with units := [(288, { Cpu.reset with running := true, g := g, psw := { Psw.zero with mode := .host } })] }

/-- Image 5: operating, generation number 1, logical CPU 0, its tables at 0x10000. -/
def image5 : Image := { freshImage with gen := 1, root := 0x10000, cpus := [0], sets := 1 }

/-- Tables that map the first 1 GB of image 5 to itself: a region-first entry and a leaf (R210). -/
def tables : List Host.Cell :=
  [(0x10000, 0x80), (0x10005, 0x01), (0x10006, 0x40), (0x14000, 0xC0), (0x14006, 0x01), (0x14007, 0xC0)]

/-- Logical CPU 0 in supervisor state inside image 5. -/
def inImage (g : List (Nat × Dword)) : State :=
  { cpuWith { Cpu.reset with g := g, psw := { Psw.zero with mode := .supervisor }, irun := some ⟨0x20000, 5, 1, 0, Psw.zero⟩ } with
    mem := tables, images := [(5, some image5)] }

/-- The command leads to a next state with p. -/
def leads (c : Instr) (s : State) (p : State → Bool) : Bool := match exec c s with
  | .next t => p t
  | _ => false

/-- The instruction enters execution, in a state with p. -/
def entersAs (s : State) (i : Insn) (p : State → Bool) : Bool := match s.enter i with
  | .ok t => p t
  | .error _ => false

/-- The instruction enters execution. -/
def enters (s : State) (i : Insn) : Bool := entersAs s i fun _ => true

/-- An access succeeds, with p. -/
def okWith {α : Type} (x : Except Ends α) (p : α → Bool) : Bool := match x with
  | .ok y => p y
  | .error _ => false

/-- The instruction comes to its decoding checks in a state with p. -/
def arrivesAs (s : State) (i : Insn) (p : State → Bool) : Bool :=
  s.boundary i.u == .clear && !(s.waits i.u) && okWith (s.fetchWordAt i.u) fun s1 =>
    !((s1.injectedMismatch i.u i.rows 3).unit i.u).selfTest && p (s1.injectedMismatch i.u i.rows 3)

/-! ## Ill-formed commands -/

theorem test_wf_coprocessorUnavailable : (Instr.coprocessorUnavailable 0 0x73000000).wf = false := by decide
theorem test_wf_customerSlotInstruction : (Instr.customerSlotInstruction 0 0x77000000).wf = false := by decide
theorem test_wf_operationException : (Instr.operationException 0 0x01000000).wf = false := by decide
theorem test_wf_dramWriteRequest : (Instr.dramWriteRequest 0 120 [1, 2, 3, 4, 5, 6, 7, 8, 9] false).wf = false := by decide
theorem test_wf_engineStorageRead : (Instr.engineStorageRead 0 0).wf = false := by decide
theorem test_wf_engineStorageWrite : (Instr.engineStorageWrite 0 []).wf = false := by decide
theorem test_wf_pmbusPoll : (Instr.pmbusPoll []).wf = false := by decide
theorem test_wf_smbalert : (Instr.smbalert []).wf = false := by decide

/-! ## Integer instructions -/

/-- An overflow of ADD wraps, with CC 3 (R122, R124). -/
theorem test_add : leads (.add ⟨0, 1, 2, 3⟩) (cpu0 [(2, 0x7FFFFFFFFFFFFFFF), (3, 1)])
    (fun t => t.g 0 1 == 0x8000000000000000 && (t.psw 0).cc == 3 && (t.psw 0).ia == 4) = true := by decide

/-- SUB: the second operand is subtracted from the first. -/
theorem test_sub : leads (.sub ⟨0, 1, 2, 3⟩) (cpu0 [(2, 3), (3, 5)])
    (fun t => t.g 0 1 == 0xFFFFFFFFFFFFFFFE && (t.psw 0).cc == 1) = true := by decide

/-- ADDLI sign-extends its immediate and adds logically: 1 + 0xFF..F has a carry and a zero result, CC 2 (R122, R125). -/
theorem test_addli : leads (.addli ⟨0, 1, 2, 0x3FFF⟩) (cpu0 [(2, 1)]) (fun t => t.g 0 1 == 0 && (t.psw 0).cc == 2) = true := by decide

/-- LIS shifts the source left by 14 and ors the immediate in (R125). -/
theorem test_lis : leads (.lis ⟨0, 1, 2, 0x2001⟩) (cpu0 [(2, 3)]) (fun t => t.g 0 1 == 0xE001) = true := by decide

/-- CMPLI compares logically with the zero-extended immediate: the first high, CC 2 (R122). -/
theorem test_cmpli : leads (.cmpli ⟨0, 0, 2, 0x3FFF⟩) (cpu0 [(2, 0xFFFFFFFFFFFFFFFF)]) (fun t => (t.psw 0).cc == 2) = true := by decide

/-- SRAW by 33 of 0x8000_0001: every bit a copy of bit 31 (R129). -/
theorem test_sraw : leads (.sraw ⟨0, 1, 2, 3⟩) (cpu0 [(2, 0x80000001), (3, 33)]) (fun t => t.g 0 1 == 0xFFFFFFFFFFFFFFFF) = true := by decide

/-- ROL by 65 rotates by 1 (R129). -/
theorem test_rol : leads (.rol ⟨0, 1, 2, 3⟩) (cpu0 [(2, 0x8000000000000001), (3, 65)]) (fun t => t.g 0 1 == 3) = true := by decide

/-- CLZ and CTZ of 0 are 64 (R127). -/
theorem test_clz : leads (.clz ⟨0, 1, 2, 0⟩) (cpu0 []) (fun t => t.g 0 1 == 64) = true := by decide
theorem test_ctz : leads (.ctz ⟨0, 1, 2, 0⟩) (cpu0 [(2, 0x100)]) (fun t => t.g 0 1 == 8) = true := by decide

/-- MULU of 2^63 and 4: the high half is 2 (R130). -/
theorem test_mulu : leads (.mulu ⟨0, 4, 2, 3⟩) (cpu0 [(2, 0x8000000000000000), (3, 4)])
    (fun t => t.g 0 4 == 2 && t.g 0 5 == 0 && (t.psw 0).cc == 1) = true := by decide

/-- DIV truncates toward zero, and its remainder has the sign of the dividend (R131). -/
theorem test_div : leads (.div ⟨0, 4, 2, 3⟩) (cpu0 [(2, 0xFFFFFFFFFFFFFFF9), (3, 2)])
    (fun t => t.g 0 4 == 0xFFFFFFFFFFFFFFFD && t.g 0 5 == 0xFFFFFFFFFFFFFFFF && (t.psw 0).cc == 1) = true := by decide

/-- An odd register of a pair causes 0x0006, stored at prefix offset 0x0300 (R82, R98). -/
theorem test_muls_odd : leads (.muls ⟨0, 5, 2, 3⟩) (cpu0 []) (fun t => Memory.readN t.mem 0x300 2 == [0, 6]) = true := by decide

/-- The CRC of CRC-32 over the byte 0x31 from 0xFFFFFFFF, reflected: complemented it is 0x83DCEFB7, the CRC of "1" (R146, R147). -/
theorem test_crcstep : leads (.crcstep ⟨0, 1, 2, 0, false, true, 0⟩) (cpu0 [(1, 0xFFFFFFFF), (2, 0x31)])
    (fun t => t.g 0 1 == 0x7C231048) = true := by decide

/-- PARITY on words: bit k is the parity of word k (R148). -/
theorem test_parity : leads (.parity ⟨0, 1, 2, 0, 1⟩) (cpu0 [(2, 0x0000000300000001)]) (fun t => t.g 0 1 == 1) = true := by decide

/-- BREV on bytes (R149). -/
theorem test_brev : leads (.brev ⟨0, 1, 2, 0, 0⟩) (cpu0 [(2, 0x8001)]) (fun t => t.g 0 1 == 0x0180) = true := by decide


/-! ## Loads, stores, branches, atomics -/

/-- LH sign-extends a big-endian halfword at gb + sext(disp) (R40, R135). -/
theorem test_lh : leads (.lh ⟨0, 1, 2, 0x3FFE⟩) { cpu0 [(2, 0x2002)] with mem := [(0x2000, 0x80), (0x2001, 0x01)] }
    (fun t => t.g 0 1 == 0xFFFFFFFFFFFF8001) = true := by decide

/-- STW stores the low four bytes, the most significant first (R135). -/
theorem test_stw : leads (.stw ⟨0, 1, 2, 4⟩) (cpu0 [(1, 0x1122334455667788), (2, 0x2000)])
    (fun t => t.mem == [(0x2004, 0x55), (0x2005, 0x66), (0x2006, 0x77), (0x2007, 0x88)]) = true := by decide

/-- BRC: mask bit 3 - CC; CC 0 meets mask 1000 (R138). -/
theorem test_brc : leads (.brc ⟨0, 8, 0xFFFFE⟩) (cpuWith { Cpu.reset with psw := { Psw.zero with ia := 0x100 } })
    (fun t => (t.psw 0).ia == 0xF8) = true := by decide

/-- CALLR pushes ia + 4 (R139). -/
theorem test_callr : leads (.callr ⟨0, 15, 4⟩) (cpu0 []) (fun t => (t.psw 0).ia == 16 && (t.unit 0).rs.entries == [4]) = true := by decide

/-- RET on an empty stack: 0x000C (R70). -/
theorem test_ret_empty : leads (.ret ⟨0, 0, 0, 0⟩) (cpu0 []) (fun t => Memory.readN t.mem 0x300 2 == [0, 0x0C]) = true := by decide

/-- CSD that fails loads what it found and sets CC 1 (R143). -/
theorem test_csd : leads (.csd ⟨0, 1, 2, 3⟩) { cpu0 [(1, 7), (2, 0x2000), (3, 9)] with mem := [(0x2007, 5)] }
    (fun t => t.g 0 1 == 5 && (t.psw 0).cc == 1 && t.mem == [(0x2007, 5)]) = true := by decide

/-- FAAW adds a word and returns the old one sign-extended (R143). -/
theorem test_faaw : leads (.faaw ⟨0, 1, 2, 3⟩) { cpu0 [(2, 0x2000), (3, 2)] with mem := [(0x2000, 0xFF), (0x2001, 0xFF), (0x2002, 0xFF), (0x2003, 0xFF)] }
    (fun t => t.g 0 1 == 0xFFFFFFFFFFFFFFFF && t.mem == [(0x2003, 1)]) = true := by decide

/-! ## Floating point -/

/-- 1.5 + 2.25 = 3.75. -/
theorem test_faddd : leads (.faddd ⟨0, 1, 2, 3, 0⟩) (fp0 [(2, 0x3FF8000000000000), (3, 0x4002000000000000)] 0)
    (fun t => t.f 0 1 == 0x400E000000000000 && (t.unit 0).getC 8 == 0) = true := by decide

/-- 1 / 0 is infinity with the division-by-zero flag. -/
theorem test_fdivd : leads (.fdivd ⟨0, 1, 2, 3, 0⟩) (fp0 [(2, 0x3FF0000000000000)] 0)
    (fun t => t.f 0 1 == 0x7FF0000000000000 && (t.unit 0).getC 8 != 0) = true := by decide

/-- The square root of -1 under an enabled invalid condition: 0x0018, nothing written (R159). -/
theorem test_fsqrtd_enabled : leads (.fsqrtd ⟨0, 1, 2, 0, 0⟩) (fp0 [(2, 0xBFF0000000000000)] 0x1F00)
    (fun t => t.f 0 1 == 0 && Memory.readN t.mem 0x300 2 == [0, 0x18]) = true := by decide

/-- CVTDG of 2.5 to nearest even is 2 (R169). -/
theorem test_cvtdg : leads (.cvtdg ⟨0, 1, 2, 0, 0⟩) (fp0 [(2, 0x4004000000000000)] 0) (fun t => t.g 0 1 == 2) = true := by decide

/-- FMADDS: 2 x 3 + 1 = 7. -/
theorem test_fmadds : leads (.fmadds ⟨0, 1, 2, 3, 4⟩) (fp0 [(2, 0x40000000), (3, 0x40400000), (4, 0x3F800000)] 0)
    (fun t => t.f 0 1 == 0x40E00000) = true := by decide

/-! ## System instructions -/

/-- EPSW in host state: PSW.S is 2 (R57). -/
theorem test_epsw : leads (.epsw ⟨0, 1, 2, 0⟩) (host0 []) (fun t => t.g 0 1 == 0x8000000000000000 && t.g 0 2 == 4) = true := by decide

/-- LPSW with S = 3 is invalid: 0x0006 (R58). -/
theorem test_lpsw : leads (.lpsw ⟨0, 0, 2, 0⟩) { host0 [(2, 0x2000)] with mem := [(0x2000, 0xC0)] }
    (fun t => Memory.readN t.mem 0x300 2 == [0, 6]) = true := by decide

/-- LCTL of c1 in problem state: 0x0002 (R55). -/
theorem test_lctl : leads (.lctl ⟨0, 1, 0, 1⟩) (cpu0 [(1, 0x4000)]) (fun t => t.readC 0 1 == 0 && Memory.readN t.mem 0x300 2 == [0, 2]) = true := by
  decide

/-- SVC stores its code at 0x0380 (R82). -/
theorem test_svc : leads (.svc ⟨0, 0, 0x123⟩) (cpu0 []) (fun t => Memory.readN t.mem 0x380 2 == [0x01, 0x23]) = true := by decide

/-- TABORT outside a region: CC 2 (R238). -/
theorem test_tabort : leads (.tabort ⟨0, 0, 0, 5⟩) (cpu0 []) (fun t => (t.psw 0).cc == 2) = true := by decide

/-- TBEGIN in the small profile aborts at once (R243): CC 3 and the abort target. -/
theorem test_tbegin_small : leads (.tbegin ⟨288, 0, 4⟩) (mgmt0 []) (fun t => (t.psw 288).cc == 3 && (t.psw 288).ia == 16) = true := by decide

/-- HCALL inside an image ends IRUN with reason 0x0004 (R67): the host PSW is back, with CC 0. -/
theorem test_hcall : leads (.hcall ⟨0, 0, 7⟩) (inImage []) (fun t => (t.unit 0).irun.isNone && t.psw 0 == Psw.zero) = true := by decide

/-! ## What the hypotheses of the statements are met by -/

theorem witness_IdleStepTicks_off : ({ live with powered := false } : State).pending = [] ∧
    ({ live with powered := false } : State).powered = false := ⟨rfl, rfl⟩
theorem witness_IdleStepTicks_on : live.pending = [] ∧ live.powered = true ∧ live.rf rTodStat 16 16 = 0 ∧
    live.todFrac = 0 ∧ live.todWait = [] := by decide

/-- A state with one command waiting. -/
def oneWaiting : State := { live with pending := [.powerOn] }
theorem witness_StepOnlyGrows : (match step oneWaiting with | .next t => t.pending.isEmpty | _ => false) = true := by decide
theorem witness_StepKeepsInvariant : oneWaiting.Inv ∧ ∃ t, step oneWaiting = .next t := by
  refine ⟨⟨rfl, rfl, rfl, rfl, ⟨by decide, by decide⟩, ?_⟩, { oneWaiting with pending := [] }, rfl⟩
  intro x y h
  cases h

/-- An instruction with one result enters in a state with p. -/
def aluMeets (r : Option AluRow) (s : State) (p : AluRow → State → Bool) : Bool := match r with
  | some x => entersAs s x.insn (p x)
  | none => false

/-- An overflow under FOM 0 (FOM is 0 in cpu0), or none. -/
def quiet (x : AluRow) (s2 : State) : Bool := !((x.out s2).ovf && (s2.psw x.u).fom)

theorem witness_IntegerResults_alu : aluMeets (aluRow (.add ⟨0, 1, 2, 3⟩)) (cpu0 [(2, 0x7FFFFFFFFFFFFFFF), (3, 1)])
    (fun x s2 => quiet x s2 && (x.out s2).ovf) = true := by decide
theorem witness_IntegerResults_imm : aluMeets (immRow (.la ⟨288, 1, 2, 0x2000⟩)) (mgmt0 [(2, 5)]) quiet = true := by decide
theorem witness_IntegerResults_check : aluMeets (checkRow (.parity ⟨0, 1, 2, 0, 2⟩)) (cpu0 [(2, 7)]) quiet = true := by decide
theorem witness_IntegerResults_shift : aluMeets (shiftRow (.sll ⟨0, 1, 2, 3⟩)) (cpu0 [(2, 1), (3, 127)]) quiet = true ∧
    aluMeets (shiftImmRow (.rorwi ⟨0, 1, 2, 0, 127⟩)) (cpu0 [(2, 1)]) quiet = true := by decide
theorem witness_CompareAndMoveResults : (match compareRow (.cmpl ⟨288, 0, 2, 3⟩) with | some x => enters (mgmt0 []) x.1 | none => false) = true ∧
    (match moveRow (.mvgf ⟨0, 1, 2, 0⟩) with | some x => enters (cpu0 []) x.1 | none => false) = true := by decide

/-- A pair instruction enters in a state with p. -/
def pairMeets (c : Instr) (s : State) (p : Option PairOut → State → Bool) : Bool := match pairRow c with
  | some x => entersAs s x.1 fun s2 => p (x.2.2.2 s2) s2
  | none => false

/-- General registers under FOM 1. -/
def fom0 (g : List (Nat × Dword)) : State := cpuWith { Cpu.reset with g := g, psw := { Psw.zero with fom := true } }

theorem witness_PairResults : pairMeets (.div ⟨0, 4, 2, 3⟩) (fom0 [(2, 7), (3, 0xFFFFFFFFFFFFFFFF)])
    (fun r s2 => match r with | some x => !(x.ovf && (s2.psw 0).fom) | none => false) = true := by decide
theorem witness_OverflowTraps_alu : aluMeets (aluRow (.add ⟨0, 1, 2, 3⟩)) (fom0 [(2, 0x7FFFFFFFFFFFFFFF), (3, 1)])
    (fun x s2 => (x.out s2).ovf && (s2.psw x.u).fom) = true := by decide
theorem witness_OverflowTraps_imm : aluMeets (immRow (.addwi ⟨0, 1, 2, 0x3FFF⟩)) (fom0 [(2, 0x80000000)])
    (fun x s2 => (x.out s2).ovf && (s2.psw x.u).fom) = true := by decide
theorem witness_OverflowTraps_pair : pairMeets (.div ⟨0, 4, 2, 3⟩) (fom0 [(2, 0x8000000000000000), (3, 0xFFFFFFFFFFFFFFFF)])
    (fun r s2 => match r with | some x => x.ovf && (s2.psw 0).fom | none => false) = true := by decide
theorem witness_DivideByZeroSuppresses : pairMeets (.divlw ⟨0, 4, 2, 3⟩) (cpu0 [(2, 5), (3, 0x100000000)]) (fun r _ => r.isNone) = true := by
  decide
theorem witness_DivisionIdentity : (divSigned 64 0x8000000000000000 0xFFFFFFFFFFFFFFFF).isSome = true ∧
    (divSigned 64 0xFFFFFFFFFFFFFFF9 2).isSome = true ∧ (divUnsigned 64 0xFFFFFFFFFFFFFFFF 1).isSome = true := by decide

/-- The small profile's clauses at the bounds themselves and just outside. -/
theorem witness_BndchkBounds : entersAs (mgmt0 [(1, 5), (2, 5), (3, 5)]) (insnBndchk ⟨288, 1, 2, 3, true⟩)
      (fun s2 => decide ((s2.g 288 2).toNat ≤ (s2.g 288 1).toNat ∧ (s2.g 288 1).toNat ≤ (s2.g 288 3).toNat)) = true ∧
    entersAs (mgmt0 [(1, 6), (2, 5), (3, 5)]) (insnBndchk ⟨288, 1, 2, 3, false⟩)
      (fun s2 => !decide ((s2.g 288 1).toInt ≤ (s2.g 288 3).toInt)) = true := by decide

theorem witness_BndchkBounds_cpu : arrivesAs (cpu0 []) (insnBndchk ⟨0, 1, 2, 3, false⟩) (fun _ => true) = true := by decide
theorem witness_ShiftTable : entersAs (cpu0 [(2, 0x8000000000000001), (3, 128)]) (insnSll ⟨0, 1, 2, 3⟩)
      (fun s2 => s2.g 0 2 == 0x8000000000000001 && s2.g 0 3 == 128) = true ∧
    entersAs (cpu0 [(2, 0x8000000000000001)]) (insnSrai ⟨0, 1, 2, 0, 127⟩) (fun s2 => s2.g 0 2 == 0x8000000000000001) = true ∧
    entersAs (cpu0 [(2, 0xFFFFFFFF80000001), (3, 33)]) (insnSraw ⟨0, 1, 2, 3⟩)
      (fun s2 => BitVec.truncate 32 (s2.g 0 2) == 0x80000001#32 && s2.g 0 3 == 33) = true ∧
    entersAs (cpu0 [(2, 0x80000001)]) (insnRolwi ⟨0, 1, 2, 0, 32⟩) (fun s2 => BitVec.truncate 32 (s2.g 0 2) == 0x80000001#32) = true := by
  decide

theorem witness_LoadResults : (match loadRow (cpu0 [(2, 0x1FFF)]) (.lq ⟨0, 4, 2, 1⟩) with
    | some x => entersAs (cpu0 [(2, 0x1FFF)]) x.insn fun s2 =>
        okWith ((s2.past 0).loadAt 0 (s2.g 0 2 + (1#14).signExtend 64) x.n .load) fun r => r.2.length == x.n
    | none => false) = true := by decide
theorem witness_StoreResults : (match storeRow (cpu0 [(2, 0x2001)]) (.std ⟨0, 1, 2, 0x3FFF⟩) with
    | some x => entersAs (cpu0 [(2, 0x2001)]) x.insn fun s2 =>
        okWith ((s2.past 0).storeAt 0 (s2.g 0 2 + (0x3FFF#14).signExtend 64) (x.data s2) .store) fun _ => true
    | none => false) = true := by decide
theorem witness_BranchResults : (match branchRow (cpu0 []) (.brc ⟨0, 8, 1⟩), branchRow (cpu0 []) (.cbne ⟨0, 1, 2, 4⟩) with
    | some x, some y => entersAs (cpu0 []) x.insn x.taken && entersAs (cpu0 []) y.insn fun s2 => !(y.taken s2)
    | _, _ => false) = true := by decide

/-- CPU 0 with a return stack of n entries, under an RSO. -/
def stack0 (n : Nat) (rso : Bool) : State :=
  cpuWith { Cpu.reset with hostRs := ⟨List.replicate n 8, false⟩, psw := { Psw.zero with rso := rso } }

theorem witness_CallsAndReturns_call : entersAs (stack0 31 false) (insnCallr ⟨0, 15, 1⟩) (fun s2 => (s2.unit 0).rs.entries.length == 31) = true ∧
    entersAs (stack0 32 false) (insnCallr ⟨0, 15, 1⟩) (fun s2 => rsDepth 0 == (s2.unit 0).rs.entries.length && !(s2.psw 0).rso) = true ∧
    entersAs (stack0 32 true) (insnCallr ⟨0, 15, 1⟩) (fun s2 => rsDepth 0 == (s2.unit 0).rs.entries.length && (s2.psw 0).rso) = true ∧
    entersAs (stack0 0 false) (insnCallr ⟨0, 7, 1⟩) (fun s2 => !((7#4).getLsbD (3 - (s2.psw 0).cc.toNat))) = true := by decide
theorem witness_CallsAndReturns_callg : enters (stack0 31 false) (insnCallg ⟨0, 1, 0, 0⟩ (stack0 31 false)) = true ∧
    enters (stack0 32 false) (insnCallg ⟨0, 1, 0, 0⟩ (stack0 32 false)) = true ∧
    entersAs (stack0 32 true) (insnCallg ⟨0, 1, 0, 0⟩ (stack0 32 true)) (fun s2 => (s2.psw 0).rso) = true := by decide
theorem witness_CallsAndReturns_ret : entersAs (stack0 1 false) (insnRet ⟨0, 0, 0, 0⟩ (stack0 1 false)) (fun s2 => (s2.unit 0).rs.entries == [8]) = true ∧
    entersAs (stack0 0 false) (insnRet ⟨0, 0, 0, 0⟩ (stack0 0 false)) (fun s2 => (s2.unit 0).rs.entries.isEmpty) = true := by decide

/-- CPU 0 with two return-stack entries, storage at g1 and a count in g2. -/
def spill0 (a k : Dword) : State := cpuWith { Cpu.reset with g := [(1, a), (2, k)], hostRs := ⟨[12, 8], false⟩ }

theorem witness_SpillAndFill_spill : entersAs (spill0 0x2000 5) (insnRsspill ⟨0, 1, 2, 0⟩ (spill0 0x2000 5)) (fun s2 =>
      ((s2.past 0).spillStop 0 .store (spillAddrs (s2.g 0 1) 2)).isNone &&
      okWith ((s2.past 0).spillTo 0 ((spillAddrs (s2.g 0 1) 2).zip [8, 12])) fun _ => true) = true := by decide
theorem witness_SpillAndFill_stop : entersAs (spill0 0x0000800000000000 2) (insnRsspill ⟨0, 1, 2, 0⟩ (spill0 0x0000800000000000 2))
      (fun s2 => ((s2.past 0).spillStop 0 .store (spillAddrs (s2.g 0 1) 2)).isSome) = true ∧
    entersAs (spill0 0x0000800000000000 1) (insnRsfill ⟨0, 1, 2, 0⟩ (spill0 0x0000800000000000 1))
      (fun s2 => ((s2.past 0).spillStop 0 .load (spillAddrs (s2.g 0 1) 1)).isSome) = true := by decide
theorem witness_SpillAndFill_fill : entersAs (spill0 0x2000 3) (insnRsfill ⟨0, 1, 2, 0⟩ (spill0 0x2000 3)) (fun s2 =>
      ((s2.past 0).spillStop 0 .load (spillAddrs (s2.g 0 1) 3)).isNone &&
      okWith ((s2.past 0).fillFrom 0 (spillAddrs (s2.g 0 1) 3)) fun r => r.2.length == 3) = true := by decide

theorem witness_AtomicResults : (match atomicRow (cpu0 [(2, 0x2000)]) (.csq ⟨0, 4, 2, 6⟩) with
    | some x => entersAs (cpu0 [(2, 0x2000)]) x.insn fun s2 =>
        okWith ((s2.past 0).atomicAt 0 (s2.g 0 2) x.n (x.stores s2)) fun r => r.2.length == x.n
    | none => false) = true := by decide

/-- A floating-point instruction enters with an outcome that has p. -/
def fpMeets (r : Option FpRow) (s : State) (p : FpRow → State → FEnd → Bool) : Bool := match r with
  | some x => entersAs s x.insn fun s2 => p x s2 (x.out s2)
  | none => false

/-- The enabled conditions of an outcome. -/
def enabled (s : State) (e : FEnd) : Nat := match e with
  | .done _ c => c &&& fget ((s.unit 0).getC 8) 8 5
  | .trap _ => 0

def isDone (e : FEnd) : Bool := match e with
  | .done _ _ => true
  | .trap _ => false

theorem witness_FloatResults_plain : fpMeets (fpArithRow (.fdivd ⟨0, 1, 2, 3, 0⟩)) (fp0 [(2, 0x3FF0000000000000)] 0)
      (fun _ s2 e => isDone e && enabled s2 e == 0) = true ∧
    fpMeets (fpFusedRow (.fcmps ⟨0, 0, 2, 3, 0⟩)) (fp0 [] 0) (fun _ s2 e => isDone e && enabled s2 e == 0) = true ∧
    fpMeets (fpConvertRow (.cvtgd ⟨0, 1, 2, 0, 0⟩)) (fp0 [] 0) (fun _ s2 e => isDone e && enabled s2 e == 0) = true := by decide
theorem witness_FloatResults_suppressing : fpMeets (fpArithRow (.fdivd ⟨0, 1, 2, 3, 0⟩)) (fp0 [(2, 0x3FF0000000000000)] 0x1F00)
      (fun _ s2 e => isDone e && (enabled s2 e &&& (condInvalid + condDivZero)) != 0) = true := by decide
theorem witness_FloatResults_completing : fpMeets (fpArithRow (.fdivd ⟨0, 1, 2, 3, 0⟩)) (fp0 [(2, 0x3FF0000000000000), (3, 0x4008000000000000)] 0x1F00)
      (fun _ s2 e => isDone e && enabled s2 e != 0 && (enabled s2 e &&& (condInvalid + condDivZero)) == 0) = true := by decide
theorem witness_FloatResults_trap : fpMeets (fpArithRow (.faddd ⟨0, 1, 2, 3, 0⟩)) (fp0 [(2, 1)] 0) (fun _ _ e => !(isDone e)) = true := by decide

theorem witness_IntegerFrame : aluMeets (aluRow (.add ⟨0, 1, 1, 1⟩)) (cpu0 [(1, 0x7FFFFFFFFFFFFFFF)])
    (fun x s2 => quiet x s2 && (s2.unit x.u).region.isNone && (s2.unit x.u).retries == 0) = true := by decide
theorem witness_RegisterFrame_branch : (match branchRow (cpu0 []) (.brc ⟨0, 15, 0⟩) with
    | some x => entersAs (cpu0 []) x.insn fun s2 => (s2.unit x.u).region.isNone && (s2.unit x.u).retries == 0
    | none => false) = true := by decide
theorem witness_RegisterFrame_compare : (match compareRow (.cmp ⟨0, 0, 1, 1⟩) with
    | some x => entersAs (cpu0 []) x.1 fun s2 => (s2.unit x.2.1).region.isNone && (s2.unit x.2.1).retries == 0
    | none => false) = true := by decide
theorem witness_RegisterFrame_move : (match moveRow (.mvfg ⟨0, 1, 1, 0⟩) with
    | some x => entersAs (cpu0 []) x.1 fun s2 => (s2.unit x.2.1).region.isNone && (s2.unit x.2.1).retries == 0
    | none => false) = true := by decide
theorem witness_RegisterFrame_float : fpMeets (fpArithRow (.fmuls ⟨0, 1, 2, 3, 0⟩)) (fp0 [(2, 0x40000000), (3, 0x40400000)] 0)
      (fun x s2 e => isDone e && enabled s2 e == 0 && (s2.unit x.u).region.isNone) = true := by decide

theorem witness_RegisterFrame_load : (match loadRow (cpu0 [(2, 0x2FFE)]) (.lw ⟨0, 1, 2, 0⟩) with
    | some x => entersAs (cpu0 [(2, 0x2FFE)]) x.insn fun s2 => (s2.unit 0).region.isNone && (s2.unit 0).wcb.isEmpty && (s2.unit 0).retries == 0 &&
        (match (s2.past 0).translate 0 (s2.g 0 2 + 0) 4 .load, (s2.past 0).loadAt 0 (s2.g 0 2 + 0) 4 .load with
          | .ok ps, .ok r => ps.all (fun p => p.target != .service) && r.2.length == 4
          | _, _ => false)
    | none => false) = true := by decide

/-- A store translates to pieces with p. -/
def storeMeets (c : Instr) (s : State) (p : State → List Piece → Bool) : Bool := match storeRow s c with
  | some x => entersAs s x.insn fun s2 => match (s2.past x.o.u).translate x.o.u (s2.g x.o.u x.o.rb + x.o.imm.signExtend 64) (x.data s2).length .store with
    | .ok ps => p s2 ps && (s2.unit x.o.u).region.isNone && (s2.unit x.o.u).wcb.isEmpty && (s2.unit x.o.u).retries == 0 &&
        (ps.findSome? ((s2.past x.o.u).walkPoison x.o.u)).isNone
    | .error _ => false
  | none => false

/-- A store across two frames of storage, and one into working store. -/
theorem witness_StoreFrame : storeMeets (.std ⟨0, 1, 2, 4⟩) (cpu0 [(2, 0x2FF8)]) (fun _ ps => ps.length == 2 && ps.all fun p => p.target == .dram) = true ∧
    storeMeets (.stw ⟨288, 1, 2, 0⟩) (mgmt0 [(2, 0x1000)]) (fun _ ps => !ps.isEmpty && ps.all fun p => p.target == .ws) = true := by decide

/-- An atomic on storage. -/
theorem witness_StoreFrame_atomic : (match atomicRow (cpu0 [(2, 0x2000)]) (.csq ⟨0, 4, 2, 6⟩) with
    | some x => entersAs (cpu0 [(2, 0x2000)]) x.insn fun s2 => (s2.unit 0).region.isNone && (s2.unit 0).wcb.isEmpty && (s2.unit 0).retries == 0 &&
        (match (s2.past 0).translate 0 (s2.g 0 2) x.n .atomic, (s2.past 0).atomicAt 0 (s2.g 0 2) x.n (x.stores s2) with
          | .ok ps, .ok r => ps.all (fun p => p.target == .dram) && r.2.length == x.n
          | _, _ => false)
    | none => false) = true := by decide

theorem witness_PswEncoding : (Psw.zero.ia.toNat % 4 = 0) ∧ (Psw.decode 0x8000000000000000 4).isSome = true ∧
    Psw.decode 0xC000000000000000 0 = none ∧ Psw.decode 0 2 = none ∧ Psw.decode 1 0 = none := by decide

theorem witness_SystemResults : (match systemRow (host0 [(1, 1)]) (.chkmode ⟨0, 1, 0, 0⟩) with | some x => enters (host0 [(1, 1)]) x.1 | none => false) = true ∧
    (match systemRow (host0 []) (.rdtod ⟨0, 1, 0, 0⟩) with | some x => enters (host0 []) x.1 | none => false) = true ∧
    (match systemRow (mgmt0 []) (.epsw ⟨288, 1, 2, 0⟩) with | some x => enters (mgmt0 []) x.1 | none => false) = true := by decide

/-- CPU 0 in a state of mode m with a PSW of sixteen bytes at 0x2000 whose first byte is b. -/
def lpsw0 (m : Mode) (b : Byte) : State :=
  { cpuWith { Cpu.reset with g := [(2, 0x2000)], psw := { Psw.zero with mode := m } } with mem := if b = 0 then [] else [(0x2000, b)] }

/-- LPSW enters and loads sixteen bytes with p. -/
def lpswMeets (s : State) (p : State → List Byte → Bool) : Bool :=
  entersAs s (insnLpsw ⟨0, 0, 2, 0⟩ s) fun s2 => okWith ((s2.past 0).loadAt 0 (s2.g 0 2 + (0#14).signExtend 64) 16 .load) fun r =>
    r.2.length == 16 && p s2 r.2

theorem witness_LpswResults_valid : lpswMeets (lpsw0 .host 0x80) (fun s2 b => match Psw.ofBytes b with
    | some p => p.mode != .host || (s2.psw 0).mode == .host
    | none => false) = true := by decide
theorem witness_LpswResults_invalid : lpswMeets (lpsw0 .supervisor 0xC0) (fun _ b => (Psw.ofBytes b).isNone && beNat (b.take 8) / 2 ^ 62 != 2) = true := by
  decide
theorem witness_LpswResults_host : lpswMeets (lpsw0 .supervisor 0x80) (fun s2 b => beNat (b.take 8) / 2 ^ 62 == 2 && (s2.psw 0).mode != .host) = true := by
  decide

theorem witness_ControlRegisters_lctl : enters (host0 [(1, 0x4000)]) (insnLctl ⟨0, 1, 0, 1⟩ (host0 [(1, 0x4000)])) = true ∧
    enters (host0 [(1, 0x8000000000000000)]) (insnLctl ⟨0, 1, 0, 9⟩ (host0 [(1, 0x8000000000000000)])) = true ∧
    entersAs (host0 []) (insnLctl ⟨0, 1, 0, 33⟩ (host0 [])) (fun s2 => (s2.unit 0).retries == 0) = true := by decide
theorem witness_ControlRegisters_stctl : enters (host0 []) (insnStctl ⟨0, 1, 0, 4⟩ (host0 [])) = true ∧
    enters (host0 []) (insnStctl ⟨0, 1, 0, 33⟩ (host0 [])) = true := by
  decide

theorem witness_CallsAndExits_svc : enters (cpu0 []) (insnSvc ⟨0, 0, 0x3FFF⟩) = true := by decide
theorem witness_CallsAndExits_hcall : enters (inImage []) (insnHcall ⟨0, 0, 7⟩ (inImage [])) = true := by decide
/-- The image of CPU 0 has been reset: the boundary finds exit reason 0x0006. -/
theorem witness_CallsAndExits_exit : (match ({ inImage [] with units :=
      [(0, { Cpu.reset with stopped := false, irun := some ⟨0x20000, 5, 1, 0, Psw.zero⟩, imgReset := some 2 })] } : State).boundary 0 with
    | .exit reason _ => reason == 6
    | _ => false) = true := by decide
/-- The host tables of image 5 map nothing: its prefix area cannot be reached. -/
theorem witness_CallsAndExits_unstored : (match ({ inImage [] with mem := [] } : State).area 0 with | .exit q => q == 0x100 | _ => false) = true ∧
    ((inImage []).unit 0).irun.isSome = true ∧ ((inImage []).unit 0).region = none := by decide
/-- What could not be stored comes before the next instruction of the image (R67). -/
theorem test_unstored_comes_next : (match ({ inImage [] with units :=
      [(0, { Cpu.reset with stopped := false, irun := some ⟨0x20000, 5, 1, 0, Psw.zero⟩, unstored := [(5, ⟨.supervisor, [], 0⟩)] })] } :
        State).boundary 0 with
    | .unstored x => x.2.cls == .supervisor
    | _ => false) = true := by decide
theorem witness_CallsAndExits_image : ((inImage []).unit 0).irun.isSome = true := by decide

/-- CPU 0 in host state with an IRUN descriptor at 0x4000: bytes d, image 5 defined where `def_`. -/
def irun0 (d : List Host.Cell) (def_ : Bool) : State :=
  { host0 [(1, 0x4000)] with mem := d, images := if def_ then [(5, some image5)] else [] }

/-- IRUN has read its descriptor, with p. -/
def irunMeets (s : State) (p : ReadOut → Bool) : Bool := entersAs s (insnIrun ⟨0, 1, 0, 0⟩ s) fun s2 =>
  match (s2.past 0).translate 0 (s2.g 0 1) 1024 .store with
  | .ok ps => !ps.isEmpty && ((s2.past 0).readPieces 0 ps false).bad.isNone && p ((s2.past 0).readPieces 0 ps false)
  | .error _ => false

/-- The entry of image 5 fits the descriptor. -/
def fits5 (r : ReadOut) : Bool := match (r.st.wcFlush 0).image 5 with
  | some e => e.st == .operating && BitVec.ofNat 16 (descNat r.data 0x14 2) == e.gen && e.cpus[descNat r.data 0x12 2]? == some 0
  | none => false

theorem witness_IrunResults_absent : irunMeets (irun0 [(0x4010, 96)] true) (fun r => decide (95 < descNat r.data 0x10 1)) = true := by decide
theorem witness_IrunResults_undefined : irunMeets (irun0 [(0x4010, 95)] true) (fun r => ((r.st.wcFlush 0).image 95).isNone) = true := by decide
theorem witness_IrunResults_stale : irunMeets (irun0 [(0x4010, 5)] true) (fun r => !(fits5 r)) = true := by decide
theorem witness_IrunResults_invalid : irunMeets (irun0 [(0x4000, 0x80), (0x4010, 5), (0x4015, 1)] true) (fun r =>
    fits5 r && match Psw.ofBytes r.data with | some g => g.mode == .host | none => false) = true := by decide
theorem witness_IrunResults_runs : irunMeets (irun0 [(0x4000, 0x40), (0x4010, 5), (0x4015, 1), (0x4300, 32)] true) (fun r =>
    fits5 r && !(descReserved r.data) && decide (descNat r.data 0x300 1 ≤ 32) &&
      match Psw.ofBytes r.data with | some g => g.mode != .host | none => false) = true := by decide

/-- CPUSIG of an external call by CPU 0 to the number in g1, in a state with what f changes. -/
def sigMeets (n : Dword) (f : State → State) (p : State → Bool) : Bool :=
  entersAs (f (host0 [(1, n)])) (formSig ⟨0, 1, 0⟩ 0x01 1 .extCall) p

theorem witness_CpusigResults_small : entersAs (mgmt0 []) (formSig ⟨288, 1, 0⟩ 0x01 1 .extCall) (fun _ => !(isCpu 288)) = true := by decide
theorem witness_CpusigResults_absent : sigMeets 192 id (fun s2 => decide (s2.activeCount ≤ 192) && (s2.unit 0).irun.isNone) = true ∧
    sigMeets 1 (fun s => s.setRf (rCmap 1) 62 2 3) (fun s2 => s2.cmapState 1 == 3) = true := by decide
theorem witness_CpusigResults_twice : sigMeets 191 (fun s => s.modUnit 191 fun c => { c with extCall := [⟨.extCall, 3, none⟩] })
    (fun s2 => decide (191 < s2.activeCount) && s2.cmapState 191 == 1 && s2.callPending 191 none) = true := by decide
theorem witness_CpusigResults_moving : sigMeets 1 (fun s => s.setRf (rCmap 1) 62 2 2)
    (fun s2 => s2.cmapState 1 == 2 && !(s2.callPending 1 none)) = true := by decide
theorem witness_CpusigResults_delivered : sigMeets 0 id (fun s2 => s2.cmapState 0 == 1 && !(s2.callPending 0 none)) = true := by decide

/-- CPU 0 with c10 and a region. -/
def tx0 (c10 : Dword) (r : Option Region) : State :=
  cpuWith { Cpu.reset with hostC := if c10 = 0 then [] else [(10, c10)], region := r }

/-- A region of CPU 0. -/
def region0 : Region := (Cpu.reset.setG 3 9).newRegion 0x40

theorem witness_TransactionResults_tbegin : entersAs (tx0 2 (some region0)) (insnTbegin ⟨0, 0, 4⟩) (fun s2 => (s2.unit 0).region.isSome) = true ∧
    entersAs (tx0 0 none) (insnTbegin ⟨0, 0, 4⟩) (fun s2 => (s2.unit 0).region.isNone && !(((s2.unit 0).getC 10).getLsbD 1)) = true ∧
    entersAs (tx0 2 none) (insnTbegin ⟨0, 0, 4⟩) (fun s2 => (s2.unit 0).region.isNone && ((s2.unit 0).getC 10).getLsbD 1 && !(s2.noCaches 0)) = true := by
  decide
theorem witness_TransactionResults_tend : entersAs (tx0 2 none) (insnTend ⟨0, 0⟩) (fun s2 => (s2.unit 0).region.isNone) = true ∧
    entersAs (tx0 2 (some region0)) (insnTend ⟨0, 0⟩) (fun s2 => (s2.unit 0).region.isSome) = true := by decide
theorem witness_TransactionResults_tabort : entersAs (tx0 2 none) (insnTabort ⟨0, 0, 0, 5⟩) (fun s2 => (s2.unit 0).region.isNone) = true ∧
    entersAs (tx0 2 (some region0)) (insnTabort ⟨0, 0, 0, 5⟩) (fun s2 => (s2.unit 0).region.isSome) = true := by decide
theorem witness_AbortRestores : ((tx0 2 (some region0)).unit 0).region = some region0 ∧ 65535 < 65536 ∧ 1 ≤ 0x0B ∧ 0x0B ≤ 0x0B := by decide

theorem witness_TranslationInstructions_tlb : (match tlbRow (host0 [(1, 95)]) (.tlbii ⟨0, 1, 0, 0⟩) with
    | some x => enters (host0 [(1, 95)]) x.1 && isCpu x.2.1
    | none => false) = true := by decide
theorem witness_TranslationInstructions_lra : entersAs (host0 [(2, 0x3000)]) (insnLra ⟨0, 1, 2, 0⟩) (fun s2 => match (s2.past 0).lra 0 (s2.g 0 2).toNat with
    | .ok r => okWith ((s2.past 0).fetches 0 r.2.2) fun _ => true
    | .error _ => false) = true := by decide

/-- A line instruction translates to a first piece whose walk meets no poison. -/
theorem witness_LineMaintenance_cpu : (match lineRow (.cinv ⟨0, 0, 2, 0⟩) with
    | some x => entersAs (host0 [(2, 0x30FF)]) x.1 fun s2 => match (s2.past 0).translate 0 (s2.g 0 2) 1 x.2.2.1 with
        | .ok (p :: _) => ((s2.past 0).walkPoison 0 p).isNone
        | _ => false
    | none => false) = true := by decide
theorem witness_LineMaintenance_small : isCpu 288 = false ∧ enters (mgmt0 []) (insnTlbiv ⟨288, 0, 2, 0⟩) = true ∧
    enters (mgmt0 []) (insnTlbia ⟨288, 0, 0, 0⟩) = true ∧ enters (mgmt0 []) (insnCinv ⟨288, 0, 2, 0⟩) = true ∧
    enters (mgmt0 []) (insnCclean ⟨288, 0, 2, 0⟩) = true ∧ enters (mgmt0 []) (insnCclinv ⟨288, 0, 2, 0⟩) = true := by decide
theorem witness_LineMaintenance_czero : entersAs (mgmt0 [(2, 0x10FF)]) (insnCzero ⟨288, 0, 2, 0⟩) (fun s2 =>
    match (s2.past 288).translate 288 (s2.g 288 2) 1 .store with
    | .ok (p :: _) => ((s2.past 288).walkPoison 288 p).isNone && (List.range 256).all fun i => !(inTables (p.pa / 256 * 256 + i))
    | _ => false) = true := by decide

theorem witness_CacheSwitches : (match switchRow (.l2dis ⟨0, 0, 0, 0⟩), switchRow (.l3en ⟨0, 0, 0, 0⟩) with
    | some x, some y => enters (host0 []) x.1 && enters (host0 []) y.1
    | _, _ => false) = true ∧ live.l2On 0 = true ∧ live.l3On 7 = true := by decide
/-- L2DIS of a core whose L2 is on, and L2EN of one whose L2 is on. -/
theorem witness_CacheSwitches_both : (match switchRow (.l2dis ⟨0, 0, 0, 0⟩), switchRow (.l2en ⟨0, 0, 0, 0⟩) with
    | some x, some y => entersAs (host0 []) x.1 (fun s2 => x.2.2.1 ((s2.past 0).wcFlush 0) == x.2.2.2.1) &&
        entersAs (host0 []) y.1 (fun s2 => y.2.2.1 ((s2.past 0).wcFlush 0) != y.2.2.2.1)
    | _, _ => false) = true ∧ (live.l2Disable 207).l2On 207 = false ∧ (live.l3Disable 7).l3On 7 = false := by decide

/-- Physical subchannel 6, mapped to set 0 and number 1 of image 5, enabled. -/
def sub6 : Sct := { Sct.none with mapped := true, en := true, image := 5, num := 1, mask := 0xFF, paths := [] }

/-- The DRAM channels and both channel dies are in service. -/
def csUp : List (Nat × Dword) := up ++ [(rCs 8 0, 0x8000000000000000), (rCs 9 0, 0x8000000000000000)]

/-- CPU 0 inside image 5 with subchannel 6 in both copies of the table, an operand block at 0x2000. -/
def io0 (ga : Dword) (m : List Host.Cell) : State :=
  { inImage [(1, ga), (2, 0x2000)] with sct := [(6, sub6)], sctMir := [(6, sub6)], mem := m ++ tables, regs := csUp }

/-- IOSTART has read its block, with p; ga names subchannel 6 or none. -/
def ioMeets (ga : Dword) (m : List Host.Cell) (p : State → List Byte → Bool) : Bool :=
  match ioRow (io0 ga m) (.iostart ⟨0, 1, 2, 0⟩) with
  | some x => entersAs (io0 ga m) x.insn fun s2 => (s2.unit 0).irun.isSome &&
      okWith ((s2.past 0).loadAt 0 (s2.g 0 2) x.n .load) fun r => p r.1 r.2
  | none => false

theorem witness_IoResults_outside : (match ioRow (host0 [(2, 0x2000)]) (.iostart ⟨0, 1, 2, 0⟩) with
    | some x => entersAs (host0 [(2, 0x2000)]) x.insn fun s2 => (s2.unit 0).irun.isNone
    | none => false) = true := by decide
theorem witness_IoResults_bad : ioMeets 1 [(0x2008, 1)] (fun _ b => (parseOrb b).isNone) = true := by decide
theorem witness_IoResults_absent : ioMeets 2 [] (fun t b => (parseOrb b).isSome && (t.subOf 5 (t.g 0 1)).isNone) = true := by decide
theorem witness_IoResults_names : ioMeets 1 [] (fun t b => (parseOrb b).isSome && t.subOf 5 (t.g 0 1) == some 6) = true := by decide

/-- IOHALT takes no block. -/
theorem witness_IoResults_noBlock : (match ioRow (io0 1 []) (.iohalt ⟨0, 1, 0, 0⟩) with
    | some x => x.n == 0 && entersAs (io0 1 []) x.insn fun s2 => (s2.unit 0).irun.isSome
    | none => false) = true := by decide

/-- IOTEST finds a subchannel without pending status (CC 1) and stores its block. -/
theorem witness_IoResults_iotest : entersAs (io0 1 []) (insnIotest ⟨0, 1, 2, 0⟩ (io0 1 [])) (fun s2 => (s2.unit 0).irun.isSome &&
      ((s2.past 0).checkStore 0 (s2.g 0 2) 32).isNone && (s2.past 0).subOf 5 (s2.g 0 1) == some 6 && ((s2.past 0).ioTest 6).2.2 != 3 &&
      okWith (((s2.past 0).ioTest 6).1.storeAt 0 (s2.g 0 2) ((s2.past 0).ioTest 6).2.1 .store) fun _ => true) = true := by decide
theorem witness_IoResults_iotest_absent : entersAs (io0 2 []) (insnIotest ⟨0, 1, 2, 0⟩ (io0 2 [])) (fun s2 => (s2.unit 0).irun.isSome &&
      ((s2.past 0).checkStore 0 (s2.g 0 2) 32).isNone && ((s2.past 0).subOf 5 (s2.g 0 1)).isNone) = true := by decide
theorem witness_IoResults_iotest_outside : entersAs (host0 [(2, 0x2000)]) (insnIotest ⟨0, 1, 2, 0⟩ (host0 [(2, 0x2000)]))
    (fun s2 => (s2.unit 0).irun.isNone) = true := by decide
theorem witness_IoResults_iostore : entersAs (io0 1 []) (insnIostore ⟨0, 1, 2, 0⟩ (io0 1 [])) (fun s2 =>
      ((s2.past 0).checkStore 0 (s2.g 0 2) 48).isNone && (s2.past 0).subOf 5 (s2.g 0 1) == some 6 &&
      (((s2.past 0).readEntry 6).sub 6).mapped && ((s2.past 0).readEntry 6).operable 6 &&
      okWith (((s2.past 0).readEntry 6).storeAt 0 (s2.g 0 2) (((s2.past 0).readEntry 6).sib 6) .store) fun _ => true) = true := by decide
theorem witness_IoResults_iostore_absent : entersAs (io0 2 []) (insnIostore ⟨0, 1, 2, 0⟩ (io0 2 [])) (fun s2 => (s2.unit 0).irun.isSome &&
      ((s2.past 0).checkStore 0 (s2.g 0 2) 48).isNone && ((s2.past 0).subOf 5 (s2.g 0 1)).isNone) = true := by decide
theorem witness_IoResults_iostore_outside : entersAs (host0 [(2, 0x2000)]) (insnIostore ⟨0, 1, 2, 0⟩ (host0 [(2, 0x2000)]))
    (fun s2 => (s2.unit 0).irun.isNone) = true := by decide

/-- CPU 0 in host state with an image number in g1 and image 5 defined. -/
def cs0 (n : Dword) : State := { host0 [(1, n), (2, 0x2000)] with images := [(5, some image5)] }

theorem witness_ChannelControl_block : (match csBlockRow (cs0 96) (.csshare ⟨0, 1, 2, 0⟩) with
    | some x => entersAs (cs0 96) x.1 fun s2 => okWith ((s2.past 0).loadAt 0 (s2.g 0 2) x.2.2.1 .load) fun r => decide (95 < (r.1.g 0 1).toNat)
    | none => false) = true := by decide
theorem witness_ChannelControl_absent : (match csRow (.csquiesce ⟨0, 1, 2, 0⟩) with
    | some x => entersAs (cs0 96) x.1 (fun s2 => decide (95 < (s2.g 0 1).toNat)) && entersAs (cs0 95) x.1 fun s2 => (s2.image 95).isNone
    | none => false) = true := by decide
theorem witness_ChannelControl_image : (match csRow (.csreset ⟨0, 1, 0, 0⟩) with
    | some x => entersAs (cs0 5) x.1 fun s2 => (s2.image 5).isSome
    | none => false) = true := by decide

/-- CPU 0 with the engines of compute die 0 in service. -/
def slot0 (g : List (Nat × Dword)) : State :=
  { host0 g with regs := up ++ [(rAcc 0 0 0, 0x0000010000000000), (rAcc 0 1 0, 0x0000010000000000)] }

/-- An operand of slot instructions: CPU 0, ga, gb, nothing failing. -/
def opC (ra rb : BitVec 5) : OpC := { u := 0, ra := ra, rb := rb, res := 0, fails := 0, good := 0 }

/-- A state with IA past the instruction and the queues seen. -/
def seen (s2 : State) (o : OpC) : State := (s2.past o.u).queueSeen o.queued

/-- A slot function enters and meets an engine of a compute die. -/
def slotMeets (r : Option SlotRow) (s : State) (p : SlotRow → State → Nat × Nat → Bool) : Bool := match r with
  | some x => !(s.slotGone x.slot) && entersAs s x.insn fun s2 =>
      match (seen s2 x.o).chooseAcc ((seen s2 x.o).coreOf 0 / 26) (slotCrypto x.slot) with
      | some e => decide (e.1 < 8) && p x (seen s2 x.o) e
      | none => false
  | none => false

/-- An AES command whose block is empty ends in a stop. -/
theorem witness_SlotResults_stop : slotMeets (slotRow (slot0 [(2, 0x2000)]) (.aesCtr (opC 0 2))) (slot0 [(2, 0x2000)])
      (fun x s2 e => match x.run s2 e with | .ok _ => false | .error _ => true) = true := by decide
theorem witness_SlotResults_ok : slotMeets (keyRow (slot0 [(2, 0x2000)]) (.rndb (opC 0 2))) (slot0 [(2, 0x2000)])
      (fun x s2 e => okWith (x.run s2 e) fun _ => true) = true := by decide

/-- The cryptography engine of a die, in its self-test or serving, is the only one left. -/
def oneEngine (die : Nat) (v : Dword) : State :=
  ((accEngines true).foldl (fun t e => t.setReg (rAcc e.1 e.2 0) 0) (host0 [(2, 0x2000)])).setReg (rAcc die 1 0) v

/-- No engine can be chosen. -/
def noEngine (s : State) (p : State → Bool) : Bool := !(s.slotGone 1) && entersAs s (insnAesCtr (opC 0 2) s) fun s2 =>
  ((seen s2 (opC 0 2)).chooseAcc ((seen s2 (opC 0 2)).coreOf 0 / 26) true).isNone && p (seen s2 (opC 0 2))

theorem witness_SlotResults_tested : noEngine (oneEngine 0 0x8000020000000000) (fun t => (t.accLeft true).any fun e => e.1 == 0) = true := by
  decide
theorem witness_SlotResults_elsewhere : noEngine (oneEngine 5 0x8000010000000000)
    (fun t => !((t.accLeft true).any fun e => decide (e.1 = 0) || decide (8 ≤ e.1))) = true := by decide
theorem witness_SlotResults_rndg : (slot0 []).slotGone 3 = false ∧
    entersAs (slot0 []) (insnRndg (opC 1 0) (slot0 [])) (fun s2 => !s2.sources.isEmpty &&
      decide (16 ≤ (((s2.past 0).refillRnd 0).core 0).rnd.length)) = true := by decide
/-- Only compute die 5 has an engine: the refill brings nothing. -/
theorem witness_SlotResults_rndg_waits : (oneEngine 5 0x8000010000000000).slotGone 3 = false ∧
    entersAs (oneEngine 5 0x8000010000000000) (insnRndg (opC 1 0) (oneEngine 5 0x8000010000000000)) (fun s2 => !s2.sources.isEmpty &&
      decide ((((s2.past 0).refillRnd 0).core 0).rnd.length < 8)) = true := by decide
/-- Every source out of service. -/
def noSource : State := (List.range 10).foldl (fun t d => t.setRf (rEnt d) 63 1 0) (slot0 [])
theorem witness_SlotResults_rndg_none : noSource.slotGone 3 = false ∧
    entersAs noSource (insnRndg (opC 1 0) noSource) (fun s2 => s2.sources.isEmpty) = true := by decide
theorem witness_SlotResults_reseed : enters (slot0 []) (insnReseed (opC 0 0) (slot0 [])) = true := by decide
theorem witness_QueryResult : (slot0 [(2, 0x2000)]).slotGone 3 = false ∧ entersAs (slot0 [(2, 0x2000)]) (insnQuery (opC 0 2) 3 (slot0 [(2, 0x2000)]))
    (fun s2 => ((seen s2 (opC 0 2)).chooseAcc ((seen s2 (opC 0 2)).coreOf 0 / 26) (slotCrypto 3)).isSome &&
      okWith ((seen s2 (opC 0 2)).storeAt 0 (s2.g 0 2) ((seen s2 (opC 0 2)).queryBlock 3) .slotStore) fun _ => true) = true := by decide

theorem witness_UnassignedWords_operation : noInstruction 0 0 = true ∧ ¬(0x70 ≤ Word.op 0 ∧ Word.op 0 ≤ 0x73 ∧ isCpu 0 = true) ∧
    arrivesAs (cpu0 []) (insnOperation 0 0 (cpu0 [])) (fun _ => true) = true := by decide
/-- CPUSIG with order 0x20, in supervisor and in problem state. -/
theorem witness_UnassignedWords_order : otherOrder 0x54088020 = true ∧ noInstruction 0 0x54088020 = true ∧
    arrivesAs (host0 []) (insnOperation 0 0x54088020 (host0 [])) (fun s2 => decide (1 ≤ (s2.psw 0).mode.code)) = true ∧
    arrivesAs (cpu0 []) (insnOperation 0 0x54088020 (cpu0 [])) (fun s2 => decide ((s2.psw 0).mode.code < 1)) = true := by decide
theorem witness_UnassignedWords_gone : slotWord 4 0x74000000 = true ∧ slotWord 8 0x7F00003F = true ∧
    (cpu0 []).slotFitted 4 = false ∧ arrivesAs (cpu0 []) (goneSlot 0 0x74000000) (fun _ => true) = true ∧
    arrivesAs (mgmt0 []) (goneSlot 288 0x7F00003F) (fun _ => true) = true := by decide
/-- A part with a customer slot 8. -/
def custom0 : State := { cpu0 [] with fuses := { Fuses.default with custom := some 1 } }
theorem witness_UnassignedWords_custom : custom0.slotFitted 8 = true ∧
    arrivesAs custom0 (goneSlot 0 0x78000000) (fun s2 => (s2.unit 0).region.isNone) = true := by decide
theorem witness_UnassignedWords_illFormed : noInstruction 0 0x01000000 = false ∧ slotWord 4 0x73000000 = false ∧ slotWord 8 0x77000000 = false := by
  decide

theorem witness_PrivilegedStops : (match privilegedRow (cpu0 []) (.lpsw ⟨0, 31, 0, 1⟩) with
    | some x => !(x.1.lacks) && arrivesAs (cpu0 []) x.1 fun s2 => decide ((s2.psw x.1.u).mode.code < x.2)
    | none => false) = true := by decide
/-- Supervisor state is not enough for CHKMODE. -/
theorem witness_PrivilegedStops_io : (match privilegedIoRow (cpu0 []) (.csmapMap ⟨0, 1, 2, 0⟩), privilegedIoRow (cpu0 []) (.reseed (opC 0 0)) with
    | some x, some y => arrivesAs (cpu0 []) x.1 (fun s2 => !(x.1.lacks) && decide ((s2.psw x.1.u).mode.code < x.2)) &&
        arrivesAs (cpu0 []) y.1 fun s2 => !(y.1.lacks) && decide ((s2.psw y.1.u).mode.code < y.2)
    | _, _ => false) = true := by decide
/-- LCTL of c9 is a supervisor's, STCTL of it anyone's (R54). -/
theorem test_ctl_least : ctlLeast false true 9 = 1 ∧ ctlLeast false false 9 = 0 ∧ ctlLeast true false 40 = 2 ∧ ctlLeast false true 48 = 2 := by decide
theorem witness_PrivilegedStops_host : (match privilegedRow (inImage []) (.chkmode ⟨0, 1, 0, 0⟩) with
    | some x => !(x.1.lacks) && arrivesAs (inImage []) x.1 fun s2 => decide ((s2.psw x.1.u).mode.code < x.2) && (s2.psw x.1.u).mode == .supervisor
    | none => false) = true := by decide

/-- A restart interruption of CPU 0. -/
def restart0 : Intr := ⟨.restart, [], 0⟩
theorem witness_InterruptionSwapsPsw : (match (cpu0 []).area 0 with | .ram a _ => a == 0 | _ => false) = true ∧ ((cpu0 []).unit 0).region = none ∧
    ((cpu0 []).areaFetched 0).any ((cpu0 []).fetchedBy 0 ((cpu0 []).areaFetched 0)).poisoned = false ∧
    ((cpu0 []).stored 0 ((cpu0 []).area 0) restart0).newPsw ((cpu0 []).area 0) restart0.cls = some Psw.zero ∧
    newPswOk 0 ((cpu0 []).unit 0) Psw.zero = true := by decide

/-- CPU 0 in problem state with PSW bits and what f makes pending. -/
def pend0 (p : Psw) (f : Cpu → Cpu) : State := cpuWith (f { Cpu.reset with psw := p })

theorem witness_InterruptionsAndTimers_restart : ({ live with units := [(0, { Cpu.reset with restart := true })] } : State).boundary 0 = .restart := by
  decide
theorem witness_InterruptionsAndTimers_clear : (cpu0 []).boundary 0 = .clear := by decide
/-- A CPU timer below zero, enabled by c0. -/
theorem witness_InterruptionsAndTimers_external : (match (pend0 { Psw.zero with ext := true } fun c =>
      { c with hostC := [(0, 0xFFFFFFFFFFFFFFFF), (4, 0x8000000000000000)] }).boundary 0 with
    | .external _ => true
    | _ => false) = true := by decide
theorem witness_InterruptionsAndTimers_machine : (match (pend0 { Psw.zero with mc := true } fun c =>
      { c with hostC := [(14, 0x80)], mchecks := [{ image := none, code := 0x8000000000000000, msg := 0, tod := 0, addr := 0 }] }).boundary 0 with
    | .machine _ => true
    | _ => false) = true := by decide
/-- An I/O condition of image 5 under subclass 0. -/
theorem witness_InterruptionsAndTimers_io : (match ({ inImage [] with conds := [(5, 0, 6)], units := [(0, { Cpu.reset with
      stopped := false, irun := some ⟨0x20000, 5, 1, 0, Psw.zero⟩, psw := { Psw.zero with mode := .supervisor, io := true }, imgC := [(6, 1)] })] } : State).boundary 0 with
    | .io x => x == (5, 0, 6)
    | _ => false) = true := by decide
theorem witness_InterruptionsAndTimers_timers : live.powered = true ∧ live.todWait = [] ∧
    ((live.writeC 0 5 (2 ^ 64 - 2)).readC 0 5).toNat < 2 ^ 64 - 1 := by decide

theorem witness_MismatchLadder : (cpu0 []).frozen = false ∧ (cpu0 []).issuing 0 = true ∧ ((cpu0 []).unit 0).checked = true ∧
    ((cpu0 []).unit 0).retries < 2 ∧ 2 ≤ ((pend0 Psw.zero fun c => { c with retries := 2 }).unit 0).retries ∧
    (pend0 Psw.zero fun c => { c with retries := 2 }).issuing 0 = true := by decide
/-- A retry of the instruction at 0x40, and one of another. -/
theorem witness_MismatchLadder_confirm : ((pend0 Psw.zero fun c => { c with retries := 2, retryIa := 0x40 }).unit 0).retries ≠ 0 ∧
    ((pend0 Psw.zero fun c => { c with retries := 2, retryIa := 0x40 }).unit 0).retryIa = 0x40 ∧
    ((pend0 Psw.zero fun c => { c with retries := 2, retryIa := 0x40 }).unit 0).selfTest = false := by decide

/-- CPU 191 moves to the spare core 207. -/
def moving : State := { live with moves := [(191, 206, 207, true)] }
theorem witness_MoveCompletes : moving.frozen = false ∧ moving.held = [] ∧ 207 < 208 ∧
    moving.moves.find? (fun x => x.1 == (191 : CpuNo).val) = some ((191 : CpuNo).val, 206, 207, true) := by decide

theorem witness_CachesAreTransparent : (fabricEvent live (.lineFillArrival 207 0xFFC0)).isSome = true ∧
    (Instr.lineFillArrival 207 0xFFC0).wf = true ∧ (fabricEvent live (.homeWriteback 7 0)).isSome = true := by decide

/-- Channel 15 is zeroing. -/
def zeroing15 : State := live.modCtl 15 fun k => { k with zeroing := true }
theorem witness_DramEvents : (dramEvent live (.dramWriteRequest 0 0 [1] false)).isSome = true ∧
    (Instr.dramWriteRequest 0 0 [1] false).wf = true ∧ live.frozen = false ∧
    ({ live with halted := true } : State).frozen = true ∧ zeroing15.frozen = false ∧ (zeroing15.ctl 15).zeroing = true ∧
    inBlock 128 0 0 = false := by decide

/-- Channel 0 serves, with its registers as start-up leaves them and self-refresh enabled. -/
def serving : State := { live with regs := up ++ [(rDc 0 0x28, 0x8000000000000000)] }
theorem witness_RequestsAreServed : serving.frozen = false ∧ serving.onChannel 0 0 = true ∧ (∀ c : Fin 16, serving.serves c = true) ∧
    (serving.ctl 0).sr = .awake ∧ serving.queued 0 0 = none ∧ (serving.ctl 0).rq.length < queueRoom ∧ serving.dramServed 0 = true ∧
    inBlock 128 0 128 = true ∧ serving.inDram 0xFFC0 128 = true := by decide
/-- No channel serves and no cache holds a line. -/
theorem witness_RequestsAreServed_absent : live.inDram 0xFFC0 128 = true ∧ live.units = [] ∧
    (∀ q, 0xFFC0 / 64 ≤ q → q ≤ (0xFFC0 + 128 - 1) / 64 → live.absent (64 * q) = true) := by
  refine ⟨by decide, rfl, fun q h1 h2 => ?_⟩
  obtain rfl | rfl : q = 1023 ∨ q = 1024 := by omega
  all_goals decide
theorem witness_DramEvents_selfRefresh : bit (serving.reg (rDc 0 0x28)) 63 = true ∧ serving.dcEn 0 = true ∧ serving.dcState 0 = 2 ∧
    (serving.ctl 0).zeroing = false ∧ (serving.ctl 0).rq = [] ∧ (serving.ctl 0).wq = [] ∧
    (serving.sre 0).dcState 0 = 3 ∧ (((serving.sre 0).modCtl 0 fun k => { k with sr := .waiting }).ctl 0).sr = .waiting ∧
    ((live.modCtl 15 fun k => { k with training := true }).ctl 15).training = true ∧
    ((live.modCtl 15 fun k => { k with drain := true }).ctl 15).drain = true := by decide

theorem witness_EventsWhileRunning : (checkEvent live (.mismatchRetry 0)).isSome = true ∧ (channelEvent live .mirrorLinkDown).isSome = true ∧
    (portEvent live (.linkDown 1 11)).isSome = true ∧ (powerEvent live .injectionPerformed).isSome = true := by decide
theorem witness_ServiceEvents : (serviceEvent live (.pmbusPoll (List.replicate 13 none))).isSome = true ∧
    (Instr.pmbusPoll (List.replicate 13 none)).wf = true ∧ (moduleEvent live (.droopRelease 7 1)).isSome = true ∧
    (sessionEvent live (.sessionSilenceExpiry 1)).isSome = true ∧ (resetEvent live .vauxLoss).isSome = true := by decide

/-- Bank 127 of CH0 under test in place, and CH1's background test marching. -/
def bankTest : State := (live.setRf (rBankOwn 8 127) 0 8 0x70).setRf (rWsTest 9) 40 8 2
theorem witness_WorkingStoreBanks : bankTest.frozen = false ∧ 127 < wsBanks (wsNum 0) ∧ bankTest.rf (rBankOwn (wsNum 0) 127) 0 8 = 0x70 ∧
    (bankTest.wsTest (wsNum 0)).lost.contains 127 = false ∧ (bankTest.wsTest 8).lost.contains 0 = false ∧
    bankTest.rf (rWsTest (wsNum 1)) 40 8 = 2 ∧ (bankTest.wsTest (wsNum 1)).phys < 256 ∧
    0 < wsBanks 8 ∧ ownerOk 8 0 0 .mgmt = true ∧ bankTest.bankOwner (wsCell 8 0) ≠ 1 + 47 := by decide

/-- What a write answers. -/
def writeMeets (c : Instr) (s : State) (p : Option Nat → Bool) : Bool := match writeRow s c with
  | some x => match s.writeTarget x.w x.a with
    | none => p none
    | some (d, _, a) => p (some (s.writeReason d a x.v))
  | none => false

theorem witness_RegisterWrites_none : writeMeets (.registerWrite .mgmt 0 0) live (fun r => r == none) = true := by decide
theorem witness_RegisterWrites_accepted : writeMeets (.registerWrite .mgmt (BitVec.ofNat _ rSparePool) 0) live (fun r => r == some 0) = true := by
  decide
theorem witness_RegisterWrites_reserved : writeMeets (.registerWrite .mgmt (BitVec.ofNat _ rTodCtl) 0xC0) live
    (fun r => r == some 0x81) = true := by decide
theorem witness_RegisterWrites_frozen : State.reset.frozen = true ∧ live.frozen = false ∧
    (match writeRow State.reset (.l2CtlEnSet .host 0) with | some x => x.w != .mgmt | none => false) = true := by decide
theorem witness_ClearsZero : (match writeRow live (.l2ErrClr .mgmt 0 0) with
    | some x => match live.writeTarget x.w x.a with
      | some (d, _, a) => live.writeReason d a x.v == 0 && match clrFields d.name with
          | some (b, fs) => x.v.getLsbD b && !fs.isEmpty
          | none => false
      | none => false
    | none => false) = true := by decide

/-- A message of class 1 of CX0 core 0. -/
def msg1 : Msg := ⟨msgWord 0 0 0x20 1 false 0, 5, none, false⟩
theorem witness_AcceptanceRecords : (live.unqueue msg1).handledClass msg1 < 2 := by decide

/-- Session 0 with a role and a version. -/
def sess (r : Role) (v : Nat) : State := live.setSession 0 (some ⟨0, v, r, false⟩)
theorem witness_RecordsAdmitted_absent : (recordRow (.ping 0 1)).isSome = true ∧ live.session 0 = none := by decide
theorem witness_RecordsAdmitted_early : (sess .fresh 3).session 0 = some ⟨0, 3, .fresh, false⟩ ∧ (sess .rom 3).session 0 = some ⟨0, 3, .rom, false⟩ := by
  decide
/-- SNAP needs version 2; version 2 is enough. -/
theorem witness_RecordsAdmitted_version : (match recordRow (.snap 0 1) with
    | some x => x.ver == 2 && (sess .active 1).session 0 == some ⟨0, 1, .active, false⟩ && (sess .active 2).session 0 == some ⟨0, 2, .active, false⟩
    | none => false) = true := by decide
theorem witness_RecordsAdmitted_other : (match recordRow (.release 0 1) with
    | some x => x.active && (sess .standby 3).session 0 == some ⟨0, 3, .standby, false⟩
    | none => false) = true := by decide
/-- A retired module. -/
def retiredOne : State := { sess .active 3 with lcRows := [(1, true), (15, true)] }
theorem witness_RecordsAdmitted_retired : retiredOne.retired = true ∧ retiredServes 8 2 = false ∧ retiredServes 1 3 = true ∧
    retiredOne.session 0 = some ⟨0, 3, .active, false⟩ := by decide

theorem witness_LifecycleTransitions : live.lcStep = 0 ∧ live.rowsDone = true ∧ lcPair live.lcState 2 = false ∧
    lcPair live.lcState 4 = true ∧ live.lcRows.length < 127 := by decide
/-- The owner's keys sign a transition out of MISSION (R488), and no keys' hash is that of an owner not provisioned (R490). -/
theorem test_transition_signer : lcSigner 3 4 .owner = true ∧ lcSigner 3 4 .vocen = false ∧ live.partyHash .owner = none := by decide

theorem witness_ResetsAndPower : 9999 < 10000 ∧ ({ live with powered := false } : State).powered = false ∧
    live.terminal = false ∧ live.powered = true ∧ (live.setRf (regAddr 9 0 10 0) 0 1 0).powered = true := by decide
theorem witness_ResetsAndPower_terminal : (live.setRf rFcStat 63 1 1).terminal = true := by decide

/-- RNDB g3 is the word 0111 0011 00000 00011 00000010 000000 (R94, R402). -/
theorem test_rndb_word : wordC 3 0 3 2 0 = 0x7300C080 := by decide
/-- DZ_DIS is noted by the cold reset that it acts on (R492). -/
theorem test_cold_reset_notes_dz_dis : ((live.setRf rLcCtl 63 1 1).coldReset).boot.dzDis = true := by decide

end Sys2Proof.Tests
end

section
/-! SUPPORT. What the programming state answers once IA has moved on, and how a plain program condition ends an instruction;
then the return stack's operations, and the statements about them (R69 to R71, R139). -/
namespace Sys2Proof.Machine
open Sys2Proof

/-! ## Reads after IA has moved on -/

@[simp] theorem Cpu.rs_setIa (c : Cpu) (a : Dword) : (c.setIa a).rs = c.rs := rfl

@[simp] theorem State.unit_past (s : State) (u : Nat) : (s.past u).unit u = (s.unit u).setIa ((s.psw u).ia + 4) :=
  s.unit_modUnit_same u _

theorem State.rs_past (s : State) (u : Nat) : ((s.past u).unit u).rs = (s.unit u).rs := by
  simp only [State.unit_past, Cpu.rs_setIa]

@[simp] theorem State.psw_past (s : State) (u : Nat) : (s.past u).psw u = { s.psw u with ia := (s.psw u).ia + 4 } :=
  s.psw_setIa u _

@[simp] theorem State.g_past (s : State) (u : Nat) (r : BitVec 5) : (s.past u).g u r = s.g u r := s.g_setIa u r _

/-- A branch displacement counts from the branch itself, although IA has moved on (R95). -/
theorem State.target_past (s : State) (u : Nat) (d : Dword) : (s.past u).target u d = (s.psw u).ia + 4 * d := by
  simp only [State.target, State.psw_past, BitVec.add_sub_cancel]

/-! ## An instruction that enters

Here the unit has a name of its own, so that a fact about the effect can speak of the operands' unit `o.u`, which i.u only
unfolds to. -/

theorem State.insn_completes_at {s s2 t : State} {i : Insn} {u : Nat} (h : s.enter i = .ok s2)
    (hb : i.body (s2.past u) = .ok t) (hu : i.u = u) : s.insn i = s2.finish u t := by
  subst hu
  exact State.insn_completes h hb

theorem State.insn_ends_at {s s2 : State} {i : Insn} {u : Nat} {e : Ends} (h : s.enter i = .ok s2)
    (hb : i.body (s2.past u) = .error e) (hu : i.u = u) : s.insn i = s2.endWith u i.word (s2.psw u).ia false e := by
  subst hu
  exact State.insn_ends h hb

/-! ## A program condition without operands -/

/-- A condition that met no table fetch and leaves IA at its instruction (R83) interrupts there, or waits for the prefix area (R442). -/
theorem State.endWith_excOf (s : State) (u : Nat) (word : Word) (ia : Dword) {code : BitVec 16}
    (hs : suppressing { code := code } = false) :
    s.endWith u word ia false (.stop (excOf code)) = s.orWaits u (s.excInt u { code := code } word ia) := by
  simp only [State.endWith, State.orWaits, excOf, Ends.interrupts, State.fetchedBy, List.foldl_nil, List.find?_nil, hs,
    Bool.and_true, Bool.false_eq_true, if_false]

/-- An instruction that enters and meets such a condition. -/
theorem State.insn_stopped_by {s s2 : State} {i : Insn} {u : Nat} {code : BitVec 16} (h : s.enter i = .ok s2)
    (hb : i.body (s2.past u) = .error (.stop (excOf code))) (hu : i.u = u) (hs : suppressing { code := code } = false) :
    s.insn i = s2.orWaits u (s2.excInt u { code := code } i.word (s2.psw u).ia) :=
  (State.insn_ends_at h hb hu).trans (s2.endWith_excOf _ _ _ hs)

/-! ## What a call does with the return stack (R70) -/

/-- A call with room pushes the return address. -/
theorem State.call_of_room {s : State} {u : Nat} (to_ : Dword) (h : (s.unit u).rs.entries.length < rsDepth u) :
    s.call u to_ = .ok (s.modUnit u fun x =>
      (x.setRs ⟨(s.psw u).ia :: (s.unit u).rs.entries, (s.unit u).rs.disc⟩).setIa to_) := by
  simp only [State.call, h, ↓reduceIte, State.modUnit]

/-- A call on a full stack under RSO 0 discards the oldest entry. -/
theorem State.call_of_full_discards {s : State} {u : Nat} (to_ : Dword) (h : rsDepth u ≤ (s.unit u).rs.entries.length)
    (ho : (s.psw u).rso = false) :
    s.call u to_ = .ok (s.modUnit u fun x => (x.setRs ⟨(s.psw u).ia :: (s.unit u).rs.entries.dropLast, true⟩).setIa to_) := by
  rw [State.psw] at ho
  simp only [State.call, Nat.not_lt.mpr h, ↓reduceIte, ho, Bool.false_eq_true, State.modUnit]

/-- A call on a full stack under RSO 1 is stopped. -/
theorem State.call_of_full_stops {s : State} {u : Nat} (to_ : Dword) (h : rsDepth u ≤ (s.unit u).rs.entries.length)
    (ho : (s.psw u).rso = true) : s.call u to_ = .error (.stop (excOf 0x000B)) := by
  rw [State.psw] at ho
  simp only [State.call, Nat.not_lt.mpr h, ↓reduceIte, ho]

/-! ## Instructions that call and return -/

/-- An instruction that enters and calls: its three outcomes, by the room left on the stack and RSO. -/
theorem State.insn_calls {s s2 : State} {i : Insn} {to_ : Dword} (henter : s.enter i = .ok s2)
    (hbody : i.body (s2.past i.u) = (s2.past i.u).call i.u to_) :
    ((s2.unit i.u).rs.entries.length < rsDepth i.u → s.insn i = s2.finish i.u ((s2.past i.u).modUnit i.u fun x =>
      (x.setRs ⟨((s2.psw i.u).ia + 4) :: (s2.unit i.u).rs.entries, (s2.unit i.u).rs.disc⟩).setIa to_)) ∧
    (rsDepth i.u ≤ (s2.unit i.u).rs.entries.length → (s2.psw i.u).rso = false →
      s.insn i = s2.finish i.u ((s2.past i.u).modUnit i.u fun x =>
        (x.setRs ⟨((s2.psw i.u).ia + 4) :: (s2.unit i.u).rs.entries.dropLast, true⟩).setIa to_)) ∧
    (rsDepth i.u ≤ (s2.unit i.u).rs.entries.length → (s2.psw i.u).rso = true →
      s.insn i = s2.orWaits i.u (s2.excInt i.u { code := 0x000B } i.word (s2.psw i.u).ia)) := by
  have hrso : ((s2.past i.u).psw i.u).rso = (s2.psw i.u).rso := by rw [State.psw_past]
  have hia : ((s2.past i.u).psw i.u).ia = (s2.psw i.u).ia + 4 := by rw [State.psw_past]
  rw [← s2.rs_past i.u, ← hrso, ← hia]
  exact ⟨fun hl => State.insn_completes henter (hbody.trans (State.call_of_room to_ hl)),
    fun hl ho => State.insn_completes henter (hbody.trans (State.call_of_full_discards to_ hl ho)),
    fun hl ho => State.insn_stopped_by henter (hbody.trans (State.call_of_full_stops to_ hl ho)) rfl (by decide)⟩

theorem exec_callr (o : OpB) (s : State) : exec (.callr o) s = .next (s.insn (insnCallr o)) := rfl
theorem exec_callg (o : OpA) (s : State) : exec (.callg o) s = .next (s.insn (insnCallg o s)) := rfl
theorem exec_ret (o : OpA) (s : State) : exec (.ret o) s = .next (s.insn (insnRet o s)) := rfl

/-- CALLR whose mask bit is 1 is a call to its target. -/
theorem insnCallr_body_of_met (o : OpB) (s : State) (h : condMet o.cond (s.psw o.u).cc = true) :
    (insnCallr o).body (s.past o.u) = (s.past o.u).call o.u ((s.psw o.u).ia + 4 * o.disp.signExtend 64) := by
  simp only [insnCallr, State.psw_past, h, ↓reduceIte, State.target_past]

/-- CALLR whose mask bit is 0 does nothing. -/
theorem insnCallr_body_of_not_met (o : OpB) (s : State) (h : condMet o.cond (s.psw o.u).cc = false) :
    (insnCallr o).body (s.past o.u) = .ok (s.past o.u) := by
  simp only [insnCallr, State.psw_past, h, Bool.false_eq_true, ↓reduceIte]

theorem insnCallg_body (o : OpA) (s0 s : State) : (insnCallg o s0).body (s.past o.u) = (s.past o.u).call o.u (s.g o.u o.ra) := by
  simp only [insnCallg, State.g_past]

/-- RET takes entry 0 off the stack and goes there. -/
theorem insnRet_body_of_cons (o : OpA) (s0 : State) {s : State} {e : Dword} {r : List Dword} (h : (s.unit o.u).rs.entries = e :: r) :
    (insnRet o s0).body (s.past o.u) =
      .ok ((s.past o.u).modUnit o.u fun c => (c.setRs ⟨r, (s.unit o.u).rs.disc⟩).setIa e) := by
  simp only [insnRet, State.rs_past, h, State.modUnit]

/-- RET from an empty stack is stopped. -/
theorem insnRet_body_of_nil (o : OpA) (s0 : State) {s : State} (h : (s.unit o.u).rs.entries = []) :
    (insnRet o s0).body (s.past o.u) = .error (.stop (excOf 0x000C)) := by
  simp only [insnRet, State.rs_past, h]

/-- Settles O19: each instruction's effect is a call or a pop, by the state of the stack and RSO. -/
theorem callsAndReturns : Obligations.CallsAndReturns := by
  unfold Obligations.CallsAndReturns
  refine ⟨fun o s s2 h => ⟨fun hc => ?_, fun hc => ?_⟩, fun o s s2 h => ?_, fun o s s2 h => ⟨fun e r hr => ?_, fun hr => ?_⟩⟩
  · exact (exec_callr o s).trans (congrArg _ (State.insn_completes_at h (insnCallr_body_of_not_met o s2 hc) rfl))
  · simpa only [exec_callr, Host.Outcome.next.injEq] using State.insn_calls h (insnCallr_body_of_met o s2 hc)
  · simpa only [exec_callg, Host.Outcome.next.injEq] using State.insn_calls h (insnCallg_body o s s2)
  · exact (exec_ret o s).trans (congrArg _ (State.insn_completes_at h (insnRet_body_of_cons o s hr) rfl))
  · exact (exec_ret o s).trans (congrArg _ (State.insn_stopped_by h (insnRet_body_of_nil o s hr) rfl (by decide)))

/-! ## Spill and fill (R71) -/

theorem exec_rsspill (o : OpA) (s : State) : exec (.rsspill o) s = .next (s.insn (insnRsspill o s)) := rfl
theorem exec_rsfill (o : OpA) (s : State) : exec (.rsfill o) s = .next (s.insn (insnRsfill o s)) := rfl

section Moving
variable (o : OpA) (s0 : State) {s : State} {k : Nat}

/-- A condition that an access of RSSPILL would meet ends it before it has stored anything. -/
theorem insnRsspill_body_of_stop {x : Stop} (hk : k = min (s.g o.u o.rb).toNat (s.unit o.u).rs.entries.length)
    (h : (s.past o.u).spillStop o.u .store (spillAddrs (s.g o.u o.ra) k) = some x) :
    (insnRsspill o s0).body (s.past o.u) = .error (.stop x) := by
  simp only [insnRsspill, State.rs_past, State.g_past, ← hk, h]

/-- RSSPILL stores the oldest entries, then drops them from the stack. -/
theorem insnRsspill_body_of_stored {t : State} (hk : k = min (s.g o.u o.rb).toNat (s.unit o.u).rs.entries.length)
    (h : (s.past o.u).spillStop o.u .store (spillAddrs (s.g o.u o.ra) k) = none)
    (ht : (s.past o.u).spillTo o.u ((spillAddrs (s.g o.u o.ra) k).zip ((s.unit o.u).rs.entries.reverse.take k)) = .ok t) :
    (insnRsspill o s0).body (s.past o.u) = .ok ((t.modUnit o.u fun c => c.setRs { c.rs with
      entries := (s.unit o.u).rs.entries.take ((s.unit o.u).rs.entries.length - k) }).setG o.u o.rb (BitVec.ofNat 64 k)) := by
  simp only [insnRsspill, State.rs_past, State.g_past, ← hk, h, ht]

/-- A condition that an access of RSFILL would meet ends it before it has loaded anything. -/
theorem insnRsfill_body_of_stop {x : Stop} (hk : k = min (s.g o.u o.rb).toNat (rsDepth o.u - (s.unit o.u).rs.entries.length))
    (h : (s.past o.u).spillStop o.u .load (spillAddrs (s.g o.u o.ra) k) = some x) :
    (insnRsfill o s0).body (s.past o.u) = .error (.stop x) := by
  simp only [insnRsfill, State.rs_past, State.g_past, ← hk, h]

/-- RSFILL loads entries, then puts them below those held. -/
theorem insnRsfill_body_of_loaded {t : State} {vs : List Dword}
    (hk : k = min (s.g o.u o.rb).toNat (rsDepth o.u - (s.unit o.u).rs.entries.length))
    (h : (s.past o.u).spillStop o.u .load (spillAddrs (s.g o.u o.ra) k) = none)
    (ht : (s.past o.u).fillFrom o.u (spillAddrs (s.g o.u o.ra) k) = .ok (t, vs)) :
    (insnRsfill o s0).body (s.past o.u) = .ok ((t.modUnit o.u fun c => c.setRs { c.rs with
      entries := (s.unit o.u).rs.entries ++ vs.reverse }).setG o.u o.rb (BitVec.ofNat 64 k)) := by
  simp only [insnRsfill, State.rs_past, State.g_past, ← hk, h, ht]

end Moving

/-- Settles O20: the k accesses are looked at first, and only where none of them is stopped do they take place. -/
theorem spillAndFill : Obligations.SpillAndFill := by
  unfold Obligations.SpillAndFill
  refine ⟨fun o s s2 h => ⟨fun x hx => ?_, fun t hn ht => ?_⟩, fun o s s2 h => ⟨fun x hx => ?_, fun t vs hn ht => ?_⟩⟩
  · exact (exec_rsspill o s).trans (congrArg _ (State.insn_ends_at h (insnRsspill_body_of_stop o s rfl hx) rfl))
  · exact (exec_rsspill o s).trans (congrArg _ (State.insn_completes_at h (insnRsspill_body_of_stored o s rfl hn ht) rfl))
  · exact (exec_rsfill o s).trans (congrArg _ (State.insn_ends_at h (insnRsfill_body_of_stop o s rfl hx) rfl))
  · exact (exec_rsfill o s).trans (congrArg _ (State.insn_completes_at h (insnRsfill_body_of_loaded o s rfl hn ht) rfl))

end Sys2Proof.Machine
end

section
/-! SUPPORT. How an exception without table fetches ends an instruction; then the integer instructions with one result or a pair of
results, BNDCHK and the branches, and the statements about them (R96, R128, R129, R132, R138, R150). -/
namespace Sys2Proof.Machine
open Sys2Proof

/-! ## An exception that met no table fetch -/

/-- Such an exception interrupts, a suppressing one with IA moved on (R83), or waits for the prefix area (R442). -/
theorem State.endWith_exc (s : State) (u : Nat) (word : Word) (ia : Dword) {e : Exc} (hifx : e.ifx = false) (hf : e.fetched = []) :
    s.endWith u word ia false (.stop (.exc e)) =
      s.orWaits u ((if suppressing e then s.setIa u (ia + 4) else s).excInt u e word ia) := by
  have he : { e with ifx := false, fetched := [] } = e := by rw [← hifx, ← hf]
  simp only [State.endWith, State.orWaits, Ends.interrupts, State.fetchedBy, hf, he, List.foldl_nil, List.find?_nil, Bool.and_true]

/-- An instruction that enters and meets such an exception. -/
theorem State.insn_ends_exc {s s2 : State} {i : Insn} {u : Nat} {e : Exc} (h : s.enter i = .ok s2)
    (hb : i.body (s2.past u) = .error (.stop (.exc e))) (hu : i.u = u) (hifx : e.ifx = false) (hf : e.fetched = []) :
    s.insn i = s2.orWaits u ((if suppressing e then s2.past u else s2).excInt u e i.word (s2.psw u).ia) :=
  (State.insn_ends_at h hb hu).trans (s2.endWith_exc _ _ _ hifx hf)

/-- A CPU never waits for its prefix area: working store holds those of small units alone (R442). -/
theorem State.orWaits_of_isCpu (s t : State) {u : Nat} (h : isCpu u = true) : s.orWaits u t = t := by
  simp only [State.orWaits, State.areaStalled, h, Bool.not_true, Bool.false_and, Bool.false_eq_true, ↓reduceIte]

/-! ## Division by zero (R132) -/

/-- Every pair instruction is formPair of its function, and the row's result is that function of gb and gc. -/
theorem pairRow_formPair {c : Instr} {x : Insn × Nat × BitVec 5 × (State → Option PairOut)} (h : pairRow c = some x) :
    ∃ o fn row f, x = (formPair o fn row f, o.u.val, o.ra, fun s => f (s.g o.u o.rb) (s.g o.u o.rc)) ∧
      ∀ s, exec c s = .next (s.insn x.1) := by
  unfold pairRow at h
  split at h <;> cases h
  all_goals exact ⟨_, _, _, _, rfl, fun _ => rfl⟩

/-- A pair instruction without a result ends in the fixed-point divide exception. -/
theorem formPair_body_of_none (o : OpA) (fn row : Nat) {f : Dword → Dword → Option PairOut} {s : State}
    (h : f (s.g o.u o.rb) (s.g o.u o.rc) = none) :
    (formPair o fn row f).body (s.past o.u) = .error (.stop (.exc { code := 9 })) := by
  simp only [formPair, State.g_past, h, excOf]

/-- Settles O11: an instruction without a result is a division by zero, whose exception is suppressing. -/
theorem divideByZeroSuppresses : Obligations.DivideByZeroSuppresses := by
  unfold Obligations.DivideByZeroSuppresses
  intro c x s s2 hrow henter hnone
  obtain ⟨o, fn, row, f, rfl, hexec⟩ := pairRow_formPair hrow
  have hbody := formPair_body_of_none o fn row hnone
  rw [hexec, State.insn_ends_exc henter hbody rfl rfl rfl, if_pos (by decide)]

/-! ## Bounds (R150) -/

theorem exec_bndchk (o : OpBnd) (s : State) : exec (.bndchk o) s = .next (s.insn (insnBndchk o)) := rfl

/-- BNDCHK is no instruction of a CPU (R115, R150). -/
theorem insnBndchk_check_of_isCpu (o : OpBnd) (p : Psw) (open_ : Bool) (h : isCpu o.u = true) :
    (insnBndchk o).check p open_ = some (.stop (.exc { code := 0x0001 })) := by
  simp only [Insn.check, insnBndchk, h, ↓reduceIte, excOf]

/-- The value lies within its bounds, both included. -/
theorem outOfBounds_eq_false_iff (uns : Bool) (v lo hi : Dword) :
    outOfBounds uns v lo hi = false ↔
      if uns then lo.toNat ≤ v.toNat ∧ v.toNat ≤ hi.toNat else lo.toInt ≤ v.toInt ∧ v.toInt ≤ hi.toInt := by
  cases uns <;> simp [outOfBounds]

theorem insnBndchk_body_of_inside (o : OpBnd) {s : State}
    (h : outOfBounds o.uns (s.g o.u o.ra) (s.g o.u o.rb) (s.g o.u o.rc) = false) :
    (insnBndchk o).body (s.past o.u) = .ok (s.past o.u) := by
  simp only [insnBndchk, State.g_past, h, Bool.false_eq_true, ↓reduceIte]

theorem insnBndchk_body_of_outside (o : OpBnd) {s : State}
    (h : outOfBounds o.uns (s.g o.u o.ra) (s.g o.u o.rb) (s.g o.u o.rc) = true) :
    (insnBndchk o).body (s.past o.u) = .error (.stop (.exc { code := 0x000A, data := s.g o.u o.ra })) := by
  simp only [insnBndchk, State.g_past, h, ↓reduceIte]

/-- Settles O13: a CPU refuses BNDCHK as it decodes it; a small unit compares the value with both bounds. -/
theorem bndchkBounds : Obligations.BndchkBounds := by
  unfold Obligations.BndchkBounds
  refine ⟨fun o s s2 hcpu h => ?_, fun o s s2 h => ⟨fun hin => ?_, fun hout => ?_⟩⟩
  · have hrefused := State.insn_refused h (insnBndchk_check_of_isCpu o _ _ hcpu)
    rw [exec_bndchk, hrefused, State.endWith_exc _ _ _ _ rfl rfl, if_neg (by decide)]
    exact congrArg _ (State.orWaits_of_isCpu _ _ hcpu)
  · have hbody := insnBndchk_body_of_inside o ((outOfBounds_eq_false_iff ..).mpr hin)
    rw [exec_bndchk, State.insn_completes_at h hbody rfl]
  · have hbody := insnBndchk_body_of_outside o (Bool.of_not_eq_false (mt (outOfBounds_eq_false_iff ..).mp hout))
    rw [exec_bndchk, State.insn_ends_exc h hbody rfl rfl rfl, if_neg (by simp [suppressing])]

/-! ## Branches (R96, R138) -/

/-- A compare-and-branch whose comparison is p goes to its target where p is met. -/
theorem formCb_body (o : OpI) {op : Nat} {met : Dword → Dword → Bool} (p : Dword → Dword → Bool)
    (h : ∀ a b, met a b = p a b) (s : State) :
    (formCb o op met).body (s.past o.u) = .ok (if p (s.g o.u o.ra) (s.g o.u o.rb) then
      (s.past o.u).setIa o.u ((s.psw o.u).ia + 4 * o.imm.signExtend 64) else s.past o.u) := by
  simp only [formCb, State.g_past, h, State.target_past, simm]

theorem insnBrc_body (o : OpB) (s : State) :
    (insnBrc o).body (s.past o.u) = .ok (if condMet o.cond (s.psw o.u).cc then
      (s.past o.u).setIa o.u ((s.psw o.u).ia + 4 * o.disp.signExtend 64) else s.past o.u) := by
  simp only [insnBrc, State.psw_past, State.target_past]

theorem insnBr_body (o : OpA) (s0 s : State) :
    (insnBr o s0).body (s.past o.u) = .ok ((s.past o.u).setIa o.u (s.g o.u o.ra)) := by
  simp only [insnBr, State.g_past]

/-- What a branch row says of its instruction: it runs on the row's unit, and moves IA alone. -/
theorem branchRow_moves_ia {c : Instr} {x : BranchRow} {s : State} (h : branchRow s c = some x) :
    exec c s = .next (s.insn x.insn) ∧ x.insn.u = x.u ∧ ∀ t : State, x.insn.body (t.past x.u) =
      .ok (if x.taken t then (t.past x.u).setIa x.u (x.target t) else t.past x.u) := by
  unfold branchRow at h
  split at h <;> cases h <;> refine ⟨rfl, rfl, fun t => ?_⟩
  case _ o => exact insnBrc_body o t
  case _ o => exact insnBr_body o s t
  case _ o => exact formCb_body o (fun a b => decide (a = b)) (fun _ _ => rfl) t
  case _ o => exact formCb_body o (fun a b => decide (a ≠ b)) (fun _ _ => decide_not.symm) t
  case _ o => exact formCb_body o (fun a b => decide (a.toInt < b.toInt)) (fun _ _ => rfl) t
  case _ o => exact formCb_body o (fun a b => decide (¬ a.toInt < b.toInt)) (fun _ _ => decide_eq_decide.mpr Int.not_lt.symm) t
  case _ o => exact formCb_body o (fun a b => decide (a.toNat < b.toNat)) (fun _ _ => rfl) t
  case _ o => exact formCb_body o (fun a b => decide (¬ a.toNat < b.toNat)) (fun _ _ => decide_eq_decide.mpr Nat.not_lt.symm) t

/-- Settles O18: the effect of each branch is its row's target or nothing. -/
theorem branchResults : Obligations.BranchResults := by
  unfold Obligations.BranchResults
  intro c x s s2 hrow henter
  obtain ⟨hexec, hu, hbody⟩ := branchRow_moves_ia hrow
  rw [hexec, State.insn_completes_at henter (hbody s2) hu]

/-! ## Shifts and rotates (R128, R129) -/

/-- A shift by a register gives its function of gb and the low seven bits of gc. -/
theorem gives_formSh {c : Instr} {o : OpA} {fn : Nat} {f : Dword → Nat → Dword} {s s2 : State} {v : Dword}
    (hexec : exec c s = .next (s.insn (formSh o fn f))) (hv : f (s2.g o.u o.rb) (shAmt (s2.g o.u o.rc)) = v) :
    gives c (formSh o fn f) o.ra s s2 v := by
  intro henter
  have hbody : (formSh o fn f).body (s2.past o.u) = .ok ((s2.past o.u).setG o.u o.ra v) := by
    simp only [formSh, form3, State.g_past, hv, State.putAlu, plainOut, Bool.false_and, Bool.false_eq_true, ↓reduceIte]
  exact hexec.trans (congrArg _ (State.insn_completes_at henter hbody rfl))

/-- A shift by an immediate gives its function of gb and the amount. -/
theorem gives_formShImm {c : Instr} {o : OpSh} {fn : Nat} {f : Dword → Nat → Dword} {s s2 : State} {v : Dword}
    (hexec : exec c s = .next (s.insn (formShImm o fn f))) (hv : f (s2.g o.u o.rb) o.amt.toNat = v) :
    gives c (formShImm o fn f) o.ra s s2 v := by
  intro henter
  have hbody : (formShImm o fn f).body (s2.past o.u) = .ok ((s2.past o.u).setG o.u o.ra v) := by
    simp only [formShImm, State.g_past, hv, State.putAlu, plainOut, Bool.false_and, Bool.false_eq_true, ↓reduceIte]
  exact hexec.trans (congrArg _ (State.insn_completes_at henter hbody rfl))

/-- The amount of a register shift, from gc as a number. -/
theorem shAmt_ofNat (n : Nat) : shAmt (BitVec.ofNat 64 n) = n % 128 := by
  simp only [shAmt, BitVec.toNat_ofNat]
  omega

/-- The operand of R129's table of 64-bit forms. -/
def tableOperand : Dword := 0x8000000000000001

/-- R129's table: an amount, then what SLL, SRL, SRA and ROL give. -/
def shiftTableRows : List (Nat × Dword × Dword × Dword × Dword) :=
  [(0, tableOperand, tableOperand, tableOperand, tableOperand), (128, tableOperand, tableOperand, tableOperand, tableOperand),
   (1, 2, 0x4000000000000000, 0xC000000000000000, 3), (63, 0x8000000000000000, 1, 0xFFFFFFFFFFFFFFFF, 0xC000000000000000),
   (64, 0, 0, 0xFFFFFFFFFFFFFFFF, tableOperand), (65, 0, 0, 0xFFFFFFFFFFFFFFFF, 3), (127, 0, 0, 0xFFFFFFFFFFFFFFFF, 0xC000000000000000)]

/-- The functions of the 64-bit forms agree with the table, the amount taken modulo 128. -/
theorem shifts_of_shiftTableRows : ∀ x ∈ shiftTableRows,
    shLeft 64 tableOperand (x.1 % 128) = x.2.1 ∧ shRight 64 tableOperand (x.1 % 128) = x.2.2.1 ∧
    shArith 64 tableOperand (x.1 % 128) = x.2.2.2.1 ∧ rotLeft 64 tableOperand (x.1 % 128) = x.2.2.2.2 := by
  decide

/-- What the functions of the 32-bit forms make of 0x8000_0001 by 32 and 33: they read the low word alone. -/
theorem word_shifts_by_32_33 {v : Dword} {n : Nat} (hn : n = 32 ∨ n = 33) (hv : BitVec.truncate 32 v = 0x80000001#32) :
    (shLeft 32 v n = 0 ∧ shRight 32 v n = 0 ∧ shRightS v n = 0) ∧ shArith 32 v n = 0xFFFFFFFFFFFFFFFF ∧
    rotLeft 32 v n = if n = 32 then 0xFFFFFFFF80000001 else 3 := by
  simp only [shLeft, shRight, shRightS, shArith, rotLeft, hv]
  obtain rfl | rfl := hn
  · decide
  · decide

/-- Settles O14: each form gives its function of the operand and the amount, and the functions agree with the table. -/
theorem shiftTable : Obligations.ShiftTable := by
  unfold Obligations.ShiftTable
  refine ⟨fun x hx o s s2 hb hc => ?_, fun x hx o s s2 hb ha => ?_, fun n o s s2 hn hv hc => ?_, fun n o s s2 hn hv ha => ?_⟩
  · obtain ⟨hsll, hsrl, hsra, hrol⟩ := shifts_of_shiftTableRows x hx
    rw [← shAmt_ofNat, ← hc] at hsll hsrl hsra hrol
    rw [tableOperand, ← hb] at hsll hsrl hsra hrol
    exact ⟨gives_formSh rfl hsll, gives_formSh rfl hsrl, gives_formSh rfl hsra, gives_formSh rfl hrol⟩
  · obtain ⟨hsll, hsrl, hsra, hrol⟩ := shifts_of_shiftTableRows x hx
    rw [← ha, Nat.mod_eq_of_lt o.amt.isLt, tableOperand, ← hb] at hsll hsrl hsra hrol
    exact ⟨gives_formShImm rfl hsll, gives_formShImm rfl hsrl, gives_formShImm rfl hsra, gives_formShImm rfl hrol⟩
  · have hamt : shAmt (s2.g o.u o.rc) = n := by rw [hc, shAmt_ofNat]; omega
    obtain ⟨⟨hsll, hsrl, -⟩, hsra, hrol⟩ := word_shifts_by_32_33 hn hv
    rw [← hamt] at hsll hsrl hsra
    exact ⟨gives_formSh rfl hsll, gives_formSh rfl hsrl, gives_formSh rfl hsra, gives_formSh rfl (hamt ▸ hrol)⟩
  · obtain ⟨⟨hsll, -, hsrl⟩, hsra, hrol⟩ := word_shifts_by_32_33 hn hv
    rw [← ha] at hsll hsrl hsra
    exact ⟨gives_formShImm rfl hsll, gives_formShImm rfl hsrl, gives_formShImm rfl hsra, gives_formShImm rfl (ha ▸ hrol)⟩

end Sys2Proof.Machine
end

section
/-! SUPPORT. How the body of a slot instruction reaches its engine; then the bitmap and the block of QUERY, and the statement about
them (R400, R409). -/
namespace Sys2Proof.Machine
open Sys2Proof

/-! ## A slot instruction with an engine to serve it -/

@[simp] theorem State.g_setRf (s : State) (a lo w n u : Nat) (r : BitVec 5) : (s.setRf a lo w n).g u r = s.g u r := rfl

/-- Seeing the engines' queues leaves the registers of the units alone. -/
@[simp] theorem State.g_queueSeen (s : State) (q : List (Fin 10 × Fin 8 × Fin 33)) (u : Nat) (r : BitVec 5) :
    (s.queueSeen q).g u r = s.g u r := by
  induction q generalizing s with
  | nil => rfl
  | cons x q ih =>
    refine (ih _).trans ?_
    dsimp only
    rw [apply_ite (State.g · u r), State.g_setRf, ite_self]

theorem State.slotEngine_of_chooseAcc {s : State} {u slot : Nat} {e : Nat × Nat}
    (h : s.chooseAcc (s.coreOf u / 26) (slotCrypto slot) = some e) : s.slotEngine u slot = .ok e := by
  simp only [State.slotEngine, h]

/-- QUERY touches no staging bank, whichever engine takes it. -/
theorem State.onEngine_query (s : State) (u : Nat) (e : Nat × Nat) (run : State → Nat × Nat → Except Ends State) :
    s.onEngine u 0 e run = run s e := by
  simp only [State.onEngine, BEq.rfl, Bool.or_true, ↓reduceIte]

section Form
variable (o : OpC) (slot cfn least al : Nat) (run : State → Nat × Nat → Except Ends State) (s0 : State)

theorem formSlot_u : (formSlot o slot cfn least al run s0).u = o.u := by
  unfold formSlot
  split
  · rfl
  · rfl

/-- A slot that is not gone hands the request to the engine chosen for it. -/
theorem formSlot_body_of_chooseAcc {s0 s : State} {e : Nat × Nat} (hgone : s0.slotGone slot = false)
    (he : (s.queueSeen o.queued).chooseAcc ((s.queueSeen o.queued).coreOf o.u / 26) (slotCrypto slot) = some e) :
    (formSlot o slot cfn least al run s0).body s = (s.queueSeen o.queued).onEngine o.u cfn e run := by
  simp only [formSlot, hgone, Bool.false_eq_true, ↓reduceIte, State.slotEngine_of_chooseAcc he]

end Form

/-! ## The instruction QUERY -/

theorem exec_query (o : OpC) (k : Fin 4) (s : State) : exec (.query o k) s = .next (s.insn (insnQuery o k s)) := rfl

/-- QUERY stores its block at gb and sets CC 0. -/
theorem insnQuery_body_of_stored (o : OpC) (k : Fin 4) {s0 s t : State} {e : Nat × Nat} (hgone : s0.slotGone k = false)
    (he : (s.queueSeen o.queued).chooseAcc ((s.queueSeen o.queued).coreOf o.u / 26) (slotCrypto k) = some e)
    (ht : (s.queueSeen o.queued).storeAt o.u (s.g o.u o.rb) ((s.queueSeen o.queued).queryBlock k) .slotStore = .ok t) :
    (insnQuery o k s0).body s = .ok (t.setCc o.u 0) := by
  rw [insnQuery, formSlot_body_of_chooseAcc _ _ _ _ _ _ hgone he, State.onEngine_query]
  simp only [State.g_queueSeen, ht]

/-! ## The bitmap of cfn values -/

/-- Adding a power of two whose bit is clear sets that bit. -/
theorem getLsbD_ofNat_add_two_pow {w a i : Nat} (h : (BitVec.ofNat w a).getLsbD i = false) (j : Nat) :
    (BitVec.ofNat w (a + 2 ^ i)).getLsbD j = ((BitVec.ofNat w a).getLsbD j || (decide (i < w) && decide (i = j))) := by
  have hpow : BitVec.ofNat w (2 ^ i) = BitVec.twoPow w i :=
    BitVec.eq_of_toNat_eq (by rw [BitVec.toNat_ofNat, BitVec.toNat_twoPow])
  have hclear : BitVec.ofNat w a &&& BitVec.twoPow w i = 0#w := by
    rw [BitVec.and_twoPow, h, if_neg Bool.false_ne_true]
  rw [BitVec.ofNat_add, hpow, BitVec.add_eq_or_of_and_eq_zero _ _ hclear, BitVec.getLsbD_or, BitVec.getLsbD_twoPow]

/-- Byte n of the bitmap of the values vs, begun at a. -/
def bitmapByte (n a : Nat) (vs : List Nat) : Nat := vs.foldl (fun a v => if v / 8 = n then a + 2 ^ (7 - v % 8) else a) a

/-- Values that differ have bits of their own: what byte m / 8 holds for m is what it began with, or that m is among the values. -/
theorem getLsbD_bitmapByte {vs : List Nat} (hd : vs.Nodup) (m : Nat) {a : Nat}
    (ha : ∀ v ∈ vs, v / 8 = m / 8 → (BitVec.ofNat 8 a).getLsbD (7 - v % 8) = false) :
    (BitVec.ofNat 8 (bitmapByte (m / 8) a vs)).getLsbD (7 - m % 8) = ((BitVec.ofNat 8 a).getLsbD (7 - m % 8) || vs.contains m) := by
  induction vs generalizing a with
  | nil => simp [bitmapByte]
  | cons v vs ih =>
    obtain ⟨hv, hd⟩ := List.nodup_cons.mp hd
    obtain ⟨hav, ha⟩ := List.forall_mem_cons.mp ha
    rw [bitmapByte, List.foldl_cons, ← bitmapByte, List.contains_cons]
    split
    · next hbyte =>
      have hset := getLsbD_ofNat_add_two_pow (hav hbyte)
      have hself : (decide (7 - v % 8 < 8) && decide (7 - v % 8 = 7 - m % 8)) = (m == v) := by
        rw [Bool.eq_iff_iff]
        simp only [Bool.and_eq_true, decide_eq_true_eq, beq_iff_eq]
        omega
      rw [ih hd, hset, hself, Bool.or_assoc]
      intro x hx hxbyte
      have hne : x ≠ v := ne_of_mem_of_not_mem hx hv
      have hbit : ¬ 7 - v % 8 = 7 - x % 8 := by omega
      rw [hset, ha x hx hxbyte, decide_eq_false hbit, Bool.and_false, Bool.or_false]
    · next hbyte =>
      have hne : m ≠ v := fun h => hbyte (h ▸ rfl)
      rw [ih hd ha, beq_false_of_ne hne, Bool.false_or]

theorem slotFns_nodup (slot : Nat) : (slotFns slot).Nodup := by
  unfold slotFns
  repeat' split
  all_goals decide

theorem length_slotBitmap (slot : Nat) : (slotBitmap slot).length = 32 := by
  rw [slotBitmap, List.length_map, List.length_range]

theorem slotBitmap_getD (slot : Nat) {i : Nat} (h : i < 32) :
    (slotBitmap slot).getD i 0 = BitVec.ofNat 8 (bitmapByte i 0 (slotFns slot)) := by
  rw [List.getD_eq_getElem?_getD, slotBitmap, List.getElem?_map, List.getElem?_range h, Option.map_some, Option.getD_some,
    bitmapByte]

/-- Value n is bit 7 - (n mod 8) of byte n / 8 (R409). -/
theorem slotBitmap_bit (slot : Nat) {n : Nat} (h : n < 256) :
    ((slotBitmap slot).getD (n / 8) 0).getLsbD (7 - n % 8) = (slotFns slot).contains n := by
  rw [slotBitmap_getD slot (by omega), getLsbD_bitmapByte (slotFns_nodup slot) n fun _ _ _ => BitVec.getLsbD_zero,
    BitVec.getLsbD_zero, Bool.false_or]

/-! ## The block of QUERY -/

theorem State.length_queryBlock (s : State) (slot : Nat) : (s.queryBlock slot).length = 48 := by
  simp [State.queryBlock, length_slotBitmap]

/-- The first 32 bytes of the block are the bitmap. -/
theorem State.queryBlock_getD_of_lt (s : State) (slot : Nat) {i : Nat} (d : Byte) (h : i < 32) :
    (s.queryBlock slot).getD i d = (slotBitmap slot).getD i d := by
  rw [List.getD_eq_getElem?_getD, State.queryBlock, List.append_assoc, List.getElem?_append_left ((length_slotBitmap slot).symm ▸ h),
    ← List.getD_eq_getElem?_getD]

/-- After the bitmap the block holds the two counts and zeros. -/
theorem State.queryBlock_getD_add (s : State) (slot i : Nat) (d : Byte) :
    (s.queryBlock slot).getD (32 + i) d =
      (BitVec.ofNat 8 (s.accLeft (slotCrypto slot)).length :: 16 :: List.replicate 14 0).getD i d := by
  rw [List.getD_eq_getElem?_getD, State.queryBlock, List.append_assoc,
    List.getElem?_append_right (by rw [length_slotBitmap]; exact Nat.le_add_right 32 i), length_slotBitmap, Nat.add_sub_cancel_left,
    ← List.getD_eq_getElem?_getD]
  rfl

theorem State.queryBlock_getD_zero (s : State) (slot : Nat) {i : Nat} (d : Byte) (h : 0x22 ≤ i) (h' : i < 48) :
    (s.queryBlock slot).getD i d = 0 := by
  obtain ⟨j, rfl⟩ := Nat.exists_eq_add_of_le h
  rw [show 0x22 + j = 32 + (j + 2) by omega, State.queryBlock_getD_add, List.getD_cons_succ, List.getD_cons_succ]
  rw [List.getD_eq_getElem?_getD, List.getElem?_replicate_of_lt (by omega), Option.getD_some]

/-- Settles O41: the engine chosen runs QUERY, which stores the block; the block is the bitmap, the two counts and zeros. -/
theorem queryResult : Obligations.QueryResult := by
  unfold Obligations.QueryResult
  refine ⟨fun o k s s2 t e hgone henter he ht => ?_, fun s k => ⟨s.length_queryBlock k, fun n => ?_, ?_, ?_, fun i => ?_⟩⟩
  · have hbody := insnQuery_body_of_stored o k hgone he ((s2.g_past o.u o.rb).symm ▸ ht)
    rw [exec_query, State.insn_completes_at henter hbody (formSlot_u ..)]
  · rw [s.queryBlock_getD_of_lt k 0 (by omega), slotBitmap_bit k n.isLt]
  · exact s.queryBlock_getD_add k 0 0
  · exact s.queryBlock_getD_add k 1 0
  · exact s.queryBlock_getD_zero k 1

end Sys2Proof.Machine
end

section
/-! SUPPORT. What one step keeps: every command keeps the invariant and undoes nothing, and the step that takes it adds no command;
the two statements about every step. -/
namespace Sys2Proof.Machine
open Sys2Proof

/-- Every command keeps: one arm for each meaning of the dispatch. -/
theorem exec_keeps {sb s : State} (hK : Keeps sb s) (c : Instr) : KeepsR sb (exec c s) :=
  match c with
  | .add _ => execAdd_keeps hK | .addw _ => execAddw_keeps hK | .addl _ => execAddl_keeps hK | .addlw _ => execAddlw_keeps hK
  | .sub _ => execSub_keeps hK | .subw _ => execSubw_keeps hK | .subl _ => execSubl_keeps hK | .sublw _ => execSublw_keeps hK
  | .and _ => execAnd_keeps hK | .or _ => execOr_keeps hK | .xor _ => execXor_keeps hK | .nor _ => execNor_keeps hK
  | .andc _ => execAndc_keeps hK | .neg _ => execNeg_keeps hK | .negw _ => execNegw_keeps hK | .cmp _ => execCmp_keeps hK
  | .cmpw _ => execCmpw_keeps hK | .cmpl _ => execCmpl_keeps hK | .cmplw _ => execCmplw_keeps hK | .addi _ => execAddi_keeps hK
  | .addli _ => execAddli_keeps hK | .addwi _ => execAddwi_keeps hK | .andi _ => execAndi_keeps hK | .ori _ => execOri_keeps hK
  | .xori _ => execXori_keeps hK | .cmpi _ => execCmpi_keeps hK | .cmpli _ => execCmpli_keeps hK | .li _ => execLi_keeps hK
  | .lis _ => execLis_keeps hK | .sxb _ => execSxb_keeps hK | .sxh _ => execSxh_keeps hK | .sxw _ => execSxw_keeps hK
  | .zxb _ => execZxb_keeps hK | .zxh _ => execZxh_keeps hK | .zxw _ => execZxw_keeps hK | .clz _ => execClz_keeps hK
  | .ctz _ => execCtz_keeps hK | .popc _ => execPopc_keeps hK | .sll _ => execSll_keeps hK | .srl _ => execSrl_keeps hK
  | .sra _ => execSra_keeps hK | .rol _ => execRol_keeps hK | .ror _ => execRor_keeps hK | .sllw _ => execSllw_keeps hK
  | .srlw _ => execSrlw_keeps hK | .sraw _ => execSraw_keeps hK | .rolw _ => execRolw_keeps hK | .rorw _ => execRorw_keeps hK
  | .slli _ => execSlli_keeps hK | .srli _ => execSrli_keeps hK | .srai _ => execSrai_keeps hK | .roli _ => execRoli_keeps hK
  | .rori _ => execRori_keeps hK | .sllwi _ => execSllwi_keeps hK | .srlwi _ => execSrlwi_keeps hK
  | .srawi _ => execSrawi_keeps hK | .rolwi _ => execRolwi_keeps hK | .rorwi _ => execRorwi_keeps hK
  | .mul _ => execMul_keeps hK | .mulw _ => execMulw_keeps hK | .muls _ => execMuls_keeps hK | .mulu _ => execMulu_keeps hK
  | .div _ => execDiv_keeps hK | .divl _ => execDivl_keeps hK | .divw _ => execDivw_keeps hK | .divlw _ => execDivlw_keeps hK
  | .lb _ => execLb_keeps hK | .lbu _ => execLbu_keeps hK | .lh _ => execLh_keeps hK | .lhu _ => execLhu_keeps hK
  | .lw _ => execLw_keeps hK | .lwu _ => execLwu_keeps hK | .ld _ => execLd_keeps hK | .lq _ => execLq_keeps hK
  | .stb _ => execStb_keeps hK | .sth _ => execSth_keeps hK | .stw _ => execStw_keeps hK | .std _ => execStd_keeps hK
  | .stq _ => execStq_keeps hK | .la _ => execLa_keeps hK | .brc _ => execBrc_keeps hK | .br _ => execBr_keeps hK
  | .cbeq _ => execCbeq_keeps hK | .cbne _ => execCbne_keeps hK | .cblt _ => execCblt_keeps hK | .cbge _ => execCbge_keeps hK
  | .cbltl _ => execCbltl_keeps hK | .cbgel _ => execCbgel_keeps hK | .callr _ => execCallr_keeps hK
  | .callg _ => execCallg_keeps hK | .ret _ => execRet_keeps hK | .rsspill _ => execRsspill_keeps hK
  | .rsfill _ => execRsfill_keeps hK | .csd _ => execCsd_keeps hK | .csq _ => execCsq_keeps hK | .faad _ => execFaad_keeps hK
  | .faaw _ => execFaaw_keeps hK | .swpd _ => execSwpd_keeps hK | .fence _ => execFence_keeps hK | .sync _ => execSync_keeps hK
  | .crcstep _ => execCrcstep_keeps hK | .parity _ => execParity_keeps hK | .brev _ => execBrev_keeps hK
  | .bndchk _ => execBndchk_keeps hK | .faddd _ => execFaddd_keeps hK | .fadds _ => execFadds_keeps hK
  | .fsubd _ => execFsubd_keeps hK | .fsubs _ => execFsubs_keeps hK | .fmuld _ => execFmuld_keeps hK
  | .fmuls _ => execFmuls_keeps hK | .fdivd _ => execFdivd_keeps hK | .fdivs _ => execFdivs_keeps hK
  | .fsqrtd _ => execFsqrtd_keeps hK | .fsqrts _ => execFsqrts_keeps hK | .frintd _ => execFrintd_keeps hK
  | .frints _ => execFrints_keeps hK | .fcmpd _ => execFcmpd_keeps hK | .fcmps _ => execFcmps_keeps hK
  | .fcmpsd _ => execFcmpsd_keeps hK | .fcmpss _ => execFcmpss_keeps hK | .fmaddd _ => execFmaddd_keeps hK
  | .fmadds _ => execFmadds_keeps hK | .fmsubd _ => execFmsubd_keeps hK | .fmsubs _ => execFmsubs_keeps hK
  | .fnmaddd _ => execFnmaddd_keeps hK | .fnmadds _ => execFnmadds_keeps hK | .fnmsubd _ => execFnmsubd_keeps hK
  | .fnmsubs _ => execFnmsubs_keeps hK | .cvtsd _ => execCvtsd_keeps hK | .cvtds _ => execCvtds_keeps hK
  | .cvtgd _ => execCvtgd_keeps hK | .cvtgs _ => execCvtgs_keeps hK | .cvtld _ => execCvtld_keeps hK
  | .cvtls _ => execCvtls_keeps hK | .cvtdg _ => execCvtdg_keeps hK | .cvtsg _ => execCvtsg_keeps hK
  | .cvtdl _ => execCvtdl_keeps hK | .cvtsl _ => execCvtsl_keeps hK | .fmr _ => execFmr_keeps hK
  | .fnegd _ => execFnegd_keeps hK | .fabsd _ => execFabsd_keeps hK | .fnegs _ => execFnegs_keeps hK
  | .fabss _ => execFabss_keeps hK | .mvfg _ => execMvfg_keeps hK | .mvgf _ => execMvgf_keeps hK | .lfs _ => execLfs_keeps hK
  | .lfd _ => execLfd_keeps hK | .stfs _ => execStfs_keeps hK | .stfd _ => execStfd_keeps hK | .lpsw _ => execLpsw_keeps hK
  | .epsw _ => execEpsw_keeps hK | .spm _ => execSpm_keeps hK | .ident _ => execIdent_keeps hK | .irun _ => execIrun_keeps hK
  | .irunExit _ => execIrunExit_keeps hK | .hcall _ => execHcall_keeps hK | .svc _ => execSvc_keeps hK
  | .lctl _ => execLctl_keeps hK | .stctl _ => execStctl_keeps hK | .rdtod _ => execRdtod_keeps hK
  | .chkmode _ => execChkmode_keeps hK | .cpusigExternalCall _ => execCpusigExternalCall_keeps hK
  | .cpusigEmergencySignal _ => execCpusigEmergencySignal_keeps hK | .cpusigStop _ => execCpusigStop_keeps hK
  | .cpusigRestart _ => execCpusigRestart_keeps hK | .cpusigCoreReset _ => execCpusigCoreReset_keeps hK
  | .tbegin _ => execTbegin_keeps hK | .tend _ => execTend_keeps hK | .tabort _ => execTabort_keeps hK
  | .transactionConflict _ _ _ => execTransactionConflict_keeps hK | .tlbiv _ => execTlbiv_keeps hK
  | .tlbia _ => execTlbia_keeps hK | .tlbii _ => execTlbii_keeps hK
  | .tlbInvalidationReceived _ _ => execTlbInvalidationReceived_keeps hK | .lra _ => execLra_keeps hK
  | .cinv _ => execCinv_keeps hK | .cclean _ => execCclean_keeps hK | .cclinv _ => execCclinv_keeps hK
  | .czero _ => execCzero_keeps hK | .l2dis _ => execL2dis_keeps hK | .l2en _ => execL2en_keeps hK
  | .l3dis _ => execL3dis_keeps hK | .l3en _ => execL3en_keeps hK | .iostart _ => execIostart_keeps hK
  | .iohalt _ => execIohalt_keeps hK | .ioclear _ => execIoclear_keeps hK | .iotest _ => execIotest_keeps hK
  | .iostore _ => execIostore_keeps hK | .iomodify _ => execIomodify_keeps hK | .csimageCreate _ => execCsimageCreate_keeps hK
  | .csimageModify _ => execCsimageModify_keeps hK | .csimageRemove _ => execCsimageRemove_keeps hK
  | .csmapMap _ => execCsmapMap_keeps hK | .csmapUnmap _ => execCsmapUnmap_keeps hK
  | .csmapReplace _ => execCsmapReplace_keeps hK | .csshare _ => execCsshare_keeps hK | .csquiesce _ => execCsquiesce_keeps hK
  | .csreset _ => execCsreset_keeps hK | .query _ _ => execQuery_keeps hK | .defcmp _ => execDefcmp_keeps hK
  | .defdcm _ => execDefdcm_keeps hK | .aesGcmEncrypt _ => execAesGcmEncrypt_keeps hK
  | .aesGcmDecrypt _ => execAesGcmDecrypt_keeps hK | .aesXtsEncrypt _ => execAesXtsEncrypt_keeps hK
  | .aesXtsDecrypt _ => execAesXtsDecrypt_keeps hK | .aesCbcEncrypt _ => execAesCbcEncrypt_keeps hK
  | .aesCbcDecrypt _ => execAesCbcDecrypt_keeps hK | .aesCtr _ => execAesCtr_keeps hK | .hash _ => execHash_keeps hK
  | .pkwrapSymmetric _ => execPkwrapSymmetric_keeps hK | .sign _ => execSign_keeps hK | .verify _ => execVerify_keeps hK
  | .keygen _ => execKeygen_keeps hK | .encaps _ => execEncaps_keeps hK | .decaps _ => execDecaps_keeps hK
  | .pkwrapPrivate _ => execPkwrapPrivate_keeps hK | .rndg _ => execRndg_keeps hK | .rndb _ => execRndb_keeps hK
  | .reseed _ => execReseed_keeps hK | .coprocessorUnavailable _ _ => execCoprocessorUnavailable_keeps hK
  | .customerSlotInstruction _ _ => execCustomerSlotInstruction_keeps hK
  | .operationException _ _ => execOperationException_keeps hK | .randomBufferRefill _ => execRandomBufferRefill_keeps hK
  | .drbgReseedCount _ _ => execDrbgReseedCount_keeps hK | .healthTestFailed _ => execHealthTestFailed_keeps hK
  | .externalInterruption _ => execExternalInterruption_keeps hK | .ioInterruption _ => execIoInterruption_keeps hK
  | .machineCheckInterruption _ => execMachineCheckInterruption_keeps hK
  | .restartInterruption _ => execRestartInterruption_keeps hK | .cpuTimerCondition _ => execCpuTimerCondition_keeps hK
  | .clockComparatorCondition _ => execClockComparatorCondition_keeps hK | .mismatchRetry _ => execMismatchRetry_keeps hK
  | .squashedMismatch _ _ => execSquashedMismatch_keeps hK | .logicSelftestEnd _ _ => execLogicSelftestEnd_keeps hK
  | .comparatorFault _ _ => execComparatorFault_keeps hK | .spareSelftestEnd _ _ _ => execSpareSelftestEnd_keeps hK
  | .moveComplete _ _ => execMoveComplete_keeps hK | .failingCoreSweepEnd _ => execFailingCoreSweepEnd_keeps hK
  | .svCmapWrite _ _ => execSvCmapWrite_keeps hK | .lineFillArrival _ _ => execLineFillArrival_keeps hK
  | .victimAccepted _ _ => execVictimAccepted_keeps hK | .homeReadRequest _ _ => execHomeReadRequest_keeps hK
  | .homeOwnershipRequest _ _ => execHomeOwnershipRequest_keeps hK | .homeWriteback _ _ => execHomeWriteback_keeps hK
  | .coherenceRemoval _ _ => execCoherenceRemoval_keeps hK | .engineStorageRead _ _ => execEngineStorageRead_keeps hK
  | .engineStorageWrite _ _ => execEngineStorageWrite_keeps hK | .l2SweepEnd _ => execL2SweepEnd_keeps hK
  | .l3SweepEnd _ => execL3SweepEnd_keeps hK | .l2CtlEnClear _ _ => execL2CtlEnClear_keeps hK
  | .l2CtlEnSet _ _ => execL2CtlEnSet_keeps hK | .l3CtlEnClear _ _ => execL3CtlEnClear_keeps hK
  | .l3CtlEnSet _ _ => execL3CtlEnSet_keeps hK | .dramReadRequest _ _ => execDramReadRequest_keeps hK
  | .dramWriteRequest _ _ _ _ => execDramWriteRequest_keeps hK | .dramCommandIssue _ _ => execDramCommandIssue_keeps hK
  | .refreshInterval _ => execRefreshInterval_keeps hK | .dcRefModeWrite _ _ _ => execDcRefModeWrite_keeps hK
  | .dcTrainStart _ _ _ => execDcTrainStart_keeps hK | .trainingEnd _ _ => execTrainingEnd_keeps hK
  | .selfRefreshEntry _ => execSelfRefreshEntry_keeps hK | .selfRefreshExit _ => execSelfRefreshExit_keeps hK
  | .dcCtlZero _ _ _ => execDcCtlZero_keeps hK | .zeroingEnd _ => execZeroingEnd_keeps hK
  | .dcCtlEnSet _ _ _ => execDcCtlEnSet_keeps hK | .dcCtlEnClear _ _ _ => execDcCtlEnClear_keeps hK
  | .drainEnd _ => execDrainEnd_keeps hK | .journalStateDurable _ => execJournalStateDurable_keeps hK
  | .mirrorLinkDown => execMirrorLinkDown_keeps hK | .mirrorLinkReturn => execMirrorLinkReturn_keeps hK
  | .mirrorCopyEnd => execMirrorCopyEnd_keeps hK | .engineFailure _ _ => execEngineFailure_keeps hK
  | .ceCtlEnSet _ _ _ _ => execCeCtlEnSet_keeps hK | .ceCtlEnClear _ _ _ _ => execCeCtlEnClear_keeps hK
  | .csCtlEnSet _ _ _ => execCsCtlEnSet_keeps hK | .channelDieFailure _ _ => execChannelDieFailure_keeps hK
  | .quiesceGraceExpiry _ => execQuiesceGraceExpiry_keeps hK | .schedulingRound _ _ => execSchedulingRound_keeps hK
  | .linkUp _ _ _ => execLinkUp_keeps hK | .linkDown _ _ => execLinkDown_keeps hK | .pfcFrame _ _ _ _ => execPfcFrame_keeps hK
  | .pauseFrame _ _ _ => execPauseFrame_keeps hK | .receiveBufferXon _ _ => execReceiveBufferXon_keeps hK
  | .pfcRepeatExpiry _ _ => execPfcRepeatExpiry_keeps hK | .loginReq _ => execLoginReq_keeps hK
  | .loginAcc _ => execLoginAcc_keeps hK | .loginRej _ => execLoginRej_keeps hK | .logout _ => execLogout_keeps hK
  | .echo _ => execEcho_keeps hK | .echoReply _ => execEchoReply_keeps hK | .data _ => execData_keeps hK
  | .ack _ => execAck_keeps hK | .status _ => execStatus_keeps hK | .working _ => execWorking_keeps hK
  | .abortAck _ => execAbortAck_keeps hK | .ackDelayExpiry _ => execAckDelayExpiry_keeps hK
  | .ackTimeout _ => execAckTimeout_keeps hK | .pauseMaxExceeded _ _ => execPauseMaxExceeded_keeps hK
  | .statusWaitExpiry _ => execStatusWaitExpiry_keeps hK | .keepaliveExpiry _ _ => execKeepaliveExpiry_keeps hK
  | .loginAnswerTimeout _ _ => execLoginAnswerTimeout_keeps hK | .loginRetryExpiry _ _ => execLoginRetryExpiry_keeps hK
  | .abortResendExpiry _ => execAbortResendExpiry_keeps hK | .clCtlEnSet _ _ _ _ => execClCtlEnSet_keeps hK
  | .clCtlEnClear _ _ _ _ => execClCtlEnClear_keeps hK | .clLgnAddrEnSet _ _ _ _ => execClLgnAddrEnSet_keeps hK
  | .clLgnAddrEnClear _ _ _ _ => execClLgnAddrEnClear_keeps hK | .accCtlEnSet _ _ _ _ => execAccCtlEnSet_keeps hK
  | .accCtlEnClear _ _ _ _ => execAccCtlEnClear_keeps hK | .wsBankOwnWrite _ _ _ _ => execWsBankOwnWrite_keeps hK
  | .bankCopyEnd _ => execBankCopyEnd_keeps hK | .bankMarchEnd _ _ => execBankMarchEnd_keeps hK
  | .testInPlaceEnd _ _ _ => execTestInPlaceEnd_keeps hK | .wsTestEnSet _ _ _ => execWsTestEnSet_keeps hK
  | .wsVaultWipe => execWsVaultWipe_keeps hK | .vaultWipeEnd _ => execVaultWipeEnd_keeps hK
  | .tamperIndication => execTamperIndication_keeps hK | .faultMessageAccept _ => execFaultMessageAccept_keeps hK
  | .messageMerged _ => execMessageMerged_keeps hK | .thresholdWindowReset _ => execThresholdWindowReset_keeps hK
  | .conditionEnd _ _ _ _ => execConditionEnd_keeps hK | .fcAckWrite _ _ => execFcAckWrite_keeps hK
  | .firstStatValidClear _ _ => execFirstStatValidClear_keeps hK | .fcInjCtlArmSet _ _ => execFcInjCtlArmSet_keeps hK
  | .fcInjCtlArmClear _ _ => execFcInjCtlArmClear_keeps hK | .injectionPerformed => execInjectionPerformed_keeps hK
  | .flitCrcError _ _ _ => execFlitCrcError_keeps hK | .tlsConnection _ _ => execTlsConnection_keeps hK
  | .hello _ _ _ _ => execHello_keeps hK | .bye _ _ => execBye_keeps hK | .ping _ _ => execPing_keeps hK
  | .takeover _ _ => execTakeover_keeps hK | .release _ _ => execRelease_keeps hK
  | .sessionSilenceExpiry _ => execSessionSilenceExpiry_keeps hK | .loadBegin _ _ _ _ => execLoadBegin_keeps hK
  | .loadData _ _ _ => execLoadData_keeps hK | .loadEnd _ _ _ => execLoadEnd_keeps hK
  | .powerStatus _ _ => execPowerStatus_keeps hK | .warmReset _ _ => execWarmReset_keeps hK
  | .powerOff _ _ => execPowerOff_keeps hK | .regRead _ _ _ => execRegRead_keeps hK | .regWrite _ _ _ => execRegWrite_keeps hK
  | .faultRead _ _ => execFaultRead_keeps hK | .faultAck _ _ _ _ => execFaultAck_keeps hK
  | .inject _ _ _ _ => execInject_keeps hK | .todSet _ _ _ => execTodSet_keeps hK
  | .ptpConfig _ _ _ _ _ => execPtpConfig_keeps hK | .snap _ _ => execSnap_keeps hK
  | .sparePolicy _ _ _ _ => execSparePolicy_keeps hK | .cmapWrite _ _ _ => execCmapWrite_keeps hK
  | .lcNonce _ _ => execLcNonce_keeps hK | .lcTransition _ _ _ _ _ => execLcTransition_keeps hK
  | .lcProvision _ _ _ _ _ => execLcProvision_keeps hK | .lcWipeStepEnd => execLcWipeStepEnd_keeps hK
  | .managementCoreFailure _ => execManagementCoreFailure_keeps hK | .managementLinkDown _ => execManagementLinkDown_keeps hK
  | .snapGo _ => execSnapGo_keeps hK | .snapshotCapture => execSnapshotCapture_keeps hK
  | .snapshotDone => execSnapshotDone_keeps hK | .ptpEventMessage _ => execPtpEventMessage_keeps hK
  | .ptpHoldover => execPtpHoldover_keeps hK | .clkTodSetWrite _ _ => execClkTodSetWrite_keeps hK
  | .pmbusPoll _ => execPmbusPoll_keeps hK | .smbalert _ => execSmbalert_keeps hK
  | .governorInterval _ _ => execGovernorInterval_keeps hK | .pwrSlewWrite _ _ _ => execPwrSlewWrite_keeps hK
  | .droopDetected _ _ _ => execDroopDetected_keeps hK | .droopRelease _ _ => execDroopRelease_keeps hK
  | .clockSynthesiserUnlock _ => execClockSynthesiserUnlock_keeps hK | .passStart _ _ => execPassStart_keeps hK
  | .resetN _ => execResetN_keeps hK | .coldResetStepEnd _ => execColdResetStepEnd_keeps hK | .vauxLoss => execVauxLoss_keeps hK
  | .coreChkStatClr _ _ _ => execCoreChkStatClr_keeps hK | .l2ErrClr _ _ _ => execL2ErrClr_keeps hK
  | .l3ErrClr _ _ _ => execL3ErrClr_keeps hK | .dcErrClr _ _ _ => execDcErrClr_keeps hK
  | .csStaleClr _ _ _ _ => execCsStaleClr_keeps hK | .clCntClr _ _ _ _ _ => execClCntClr_keeps hK
  | .accErrClr _ _ _ _ => execAccErrClr_keeps hK | .wsCntClr _ _ _ => execWsCntClr_keeps hK
  | .wsErrClr _ _ _ => execWsErrClr_keeps hK | .fcCntClr _ _ _ => execFcCntClr_keeps hK
  | .fcCntMiscClr _ _ => execFcCntMiscClr_keeps hK | .pwrDroopClr _ _ _ => execPwrDroopClr_keeps hK
  | .registerWrite _ _ _ => execRegisterWrite_keeps hK | .pauseTimeExpiry _ _ => execPauseTimeExpiry_keeps hK
  | .acceleratorSelftestEnd _ _ _ => execAcceleratorSelftestEnd_keeps hK | .managementLinkUp _ => execManagementLinkUp_keeps hK
  | .sessionConnectionLost _ => execSessionConnectionLost_keeps hK
  | .unassignedFspRecord _ _ _ _ => execUnassignedFspRecord_keeps hK | .powerOn => execPowerOn_keeps hK
  | .jtagInstruction _ => execJtagInstruction_keeps hK | .plainNodeBufferError _ => execPlainNodeBufferError_keeps hK
  | .todDistributionFault => execTodDistributionFault_keeps hK | .fuseControllerFault => execFuseControllerFault_keeps hK

/-- A command that leads to a state keeps what every command keeps. -/
theorem keeps_of_exec {c : Instr} {s t : State} (h : exec c s = .next t) : Keeps s t := by
  have hexec := exec_keeps (Keeps.refl s) c
  rw [h] at hexec
  cases hexec with
  | next hK => exact hK

/-- Time that passes on an empty queue keeps it too. -/
theorem State.tick_keeps (s : State) : Keeps s s.tick :=
  Keeps.ite (Keeps.advance (Keeps.refl s)) (Keeps.refl s)

/-- A step takes the front of the queue away, and leads from the rest to a state that keeps. -/
theorem step_keeps {s t : State} (h : step s = .next t) : Keeps { s with pending := s.pending.tail } t := by
  unfold step at h
  split at h
  case _ hq =>
    cases h
    rw [show ({ s with pending := s.pending.tail } : State) = s by rw [hq, List.tail_nil, ← hq]]
    exact s.tick_keeps
  case _ c rest hq =>
    rw [hq, List.tail_cons]
    exact keeps_of_exec h

/-- Settles O4: the queue is no part of the invariant, and what leads from its rest keeps. -/
theorem stepKeepsInvariant : Obligations.StepKeepsInvariant := by
  unfold Obligations.StepKeepsInvariant
  intro s t hinv h
  exact (step_keeps h).inv hinv

/-- Settles O5: what leads from the queue's rest leaves it, and only grows. -/
theorem stepOnlyGrows : Obligations.StepOnlyGrows := by
  unfold Obligations.StepOnlyGrows
  intro s t h
  exact ⟨(step_keeps h).pending, (step_keeps h).grows⟩

end Sys2Proof.Machine
end

section
/-! SUPPORT. The value functions of the integer instructions agree with the rules of R121 to R131: truncation, sign extension, the
shifts and rotates, and division. -/
namespace Sys2Proof.Machine
open Sys2Proof

/-! ## Operands (R121, R125) -/

theorem sval_64 (x : Dword) : sval 64 x = x.toInt := by
  rw [sval, BitVec.truncate, BitVec.setWidth_eq]

theorem uval_64 (x : Dword) : uval 64 x = x.toNat := by
  rw [uval, BitVec.truncate, BitVec.setWidth_eq]

theorem uval_eq_mod (w : Nat) (x : Dword) : uval w x = x.toNat % 2 ^ w := BitVec.toNat_setWidth w x

/-- The sign-extended immediate has the immediate's value, on any width that holds it. -/
theorem sval_simm {w : Nat} (i : BitVec 14) (hw : 14 ≤ w) (h64 : w ≤ 64) : sval w (simm i) = i.toInt := by
  have htrunc : BitVec.truncate w (i.signExtend 64) = i.signExtend w := by
    ext k hk
    simp only [BitVec.truncate, BitVec.getElem_setWidth, BitVec.getLsbD_signExtend, BitVec.getElem_signExtend]
    grind
  rw [sval, simm, htrunc, BitVec.toInt_signExtend_of_le hw]

theorem toNat_zimm (i : BitVec 14) : (zimm i).toNat = i.toNat := by
  rw [zimm, BitVec.zeroExtend, BitVec.toNat_setWidth, Nat.mod_eq_of_lt (by omega)]

theorem zimm_eq_ofNat (i : BitVec 14) : zimm i = BitVec.ofNat 64 i.toNat := by
  apply BitVec.eq_of_toNat_eq
  rw [toNat_zimm, BitVec.toNat_ofNat, Nat.mod_eq_of_lt (by omega)]

/-- LIS (R125): the shifted operand has no bit in common with the immediate. -/
theorem aluLis_eq (b : Dword) (i : BitVec 14) : aluLis b i = BitVec.ofNat 64 (b.toNat * 2 ^ 14 + i.toNat) := by
  apply BitVec.eq_of_toNat_eq
  have hi : i.toNat < 2 ^ 14 := i.isLt
  have hshift : b.toNat <<< 14 % 2 ^ 64 = 2 ^ 14 * (b.toNat % 2 ^ 50) := by
    rw [Nat.shiftLeft_eq]
    omega
  rw [aluLis, BitVec.toNat_or, BitVec.toNat_shiftLeft, toNat_zimm, hshift, ← Nat.two_pow_add_eq_or_of_lt hi, BitVec.toNat_ofNat]
  omega

/-! ## Extension (R127) -/

theorem sext_eq (n : Nat) (x : Dword) : sext n x = (BitVec.ofNat n x.toNat).signExtend 64 := by
  rw [sext, BitVec.truncate_eq_setWidth, ← BitVec.ofNat_toNat]

theorem zext_eq (n : Nat) (x : Dword) : zext n x = BitVec.ofNat 64 (x.toNat % 2 ^ n) := by
  apply BitVec.eq_of_toNat_eq
  rw [zext, BitVec.zeroExtend, BitVec.truncate_eq_setWidth, BitVec.toNat_setWidth, BitVec.toNat_setWidth, BitVec.toNat_ofNat]

/-! ## Shifts and rotates (R128) -/

theorem shLeft_eq (w : Nat) (v : Dword) (n : Nat) : shLeft w v n = (BitVec.ofNat w (shiftRule w true v n)).signExtend 64 := by
  have hval : (BitVec.truncate w v <<< n).toNat = shiftRule w true v n := by
    rw [BitVec.toNat_shiftLeft, BitVec.truncate_eq_setWidth, BitVec.toNat_setWidth, Nat.shiftLeft_eq, shiftRule]
    split
    case isTrue h =>
      obtain ⟨k, rfl⟩ := Nat.exists_eq_add_of_le h
      rw [Nat.pow_add, Nat.mul_left_comm, Nat.mul_mod_right]
    case isFalse => rfl
  rw [shLeft, narrowS, hval, BitVec.ofInt_natCast]

theorem shRight_toNat (w : Nat) (v : Dword) (n : Nat) : (BitVec.truncate w v >>> n).toNat = shiftRule w false v n := by
  have hv : v.toNat % 2 ^ w < 2 ^ w := Nat.mod_lt _ (Nat.two_pow_pos w)
  rw [BitVec.toNat_ushiftRight, BitVec.truncate_eq_setWidth, BitVec.toNat_setWidth, Nat.shiftRight_eq_div_pow, shiftRule]
  split
  case isTrue h => exact Nat.div_eq_of_lt (Nat.lt_of_lt_of_le hv (Nat.pow_le_pow_right (by decide) h))
  case isFalse => rfl

theorem shRight_64 (v : Dword) (n : Nat) : shRight 64 v n = (BitVec.ofNat 64 (shiftRule 64 false v n)).signExtend 64 := by
  rw [shRight, narrowZ, shRight_toNat, BitVec.ofInt_natCast, BitVec.zeroExtend, BitVec.setWidth_eq, BitVec.signExtend_eq]

theorem shRight_32 (v : Dword) (n : Nat) : shRight 32 v n = BitVec.ofNat 64 (shiftRule 32 false v n) := by
  have hlt : shiftRule 32 false v n < 2 ^ 32 := shRight_toNat 32 v n ▸ BitVec.isLt _
  apply BitVec.eq_of_toNat_eq
  rw [shRight, narrowZ, shRight_toNat, BitVec.ofInt_natCast, BitVec.zeroExtend, BitVec.toNat_setWidth, BitVec.toNat_ofNat,
    BitVec.toNat_ofNat, Nat.mod_eq_of_lt hlt]

theorem shRightS_eq (v : Dword) (n : Nat) : shRightS v n = (BitVec.ofNat 32 (shiftRule 32 false v n)).signExtend 64 := by
  rw [shRightS, narrowS, shRight_toNat, BitVec.ofInt_natCast]

theorem shArith_eq {w : Nat} (v : Dword) (n : Nat) (hw : w ≤ 64) : shArith w v n = BitVec.ofInt 64 (arithRule w v n) := by
  apply BitVec.eq_of_toInt_eq
  have hval : ((BitVec.truncate w v).sshiftRight n).toInt = arithRule w v n := by
    rw [BitVec.toInt_sshiftRight, Int.shiftRight_eq_div_pow, arithRule, sval]
    norm_cast
  have hext := BitVec.toInt_signExtend_of_le (x := (BitVec.truncate w v).sshiftRight n) hw
  rw [shArith, hext, hval, ← hval, BitVec.toInt_ofInt, ← hext, BitVec.toInt_bmod_cancel]

/-- A left rotate moves the high n mod w bits below the others. -/
theorem toNat_rotateLeft_eq {w : Nat} (v : Dword) (n : Nat) (hw : 0 < w) :
    ((BitVec.truncate w v).rotateLeft (n % w)).toNat = rotateRule w v n := by
  have hk : n % w < w := Nat.mod_lt _ hw
  have hv : v.toNat % 2 ^ w < 2 ^ w := Nat.mod_lt _ (Nat.two_pow_pos w)
  have hsplit : 2 ^ w = 2 ^ (n % w) * 2 ^ (w - n % w) := by rw [← Nat.pow_add, Nat.add_sub_cancel' (Nat.le_of_lt hk)]
  have hhigh : (v.toNat % 2 ^ w) >>> (w - n % w) < 2 ^ (n % w) := by
    rw [Nat.shiftRight_eq_div_pow]
    exact Nat.div_lt_of_lt_mul (by rwa [Nat.mul_comm, ← hsplit])
  have hlow : (v.toNat % 2 ^ w) <<< (n % w) % 2 ^ w = 2 ^ (n % w) * (v.toNat % 2 ^ w % 2 ^ (w - n % w)) := by
    rw [Nat.shiftLeft_eq, Nat.mul_comm, hsplit, Nat.mul_mod_mul_left]
  rw [BitVec.toNat_rotateLeft, Nat.mod_mod, BitVec.truncate_eq_setWidth, BitVec.toNat_setWidth, rotateRule, hlow,
    ← Nat.two_pow_add_eq_or_of_lt hhigh, Nat.shiftRight_eq_div_pow, ← Nat.shiftLeft_eq, hlow]

theorem rotLeft_eq {w : Nat} (v : Dword) (n : Nat) (hw : 0 < w) : rotLeft w v n = (BitVec.ofNat w (rotateRule w v n)).signExtend 64 := by
  rw [rotLeft, ← toNat_rotateLeft_eq v n hw, BitVec.ofNat_toNat, BitVec.setWidth_eq]

/-- A right rotate by n is a left rotate by the rest of the width. -/
theorem rotRight_eq {w : Nat} (v : Dword) (n : Nat) (hw : 0 < w) :
    rotRight w v n = (BitVec.ofNat w (rotateRule w v (w - n % w))).signExtend 64 := by
  have hk : n % w < w := Nat.mod_lt _ hw
  have hrot : (BitVec.truncate w v).rotateRight (n % w) = (BitVec.truncate w v).rotateLeft ((w - n % w) % w) := by
    rcases Nat.eq_zero_or_pos (n % w) with h0 | hpos
    · rw [h0, Nat.sub_zero, Nat.mod_self]
      ext i hi
      simp [BitVec.getElem_rotateRight, BitVec.getElem_rotateLeft, hi]
    · rw [Nat.mod_eq_of_lt (Nat.sub_lt hw hpos)]
      ext i hi
      simp only [BitVec.getElem_rotateRight, BitVec.getElem_rotateLeft, Nat.mod_mod, Nat.mod_eq_of_lt (Nat.sub_lt hw hpos),
        Nat.sub_sub_self (Nat.le_of_lt hk)]
  rw [rotRight, hrot, ← toNat_rotateLeft_eq v _ hw, BitVec.ofNat_toNat, BitVec.setWidth_eq]

end Sys2Proof.Machine
end

section
/-! SUPPORT. Division (R131); then the instructions with one integer result, with a pair or with a CC alone: what their bodies do, once
for each form, and the statements about their results, their overflow and their frame (R119 to R131). -/
namespace Sys2Proof.Machine
open Sys2Proof

/-! ## Division (R131) -/

theorem toInt_narrowS_64 {i : Int} (hlo : -2 ^ 63 ≤ i) (hhi : i < 2 ^ 63) : (narrowS 64 i).toInt = i := by
  rw [narrowS, BitVec.signExtend_eq, BitVec.toInt_ofInt]
  exact Int.bmod_eq_of_le (by omega) (by omega)

/-- A quotient is at most the dividend in magnitude, and equals its negation for the divisor -1 alone. -/
theorem tdiv_lt_two_pow {x y : Int} (hlo : -2 ^ 63 ≤ x) (hhi : x < 2 ^ 63) (hy : y ≠ 0) (ho : ¬(x = -2 ^ 63 ∧ y = -1)) :
    -2 ^ 63 ≤ x.tdiv y ∧ x.tdiv y < 2 ^ 63 := by
  have habs : (x.tdiv y).natAbs = x.natAbs / y.natAbs := Int.natAbs_tdiv x y
  have hle : x.natAbs / y.natAbs ≤ x.natAbs := Nat.div_le_self _ _
  by_cases hy1 : y.natAbs = 1
  · rcases Int.natAbs_eq_iff.mp hy1 with rfl | rfl
    · rw [show ((1 : Nat) : Int) = 1 from rfl, Int.tdiv_one]; exact ⟨hlo, hhi⟩
    · rw [show -((1 : Nat) : Int) = -1 from rfl, Int.tdiv_neg, Int.tdiv_one]; omega
  · have hhalf : x.natAbs / y.natAbs ≤ x.natAbs / 2 := Nat.div_le_div_left (by omega) (by decide)
    omega

/-- A signed division gives its quotient and remainder, unless it is the one that overflows. -/
theorem divSigned_64_cases {b c : Dword} {r : PairOut} (h : divSigned 64 b c = some r) :
    c.toInt ≠ 0 ∧ ((b.toInt = -2 ^ 63 ∧ c.toInt = -1 ∧ r.ovf = true) ∨
      (¬(b.toInt = -2 ^ 63 ∧ c.toInt = -1) ∧ r.ovf = false ∧ r.hi = narrowS 64 (b.toInt.tdiv c.toInt) ∧
        r.lo = narrowS 64 (b.toInt - b.toInt.tdiv c.toInt * c.toInt))) := by
  simp only [divSigned, sval_64] at h
  split at h
  case isTrue => cases h
  case isFalse hc =>
    split at h
    case isTrue ho => cases h; exact ⟨hc, .inl ⟨ho.1, ho.2, rfl⟩⟩
    case isFalse ho => cases h; exact ⟨hc, .inr ⟨ho, rfl, rfl, rfl⟩⟩

/-- What is left of the dividend is the remainder of truncating division. -/
theorem sub_tdiv_mul (x y : Int) : x - x.tdiv y * y = x.tmod y := by
  rw [Int.mul_comm, Int.tmod_def]

theorem tmod_bounds {x y : Int} (hlo : -2 ^ 63 ≤ x) (hhi : x < 2 ^ 63) (hy : y ≠ 0) :
    -2 ^ 63 ≤ x.tmod y ∧ x.tmod y < 2 ^ 63 ∧ (x.tmod y).natAbs < y.natAbs ∧ (x.tmod y = 0 ∨ (x.tmod y < 0 ↔ x < 0)) := by
  have habs : (x.tmod y).natAbs = x.natAbs % y.natAbs := Int.natAbs_tmod x y
  have hle : x.natAbs % y.natAbs ≤ x.natAbs := Nat.mod_le _ _
  have hlt : x.natAbs % y.natAbs < y.natAbs := Nat.mod_lt _ (Int.natAbs_pos.mpr hy)
  have hsign : 0 ≤ x → 0 ≤ x.tmod y := fun hx => Int.tmod_nonneg y hx
  have hneg : x ≤ 0 → x.tmod y ≤ 0 := fun hx => by
    have := Int.tmod_nonneg y (Int.neg_nonneg.mpr hx)
    rw [Int.neg_tmod] at this
    omega
  omega

/-- Settles O12: truncating division, whose quotient fits but for the one overflow. -/
theorem divisionIdentity : Obligations.DivisionIdentity := by
  unfold Obligations.DivisionIdentity
  refine ⟨fun b c r h => ?_, fun b c r h => ?_⟩
  · have hlo : -2 ^ 63 ≤ b.toInt := BitVec.le_toInt b
    have hhi : b.toInt < 2 ^ 63 := BitVec.toInt_lt
    obtain ⟨hc, ⟨hb, hc1, hovf⟩ | ⟨ho, hovf, hq, hr⟩⟩ := divSigned_64_cases h
    · exact ⟨by simp [hovf, hb, hc1], by simp [hovf]⟩
    · obtain ⟨hqlo, hqhi⟩ := tdiv_lt_two_pow hlo hhi hc ho
      obtain ⟨hrlo, hrhi, hlt, hsign⟩ := tmod_bounds hlo hhi hc
      refine ⟨iff_of_false (by simp [hovf]) ho, fun _ => ?_⟩
      rw [hq, hr, sub_tdiv_mul, toInt_narrowS_64 hqlo hqhi, toInt_narrowS_64 hrlo hrhi]
      exact ⟨(Int.tdiv_mul_add_tmod b.toInt c.toInt).symm, hlt, hsign⟩
  · simp only [divUnsigned, uval_64] at h
    split at h
    case isTrue => cases h
    case isFalse hc =>
      cases h
      have hq : b.toNat / c.toNat ≤ b.toNat := Nat.div_le_self _ _
      have hr : b.toNat % c.toNat < c.toNat := Nat.mod_lt _ (Nat.pos_of_ne_zero hc)
      simp only [BitVec.toNat_ofNat, Nat.mod_eq_of_lt (Nat.lt_of_le_of_lt hq b.isLt), Nat.mod_eq_of_lt (Nat.lt_trans hr c.isLt), hr, and_true,
        Nat.div_add_mod']

/-! ## What a row's instruction does -/

/-- The row x is about the command c: c runs x's instruction on x's unit, whose effect is to put x's result. -/
structure AluRow.Runs (x : AluRow) (c : Instr) : Prop where
  exec (s : State) : exec c s = .next (s.insn x.insn)
  unit : x.insn.u = x.u
  body (s : State) : x.insn.body (s.past x.u) = (s.past x.u).putAlu x.u x.ra (x.out s)

section
variable {c : Instr}

theorem form3_runs {o : OpA} {op fn row : Nat} {f : Dword → Dword → AluOut} {out : State → AluOut}
    (hexec : ∀ s, exec c s = .next (s.insn (form3 o op fn row f))) (hout : ∀ s : State, f (s.g o.u o.rb) (s.g o.u o.rc) = out s) :
    AluRow.Runs ⟨form3 o op fn row f, o.u, o.ra, out⟩ c :=
  ⟨hexec, rfl, fun s => by simp only [form3, State.g_past, ← hout s]⟩

theorem form2_runs {o : OpA} {op fn row : Nat} {f : Dword → AluOut} {out : State → AluOut}
    (hexec : ∀ s, exec c s = .next (s.insn (form2 o op fn row f))) (hout : ∀ s : State, f (s.g o.u o.rb) = out s) :
    AluRow.Runs ⟨form2 o op fn row f, o.u, o.ra, out⟩ c :=
  ⟨hexec, rfl, fun s => by simp only [form2, State.g_past, ← hout s]⟩

theorem formImm_runs {o : OpI} {op : Nat} {f : Dword → AluOut} {out : State → AluOut}
    (hexec : ∀ s, exec c s = .next (s.insn (formImm o op f))) (hout : ∀ s : State, f (s.g o.u o.rb) = out s) :
    AluRow.Runs ⟨formImm o op f, o.u, o.ra, out⟩ c :=
  ⟨hexec, rfl, fun s => by simp only [formImm, State.g_past, ← hout s]⟩

theorem formSh_runs {o : OpA} {fn : Nat} {f : Dword → Nat → Dword} {out : State → AluOut}
    (hexec : ∀ s, exec c s = .next (s.insn (formSh o fn f)))
    (hout : ∀ s : State, plainOut (f (s.g o.u o.rb) (shAmt (s.g o.u o.rc))) = out s) :
    AluRow.Runs ⟨formSh o fn f, o.u, o.ra, out⟩ c :=
  form3_runs hexec hout

theorem formShImm_runs {o : OpSh} {fn : Nat} {f : Dword → Nat → Dword} {out : State → AluOut}
    (hexec : ∀ s, exec c s = .next (s.insn (formShImm o fn f)))
    (hout : ∀ s : State, plainOut (f (s.g o.u o.rb) o.amt.toNat) = out s) :
    AluRow.Runs ⟨formShImm o fn f, o.u, o.ra, out⟩ c :=
  ⟨hexec, rfl, fun s => by simp only [formShImm, State.g_past, ← hout s]⟩

end

theorem toInt_simm (i : BitVec 14) : (simm i).toInt = i.toInt := (sval_64 _).symm.trans (sval_simm i (by decide) (by decide))

/-- A register's amount and its low bits rotate alike: 32 and 64 divide 128. -/
theorem rotRight_amt {w : Nat} (v c : Dword) (hw : w ∣ 128) :
    rotRight w v (shAmt c) = (BitVec.ofNat w (rotateRule w v (w - c.toNat % w))).signExtend 64 := by
  rw [rotRight_eq v _ (Nat.pos_of_dvd_of_pos hw (by decide)), shAmt, Nat.mod_mod_of_dvd _ hw]

/-- Arithmetic and logic by registers (R124, R126, R130). -/
theorem aluRow_runs {c : Instr} {x : AluRow} (h : aluRow c = some x) : x.Runs c := by
  unfold aluRow at h
  split at h <;> cases h
  case _ o => exact form3_runs (fun _ => rfl) fun s => by simp only [aluAdd, sval_64]
  case _ o => exact form3_runs (fun _ => rfl) fun s => rfl
  case _ o => exact form3_runs (fun _ => rfl) fun s => by simp only [aluAddL, uval_64]
  case _ o => exact form3_runs (fun _ => rfl) fun s => rfl
  case _ o => exact form3_runs (fun _ => rfl) fun s => by simp only [aluSub, sval_64]
  case _ o => exact form3_runs (fun _ => rfl) fun s => rfl
  case _ o => exact form3_runs (fun _ => rfl) fun s => by simp only [aluSubL, uval_64]
  case _ o => exact form3_runs (fun _ => rfl) fun s => rfl
  case _ o => exact form3_runs (fun _ => rfl) fun s => rfl
  case _ o => exact form3_runs (fun _ => rfl) fun s => rfl
  case _ o => exact form3_runs (fun _ => rfl) fun s => rfl
  case _ o => exact form3_runs (fun _ => rfl) fun s => rfl
  case _ o => exact form3_runs (fun _ => rfl) fun s => rfl
  case _ o => exact form2_runs (fun _ => rfl) fun s => by simp only [aluNeg, sval_64, Int.zero_sub]
  case _ o => exact form2_runs (fun _ => rfl) fun s => by simp only [aluNeg, Int.zero_sub]
  case _ o => exact form3_runs (fun _ => rfl) fun s => by simp only [aluMul, sval_64]
  case _ o => exact form3_runs (fun _ => rfl) fun s => rfl

/-- The immediate forms and LA (R125, R135). -/
theorem immRow_runs {c : Instr} {x : AluRow} (h : immRow c = some x) : x.Runs c := by
  unfold immRow at h
  split at h <;> cases h
  case _ o => exact formImm_runs (fun _ => rfl) fun s => by simp only [aluAdd, sval_64, toInt_simm]
  case _ o => exact formImm_runs (fun _ => rfl) fun s => by simp only [aluAddL, uval_64, simm]
  case _ o => exact formImm_runs (fun _ => rfl) fun s => by simp only [aluAdd, sval_simm o.imm (w := 32) (by decide) (by decide)]
  case _ o => exact formImm_runs (fun _ => rfl) fun s => by simp only [zimm_eq_ofNat]
  case _ o => exact formImm_runs (fun _ => rfl) fun s => by simp only [zimm_eq_ofNat]
  case _ o => exact formImm_runs (fun _ => rfl) fun s => by simp only [zimm_eq_ofNat]
  case _ o => exact ⟨fun _ => rfl, rfl, fun s => rfl⟩
  case _ o => exact formImm_runs (fun _ => rfl) fun s => by simp only [aluLis_eq]
  case _ o => exact ⟨fun _ => rfl, rfl, fun s => by simp [insnLa, State.ea, State.putAlu, plainOut, simm]⟩

/-- CRCSTEP, PARITY and BREV (R147 to R149). -/
theorem checkRow_runs {c : Instr} {x : AluRow} (h : checkRow c = some x) : x.Runs c := by
  unfold checkRow at h
  split at h <;> cases h
  case _ o => exact ⟨fun _ => rfl, rfl, fun s => by simp only [insnCrcstep, State.g_past]⟩
  case _ o => exact ⟨fun _ => rfl, rfl, fun s => by simp only [insnParity, formMode, State.g_past]⟩
  case _ o => exact ⟨fun _ => rfl, rfl, fun s => by simp only [insnBrev, formMode, State.g_past]⟩

/-- Extension, counting and the shifts by a register (R127 to R129). -/
theorem shiftRow_runs {c : Instr} {x : AluRow} (h : shiftRow c = some x) : x.Runs c := by
  unfold shiftRow at h
  split at h <;> cases h
  case _ o => exact form2_runs (fun _ => rfl) fun s => congrArg plainOut (sext_eq _ _)
  case _ o => exact form2_runs (fun _ => rfl) fun s => congrArg plainOut (sext_eq _ _)
  case _ o => exact form2_runs (fun _ => rfl) fun s => congrArg plainOut (sext_eq _ _)
  case _ o => exact form2_runs (fun _ => rfl) fun s => congrArg plainOut (zext_eq _ _)
  case _ o => exact form2_runs (fun _ => rfl) fun s => congrArg plainOut (zext_eq _ _)
  case _ o => exact form2_runs (fun _ => rfl) fun s => congrArg plainOut (zext_eq _ _)
  case _ o => exact form2_runs (fun _ => rfl) fun s => rfl
  case _ o => exact form2_runs (fun _ => rfl) fun s => rfl
  case _ o => exact form2_runs (fun _ => rfl) fun s => rfl
  case _ o => exact formSh_runs (fun _ => rfl) fun s => congrArg plainOut (shLeft_eq _ _ _)
  case _ o => exact formSh_runs (fun _ => rfl) fun s => congrArg plainOut (shRight_64 _ _)
  case _ o => exact formSh_runs (fun _ => rfl) fun s => congrArg plainOut (shArith_eq _ _ (by decide))
  case _ o => exact formSh_runs (fun _ => rfl) fun s => congrArg plainOut (rotLeft_eq _ _ (by decide))
  case _ o => exact formSh_runs (fun _ => rfl) fun s => congrArg plainOut (rotRight_amt _ _ (by decide))
  case _ o => exact formSh_runs (fun _ => rfl) fun s => congrArg plainOut (shLeft_eq _ _ _)
  case _ o => exact formSh_runs (fun _ => rfl) fun s => congrArg plainOut (shRight_32 _ _)
  case _ o => exact formSh_runs (fun _ => rfl) fun s => congrArg plainOut (shArith_eq _ _ (by decide))
  case _ o => exact formSh_runs (fun _ => rfl) fun s => congrArg plainOut (rotLeft_eq _ _ (by decide))
  case _ o => exact formSh_runs (fun _ => rfl) fun s => congrArg plainOut (rotRight_amt _ _ (by decide))

/-- The shifts by an immediate (R128). -/
theorem shiftImmRow_runs {c : Instr} {x : AluRow} (h : shiftImmRow c = some x) : x.Runs c := by
  unfold shiftImmRow at h
  split at h <;> cases h
  case _ o => exact formShImm_runs (fun _ => rfl) fun s => congrArg plainOut (shLeft_eq _ _ _)
  case _ o => exact formShImm_runs (fun _ => rfl) fun s => congrArg plainOut (shRight_64 _ _)
  case _ o => exact formShImm_runs (fun _ => rfl) fun s => congrArg plainOut (shArith_eq _ _ (by decide))
  case _ o => exact formShImm_runs (fun _ => rfl) fun s => congrArg plainOut (rotLeft_eq _ _ (by decide))
  case _ o => exact formShImm_runs (fun _ => rfl) fun s => congrArg plainOut (rotRight_eq _ _ (by decide))
  case _ o => exact formShImm_runs (fun _ => rfl) fun s => congrArg plainOut (shLeft_eq _ _ _)
  case _ o => exact formShImm_runs (fun _ => rfl) fun s => congrArg plainOut (shRightS_eq _ _)
  case _ o => exact formShImm_runs (fun _ => rfl) fun s => congrArg plainOut (shArith_eq _ _ (by decide))
  case _ o => exact formShImm_runs (fun _ => rfl) fun s => congrArg plainOut (rotLeft_eq _ _ (by decide))
  case _ o => exact formShImm_runs (fun _ => rfl) fun s => congrArg plainOut (rotRight_eq _ _ (by decide))

/-! ## Results and overflow (R122, R123) -/

/-- A completing exception interrupts, or waits for the CPU's interruption area (R442). -/
theorem State.insn_ends_after {s s2 t : State} {i : Insn} {u : Nat} {e : Exc} (h : s.enter i = .ok s2)
    (hb : i.body (s2.past u) = .error (.after t e)) (hu : i.u = u) :
    s.insn i = s2.orWaits u (t.excInt u e i.word (s2.psw u).ia) := by
  rw [State.insn_ends_at h hb hu]
  simp only [State.endWith, State.orWaits, Ends.interrupts, Bool.and_true]

theorem State.putAlu_of_quiet {s : State} {u : Nat} (ra : BitVec 5) {x : AluOut} (h : ¬(x.ovf = true ∧ (s.psw u).fom = true)) :
    s.putAlu u ra x = .ok (s.withAlu u ra x) := by
  rw [State.putAlu, if_neg (by simpa using h)]
  rfl

theorem State.putAlu_of_trap {s : State} {u : Nat} (ra : BitVec 5) {x : AluOut} (ho : x.ovf = true) (hf : (s.psw u).fom = true) :
    s.putAlu u ra x = .error (.after (s.withAlu u ra x) { code := 8 }) := by
  rw [State.putAlu, if_pos (by simp [ho, hf])]
  rfl

theorem State.putPair_of_quiet {s : State} {u : Nat} (ra : BitVec 5) {x : PairOut} (h : ¬(x.ovf = true ∧ (s.psw u).fom = true)) :
    s.putPair u ra x = .ok (s.withPair u ra x) := by
  rw [State.putPair, if_neg (by simpa using h)]
  rfl

theorem State.putPair_of_trap {s : State} {u : Nat} (ra : BitVec 5) {x : PairOut} (ho : x.ovf = true) (hf : (s.psw u).fom = true) :
    s.putPair u ra x = .error (.after (s.withPair u ra x) { code := 8 }) := by
  rw [State.putPair, if_pos (by simp [ho, hf])]
  rfl

theorem State.fom_past (s : State) (u : Nat) : ((s.past u).psw u).fom = (s.psw u).fom := by rw [State.psw_past]

/-- A row's instruction without a trapping overflow completes with its result. -/
theorem AluRow.Runs.completes {x : AluRow} {c : Instr} {s s2 : State} (h : x.Runs c) (henter : s.enter x.insn = .ok s2)
    (hq : ¬((x.out s2).ovf = true ∧ (s2.psw x.u).fom = true)) :
    Machine.exec c s = .next (s2.finish x.u ((s2.past x.u).withAlu x.u x.ra (x.out s2))) := by
  rw [← s2.fom_past x.u] at hq
  rw [h.exec, State.insn_completes_at henter ((h.body s2).trans (State.putAlu_of_quiet x.ra hq)) h.unit]

/-- Extensions, counts, shifts and rotates set no CC and overflow never. -/
theorem shift_out_plain {c : Instr} {x : AluRow} (s : State) (h : shiftRow c = some x ∨ shiftImmRow c = some x) :
    ∃ v, x.out s = plainOut v := by
  rcases h with h | h
  · unfold shiftRow at h
    split at h <;> cases h <;> exact ⟨_, rfl⟩
  · unfold shiftImmRow at h
    split at h <;> cases h <;> exact ⟨_, rfl⟩

theorem AluRow.runs_of_alu {c : Instr} {x : AluRow} (h : aluRow c = some x ∨ immRow c = some x ∨ checkRow c = some x) : x.Runs c :=
  h.elim aluRow_runs fun h => h.elim immRow_runs checkRow_runs

theorem AluRow.runs_of_shift {c : Instr} {x : AluRow} (h : shiftRow c = some x ∨ shiftImmRow c = some x) : x.Runs c :=
  h.elim shiftRow_runs shiftImmRow_runs

/-- Settles O7: each row's instruction puts the row's result. -/
theorem integerResults : Obligations.IntegerResults := by
  unfold Obligations.IntegerResults
  refine ⟨fun c x s s2 h henter hq => (AluRow.runs_of_alu h).completes henter hq, fun c x s s2 h henter => ?_⟩
  obtain ⟨v, hv⟩ := shift_out_plain s2 h
  have hdone := (AluRow.runs_of_shift h).completes henter (by simp [hv, plainOut])
  rw [hv] at hdone ⊢
  exact ⟨rfl, hdone⟩

/-- An overflow comes with CC 3 (R123). -/
def AluOut.TrapsWith3 (x : AluOut) : Prop := x.ovf = true → x.cc = some 3

@[simp] theorem signedOut_trapsWith3 (w : Nat) (i : Int) : (signedOut w i).TrapsWith3 := by
  unfold AluOut.TrapsWith3 signedOut
  split <;> simp

@[simp] theorem carryOut_trapsWith3 (w n : Nat) : (carryOut w n).TrapsWith3 := by simp [AluOut.TrapsWith3, carryOut]
@[simp] theorem logicalOut_trapsWith3 (v : Dword) : (logicalOut v).TrapsWith3 := by simp [AluOut.TrapsWith3, logicalOut]
@[simp] theorem plainOut_trapsWith3 (v : Dword) : (plainOut v).TrapsWith3 := by simp [AluOut.TrapsWith3, plainOut]

/-- Every result follows one of the four schemes. -/
theorem out_trapsWith3 {c : Instr} {x : AluRow} (s : State) (h : aluRow c = some x ∨ immRow c = some x) : (x.out s).TrapsWith3 := by
  rcases h with h | h
  · unfold aluRow at h
    split at h <;> cases h <;> simp
  · unfold immRow at h
    split at h <;> cases h <;> simp

/-- A pair overflows in the signed divisions alone, with CC 3. -/
theorem pair_cc_of_ovf {c : Instr} {x : Insn × Nat × BitVec 5 × (State → Option PairOut)} {r : PairOut} {s : State}
    (h : pairRow c = some x) (hr : x.2.2.2 s = some r) (ho : r.ovf = true) : r.cc = 3 := by
  have hsigned (w : Nat) (b c : Dword) (hr : divSigned w b c = some r) : r.cc = 3 := by
    unfold divSigned at hr
    dsimp only at hr
    split at hr
    · cases hr
    · split at hr <;> cases hr
      · rfl
      · cases ho
  have hunsigned (w : Nat) (b c : Dword) (hr : divUnsigned w b c = some r) : r.cc = 3 := by
    unfold divUnsigned at hr
    dsimp only at hr
    split at hr <;> cases hr
    cases ho
  unfold pairRow at h
  split at h <;> cases h
  · cases hr; cases ho
  · cases hr; cases ho
  · exact hsigned _ _ _ hr
  · exact hunsigned _ _ _ hr
  · exact hsigned _ _ _ hr
  · exact hunsigned _ _ _ hr

/-- The body of a pair instruction with a result. -/
theorem formPair_body_of_some (o : OpA) (fn row : Nat) {f : Dword → Dword → Option PairOut} {s : State} {r : PairOut}
    (h : f (s.g o.u o.rb) (s.g o.u o.rc) = some r) :
    (formPair o fn row f).body (s.past o.u) = (s.past o.u).putPair o.u o.ra r := by
  simp only [formPair, State.g_past, h]

/-- Settles O9: a pair instruction with a result puts it. -/
theorem pairResults : Obligations.PairResults := by
  unfold Obligations.PairResults
  intro c x r s s2 hrow henter hr hq
  obtain ⟨o, fn, row, f, rfl, hexec⟩ := pairRow_formPair hrow
  rw [← s2.fom_past] at hq
  rw [hexec, State.insn_completes_at henter ((formPair_body_of_some o fn row hr).trans (State.putPair_of_quiet o.ra hq)) rfl]

/-- Settles O10: the effect ends in a completing exception, after the result has been put. -/
theorem overflowTraps : Obligations.OverflowTraps := by
  unfold Obligations.OverflowTraps
  refine ⟨fun c x s s2 hrow henter ho hf => ⟨out_trapsWith3 s2 hrow ho, ?_⟩, fun c x r s s2 hrow henter hr ho hf => ⟨pair_cc_of_ovf hrow hr ho, ?_⟩⟩
  · have hruns := AluRow.runs_of_alu (hrow.imp_right .inl)
    rw [← s2.fom_past] at hf
    rw [hruns.exec, State.insn_ends_after henter ((hruns.body s2).trans (State.putAlu_of_trap x.ra ho hf)) hruns.unit]
  · obtain ⟨o, fn, row, f, rfl, hexec⟩ := pairRow_formPair hrow
    rw [← s2.fom_past] at hf
    rw [hexec, State.insn_ends_after henter ((formPair_body_of_some o fn row hr).trans (State.putPair_of_trap o.ra ho hf)) rfl]

/-! ## Comparisons and moves (R122, R166) -/

theorem ccCompare_eq (a b : Int) : ccCompare a b = compareRule a b := by
  unfold ccCompare compareRule
  split <;> split <;> grind

theorem cmpS_64 (b c : Dword) : cmpS 64 b c = compareRule b.toInt c.toInt := by rw [cmpS, sval_64, sval_64, ccCompare_eq]
theorem cmpU_64 (b c : Dword) : cmpU 64 b c = compareRule b.toNat c.toNat := by rw [cmpU, uval_64, uval_64, ccCompare_eq]

/-- What a comparison row says of its instruction. -/
theorem compareRow_runs {c : Instr} {x : Insn × Nat × (State → BitVec 2)} (h : compareRow c = some x) :
    (∀ s, exec c s = .next (s.insn x.1)) ∧ x.1.u = x.2.1 ∧
      ∀ s : State, x.1.body (s.past x.2.1) = .ok ((s.past x.2.1).setCc x.2.1 (x.2.2 s)) := by
  unfold compareRow at h
  split at h <;> cases h <;> refine ⟨fun _ => rfl, rfl, fun s => ?_⟩
  · simp only [insnCmp, formCmp, State.g_past, cmpS_64]
  · simp only [insnCmpw, formCmp, State.g_past, cmpS, ccCompare_eq]
  · simp only [insnCmpl, formCmp, State.g_past, cmpU_64]
  · simp only [insnCmplw, formCmp, State.g_past, cmpU, ccCompare_eq]
  · simp only [insnCmpi, formCmpImm, State.g_past, cmpS_64, toInt_simm]
  · simp only [insnCmpli, formCmpImm, State.g_past, cmpU_64, toNat_zimm]

/-- Clearing the upper half and the sign of a short operand leaves its low 31 bits. -/
theorem and_low_31 (v : Dword) : v &&& 0x7FFFFFFF = BitVec.ofNat 64 (v.toNat % 2 ^ 31) := by
  apply BitVec.eq_of_toNat_eq
  have hlt : v.toNat % 2 ^ 31 < 2 ^ 64 := by omega
  rw [BitVec.toNat_and, BitVec.toNat_ofNat, Nat.mod_eq_of_lt hlt]
  exact Nat.and_two_pow_sub_one_eq_mod v.toNat 31

@[simp] theorem State.f_past (s : State) (u : Nat) (r : BitVec 5) : (s.past u).f u r = s.f u r := by
  simp [State.f, Cpu.getF]

/-- What a move row says of its instruction. -/
theorem moveRow_runs {c : Instr} {x : Insn × Nat × (State → State)} (h : moveRow c = some x) :
    (∀ s, exec c s = .next (s.insn x.1)) ∧ x.1.u = x.2.1 ∧ ∀ s : State, x.1.body (s.past x.2.1) = .ok (x.2.2 (s.past x.2.1)) := by
  unfold moveRow at h
  split at h <;> cases h <;> refine ⟨fun _ => rfl, rfl, fun s => ?_⟩
  · rfl
  · rfl
  · rfl
  · simp only [insnFnegs, formMove, zext_eq]
  · simp only [insnFabss, formMove, and_low_31]
  · rfl
  · rfl

/-- Settles O8: each row's effect is its CC, or its move. -/
theorem compareAndMoveResults : Obligations.CompareAndMoveResults := by
  unfold Obligations.CompareAndMoveResults
  refine ⟨fun c x s s2 hrow henter => ?_, fun c x s s2 hrow henter => ?_⟩
  · obtain ⟨hexec, hu, hbody⟩ := compareRow_runs hrow
    rw [hexec, State.insn_completes_at henter (hbody s2) hu]
  · obtain ⟨hexec, hu, hbody⟩ := moveRow_runs hrow
    rw [hexec, State.insn_completes_at henter (hbody s2) hu]

end Sys2Proof.Machine
end

section
/-! SUPPORT. Loads, stores and atomics: what the instruction of a row does with an access that succeeds, and the statements about
their results (R135, R136, R143, R166). -/
namespace Sys2Proof.Machine
open Sys2Proof

/-! ## Loaded bytes -/

theorem beNat_lt (b : List Byte) : beNat b < 256 ^ b.length := by
  induction b with
  | nil => simp [beNat]
  | cons x r ih =>
    have hx : x.toNat * 256 ^ r.length ≤ 255 * 256 ^ r.length := Nat.mul_le_mul_right _ (by omega)
    rw [beNat, List.length_cons, Nat.pow_succ]
    omega

theorem sext_loaded {n : Nat} (b : List Byte) (hn : n ≤ 64) : sext n (loaded b) = (BitVec.ofNat n (beNat b)).signExtend 64 := by
  rw [sext_eq, loaded, BitVec.toNat_ofNat]
  congr 1
  apply BitVec.eq_of_toNat_eq
  rw [BitVec.toNat_ofNat, BitVec.toNat_ofNat, Nat.mod_mod_of_dvd _ (Nat.pow_dvd_pow 2 hn)]

/-- Bytes that fit n bits are not changed by zero extension. -/
theorem zext_loaded {n : Nat} {b : List Byte} (hn : n ≤ 64) (hb : 256 ^ b.length ≤ 2 ^ n) : zext n (loaded b) = BitVec.ofNat 64 (beNat b) := by
  have hlt : beNat b < 2 ^ n := Nat.lt_of_lt_of_le (beNat_lt b) hb
  rw [zext_eq, loaded, BitVec.toNat_ofNat, Nat.mod_eq_of_lt (Nat.lt_of_lt_of_le hlt (Nat.pow_le_pow_right (by decide) hn)), Nat.mod_eq_of_lt hlt]

/-! ## Loads -/

/-- The row x is about the command c of state s: an access that delivers n bytes leads to where the row puts them, and one that
does not ends the instruction. -/
structure LoadRow.Runs (x : LoadRow) (c : Instr) (s : State) : Prop where
  exec : exec c s = .next (s.insn x.insn)
  unit : x.insn.u = x.o.u
  body {s2 t : State} {b : List Byte}
    (h : (s2.past x.o.u).loadAt x.o.u (s2.g x.o.u x.o.rb + x.o.imm.signExtend 64) x.n .load = .ok (t, b)) (hb : b.length = x.n) :
    x.insn.body (s2.past x.o.u) = .ok (x.put t b)

theorem State.ea_past (s : State) (o : OpI) : (s.past o.u).ea o = s.g o.u o.rb + o.imm.signExtend 64 := by
  rw [State.ea, State.g_past, simm]

section
variable {c : Instr} {s : State} {o : OpI} {op n : Nat}

theorem formLoad_runs {ext : Dword → Dword} {val : List Byte → Dword} (hexec : exec c s = .next (s.insn (formLoad o op n ext)))
    (hval : ∀ b : List Byte, b.length = n → ext (loaded b) = val b) :
    LoadRow.Runs ⟨formLoad o op n ext, o, n, fun t b => t.setG o.u o.ra (val b)⟩ c s :=
  ⟨hexec, rfl, fun {s2 t b} h hb => by simp only [formLoad, State.ea_past, h, hval b hb]⟩

theorem formLoadF_runs (hexec : exec c s = .next (s.insn (formLoadF o op n))) :
    LoadRow.Runs ⟨formLoadF o op n, o, n, fun t b => t.setF o.u o.ra (BitVec.ofNat 64 (beNat b))⟩ c s :=
  ⟨hexec, rfl, fun {s2 t b} h _ => by simp only [formLoadF, State.ea_past, h, loaded]⟩

end

theorem loadRow_runs {c : Instr} {s : State} {x : LoadRow} (h : loadRow s c = some x) : x.Runs c s := by
  unfold loadRow at h
  split at h <;> cases h
  · exact formLoad_runs rfl fun b _ => sext_loaded b (by decide)
  · exact formLoad_runs rfl fun b hb => zext_loaded (by decide) (by rw [hb]; decide)
  · exact formLoad_runs rfl fun b _ => sext_loaded b (by decide)
  · exact formLoad_runs rfl fun b hb => zext_loaded (by decide) (by rw [hb]; decide)
  · exact formLoad_runs rfl fun b _ => sext_loaded b (by decide)
  · exact formLoad_runs rfl fun b hb => zext_loaded (by decide) (by rw [hb]; decide)
  · exact formLoad_runs rfl fun b _ => rfl
  · exact ⟨rfl, rfl, fun {s2 t b} h _ => by simp only [insnLq, State.ea_past, h, loaded, odd]⟩
  · exact formLoadF_runs rfl
  · exact formLoadF_runs rfl

/-- Settles O15: the row's instruction puts what the access delivers. -/
theorem loadResults : Obligations.LoadResults := by
  unfold Obligations.LoadResults
  intro c x s s2 t b hrow henter hload hb
  have hruns := loadRow_runs hrow
  rw [hruns.exec, State.insn_completes_at henter (hruns.body hload hb) hruns.unit]

/-! ## Stores -/

/-- What a store row says of its instruction: its effect is the access. -/
theorem storeRow_runs {c : Instr} {s : State} {x : StoreRow} (h : storeRow s c = some x) :
    exec c s = .next (s.insn x.insn) ∧ x.insn.u = x.o.u ∧ ∀ t : State, x.insn.body (t.past x.o.u) =
      (t.past x.o.u).storeAt x.o.u (t.g x.o.u x.o.rb + x.o.imm.signExtend 64) (x.data t) .store := by
  unfold storeRow at h
  split at h <;> cases h <;> refine ⟨rfl, rfl, fun t => ?_⟩
  · simp only [insnStb, formStore, State.ea_past, State.g_past]
  · simp only [insnSth, formStore, State.ea_past, State.g_past]
  · simp only [insnStw, formStore, State.ea_past, State.g_past]
  · simp only [insnStd, formStore, State.ea_past, State.g_past]
  · simp only [insnStq, State.ea_past, State.g_past, odd]
  · simp only [insnStfs, formStoreF, State.ea_past, State.f_past]
  · simp only [insnStfd, formStoreF, State.ea_past, State.f_past]

/-- Settles O16: the effect of the row's instruction is the access. -/
theorem storeResults : Obligations.StoreResults := by
  unfold Obligations.StoreResults
  intro c x s s2 t hrow henter hstore
  obtain ⟨hexec, hu, hbody⟩ := storeRow_runs hrow
  rw [hexec, State.insn_completes_at henter ((hbody s2).trans hstore) hu]

/-! ## Atomics -/

/-- The row x is about the command c of state s: an access that succeeds leaves what the row leaves. -/
structure AtomicRow.Runs (x : AtomicRow) (c : Instr) (s : State) : Prop where
  exec : exec c s = .next (s.insn x.insn)
  unit : x.insn.u = x.o.u
  body {s2 t : State} {old : List Byte}
    (h : (s2.past x.o.u).atomicAt x.o.u (s2.g x.o.u x.o.rb) x.n (x.stores s2) = .ok (t, old)) :
    x.insn.body (s2.past x.o.u) = .ok (x.leaves s2 old t)

/-- The sum that an addition stores, as a number (R143). -/
theorem toNat_loaded_add (b : List Byte) (v : Dword) : (loaded b + v).toNat = (beNat b + v.toNat) % 2 ^ 64 := by
  rw [loaded, BitVec.toNat_add, BitVec.toNat_ofNat, Nat.mod_add_mod]

theorem atomicRow_runs {c : Instr} {s : State} {x : AtomicRow} (h : atomicRow s c = some x) : x.Runs c s := by
  unfold atomicRow at h
  split at h <;> cases h
  · exact ⟨rfl, rfl, fun {s2 t old} h => by simp only [insnCsd, State.g_past, h, loaded]⟩
  · next o =>
    refine ⟨rfl, rfl, fun {s2 t old} h => ?_⟩
    have hpair (r : BitVec 5) : beBytes 8 (s2.g o.u r).toNat ++ beBytes 8 (s2.g o.u (r + 1)).toNat = s2.pairBytes o.u r := rfl
    simp only [insnCsq, State.g_past, odd, hpair, h, loaded]
  · refine ⟨rfl, rfl, fun {s2 t old} h => ?_⟩
    simp only [← toNat_loaded_add] at h
    simp only [insnFaad, State.g_past, h]
    rfl
  · refine ⟨rfl, rfl, fun {s2 t old} h => ?_⟩
    simp only [← toNat_loaded_add] at h
    simp only [insnFaaw, State.g_past, h, sext_loaded old (n := 32) (by decide)]
  · exact ⟨rfl, rfl, fun {s2 t old} h => by simp only [insnSwpd, State.g_past, h, loaded]⟩

/-- Settles O21: the row's instruction leaves what the row says of the bytes found. -/
theorem atomicResults : Obligations.AtomicResults := by
  unfold Obligations.AtomicResults
  intro c x s s2 t old hrow henter hatomic _
  have hruns := atomicRow_runs hrow
  rw [hruns.exec, State.insn_completes_at henter (hruns.body hatomic) hruns.unit]

end Sys2Proof.Machine
end

section
/-! SUPPORT. The floating-point instructions: each row's instruction ends as fpEnd says of the row's outcome, and the statement about
results, flags, enabled conditions and emulation (R155 to R176). -/
namespace Sys2Proof.Machine
open Sys2Proof

@[simp] theorem State.rmode_past (s : State) (u : Nat) (rm : BitVec 3) : (s.past u).rmode u rm = s.rmode u rm := by
  simp only [State.rmode, State.unit_past]
  rfl

@[simp] theorem State.subTrap_past (s : State) (u : Nat) : (s.past u).subTrap u = s.subTrap u := by
  simp only [State.subTrap, State.unit_past]
  rfl

@[simp] theorem State.getC_past (s : State) (u n : Nat) : ((s.past u).unit u).getC n = (s.unit u).getC n := by
  rw [State.unit_past]
  rfl

/-- The row x is about the command c: a full-profile instruction that ends as fpEnd says of the row's outcome (R159, R161). -/
structure FpRow.Runs (x : FpRow) (c : Instr) : Prop where
  exec (s : State) : exec c s = .next (s.insn x.insn)
  unit : x.insn.u = x.u
  full : x.insn.lacks = !(isCpu x.u)
  body (s : State) : ∃ k : FpCall, k.u = x.u ∧ x.insn.body (s.past x.u) = (s.past x.u).fpEnd k (x.out s) x.put

section
variable {c : Instr}

theorem formF2_runs {o : OpF} {f : Fmt} {fn row : Nat} {op : Fmt → Rmode → Bool → Dword → Dword → FEnd}
    (hexec : ∀ s, exec c s = .next (s.insn (formF2 o f fn row op))) :
    FpRow.Runs ⟨formF2 o f fn row op, o.u, fun s => op f (s.rmode o.u 0) (s.subTrap o.u) (s.f o.u o.rb) (s.f o.u o.rc),
      fun s v => s.setF o.u o.ra v⟩ c :=
  ⟨hexec, rfl, rfl, fun s => by simp only [formF2, State.rmode_past, State.subTrap_past, State.f_past]; exact ⟨_, rfl, rfl⟩⟩

theorem formF1_runs {o : OpF} {f : Fmt} {fn row : Nat} {rmOk : Bool} {op : Fmt → Rmode → Bool → Dword → FEnd}
    (hexec : ∀ s, exec c s = .next (s.insn (formF1 o f fn row rmOk op))) :
    FpRow.Runs ⟨formF1 o f fn row rmOk op, o.u, fun s => op f (s.rmode o.u (if rmOk then o.rm else 0)) (s.subTrap o.u) (s.f o.u o.rb),
      fun s v => s.setF o.u o.ra v⟩ c :=
  ⟨hexec, rfl, rfl, fun s => by simp only [formF1, State.rmode_past, State.subTrap_past, State.f_past]; exact ⟨_, rfl, rfl⟩⟩

theorem formFCmp_runs {o : OpF} {f : Fmt} {fn : Nat} {signalling : Bool}
    (hexec : ∀ s, exec c s = .next (s.insn (formFCmp o f fn signalling))) :
    FpRow.Runs ⟨formFCmp o f fn signalling, o.u, fun s => fpCmp f (s.subTrap o.u) signalling (s.f o.u o.rb) (s.f o.u o.rc), putCc o.u⟩ c :=
  ⟨hexec, rfl, rfl, fun s => by simp only [formFCmp, State.subTrap_past, State.f_past]; exact ⟨_, rfl, rfl⟩⟩

theorem formFma_runs {o : OpQ} {f : Fmt} {fn : Nat} {sub neg : Bool} (hexec : ∀ s, exec c s = .next (s.insn (formFma o f fn sub neg))) :
    FpRow.Runs ⟨formFma o f fn sub neg, o.u,
      fun s => fpFma f (s.rmode o.u 0) (s.subTrap o.u) sub neg (s.f o.u o.rb) (s.f o.u o.rc) (s.f o.u o.rd),
      fun s v => s.setF o.u o.ra v⟩ c :=
  ⟨hexec, rfl, rfl, fun s => by simp only [formFma, State.rmode_past, State.subTrap_past, State.f_past]; exact ⟨_, rfl, rfl⟩⟩

theorem formCvt_runs {o : OpF} {fn row fi fo : Nat} {read : State → Dword} {op : Rmode → Bool → Dword → FEnd} {write : State → Dword → State}
    (hexec : ∀ s, exec c s = .next (s.insn (formCvt o fn row fi fo read op write))) (hread : ∀ s : State, read (s.past o.u) = read s) :
    FpRow.Runs ⟨formCvt o fn row fi fo read op write, o.u, fun s => op (s.rmode o.u o.rm) (s.subTrap o.u) (read s), write⟩ c :=
  ⟨hexec, rfl, rfl, fun s => by simp only [formCvt, State.rmode_past, State.subTrap_past, hread]; exact ⟨_, rfl, rfl⟩⟩

end

theorem rdFb_past (o : OpF) (s : State) : rdFb o (s.past o.u) = rdFb o s := s.f_past _ _
theorem rdGb_past (o : OpF) (s : State) : rdGb o (s.past o.u) = rdGb o s := s.g_past _ _

theorem fpArithRow_runs {c : Instr} {x : FpRow} (h : fpArithRow c = some x) : x.Runs c := by
  unfold fpArithRow at h
  split at h <;> cases h
  · exact formF2_runs fun _ => rfl
  · exact formF2_runs fun _ => rfl
  · exact formF2_runs fun _ => rfl
  · exact formF2_runs fun _ => rfl
  · exact formF2_runs fun _ => rfl
  · exact formF2_runs fun _ => rfl
  · exact formF2_runs fun _ => rfl
  · exact formF2_runs fun _ => rfl
  · exact formF1_runs fun _ => rfl
  · exact formF1_runs fun _ => rfl
  · exact formF1_runs fun _ => rfl
  · exact formF1_runs fun _ => rfl

theorem fpFusedRow_runs {c : Instr} {x : FpRow} (h : fpFusedRow c = some x) : x.Runs c := by
  unfold fpFusedRow at h
  split at h <;> cases h
  · exact formFCmp_runs fun _ => rfl
  · exact formFCmp_runs fun _ => rfl
  · exact formFCmp_runs fun _ => rfl
  · exact formFCmp_runs fun _ => rfl
  · exact formFma_runs fun _ => rfl
  · exact formFma_runs fun _ => rfl
  · exact formFma_runs fun _ => rfl
  · exact formFma_runs fun _ => rfl
  · exact formFma_runs fun _ => rfl
  · exact formFma_runs fun _ => rfl
  · exact formFma_runs fun _ => rfl
  · exact formFma_runs fun _ => rfl

theorem fpConvertRow_runs {c : Instr} {x : FpRow} (h : fpConvertRow c = some x) : x.Runs c := by
  unfold fpConvertRow at h
  split at h <;> cases h
  · exact formCvt_runs (fun _ => rfl) (rdFb_past _)
  · exact formCvt_runs (fun _ => rfl) (rdFb_past _)
  · exact formCvt_runs (fun _ => rfl) (rdGb_past _)
  · exact formCvt_runs (fun _ => rfl) (rdGb_past _)
  · exact formCvt_runs (fun _ => rfl) (rdGb_past _)
  · exact formCvt_runs (fun _ => rfl) (rdGb_past _)
  · exact formCvt_runs (fun _ => rfl) (rdFb_past _)
  · exact formCvt_runs (fun _ => rfl) (rdFb_past _)
  · exact formCvt_runs (fun _ => rfl) (rdFb_past _)
  · exact formCvt_runs (fun _ => rfl) (rdFb_past _)

theorem FpRow.runs_of_row {c : Instr} {x : FpRow} (h : fpArithRow c = some x ∨ fpFusedRow c = some x ∨ fpConvertRow c = some x) :
    x.Runs c :=
  h.elim fpArithRow_runs fun h => h.elim fpFusedRow_runs fpConvertRow_runs

/-! ## How an instruction ends (R159, R161, R163) -/

section
variable {s : State} {k : FpCall} {v : Dword} {cond : Nat} {put : State → Dword → State}

theorem State.fpEnd_of_quiet (h : cond &&& fget ((s.unit k.u).getC 8) 8 5 = 0) :
    s.fpEnd k (.done v cond) put = .ok ((put s v).setFlags k.u cond) := by
  simp only [State.fpEnd, h, ↓reduceIte]

theorem State.fpEnd_of_suppressing (h : (cond &&& fget ((s.unit k.u).getC 8) 8 5) &&& (condInvalid + condDivZero) ≠ 0) :
    s.fpEnd k (.done v cond) put = .error (.stop (.exc { code := 0x0018, data := BitVec.ofNat 64 cond })) := by
  have hen : cond &&& fget ((s.unit k.u).getC 8) 8 5 ≠ 0 := fun h0 => h (by rw [h0, Nat.zero_and])
  simp only [State.fpEnd, if_neg hen, if_pos h]

theorem State.fpEnd_of_completing (hen : cond &&& fget ((s.unit k.u).getC 8) 8 5 ≠ 0)
    (h : (cond &&& fget ((s.unit k.u).getC 8) 8 5) &&& (condInvalid + condDivZero) = 0) :
    s.fpEnd k (.done v cond) put =
      .error (.after ((put s v).setFlags k.u cond) { code := 0x0018, data := BitVec.ofNat 64 cond }) := by
  simp only [State.fpEnd, if_neg hen, h, ne_eq, not_true_eq_false, ↓reduceIte]

/-- The emulation record of a trap holds 64 bytes, its cause in the fifth (R163). -/
theorem State.fpEnd_of_trap (s : State) (k : FpCall) (cause : Nat) (put : State → Dword → State) :
    ∃ rec : List Byte, rec.length = 64 ∧ rec.getD 4 0 = BitVec.ofNat 8 cause ∧
      s.fpEnd k (.trap cause) put = .error (.stop (.exc { code := 0x0019, fpRec := rec })) :=
  ⟨_, by simp [emulation, beBytes], by simp [emulation, beBytes], rfl⟩

end

/-- An instruction of the full profile alone enters on CPUs only. -/
theorem isCpu_of_enter {s s2 : State} {i : Insn} {u : Nat} (h : s.enter i = .ok s2) (hl : i.lacks = !(isCpu u)) : isCpu u = true := by
  obtain ⟨_, _, _, _, _, _, hcheck⟩ := State.enter_cases h
  rw [Insn.check, hl] at hcheck
  split at hcheck
  · cases hcheck
  · next hc => simpa using hc

/-- Settles O22: the row's instruction ends as fpEnd says, and on a CPU its interruption never waits. -/
theorem floatResults : Obligations.FloatResults := by
  unfold Obligations.FloatResults
  refine ⟨fun c x s s2 v cond hrow henter hout hen => ?_, fun c x s s2 hrow henter => ?_⟩
  · have hruns := FpRow.runs_of_row hrow
    obtain ⟨k, hk, hbody⟩ := hruns.body s2
    rw [← s2.getC_past, ← hk] at hen
    rw [hout, State.fpEnd_of_quiet (hk ▸ hen), hk] at hbody
    rw [hruns.exec, State.insn_completes_at henter hbody hruns.unit]
  · have hruns := FpRow.runs_of_row hrow
    have hcpu := isCpu_of_enter henter hruns.full
    obtain ⟨k, hk, hbody⟩ := hruns.body s2
    rw [hruns.exec]
    refine ⟨fun v cond hout hen => ?_, fun v cond hout hen h0 => ?_, fun cause hout => ?_⟩
    · rw [← s2.getC_past, ← hk] at hen
      rw [hout, State.fpEnd_of_suppressing (hk ▸ hen)] at hbody
      rw [State.insn_ends_exc henter hbody hruns.unit rfl rfl, State.orWaits_of_isCpu _ _ hcpu]
      rfl
    · rw [← s2.getC_past, ← hk] at hen h0
      rw [hout, State.fpEnd_of_completing (hk ▸ hen) (hk ▸ h0), hk] at hbody
      rw [State.insn_ends_after henter hbody hruns.unit, State.orWaits_of_isCpu _ _ hcpu]
    · obtain ⟨rec, hlen, hcause, hend⟩ := (s2.past x.u).fpEnd_of_trap k cause x.put
      rw [hout, hend] at hbody
      refine ⟨rec, hlen, hcause, ?_⟩
      rw [State.insn_ends_exc henter hbody hruns.unit rfl rfl, State.orWaits_of_isCpu _ _ hcpu]
      rfl

end Sys2Proof.Machine
end

section
/-! SUPPORT. The queue, time on an empty queue, the state after reset, and bytes read back from storage (R56, R92, R180, R276,
R510). -/
namespace Sys2Proof.Machine
open Sys2Proof

/-! ## One step -/

/-- Settles O1: it is the step's definition on a queue with a front. -/
theorem stepTakesFront : Obligations.StepTakesFront := by
  unfold Obligations.StepTakesFront
  intro c q s
  rfl

/-! ## Time -/

/-- The windows of thresholds end in registers alone (R459). -/
theorem State.windows_eq (s : State) (t d : Nat) : ∃ r, s.windows t d = { s with regs := r } := by
  rw [State.windows]
  generalize (s.regs.map (·.1)).filter (fun a => decide (rThr 0 ≤ a) && decide (a ≤ rThr 255)) = ks
  dsimp only
  suffices h : ∀ v : State, (∃ r, v = { s with regs := r }) → ∃ r, ks.foldl (fun u a =>
      if (t + d) / (max 1 (u.rf a 40 8) * 2 ^ 32) = t / (max 1 (u.rf a 40 8) * 2 ^ 32) ∧ t + d < 2 ^ 64 then u
      else u.setRf a 16 16 0) v = { s with regs := r } from h s ⟨s.regs, rfl⟩
  induction ks with
  | nil => exact fun v hv => hv
  | cons a ks ih =>
    rintro v ⟨r, rfl⟩
    rw [List.foldl_cons]
    apply ih
    split
    · exact ⟨_, rfl⟩
    · exact ⟨_, rfl⟩

/-- What passes with d units: time-of-day, and the time elapsed. -/
theorem State.passTod_eq (s : State) (d : Nat) :
    ∃ r, s.passTod d = { s with regs := r, tod := s.tod + BitVec.ofNat 64 d, elapsed := s.elapsed + d } := by
  obtain ⟨r, hr⟩ := s.windows_eq s.tod.toNat d
  exact ⟨r, by rw [State.passTod, hr]⟩

/-- The counters are copied into shadows and tags where no step or snapshot waits. -/
theorem State.copyCounters_eq {s : State} (h : s.todWait = []) :
    ∃ x y, s.copyCounters = { s with shadows := x, snapTaken := true, snapTags := y } := by
  simp only [State.copyCounters, h, State.runWaiting]
  exact ⟨_, _, by rw [← h]⟩

/-- d units pass where no step or snapshot waits: the capture of a pending snapshot on the way moves no clock. -/
theorem State.passUnits_eq {s : State} (d : Nat) (h : s.todWait = []) : ∃ r x y b, s.passUnits d =
    { s with regs := r, shadows := x, snapTaken := b, snapTags := y, tod := s.tod + BitVec.ofNat 64 d, elapsed := s.elapsed + d } := by
  have hplain : ∃ r x y b, s.passTod d = { s with
      regs := r, shadows := x, snapTaken := b, snapTags := y, tod := s.tod + BitVec.ofNat 64 d, elapsed := s.elapsed + d } := by
    obtain ⟨r, hr⟩ := s.passTod_eq d
    exact ⟨r, _, _, _, hr⟩
  unfold State.passUnits
  split
  · exact hplain
  · next tc _ =>
    dsimp only
    split
    · exact hplain
    · next hw =>
      have hle : (tc - s.tod).toNat ≤ d := Nat.le_of_not_lt fun h => hw (Bool.or_eq_true_iff.mpr (.inr (decide_eq_true h)))
      obtain ⟨r, hr⟩ := s.passTod_eq (tc - s.tod).toNat
      obtain ⟨x, y, hc⟩ := State.copyCounters_eq (s := s.passTod (tc - s.tod).toNat) (by rw [hr]; exact h)
      obtain ⟨r2, hr2⟩ := (s.passTod (tc - s.tod).toNat).copyCounters.passTod_eq (d - (tc - s.tod).toNat)
      refine ⟨r2, x, y, true, ?_⟩
      rw [hr2, hc, hr]
      dsimp only
      rw [BitVec.add_assoc, ← BitVec.ofNat_add, Nat.add_assoc, Nat.add_sub_cancel' hle]

/-- Settles O2: 8 units pass, and the adjusted rate adds nothing to them. -/
theorem idleStepTicks : Obligations.IdleStepTicks := by
  unfold Obligations.IdleStepTicks
  intro s hq
  have hstep : step s = .next s.tick := by rw [step, hq]
  refine ⟨fun hp => by rw [hstep, State.tick, hp]; rfl, fun hp hrate hfrac hwait => ?_⟩
  obtain ⟨r, x, y, b, hpass⟩ := State.passUnits_eq (s := { s with todFrac := 0 }) 8 hwait
  have htick : s.tick = ({ s with todFrac := 0 } : State).passUnits 8 := by
    simp only [State.tick, hp, if_true, State.advance, State.todRate, hrate, hfrac]
    rfl
  refine ⟨_, hstep, ?_⟩
  rw [htick, hpass]
  exact ⟨rfl, rfl, rfl, rfl, rfl⟩

/-! ## The state after reset -/

/-- Settles O3: after reset nothing is stored, and the fuse rows are those of the modelled part. -/
theorem resetMeetsInvariant : Obligations.ResetMeetsInvariant := by
  refine ⟨rfl, rfl, rfl, rfl, ⟨?_, .inl (by decide)⟩, fun x y h => ?_⟩
  · decide
  · cases h

/-- The L2 cache of every core is enabled after reset (R276). -/
theorem reset_l2On (k : Fin 208) : State.reset.l2On k = true := by
  have hall : ∀ (d : Fin 8) (i : Fin 26), State.reset.l2On (26 * d + i) = true := by decide
  have hk := hall ⟨k / 26, by omega⟩ ⟨k % 26, by omega⟩
  rwa [Nat.div_add_mod] at hk

/-- Settles O6: the state after reset holds each value. -/
theorem resetState : Obligations.ResetState := by
  refine ⟨fun u r => ⟨rfl, rfl, rfl, rfl, rfl, rfl, (by decide : Cpu.reset.checked = true), rfl, rfl⟩, reset_l2On, by decide, rfl, rfl, by decide, rfl, fun a => rfl⟩

/-! ## Bytes read back -/

theorem Memory.read_writeN_of_lt (m : List Host.Cell) {a x : Nat} (b : List Byte) (h : x < a) :
    Memory.read (Memory.writeN m a b) x = Memory.read m x := by
  induction b generalizing m a with
  | nil => rfl
  | cons v b ih => rw [Memory.writeN, ih _ (Nat.lt_succ_of_lt h), Memory.read_write_other _ _ (Nat.ne_of_lt h)]

theorem Memory.read_writeN_of_ge (m : List Host.Cell) {a x : Nat} (b : List Byte) (h : a + b.length ≤ x) :
    Memory.read (Memory.writeN m a b) x = Memory.read m x := by
  induction b generalizing m a with
  | nil => rfl
  | cons v b ih =>
    rw [List.length_cons] at h
    rw [Memory.writeN, ih _ (by omega), Memory.read_write_other _ _ (by omega)]

theorem Memory.readN_writeN (m : List Host.Cell) (a : Nat) (b : List Byte) : Memory.readN (Memory.writeN m a b) a b.length = b := by
  induction b generalizing m a with
  | nil => rfl
  | cons v b ih =>
    rw [Memory.writeN, List.length_cons, Memory.readN, ih, Memory.read_writeN_of_lt _ _ (Nat.lt_succ_self a), Memory.read_write_same]

/-- Settles O17: bytes put are written one after another, each at its own address. -/
theorem storageReadBack : Obligations.StorageReadBack := by
  unfold Obligations.StorageReadBack
  intro s a b
  exact ⟨Memory.readN_writeN s.mem a b, fun x hx => hx.elim (Memory.read_writeN_of_lt s.mem b) (Memory.read_writeN_of_ge s.mem b)⟩

end Sys2Proof.Machine
end

section
/-! SUPPORT. Instructions that change their own unit alone: what such a change leaves as it was, and the statements about integer
instructions, branches, comparisons, moves and floating point (R83, R119 to R138, R155, R166). -/
namespace Sys2Proof.Machine
open Sys2Proof

/-- From s to t nothing has changed but unit u, which t has as c, and what lies within the executing units' reach alone. -/
structure State.Local (s t : State) (u : Nat) (c : Cpu) : Prop where
  outside : s.sameOutside t u
  elapsed : t.elapsed = s.elapsed
  unit : t.unit u = c

namespace State.Local

variable {s t : State} {u : Nat} {c : Cpu}

theorem refl (s : State) (u : Nat) : s.Local s u (s.unit u) := ⟨⟨rfl, rfl, rfl, rfl, fun _ _ => rfl⟩, rfl, rfl⟩

theorem modUnit (h : s.Local t u c) (f : Cpu → Cpu) : s.Local (t.modUnit u f) u (f c) := by
  obtain ⟨⟨hmem, hdram, hws, hregs, hothers⟩, helapsed, rfl⟩ := h
  exact ⟨⟨hmem, hdram, hws, hregs, fun v hv => (t.unit_modUnit_other f hv).trans (hothers v hv)⟩, helapsed, t.unit_modUnit_same u f⟩

theorem past (s : State) (u : Nat) : s.Local (s.past u) u ((s.unit u).setIa ((s.psw u).ia + 4)) :=
  (refl s u).modUnit (·.setIa _)

theorem setIa (h : s.Local t u c) (a : Dword) : s.Local (t.setIa u a) u (c.setIa a) := h.modUnit (·.setIa a)
theorem setCc (h : s.Local t u c) (cc : BitVec 2) : s.Local (t.setCc u cc) u (c.setCc cc) := h.modUnit (·.setCc cc)
theorem setG (h : s.Local t u c) (r : BitVec 5) (v : Dword) : s.Local (t.setG u r v) u (c.setG r v) := h.modUnit (·.setG r v)
theorem setF (h : s.Local t u c) (r : BitVec 5) (v : Dword) : s.Local (t.setF u r v) u (c.setF r v) := h.modUnit (·.setF r v)

theorem g (h : s.Local t u c) (r : BitVec 5) : t.g u r = c.getG r := by rw [State.g, h.unit]
theorem f (h : s.Local t u c) (r : BitVec 5) : t.f u r = c.getF r := by rw [State.f, h.unit]
theorem psw (h : s.Local t u c) : t.psw u = c.psw := by rw [State.psw, h.unit]
theorem rs (h : s.Local t u c) : (t.unit u).rs = c.rs := by rw [h.unit]

/-- A control register reads as before where the unit holds the same value and the same return stack. -/
theorem readC (h : s.Local t u c) {n : Nat} (hc : c.getC n = (s.unit u).getC n) (hrs : c.rs = (s.unit u).rs) :
    t.readC u n = s.readC u n := by
  have htimer (v : Dword) : timerOf t v = timerOf s v := by rw [timerOf, timerOf, h.elapsed]
  simp only [State.readC, h.unit, htimer, hrs]
  split
  · next h4 => rw [← h4, hc]
  · rw [hc]

end State.Local

/-- In no region and no retry nothing follows the effect. -/
theorem State.finish_of_calm {s t : State} {u : Nat} (hregion : (s.unit u).region = none) (hretries : (t.unit u).retries = 0) :
    s.finish u t = t := by
  simp [State.finish, State.confirm, hregion, hretries]

/-! ## Control registers held by a unit -/

section
variable (c : Cpu) (n : Nat) (v : Dword)

/-- A control register is in one of three banks; nothing else of the unit changes. -/
theorem Cpu.setC_eq : ∃ hi img host, c.setC n v = { c with hiC := hi, imgC := img, hostC := host } := by
  unfold Cpu.setC
  split
  · exact ⟨_, _, _, rfl⟩
  · split
    · exact ⟨_, _, _, rfl⟩
    · exact ⟨_, _, _, rfl⟩

@[simp] theorem Cpu.setC_g : (c.setC n v).g = c.g := by obtain ⟨hi, img, host, h⟩ := c.setC_eq n v; rw [h]
@[simp] theorem Cpu.setC_f : (c.setC n v).f = c.f := by obtain ⟨hi, img, host, h⟩ := c.setC_eq n v; rw [h]
@[simp] theorem Cpu.setC_psw : (c.setC n v).psw = c.psw := by obtain ⟨hi, img, host, h⟩ := c.setC_eq n v; rw [h]
@[simp] theorem Cpu.setC_hostRs : (c.setC n v).hostRs = c.hostRs := by obtain ⟨hi, img, host, h⟩ := c.setC_eq n v; rw [h]
@[simp] theorem Cpu.setC_imgRs : (c.setC n v).imgRs = c.imgRs := by obtain ⟨hi, img, host, h⟩ := c.setC_eq n v; rw [h]
@[simp] theorem Cpu.setC_region : (c.setC n v).region = c.region := by obtain ⟨hi, img, host, h⟩ := c.setC_eq n v; rw [h]
@[simp] theorem Cpu.setC_irun : (c.setC n v).irun = c.irun := by obtain ⟨hi, img, host, h⟩ := c.setC_eq n v; rw [h]
@[simp] theorem Cpu.setC_retries : (c.setC n v).retries = c.retries := by obtain ⟨hi, img, host, h⟩ := c.setC_eq n v; rw [h]
@[simp] theorem Cpu.setC_inImage : (c.setC n v).inImage = c.inImage := by rw [Cpu.inImage, Cpu.setC_irun, Cpu.inImage]
@[simp] theorem Cpu.setC_rs : (c.setC n v).rs = c.rs := by simp [Cpu.rs]

@[simp] theorem Cpu.getC_setC_same : (c.setC n v).getC n = v := by
  rw [Cpu.getC, Cpu.setC_inImage]
  unfold Cpu.setC
  split
  · exact sget_sput_same _ _ _ _
  · split
    · exact sget_sput_same _ _ _ _
    · exact sget_sput_same _ _ _ _

theorem Cpu.getC_setC_other {m : Nat} (h : m ≠ n) : (c.setC n v).getC m = c.getC m := by
  rw [Cpu.getC, Cpu.setC_inImage, Cpu.getC, Cpu.setC]
  by_cases hn : 32 ≤ n
  · simp only [if_pos hn, sget_sput_other _ _ _ h]
  · by_cases hi : c.inImage = true
    · simp only [if_neg hn, if_pos hi, sget_sput_other _ _ _ h]
    · simp only [if_neg hn, if_neg hi, sget_sput_other _ _ _ h]

end

/-! ## Integer instructions -/

/-- A result and its CC in a unit's registers. -/
def Cpu.withAlu (c : Cpu) (ra : BitVec 5) (x : AluOut) : Cpu :=
  match x.cc with
  | some cc => (c.setG ra x.val).setCc cc
  | none => c.setG ra x.val

theorem State.Local.withAlu {s t : State} {u : Nat} {c : Cpu} (h : s.Local t u c) (ra : BitVec 5) (x : AluOut) :
    s.Local (t.withAlu u ra x) u (c.withAlu ra x) := by
  obtain ⟨v, cc | cc, ovf⟩ := x
  · exact h.setG ra v
  · exact (h.setG ra v).setCc cc

section
variable (c : Cpu) (ra : BitVec 5) (x : AluOut)

/-- The unit but for its general registers and PSW stays as it was. -/
theorem Cpu.withAlu_rest : (c.withAlu ra x).f = c.f ∧ (∀ n, (c.withAlu ra x).getC n = c.getC n) ∧ (c.withAlu ra x).rs = c.rs ∧
    (c.withAlu ra x).retries = c.retries ∧ (c.withAlu ra x).psw = { c.psw with cc := (c.withAlu ra x).psw.cc } := by
  unfold Cpu.withAlu
  split
  · exact ⟨rfl, fun _ => rfl, rfl, rfl, rfl⟩
  · exact ⟨rfl, fun _ => rfl, rfl, rfl, rfl⟩

theorem Cpu.withAlu_getG (r : BitVec 5) : (c.withAlu ra x).getG r = (c.setG ra x.val).getG r := by
  unfold Cpu.withAlu
  split <;> rfl

theorem Cpu.withAlu_cc_of_none (h : x.cc = none) : (c.withAlu ra x).psw.cc = c.psw.cc := by
  simp only [Cpu.withAlu, h, Cpu.setG]

end

/-- Settles O23: the instruction changes its unit alone, and there one register, IA and the CC. -/
theorem integerFrame : Obligations.IntegerFrame := by
  unfold Obligations.IntegerFrame
  intro c x s s2 hrow henter hregion hretries hq
  have hruns : x.Runs c := by
    rcases hrow with h | h | h | h | h
    · exact aluRow_runs h
    · exact immRow_runs h
    · exact shiftRow_runs h
    · exact shiftImmRow_runs h
    · exact checkRow_runs h
  have hlocal := (State.Local.past s2 x.u).withAlu x.ra (x.out s2)
  obtain ⟨hf, hctl, hrs, hret, hpsw⟩ := ((s2.unit x.u).setIa ((s2.psw x.u).ia + 4)).withAlu_rest x.ra (x.out s2)
  obtain ⟨hmem, hdram, hws, hregs, hothers⟩ := hlocal.outside
  refine ⟨_, (hruns.completes henter hq).trans (congrArg _ (State.finish_of_calm hregion ?_)), ?_, fun r hr => ?_, hmem, hdram, hws,
    hregs, hothers, fun r => ?_, fun n => hlocal.readC (hctl n) hrs, hlocal.rs.trans hrs, ?_, fun hcc => ?_⟩
  · rw [hlocal.unit, hret]; exact hretries
  · rw [hlocal.g, Cpu.withAlu_getG, Cpu.getG_setG_same]
  · rw [hlocal.g, Cpu.withAlu_getG, Cpu.getG_setG_other _ _ hr]; rfl
  · rw [hlocal.f, Cpu.getF, hf]; rfl
  · rw [hlocal.psw, hpsw]; rfl
  · rw [hlocal.psw, Cpu.withAlu_cc_of_none _ _ _ hcc]; rfl

/-! ## Branches, comparisons, moves and floating point -/

section
variable {c : Instr} {s s2 : State}

/-- A branch changes IA alone. -/
theorem branch_frame {x : BranchRow} (hrow : branchRow s c = some x) (henter : s.enter x.insn = .ok s2)
    (hregion : (s2.unit x.u).region = none) (hretries : (s2.unit x.u).retries = 0) :
    ∃ t a, exec c s = .next t ∧ s2.Local t x.u ((s2.unit x.u).setIa a) := by
  have hdone := branchResults c x s s2 hrow henter
  have hpast := State.Local.past s2 x.u
  split at hdone
  · have hlocal := hpast.setIa (x.target s2)
    exact ⟨_, x.target s2, hdone.trans (congrArg _ (State.finish_of_calm hregion (by rw [hlocal.unit]; exact hretries))), hlocal⟩
  · exact ⟨_, _, hdone.trans (congrArg _ (State.finish_of_calm hregion (by rw [hpast.unit]; exact hretries))), hpast⟩

/-- A comparison changes IA and the CC alone. -/
theorem compare_frame {x : Insn × Nat × (State → BitVec 2)} (hrow : compareRow c = some x) (henter : s.enter x.1 = .ok s2)
    (hregion : (s2.unit x.2.1).region = none) (hretries : (s2.unit x.2.1).retries = 0) :
    ∃ t, exec c s = .next t ∧
      s2.Local t x.2.1 (((s2.unit x.2.1).setIa ((s2.psw x.2.1).ia + 4)).setCc (x.2.2 s2)) := by
  have hlocal := (State.Local.past s2 x.2.1).setCc (x.2.2 s2)
  exact ⟨_, (compareAndMoveResults.1 c x s s2 hrow henter).trans
    (congrArg _ (State.finish_of_calm hregion (by rw [hlocal.unit]; exact hretries))), hlocal⟩

end

/-- A general or floating register written: what a move, a load or a floating-point result does to its unit. -/
inductive RegPut
  | gpr (r : BitVec 5) (v : Dword)
  | fpr (r : BitVec 5) (v : Dword)
  | cc (v : BitVec 2)

def RegPut.cpu : RegPut → Cpu → Cpu
  | .gpr r v, c => c.setG r v
  | .fpr r v, c => c.setF r v
  | .cc v, c => c.setCc v

def RegPut.state (p : RegPut) (u : Nat) (s : State) : State := s.modUnit u p.cpu

section
variable (p : RegPut) (c : Cpu) (a : Dword)

theorem RegPut.setIa_comm : p.cpu (c.setIa a) = (p.cpu c).setIa a := by cases p <;> rfl
theorem RegPut.getC (n : Nat) : (p.cpu c).getC n = c.getC n := by cases p <;> rfl
theorem RegPut.rs : (p.cpu c).rs = c.rs := by cases p <;> rfl
theorem RegPut.retries : (p.cpu c).retries = c.retries := by cases p <;> rfl
theorem RegPut.psw : (p.cpu c).psw = { c.psw with cc := (p.cpu c).psw.cc } := by cases p <;> rfl

end

/-- A move puts one register. -/
theorem moveRow_puts {c : Instr} {x : Insn × Nat × (State → State)} (h : moveRow c = some x) (s : State) :
    ∃ p : RegPut, (∀ cc, p ≠ .cc cc) ∧ x.2.2 s = p.state x.2.1 s ∧ x.2.2 (s.past x.2.1) = p.state x.2.1 (s.past x.2.1) := by
  unfold moveRow at h
  split at h <;> cases h
  case _ o => exact ⟨.fpr o.ra _, by simp, rfl, by simp only [State.f_past]; rfl⟩
  case _ o => exact ⟨.fpr o.ra _, by simp, rfl, by simp only [State.f_past]; rfl⟩
  case _ o => exact ⟨.fpr o.ra _, by simp, rfl, by simp only [State.f_past]; rfl⟩
  case _ o => exact ⟨.fpr o.ra _, by simp, rfl, by simp only [State.f_past]; rfl⟩
  case _ o => exact ⟨.fpr o.ra _, by simp, rfl, by simp only [State.f_past]; rfl⟩
  case _ o => exact ⟨.gpr o.ra _, by simp, rfl, by simp only [State.f_past]; rfl⟩
  case _ o => exact ⟨.fpr o.ra _, by simp, rfl, by simp only [State.g_past]; rfl⟩

/-- A floating-point instruction puts one register or the CC. -/
theorem fpRow_puts {c : Instr} {x : FpRow} (h : fpArithRow c = some x ∨ fpFusedRow c = some x ∨ fpConvertRow c = some x) (v : Dword) :
    ∃ p : RegPut, ∀ s : State, x.put s v = p.state x.u s := by
  rcases h with h | h | h
  · unfold fpArithRow at h
    split at h <;> cases h <;> exact ⟨.fpr _ v, fun _ => rfl⟩
  · unfold fpFusedRow at h
    split at h <;> cases h
    · exact ⟨.cc _, fun _ => rfl⟩
    · exact ⟨.cc _, fun _ => rfl⟩
    · exact ⟨.cc _, fun _ => rfl⟩
    · exact ⟨.cc _, fun _ => rfl⟩
    · exact ⟨.fpr _ v, fun _ => rfl⟩
    · exact ⟨.fpr _ v, fun _ => rfl⟩
    · exact ⟨.fpr _ v, fun _ => rfl⟩
    · exact ⟨.fpr _ v, fun _ => rfl⟩
    · exact ⟨.fpr _ v, fun _ => rfl⟩
    · exact ⟨.fpr _ v, fun _ => rfl⟩
    · exact ⟨.fpr _ v, fun _ => rfl⟩
    · exact ⟨.fpr _ v, fun _ => rfl⟩
  · unfold fpConvertRow at h
    split at h <;> cases h
    · exact ⟨.fpr _ v, fun _ => rfl⟩
    · exact ⟨.fpr _ v, fun _ => rfl⟩
    · exact ⟨.fpr _ v, fun _ => rfl⟩
    · exact ⟨.fpr _ v, fun _ => rfl⟩
    · exact ⟨.fpr _ v, fun _ => rfl⟩
    · exact ⟨.fpr _ v, fun _ => rfl⟩
    · exact ⟨.gpr _ v, fun _ => rfl⟩
    · exact ⟨.gpr _ v, fun _ => rfl⟩
    · exact ⟨.gpr _ v, fun _ => rfl⟩
    · exact ⟨.gpr _ v, fun _ => rfl⟩

section
variable (p : RegPut) (s : State) (u : Nat)

@[simp] theorem RegPut.unit_state : (p.state u s).unit u = p.cpu (s.unit u) := s.unit_modUnit_same u _

/-- IA does not matter to what is put in the registers. -/
theorem RegPut.regs_setIa (c : Cpu) (a : Dword) (r : BitVec 5) :
    (p.cpu (c.setIa a)).getG r = (p.cpu c).getG r ∧ (p.cpu (c.setIa a)).getF r = (p.cpu c).getF r := by
  rw [p.setIa_comm]
  exact ⟨rfl, rfl⟩

/-- The flags of conditions set in a unit's c8. -/
def Cpu.withFlags (c : Cpu) (cond : Nat) : Cpu := if cond = 0 then c else c.setC 8 (c.getC 8 ||| BitVec.ofNat 64 cond)

theorem State.Local.setFlags {s t : State} {u : Nat} {c : Cpu} (h : s.Local t u c) (cond : Nat) :
    s.Local (t.setFlags u cond) u (c.withFlags cond) := by
  unfold State.setFlags Cpu.withFlags
  split
  · exact h
  · exact h.modUnit fun c => c.setC 8 (c.getC 8 ||| BitVec.ofNat 64 cond)

/-- Flags change c8 alone. -/
theorem Cpu.withFlags_rest (c : Cpu) (cond : Nat) : (c.withFlags cond).g = c.g ∧ (c.withFlags cond).f = c.f ∧
    (c.withFlags cond).psw = c.psw ∧ (c.withFlags cond).rs = c.rs ∧ (c.withFlags cond).retries = c.retries ∧
    ∀ n, n ≠ 8 → (c.withFlags cond).getC n = c.getC n := by
  unfold Cpu.withFlags
  split
  · exact ⟨rfl, rfl, rfl, rfl, rfl, fun _ _ => rfl⟩
  · exact ⟨c.setC_g .., c.setC_f .., c.setC_psw .., c.setC_rs .., c.setC_retries .., fun n hn => c.getC_setC_other _ _ hn⟩

theorem State.Local.put {t : State} {c : Cpu} (h : s.Local t u c) : s.Local (p.state u t) u (p.cpu c) := h.modUnit p.cpu

end

/-- A put leaves as they were the control registers, the return stack and the PSW but for the CC; a move also the CC. -/
theorem move_frame {c : Instr} {s s2 : State} {x : Insn × Nat × (State → State)} (hrow : moveRow c = some x)
    (henter : s.enter x.1 = .ok s2) (hregion : (s2.unit x.2.1).region = none) (hretries : (s2.unit x.2.1).retries = 0) :
    ∃ t, exec c s = .next t ∧ s2.sameOutside t x.2.1 ∧
      (∀ r, t.g x.2.1 r = (x.2.2 s2).g x.2.1 r ∧ t.f x.2.1 r = (x.2.2 s2).f x.2.1 r) ∧ (∀ n, t.readC x.2.1 n = s2.readC x.2.1 n) ∧
      (t.unit x.2.1).rs = (s2.unit x.2.1).rs ∧ t.psw x.2.1 = { s2.psw x.2.1 with ia := (s2.psw x.2.1).ia + 4 } := by
  obtain ⟨p, hp, hput, hputp⟩ := moveRow_puts hrow s2
  have hlocal := (State.Local.past s2 x.2.1).put p
  have hpsw : ∀ c : Cpu, (p.cpu c).psw = c.psw := by
    cases p with
    | cc v => exact absurd rfl (hp v)
    | gpr r v => exact fun _ => rfl
    | fpr r v => exact fun _ => rfl
  have hdone := compareAndMoveResults.2 c x s s2 hrow henter
  rw [hputp, State.finish_of_calm hregion (by rw [hlocal.unit, p.retries]; exact hretries)] at hdone
  refine ⟨_, hdone, hlocal.outside, fun r => ?_, fun n => hlocal.readC (p.getC _ n) (p.rs _), hlocal.rs.trans (p.rs _), ?_⟩
  · rw [hput, hlocal.g, hlocal.f, State.g, State.f, p.unit_state]
    exact p.regs_setIa _ _ r
  · rw [hlocal.psw, hpsw]; rfl

/-- Flags change c8 alone. -/
theorem fp_frame {c : Instr} {s s2 : State} {x : FpRow} {v : Dword} {cond : Nat}
    (hrow : fpArithRow c = some x ∨ fpFusedRow c = some x ∨ fpConvertRow c = some x) (henter : s.enter x.insn = .ok s2)
    (hregion : (s2.unit x.u).region = none) (hretries : (s2.unit x.u).retries = 0) (hout : x.out s2 = .done v cond)
    (hen : cond &&& fget ((s2.unit x.u).getC 8) 8 5 = 0) :
    ∃ t, exec c s = .next t ∧ s2.sameOutside t x.u ∧
      (∀ r, t.g x.u r = (x.put s2 v).g x.u r ∧ t.f x.u r = (x.put s2 v).f x.u r) ∧ (∀ n, n ≠ 8 → t.readC x.u n = s2.readC x.u n) ∧
      (t.unit x.u).rs = (s2.unit x.u).rs ∧
      t.psw x.u = { s2.psw x.u with ia := (s2.psw x.u).ia + 4, cc := ((x.put s2 v).psw x.u).cc } := by
  obtain ⟨p, hput⟩ := fpRow_puts hrow v
  have hdone := floatResults.1 c x s s2 v cond hrow henter hout hen
  have hlocal := ((State.Local.past s2 x.u).put p).setFlags cond
  obtain ⟨hg, hf, hpsw, hrs, hret, hctl⟩ := (p.cpu ((s2.unit x.u).setIa ((s2.psw x.u).ia + 4))).withFlags_rest cond
  rw [hput, State.finish_of_calm hregion (by rw [hlocal.unit, hret, p.retries]; exact hretries)] at hdone
  refine ⟨_, hdone, hlocal.outside, fun r => ?_, fun n hn => hlocal.readC ((hctl n hn).trans (p.getC _ n)) (hrs.trans (p.rs _)),
    hlocal.rs.trans (hrs.trans (p.rs _)), ?_⟩
  · rw [hput, hlocal.g, hlocal.f, State.g, State.f, p.unit_state, Cpu.getG, Cpu.getF, hg, hf]
    exact p.regs_setIa _ _ r
  · rw [hput, hlocal.psw, show (p.state x.u s2).psw x.u = (p.cpu (s2.unit x.u)).psw by rw [State.psw, p.unit_state], hpsw, p.setIa_comm, Cpu.setIa, p.psw]
    rfl

end Sys2Proof.Machine
end

section
/-! SUPPORT. Bit fields as numbers, what a field reads after a field has been set, bytes and their values (R9); then the PSW's layout, and
the statement about its encoding (R57, R58). -/
namespace Sys2Proof.Machine
open Sys2Proof

/-! ## Bit fields -/

theorem fget_eq (v : Dword) (lo w : Nat) : fget v lo w = v.toNat / 2 ^ lo % 2 ^ w := by rw [fget, Nat.shiftRight_eq_div_pow]

theorem bit_eq (v : Dword) (i : Nat) : bit v i = decide (v.toNat / 2 ^ i % 2 = 1) := by
  rw [bit, BitVec.getLsbD, Nat.testBit_eq_decide_div_mod_eq]

theorem toNat_bit (v : Dword) (i : Nat) : (bit v i).toNat = v.toNat / 2 ^ i % 2 := by
  rw [bit_eq]
  rcases Nat.mod_two_eq_zero_or_one (v.toNat / 2 ^ i) with h | h <;> rw [h] <;> rfl

/-- The bits of a doubleword with a field set. -/
theorem getLsbD_fset (v : Dword) (lo w n i : Nat) (h : lo + w ≤ 64) :
    (fset v lo w n).getLsbD i = if lo ≤ i ∧ i < lo + w then n.testBit (i - lo) else v.getLsbD i := by
  simp only [fset, BitVec.getLsbD_or, BitVec.getLsbD_and, BitVec.getLsbD_not, BitVec.getLsbD_ofNat, Nat.testBit_shiftLeft,
    Nat.testBit_two_pow_sub_one, Nat.testBit_mod_two_pow]
  by_cases hi : i < 64
  · by_cases hlo : lo ≤ i
    · by_cases hw : i < lo + w
      · simp [hi, hlo, hw, show i - lo < w by omega]
      · simp [hi, hlo, hw, show ¬ i - lo < w by omega]
    · simp [hi, hlo]
  · rw [BitVec.getLsbD_of_ge _ _ (by omega)]
    simp [hi]
    omega

theorem testBit_fget (v : Dword) (lo w i : Nat) : (fget v lo w).testBit i = (decide (i < w) && v.getLsbD (lo + i)) := by
  rw [fget, Nat.testBit_mod_two_pow, Nat.testBit_shiftRight, BitVec.getLsbD]

/-- A field reads as what it has been set to. -/
theorem fget_fset_same (v : Dword) {lo w : Nat} (n : Nat) (h : lo + w ≤ 64) : fget (fset v lo w n) lo w = n % 2 ^ w := by
  apply Nat.eq_of_testBit_eq
  intro i
  rw [testBit_fget, getLsbD_fset v lo w n _ h, Nat.testBit_mod_two_pow]
  by_cases hi : i < w
  · simp [hi]
  · simp [hi]

/-- A field apart from the one set reads as before. -/
theorem fget_fset_other (v : Dword) {lo w a b : Nat} (n : Nat) (h : lo + w ≤ 64) (hd : a + b ≤ lo ∨ lo + w ≤ a) :
    fget (fset v lo w n) a b = fget v a b := by
  apply Nat.eq_of_testBit_eq
  intro i
  rw [testBit_fget, testBit_fget, getLsbD_fset v lo w n _ h]
  by_cases hi : i < b
  · rw [if_neg (by omega)]
  · simp [hi]

theorem bit_fset_other (v : Dword) {lo w i : Nat} (n : Nat) (h : lo + w ≤ 64) (hd : i < lo ∨ lo + w ≤ i) :
    bit (fset v lo w n) i = bit v i := by
  rw [bit, getLsbD_fset v lo w n i h, if_neg (by omega), bit]

theorem bit_setBit_same (v : Dword) {i : Nat} (b : Bool) (h : i < 64) : bit (setBit v i b) i = b := by
  rw [bit, setBit, getLsbD_fset v i 1 _ i h, if_pos ⟨Nat.le_refl i, Nat.lt_succ_self i⟩, Nat.sub_self]
  cases b <;> rfl

theorem bit_setBit_other (v : Dword) {i j : Nat} (b : Bool) (h : i < 64) (hd : j ≠ i) : bit (setBit v i b) j = bit v j :=
  bit_fset_other v _ h (by omega)

theorem fget_lt (v : Dword) (lo w : Nat) : fget v lo w < 2 ^ w := Nat.mod_lt _ (Nat.two_pow_pos w)

/-- A one-bit field is its bit. -/
theorem fget_one (v : Dword) (i : Nat) : fget v i 1 = (bit v i).toNat := by rw [toNat_bit, fget_eq, Nat.pow_one]

/-! ## Bytes -/

@[simp] theorem length_beBytes (n v : Nat) : (beBytes n v).length = n := by
  induction n with
  | zero => rfl
  | succ n ih => rw [beBytes, List.length_cons, ih]

theorem beNat_beBytes (n v : Nat) : beNat (beBytes n v) = v % 256 ^ n := by
  induction n with
  | zero => simp [beBytes, beNat, Nat.mod_one]
  | succ n ih =>
    rw [beBytes, beNat, ih, length_beBytes, BitVec.toNat_ofNat, Nat.pow_succ 256 n, Nat.mod_mul (a := 256 ^ n) (b := 256),
      Nat.mul_comm, Nat.add_comm]

/-- The eight bytes of a doubleword give it back. -/
theorem ofNat_beNat_beBytes (v : Dword) : BitVec.ofNat 64 (beNat (beBytes 8 v.toNat)) = v := by
  rw [beNat_beBytes, Nat.mod_eq_of_lt (show v.toNat < 256 ^ 8 from v.isLt), BitVec.ofNat_toNat, BitVec.setWidth_eq]

/-! ## The PSW (R57, R58) -/

theorem Mode.code_lt (m : Mode) : m.code < 3 := by cases m <;> decide

/-- PSW[127:64] as a number. -/
theorem Psw.toNat_high (p : Psw) : p.high.toNat = p.mode.code * 2 ^ 62 + p.dat.toNat * 2 ^ 61 + p.io.toNat * 2 ^ 60 + p.ext.toNat * 2 ^ 59 +
    p.mc.toNat * 2 ^ 58 + p.wait.toNat * 2 ^ 57 + p.rso.toNat * 2 ^ 56 + p.key.toNat * 2 ^ 52 + p.cc.toNat * 2 ^ 50 + p.fom.toNat * 2 ^ 49 := by
  have := p.mode.code_lt
  have := p.dat.toNat_le
  have := p.io.toNat_le
  have := p.ext.toNat_le
  have := p.mc.toNat_le
  have := p.wait.toNat_le
  have := p.rso.toNat_le
  have := p.key.isLt
  have := p.cc.isLt
  have := p.fom.toNat_le
  simp only [Psw.high, Nat.shiftLeft_eq, BitVec.toNat_ofNat]
  omega

theorem decide_toNat_eq_one (b : Bool) : decide (b.toNat = 1) = b := by cases b <;> rfl

/-- Each field of PSW[127:64] holds its part. -/
theorem Psw.fields_high (p : Psw) : fget p.high 62 2 = p.mode.code ∧ fget p.high 0 49 = 0 ∧ bit p.high 61 = p.dat ∧ bit p.high 60 = p.io ∧
    bit p.high 59 = p.ext ∧ bit p.high 58 = p.mc ∧ bit p.high 57 = p.wait ∧ bit p.high 56 = p.rso ∧
    BitVec.ofNat 4 (fget p.high 52 4) = p.key ∧ BitVec.ofNat 2 (fget p.high 50 2) = p.cc ∧ bit p.high 49 = p.fom := by
  have := p.mode.code_lt
  have := p.dat.toNat_le
  have := p.io.toNat_le
  have := p.ext.toNat_le
  have := p.mc.toNat_le
  have := p.wait.toNat_le
  have := p.rso.toNat_le
  have := p.key.isLt
  have := p.cc.isLt
  have := p.fom.toNat_le
  have hhigh := p.toNat_high
  have hbit {i : Nat} {b : Bool} (h : p.high.toNat / 2 ^ i % 2 = b.toNat) : bit p.high i = b := by
    rw [bit_eq, h, decide_toNat_eq_one]
  have hfield {lo w : Nat} {v : BitVec w} (h : p.high.toNat / 2 ^ lo % 2 ^ w = v.toNat) : BitVec.ofNat w (fget p.high lo w) = v := by
    rw [fget_eq, h, BitVec.ofNat_toNat, BitVec.setWidth_eq]
  rw [fget_eq, fget_eq]
  refine ⟨?_, ?_, hbit ?_, hbit ?_, hbit ?_, hbit ?_, hbit ?_, hbit ?_, hfield ?_, hfield ?_, hbit ?_⟩ <;> omega

/-- A PSW whose IA is a multiple of 4 decodes to itself. -/
theorem Psw.decode_high {p : Psw} (h : p.ia.toNat % 4 = 0) : Psw.decode p.high p.ia = some p := by
  obtain ⟨hmode, hzero, hdat, hio, hext, hmc, hwait, hrso, hkey, hcc, hfom⟩ := p.fields_high
  have hia : fget p.ia 0 2 = 0 := by rw [fget_eq]; omega
  have hlt := p.mode.code_lt
  rw [Psw.decode, if_neg (by omega), hmode, hdat, hio, hext, hmc, hwait, hrso, hkey, hcc, hfom]
  obtain ⟨mode, dat, io, ext, mc, wait, rso, key, cc, fom, ia⟩ := p
  cases mode <;> rfl

theorem Psw.ofBytes_bytes (p : Psw) : Psw.ofBytes p.bytes = Psw.decode p.high p.ia := by
  have hdrop : (p.bytes.drop 8).take 8 = beBytes 8 p.ia.toNat := by
    simp [Psw.bytes, List.take_of_length_le]
  have htake : p.bytes.take 8 = beBytes 8 p.high.toNat := by simp [Psw.bytes]
  rw [Psw.ofBytes, hdrop, htake, ofNat_beNat_beBytes, ofNat_beNat_beBytes]

/-- A number below 2^64 whose low 49 bits are 0 is the sum of the PSW's fields in it. -/
theorem sum_psw_fields {n : Nat} (hlt : n < 2 ^ 64) (hzero : n % 2 ^ 49 = 0) :
    n / 2 ^ 62 % 2 ^ 2 * 2 ^ 62 + n / 2 ^ 61 % 2 * 2 ^ 61 + n / 2 ^ 60 % 2 * 2 ^ 60 + n / 2 ^ 59 % 2 * 2 ^ 59 + n / 2 ^ 58 % 2 * 2 ^ 58 +
      n / 2 ^ 57 % 2 * 2 ^ 57 + n / 2 ^ 56 % 2 * 2 ^ 56 + n / 2 ^ 52 % 2 ^ 4 * 2 ^ 52 + n / 2 ^ 50 % 2 ^ 2 * 2 ^ 50 +
      n / 2 ^ 49 % 2 * 2 ^ 49 = n := by
  have h62 : n / 2 ^ 62 % 2 ^ 2 = n / 2 ^ 62 := by omega
  have h61 : n / 2 ^ 61 = 2 * (n / 2 ^ 62) + n / 2 ^ 61 % 2 := by omega
  have h60 : n / 2 ^ 60 = 2 * (n / 2 ^ 61) + n / 2 ^ 60 % 2 := by omega
  have h59 : n / 2 ^ 59 = 2 * (n / 2 ^ 60) + n / 2 ^ 59 % 2 := by omega
  have h58 : n / 2 ^ 58 = 2 * (n / 2 ^ 59) + n / 2 ^ 58 % 2 := by omega
  have h57 : n / 2 ^ 57 = 2 * (n / 2 ^ 58) + n / 2 ^ 57 % 2 := by omega
  have h56 : n / 2 ^ 56 = 2 * (n / 2 ^ 57) + n / 2 ^ 56 % 2 := by omega
  have h52 : n / 2 ^ 52 = 2 ^ 4 * (n / 2 ^ 56) + n / 2 ^ 52 % 2 ^ 4 := by omega
  have h50 : n / 2 ^ 50 = 2 ^ 2 * (n / 2 ^ 52) + n / 2 ^ 50 % 2 ^ 2 := by omega
  have h49 : n / 2 ^ 49 = 2 * (n / 2 ^ 50) + n / 2 ^ 49 % 2 := by omega
  have h0 : n = 2 ^ 49 * (n / 2 ^ 49) := by omega
  omega

/-- What decodes to a PSW is what it encodes to. -/
theorem Psw.high_of_decode {h l : Dword} {p : Psw} (hp : Psw.decode h l = some p) : p.high = h ∧ p.ia = l := by
  simp only [Psw.decode] at hp
  split at hp
  case isTrue => cases hp
  case isFalse hok =>
    obtain rfl := Option.some.inj hp
    refine ⟨BitVec.eq_of_toNat_eq ?_, rfl⟩
    have hmode : (if fget h 62 2 = 0 then Mode.problem else if fget h 62 2 = 1 then .supervisor else .host).code = fget h 62 2 := by
      have := fget_lt h 62 2
      split
      next h0 => exact h0.symm
      next h0 =>
        split
        next h1 => exact h1.symm
        next h1 => simp only [Mode.code]; omega
    have hzero : h.toNat % 2 ^ 49 = 0 := by
      have : fget h 0 49 = 0 := by omega
      rwa [fget_eq, Nat.pow_zero, Nat.div_one] at this
    have hlt := h.isLt
    rw [Psw.toNat_high]
    simp only [fget_eq] at hmode
    simp only [hmode, toNat_bit, fget_eq, BitVec.toNat_ofNat, Nat.mod_mod]
    exact sum_psw_fields hlt hzero

/-- Settles O26: each field of the two doublewords holds its part, and nothing is left over. -/
theorem pswEncoding : Obligations.PswEncoding := by
  unfold Obligations.PswEncoding
  refine ⟨fun p hia => ⟨Psw.decode_high hia, p.ofBytes_bytes.trans (Psw.decode_high hia)⟩, fun h l p hp => Psw.high_of_decode hp,
    fun h l => ?_⟩
  have hlt := h.isLt
  have hmode : fget h 62 2 = 3 ↔ h.toNat / 2 ^ 62 = 3 := by rw [fget_eq]; omega
  have hzero : fget h 0 49 ≠ 0 ↔ h.toNat % 2 ^ 49 ≠ 0 := by rw [fget_eq, Nat.pow_zero, Nat.div_one]
  have hia : fget l 0 2 ≠ 0 ↔ l.toNat % 4 ≠ 0 := by rw [fget_eq]; omega
  rw [← hmode, ← hzero, ← hia, Psw.decode]
  split
  next hbad => exact iff_of_true rfl hbad
  next hbad => exact iff_of_false (by simp) hbad

end Sys2Proof.Machine
end

section
/-! SUPPORT. What the fields of service registers read after a write, the layout of a fault message; then the fault collector's
acceptance and acknowledgment, and the statements about them (R450, R452, R459, R462, R463). -/
namespace Sys2Proof.Machine
open Sys2Proof

/-! ## Fields of service registers -/

section
variable (s : State)

theorem State.rf_setRf_same (a : Nat) {lo w : Nat} (n : Nat) (h : lo + w ≤ 64) : (s.setRf a lo w n).rf a lo w = n % 2 ^ w := by
  rw [State.rf, State.setRf, State.reg_setReg_same, fget_fset_same _ _ h]

/-- A field apart from the one written reads as before. -/
theorem State.rf_setRf_field (a : Nat) {lo w x y : Nat} (n : Nat) (h : lo + w ≤ 64) (hd : x + y ≤ lo ∨ lo + w ≤ x) :
    (s.setRf a lo w n).rf a x y = s.rf a x y := by
  rw [State.rf, State.setRf, State.reg_setReg_same, fget_fset_other _ _ h hd, State.rf]

theorem State.reg_setRf_other {a b : Nat} (lo w n : Nat) (h : b ≠ a) : (s.setRf a lo w n).reg b = s.reg b := s.reg_setReg_other _ h

theorem State.rf_setRf_other {a b : Nat} (lo w n x y : Nat) (h : b ≠ a) : (s.setRf a lo w n).rf b x y = s.rf b x y := by
  rw [State.rf, s.reg_setRf_other lo w n h, State.rf]

theorem State.reg_errInc_other {a b : Nat} (lo w sat : Nat) (h : b ≠ a) : (s.errInc a lo w sat).reg b = s.reg b := s.reg_setReg_other _ h

end

/-! ## Messages (R450) -/

section
variable {die cls : Nat} (unit kind : Nat) (inj : Bool) (synd : Nat)

/-- The word of a message as a number. -/
theorem toNat_msgWord (hdie : die < 16) :
    (msgWord die unit kind cls inj synd).toNat = die * 2 ^ 60 + unit % 256 * 2 ^ 52 + kind % 256 * 2 ^ 44 + cls % 8 * 2 ^ 41 +
      inj.toNat * 2 ^ 40 + synd % 2 ^ 40 := by
  have := inj.toNat_le
  simp only [msgWord, Nat.shiftLeft_eq, BitVec.toNat_ofNat]
  omega

theorem msgDie_msgWord (hdie : die < 16) : msgDie (msgWord die unit kind cls inj synd) = die := by
  have := inj.toNat_le
  rw [msgDie, fget_eq, toNat_msgWord _ _ _ _ hdie]
  omega

theorem msgKind_msgWord (hdie : die < 16) : msgKind (msgWord die unit kind cls inj synd) = kind % 256 := by
  have := inj.toNat_le
  rw [msgKind, fget_eq, toNat_msgWord _ _ _ _ hdie]
  omega

theorem msgClass_msgWord (hdie : die < 16) : msgClass (msgWord die unit kind cls inj synd) = cls % 8 := by
  have := inj.toNat_le
  rw [msgClass, fget_eq, toNat_msgWord _ _ _ _ hdie]
  omega

end

/-- A message of class 2 or more joins the end of its die's queue (R451). -/
theorem State.sendMsg_of_class {m : Msg} (s : State) (h : 1 < msgClass m.word) :
    s.sendMsg m = s.setQueue (msgDie m.word) (s.queue (msgDie m.word) ++ [m]) := by
  simp only [State.sendMsg]
  rw [if_neg (by omega)]

/-! ## Acknowledgment (R463) -/

/-- A number covers those at most 2^31 - 1 before it. -/
theorem seqCovers_iff (S x : Word) : seqCovers S x = true ↔ (S.toNat + 2 ^ 32 - x.toNat) % 2 ^ 32 < 2 ^ 31 := by
  rw [seqCovers, decide_eq_true_iff, BitVec.toNat_sub, show 2 ^ 32 - x.toNat + S.toNat = S.toNat + 2 ^ 32 - x.toNat by omega]

/-- Marking acknowledged entries changes service registers alone. -/
theorem ackMarks_eq (src : Nat) (l : List (Nat × Word)) (s : State) : ∃ r, l.foldl (fun t x =>
    let a := rHistMeta (x.2.toNat % 64)
    let v := t.reg a
    if fget v 0 32 = x.2.toNat then t.setReg a (fset (setBit v 61 true) 59 2 src) else t) s = { s with regs := r } := by
  induction l generalizing s with
  | nil => exact ⟨s.regs, rfl⟩
  | cons x l ih =>
    rw [List.foldl_cons]
    dsimp only
    split
    · exact ih _
    · exact ih s

/-- Settles O57: the numbers covered leave the unacknowledged ones, and registers alone change beside. -/
theorem acknowledgmentCovers : Obligations.AcknowledgmentCovers := by
  unfold Obligations.AcknowledgmentCovers
  intro s c S src
  obtain ⟨r, hr⟩ := ackMarks_eq src (s.unacked.filter fun x => x.1 == c && seqCovers S x.2)
    { s with unacked := s.unacked.filter fun x => !(x.1 == c && seqCovers S x.2) }
  have hack : s.ackUpTo c S src = State.showStat { s with unacked := s.unacked.filter fun x => !(x.1 == c && seqCovers S x.2), regs := r } :=
    congrArg State.showStat hr
  rw [hack]
  refine ⟨fun x => ?_, rfl, rfl⟩
  rw [← seqCovers_iff]
  exact List.mem_filter.trans (and_congr_right' (by rw [Bool.not_eq_true', ← Bool.not_eq_true, Bool.and_eq_true, beq_iff_eq]))

/-! ## Acceptance (R452, R459, R462) -/

/-- The registers that hold the history: its head and its 64 entries (R462). -/
def inHistory (a : Nat) : Prop := a = rHistHead ∨ (rFc 0x1000 ≤ a ∧ a < rFc 0x1800)

/-- What is done beside an entry into the history: it stays as it is, nothing is acknowledged, and queues gain threshold messages alone. -/
structure State.Beside (s t : State) : Prop where
  history : ∀ a, inHistory a → t.reg a = s.reg a
  unacked : t.unacked = s.unacked
  queue : ∀ d, ∃ l, (∀ y ∈ l, msgKind y.word = 0xA8) ∧ t.queue d = s.queue d ++ l

namespace State.Beside

variable {s t : State}

theorem refl (s : State) : s.Beside s := ⟨fun _ _ => rfl, rfl, fun _ => ⟨[], by simp, by simp⟩⟩

theorem setReg (h : s.Beside t) {a : Nat} (v : Dword) (ha : ¬inHistory a) : s.Beside (t.setReg a v) where
  history b hb := (t.reg_setReg_other v fun e => ha (by rwa [e] at hb)).trans (h.history b hb)
  unacked := h.unacked
  queue := h.queue

theorem errInc (h : s.Beside t) {a : Nat} (lo w sat : Nat) (ha : ¬inHistory a) : s.Beside (t.errInc a lo w sat) := h.setReg _ ha

theorem modUnit (h : s.Beside t) (u : Nat) (f : Cpu → Cpu) : s.Beside (t.modUnit u f) := ⟨h.history, h.unacked, h.queue⟩

end State.Beside

/-- The registers that acceptance writes beside the history lie apart from it. -/
theorem not_inHistory_rFc {off : Nat} (h : off < 0x400 ∨ 0x2000 ≤ off) : ¬inHistory (rFc off) := by
  simp only [inHistory, rHistHead, rFc, regAddr]
  omega

theorem not_inHistory_rFirstStat {c : Nat} (h : c < 8) : ¬inHistory (rFirstStat c) := not_inHistory_rFc (off := 0x110 + 32 * c) (by omega)
theorem not_inHistory_rFirstMsg {c : Nat} (h : c < 8) : ¬inHistory (rFirstMsg c) := not_inHistory_rFc (off := 0x100 + 32 * c) (by omega)

theorem State.Beside.showPresent {s t : State} (h : s.Beside t) {c : Nat} (hc : c < 8) : s.Beside (t.showPresent c) := by
  unfold State.showPresent
  dsimp only
  split
  · exact h.setReg _ (not_inHistory_rFirstStat hc)
  · exact h

theorem State.Beside.capture {s t : State} (hb : s.Beside t) {h : Nat} (hh : h < 8) (m : Msg) (q : Word) : s.Beside (t.capture h m q) := by
  unfold State.capture
  dsimp only
  split
  · exact hb.setReg _ (not_inHistory_rFirstStat hh)
  · exact ((hb.setReg _ (not_inHistory_rFirstMsg hh)).setReg _ (not_inHistory_rFc (by omega))).setReg _ (not_inHistory_rFirstStat hh)

theorem State.Beside.threshold {s t : State} (h : s.Beside t) (m : Msg) : s.Beside (t.threshold m) := by
  have ha : ¬inHistory (rThr (msgKind m.word)) := not_inHistory_rFc (by omega)
  unfold State.threshold
  dsimp only
  split
  · exact h.setReg _ ha
  split
  · exact h.setReg _ ha
  · generalize msgDie m.word <<< 16 + msgUnit m.word <<< 8 + msgKind m.word = synd
    generalize hx : (t.setReg (rThr (msgKind m.word)) _) = x
    have hbase : s.Beside x := hx ▸ h.setReg _ ha
    have hsend : x.send 10 0x10 0xA8 2 synd = x.setQueue 10 (x.queue 10 ++ [⟨msgWord 10 0x10 0xA8 2 false synd, x.dieTod 10, none, false⟩]) := by
      rw [State.send, State.sendMsg_of_class _ (by rw [msgClass_msgWord _ _ _ _ (by decide)]; decide), msgDie_msgWord _ _ _ _ (by decide)]
      rfl
    rw [hsend]
    refine ⟨hbase.history, hbase.unacked, fun d => ?_⟩
    obtain ⟨l, hl, hq⟩ := hbase.queue d
    by_cases hd : d = 10
    · subst hd
      refine ⟨l ++ [⟨msgWord 10 0x10 0xA8 2 false synd, x.dieTod 10, none, false⟩], fun y hy => ?_, ?_⟩
      · rcases List.mem_append.mp hy with hy | hy
        · exact hl y hy
        · rw [List.mem_singleton.mp hy]; exact msgKind_msgWord _ _ _ _ (by decide)
      · rw [State.queue_setQueue_same, hq, List.append_assoc]
    · exact ⟨l, hl, by rw [State.queue_setQueue_other _ _ hd, hq]⟩

theorem State.Beside.mcCode {s t : State} (h : s.Beside t) (code : BitVec 16) : s.Beside (t.mcCode code) := by
  unfold State.mcCode
  generalize (List.range 4).filter t.mcRuns = l
  induction l generalizing t with
  | nil => exact h
  | cons m l ih => exact ih (h.modUnit _ _)

/-- What acceptance as class 0 or 1 does after the entry: counts, captures, thresholds and what FC.STAT and the cores are shown. -/
theorem State.accept_beside (s : State) (m : Msg) (hh : (s.unqueue m).handledClass m < 2) :
    ((s.unqueue m).enterHistory m (nextSeq (BitVec.ofNat 32 ((s.unqueue m).rf rHistHead 0 32)))
      (metaWord m.coin true (decide (msgClass m.word < (s.unqueue m).handledClass m)) false 3 ((s.unqueue m).handledClass m)
        (nextSeq (BitVec.ofNat 32 ((s.unqueue m).rf rHistHead 0 32))))).Beside (s.accept m) := by
  have hlow : decide (4 ≤ (s.unqueue m).handledClass m) = false := decide_eq_false (by omega)
  have hnone : (msgInj m.word || decide ((s.unqueue m).handledClass m < 2) || decide ((s.unqueue m).handledClass m = 6)) = true := by simp [hh]
  have hact (t : State) (q : Word) : t.classAction ((s.unqueue m).handledClass m) m q = t := by rw [State.classAction, if_pos hh]
  have hcls : (s.unqueue m).handledClass m < 8 := by omega
  simp only [State.accept, hlow, hnone, hact, Bool.and_false, Bool.false_and, Bool.false_eq_true, if_false, if_true]
  rw [if_pos hh]
  generalize (s.unqueue m).enterHistory m _ _ = x
  refine State.Beside.mcCode ?_ _
  refine State.Beside.setReg ?_ _ (not_inHistory_rFc (off := 0) (by omega))
  suffices h : ∀ t, x.Beside t → x.Beside ((List.range 7).foldl State.showPresent t) by
    refine h _ ?_
    split
    · exact (State.Beside.refl x).errInc _ _ _ (not_inHistory_rFc (off := 0x240) (by omega))
    · exact (((State.Beside.refl x).errInc _ _ _ (not_inHistory_rFc
        (off := 0x200 + 8 * (s.unqueue m).handledClass m) (by omega))).capture hcls m _).threshold m
  intro t ht
  exact ((((((ht.showPresent (c := 0) (by decide)).showPresent (c := 1) (by decide)).showPresent (c := 2) (by decide)).showPresent (c := 3)
    (by decide)).showPresent (c := 4) (by decide)).showPresent (c := 5) (by decide)).showPresent (c := 6) (by decide)

theorem nextSeq_ne_zero (w : Word) : nextSeq w ≠ 0 := by
  unfold nextSeq
  split
  · decide
  · bv_omega

/-- The number of a META word is its low half. -/
theorem fget_metaWord (coin acked esc sup : Bool) (src h : Nat) (q : Word) :
    fget (metaWord coin acked esc sup src h q) 0 32 = q.toNat := by
  have := coin.toNat_le
  have := acked.toNat_le
  have := esc.toNat_le
  have := sup.toNat_le
  have := q.isLt
  simp only [metaWord, fget_eq, Nat.shiftLeft_eq, BitVec.toNat_ofNat]
  omega

/-- An entry holds its message, time and META word, and the head its number (R462). -/
theorem State.reg_enterHistory (s : State) (m : Msg) (q : Word) (v : Dword) :
    (s.enterHistory m q v).rf rHistHead 0 32 = q.toNat ∧ (s.enterHistory m q v).reg (rHistMsg (q.toNat % 64)) = m.word ∧
      (s.enterHistory m q v).reg (rHistTod (q.toNat % 64)) = m.tod ∧ (s.enterHistory m q v).reg (rHistMeta (q.toNat % 64)) = v := by
  have hlt := q.isLt
  have hmsg : rHistMsg (q.toNat % 64) ≠ rHistHead ∧ rHistMsg (q.toNat % 64) ≠ rHistMeta (q.toNat % 64) ∧
      rHistMsg (q.toNat % 64) ≠ rHistTod (q.toNat % 64) := by
    simp only [rHistMsg, rHistHead, rHistMeta, rHistTod, rFc, regAddr]; omega
  have htod : rHistTod (q.toNat % 64) ≠ rHistHead ∧ rHistTod (q.toNat % 64) ≠ rHistMeta (q.toNat % 64) := by
    simp only [rHistTod, rHistHead, rHistMeta, rFc, regAddr]; omega
  have hmeta : rHistMeta (q.toNat % 64) ≠ rHistHead := by
    simp only [rHistHead, rHistMeta, rFc, regAddr]; omega
  refine ⟨?_, ?_, ?_, ?_⟩
  · simp only [State.enterHistory, State.rf, State.reg_setReg_same, fget_eq, Nat.shiftLeft_eq, BitVec.toNat_ofNat]; omega
  · rw [State.enterHistory, State.reg_setReg_other _ _ hmsg.1, State.reg_setReg_other _ _ hmsg.2.1, State.reg_setReg_other _ _ hmsg.2.2,
      State.reg_setReg_same]
  · rw [State.enterHistory, State.reg_setReg_other _ _ htod.1, State.reg_setReg_other _ _ htod.2, State.reg_setReg_same]
  · rw [State.enterHistory, State.reg_setReg_other _ _ hmeta, State.reg_setReg_same]

theorem State.queue_enterHistory (s : State) (m : Msg) (q : Word) (v : Dword) (d : Nat) : (s.enterHistory m q v).queue d = s.queue d := rfl
theorem State.unacked_enterHistory (s : State) (m : Msg) (q : Word) (v : Dword) : (s.enterHistory m q v).unacked = s.unacked := rfl

/-- The entries of the history lie in it. -/
theorem inHistory_entry {i : Nat} (h : i < 64) : inHistory (rHistMsg i) ∧ inHistory (rHistTod i) ∧ inHistory (rHistMeta i) := by
  simp only [inHistory, rHistMsg, rHistTod, rHistMeta, rFc, regAddr]
  omega

/-- Settles O56: the entry stands, and what acceptance does beside it leaves the history alone. -/
theorem acceptanceRecords : Obligations.AcceptanceRecords := by
  unfold Obligations.AcceptanceRecords
  refine ⟨fun s m => ?_, fun w => rfl⟩
  intro s0 hh q
  obtain ⟨hhistory, hunacked, hqueue⟩ := s.accept_beside m hh
  obtain ⟨hhead, hmsg, htod, hmeta⟩ := s0.reg_enterHistory m q
    (metaWord m.coin true (decide (msgClass m.word < s0.handledClass m)) false 3 (s0.handledClass m) q)
  obtain ⟨imsg, itod, imeta⟩ := inHistory_entry (Nat.mod_lt q.toNat (by decide))
  refine ⟨nextSeq_ne_zero _, ?_, (hhistory _ imsg).trans hmsg, (hhistory _ itod).trans htod, ?_, hunacked.trans (State.unacked_enterHistory ..), ?_⟩
  · rw [State.rf, hhistory _ (.inl rfl)]; exact hhead
  · rw [State.rf, (hhistory _ imeta).trans hmeta, fget_metaWord]
  · obtain ⟨l, hl, hq⟩ := hqueue (msgDie m.word)
    rw [State.queue_enterHistory, State.unqueue, State.queue_setQueue_same] at hq
    exact ⟨l, hl, hq⟩

end Sys2Proof.Machine
end

section
/-! SUPPORT. System instructions, CPUSIG and transactions: what their bodies do, and the statements about them (R54 to R67, R90, R237 to
R243); least states and decoding checks (R54, R98), with the two statements that do not hold: a write-combining buffer is written by LPSW
(R62, R222), and a populated customer slot's word with nonzero reserved bits is not refused (R116). -/
namespace Sys2Proof.Machine
open Sys2Proof

/-! ## System instructions without an operand in storage -/

/-- What a row says of its instruction: it runs on the row's unit, and its effect is the row's. -/
theorem systemRow_runs {c : Instr} {x : Insn × Nat × (State → State)} {s : State} (h : systemRow s c = some x) :
    exec c s = .next (s.insn x.1) ∧ x.1.u = x.2.1 ∧ ∀ t : State, x.1.body (t.past x.2.1) = .ok (x.2.2 (t.past x.2.1)) := by
  unfold systemRow at h
  split at h <;> cases h <;> refine ⟨rfl, rfl, fun t => ?_⟩
  case _ o => rfl
  case _ o => rfl
  case _ o => rfl
  case _ o => exact congrArg Except.ok (by rw [fget_eq]; rfl)
  case _ o => rfl
  case _ o => rfl
  case _ o => exact (apply_ite Except.ok _ _ _).symm

/-- Settles O27: the effect of each row's instruction is the row's. -/
theorem systemResults : Obligations.SystemResults := by
  unfold Obligations.SystemResults
  intro c x s s2 hrow henter
  obtain ⟨hexec, hu, hbody⟩ := systemRow_runs hrow
  rw [hexec, State.insn_completes_at henter (hbody s2) hu]

/-! ## Witnesses taken apart -/

/-- A value comes out, and p holds of it. -/
def yields {ε α : Type} (x : Except ε α) (p : α → Bool) : Bool := match x with
  | .ok y => p y
  | .error _ => false

theorem exists_of_yields {ε α : Type} {x : Except ε α} {p : α → Bool} (h : yields x p = true) : ∃ y, x = .ok y ∧ p y = true := by
  unfold yields at h
  split at h
  · next y => exact ⟨y, rfl, h⟩
  · cases h

/-- The instruction comes to its decoding checks, in a state of which p holds. -/
def comesTo (s : State) (i : Insn) (p : State → Bool) : Bool :=
  s.boundary i.u == .clear && !(s.waits i.u) && yields (s.fetchWordAt i.u) fun s1 =>
    let t := s1.injectedMismatch i.u i.rows 3
    !(t.unit i.u).selfTest && p t

theorem exists_of_comesTo {s : State} {i : Insn} {p : State → Bool} (h : comesTo s i p = true) : ∃ s2, s.arrives i s2 ∧ p s2 = true := by
  simp only [comesTo, Bool.and_eq_true, beq_iff_eq, Bool.not_eq_true'] at h
  obtain ⟨⟨hb, hw⟩, hf⟩ := h
  obtain ⟨s1, hs1, hp⟩ := exists_of_yields hf
  simp only [Bool.and_eq_true, Bool.not_eq_true'] at hp
  exact ⟨_, ⟨hb, hw, s1, hs1, rfl, hp.1⟩, hp.2⟩

/-- The dies are out of reset, every DRAM channel operates (DC.CTL.EN 1, STATE 2), and CPU 0 is at work as c says. -/
def working (c : Cpu) : State :=
  { State.reset with halted := false, regs := (List.range 16).map fun n => (rDc n 0, 0x8000020000000000),
                     units := [(0, { c with stopped := false })] }

/-! ## LPSW -/

/-- CPU 0 in host state, about to load the PSW at 0x2000, with one byte for 0x1000 in a write-combining buffer. -/
def lpswBuffered : State := working
  { Cpu.reset with g := [(2, 0x2000)], psw := { Psw.zero with mode := .host }, wcb := [⟨0x40, [(0x1000, 1)]⟩] }

/-- The operands of LPSW 0(g2) on CPU 0. -/
def lpswOperands : OpI := ⟨0, 0, 2, 0⟩

theorem lpswBuffered_loads : yields (lpswBuffered.enter (insnLpsw lpswOperands lpswBuffered)) (fun s2 =>
    yields ((s2.past 0).loadAt 0 (s2.g 0 2 + (0#14).signExtend 64) 16 .load) fun r =>
      r.2.length == 16 && r.1.mem == [] && Psw.ofBytes r.2 == some Psw.zero) = true := by decide

theorem lpswBuffered_stores : (match exec (.lpsw lpswOperands) lpswBuffered with
    | .next t => Memory.read t.mem 0x1000
    | _ => 0) = 1 := by decide

/-- Refutes O28: LPSW writes the write-combining buffers, so storage after it is not always what the load of the PSW left (R62, R222). -/
theorem not_lpswResults : ¬ Obligations.LpswResults := by
  unfold Obligations.LpswResults
  intro h
  obtain ⟨s2, henter, hload⟩ := exists_of_yields lpswBuffered_loads
  obtain ⟨r, hr, hload⟩ := exists_of_yields hload
  simp only [Bool.and_eq_true, beq_iff_eq] at hload
  obtain ⟨⟨hlen, hmem⟩, hpsw⟩ := hload
  obtain ⟨t2, hexec, -, ht2, -⟩ := (h lpswOperands lpswBuffered s2 r.1 r.2 henter hr hlen).1 Psw.zero hpsw (by simp [Psw.zero])
  have hstored := lpswBuffered_stores
  rw [hexec] at hstored
  dsimp only at hstored
  rw [ht2, hmem] at hstored
  exact absurd hstored (by decide)

/-! ## CPUSIG (R34, R63, R115) -/

/-- CPUSIG runs the form of its order. -/
theorem sigRow_runs {c : Instr} {o : OpSig} {k : SigOrder} {code least : Nat} (h : sigRow c = some (o, k, code, least)) (s : State) :
    exec c s = .next (s.insn (formSig o code least k)) := by
  unfold sigRow at h
  split at h <;> cases h <;> rfl

/-- What keeps an external call from being sent twice is not a matter of IA. -/
theorem State.callPending_past (s : State) (u n : Nat) (i : Option Nat) : (s.past u).callPending n i = s.callPending n i := by
  unfold State.callPending
  by_cases h : n = u
  · subst h
    rw [State.unit_past]
    rfl
  · rw [State.past, State.setIa, State.unit_modUnit_other s _ h]
    rfl

theorem State.sigTarget_of_none {s : State} {u : Nat} (a : Nat) (h : (s.unit u).irun = none) : s.sigTarget u a = some (a, u, none) := by
  rw [State.sigTarget, h]

/-- Settles O32: the effect is the order's, by the state of the Core Map's entry. -/
theorem cpusigResults : Obligations.CpusigResults := by
  unfold Obligations.CpusigResults
  intro c o k code least s s2 hrow henter t n x dead twice ends
  have hends {r : State} {cc : BitVec 2} (h : t.signal o.u k (s2.g o.u o.ra) = r.setCc o.u cc) : ends r cc := by
    refine (sigRow_runs hrow s).trans (congrArg _ (State.insn_completes_at henter ?_ rfl))
    rw [← h, ← s2.g_past o.u o.ra]
    rfl
  have hirun : (t.unit o.u).irun = (s2.unit o.u).irun := by rw [State.unit_past]; rfl
  have hsig (hcpu : isCpu o.u = true) (hnone : (s2.unit o.u).irun = none) :
      t.signal o.u k (s2.g o.u o.ra) = (t.cpusig n x).1.setCc o.u (t.cpusig n x).2 := by
    simp only [State.signal, hcpu, Bool.not_true, Bool.false_eq_true, if_false, State.sigTarget_of_none _ (hirun.trans hnone)]
    rfl
  have hdead : (t.activeCount ≤ n ∨ t.cmapState n = 0 ∨ t.cmapState n = 3) ↔ dead := Iff.rfl
  have htwice : (x.order = .extCall ∧ t.callPending n x.image = true) ↔ twice := by rw [State.callPending_past]
  refine ⟨fun hcpu => hends (by simp [State.signal, hcpu]), fun hcpu hnone => ⟨fun hd => ?_, fun hd ht => ?_, fun hd ht h2 => ?_, fun hd ht h1 => ?_⟩⟩
  · exact hends (by rw [hsig hcpu hnone, State.cpusig, if_pos (hdead.mpr hd)])
  · exact hends (by rw [hsig hcpu hnone, State.cpusig, if_neg (mt hdead.mp hd), if_pos (htwice.mpr ht)])
  · have hst : t.cmapState n = 2 := h2
    exact hends (by rw [hsig hcpu hnone, State.cpusig, if_neg (mt hdead.mp hd), if_neg (mt htwice.mp ht), if_pos hst])
  · have hst : t.cmapState n = 1 := h1
    exact hends (by rw [hsig hcpu hnone, State.cpusig, if_neg (mt hdead.mp hd), if_neg (mt htwice.mp ht), if_neg (by omega)])

/-! ## Transactions (R237, R238, R240, R243) -/

theorem exec_tbegin (o : OpB) (s : State) : exec (.tbegin o) s = .next (s.insn (insnTbegin o)) := rfl
theorem exec_tend (o : OpEnd) (s : State) : exec (.tend o) s = .next (s.insn (insnTend o)) := rfl
theorem exec_tabort (o : OpI) (s : State) : exec (.tabort o) s = .next (s.insn (insnTabort o)) := rfl

@[simp] theorem State.region_past (s : State) (u : Nat) : ((s.past u).unit u).region = (s.unit u).region := by rw [State.unit_past]; rfl
@[simp] theorem State.irun_past (s : State) (u : Nat) : ((s.past u).unit u).irun = (s.unit u).irun := by rw [State.unit_past]; rfl

theorem State.noCaches_past (s : State) (u v : Nat) : (s.past u).noCaches v = s.noCaches v := rfl

/-- An instruction that enters and aborts the open region ends with that. -/
theorem State.insn_aborts {s s2 : State} {i : Insn} {u code : Nat} {imm : BitVec 14} (h : s.enter i = .ok s2)
    (hb : i.body (s2.past u) = .error (.abort code imm)) (hu : i.u = u) :
    s.insn i = (s2.modUnit u fun c => c.abort (s2.psw u).ia code imm).confirm u (s2.psw u).ia := by
  rw [State.insn_ends_at h hb hu]
  simp only [State.endWith, Ends.interrupts, Bool.and_false, Bool.false_eq_true, if_false]

section
variable (o : OpB) (s : State)

theorem insnTbegin_body : (insnTbegin o).body (s.past o.u) =
    (if (s.unit o.u).region.isSome then .error (.abort 0x08 0)
    else if ((s.unit o.u).getC 10).getLsbD 1 = false then
      .ok ((s.past o.u).abortBegin o.u 0x0B (s.psw o.u).ia ((s.psw o.u).ia + 4 * o.disp.signExtend 64))
    else if s.noCaches o.u then .ok ((s.past o.u).abortBegin o.u 0x03 (s.psw o.u).ia ((s.psw o.u).ia + 4 * o.disp.signExtend 64))
    else .ok (((s.past o.u).wcFlush o.u).openRegion o.u ((s.psw o.u).ia + 4 * o.disp.signExtend 64))) := by
  simp only [insnTbegin, State.region_past, State.getC_past, State.target_past, State.psw_past, State.noCaches_past, bit,
    BitVec.add_sub_cancel]

end

/-- Settles O33: each outcome is one of the body's, by the region, c10 and the caches. -/
theorem transactionResults : Obligations.TransactionResults := by
  unfold Obligations.TransactionResults
  refine ⟨fun o s s2 henter => ?_, fun o s s2 henter => ?_, fun o s s2 henter => ?_⟩
  · have hbody := insnTbegin_body o s2
    intro ia target
    refine ⟨fun hr => ?_, fun hr hc => ?_, fun hr hc hn => ?_, fun hr hc hn => ?_⟩
    · rw [if_pos hr] at hbody
      rw [exec_tbegin, State.insn_aborts henter hbody rfl]
    · rw [hr, if_neg (by simp), if_pos hc] at hbody
      rw [exec_tbegin, State.insn_completes_at henter hbody rfl]
    · rw [hr, if_neg (by simp), if_neg (by simp [hc]), if_pos hn] at hbody
      rw [exec_tbegin, State.insn_completes_at henter hbody rfl]
    · rw [hr, if_neg (by simp), if_neg (by simp [hc]), if_neg (by simp [hn])] at hbody
      rw [exec_tbegin, State.insn_completes_at henter hbody rfl]
  · refine ⟨fun hr => ?_, fun r hr => ?_⟩
    · rw [exec_tend, State.insn_completes_at henter (show (insnTend o).body (s2.past o.u) = .ok ((s2.past o.u).setCc o.u 2) by
        simp only [insnTend, State.region_past, hr]) rfl]
    · rw [exec_tend, State.insn_completes_at henter (show (insnTend o).body (s2.past o.u) = .ok ((s2.past o.u).commit o.u r) by
        simp only [insnTend, State.region_past, hr]) rfl]
  · refine ⟨fun hr => ?_, fun hr => ?_⟩
    · rw [exec_tabort, State.insn_completes_at henter (show (insnTabort o).body (s2.past o.u) = .ok ((s2.past o.u).setCc o.u 2) by
        simp [insnTabort, hr]) rfl]
    · rw [exec_tabort, State.insn_aborts henter (show (insnTabort o).body (s2.past o.u) = .error (.abort 0x01 o.imm) by
        simp [insnTabort, hr]) rfl]

section
variable (c : Cpu) (r : RStack)

@[simp] theorem Cpu.setRs_g : (c.setRs r).g = c.g := by unfold Cpu.setRs; split <;> rfl
@[simp] theorem Cpu.setRs_f : (c.setRs r).f = c.f := by unfold Cpu.setRs; split <;> rfl
@[simp] theorem Cpu.setRs_psw : (c.setRs r).psw = c.psw := by unfold Cpu.setRs; split <;> rfl
@[simp] theorem Cpu.setRs_region : (c.setRs r).region = c.region := by unfold Cpu.setRs; split <;> rfl
@[simp] theorem Cpu.setRs_irun : (c.setRs r).irun = c.irun := by unfold Cpu.setRs; split <;> rfl
@[simp] theorem Cpu.setRs_retries : (c.setRs r).retries = c.retries := by unfold Cpu.setRs; split <;> rfl
@[simp] theorem Cpu.getC_setRs (n : Nat) : (c.setRs r).getC n = c.getC n := by unfold Cpu.setRs; split <;> rfl

@[simp] theorem Cpu.rs_setRs : (c.setRs r).rs = r := by
  unfold Cpu.setRs
  by_cases h : c.inImage = true
  · rw [if_pos h, Cpu.rs]; exact if_pos h
  · rw [if_neg h, Cpu.rs]; exact if_neg h

end

section
variable (c : Cpu) (cc : BitVec 2) (a : Dword) (q : BitVec 5) (v : Dword)

@[simp] theorem Cpu.getC_setG (n : Nat) : (c.setG q v).getC n = c.getC n := rfl
@[simp] theorem Cpu.getC_setCc (n : Nat) : (c.setCc cc).getC n = c.getC n := rfl
@[simp] theorem Cpu.getC_setIa (n : Nat) : (c.setIa a).getC n = c.getC n := rfl
@[simp] theorem Cpu.getG_setCc (r : BitVec 5) : (c.setCc cc).getG r = c.getG r := rfl
@[simp] theorem Cpu.getG_setIa (r : BitVec 5) : (c.setIa a).getG r = c.getG r := rfl
@[simp] theorem Cpu.rs_setG : (c.setG q v).rs = c.rs := rfl
@[simp] theorem Cpu.rs_setCc : (c.setCc cc).rs = c.rs := rfl

end

/-- Settles O34: an abort writes each part once, and what it writes later leaves it. -/
theorem abortRestores : Obligations.AbortRestores := by
  unfold Obligations.AbortRestores
  refine ⟨fun c r a code imm hr hcode => ?_, fun code h1 h2 => ?_⟩
  · have himm := imm.isLt
    simp only [Cpu.abort, hr]
    refine ⟨by simp, ?_, fun n hn => ?_, by simp, ?_, by simp, ?_, ?_⟩
    · rw [Cpu.getG_setIa, Cpu.getG_setCc, Cpu.getG_setG_same, BitVec.toNat_ofNat, Nat.mod_eq_of_lt (by omega)]
    · rw [Cpu.getG_setIa, Cpu.getG_setCc, Cpu.getG_setG_other _ _ hn, Cpu.getG, Cpu.setC_g, Cpu.setRs_g, Cpu.setC_g]
    · simp [Cpu.getC_setC_other]
    · simp only [Cpu.getC_setIa, Cpu.getC_setCc, Cpu.getC_setG, Cpu.getC_setC_same]
      have hfield := fget_fset_same (((({ c with g := r.ckG, f := r.ckF, psw := r.ckPsw, region := none } : Cpu).setC 8 r.ckC8).setRs r.ckRs).getC 10)
        (lo := 2) (w := 62) (a.toNat / 4) (by decide)
      rw [fget_eq] at hfield
      have ha := a.isLt
      generalize fset _ 2 62 _ = v at hfield ⊢
      have hv := v.isLt
      omega
    · simp [Cpu.setIa, Cpu.setCc]
  · rfl

/-! ## Least states and decoding checks (R54, R98) -/

/-- An instruction that comes to its decoding checks and fails one is squashed. -/
theorem State.enter_of_refused {s s2 : State} {i : Insn} {e : Ends} (h : s.arrives i s2)
    (hc : i.check (s2.psw i.u) (s2.unit i.u).region.isSome = some e) :
    s.enter i = .error (s2.endWith i.u i.word (s.psw i.u).ia false e) := by
  obtain ⟨hb, hw, s1, hf, rfl, ht⟩ := h
  simp [State.enter, hb, hw, hf, ht, hc]

/-- Below its least state an instruction of the profile fails the check of its state. -/
theorem Insn.check_of_least {i : Insn} {p : Psw} (open_ : Bool) (hl : i.lacks = false) (h : p.mode.code < i.least) :
    i.check p open_ = some (.stop (excOf 0x0002)) := by
  simp [Insn.check, hl, h]

/-- The least state of LCTL and STCTL, as the model and the claim give it. -/
theorem State.cLeast_eq (s : State) (u n : Nat) (w : Bool) : s.cLeast u n w = ctlLeast (s.unit u).inImage w n := by
  unfold State.cLeast ctlLeast cReserved
  grind

/-- What a row of privileged instructions says of its instruction: its word is run, with its least state. -/
theorem privilegedRow_runs {c : Instr} {x : Insn × Nat} {s : State} (h : privilegedRow s c = some x) :
    exec c s = .next (s.insn x.1) ∧ x.1.least = x.2 := by
  unfold privilegedRow at h
  split at h <;> cases h
  case h_2 o => exact ⟨rfl, s.cLeast_eq o.u _ true⟩
  case h_3 o => exact ⟨rfl, s.cLeast_eq o.u _ false⟩
  all_goals exact ⟨rfl, rfl⟩

theorem formSlot_least {o : OpC} {slot cfn least al : Nat} {run : State → Nat × Nat → Except Ends State} {s : State}
    (h : s.slotGone slot = false) : (formSlot o slot cfn least al run s).least = least := by
  rw [formSlot, h]
  rfl

theorem formRnd_least {o : OpC} {cfn least : Nat} {spec : Bool} {body : Body} {s : State} (h : s.slotGone 3 = false) :
    (formRnd o cfn least spec body s).least = least := by
  rw [formRnd, h]
  rfl

theorem privilegedIoRow_runs {c : Instr} {x : Insn × Nat} {s : State} (h : privilegedIoRow s c = some x) :
    exec c s = .next (s.insn x.1) ∧ x.1.least = x.2 := by
  unfold privilegedIoRow at h
  split at h
  case h_19 => cases h
  case h_16 =>
    split at h
    · cases h
    · next hgone => cases h; exact ⟨rfl, formSlot_least (by simpa using hgone)⟩
  case h_17 =>
    split at h
    · cases h
    · next hgone => cases h; exact ⟨rfl, formSlot_least (by simpa using hgone)⟩
  case h_18 =>
    split at h
    · cases h
    · next hgone => cases h; exact ⟨rfl, formRnd_least (by simpa using hgone)⟩
  all_goals cases h; exact ⟨rfl, rfl⟩

/-- Settles O43: the check of the state comes before every other but that of the profile. -/
theorem privilegedStops : Obligations.PrivilegedStops := by
  unfold Obligations.PrivilegedStops
  intro c x s s2 hrow harrives hl hleast
  obtain ⟨hexec, hx⟩ := hrow.elim privilegedRow_runs privilegedIoRow_runs
  rw [hexec, State.insn_refused harrives (Insn.check_of_least _ hl (hx ▸ hleast)), State.endWith_excOf _ _ _ _ (by decide)]

/-! ## Words of customer slots (R116) -/

/-- A word of slot 8 with a nonzero reserved bit. -/
def customWord : Word := 0x78000001

/-- CPU 0 at work in a part with a customer slot 8. -/
def customAtWork : State := { working Cpu.reset with fuses := { Fuses.default with custom := some 1 } }

theorem customWord_arrives : comesTo customAtWork (goneSlot 0 customWord) (fun s2 => (s2.unit 0).region.isNone) = true := by
  decide

/-- The instruction that the word enters as, on CPU 0. -/
def customInsn : Insn :=
  { u := 0, word := customWord, lacks := !(Config.slotAssigned 8 0), spec := true, restricted := true, body := fun s => .ok s }

/-- Whatever cfn values the slot assigns, the word fails a decoding check. -/
theorem customInsn_check (p : Psw) (open_ : Bool) : ∃ e, customInsn.check p open_ = some e := by
  unfold customInsn
  cases Config.slotAssigned 8 0 <;> simp [Insn.check, show isCpu 0 = true from rfl]

theorem exec_customWord_of_stay {t : State} (h : customAtWork.enter customInsn = .error t) :
    exec (.customerSlotInstruction 0 customWord) customAtWork = .next t := by
  change State.otherSlot customAtWork 0 customWord = _
  rw [State.otherSlot, if_pos (by decide)]
  split
  · next r hr => cases h.symm.trans hr; rfl
  · next r hr => cases h.symm.trans hr

/-- Refutes O42: a word with nonzero reserved bits of a populated customer slot ends in 0x0001 or 0x0006, whatever the slot assigns; it is
not refused (R98, R116). -/
theorem not_unassignedWords : ¬ Obligations.UnassignedWords := by
  unfold Obligations.UnassignedWords
  intro h
  obtain ⟨s2, harrives, hregion⟩ := exists_of_comesTo customWord_arrives
  have hrefused := ((h.2.1 0 customWord customAtWork s2 (.customerSlotInstruction 0 customWord) (.inr ⟨rfl, by decide⟩)).2.2
    rfl (by decide) harrives (by simpa using hregion))
  obtain ⟨e, he⟩ := customInsn_check (s2.psw 0) (s2.unit 0).region.isSome
  have hstay := State.enter_of_refused (i := customInsn) harrives he
  rw [exec_customWord_of_stay hstay] at hrefused
  cases hrefused

end Sys2Proof.Machine
end

section
/-! SUPPORT. Events: what the command of a row does, for running hardware, for the service die and for the rest of the module, and the
statements about them (R249 to R263, R454, R501). -/
namespace Sys2Proof.Machine
open Sys2Proof

/-! ## Events of running hardware (R454) -/

theorem checkEvent_unlessFrozen {c : Instr} {s t : State} (h : checkEvent s c = some t) : exec c s = .next (s.unlessFrozen t) := by
  unfold checkEvent at h
  split at h <;> cases h
  case h_9 n ia =>
    refine congrArg Host.Outcome.next ?_
    cases hf : s.frozen <;> simp [State.unlessFrozen, hf]
  all_goals rfl

theorem channelEvent_unlessFrozen {c : Instr} {s t : State} (h : channelEvent s c = some t) : exec c s = .next (s.unlessFrozen t) := by
  unfold channelEvent at h
  split at h <;> cases h
  all_goals rfl

theorem portEvent_unlessFrozen {c : Instr} {s t : State} (h : portEvent s c = some t) : exec c s = .next (s.unlessFrozen t) := by
  unfold portEvent at h
  split at h <;> cases h
  all_goals rfl

theorem powerEvent_unlessFrozen {c : Instr} {s t : State} (h : powerEvent s c = some t) : exec c s = .next (s.unlessFrozen t) := by
  unfold powerEvent at h
  split at h <;> cases h
  rfl

/-- Settles O51: each row's command has its effect unless the module is stopped. -/
theorem eventsWhileRunning : Obligations.EventsWhileRunning := by
  unfold Obligations.EventsWhileRunning
  rintro c s t (h | h | h | h)
  · exact checkEvent_unlessFrozen h
  · exact channelEvent_unlessFrozen h
  · exact portEvent_unlessFrozen h
  · exact powerEvent_unlessFrozen h

/-! ## Caches and home dies (R249 to R263) -/

theorem fabricEvent_unlessFrozen {c : Instr} {s t : State} (h : fabricEvent s c = some t) : exec c s = .next (s.unlessFrozen t) := by
  unfold fabricEvent at h
  split at h <;> cases h
  all_goals rfl

/-- The events of the caches and home dies leave storage, working store and what units hold. -/
theorem fabricEvent_quiet {c : Instr} {s t : State} (h : fabricEvent s c = some t) : Quiet s t := by
  have hs := Quiet.refl s
  unfold fabricEvent at h
  split at h <;> cases h
  · exact hs.fillArrives
  · exact hs.victimAccepted
  · exact hs.homeRead.ite hs
  · exact hs.homeOwn.ite hs
  · exact hs.homeWriteback.ite hs
  · exact hs.removeL2
  · exact hs.l2SweepEnd
  · exact hs.l3SweepEnd

/-- Settles O48: each event is one operation of the caches or a home die. -/
theorem cachesAreTransparent : Obligations.CachesAreTransparent := by
  unfold Obligations.CachesAreTransparent
  intro c s t h _
  obtain ⟨hmem, hws, hheld⟩ := fabricEvent_quiet h
  exact ⟨fabricEvent_unlessFrozen h, hmem, hws, hheld⟩

/-! ## The service die and the rest of the module (R501) -/

theorem State.pollRails_ifPowered (s : State) (l : List (Option Reading)) :
    s.pollRails l = if s.powered then s.pollRails l else s := by
  cases h : s.powered <;> simp [State.pollRails, h]

theorem serviceEvent_ifPowered {c : Instr} {s t : State} (h : serviceEvent s c = some t) (hwf : c.wf = true) :
    exec c s = .next (if s.powered then t else s) := by
  unfold serviceEvent at h
  split at h <;> simp only [Option.some.injEq, reduceCtorEq] at h <;> subst h
  case h_15 parity =>
    refine congrArg Host.Outcome.next ?_
    cases hp : s.powered <;> simp [State.faultAccept, State.collects, hp]
  case h_16 parity =>
    refine congrArg Host.Outcome.next ?_
    cases hp : s.powered <;> simp [State.mergeOne, State.collects, hp]
  case h_17 rds => exact (if_pos hwf).trans (congrArg Host.Outcome.next (s.pollRails_ifPowered rds))
  case h_18 rds => exact (if_pos hwf).trans (congrArg Host.Outcome.next (s.pollRails_ifPowered rds))
  case h_19 =>
    refine congrArg Host.Outcome.next ?_
    cases hp : s.powered <;> simp
  case h_22 u =>
    refine congrArg Host.Outcome.next ?_
    cases hp : s.powered <;> simp [bit]
  case h_23 u =>
    refine congrArg Host.Outcome.next ?_
    cases hp : s.powered <;> simp
  all_goals rfl

theorem moduleEvent_exec {c : Instr} {s t : State} (h : moduleEvent s c = some t) : exec c s = .next t := by
  unfold moduleEvent at h
  split at h <;> cases h
  all_goals rfl

theorem sessionEvent_exec {c : Instr} {s t : State} (h : sessionEvent s c = some t) : exec c s = .next t := by
  unfold sessionEvent at h
  split at h <;> cases h
  all_goals rfl

theorem resetEvent_exec {c : Instr} {s t : State} (h : resetEvent s c = some t) : exec c s = .next t := by
  unfold resetEvent at h
  split at h <;> cases h
  all_goals rfl

/-- Settles O52: each row's command has its effect, one of the service die while the module has power. -/
theorem serviceEvents : Obligations.ServiceEvents := by
  unfold Obligations.ServiceEvents
  refine ⟨fun c s t => serviceEvent_ifPowered, ?_⟩
  rintro c s t (h | h | h)
  · exact moduleEvent_exec h
  · exact sessionEvent_exec h
  · exact resetEvent_exec h

end Sys2Proof.Machine
end

section
/-! SUPPORT. Timers: what a boundary brings to its interruption command (R75, R85 to R87, R333), and the passing of time up to a CPU
timer or a clock comparator (R56). -/
namespace Sys2Proof.Machine
open Sys2Proof

/-! ## What the boundary finds (R75) -/

/-- A condition other than a host-level exit is taken where its command asks for it. -/
theorem State.takeNext_of_boundary {s : State} {u : Nat} {p : Bound → Bool} {b : Bound} (hb : s.boundary u = b)
    (hexit : ∀ q, b ≠ .exit 2 q) : s.takeNext u p = if p b then s.act u b else s := by
  unfold State.takeNext
  split
  · next q hq => exact absurd (hb.symm.trans hq) (hexit q)
  · dsimp only; rw [hb]

/-! ## Time that passes with a snapshot pending (R497, R513) -/

@[simp] theorem State.elapsed_sendMsg (s : State) (m : Msg) : (s.sendMsg m).elapsed = s.elapsed := by
  unfold State.sendMsg; dsimp only; split <;> rfl

@[simp] theorem State.elapsed_hostSignal (s : State) (code detail : Nat) : (s.hostSignal code detail).elapsed = s.elapsed := by
  unfold State.hostSignal; split <;> rfl

@[simp] theorem State.elapsed_fspEvent (s : State) (group code : Nat) (body : List Dword) :
    (s.fspEvent group code body).elapsed = s.elapsed := by
  unfold State.fspEvent
  refine List.foldlRecOn (motive := fun t : State => t.elapsed = s.elapsed) _ _ rfl fun t ht i _ => ?_
  split
  · split
    · exact ht
    · exact ht
  · exact ht

@[simp] theorem State.elapsed_todSet (s : State) (rel : Bool) (x : Dword) : (s.todSet rel x).elapsed = s.elapsed := by
  simp [State.todSet, State.send]

theorem State.elapsed_runWaiting (s : State) (l : List TodWait) : (s.runWaiting l).elapsed = s.elapsed := by
  induction l generalizing s with
  | nil => rfl
  | cons w l ih =>
    cases w with
    | step rel x => exact (ih _).trans (s.elapsed_todSet rel x)
    | snap who => unfold State.runWaiting; split <;> rfl

theorem Quiet.todSet {sb s : State} (h : Quiet sb s) (rel : Bool) (x : Dword) : Quiet sb (s.todSet rel x) :=
  Quiet.fspEvent (Quiet.hostSignal (Quiet.send (Quiet.upd h)))

theorem Quiet.runWaiting {sb s : State} (h : Quiet sb s) (l : List TodWait) : Quiet sb (s.runWaiting l) := by
  induction l generalizing s with
  | nil => exact h.upd
  | cons w l ih =>
    cases w with
    | step rel x => exact ih (h.todSet rel x)
    | snap who =>
      unfold State.runWaiting
      split
      · exact h.upd
      · exact Quiet.upd (Quiet.setReg h.upd)

theorem Quiet.copyCounters {sb s : State} (h : Quiet sb s) : Quiet sb s.copyCounters := Quiet.runWaiting h.upd _

theorem Quiet.passTod {sb s : State} (h : Quiet sb s) (d : Nat) : Quiet sb (s.passTod d) := by
  obtain ⟨r, hr⟩ := s.passTod_eq d
  rw [hr]
  exact h.upd

theorem State.elapsed_passTod (s : State) (d : Nat) : (s.passTod d).elapsed = s.elapsed + d := rfl

/-- However time-of-day steps on the way, d units elapse and what instructions hold in the units stays. -/
theorem State.passUnits_elapsed (s : State) (d : Nat) : (s.passUnits d).elapsed = s.elapsed + d ∧ Quiet s (s.passUnits d) := by
  have hs := Quiet.refl s
  unfold State.passUnits
  split
  · exact ⟨rfl, hs.passTod d⟩
  · next tc _ =>
    dsimp only
    split
    · exact ⟨rfl, hs.passTod d⟩
    · next hw =>
      have hle : (tc - s.tod).toNat ≤ d := Nat.le_of_not_lt fun h => hw (Bool.or_eq_true_iff.mpr (.inr (decide_eq_true h)))
      have hcopy : (s.passTod (tc - s.tod).toNat).copyCounters.elapsed = s.elapsed + (tc - s.tod).toNat :=
        State.elapsed_runWaiting _ _
      refine ⟨?_, (hs.passTod _).copyCounters.passTod _⟩
      rw [State.elapsed_passTod, hcopy, Nat.add_assoc, Nat.add_sub_cancel' hle]

/-! ## The CPU timer (R56) -/

theorem Cpu.getC_of_kept {c d : Cpu} (h : c.kept = d.kept) (n : Nat) : c.getC n = d.getC n := by
  simp only [Cpu.kept, Prod.mk.injEq] at h
  obtain ⟨⟨-, -, hhost, himg, hhi⟩, -, -, -, hirun, -⟩ := h
  unfold Cpu.getC Cpu.inImage
  rw [hhost, himg, hhi, hirun]

theorem State.readC_timer (s : State) (u : Nat) : s.readC u 4 = (s.unit u).getC 4 - BitVec.ofNat 64 s.elapsed := rfl

/-- A CPU timer that is not negative is -1 once its value and one unit more have passed. -/
theorem State.timer_passUnits (s : State) (u : Nat) :
    (s.passUnits ((s.readC u 4).toNat + 1)).readC u 4 = 0xFFFFFFFFFFFFFFFF := by
  obtain ⟨helapsed, hquiet⟩ := s.passUnits_elapsed ((s.readC u 4).toNat + 1)
  rw [State.readC_timer, helapsed, Cpu.getC_of_kept (hquiet.held u), State.readC_timer, BitVec.ofNat_add, BitVec.ofNat_add,
    BitVec.ofNat_toNat, BitVec.setWidth_eq]
  generalize (s.unit u).getC 4 = v
  generalize BitVec.ofNat 64 s.elapsed = e
  bv_omega

theorem execCpuTimerCondition_negative (u : Uid) (s : State) (hpow : s.powered = true) :
    ∃ t, exec (.cpuTimerCondition u) s = .next t ∧ (t.readC u 4).getLsbD 63 = true := by
  cases hv : bit (s.readC u 4) 63
  · exact ⟨_, congrArg Host.Outcome.next (if_neg (by simp [hv, hpow])), by rw [State.timer_passUnits]; decide⟩
  · exact ⟨s, congrArg Host.Outcome.next (if_pos (by simp [hv])), hv⟩

/-! ## The clock comparator (R56) -/

theorem State.tod_passUnits {s : State} (d : Nat) (h : s.todWait = []) : (s.passUnits d).tod = s.tod + BitVec.ofNat 64 d := by
  obtain ⟨r, x, y, b, hpass⟩ := State.passUnits_eq d h
  rw [hpass]

theorem execClockComparatorCondition_passed (u : Uid) (s : State) (hpow : s.powered = true)
    (hmax : (s.readC u 5).toNat < 2 ^ 64 - 1) :
    ∃ t, exec (.clockComparatorCondition u) s = .next t ∧ (s.todWait = [] → (s.readC u 5).toNat < t.tod.toNat) := by
  by_cases hv : (s.readC u 5).toNat < s.tod.toNat
  · exact ⟨s, congrArg Host.Outcome.next (if_pos (.inl hv)), fun _ => hv⟩
  · refine ⟨s.passUnits ((s.readC u 5).toNat + 1 - s.tod.toNat), congrArg Host.Outcome.next (if_neg (by
      rintro (h | h | h)
      · exact hv h
      · exact absurd h (Nat.ne_of_lt hmax)
      · exact absurd (hpow.symm.trans h) (by decide))), fun hwait => ?_⟩
    rw [State.tod_passUnits _ hwait, BitVec.toNat_add, BitVec.toNat_ofNat]
    omega

/-- Settles O45: an interruption command takes what the boundary brings, and a timer command lets time pass up to its condition. -/
theorem interruptionsAndTimers : Obligations.InterruptionsAndTimers := by
  unfold Obligations.InterruptionsAndTimers
  refine ⟨fun s u n => ?_, execCpuTimerCondition_negative, execClockComparatorCondition_passed⟩
  have taken {u : Nat} {p : Bound → Bool} {b : Bound} (hb : s.boundary u = b) (hexit : ∀ q, b ≠ .exit 2 q) (hp : p b = true) :
      (Host.Outcome.next (s.takeNext u p) : Result) = .next (s.act u b) :=
    congrArg Host.Outcome.next ((State.takeNext_of_boundary hb hexit).trans (if_pos hp))
  have clear {u : Nat} {p : Bound → Bool} (hb : s.boundary u = .clear) (hp : p .clear = false) :
      (Host.Outcome.next (s.takeNext u p) : Result) = .next s :=
    congrArg Host.Outcome.next ((State.takeNext_of_boundary hb nofun).trans (if_neg (by simp [hp])))
  exact ⟨fun x h => taken h nofun rfl, fun x h => taken h nofun rfl, fun m h => taken h nofun rfl, fun h => taken h nofun rfl,
    fun h => clear h rfl, fun h => ⟨clear h rfl, clear h rfl, clear h rfl⟩⟩

end Sys2Proof.Machine
end

section
/-! SUPPORT. Checks: the ladder of mismatches (R193) and a completed move (R201, R202). -/
namespace Sys2Proof.Machine
open Sys2Proof

/-! ## Two changes of one unit -/

theorem serase_of_no_key {α : Type} {m : Store α} {k : Nat} (h : ∀ e ∈ m, e.1 ≠ k) : serase m k = m := by
  induction m with
  | nil => rfl
  | cons e r ih => rw [serase, if_neg (h e (by simp)), ih fun e he => h e (by simp [he])]

theorem serase_sinsert {α : Type} {m : Store α} {k : Nat} (v : α) (h : ∀ e ∈ m, e.1 ≠ k) : serase (sinsert m k v) k = m := by
  induction m with
  | nil => simp [sinsert, serase]
  | cons e r ih =>
    have hr : ∀ e ∈ r, e.1 ≠ k := fun e he => h e (by simp [he])
    rw [sinsert]
    split
    · rw [serase, if_pos rfl, serase_of_no_key h]
    · rw [serase, if_neg (h e (by simp)), ih hr]

theorem sput_sput {α : Type} [DecidableEq α] (d : Nat → α) (m : Store α) (k : Nat) (v w : α) :
    sput d (sput d m k v) k w = sput d m k w := by
  have herase : serase (sput d m k v) k = serase m k := by
    unfold sput
    split
    · exact serase_of_no_key (serase_no_key m k)
    · exact serase_sinsert v (serase_no_key m k)
  rw [sput, herase, sput]

theorem State.setUnit_setUnit (s : State) (u : Nat) (c d : Cpu) : (s.setUnit u c).setUnit u d = s.setUnit u d := by
  unfold State.setUnit
  dsimp only
  rw [sput_sput]

theorem State.modUnit_modUnit (s : State) (u : Nat) (f g : Cpu → Cpu) :
    (s.modUnit u f).modUnit u g = s.modUnit u fun c => g (f c) := by
  rw [State.modUnit, State.unit_modUnit_same, State.modUnit, State.setUnit_setUnit, State.modUnit]

/-! ## What messages and counters leave of a unit -/

@[simp] theorem State.unit_setReg (s : State) (a : Nat) (v : Dword) (u : Nat) : (s.setReg a v).unit u = s.unit u := rfl

@[simp] theorem State.unit_sendMsg (s : State) (m : Msg) (u : Nat) : (s.sendMsg m).unit u = s.unit u := by
  unfold State.sendMsg; dsimp only; split <;> rfl

@[simp] theorem State.reg_sendMsg (s : State) (m : Msg) (a : Nat) : (s.sendMsg m).reg a = s.reg a := by
  unfold State.sendMsg; dsimp only; split <;> rfl

@[simp] theorem State.core_sendMsg (s : State) (m : Msg) (k : Nat) : (s.sendMsg m).core k = s.core k := by
  unfold State.sendMsg; dsimp only; split <;> rfl

/-- An event record moves nothing but the records sent. -/
theorem State.fspEvent_eq (s : State) (group code : Nat) (body : List Dword) :
    ∃ out, s.fspEvent group code body = { s with fspOut := out } := by
  unfold State.fspEvent
  refine List.foldlRecOn (motive := fun t : State => ∃ out, t = { s with fspOut := out }) _ _ ⟨s.fspOut, rfl⟩ fun t ht i _ => ?_
  obtain ⟨out, rfl⟩ := ht
  split
  · split
    · exact ⟨_, rfl⟩
    · exact ⟨out, rfl⟩
  · exact ⟨out, rfl⟩

theorem State.unit_fspEvent (s : State) (group code : Nat) (body : List Dword) (u : Nat) :
    (s.fspEvent group code body).unit u = s.unit u := by
  obtain ⟨out, h⟩ := s.fspEvent_eq group code body
  rw [h]; rfl

theorem satInc_eq_min (n w : Nat) : satInc n w = min (2 ^ w - 1) (n + 1) := by
  unfold satInc
  split <;> omega

/-- An error counter after its increment, its SAT bit beyond it. -/
theorem State.rf_errInc (s : State) (a : Nat) {lo w sat : Nat} (h : lo + w ≤ sat) (hsat : sat < 64) :
    (s.errInc a lo w sat).rf a lo w = min (2 ^ w - 1) (s.rf a lo w + 1) := by
  have hlt : satInc (s.rf a lo w) w < 2 ^ w := by
    have := Nat.two_pow_pos w
    rw [satInc_eq_min]
    omega
  have hcount : fget (fset (s.reg a) lo w (satInc (s.rf a lo w) w)) lo w = satInc (s.rf a lo w) w := by
    rw [fget_fset_same _ _ (by omega), Nat.mod_eq_of_lt hlt]
  unfold State.errInc
  dsimp only
  rw [State.rf, State.reg_setReg_same, ← satInc_eq_min]
  split
  · rw [setBit, fget_fset_other _ _ (by omega) (by omega), hcount]
  · exact hcount

/-! ## Mismatches (R193) -/

section
variable {s : State} {n : Nat} (hissuing : s.issuing n = true) (hchecked : (s.unit n).checked = true)
include hissuing hchecked

theorem State.mismatch_retries (h : (s.unit n).retries < 2) : s.mismatch n false = s.modUnit n fun c =>
    { c with realCause := true, retries := c.retries + 1, retryIa := if c.retries = 0 then c.psw.ia else c.retryIa } := by
  simp only [State.mismatch, hissuing, hchecked, if_pos h, State.modUnit_modUnit, Bool.not_true, Bool.or_self, Bool.false_eq_true,
    if_false, Bool.not_false, Bool.or_true, Bool.or_false]

theorem State.mismatch_selfTest (h : 2 ≤ (s.unit n).retries) : ((s.mismatch n false).unit n).selfTest = true ∧
    (s.mismatch n false).rf (rChkStat (s.coreOf n)) 32 8 = min 255 (s.rf (rChkStat (s.coreOf n)) 32 8 + 1) := by
  simp only [State.mismatch, hissuing, hchecked, if_neg (Nat.not_lt.mpr h), Bool.not_true, Bool.or_self, Bool.false_eq_true, if_false]
  exact ⟨by rw [State.errInc, State.unit_setReg, State.unit_modUnit_same], State.rf_errInc _ _ (by decide) (by decide)⟩

end

theorem State.confirm_other {s : State} {n : Nat} {ia : Dword} (h : (s.unit n).retries = 0 ∨ (s.unit n).retryIa ≠ ia) :
    s.confirm n ia = s := by
  unfold State.confirm
  dsimp only
  refine if_pos ?_
  rcases h with h | h <;> simp [h]

theorem State.confirm_retried {s : State} {n : Nat} {ia : Dword} (hretries : (s.unit n).retries ≠ 0)
    (htest : (s.unit n).selfTest = false) (hia : (s.unit n).retryIa = ia) : s.confirm n ia = s.retryOk n ia := by
  unfold State.confirm
  dsimp only
  exact if_neg (by simp [hretries, htest, hia])

theorem State.retryOk_retries (s : State) (n : Nat) (ia : Dword) : ((s.retryOk n ia).unit n).retries = 0 := by
  unfold State.retryOk
  dsimp only
  rw [State.unit_sendMsg, State.errInc, State.unit_setReg, State.unit_modUnit_same]
  rfl

/-- Settles O46: by the retries already counted, and by what confirms an instruction. -/
theorem mismatchLadder : Obligations.MismatchLadder := by
  unfold Obligations.MismatchLadder
  refine ⟨fun s n hrun hissuing hchecked => ?_, fun s n ia => ⟨fun hretries htest hia => ?_, State.confirm_other⟩⟩
  · have hexec : exec (.mismatchRetry n) s = .next (s.mismatch n false) := congrArg Host.Outcome.next (if_neg (by simp [hrun]))
    refine ⟨fun h => ?_, fun h => ?_⟩
    · rw [hexec, State.mismatch_retries hissuing hchecked h]
    · exact ⟨_, hexec, State.mismatch_selfTest hissuing hchecked h⟩
  · rw [State.confirm_retried hretries htest hia]
    exact ⟨s.retryOk_retries n ia, _, rfl⟩

/-! ## Moves (R201, R202) -/

theorem State.deliverHeld_nil {s : State} (h : s.held = []) (n : Nat) : s.deliverHeld n = s := by
  unfold State.deliverHeld
  dsimp only
  rw [h, List.filter_nil, List.filter_nil, List.foldl_nil, ← h]

theorem State.coreOf_nameCore (s : State) (n : Nat) {core : Nat} (h : core < 416) : (s.nameCore n core).coreOf n = core := by
  unfold State.nameCore State.coreOf
  dsimp only
  rw [State.rf_setRf_field _ _ _ (by decide) (by decide), State.rf_setRf_same _ _ _ (by decide),
    State.rf_setRf_same _ _ _ (by decide)]
  omega

theorem State.sendMsg_eq (s : State) (m : Msg) : ∃ q r, s.sendMsg m = { s with msgs := q, merges := r } := by
  unfold State.sendMsg
  dsimp only
  split
  · exact ⟨_, _, rfl⟩
  · exact ⟨_, _, rfl⟩

/-- The Core Map of a move that ends: the entry names the target and is active (R201). -/
def State.moveMapped (s : State) (n target : Nat) : State :=
  (({ s with moves := s.moves.filter fun x => x.1 != n } : State).nameCore n target).setRf (rCmap n) 62 2 1

/-- The state of a move that ends, up to the message: the unit starts afresh on the target, and the former core is swept (R201). -/
def State.moveNamed (s : State) (n former target : Nat) (sparing : Bool) : State :=
  ((s.moveMapped n target).modUnit n fun c =>
    { (c.setC 33 (setBit (c.getC 33) 8 true)) with tlb1 := [], tlb2 := [], walks := [] }).startSweep former sparing

/-- The state after the message and the machine check of a move (R202). -/
def State.moveReported (s : State) (n former target : Nat) (sparing : Bool) : State :=
  let s4 := s.moveNamed n former target sparing
  let m := s4.causeMsg n former 0x27 0 (n <<< 32 + (target / 26) <<< 8 + target % 26)
  (if sparing then (s4.sendMsg m).pendMc n (crCheck (s4.imgOf n) m)
    else s4.pendMc n (crCheck (s4.imgOf n) ⟨0, s.dieTod (former / 26), none, false⟩)).modUnit n Cpu.cleared

theorem crCheck_code (image : Option Nat) (m : Msg) : (crCheck image m).code.getLsbD 63 = true := by
  change (setBit 0 63 true).getLsbD 63 = true
  decide

section
variable (s : State) (q : Store (List Msg)) (r : List Msg) (n : Nat) (m : MCheck)

/-- A state with messages sent, a machine check pending at a CPU, and its failure handled. -/
def State.crReported : State := (({ s with msgs := q, merges := r } : State).pendMc n m).modUnit n Cpu.cleared

theorem State.reg_crReported (a : Nat) : (s.crReported q r n m).reg a = s.reg a := rfl
theorem State.core_crReported (k : Nat) : (s.crReported q r n m).core k = s.core k := rfl
theorem State.held_crReported : (s.crReported q r n m).held = s.held := rfl

theorem State.unit_crReported :
    (s.crReported q r n m).unit n = { s.unit n with mchecks := (s.unit n).mchecks ++ [m] }.cleared := by
  rw [State.crReported, State.unit_modUnit_same, State.pendMc, State.unit_modUnit_same]
  rfl

end

section
variable {s : State} {n former target : Nat} {sparing : Bool}

theorem State.moveComplete_eq (hmove : s.moves.find? (fun x => x.1 == n) = some (n, former, target, sparing)) :
    s.moveComplete n true = ((s.moveReported n former target sparing).deliverHeld n).cmapSignal n := by
  rw [State.moveComplete, hmove]
  rfl

theorem State.held_moveNamed : (s.moveNamed n former target sparing).held = s.held := by
  unfold State.moveNamed State.moveMapped State.nameCore
  dsimp only
  split <;> rfl

/-- What the report adds: one machine check for CR, and the end of the failure. -/
theorem State.moveReported_eq : ∃ (q : Store (List Msg)) (r : List Msg) (m : MCheck), m.code.getLsbD 63 = true ∧
    s.moveReported n former target sparing = (s.moveNamed n former target sparing).crReported q r n m := by
  cases sparing with
  | true =>
    obtain ⟨q, r, h⟩ := (s.moveNamed n former target true).sendMsg_eq
      ((s.moveNamed n former target true).causeMsg n former 0x27 0 (n <<< 32 + (target / 26) <<< 8 + target % 26))
    exact ⟨q, r, _, crCheck_code _ _, by rw [State.moveReported, if_pos rfl, h, State.crReported]⟩
  | false => exact ⟨_, _, _, crCheck_code _ _, rfl⟩

end

/-- The service signal of an active CPU's entry reaches that CPU, and moves no register and no core. -/
theorem State.cmapSignal_of_active {s : State} {n : Nat} (h : s.cmapState n = 1) : ∃ l : List Dword,
    (s.cmapSignal n).unit n = { s.unit n with signals := l } ∧ (∀ a, (s.cmapSignal n).reg a = s.reg a) ∧
    (∀ k, (s.cmapSignal n).core k = s.core k) := by
  have hsignal : ∀ v, ∃ l : List Dword, (s.pendSignal n v).unit n = { s.unit n with signals := l } := by
    intro v
    rw [State.pendSignal, State.unit_modUnit_same]
    split
    · exact ⟨_, rfl⟩
    · exact ⟨_, rfl⟩
  obtain ⟨l, hl⟩ := hsignal (BitVec.ofNat 64 (2 <<< 56 + (s.rf (rCmap n) 48 8 <<< 8 + n)))
  rw [State.cmapSignal, if_pos h, State.cmapEvent]
  obtain ⟨out, hout⟩ := (s.pendSignal n (BitVec.ofNat 64 (2 <<< 56 + (s.rf (rCmap n) 48 8 <<< 8 + n)))).fspEvent_eq 8 3
    [BitVec.ofNat 64 n, (s.pendSignal n (BitVec.ofNat 64 (2 <<< 56 + (s.rf (rCmap n) 48 8 <<< 8 + n)))).reg (rCmap n)]
  rw [hout]
  exact ⟨l, hl, fun _ => rfl, fun _ => rfl⟩

section
variable (s : State) (n former target : Nat) (sparing : Bool)

theorem State.reg_moveNamed (a : Nat) : (s.moveNamed n former target sparing).reg a = (s.moveMapped n target).reg a := rfl

theorem State.coreOf_moveMapped (h : target < 416) : (s.moveMapped n target).coreOf n = target := by
  rw [State.moveMapped, State.coreOf, State.rf_setRf_field _ _ _ (by decide) (by decide),
    State.rf_setRf_field _ _ _ (by decide) (by decide)]
  exact State.coreOf_nameCore _ n h

theorem State.cmapState_moveMapped : (s.moveMapped n target).cmapState n = 1 := by
  exact State.rf_setRf_same _ _ _ (by decide)

theorem State.unit_moveMapped : (s.moveMapped n target).unit n = s.unit n := by
  unfold State.moveMapped State.nameCore
  dsimp only
  split <;> rfl

theorem State.unit_startSweep (core : Nat) (retire : Bool) (u : Nat) : (s.startSweep core retire).unit u = s.unit u := rfl

theorem State.unit_moveNamed : (s.moveNamed n former target sparing).unit n =
    { ((s.unit n).setC 33 (setBit ((s.unit n).getC 33) 8 true)) with tlb1 := [], tlb2 := [], walks := [] } := by
  rw [State.moveNamed, State.unit_startSweep, State.unit_modUnit_same, State.unit_moveMapped]

theorem State.sweeping_moveNamed : ((s.moveNamed n former target sparing).core former).sweeping = some sparing := by
  rw [State.moveNamed, State.startSweep, State.modCore, State.core_setCore_same]

end

/-- Settles O47: the Core Map and the unit as the move leaves them, which the message and the signals do not touch. -/
theorem moveCompletes : Obligations.MoveCompletes := by
  unfold Obligations.MoveCompletes
  intro s n former target sparing hrun hheld htarget hmove
  have hexec : exec (.moveComplete n true) s = .next (s.moveComplete n true) := congrArg Host.Outcome.next (if_neg (by simp [hrun]))
  obtain ⟨q, r, m, hm, hrep⟩ := State.moveReported_eq (s := s) (n := n) (former := former) (target := target) (sparing := sparing)
  rw [State.moveComplete_eq hmove, hrep, State.deliverHeld_nil ((State.held_crReported _ q r n m).trans
    (State.held_moveNamed.trans hheld))] at hexec
  have hreg (a : Nat) : ((s.moveNamed n former target sparing).crReported q r n m).reg a = (s.moveMapped n target).reg a := by
    rw [State.reg_crReported, State.reg_moveNamed]
  obtain ⟨l, hsig, hsigReg, hsigCore⟩ := State.cmapSignal_of_active (s := (s.moveNamed n former target sparing).crReported q r n m) (n := n)
    (by rw [State.cmapState, State.rf, hreg]; exact s.cmapState_moveMapped n target)
  rw [State.unit_crReported, State.unit_moveNamed] at hsig
  refine ⟨_, hexec, ?_, ?_, ?_, ?_, ?_, ?_, ⟨m, ?_, hm⟩, fun g => ?_⟩
  · rw [State.coreOf, State.rf, State.rf, hsigReg, hreg]
    exact s.coreOf_moveMapped n target (by omega)
  · rw [State.cmapState, State.rf, hsigReg, hreg]
    exact s.cmapState_moveMapped n target
  · rw [hsig]; rfl
  · rw [hsig]; rfl
  · rw [hsig]
    exact (congrArg (·.getLsbD 8) (Cpu.getC_setC_same _ _ _)).trans (bit_setBit_same _ _ (by decide))
  · rw [hsigCore, State.core_crReported]; exact s.sweeping_moveNamed n former target sparing
  · rw [hsig]; exact List.mem_append_right _ (List.mem_singleton_self m)
  · rw [State.g, hsig]
    exact congrArg (fun x => sget (fun _ => (0 : Dword)) x g.toNat) (Cpu.setC_g _ _ _)

end Sys2Proof.Machine
end

section
/-! SUPPORT. Writes: a write of a service register refused whole or applied whole (R14 to R16), its CLR bit (R494), and the banks of
working store (R437, R442, R444). -/
namespace Sys2Proof.Machine
open Sys2Proof

/-! ## The writes (R14 to R16) -/

/-- Every row's command is the write that the row names. -/
theorem writeRow_exec {c : Instr} {x : WriteRow} {s : State} (h : writeRow s c = some x) : exec c s = .next (s.regWrite x.w x.a x.v) := by
  unfold writeRow at h
  split at h <;> cases h
  all_goals rfl

section
variable {s : State} {w : Writer} {eng : Option Nat} {a : Nat} {v : Dword}

theorem State.regWriteBy_frozen (h : s.frozen = true) (hw : w ≠ .mgmt) : s.regWriteBy w eng a v = s := by
  unfold State.regWriteBy
  exact if_pos (by simp [h, hw])

theorem State.regWriteBy_of_running (h : s.frozen = false ∨ w = .mgmt) : s.regWriteBy w eng a v = match s.writeTarget w a with
    | none => s
    | some (d, i, a1) => if s.writeReason d a1 v ≠ 0 then s.refuse a w (s.writeReason d a1 v) else s.performWrite w eng d i a1 v := by
  unfold State.regWriteBy
  refine (if_neg ?_).trans rfl
  rcases h with h | h <;> simp [h]

theorem State.regWriteBy_none (h : s.writeTarget w a = none) : s.regWriteBy w eng a v = s := by
  unfold State.regWriteBy
  rw [h]
  exact ite_self s

variable {d : RegDesc} {i a1 : Nat}

theorem State.regWriteBy_refused (h : s.frozen = false ∨ w = .mgmt) (ht : s.writeTarget w a = some (d, i, a1))
    (hr : s.writeReason d a1 v ≠ 0) : s.regWriteBy w eng a v = s.refuse a w (s.writeReason d a1 v) := by
  rw [State.regWriteBy_of_running h, ht]
  exact if_pos hr

theorem State.regWriteBy_performed (h : s.frozen = false ∨ w = .mgmt) (ht : s.writeTarget w a = some (d, i, a1))
    (hr : s.writeReason d a1 v = 0) : s.regWriteBy w eng a v = s.performWrite w eng d i a1 v := by
  rw [State.regWriteBy_of_running h, ht]
  exact if_neg fun h => h hr

end

theorem State.writeReason_cases (s : State) (d : RegDesc) (a : Nat) (v : Dword) :
    s.writeReason d a v = 0 ∨ s.writeReason d a v = 0x80 ∨ s.writeReason d a v = 0x81 := by
  unfold State.writeReason
  split
  · exact .inl rfl
  · split
    · exact .inr (.inl rfl)
    · split
      · exact .inr (.inr rfl)
      · exact .inl rfl

/-- A refusal is recorded in the block's ERR.LAST_WRITE, and nowhere else (R18). -/
theorem State.reg_refuse_other (s : State) (a : Nat) (w : Writer) (reason : Nat) {b : Nat}
    (h : b ≠ regAddr (regPlace a).2.1 (regPlace a).2.2.1 (regPlace a).1 0xFF8) : (s.refuse a w reason).reg b = s.reg b :=
  State.reg_setReg_other _ _ h

/-- Settles O54: by the target of the write and the reason against it. -/
theorem registerWrites : Obligations.RegisterWrites := by
  unfold Obligations.RegisterWrites
  intro c x s hrow
  rw [writeRow_exec hrow]
  refine ⟨fun hf hw => ?_, fun ht => ?_, fun d i a hrun ht => ⟨fun hr => ?_, fun hr => ?_⟩⟩
  · rw [State.regWrite, State.regWriteBy_frozen hf hw]
  · rw [State.regWrite, State.regWriteBy_none ht]
  · refine ⟨_, rfl, (s.writeReason_cases d a x.v).resolve_left hr, ?_, fun b hb => ?_⟩
    · exact State.regWriteBy_refused hrun ht hr
    · rw [State.regWrite, State.regWriteBy_refused hrun ht hr, State.reg_refuse_other _ _ _ _ hb]
  · rw [State.regWrite, State.regWriteBy_performed hrun ht hr]

/-! ## CLR (R494) -/

theorem fget_fset_zero {v : Dword} {lo w x y : Nat} (h : lo + w ≤ 64) (hv : fget v x y = 0) : fget (fset v lo w 0) x y = 0 := by
  refine Nat.eq_of_testBit_eq fun i => Eq.trans ?_ (Nat.zero_testBit i).symm
  have hi : (fget v x y).testBit i = false := by rw [hv, Nat.zero_testBit]
  rw [testBit_fget] at hi
  rw [testBit_fget, getLsbD_fset _ _ _ _ _ h]
  split
  · rw [Nat.zero_testBit, Bool.and_false]
  · exact hi

/-- Zeroing fields leaves each of them 0, whatever order and overlap they have. -/
theorem fget_clearFields {l : List (Nat × Nat)} (hl : ∀ f ∈ l, f.1 + f.2 ≤ 64) {x y : Nat} (v : Dword)
    (h : (x, y) ∈ l ∨ fget v x y = 0) : fget (clearFields v l) x y = 0 := by
  induction l generalizing v with
  | nil => exact h.resolve_left (by simp)
  | cons f l ih =>
    have hf : f.1 + f.2 ≤ 64 := hl f (by simp)
    refine ih (fun g hg => hl g (by simp [hg])) (fset v f.1 f.2 0) ?_
    rcases h with h | h
    · rcases List.mem_cons.mp h with rfl | h
      · exact .inr ((fget_fset_same _ _ hf).trans (Nat.zero_mod _))
      · exact .inl h
    · exact .inr (fget_fset_zero hf h)

theorem clrFields_fit {name : String} {b : Nat} {fs : List (Nat × Nat)} (h : clrFields name = some (b, fs)) :
    ∀ f ∈ fs, f.1 + f.2 ≤ 64 := by
  unfold clrFields at h
  repeat' split at h
  all_goals cases h
  all_goals decide

theorem State.rf_performWrite_clr (s : State) (w : Writer) (eng : Option Nat) {d : RegDesc} (i a : Nat) {v : Dword} {b : Nat}
    {fs : List (Nat × Nat)} (hclr : clrFields d.name = some (b, fs)) (hb : bit v b = true) {f : Nat × Nat} (hf : f ∈ fs) :
    (s.performWrite w eng d i a v).rf a f.1 f.2 = 0 := by
  have hzero (x : Dword) : fget (clearFields x fs) f.1 f.2 = 0 := fget_clearFields (clrFields_fit hclr) x (.inl hf)
  unfold State.performWrite
  simp only [hclr, if_pos hb]
  split
  · rw [State.rf, State.reg_setReg_other _ _ (by omega), State.reg_setReg_other _ _ (by omega), State.reg_setReg_same, hzero]
  · rw [State.rf, State.reg_setReg_same, hzero]

/-- Settles O55: the accepted write zeroes the fields that CLR names. -/
theorem clearsZero : Obligations.ClearsZero := by
  unfold Obligations.ClearsZero
  intro c x s d i a b fs hrow hrun ht hr hclr hb
  refine ⟨_, writeRow_exec hrow, fun f hf => ?_⟩
  rw [State.regWrite, State.regWriteBy_performed hrun ht hr]
  exact s.rf_performWrite_clr _ _ _ _ hclr hb hf

/-! ## Banks of working store (R437, R442, R444) -/

theorem Memory.read_filter_out {m : List Host.Cell} {p : Nat → Bool} {a : Nat} (h : p a = false) :
    Memory.read (m.filter fun c => p c.1) a = 0 := by
  induction m with
  | nil => rfl
  | cons c m ih =>
    rw [List.filter_cons]
    split
    · next hc =>
      have hne : c.1 ≠ a := fun e => absurd (e ▸ hc) (by simp [h])
      exact (if_neg hne).trans ih
    · exact ih

/-- Zeroing working store drops the bytes outside the tables from its map; the records of the tables stand elsewhere. -/
theorem State.ws_wsZero (s : State) (lo n : Nat) :
    (s.wsZero lo n).ws = s.ws.filter fun c => !(decide (lo ≤ c.1) && decide (c.1 < lo + n)) := by
  have hslot (t : State) (m : Bool) (p : Nat) (x : Slot) : (t.putSlot m p x).ws = t.ws := by cases m <;> rfl
  have hentry (t : State) (m : Bool) (p : Nat) (e : Sct) : (t.putEntry m p e).ws = t.ws := by cases m <;> rfl
  unfold State.wsZero
  dsimp only
  refine List.foldlRecOn (motive := fun t : State => t.ws = _) _ _ ?_ fun t ht p _ => ?_
  · refine List.foldlRecOn (motive := fun t : State => t.ws = _) _ _ rfl fun t ht p _ => ?_
    simp only [apply_ite State.ws, hslot, hentry, ht, ite_self]
  · simp only [apply_ite State.ws, hslot, hentry, ht, ite_self]

theorem State.ws_setReg (s : State) (a : Nat) (v : Dword) : (s.setReg a v).ws = s.ws := rfl

/-- A bank zeroed reads as 0. -/
theorem State.read_zeroBank (s : State) (die n : Nat) {a : Nat} (h : a < 0x40000) :
    Memory.read (s.zeroBank die n).ws (wsCell die (n * 0x40000) + a) = 0 := by
  have hws : (s.zeroBank die n).ws = (s.wsZero (wsCell die (n * 0x40000)) 0x40000).ws := rfl
  rw [hws, State.ws_wsZero]
  exact Memory.read_filter_out (p := fun c => !(decide (wsCell die (n * 0x40000) ≤ c) && decide (c < wsCell die (n * 0x40000) + 0x40000)))
    (by simp [h])

/-- A march in place that passes frees the bank. -/
theorem State.inPlaceEnd_passed {s : State} {die n : Nat} (hn : n < wsBanks die) (hown : s.rf (rBankOwn die n) 0 8 = 0x70)
    (hlost : (s.wsTest die).lost.contains n = false) :
    s.inPlaceEnd die n true = (s.zeroBank die n).setRf (rBankOwn die n) 0 8 0 := by
  unfold State.inPlaceEnd
  refine (if_neg ?_).trans rfl
  rintro (h | h | h)
  · exact h hown
  · exact absurd h (Nat.not_le.mpr hn)
  · exact absurd (hlost.symm.trans h) (by decide)

theorem State.marchEnd_passed {s : State} {die : Nat} (hst : s.rf (rWsTest die) 40 8 = 2) :
    s.marchEnd die true = ((s.setRf (rWsTest die) 40 8 0).setRf (rWsTest die) 62 1 0).setBankSpare die
      (bankDp die (s.rf (rWsTest die) 32 8)) (s.wsTest die).phys := by
  unfold State.marchEnd
  exact (if_neg fun h => h hst).trans rfl

theorem State.bankSpare_setBankSpare (s : State) (die : Nat) (dp : Bool) {n : Nat} (h : n < 256) :
    (s.setBankSpare die dp n).bankSpare die dp = n := by
  unfold State.setBankSpare State.bankSpare
  rw [State.rf_setRf_same _ _ _ (by split <;> decide)]
  exact Nat.mod_eq_of_lt h

/-- The march of the background test ends: STATE is 0 again, whichever spare field takes the bank. -/
theorem State.rf_setBankSpare_state (s : State) (die : Nat) (dp : Bool) (n : Nat) :
    (s.setBankSpare die dp n).rf (rWsTest die) 40 8 = s.rf (rWsTest die) 40 8 := by
  cases dp with
  | false => exact State.rf_setRf_field _ _ _ (by decide) (by decide)
  | true => exact State.rf_setRf_field _ _ _ (by decide) (by decide)

theorem State.reg_dropFrames (s : State) (die n a : Nat) : (s.dropFrames die n).reg a = s.reg a := rfl

/-- A write by the management plane of a code that the bank can take sets OWNER. -/
theorem State.bankOwnWrite_mgmt {s : State} {die m : Nat} {v : Dword} (hm : m < wsBanks die)
    (hcode : ownerOk die m (fget v 0 8) .mgmt = true) (hlost : (s.wsTest die).lost.contains m = false) :
    (s.bankOwnWrite none die m v).rf (rBankOwn die m) 0 8 = fget v 0 8 := by
  have howner : fget (setBit (fset (s.reg (rBankOwn die m)) 0 8 (fget v 0 8)) 61 (bit v 61)) 0 8 = fget v 0 8 := by
    rw [setBit, fget_fset_other _ _ (by decide) (by decide), fget_fset_same _ _ (by decide), Nat.mod_eq_of_lt (fget_lt v 0 8)]
  unfold State.bankOwnWrite
  simp only [if_neg (Nat.not_le.mpr hm), hcode, hlost, Bool.not_true, Bool.false_eq_true, if_false]
  split
  · rw [State.rf, State.reg_dropFrames, State.reg_setReg_same, howner]
  · rw [State.rf, State.reg_setReg_same, howner]

theorem State.bankOwnWrite_denied {s : State} {k die m : Nat} {v : Dword} (hm : m < wsBanks die)
    (howner : s.bankOwner (wsCell die (m * 0x40000)) ≠ 1 + k) :
    s.bankOwnWrite (some k) die m v = s.wsDeny (wsCell die (m * 0x40000)) (1 + k) := by
  unfold State.bankOwnWrite
  exact (if_neg (Nat.not_le.mpr hm)).trans (if_pos howner)

/-- An engine's WS_BANK_OWN_WRITE: die 10 has no engines. -/
theorem execWsBankOwnWrite_engine (s : State) (k : Fin 48) (d : WsDie) (n : Fin 128) (v : Dword) :
    exec (.wsBankOwnWrite (some k) d n v) s = .next (if s.frozen ∨ d.val = 2 then s
      else s.regWriteBy (.engine (if d.val = 0 then 0 else 1)) (some k.val) (rBankOwn (wsNum d) n) v) := by
  refine congrArg Host.Outcome.next ?_
  cases hf : s.frozen with
  | true => exact (if_pos hf).trans (if_pos (.inl rfl)).symm
  | false =>
    refine (if_neg (by simp [hf])).trans ?_
    match d with
    | 0 => rfl
    | 1 => rfl
    | 2 => rfl

/-- Settles O53: by the ends of the two marches and the write's own tests. -/
theorem workingStoreBanks : Obligations.WorkingStoreBanks := by
  unfold Obligations.WorkingStoreBanks
  refine ⟨fun s d n hrun hn hown hlost => ?_, fun s d hrun hst hphys => ?_, fun s e d n v => ⟨?_, ?_, ?_⟩⟩
  · refine ⟨s.inPlaceEnd (wsNum d) n true, congrArg Host.Outcome.next (if_neg (by simp [hrun])), ?_, fun a ha => ?_⟩
    · rw [State.inPlaceEnd_passed hn hown hlost]
      exact State.rf_setRf_same _ _ _ (by decide)
    · rw [State.inPlaceEnd_passed hn hown hlost, State.setRf, State.ws_setReg, State.read_zeroBank _ _ _ ha]
  · refine ⟨s.marchEnd (wsNum d) true, congrArg Host.Outcome.next (if_neg (by simp [hrun])), ?_, ?_, ?_⟩
    · rw [State.marchEnd_passed hst, State.rf_setBankSpare_state, State.rf_setRf_field _ _ _ (by decide) (by decide)]
      exact State.rf_setRf_same _ _ _ (by decide)
    · rw [State.marchEnd_passed hst, State.bankSpare_setBankSpare _ _ _ hphys]
    · rw [State.marchEnd_passed hst, State.setBankSpare, State.setRf, State.ws_setReg, State.setRf, State.ws_setReg, State.setRf, State.ws_setReg]
  · cases e with
    | none => rfl
    | some k => exact execWsBankOwnWrite_engine s k d n v
  · exact fun die m hm => State.bankOwnWrite_mgmt hm
  · exact fun k die m hm => State.bankOwnWrite_denied hm

end Sys2Proof.Machine
end

section
/-! SUPPORT. Service: records on a session (R478, R480 to R484), lifecycle transitions (R486, R488, R490), and resets and power (R17,
R501, R529). -/
namespace Sys2Proof.Machine
open Sys2Proof

/-! ## Records (R478, R480 to R484) -/

/-- Every row's command admits its record; LC_TRANSITION replaces the nonce where there is a session. -/
theorem recordRow_exec {c : Instr} {x : RecordRow} {s : State} (h : recordRow c = some x) : exec c s = .next
    (if (s.session x.se).isSome then x.post (s.admitRecord x.se x.req x.group x.code x.ver x.active x.act)
      else s.admitRecord x.se x.req x.group x.code x.ver x.active x.act) := by
  unfold recordRow at h
  split at h <;> cases h
  case h_22 => rfl
  all_goals exact congrArg Host.Outcome.next (ite_self _).symm

/-- Settles O58: the tests of a record in the order of their statuses. -/
theorem recordsAdmitted : Obligations.RecordsAdmitted := by
  unfold Obligations.RecordsAdmitted
  intro c x s hrow
  rw [recordRow_exec hrow]
  refine ⟨fun hnone => ?_, fun y hsome => ?_⟩
  · simp only [State.admitRecord, hnone, Option.isSome_none, Bool.false_eq_true, if_false]
  · simp only [State.admitRecord, hsome, Option.isSome_some, if_true]
    refine ⟨fun h => ?_, fun he hv => ?_, fun he hv h => ?_, fun he hv ho hr hs => ?_, fun he hv ho hr => ?_⟩
    · rw [if_pos h]
    · rw [if_neg he, if_pos hv]
    · rw [if_neg he, if_neg (Nat.not_lt.mpr hv), if_pos h]
    · rw [if_neg he, if_neg (Nat.not_lt.mpr hv), if_neg ho, if_pos ⟨hr, hs⟩]
    · have hserved : ¬(s.retired = true ∧ retiredServes x.group x.code = false) := by
        rintro ⟨h1, h2⟩
        rcases hr with h | h
        · exact absurd (h1.symm.trans h) (by decide)
        · exact absurd (h2.symm.trans h) (by decide)
      rw [if_neg he, if_neg (Nat.not_lt.mpr hv), if_neg ho, if_neg hserved]

/-! ## Lifecycle transitions (R486, R488, R490) -/

section
variable {s : State} {i target : Nat} {req : Word} {nonce : BitVec 256} {g : LcSig} (hstep : s.lcStep = 0) (hdone : s.rowsDone = true)
include hstep hdone

theorem State.lcTransition_not_pair (h : lcPair s.lcState target = false) :
    s.lcTransition i req target nonce g = s.respond i 9 2 req 0x0004 [] := by
  unfold State.lcTransition
  rw [if_neg (by simp [hstep, hdone]), if_pos (.inl h)]

theorem State.lcTransition_pair (h : lcPair s.lcState target = true) (hrows : s.lcRows.length < 127) :
    s.lcTransition i req target nonce g = if nonce = s.nonce ∧ s.lcProven i req target nonce g = true then
        (((s.lcEnter target).respond i 9 2 req 0 []).fspEvent 9 4 [BitVec.ofNat 64 target, 0]).wipeStep 1
      else s.respond i 9 2 req 0x0005 [] := by
  unfold State.lcTransition
  have hrow : ¬(lcPair s.lcState target = false ∨ (127 ≤ s.lcRows.length ∧ target ≠ 15)) := by
    rintro (h' | h')
    · exact absurd (h.symm.trans h') (by decide)
    · exact absurd h'.1 (Nat.not_le.mpr hrows)
  rw [if_neg (by simp [hstep, hdone]), if_neg hrow]
  by_cases hok : nonce = s.nonce ∧ s.lcProven i req target nonce g = true
  · have hnot : ¬(nonce ≠ s.nonce ∨ s.lcProven i req target nonce g = false) := by
      rintro (h' | h')
      · exact h' hok.1
      · exact absurd (hok.2.symm.trans h') (by decide)
    rw [if_neg hnot, if_pos hok]
  · rw [if_pos (by simpa [Classical.or_iff_not_imp_left] using hok), if_neg hok]

end

theorem State.lcRows_lcEnter (s : State) (target : Nat) : (s.lcEnter target).lcRows = s.lcRows ++ [(target, false)] := by
  unfold State.lcEnter
  dsimp only
  split <;> rfl

theorem State.lcRows_respond (s : State) (i group code : Nat) (req : Word) (status : Nat) (body : List Dword) :
    (s.respond i group code req status body).lcRows = s.lcRows := rfl

theorem State.lcRows_fspEvent (s : State) (group code : Nat) (body : List Dword) : (s.fspEvent group code body).lcRows = s.lcRows := by
  obtain ⟨out, h⟩ := s.fspEvent_eq group code body
  rw [h]

/-- The first step of the wipe stops the module, and ends images, sessions and subchannels (R489). -/
theorem State.wipeStep_one (s : State) : (s.wipeStep 1).lcRows = s.lcRows ∧ (s.wipeStep 1).lcStep = 1 ∧ (s.wipeStep 1).halted = true ∧
    (s.wipeStep 1).images = [] ∧ (s.wipeStep 1).sessions = [] ∧ (s.wipeStep 1).slots = [] ∧ (s.wipeStep 1).sct = [] :=
  ⟨rfl, rfl, rfl, rfl, rfl, rfl, rfl⟩

theorem State.lcState_of_rows {s : State} {l : List (Nat × Bool)} {target : Nat} {b : Bool} (h : s.lcRows = l ++ [(target, b)]) :
    s.lcState = target := by
  rw [State.lcState, h, List.getLast?_concat]

/-- Settles O59: the table of pairs, and the tests of LC_TRANSITION on it. -/
theorem lifecycleTransitions : Obligations.LifecycleTransitions := by
  unfold Obligations.LifecycleTransitions
  refine ⟨by decide, fun s i req target nonce g hstep hdone => ⟨State.lcTransition_not_pair hstep hdone, fun hpair hrows => ?_⟩⟩
  obtain ⟨hkept, hrest⟩ := State.wipeStep_one (((s.lcEnter target).respond i 9 2 req 0 []).fspEvent 9 4 [BitVec.ofNat 64 target, 0])
  have hlast := hkept.trans ((State.lcRows_fspEvent _ _ _ _).trans ((State.lcRows_respond _ _ _ _ _ _ _).trans (s.lcRows_lcEnter target)))
  exact ⟨State.lcTransition_pair hstep hdone hpair hrows, hlast, State.lcState_of_rows hlast, hrest⟩

/-! ## Resets and power (R17, R501, R529) -/

/-- What the Core Map and the nonce of a cold reset change: registers and the supply of free values. -/
theorem State.coldMap_eq (s : State) : ∃ r, s.coldMap = { s with regs := r } := by
  unfold State.coldMap
  have hfold : ∃ r, (List.range 192).foldl (fun t n => t.setReg (rCmap n) (s.coldEntry n)) s = { s with regs := r } := by
    refine List.foldlRecOn (motive := fun t : State => ∃ r, t = { s with regs := r }) _ _ ⟨s.regs, rfl⟩ fun t ht n _ => ?_
    obtain ⟨r, rfl⟩ := ht
    exact ⟨_, rfl⟩
  obtain ⟨r, hr⟩ := hfold
  rw [hr]
  exact ⟨_, rfl⟩

theorem State.newNonce_eq (s : State) : ∃ r n, s.newNonce = { s with regs := r, free := n } := by
  unfold State.newNonce
  refine List.foldlRecOn (motive := fun t : State => ∃ r n, t = { s with regs := r, free := n }) _ _ ⟨s.regs, s.free, rfl⟩ fun t ht i _ => ?_
  obtain ⟨r, n, rfl⟩ := ht
  exact ⟨_, _, rfl⟩

/-- The reset state with what a cold reset keeps (R17, R491). -/
def State.coldKept (s : State) : State :=
  { State.reset with
    pending := s.pending, free := s.free, mem := s.dramLeft, dram := s.dramLeft,
    dramPoison := if s.terminal then [] else s.dramPoison, errs := if s.terminal then [] else s.errs.filter ArrErr.inDram,
    fuses := s.fuses, dimm := s.dimm, rails := s.rails, railCmds := s.railCmds, wire := s.wire, fspOut := s.fspOut,
    lcRows := s.lcRows, owner := s.owner, boot := ⟨[], false, false, bit (s.reg rLcCtl) 63⟩ }

theorem State.coldReset_eq (s : State) : ∃ r n, s.coldReset = { s.coldKept with regs := r, free := n } := by
  obtain ⟨r, hr⟩ := s.coldKept.coldMap_eq
  obtain ⟨r2, n, hn⟩ := State.newNonce_eq { s.coldKept with regs := r }
  exact ⟨r2, n, (congrArg State.newNonce hr).trans hn⟩

theorem State.dramLeft_of_running {s : State} (h : s.terminal = false) : s.dramLeft = s.dram := if_neg (by simp [h])

/-- Settles O60: by what a cold reset keeps and what loss of VAUX leaves. -/
theorem resetsAndPower : Obligations.ResetsAndPower := by
  unfold Obligations.ResetsAndPower
  refine ⟨fun s low h => ?_, fun s low hlow hterm hpow => ?_, fun s => ?_, fun s hpow => ?_⟩
  · exact congrArg Host.Outcome.next (if_pos (h.imp_right .inl))
  · obtain ⟨r, n, hr⟩ := s.coldReset_eq
    refine ⟨s.coldReset, congrArg Host.Outcome.next (if_neg ?_), ?_⟩
    · rintro (h | h | h)
      · omega
      · exact absurd (hterm.symm.trans h) (by decide)
      · exact absurd (hpow.symm.trans h) (by decide)
    · rw [hr, ← State.dramLeft_of_running hterm]
      exact ⟨fun u => rfl, rfl, rfl, rfl, rfl, rfl, rfl, rfl, rfl, rfl, rfl⟩
  · refine ⟨s.vauxFails, rfl, rfl, ?_, rfl, rfl, rfl, rfl⟩
    rw [State.frozen]
    simp [State.vauxFails, State.unpower]
  · obtain ⟨r, n, hr⟩ := s.coldReset_eq
    refine ⟨{ s.coldReset with rails := railsDown.reverse }, congrArg Host.Outcome.next (if_neg (by simp [hpow])), ?_⟩
    rw [hr]
    exact ⟨rfl, rfl, rfl⟩

end Sys2Proof.Machine
end

section
/-! SUPPORT. Calm: what the caches, the home dies and the DRAM controllers leave of the executing units (all but the service signals of
counters that wrap), of elapsed time, of the DRAM controllers' service and training, and of caches that are off. -/
namespace Sys2Proof.Machine
open Sys2Proof

/-- A unit but for its pending service signals. -/
def Cpu.unsignalled (c : Cpu) : Cpu := { c with signals := [] }

/-- A register that tells whether a DRAM controller serves, or how its training has ended. -/
def dcReg (a : Nat) : Prop := ∃ c, a = rDc c 0 ∨ a = rDc c 0x20

/-- A register that enables a cache. -/
def switchReg (a : Nat) : Prop := ∃ k, a = rL2Ctl k ∨ a = rL3Ctl k

/-- From s to t no time elapses, every unit holds the same but for service signals, a channel that serves goes on serving, no
training begins or ends, and a cache that is off stays off. -/
structure Calm (s t : State) : Prop where
  elapsed : t.elapsed = s.elapsed
  held : ∀ u, (t.unit u).unsignalled = (s.unit u).unsignalled
  serves : ∀ c, s.serves c = true → t.serves c = true
  training : ∀ c, (t.ctl c).training = (s.ctl c).training ∧ (t.ctl c).trained = (s.ctl c).trained ∧ t.reg (rDc c 0x20) = s.reg (rDc c 0x20)
  off : ∀ a, switchReg a → bit (s.reg a) 63 = false → bit (t.reg a) 63 = false

namespace Calm

variable {sb s t : State}

theorem refl (s : State) : Calm s s := ⟨rfl, fun _ => rfl, fun _ h => h, fun _ => ⟨rfl, rfl, rfl⟩, fun _ _ h => h⟩

theorem trans {a b c : State} (h : Calm a b) (g : Calm b c) : Calm a c where
  elapsed := g.elapsed.trans h.elapsed
  held u := (g.held u).trans (h.held u)
  serves c hc := g.serves c (h.serves c hc)
  training c := ⟨(g.training c).1.trans (h.training c).1, (g.training c).2.1.trans (h.training c).2.1,
    (g.training c).2.2.trans (h.training c).2.2⟩
  off a ha hoff := g.off a ha (h.off a ha hoff)

/-- A state that differs elsewhere. -/
theorem of_eq (h : Calm sb s) (helapsed : t.elapsed = s.elapsed) (hunits : t.units = s.units) (hregs : t.regs = s.regs)
    (hctls : t.ctls = s.ctls) : Calm sb t := by
  have hunit (u : Nat) : t.unit u = s.unit u := by rw [State.unit, hunits, State.unit]
  have hctl (c : Nat) : t.ctl c = s.ctl c := by rw [State.ctl, hctls, State.ctl]
  have hreg (a : Nat) : t.reg a = s.reg a := by rw [State.reg, hregs, State.reg]
  refine h.trans ⟨helapsed, fun u => by rw [hunit], fun c hc => ?_, fun c => by rw [hctl, hreg]; exact ⟨rfl, rfl, rfl⟩,
    fun a _ hoff => by rw [hreg]; exact hoff⟩
  rw [State.serves, State.works, State.dcState, State.rf, hreg, hctl]
  exact hc

end Calm

/-! ## Registers -/

theorem regAddr_inj {t i d o t' i' d' o' : Nat} (ht : 64 * t + i < 4096) (ht' : 64 * t' + i' < 4096) (ho : o < 0x1000000)
    (ho' : o' < 0x1000000) (h : regAddr t i d o = regAddr t' i' d' o') : d = d' ∧ 64 * t + i = 64 * t' + i' ∧ o = o' := by
  unfold regAddr at h
  omega

theorem rDc_ne {x c o : Nat} (ho : o < 0x1000000) (hx : x ≠ c ∨ o ≠ 0) : rDc x o ≠ rDc c 0 := by
  intro e
  unfold rDc at e
  obtain ⟨hdie, hinst, hoff⟩ := regAddr_inj (by omega) (by omega) ho (by omega) e
  omega

/-- The registers of another block, or of a DRAM controller beyond its enable and training registers. -/
theorem not_dcReg {t i d o : Nat} (hi : i < 64) (ht : t < 63) (ho : o < 0x1000000) (h : t ≠ 3 ∨ (o ≠ 0 ∧ o ≠ 0x20)) :
    ¬dcReg (regAddr t i d o) := by
  rintro ⟨c, hc | hc⟩
  · have := regAddr_inj (by omega) (by omega) ho (by decide) hc
    omega
  · have := regAddr_inj (by omega) (by omega) ho (by decide) hc
    omega

theorem not_switchReg {t i d o : Nat} (hi : i < 64) (ht : t < 63) (ho : o < 0x1000000) (h : o ≠ 0 ∨ (t ≠ 1 ∧ t ≠ 2)) :
    ¬switchReg (regAddr t i d o) := by
  rintro ⟨k, hk | hk⟩
  · have := regAddr_inj (by omega) (by omega) ho (by decide) hk
    omega
  · have := regAddr_inj (by omega) (by omega) ho (by decide) hk
    omega

theorem not_dcReg_rL2Ctl (core : Nat) : ¬dcReg (rL2Ctl core) := not_dcReg (by omega) (by decide) (by decide) (.inl (by decide))
theorem not_dcReg_rL3Ctl (die : Nat) : ¬dcReg (rL3Ctl die) := not_dcReg (by omega) (by decide) (by decide) (.inl (by decide))
theorem not_switchReg_rDc (c : Nat) {o : Nat} (h : o < 0x1000000) : ¬switchReg (rDc c o) :=
  not_switchReg (by omega) (by decide) h (.inr (by decide))

/-- A register that neither tells of a controller's service and training nor enables a cache. -/
def plainReg (a : Nat) : Prop := ¬dcReg a ∧ ¬switchReg a

@[simp] theorem plainReg_rDc {c o : Nat} (h : o < 0x1000000) (h0 : o ≠ 0) (h20 : o ≠ 0x20) : plainReg (rDc c o) :=
  ⟨not_dcReg (by omega) (by decide) h (.inr ⟨h0, h20⟩), not_switchReg_rDc c h⟩
@[simp] theorem plainReg_rL2Err (core : Nat) : plainReg (rL2Err core) :=
  ⟨not_dcReg (by omega) (by decide) (by decide) (.inl (by decide)), not_switchReg (by omega) (by decide) (by decide) (.inl (by decide))⟩
@[simp] theorem plainReg_rL3Err (die : Nat) : plainReg (rL3Err die) :=
  ⟨not_dcReg (by omega) (by decide) (by decide) (.inl (by decide)), not_switchReg (by omega) (by decide) (by decide) (.inl (by decide))⟩
@[simp] theorem plainReg_rDirStat (die : Nat) : plainReg (rDirStat die) :=
  ⟨not_dcReg (by omega) (by decide) (by decide) (.inl (by decide)), not_switchReg (by omega) (by decide) (by decide) (.inl (by decide))⟩
@[simp] theorem plainReg_rCacheErr (die unit : Nat) : plainReg (rCacheErr die unit) := by
  unfold rCacheErr
  split
  · exact plainReg_rL2Err _
  · exact plainReg_rL3Err _

namespace Calm

variable {sb s t : State}

/-- A register that tells nothing of a controller, and that enables no cache by the value written. -/
theorem setSwitch (h : Calm sb s) {a : Nat} {v : Dword} (ha : ¬dcReg a) (hv : switchReg a → bit v 63 = false) : Calm sb (s.setReg a v) := by
  have hreg {c o : Nat} (ho : o = 0 ∨ o = 0x20) : (s.setReg a v).reg (rDc c o) = s.reg (rDc c o) :=
    State.reg_setReg_other _ _ fun e => ha ⟨c, ho.imp (fun h => by rw [← e, h]) (fun h => by rw [← e, h])⟩
  refine h.trans ⟨rfl, fun _ => rfl, fun c hc => ?_, fun c => ⟨rfl, rfl, hreg (.inr rfl)⟩, fun b hb hoff => ?_⟩
  · rw [State.serves, State.works, State.dcState, State.rf, hreg (.inl rfl)]
    exact hc
  · by_cases hab : b = a
    · subst hab; rw [State.reg_setReg_same]; exact hv hb
    · rw [State.reg_setReg_other _ _ hab]; exact hoff

theorem setReg (h : Calm sb s) {a : Nat} {v : Dword} (ha : plainReg a) : Calm sb (s.setReg a v) :=
  h.setSwitch ha.1 fun hs => absurd hs ha.2

theorem setRf (h : Calm sb s) {a lo w n : Nat} (ha : plainReg a) : Calm sb (s.setRf a lo w n) := h.setReg ha

theorem errInc (h : Calm sb s) {a lo w sat : Nat} (ha : plainReg a) : Calm sb (s.errInc a lo w sat) := h.setReg ha

theorem setCore (h : Calm sb s) {k : Nat} {c : CoreHw} : Calm sb (s.setCore k c) := h.of_eq rfl rfl rfl rfl
theorem modCore (h : Calm sb s) {k : Nat} {f : CoreHw → CoreHw} : Calm sb (s.modCore k f) := h.setCore
theorem setDie (h : Calm sb s) {d : Nat} {x : DieHw} : Calm sb (s.setDie d x) := h.of_eq rfl rfl rfl rfl
theorem modDie (h : Calm sb s) {d : Nat} {f : DieHw → DieHw} : Calm sb (s.modDie d f) := h.setDie

theorem sendMsg (h : Calm sb s) {m : Msg} : Calm sb (s.sendMsg m) := by
  obtain ⟨q, r, hs⟩ := s.sendMsg_eq m
  rw [hs]
  exact h.of_eq rfl rfl rfl rfl

theorem send (h : Calm sb s) {die unit kind cls synd : Nat} {inj coin : Bool} : Calm sb (s.send die unit kind cls synd inj coin) :=
  h.sendMsg

/-- A change of a unit that leaves it the same but for its signals. -/
theorem modUnit (h : Calm sb s) {u : Nat} {f : Cpu → Cpu} (hf : ∀ c, (f c).unsignalled = c.unsignalled) : Calm sb (s.modUnit u f) := by
  refine h.trans ⟨rfl, fun v => ?_, fun _ hc => hc, fun _ => ⟨rfl, rfl, rfl⟩, fun _ _ hoff => hoff⟩
  by_cases hv : v = u
  · subst hv; rw [State.unit_modUnit_same, hf]
  · rw [s.unit_modUnit_other _ hv]

theorem pendSignal (h : Calm sb s) {u : Nat} {v : Dword} : Calm sb (s.pendSignal u v) :=
  h.modUnit fun c => by split <;> rfl

theorem hostSignal (h : Calm sb s) {code detail : Nat} : Calm sb (s.hostSignal code detail) := by
  unfold State.hostSignal
  split
  · exact h
  · exact h.pendSignal

theorem fspEvent (h : Calm sb s) {group code : Nat} {body : List Dword} : Calm sb (s.fspEvent group code body) := by
  obtain ⟨out, ho⟩ := s.fspEvent_eq group code body
  rw [ho]
  exact h.of_eq rfl rfl rfl rfl

theorem evInc (h : Calm sb s) {a n : Nat} (ha : plainReg a) : Calm sb (s.evInc a n) := by
  unfold State.evInc
  dsimp only
  split
  · split
    · exact ((h.setRf ha).setReg ha).hostSignal.fspEvent
    · exact (h.setRf ha).setReg ha
  · exact h.setRf ha

theorem ite (hs : Calm sb s) (ht : Calm sb t) {c : Prop} [Decidable c] : Calm sb (if c then s else t) := by
  split
  · exact hs
  · exact ht

theorem foldl {α : Type} {f : State → α → State} (hf : ∀ t x, Calm sb t → Calm sb (f t x)) {l : List α} (h : Calm sb s) :
    Calm sb (l.foldl f s) :=
  List.foldlRecOn l f h fun t ht x _ => hf t x ht

theorem foldl_fst {α β : Type} {f : State × β → α → State × β} (hf : ∀ t x, Calm sb t.1 → Calm sb (f t x).1) {l : List α} {r : State × β}
    (h : Calm sb r.1) : Calm sb (l.foldl f r).1 :=
  List.foldlRecOn (motive := fun r => Calm sb r.1) l f h fun t ht x _ => hf t x ht

end Calm

/-! ## The DRAM controllers -/

/-- A change of a DRAM controller's state that begins no drain and no training, and ends none of training. -/
structure DramCtl.SteadyTo (k l : DramCtl) : Prop where
  drain : k.drain = false → l.drain = false
  training : l.training = k.training
  trained : l.trained = k.trained

namespace Calm

variable {sb s : State}

theorem setCtl (h : Calm sb s) {c : Nat} {k : DramCtl} (hk : (s.ctl c).SteadyTo k) : Calm sb (s.setCtl c k) := by
  have hctl (x : Nat) : (s.setCtl c k).ctl x = if x = c then k else s.ctl x := sget_sput _ _ _ _ _
  obtain ⟨hdrain, htraining, htrained⟩ := hk
  refine h.trans ⟨rfl, fun _ => rfl, fun x hx => ?_, fun x => ?_, fun _ _ hoff => hoff⟩
  · have hworks : (s.setCtl c k).works x = s.works x := rfl
    rw [State.serves, Bool.and_eq_true, Bool.not_eq_true'] at hx ⊢
    rw [hworks, hctl]
    refine ⟨hx.1, ?_⟩
    split
    · next e => subst e; exact hdrain hx.2
    · exact hx.2
  · rw [hctl]
    refine ⟨?_, ?_, rfl⟩
    · split
      · next e => subst e; exact htraining
      · rfl
    · split
      · next e => subst e; exact htrained
      · rfl

theorem modCtl (h : Calm sb s) {c : Nat} {f : DramCtl → DramCtl} (hf : ∀ k : DramCtl, k.SteadyTo (f k)) : Calm sb (s.modCtl c f) :=
  h.setCtl (hf _)

/-- A write of an enable register leaves every other register of the controllers. -/
theorem reg_setDc_other (s : State) {c x lo w n o : Nat} (ho : o < 0x1000000) (hx : x ≠ c ∨ o ≠ 0) :
    (s.setRf (rDc c 0) lo w n).reg (rDc x o) = s.reg (rDc x o) := by
  exact s.reg_setRf_other lo w n (rDc_ne ho hx)

/-- A register written after which a working controller still works, and the end of a training reads the same. -/
theorem setWorking (h : Calm sb s) {a : Nat} {v : Dword} (hworks : ∀ x, s.works x = true → (s.setReg a v).works x = true)
    (htrain : ∀ x, (s.setReg a v).reg (rDc x 0x20) = s.reg (rDc x 0x20)) (hswitch : ¬switchReg a) : Calm sb (s.setReg a v) := by
  refine h.trans ⟨rfl, fun _ => rfl, fun x hx => ?_, fun x => ⟨rfl, rfl, htrain x⟩, fun b hb hoff => ?_⟩
  · rw [State.serves, Bool.and_eq_true] at hx ⊢
    exact ⟨hworks x hx.1, hx.2⟩
  · have hne : b ≠ a := fun e => hswitch (e ▸ hb)
    rw [State.reg_setReg_other _ _ hne]
    exact hoff

/-- A write of an enable register after which a working controller still works. -/
theorem setDc (h : Calm sb s) {c lo w n : Nat} (hworks : s.works c = true → (s.setRf (rDc c 0) lo w n).works c = true) :
    Calm sb (s.setRf (rDc c 0) lo w n) := by
  refine h.setWorking (fun x hx => ?_) (fun x => reg_setDc_other s (by decide) (.inr (by decide))) (not_switchReg_rDc c (by decide))
  by_cases hxc : x = c
  · subst hxc; exact hworks hx
  · have hstate : (s.setRf (rDc c 0) lo w n).dcState x = s.dcState x := by
      rw [State.dcState, State.rf, reg_setDc_other s (by decide) (.inl hxc), State.dcState, State.rf]
    change (s.setRf (rDc c 0) lo w n).works x = true
    rw [State.works, hstate]
    exact hx

/-- A field of the enable register other than STATE. -/
theorem setDcField (h : Calm sb s) {c lo w n : Nat} (hlo : lo + w ≤ 64) (hd : 40 + 8 ≤ lo ∨ lo + w ≤ 40) :
    Calm sb (s.setRf (rDc c 0) lo w n) := by
  refine h.setDc fun hw => ?_
  rw [State.works, State.dcState, State.rf_setRf_field _ _ _ hlo hd]
  exact hw

/-- The controller goes on working, in service or in self-refresh. -/
theorem setDcState (h : Calm sb s) {c n : Nat} (hn : n = 2 ∨ n = 3) : Calm sb (s.setDcState c n) := by
  refine h.setDc fun _ => ?_
  rw [State.works, State.dcState, State.rf_setRf_same _ _ _ (by decide)]
  rcases hn with rfl | rfl <;> rfl

end Calm

namespace Calm

section
variable {sb s : State} (h : Calm sb s) {c block : Nat}
include h

/-! ### Rows and decoding -/

theorem manage {key : Nat} : Calm sb (s.manage c key) := modCtl h (by exact fun _ => ⟨id, rfl, rfl⟩)

theorem openRow : Calm sb (s.openRow c block) := by
  unfold State.openRow
  dsimp only
  split
  · exact h
  · exact modCtl (ite h.manage h) (by exact fun _ => ⟨id, rfl, rfl⟩)

theorem clearBlockErrs : Calm sb (s.clearBlockErrs c block) := h.of_eq rfl rfl rfl rfl
theorem addPoison {l : List Nat} : Calm sb (s.addPoison l) := h.of_eq rfl rfl rfl rfl
theorem clearPoison {l : List Nat} : Calm sb (s.clearPoison l) := h.of_eq rfl rfl rfl rfl
theorem setDramPoison {on : Bool} : Calm sb (s.setDramPoison c block on) := h.of_eq rfl rfl rfl rfl
theorem dcSend {kind cls pa dev : Nat} {inj coin : Bool} : Calm sb (s.dcSend c kind cls pa dev inj coin) := h.send

theorem countCorrected {dev : Nat} {all : Bool} {inj : Bool × Bool} : Calm sb (s.countCorrected c block dev all inj) := by
  have hc {x n : Nat} : Calm sb (s.modCtl c fun k => { k with corrected := sput (fun _ => 0) k.corrected x n }) :=
    modCtl h (by exact fun _ => ⟨id, rfl, rfl⟩)
  unfold State.countCorrected
  dsimp only
  split
  · split
    · exact dcSend (setReg (modCtl hc (by exact fun _ => ⟨id, rfl, rfl⟩)) (by simp))
    · split
      · exact hc
      · exact hc.dcSend
  · exact hc

theorem decodeOn : Calm sb (s.decodeOn c block).1 := by
  unfold State.decodeOn
  dsimp only
  split
  · exact h
  · exact countCorrected (dcSend (errInc h.clearBlockErrs (by simp)))
  · exact h
  · exact h

theorem poisonBlock : Calm sb (s.poisonBlock c block) := by
  unfold State.poisonBlock
  split
  · exact dcSend (errInc h.clearBlockErrs.setDramPoison (by simp))
  · exact h

theorem healBlock : Calm sb (s.healBlock c block) :=
  dcSend (errInc h.clearBlockErrs.setDramPoison (by simp))

theorem readCopy : Calm sb (s.readCopy c block).1 := by
  have hfirst : Calm sb ((s.openRow c block).decodeOn c block).1 := h.openRow.decodeOn
  have hsecond : Calm sb ((((s.openRow c block).decodeOn c block).1.openRow (partner c) block).decodeOn (partner c) block).1 :=
    hfirst.openRow.decodeOn
  unfold State.readCopy
  dsimp only
  split
  · exact hfirst
  · split
    · split
      · dsimp only
        exact hsecond.healBlock
      · dsimp only
        exact hsecond.poisonBlock.poisonBlock
    · dsimp only
      exact hfirst.poisonBlock

/-! ### Requests in service -/

theorem fetchBlock : Calm sb (s.fetchBlock c block).1 := by
  unfold State.fetchBlock
  split
  · split
    · exact h
    · exact h.readCopy
  · exact h.readCopy

theorem deliverBlock {bad : List Nat} : Calm sb (s.deliverBlock c block bad) := by
  unfold State.deliverBlock
  dsimp only
  split
  · exact ite h h.clearPoison.addPoison
  · exact ite h.dcSend h.dcSend.clearPoison.addPoison

theorem storeBlock {w : DramWrite} : Calm sb (s.storeBlock c w) := by
  have hd : Calm sb (State.clearBlockErrs { s with dram := w.cells.foldr (fun x m => Memory.write m x.1 x.2) s.dram } c w.block) :=
    (h.of_eq rfl rfl rfl rfl : Calm sb { s with dram := w.cells.foldr (fun x m => Memory.write m x.1 x.2) s.dram }).clearBlockErrs
  unfold State.storeBlock
  dsimp only
  split
  · exact hd.setDramPoison
  · exact ite hd.setDramPoison hd

theorem issueWrite {w : DramWrite} : Calm sb (s.issueWrite c w) := (ite h h.readCopy).storeBlock

theorem serveRead {r : DramRead} : Calm sb (s.serveRead c r) := deliverBlock (fetchBlock (modCtl h (by exact fun _ => ⟨id, rfl, rfl⟩)))

theorem serveWrite {w : DramWrite} : Calm sb (s.serveWrite c w) := issueWrite (modCtl h.openRow (by exact fun _ => ⟨id, rfl, rfl⟩))

theorem serveReq {x : DramReq} : Calm sb (s.serveReq c x) := by
  cases x with
  | inl r => exact h.serveRead
  | inr w => exact h.serveWrite

theorem serveOlder {bank seq fuel : Nat} : Calm sb (s.serveOlder c bank seq fuel) := by
  induction fuel generalizing s with
  | zero => exact h
  | succ n ih =>
    unfold State.serveOlder
    split
    · exact h
    · exact ih h.serveReq

theorem forceWrite {w : DramWrite} : Calm sb (s.forceWrite c w) := by
  unfold State.forceWrite
  dsimp only
  exact ite (ite h.serveOlder h).serveWrite (ite h.serveOlder h)

theorem enqueueOn {cells : List Host.Cell} {bad : List Nat} : Calm sb (s.enqueueOn c block cells bad) := by
  unfold State.enqueueOn
  dsimp only
  split
  · exact h.setCtl ⟨id, rfl, rfl⟩
  · refine modCtl ?_ (by exact fun _ => ⟨id, rfl, rfl⟩)
    split
    · exact ite h h.forceWrite
    · exact h

/-! ### Self-refresh, zeroing, and requests of the home dies -/

theorem srx : Calm sb (s.srx c) :=
  setRf (setDcState (modCtl h (by exact fun _ => ⟨id, rfl, rfl⟩)) (by decide)) (by simp)

theorem srAbort : Calm sb (s.srAbort c) :=
  evInc (modCtl h (by exact fun _ => ⟨id, rfl, rfl⟩)) (by simp)

theorem wake : Calm sb (s.wake c) := by
  unfold State.wake
  split
  · exact h
  · split
    · exact h.srAbort
    · exact modCtl h (by exact fun _ => ⟨id, rfl, rfl⟩)
    · exact h

theorem updateBusy : Calm sb (s.updateBusy c) := setDcField h (by decide) (by decide)

theorem zeroDone : Calm sb (s.zeroDone c) := by
  unfold State.zeroDone
  split
  · exact updateBusy (setDcField (modCtl h (by exact fun _ => ⟨id, rfl, rfl⟩)) (by decide) (by decide))
  · exact h

theorem serveFirst : Calm sb (s.serveFirst c) := by
  unfold State.serveFirst
  split
  · exact h.serveReq
  · exact h

theorem attend : Calm sb (s.attend c) := by
  unfold State.attend
  dsimp only
  split
  · exact h.zeroDone
  · exact h.zeroDone.srAbort
  · exact h.zeroDone.srx
  · exact h.zeroDone.srx.serveFirst

theorem acceptOn {cells : List Host.Cell} {bad : List Nat} : Calm sb (s.acceptOn c block cells bad) := ite h.zeroDone.wake.enqueueOn h

theorem acceptWrite {cells : List Host.Cell} {bad : List Nat} : Calm sb (s.acceptWrite block cells bad) := ite h.acceptOn.acceptOn h.acceptOn

theorem writeSector {sec : Nat} : Calm sb (s.writeSector sec) := h.acceptWrite

theorem orderBank : Calm sb (s.orderBank c block) := by
  unfold State.orderBank
  dsimp only
  split
  · exact h
  · split
    · exact evInc (modCtl h (by exact fun _ => ⟨id, rfl, rfl⟩)) (by simp)
    · exact h

theorem readBlock : Calm sb (s.readBlock block) := by
  unfold State.readBlock
  dsimp only
  split
  · exact h
  · exact (ite h.attend.orderBank.serveOlder h.attend.orderBank).fetchBlock.deliverBlock

theorem updateDraining : Calm sb (s.updateDraining c) := modCtl h (by exact fun _ => ⟨id, rfl, rfl⟩)

theorem serveAll {fuel : Nat} : Calm sb (s.serveAll c fuel) := by
  induction fuel generalizing s with
  | zero => exact h
  | succ n ih =>
    unfold State.serveAll
    split
    · exact h
    · exact ih h.updateDraining.serveReq

theorem drainQueues : Calm sb (s.drainQueues c) := h.serveAll

theorem zeroChannel : Calm sb (s.zeroChannel c) := h.of_eq rfl rfl rfl rfl

theorem startZero : Calm sb (s.startZero c) :=
  updateBusy (setDcField (modCtl h.attend.drainQueues.zeroChannel (by exact fun _ => ⟨id, rfl, rfl⟩)) (by decide) (by decide))

end

end Calm

end Sys2Proof.Machine
end

section
/-! SUPPORT. Calm caches: the operations of the caches, the home dies and the cores' accesses are calm. -/
namespace Sys2Proof.Machine
open Sys2Proof
namespace Calm

section
variable {sb s : State} (h : Calm sb s) {core die line : Nat} {clean excl : Bool}
include h

/-! ## Errors in the arrays -/

theorem writeMask {m : BitVec 4} : Calm sb (s.writeMask line m) := h.foldl fun _ _ ht => ht.writeSector
theorem cacheSend {unit kind cls : Nat} {inj : Bool × Bool} : Calm sb (s.cacheSend die unit kind cls line inj) := h.send

/-- A cache control register written with EN 0, then another of its fields below EN. -/
theorem setOff {a n : Nat} (ha : ¬dcReg a) : Calm sb ((s.setRf a 63 1 0).setRf a 62 1 n) := by
  have hoff : bit (fset (s.reg a) 63 1 0) 63 = false := bit_setBit_same (s.reg a) (i := 63) false (by decide)
  have h1 : Calm sb (s.setRf a 63 1 0) := h.setSwitch ha fun _ => hoff
  refine h1.setSwitch ha fun _ => ?_
  rw [bit_fset_other _ _ (by decide) (by decide), State.setRf, State.reg_setReg_same]
  exact hoff

theorem l2Disable : Calm sb (s.l2Disable core) := ite (h.setOff (not_dcReg_rL2Ctl core)) h
theorem l3Disable : Calm sb (s.l3Disable die) := ite (h.setOff (not_dcReg_rL3Ctl die)) h

theorem deleteL2 {set way : Nat} {inj : Bool × Bool} : Calm sb (s.deleteL2 core set way line inj) := by
  unfold State.deleteL2
  dsimp only
  exact ite h (ite (l2Disable (cacheSend (setRf h.modCore.cacheSend (by simp)))) (setRf h.modCore.cacheSend (by simp)))

theorem deleteL3 {set way : Nat} {inj : Bool × Bool} : Calm sb (s.deleteL3 die set way line inj) := by
  unfold State.deleteL3
  dsimp only
  exact ite h (ite (l3Disable (cacheSend (setRf h.modDie.cacheSend (by simp)))) (setRf h.modDie.cacheSend (by simp)))

theorem dropErrs {l : List ArrErr} : Calm sb (s.dropErrs l) := h.of_eq rfl rfl rfl rfl
theorem sectorsWritten {unit : Nat} {m : BitVec 4} : Calm sb (s.sectorsWritten die unit line m) := h.dropErrs

theorem eccTag {unit : Nat} {l : List ArrErr} : Calm sb (s.eccTag die unit line l) :=
  ite h (ite (cacheSend (errInc h (by simp))) h.cacheSend)

theorem tagMeet {unit : Nat} {f : Nat → Bool} : Calm sb (s.tagMeet die unit f) := h.dropErrs.foldl fun _ _ ht => ht.eccTag

theorem eccWord {unit a word : Nat} {dirty : Bool} {l : List ArrErr} (ha : plainReg a) :
    Calm sb (s.eccWord die unit a line word dirty l).1 := by
  unfold State.eccWord
  dsimp only
  split
  · exact h
  · split
    · exact (h.errInc ha).cacheSend
    · split
      · exact (h.errInc ha).addPoison.cacheSend
      · exact (h.errInc ha).cacheSend

theorem eccLine {unit a : Nat} {dirty : BitVec 4} {l : List ArrErr} (ha : plainReg a) : Calm sb (s.eccLine die unit a line dirty l).1 := by
  unfold State.eccLine
  refine foldl_fst (r := (s.dropErrs l, false)) (fun t w ht => ?_) h.dropErrs
  exact ht.eccWord ha

/-! ## Removal from one core and one die -/

theorem dropL3 : Calm sb (s.dropL3 die line clean) := by
  unfold State.dropL3
  dsimp only
  split
  · exact (ite h.writeMask h).modDie
  · exact h.modDie

theorem dropEntry : Calm sb (s.dropEntry line) := h.modDie

theorem loseWriter : Calm sb (s.loseWriter die line) := by
  unfold State.loseWriter
  split
  · exact h
  · exact ite (ite h h.dropL3).dropEntry h

theorem acceptVictim {v : L2Line} : Calm sb (s.acceptVictim core v) := h.writeMask.loseWriter

theorem dropLine : Calm sb (s.dropLine core line clean) := by
  unfold State.dropLine
  dsimp only
  refine foldl (fun t b ht => ?_) (ite h.writeMask.modCore h.writeMask.modCore.loseWriter)
  split
  · exact ht.acceptVictim
  · exact ht

theorem l2Meet : Calm sb (s.l2Meet core line) := by
  unfold State.l2Meet
  dsimp only
  split
  · exact h
  · split
    · exact h
    · exact ite (h.eccLine (by simp)).dropLine.deleteL2 (h.eccLine (by simp))

theorem evictCore : Calm sb (s.evictCore core line clean) := (ite h.l2Meet h).dropLine

theorem dropDie : Calm sb (s.dropDie die line clean) := (h.foldl fun _ _ ht => ht.evictCore).dropL3

theorem l3Meet : Calm sb (s.l3Meet die line) := by
  unfold State.l3Meet
  dsimp only
  split
  · exact h
  · split
    · exact h
    · exact ite (h.eccLine (by simp)).dropDie.deleteL3 (h.eccLine (by simp))

theorem evictDie : Calm sb (s.evictDie die line clean) := by
  have h1 : Calm sb (if clean then s.l3Meet die line else s) := ite h.l3Meet h
  exact ite h1.dropDie h1.dropDie.loseWriter

/-! ## The L3 of a die -/

theorem l3Room {fuel : Nat} : Calm sb (s.l3Room die line fuel) := by
  induction fuel generalizing s with
  | zero => exact h
  | succ n ih =>
    unfold State.l3Room
    dsimp only
    split
    · exact h
    · split
      · exact ih h.evictDie
      · exact h

theorem l3Install : Calm sb (s.l3Install die line excl) := by
  unfold State.l3Install
  split
  · exact h.modDie
  · exact h.l3Room.dropErrs.setDie

theorem modL3 {f : L3Line → L3Line} : Calm sb (s.modL3 die line f) := h.modDie
theorem modL2 {f : L2Line → L2Line} : Calm sb (s.modL2 core line f) := h.modCore

theorem homeDirty {m : BitVec 4} : Calm sb (s.homeDirty line m) := ite h (ite h.writeMask h.l3Install.modL3.sectorsWritten)

theorem l3Present {slot : Nat} : Calm sb (s.l3Present die slot line) := h.modL3

/-! ## Fills and victims of an L2 -/

theorem l1Fill {x : Bool × Nat} : Calm sb (s.l1Fill core x) := by
  unfold State.l1Fill
  dsimp only
  exact (ite h h.dropErrs).modCore

theorem placeL2 {way : Nat} {fills : List (Bool × Nat)} : Calm sb (s.placeL2 core line way excl fills) :=
  h.setCore.dropErrs.l3Install.l3Present.foldl fun _ _ ht => ht.l1Fill

theorem dropMiss : Calm sb (s.dropMiss core line) := h.modCore

theorem acceptVictims : Calm sb (s.acceptVictims line) :=
  h.foldl fun _ _ ht => ite ht (ht.modCore.foldl fun _ _ hu => hu.acceptVictim)

theorem victimFor {fuel : Nat} : Calm sb (s.victimFor core line fuel).1 := by
  induction fuel generalizing s with
  | zero => exact h
  | succ n ih =>
    unfold State.victimFor
    dsimp only
    split
    · exact h
    · split
      · exact h
      · next v _ =>
        have h1 : Calm sb (if v.dirty = 0 then s else s.l2Meet core v.line) := ite h h.l2Meet
        split
        · exact h1
        · exact ih h1

theorem fillArrives : Calm sb (s.fillArrives core line) := by
  unfold State.fillArrives
  split
  · exact h
  · dsimp only
    split
    · exact h.victimFor
    · exact h.victimFor.dropMiss.placeL2
    · exact ite h.victimFor.modCore.dropMiss.placeL2 h.victimFor.modCore.modCore.modL3.sectorsWritten

theorem fillWaiting {b : MissBuf} {v : L2Line} : Calm sb (s.fillWaiting core b v) := h.dropMiss.acceptVictim.placeL2

theorem settleFills {f : Nat → Bool} : Calm sb (s.settleFills core f) := by
  refine h.foldl fun t b ht => ?_
  split
  · exact ht.fillWaiting
  · exact ht

theorem completeFill : Calm sb (s.completeFill core line) := by
  unfold State.completeFill
  dsimp only
  exact (ite h.fillArrives.settleFills.fillArrives h.fillArrives).settleFills

theorem takeBuffer {b : MissBuf} : Calm sb (s.takeBuffer core b) := by
  unfold State.takeBuffer
  dsimp only
  refine modCore ?_
  split
  · exact h
  · split
    · exact h.completeFill
    · exact h

/-! ## Removal and cleaning -/

theorem completeFills {ks : List Nat} : Calm sb (s.completeFills ks line) := h.foldl fun _ _ ht => ht.completeFill

theorem removeAll : Calm sb (s.removeAll line clean) :=
  (h.acceptVictims.completeFills.foldl fun _ _ ht => ht.evictDie).dropEntry

theorem supply : Calm sb (s.supply line) := ite h (h.foldl fun _ _ ht => ht.l2Meet).l3Meet

theorem cleanLine : Calm sb (s.cleanLine line) :=
  (h.acceptVictims.completeFills.supply.writeMask.foldl fun _ _ ht => ite ht.modL2 ht).foldl fun _ _ ht => ite ht.modL3 ht

/-! ## Home requests -/

theorem dirPut {e : DirEntry} : Calm sb (s.dirPut e) := by
  unfold State.dirPut
  dsimp only
  split
  · exact h.modDie
  · refine modDie ?_
    split
    · exact h
    · split
      · exact evInc h.removeAll (by simp)
      · exact h

theorem shareCores {ks : List Nat} : Calm sb (s.shareCores ks line) := (h.foldl fun _ _ ht => ite ht.modCore ht).homeDirty

theorem downgradeDie : Calm sb (s.downgradeDie die line) := h.shareCores.modL3

theorem dramLine {pa : Nat} : Calm sb (s.dramLine pa) := h.readBlock.readBlock

theorem bringLine {pa : Nat} : Calm sb (s.bringLine pa) := by
  have h1 : Calm sb (if s.cached (pa / 256) then s.supply (pa / 256) else s) := ite h.supply h
  exact ite h1 h1.dramLine

theorem dirLookup : Calm sb (s.dirLookup line) := h.tagMeet

theorem ownDirty {m : BitVec 4} : Calm sb (s.ownDirty die line m) := ite h.homeDirty h.writeMask

theorem homeRead {pa : Nat} : Calm sb (s.homeRead die pa).1 := by
  unfold State.homeRead
  dsimp only
  split
  · exact h.dirLookup.bringLine.dirPut
  · split
    · split
      · exact h.dirLookup.bringLine.dirPut
      · exact (h.dirLookup.bringLine.foldl fun _ _ ht => ht.downgradeDie).dirPut
    · exact h.dirLookup.bringLine.dirPut

theorem homeOwn {pa : Nat} : Calm sb (s.homeOwn die pa) :=
  (h.dirLookup.acceptVictims.completeFills.bringLine.foldl fun _ _ ht =>
    (ht.foldl fun _ _ hu => hu.evictCore).dropL3).ownDirty.dirPut

/-! ## Accesses of a core -/

theorem dropL1i {x : Nat} : Calm sb (s.dropL1i x) := h.of_eq rfl rfl rfl rfl

theorem putCells {sec : Nat} {cells : List Host.Cell} : Calm sb (s.putCells sec cells) := by
  have hm : Calm sb { s with mem := cells.foldr (fun x m => Memory.write m x.1 x.2) s.mem } := h.of_eq rfl rfl rfl rfl
  exact ite hm.clearPoison hm

theorem meetErrors {pa : Nat} : Calm sb (s.meetErrors core pa) := by
  have h1 : Calm sb (if (s.l1Errs core (pa / 64)).isEmpty || !((s.core core).l1i.contains (pa / 64) || (s.core core).l1d.contains (pa / 64))
      then s
      else ((((s.dropErrs (s.l1Errs core (pa / 64))).modCore core fun c => { c with
          l1i := c.l1i.filter fun x => x != pa / 64
          l1d := c.l1d.filter fun x => x != pa / 64 }).errInc (rL2Err core) 32 16 63).cacheSend (core / 26) (core % 26) 0x30 1 (pa / 256)
        (injOf (s.l1Errs core (pa / 64))))) := ite h (cacheSend (errInc h.dropErrs.modCore (by simp)))
  exact ite h (ite (ite h1.tagMeet.l2Meet h1) (ite h1.tagMeet.l2Meet h1).tagMeet.l3Meet)

theorem shareInDie : Calm sb (s.shareInDie core line).1 := by
  unfold State.shareInDie
  dsimp only
  split
  · exact h
  · exact h.shareCores

theorem dieRead {pa : Nat} : Calm sb (s.dieRead core pa).1 := by
  unfold State.dieRead
  dsimp only
  exact h.shareInDie.homeRead.l3Install

theorem coreRead {pa : Nat} {fetch : Bool} : Calm sb (s.coreRead core pa fetch) := by
  unfold State.coreRead
  dsimp only
  split
  · exact h
  · split
    · exact h.meetErrors.dieRead
    · split
      · exact h.meetErrors.modCore.l1Fill
      · exact ite h.meetErrors.modCore h.meetErrors.dieRead.l3Present.takeBuffer

theorem coreOwn {pa : Nat} : Calm sb (s.coreOwn core pa) := by
  unfold State.coreOwn
  dsimp only
  refine ite h.completeFill.meetErrors.modCore ?_
  have hown := (h.completeFill (core := core) (line := pa / 256)).meetErrors (core := core) (pa := pa)
  split
  · exact ((hown.completeFills.supply.foldl fun _ _ ht => ht.evictCore).ownDirty.homeOwn.l3Install).modL2
  · exact ((hown.completeFills.supply.foldl fun _ _ ht => ht.evictCore).ownDirty.homeOwn.l3Install).takeBuffer.completeFill

theorem homeMerge {sec : Nat} {cells : List Host.Cell} : Calm sb (s.homeMerge sec cells) :=
  ite h (ite h.removeAll h.removeAll.dramLine).putCells.homeDirty.dropL1i

theorem coreWrite {sec : Nat} {cells : List Host.Cell} {through : Bool} : Calm sb (s.coreWrite core sec cells through) := by
  unfold State.coreWrite
  dsimp only
  split
  · exact h
  · exact ite (ite h.homeMerge.cleanLine h.homeMerge)
      (ite h.coreOwn.putCells.dropL1i.writeSector.modL2 h.coreOwn.putCells.dropL1i.modL2)

theorem uncachedRead {pa : Nat} : Calm sb (s.uncachedRead pa) := h.removeAll.readBlock

theorem homeWrite {sec : Nat} {cells : List Host.Cell} : Calm sb (s.homeWrite sec cells) :=
  ite h h.removeAll.putCells.acceptWrite.dropL1i

theorem engineRead {pa : Nat} : Calm sb (s.engineRead pa) := h.bringLine

theorem engineWrite {sec : Nat} {cells : List Host.Cell} : Calm sb (s.engineWrite sec cells) := ite h.homeWrite h.homeMerge

end

end Calm

end Sys2Proof.Machine
end

section
/-! SUPPORT. DRAM events: what the events of the DRAM controllers and the engines' accesses do (R287 to R307, R454). -/
namespace Sys2Proof.Machine
open Sys2Proof

/-! ## While the module runs, and while it is stopped (R454) -/

theorem State.running_of_not_frozen {s : State} (h : s.frozen = false) : s.powered = true ∧ s.terminal = false ∧ s.chkstop = false := by
  unfold State.frozen at h
  simp only [Bool.or_eq_false_iff, Bool.not_eq_false'] at h
  obtain ⟨⟨⟨hchk, hterm⟩, -⟩, hpow⟩ := h
  exact ⟨hpow, hterm, hchk⟩

theorem dramEvent_running {c : Instr} {s t : State} (h : dramEvent s c = some t) (hwf : c.wf = true) (hrun : s.frozen = false) :
    exec c s = .next t := by
  obtain ⟨hpow, hterm, hchk⟩ := State.running_of_not_frozen hrun
  have hstop (x : State) : (Host.Outcome.next (s.unlessFrozen x) : Result) = .next x := congrArg Host.Outcome.next (if_neg (by simp [hrun]))
  unfold dramEvent at h
  split at h <;> simp only [Option.some.injEq, reduceCtorEq] at h <;> subst h
  · exact hstop _
  · exact hstop _
  · exact hstop _
  · exact congrArg Host.Outcome.next (if_pos (by simp [hpow, hterm, hchk]))
  · exact hstop _
  · exact (if_pos hwf).trans (hstop _)
  · exact congrArg Host.Outcome.next ((if_neg (by simp [hpow, hterm])).trans (if_neg (by simp [hrun])))
  · exact congrArg Host.Outcome.next (if_neg (by simp [hpow, hterm]))
  · exact congrArg Host.Outcome.next (if_pos (by simp [hpow, hterm]))
  · exact (if_pos (of_decide_eq_true hwf)).trans (hstop _)
  · exact (if_pos (of_decide_eq_true hwf)).trans (hstop _)

theorem dramEvent_stopped {c : Instr} {s t : State} (h : dramEvent s c = some t) (hwf : c.wf = true) (hstop : s.frozen = true)
    (hissue : ∀ k b, c ≠ .dramCommandIssue k b) (hrefresh : ∀ k, c ≠ .refreshInterval k) (htrain : ∀ k b, c ≠ .trainingEnd k b)
    (hzero : ∀ k, c ≠ .zeroingEnd k) : exec c s = .next s := by
  have hkeep (x : State) : (Host.Outcome.next (s.unlessFrozen x) : Result) = .next s := congrArg Host.Outcome.next (if_pos hstop)
  unfold dramEvent at h
  split at h <;> simp only [Option.some.injEq, reduceCtorEq] at h
  · exact hkeep _
  · exact hkeep _
  · exact hkeep _
  · exact absurd rfl (hzero _)
  · exact hkeep _
  · exact (if_pos hwf).trans (hkeep _)
  · exact absurd rfl (hissue _ _)
  · exact absurd rfl (hrefresh _)
  · exact absurd rfl (htrain _ _)
  · exact (if_pos (of_decide_eq_true hwf)).trans (hkeep _)
  · exact (if_pos (of_decide_eq_true hwf)).trans (hkeep _)

/-! ## Training (R298) -/

theorem Calm.dcEnable {sb s : State} (h : Calm sb s) {c : Nat} : Calm sb (s.dcEnable c) :=
  .ite h (.ite (.modCtl (.srx (.setDcField (.setDcField h (by decide) (by decide)) (by decide) (by decide)))
    (by exact fun _ => ⟨id, rfl, rfl⟩)) (.setDcField h (by decide) (by decide)))

theorem Calm.enableZero {sb s : State} (h : Calm sb s) {c : Nat} : Calm sb (s.enableZero c) := Calm.ite h.dcEnable.startZero h.dcEnable

@[simp] theorem State.ctl_setCtl_same (s : State) (c : Nat) (k : DramCtl) : (s.setCtl c k).ctl c = k := sget_sput_same _ _ _ _

@[simp] theorem State.ctl_modCtl_same (s : State) (c : Nat) (f : DramCtl → DramCtl) : (s.modCtl c f).ctl c = f (s.ctl c) :=
  s.ctl_setCtl_same c _

theorem State.ctl_setReg (s : State) (a : Nat) (v : Dword) (c : Nat) : (s.setReg a v).ctl c = s.ctl c := rfl
theorem State.ctl_setRf (s : State) (a lo w n c : Nat) : (s.setRf a lo w n).ctl c = s.ctl c := rfl
theorem State.ctl_setDcState (s : State) (c n x : Nat) : (s.setDcState c n).ctl x = s.ctl x := s.ctl_setRf _ _ _ _ x
theorem State.ctl_updateBusy (s : State) (c x : Nat) : (s.updateBusy c).ctl x = s.ctl x := s.ctl_setRf _ _ _ _ x
theorem State.reg_modCtl (s : State) (c : Nat) (f : DramCtl → DramCtl) (a : Nat) : (s.modCtl c f).reg a = s.reg a := rfl

/-- Training that ends leaves the channel trained, with DONE or FAIL. -/
theorem State.endTraining_ends {s : State} {c : Nat} (ok : Bool) (h : (s.ctl c).training = true) :
    ((s.endTraining c ok).ctl c).training = false ∧ ((s.endTraining c ok).ctl c).trained = true ∧
      (s.endTraining c ok).rf (rDc c 0x20) 59 2 = if ok then 2 else 1 := by
  have hne : rDc c 0x20 ≠ rDc c 0 := rDc_ne (by decide) (.inr (by decide))
  unfold State.endTraining
  rw [if_neg (by simp [h])]
  dsimp only
  rw [State.ctl_updateBusy, State.ctl_setDcState, State.ctl_modCtl_same]
  refine ⟨rfl, rfl, ?_⟩
  rw [State.updateBusy, State.rf_setRf_other _ _ _ _ _ _ hne, State.setDcState, State.rf_setRf_other _ _ _ _ _ _ hne, State.rf,
    State.reg_modCtl, State.reg_setReg_same, fget_fset_same _ _ (by decide)]
  cases ok <;> rfl

theorem State.trainingEnd_ends {s : State} {c : Nat} (ok : Bool) (h : (s.ctl c).training = true) :
    ((s.trainingEnd c ok).ctl c).training = false ∧ ((s.trainingEnd c ok).ctl c).trained = true ∧
      (s.trainingEnd c ok).rf (rDc c 0x20) 59 2 = if ok then 2 else 1 := by
  have hcalm : Calm (s.endTraining c ok) (s.trainingEnd c ok) := Calm.ite (Calm.refl _).enableZero (Calm.refl _)
  obtain ⟨htraining, htrained, hreg⟩ := hcalm.training c
  obtain ⟨h1, h2, h3⟩ := State.endTraining_ends ok h
  exact ⟨htraining.trans h1, htrained.trans h2, by rw [State.rf, hreg]; exact h3⟩

/-! ## Self-refresh (R301, R302) -/

section
variable {s : State} {c : Nat} (hen : bit (s.reg (rDc c 0x28)) 63 = true) (hdc : s.dcEn c = true) (hst : s.dcState c = 2)
  (hzero : (s.ctl c).zeroing = false)
include hen hdc hst hzero

theorem State.srEntry_awake (hsr : (s.ctl c).sr = .awake) (hrq : (s.ctl c).rq = []) (hwq : (s.ctl c).wq = []) :
    ((s.srEntry c).ctl c).sr = .entering := by
  simp only [State.srEntry, hen, hdc, hst, hzero, hsr, hrq, hwq, Bool.not_true, bne_self_eq_false, Bool.or_self, Bool.false_eq_true, if_false,
    List.isEmpty_nil, Bool.and_self, if_true, State.ctl_modCtl_same]

theorem State.srEntry_entering (hsr : (s.ctl c).sr = .entering) : s.srEntry c = s.sre c := by
  simp only [State.srEntry, hen, hdc, hst, hzero, hsr, Bool.not_true, bne_self_eq_false, Bool.or_self, Bool.false_eq_true, if_false]

end

theorem State.sre_enters (s : State) (c : Nat) : ((s.sre c).ctl c).sr = .inSr ∧ (s.sre c).dcState c = 3 := by
  have hne : rDc c 0 ≠ rDc c 0x28 := (rDc_ne (by decide) (.inr (by decide))).symm
  unfold State.sre
  rw [State.ctl_setRf, State.ctl_setDcState, State.ctl_modCtl_same]
  refine ⟨rfl, ?_⟩
  rw [State.dcState, State.rf_setRf_other _ _ _ _ _ _ hne]
  exact State.rf_setRf_same _ _ _ (by decide)

theorem State.srExit_waiting {s : State} {c : Nat} (hst : s.dcState c = 3) (hsr : (s.ctl c).sr = .waiting) :
    s.srExit c = (s.srx c).serveFirst c := by
  simp only [State.srExit, hst, hsr, bne_self_eq_false, Bool.false_eq_true, if_false]

/-! ## Zeroing and drain (R304, R305) -/

theorem Memory.read_filter (m : List Host.Cell) (p : Nat → Bool) (a : Nat) :
    Memory.read (m.filter fun c => p c.1) a = if p a then Memory.read m a else 0 := by
  cases hp : p a with
  | false => exact Memory.read_filter_out hp
  | true =>
    induction m with
    | nil => rfl
    | cons c m ih =>
      have hcons (l : List Host.Cell) : Memory.read (c :: l) a = if c.1 = a then c.2 else Memory.read l a := rfl
      rw [List.filter_cons, hcons]
      split
      · rw [hcons, ih]; rfl
      · next hc =>
        have hne : c.1 ≠ a := fun e => hc (e ▸ hp)
        rw [ih, if_neg hne]

theorem State.endZero_ends {s : State} {c : Nat} (h : (s.ctl c).zeroing = true) :
    (∀ a, Memory.read (s.endZero c).mem a = if s.onChannel c a = true ∧ s.cached (a / 256) = false then 0 else Memory.read s.mem a) ∧
    (∀ a, Memory.read (s.endZero c).dram a = if s.onChannel c a = true then 0 else Memory.read s.dram a) ∧
    ((s.endZero c).ctl c).zeroing = false := by
  have hzero : ((s.zeroChannel c).ctl c).zeroing = true := h
  have hend : s.endZero c =
      (((s.zeroChannel c).modCtl c fun k => { k with zeroing := false }).setRf (rDc c 0) 59 1 0).updateBusy c := by
    rw [State.endZero, if_pos h, State.zeroDone, if_pos hzero]
  have hmem : (s.endZero c).mem = s.mem.filter fun x => !(s.onChannel c x.1) || s.cached (x.1 / 256) := by rw [hend]; rfl
  have hdram : (s.endZero c).dram = s.dram.filter fun x => !(s.onChannel c x.1) := by rw [hend]; rfl
  refine ⟨fun a => ?_, fun a => ?_, ?_⟩
  · rw [hmem, Memory.read_filter _ fun a => !(s.onChannel c a) || s.cached (a / 256)]
    cases s.onChannel c a <;> cases s.cached (a / 256) <;> rfl
  · rw [hdram, Memory.read_filter _ fun a => !(s.onChannel c a)]
    cases s.onChannel c a <;> rfl
  · rw [hend, State.ctl_updateBusy, State.ctl_setRf, State.ctl_modCtl_same]

theorem State.endDrain_ends {s : State} {c : Nat} (h : (s.ctl c).drain = true) :
    ((s.endDrain c).ctl c).drain = false ∧ ((s.endDrain c).ctl c).rq = [] ∧ ((s.endDrain c).ctl c).wq = [] ∧
      (s.endDrain c).dcState c = 0 ∧ (s.endDrain c).mem = s.mem := by
  have hmem : (s.endDrain c).mem = s.mem := ((Quiet.refl s).endDrain (c := c)).mem
  have hend : s.endDrain c = (((((s.attend c).drainQueues c).sre c).modCtl c fun k =>
      { k with drain := false, rq := [], wq := [], inOrder := [] }).setDcState c 0).updateBusy c := by
    rw [State.endDrain, if_neg (by simp [h])]
  refine ⟨?_, ?_, ?_, ?_, hmem⟩
  · rw [hend, State.ctl_updateBusy, State.ctl_setDcState, State.ctl_modCtl_same]
  · rw [hend, State.ctl_updateBusy, State.ctl_setDcState, State.ctl_modCtl_same]
  · rw [hend, State.ctl_updateBusy, State.ctl_setDcState, State.ctl_modCtl_same]
  · rw [hend, State.updateBusy, State.dcState, State.rf_setRf_field _ _ _ (by decide) (by decide)]
    exact State.rf_setRf_same _ _ _ (by decide)

/-- Settles O50: by the rows' gates, and by what each of the events ends with. -/
theorem dramEvents : Obligations.DramEvents := by
  unfold Obligations.DramEvents
  refine ⟨fun c s t => dramEvent_running, fun c s t => dramEvent_stopped, fun s k b hstop hpow hterm => ?_, fun s k hpow hterm => ?_,
    fun s k ok hpow hterm htrain => ?_, fun s k hrun hen hdc hst hzero => ⟨fun hsr hrq hwq => ?_, fun hsr => ?_⟩,
    fun s k hrun hst hsr => ?_, fun s k hpow hterm hchk hzero => ?_, fun s k hrun hdrain => ?_, fun s k a d p hblock => ?_⟩
  · exact congrArg Host.Outcome.next ((if_neg (by simp [hpow, hterm])).trans (if_pos hstop))
  · exact congrArg Host.Outcome.next (if_neg (by simp [hpow, hterm]))
  · exact ⟨_, congrArg Host.Outcome.next (if_pos (by simp [hpow, hterm])), State.trainingEnd_ends ok htrain⟩
  · exact ⟨_, dramEvent_running rfl rfl hrun, State.srEntry_awake hen hdc hst hzero hsr hrq hwq⟩
  · refine ⟨_, dramEvent_running rfl rfl hrun, ?_⟩
    rw [State.srEntry_entering hen hdc hst hzero hsr]
    exact s.sre_enters k
  · exact dramEvent_running (congrArg some ((State.srExit_waiting hst hsr).trans rfl)) rfl hrun
  · exact ⟨_, congrArg Host.Outcome.next (if_pos (by simp [hpow, hterm, hchk])), State.endZero_ends hzero⟩
  · exact ⟨_, dramEvent_running rfl rfl hrun, State.endDrain_ends hdrain⟩
  · exact if_neg (by simp [hblock])

end Sys2Proof.Machine
end

section
/-! SUPPORT. Accesses: what reads and writes of the cores, the engines and the home dies leave of storage, working store and the
executing units (R238, R250 to R263). -/
namespace Sys2Proof.Machine
open Sys2Proof

/-! ## Regions in conflict (R238) -/

/-- A request that conflicts with regions changes units alone. -/
theorem State.conflict_eq (s : State) (by_ : Option Nat) (sector : Nat) (write : Bool) :
    ∃ us, s.conflict by_ sector write = { s with units := us } := by
  unfold State.conflict
  refine List.foldlRecOn (motive := fun t : State => ∃ us, t = { s with units := us }) _ _ ⟨s.units, rfl⟩ fun t ht u _ => ?_
  obtain ⟨us, rfl⟩ := ht
  split
  · exact ⟨us, rfl⟩
  · split
    · split
      · exact ⟨_, rfl⟩
      · exact ⟨us, rfl⟩
    · exact ⟨us, rfl⟩

theorem State.conflicts_eq (s : State) (by_ : Option Nat) (sectors : List Nat) (write : Bool) :
    ∃ us, s.conflicts by_ sectors write = { s with units := us } := by
  unfold State.conflicts
  refine List.foldlRecOn (motive := fun t : State => ∃ us, t = { s with units := us }) _ _ ⟨s.units, rfl⟩ fun t ht x _ => ?_
  obtain ⟨us, rfl⟩ := ht
  obtain ⟨vs, hvs⟩ := ({ s with units := us } : State).conflict_eq by_ x write
  exact ⟨vs, hvs⟩

/-- The requester's own region meets no conflict. -/
theorem State.unit_conflict (s : State) (u sector : Nat) (write : Bool) : (s.conflict (some u) sector write).unit u = s.unit u := by
  unfold State.conflict
  refine List.foldlRecOn (motive := fun t : State => t.unit u = s.unit u) _ _ rfl fun t ht v _ => ?_
  split
  · exact ht
  · next hv =>
    have hne : u ≠ v := fun e => hv (congrArg some e)
    split
    · split
      · exact (t.unit_modUnit_other _ hne).trans ht
      · exact ht
    · exact ht

theorem State.unit_conflicts (s : State) (u : Nat) (sectors : List Nat) (write : Bool) :
    (s.conflicts (some u) sectors write).unit u = s.unit u := by
  unfold State.conflicts
  exact List.foldlRecOn (motive := fun t : State => t.unit u = s.unit u) _ _ rfl fun t ht x _ => (t.unit_conflict u x write).trans ht

/-- No unit has an open region. -/
def State.noRegion (s : State) : Prop := ∀ u, (s.unit u).region = none

theorem State.conflict_of_noRegion {s : State} (h : s.noRegion) (by_ : Option Nat) (sector : Nat) (write : Bool) :
    s.conflict by_ sector write = s := by
  unfold State.conflict
  refine List.foldlRecOn (motive := fun t : State => t = s) _ _ rfl fun t ht u _ => ?_
  subst ht
  split
  · rfl
  · rw [h u]

theorem State.conflicts_of_noRegion {s : State} (h : s.noRegion) (by_ : Option Nat) (sectors : List Nat) (write : Bool) :
    s.conflicts by_ sectors write = s := by
  unfold State.conflicts
  refine List.foldlRecOn (motive := fun t : State => t = s) _ _ rfl fun t ht x _ => ?_
  subst ht
  exact State.conflict_of_noRegion h by_ x write

theorem Quiet.noRegion {s t : State} (h : Quiet s t) (hs : s.noRegion) : t.noRegion := by
  intro u
  have hu := h.held u
  simp only [Cpu.kept, Prod.mk.injEq] at hu
  obtain ⟨-, -, -, hregion, -⟩ := hu
  exact hregion.trans (hs u)

/-! ## Reads change no storage (R250, R263) -/

namespace Quiet

section
variable {sb s : State} (h : Quiet sb s) {core die line : Nat}
include h

theorem modL2 {f : L2Line → L2Line} : Quiet sb (s.modL2 core line f) := h.modCore

theorem takeBuffer {b : MissBuf} : Quiet sb (s.takeBuffer core b) := by
  unfold State.takeBuffer
  dsimp only
  refine modCore ?_
  split
  · exact h
  · split
    · exact h.completeFill
    · exact h

theorem cleanLine : Quiet sb (s.cleanLine line) :=
  foldl (fun _ _ ht => ht.modL3.ite ht)
    (foldl (fun _ _ ht => ht.modL2.ite ht) h.acceptVictims.completeFills.supply.writeMask)

theorem dropL1i {x : Nat} : Quiet sb (s.dropL1i x) := h.upd

theorem meetErrors {pa : Nat} : Quiet sb (s.meetErrors core pa) := by
  unfold State.meetErrors
  dsimp only
  have h1 : Quiet sb (if (s.l1Errs core (pa / 64)).isEmpty || !((s.core core).l1i.contains (pa / 64) || (s.core core).l1d.contains (pa / 64))
      then s
      else ((((s.dropErrs (s.l1Errs core (pa / 64))).modCore core fun c => { c with
          l1i := c.l1i.filter fun x => x != pa / 64
          l1d := c.l1d.filter fun x => x != pa / 64 }).errInc (rL2Err core) 32 16 63).cacheSend (core / 26) (core % 26) 0x30 1 (pa / 256)
        (injOf (s.l1Errs core (pa / 64))))) := h.ite h.dropErrs.modCore.errInc.cacheSend
  exact h.ite ((h1.tagMeet.l2Meet.ite h1).ite (h1.tagMeet.l2Meet.ite h1).tagMeet.l3Meet)

theorem shareInDie : Quiet sb (s.shareInDie core line).1 := by
  unfold State.shareInDie
  dsimp only
  split
  · exact h
  · exact h.shareCores

theorem dieRead {pa : Nat} : Quiet sb (s.dieRead core pa).1 := by
  unfold State.dieRead
  dsimp only
  exact h.shareInDie.homeRead.l3Install

theorem coreRead {pa : Nat} {fetch : Bool} : Quiet sb (s.coreRead core pa fetch) := by
  unfold State.coreRead
  dsimp only
  split
  · exact h
  · split
    · exact h.meetErrors.dieRead
    · split
      · exact h.meetErrors.modCore.l1Fill
      · exact h.meetErrors.modCore.ite h.meetErrors.dieRead.l3Present.takeBuffer

theorem coreOwn {pa : Nat} : Quiet sb (s.coreOwn core pa) := by
  unfold State.coreOwn
  dsimp only
  have hown := (h.completeFill (core := core) (line := pa / 256)).meetErrors (core := core) (pa := pa)
  refine hown.modCore.ite ?_
  have hsupply (ks : List Nat) := (hown.completeFills (ks := ks) (line := pa / 256)).supply (line := pa / 256)
  split
  · exact (foldl (fun _ _ ht => ht.evictCore) (hsupply _)).ownDirty.homeOwn.l3Install.modL2
  · exact (foldl (fun _ _ ht => ht.evictCore) (hsupply _)).ownDirty.homeOwn.l3Install.takeBuffer.completeFill

theorem uncachedRead {pa : Nat} : Quiet sb (s.uncachedRead pa) := h.removeAll.readBlock
theorem engineRead {pa : Nat} : Quiet sb (s.engineRead pa) := h.bringLine

end

end Quiet

/-! ## Bytes written (R263) -/

/-- Bytes become what every agent observes, newest first. -/
def Memory.writeCells (m cells : List Host.Cell) : List Host.Cell := cells.foldr (fun x m => Memory.write m x.1 x.2) m

theorem Memory.read_writeCells (m cells : List Host.Cell) (a : Nat) :
    Memory.read (Memory.writeCells m cells) a = match cells.find? (fun x => x.1 == a) with
      | some x => x.2
      | none => Memory.read m a := by
  induction cells with
  | nil => rfl
  | cons c cells ih =>
    have hcons : Memory.writeCells m (c :: cells) = Memory.write (Memory.writeCells m cells) c.1 c.2 := rfl
    rw [hcons, List.find?_cons]
    by_cases hc : c.1 = a
    · subst hc; rw [Memory.read_write_same, beq_self_eq_true]
    · rw [Memory.read_write_other _ _ (Ne.symm hc), ih, beq_false_of_ne hc]

theorem Memory.read_writeCells_other (m : List Host.Cell) {cells : List Host.Cell} {a : Nat} (h : ∀ x ∈ cells, x.1 ≠ a) :
    Memory.read (Memory.writeCells m cells) a = Memory.read m a := by
  rw [Memory.read_writeCells, List.find?_eq_none.mpr fun x hx => by simpa using h x hx]

theorem cellsAt_cons (pa : Nat) (b : Byte) (data : List Byte) : cellsAt pa (b :: data) = (pa, b) :: cellsAt (pa + 1) data := by
  simp only [cellsAt, List.length_cons, List.range_succ_eq_map, List.zip_cons_cons, List.map_cons, Nat.add_zero, List.zip_map_left,
    List.map_map]
  refine congrArg _ (List.map_congr_left fun x _ => ?_)
  exact congrArg (·, x.2) (by simp only [Prod.map]; omega)

theorem mem_cellsAt {pa : Nat} {data : List Byte} {x : Host.Cell} (h : x ∈ cellsAt pa data) : pa ≤ x.1 ∧ x.1 < pa + data.length := by
  induction data generalizing pa with
  | nil => exact absurd h (by simp [cellsAt])
  | cons b data ih =>
    rw [cellsAt_cons, List.mem_cons] at h
    rw [List.length_cons]
    rcases h with rfl | h
    · exact ⟨(Nat.le_refl _), by omega⟩
    · have := ih h
      omega

/-- A byte after consecutive bytes have been written. -/
theorem Memory.read_cellsAt (m : List Host.Cell) (pa : Nat) (data : List Byte) (a : Nat) :
    Memory.read (Memory.writeCells m (cellsAt pa data)) a =
      if pa ≤ a ∧ a < pa + data.length then data.getD (a - pa) 0 else Memory.read m a := by
  split
  · next h =>
    rw [Memory.read_writeCells]
    induction data generalizing pa with
    | nil => exact absurd h (by simp only [List.length_nil]; omega)
    | cons b data ih =>
      rw [cellsAt_cons, List.find?_cons]
      rw [List.length_cons] at h
      by_cases hpa : pa = a
      · subst hpa; rw [beq_self_eq_true, Nat.sub_self]; rfl
      · have hstep : a - pa = (a - (pa + 1)) + 1 := by omega
        rw [beq_false_of_ne hpa, hstep, List.getD_cons_succ]
        exact ih (pa + 1) (by omega)
  · next h =>
    exact Memory.read_writeCells_other m fun x hx e => h (e ▸ mem_cellsAt hx)

theorem Memory.readN_eq {m : List Host.Cell} {a : Nat} {d : List Byte} (h : ∀ i < d.length, Memory.read m (a + i) = d.getD i 0) :
    Memory.readN m a d.length = d := by
  induction d generalizing a with
  | nil => rfl
  | cons b d ih =>
    rw [List.length_cons, Memory.readN, ih fun i hi => ?_]
    · rw [show Memory.read m a = b from h 0 (by simp)]
    · have := h (i + 1) (by simpa using hi)
      rwa [← Nat.add_assoc, Nat.add_right_comm, List.getD_cons_succ] at this

/-- From s to t the cells given are written, and nothing else of storage and working store. -/
structure State.Writes (s t : State) (cells : List Host.Cell) : Prop where
  mem : t.mem = Memory.writeCells s.mem cells
  ws : t.ws = s.ws

theorem State.Writes.of_quiet {s t u : State} {cells : List Host.Cell} (h : s.Writes t cells) (hq : Quiet t u) : s.Writes u cells :=
  ⟨hq.mem.trans h.mem, hq.ws.trans h.ws⟩

theorem State.putCells_writes {s t : State} (h : Quiet s t) (sec : Nat) (cells : List Host.Cell) : s.Writes (t.putCells sec cells) cells := by
  have hmem : (t.putCells sec cells).mem = Memory.writeCells t.mem cells := by unfold State.putCells; dsimp only; split <;> rfl
  have hws : (t.putCells sec cells).ws = t.ws := by unfold State.putCells; dsimp only; split <;> rfl
  exact ⟨hmem.trans (by rw [h.mem]), hws.trans h.ws⟩

section
variable {s : State} {sec : Nat} {cells : List Host.Cell}

theorem State.homeWrite_absent (h : s.absent (64 * sec) = true) : s.homeWrite sec cells = s := if_pos h
theorem State.homeMerge_absent (h : s.absent (64 * sec) = true) : s.homeMerge sec cells = s := if_pos h

theorem State.engineWrite_absent (h : s.absent (64 * sec) = true) : s.engineWrite sec cells = s := by
  unfold State.engineWrite
  rw [State.homeWrite_absent h, State.homeMerge_absent h, ite_self]

theorem State.coreWrite_absent (h : s.absent (64 * sec) = true) (core : Nat) (through : Bool) : s.coreWrite core sec cells through = s :=
  if_pos h

variable (h : s.absent (64 * sec) = false)
include h

theorem State.homeWrite_writes : s.Writes (s.homeWrite sec cells) cells := by
  unfold State.homeWrite
  rw [if_neg (by simp [h])]
  exact (State.putCells_writes (Quiet.refl s).removeAll sec cells).of_quiet (Quiet.refl _).acceptWrite.dropL1i

theorem State.homeMerge_writes : s.Writes (s.homeMerge sec cells) cells := by
  unfold State.homeMerge
  rw [if_neg (by simp [h])]
  have hs := Quiet.refl s
  exact (State.putCells_writes (hs.removeAll.ite hs.removeAll.dramLine) sec cells).of_quiet (Quiet.refl _).homeDirty.dropL1i

theorem State.engineWrite_writes : s.Writes (s.engineWrite sec cells) cells := by
  unfold State.engineWrite
  split
  · exact State.homeWrite_writes h
  · exact State.homeMerge_writes h

theorem State.coreWrite_writes (core : Nat) (through : Bool) : s.Writes (s.coreWrite core sec cells through) cells := by
  unfold State.coreWrite
  rw [if_neg (by simp [h])]
  dsimp only
  split
  · exact (State.homeMerge_writes h).of_quiet ((Quiet.refl _).cleanLine.ite (Quiet.refl _))
  · exact (State.putCells_writes (Quiet.refl s).coreOwn sec cells).of_quiet
      ((Quiet.refl _).dropL1i.writeSector.modL2.ite (Quiet.refl _).dropL1i.modL2)

end

end Sys2Proof.Machine
end

section
/-! SUPPORT. Requests to the DRAM controllers and the engines' accesses to storage (R263, R286 to R288). -/
namespace Sys2Proof.Machine
open Sys2Proof

/-! ## Parts of an access in sectors -/

/-- Where a part of an access lies: in one sector that the access touches. -/
theorem mem_sectorParts {pa len : Nat} {x : Nat × Nat} (h : x ∈ sectorParts pa len) :
    pa ≤ x.1 ∧ x.1 + x.2 ≤ pa + len ∧ 1 ≤ x.2 ∧ x.1 % 64 + x.2 ≤ 64 ∧ pa / 64 ≤ x.1 / 64 ∧ x.1 / 64 ≤ (pa + len - 1) / 64 := by
  unfold sectorParts at h
  split at h
  · exact absurd h (List.not_mem_nil)
  · simp only [sectorsOf, List.map_map, List.mem_map, List.mem_range] at h
    obtain ⟨i, hi, rfl⟩ := h
    simp only [Function.comp]
    omega

/-- Every byte of an access lies in one of its parts. -/
theorem exists_sectorPart {pa len a : Nat} (hlo : pa ≤ a) (hhi : a < pa + len) :
    ∃ x ∈ sectorParts pa len, x.1 ≤ a ∧ a < x.1 + x.2 := by
  refine ⟨(max pa (64 * (a / 64)), min (pa + len) (64 * (a / 64) + 64) - max pa (64 * (a / 64))), ?_, ?_⟩
  · unfold sectorParts
    rw [if_neg (by omega), List.mem_map]
    refine ⟨a / 64, ?_, rfl⟩
    simp only [sectorsOf, List.mem_map, List.mem_range]
    exact ⟨a / 64 - pa / 64, by omega, by omega⟩
  · dsimp only
    omega

/-- Storage after the parts of an access have been written one after another. -/
theorem Memory.read_foldl_parts {f : State → Nat × Nat → State} {P : State → Prop} {pa : Nat} {data : List Byte} {parts : List (Nat × Nat)}
    (hparts : ∀ x ∈ parts, pa ≤ x.1 ∧ x.1 + x.2 ≤ pa + data.length)
    (hf : ∀ t x, P t → x ∈ parts → P (f t x) ∧ t.Writes (f t x) (cellsAt x.1 ((data.drop (x.1 - pa)).take x.2))) {s : State} (hs : P s)
    (a : Nat) :
    Memory.read (parts.foldl f s).mem a =
      if ∃ x ∈ parts, x.1 ≤ a ∧ a < x.1 + x.2 then data.getD (a - pa) 0 else Memory.read s.mem a := by
  induction parts generalizing s with
  | nil => simp
  | cons x parts ih =>
    obtain ⟨hP, hW⟩ := hf s x hs List.mem_cons_self
    obtain ⟨hlo, hhi⟩ := hparts x List.mem_cons_self
    rw [List.foldl_cons, ih (fun y hy => hparts y (List.mem_cons_of_mem _ hy)) (fun t y ht hy => hf t y ht (List.mem_cons_of_mem _ hy)) hP,
      hW.mem, Memory.read_cellsAt]
    have hlen : ((data.drop (x.1 - pa)).take x.2).length = x.2 := by simp only [List.length_take, List.length_drop]; omega
    rw [hlen]
    by_cases hrest : ∃ y ∈ parts, y.1 ≤ a ∧ a < y.1 + y.2
    · obtain ⟨y, hy, hya⟩ := hrest
      rw [if_pos ⟨y, hy, hya⟩, if_pos ⟨y, List.mem_cons_of_mem _ hy, hya⟩]
    · rw [if_neg hrest]
      by_cases hx : x.1 ≤ a ∧ a < x.1 + x.2
      · obtain ⟨hxa, hax⟩ := hx
        rw [if_pos ⟨hxa, hax⟩, if_pos ⟨x, List.mem_cons_self, hxa, hax⟩]
        have hi : a - x.1 < x.2 := by omega
        have hsum : x.1 - pa + (a - x.1) = a - pa := by omega
        simp only [List.getD_eq_getElem?_getD, List.getElem?_take_of_lt hi, List.getElem?_drop, hsum]
      · rw [if_neg hx, if_neg]
        rintro ⟨y, hy, hya⟩
        rcases List.mem_cons.mp hy with rfl | hy
        · exact hx hya
        · exact hrest ⟨y, hy, hya⟩

/-! ## Channels that serve -/

/-- Every channel serves. -/
def State.allServe (s : State) : Prop := ∀ c : Fin 16, s.serves c = true

theorem State.chanOf_lt (s : State) (pa : Nat) : s.chanOf pa < 16 := by
  have h (lo w : Nat) : nbits pa lo w < 2 ^ w := Nat.mod_lt _ (Nat.two_pow_pos w)
  unfold State.chanOf
  split
  · have := Nat.xor_lt_two_pow (Nat.xor_lt_two_pow (h 8 3) (h 16 3)) (h 24 3)
    omega
  · exact Nat.xor_lt_two_pow (Nat.xor_lt_two_pow (h 8 4) (h 16 4)) (h 24 4)

theorem State.allServe.not_absent {s : State} (h : s.allServe) (pa : Nat) : s.absent pa = false := by
  have hserves : s.serves (s.chanOf pa) = true := h ⟨s.chanOf pa, s.chanOf_lt pa⟩
  simp only [State.absent, State.dramServed, hserves, Bool.true_or, Bool.not_true, Bool.and_false]

theorem State.allServe.calm {s t : State} (h : s.allServe) (hc : Calm s t) : t.allServe := fun c => hc.serves c (h c)

theorem State.allServe.conflicts {s : State} (h : s.allServe) (by_ : Option Nat) (sectors : List Nat) (write : Bool) :
    (s.conflicts by_ sectors write).allServe := by
  obtain ⟨us, hus⟩ := s.conflicts_eq by_ sectors write
  rw [hus]
  exact h

theorem State.Writes.of_conflicts {s t : State} {cells : List Host.Cell} {by_ : Option Nat} {sectors : List Nat} {write : Bool}
    (h : (s.conflicts by_ sectors write).Writes t cells) : s.Writes t cells := by
  obtain ⟨us, hus⟩ := s.conflicts_eq by_ sectors write
  rw [hus] at h
  exact ⟨h.mem, h.ws⟩

/-! ## The engines' accesses (R263) -/

theorem Cpu.kept_of_unsignalled {c d : Cpu} (h : c.unsignalled = d.unsignalled) : c.kept = d.kept := by
  simp only [Cpu.unsignalled, Cpu.mk.injEq] at h
  simp only [Cpu.kept, h]

theorem Calm.noRegion {s t : State} (h : Calm s t) (hs : s.noRegion) : t.noRegion := fun u => by
  have := Cpu.kept_of_unsignalled (h.held u)
  simp only [Cpu.kept, Prod.mk.injEq] at this
  obtain ⟨-, -, -, hregion, -⟩ := this
  exact hregion.trans (hs u)

/-- Where every channel serves, an engine's write stores its bytes and nothing else. -/
theorem State.engWrite_mem {s : State} (h : s.allServe) (pa : Nat) (data : List Byte) (a : Nat) :
    Memory.read (s.engWrite pa data).mem a = if pa ≤ a ∧ a < pa + data.length then data.getD (a - pa) 0 else Memory.read s.mem a := by
  unfold State.engWrite
  rw [Memory.read_foldl_parts (P := State.allServe) (fun x hx => ?_) (fun t x ht _ => ?_) h]
  · refine ite_congr (propext ⟨fun ⟨x, hx, hxa⟩ => ?_, fun ⟨hlo, hhi⟩ => exists_sectorPart hlo hhi⟩) (fun _ => rfl) fun _ => rfl
    obtain ⟨hlo, hhi, -⟩ := mem_sectorParts hx
    omega
  · obtain ⟨hlo, hhi, -⟩ := mem_sectorParts hx
    exact ⟨hlo, hhi⟩
  · have hc := ht.conflicts none [x.1 / 64] true
    exact ⟨hc.calm (Calm.refl _).engineWrite, (State.engineWrite_writes (hc.not_absent _)).of_conflicts⟩

/-- With no region open, an engine's write leaves what instructions hold. -/
theorem State.engWrite_kept {s : State} (h : s.noRegion) (pa : Nat) (data : List Byte) (u : Nat) :
    ((s.engWrite pa data).unit u).kept = (s.unit u).kept := by
  unfold State.engWrite
  refine (List.foldlRecOn (motive := fun t : State => t.noRegion ∧ (t.unit u).kept = (s.unit u).kept) _ _ ⟨h, rfl⟩ fun t ht x _ => ?_).2
  obtain ⟨hregion, hkept⟩ := ht
  rw [State.conflicts_of_noRegion hregion]
  have hc : Calm t (t.engineWrite (x.1 / 64) (cellsAt x.1 ((data.drop (x.1 - pa)).take x.2))) := (Calm.refl t).engineWrite
  exact ⟨hc.noRegion hregion, (Cpu.kept_of_unsignalled (hc.held u)).trans hkept⟩

theorem State.engRead_mem (s : State) (pa len : Nat) : (s.engRead pa len).mem = s.mem := by
  unfold State.engRead
  refine List.foldlRecOn (motive := fun t : State => t.mem = s.mem) _ _ rfl fun t ht x _ => ?_
  obtain ⟨us, hus⟩ := t.conflicts_eq none [x.1 / 64] false
  rw [hus]
  exact (Quiet.refl _).engineRead.mem.trans ht

theorem State.engRead_quiet {s : State} (h : s.noRegion) (pa len : Nat) : Quiet s (s.engRead pa len) := by
  unfold State.engRead
  refine List.foldlRecOn (motive := fun t : State => Quiet s t) _ _ (Quiet.refl s) fun t ht x _ => ?_
  rw [State.conflicts_of_noRegion (ht.noRegion h)]
  exact ht.engineRead

/-! ## Where nothing holds the address -/

theorem State.chanOf_line (s : State) {a b : Nat} (h : a / 256 = b / 256) : s.chanOf a = s.chanOf b := by
  have hbits (lo w : Nat) (hlo : 8 ≤ lo) : nbits a lo w = nbits b lo w := by
    have hshift (x : Nat) : x >>> lo = (x / 256) >>> (lo - 8) := by
      rw [Nat.shiftRight_eq_div_pow, Nat.shiftRight_eq_div_pow, show 256 = 2 ^ 8 from rfl, Nat.div_div_eq_div_mul, ← Nat.pow_add,
        Nat.add_sub_cancel' hlo]
    rw [nbits, nbits, hshift a, hshift b, h]
  unfold State.chanOf
  rw [hbits 8 3 (by decide), hbits 16 3 (by decide), hbits 24 3 (by decide), hbits 8 4 (by decide), hbits 16 4 (by decide),
    hbits 24 4 (by decide)]

/-- The channel picked for a block that no channel serves does not serve. -/
theorem State.not_serves_pickChan {s : State} {block : Nat} (h : s.dramServed (block * 128) = false) :
    s.serves (s.pickChan block) = false := by
  simp only [State.dramServed, Bool.or_eq_false_iff, State.mirrorServes, Bool.and_eq_false_iff] at h
  obtain ⟨hserves, hmirror⟩ := h
  unfold State.pickChan
  dsimp only
  cases hm : s.mirrored with
  | false => exact hserves
  | true =>
    have heven : partner (s.chanOf (block * 128)) = s.chanOf (block * 128) + 1 :=
      if_pos (by rw [State.chanOf, if_pos hm]; omega)
    have hpartner : s.serves (s.chanOf (block * 128) + 1) = false := by
      rcases hmirror with hmirror | hmirror
      · rw [hm] at hmirror; cases hmirror
      · rwa [heven] at hmirror
    rw [if_pos (by simp [hpartner])]
    exact hserves

theorem State.readBlock_unserved {s : State} {block : Nat} (h : s.dramServed (block * 128) = false) : s.readBlock block = s :=
  if_pos (by simp [State.not_serves_pickChan h])

theorem State.engineRead_absent {s : State} {pa : Nat} (h : s.absent pa = true) : s.engineRead pa = s := by
  simp only [State.absent, Bool.and_eq_true, Bool.not_eq_true'] at h
  obtain ⟨hcached, hserved⟩ := h
  have hblock {b : Nat} (hb : b / 2 = pa / 256) : s.readBlock b = s :=
    State.readBlock_unserved (by rw [State.dramServed, s.chanOf_line (show b * 128 / 256 = pa / 256 by omega)]; exact hserved)
  have hother : (pa / 128 ^^^ 1) / 2 = pa / 256 := by
    rw [Nat.xor_div_two, Nat.div_div_eq_div_mul]
    exact Nat.xor_zero _
  unfold State.engineRead State.bringLine State.dramLine
  simp only [hcached, Bool.false_eq_true, if_false]
  rw [hblock (Nat.div_div_eq_div_mul pa 128 2), hblock hother]

/-- From s to t regions in conflict may have ended, and nothing else has changed. -/
structure State.OnlyConflicts (s t : State) : Prop where
  rest : ∃ us, t = { s with units := us }
  quiet : s.noRegion → t = s

theorem State.OnlyConflicts.foldl {α : Type} {f : State → α → State} {s : State} {parts : List α} {sector : α → Nat} {write : Bool}
    (hf : ∀ us, ∀ x ∈ parts, f { s with units := us } x = ({ s with units := us } : State).conflicts none [sector x] write) :
    s.OnlyConflicts (parts.foldl f s) := by
  refine List.foldlRecOn (motive := fun t : State => s.OnlyConflicts t) _ _ ⟨⟨s.units, rfl⟩, fun _ => rfl⟩ fun t ht x hx => ?_
  obtain ⟨⟨us, rfl⟩, hquiet⟩ := ht
  rw [hf us x hx]
  refine ⟨?_, fun hs => ?_⟩
  · obtain ⟨vs, hvs⟩ := ({ s with units := us } : State).conflicts_eq none [sector x] write
    exact ⟨vs, hvs⟩
  · rw [hquiet hs]
    exact State.conflicts_of_noRegion hs _ _ _

theorem State.absent_conflicts {s : State} {sectors : List Nat} {write : Bool} {pa : Nat} (h : s.absent pa = true) (us : Store Cpu) :
    (({ s with units := us } : State).conflicts none sectors write).absent pa = true := by
  obtain ⟨vs, hvs⟩ := ({ s with units := us } : State).conflicts_eq none sectors write
  rw [hvs]
  exact h

section
variable {s : State} {pa len : Nat} (h : ∀ q, pa / 64 ≤ q → q ≤ (pa + len - 1) / 64 → s.absent (64 * q) = true)
include h

theorem State.engWrite_absent {data : List Byte} (hlen : data.length = len) : s.OnlyConflicts (s.engWrite pa data) := by
  subst hlen
  refine State.OnlyConflicts.foldl (sector := fun x => x.1 / 64) (write := true) fun us x hx => ?_
  obtain ⟨-, -, -, -, hlo, hhi⟩ := mem_sectorParts hx
  exact State.engineWrite_absent (State.absent_conflicts (h _ hlo hhi) us)

theorem State.engRead_absent : s.OnlyConflicts (s.engRead pa len) := by
  refine State.OnlyConflicts.foldl (sector := fun x => x.1 / 64) (write := false) fun us x hx => ?_
  obtain ⟨-, -, -, -, hlo, hhi⟩ := mem_sectorParts hx
  refine State.engineRead_absent (State.absent_conflicts ?_ us)
  have hq := h _ hlo hhi
  rw [State.absent, State.dramServed, s.chanOf_line (show x.1 / 256 = 64 * (x.1 / 64) / 256 by omega),
    show x.1 / 256 = 64 * (x.1 / 64) / 256 by omega]
  exact hq

end

/-! ## Requests of the DRAM controllers (R287, R288) -/

/-- From s to t the controllers, the DRAM arrays and every register but one are the same. -/
structure State.RegisterAlone (s t : State) (a : Nat) : Prop where
  ctls : t.ctls = s.ctls
  dram : t.dram = s.dram
  reg : ∀ b, b ≠ a → t.reg b = s.reg b

theorem State.RegisterAlone.setReg {s t : State} {a : Nat} (h : s.RegisterAlone t a) (v : Dword) : s.RegisterAlone (t.setReg a v) a :=
  ⟨h.ctls, h.dram, fun b hb => (t.reg_setReg_other v hb).trans (h.reg b hb)⟩

theorem State.RegisterAlone.hostSignal {s t : State} {a : Nat} (h : s.RegisterAlone t a) (code detail : Nat) :
    s.RegisterAlone (t.hostSignal code detail) a := by
  unfold State.hostSignal
  split
  · exact h
  · exact ⟨h.ctls, h.dram, h.reg⟩

theorem State.RegisterAlone.fspEvent {s t : State} {a : Nat} (h : s.RegisterAlone t a) (group code : Nat) (body : List Dword) :
    s.RegisterAlone (t.fspEvent group code body) a := by
  obtain ⟨out, hout⟩ := t.fspEvent_eq group code body
  rw [hout]
  exact ⟨h.ctls, h.dram, h.reg⟩

theorem State.evInc_registerAlone (s : State) (a n : Nat) : s.RegisterAlone (s.evInc a n) a := by
  have h : s.RegisterAlone (s.setRf a 0 48 (s.rf a 0 48 + n)) a := State.RegisterAlone.setReg ⟨rfl, rfl, fun _ _ => rfl⟩ _
  unfold State.evInc
  dsimp only
  split
  · split
    · exact ((h.setReg _).hostSignal _ _).fspEvent _ _ _
    · exact h.setReg _
  · exact h

theorem State.ctl_modCtl_other (s : State) {c x : Nat} (f : DramCtl → DramCtl) (h : x ≠ c) : (s.modCtl c f).ctl x = s.ctl x :=
  sget_sput_other _ _ _ h

/-- What keeping a bank in order leaves: the queues of every controller, the DRAM arrays and whether channels are mirrored. -/
theorem State.orderBank_kept (s : State) (c block : Nat) :
    (∀ x, ((s.orderBank c block).ctl x).rq = (s.ctl x).rq ∧ ((s.orderBank c block).ctl x).wq = (s.ctl x).wq) ∧
      (s.orderBank c block).dram = s.dram ∧ (s.orderBank c block).mirrored = s.mirrored := by
  have hrefl : (∀ x, (s.ctl x).rq = (s.ctl x).rq ∧ (s.ctl x).wq = (s.ctl x).wq) ∧ s.dram = s.dram ∧ s.mirrored = s.mirrored :=
    ⟨fun _ => ⟨rfl, rfl⟩, rfl, rfl⟩
  unfold State.orderBank
  dsimp only
  split
  · exact hrefl
  · split
    · next w _ =>
      obtain ⟨hctls, hdram, hreg⟩ := (s.modCtl c fun k => { k with inOrder := k.inOrder ++ [((s.bankRow block).1, w.block)] }).evInc_registerAlone
        (rDc c 0x48) 1
      refine ⟨fun x => ?_, hdram, ?_⟩
      · rw [State.ctl, hctls]
        change (State.ctl _ x).rq = _ ∧ (State.ctl _ x).wq = _
        by_cases hx : x = c
        · subst hx
          rw [State.ctl_modCtl_same]
          exact ⟨rfl, rfl⟩
        · rw [State.ctl_modCtl_other _ _ hx]
          exact ⟨rfl, rfl⟩
      · refine congrArg (List.all (List.range 16)) (funext fun x => ?_)
        exact congrArg (bit · 61) (hreg _ (rDc_ne (by decide) (.inr (by decide))).symm)
    · exact hrefl

theorem State.queued_orderBank (s : State) (c block c' block' : Nat) : (s.orderBank c block).queued c' block' = s.queued c' block' := by
  obtain ⟨hqueues, -, hmirrored⟩ := s.orderBank_kept c block
  have hwq (x : Nat) : ((s.orderBank c block).ctl x).wq = (s.ctl x).wq := (hqueues x).2
  rw [State.queued, State.queued, hwq, hwq, hmirrored]

/-- A read that finds the rank awake, no queued write of its block and room joins the queue. -/
theorem State.readOn_joins {s : State} {c block : Nat} (hsr : (s.ctl c).sr = .awake) (hqueued : s.queued c block = none)
    (hroom : (s.ctl c).rq.length < queueRoom) :
    ∃ x : DramRead, x.block = block ∧ ((s.readOn c block).ctl c).rq = (s.ctl c).rq ++ [x] ∧ (s.readOn c block).dram = s.dram := by
  have hwake : s.wake c = s := by
    unfold State.wake
    split
    · rfl
    · rw [hsr]
  obtain ⟨hqueues, hdram, -⟩ := s.orderBank_kept c block
  obtain ⟨hrq, -⟩ := hqueues c
  unfold State.readOn
  dsimp only
  rw [hwake, s.queued_orderBank, hqueued]
  dsimp only
  rw [if_neg Bool.false_ne_true, hrq, if_neg (by omega), State.ctl_modCtl_same]
  exact ⟨_, rfl, congrArg (· ++ [_]) hrq, hdram⟩

/-! ## The obligation -/

theorem Memory.writeN_stores (m : List Host.Cell) (a : Nat) (d : List Byte) :
    Memory.readN (Memory.writeN m a d) a d.length = d ∧
      ∀ x, (x < a ∨ a + d.length ≤ x) → Memory.read (Memory.writeN m a d) x = Memory.read m x :=
  ⟨Memory.readN_writeN m a d, fun _ hx => hx.elim (Memory.read_writeN_of_lt m d) (Memory.read_writeN_of_ge m d)⟩

/-- Settles O49: a read joins its channel's queue, a write's bytes are stored in the sectors it touches, and an access that nothing
answers meets conflicting regions alone. -/
theorem requestsAreServed : Obligations.RequestsAreServed := by
  have hquiet {s t : State} (h : Quiet s t) : ∀ u, (t.unit u).kept = (s.unit u).kept := h.held
  refine ⟨fun s k a hrun hchan hserves hsr hqueued hroom => ?_, fun s k a d p hrun hin hchan hserved => ?_,
    fun s a d hrun hlen hin hserve => ?_, fun s a n hrun hlen hin => ?_, fun s a d hrun hlen hin habsent => ?_⟩
  · obtain ⟨x, hblock, hrq, hdram⟩ := State.readOn_joins hsr hqueued hroom
    have hq : Quiet s (s.readOn k (a.toNat / 128)) := (Quiet.refl s).readOn
    refine ⟨s.readOn k (a.toNat / 128), x, ?_, hblock, hrq, hq.mem, hdram, hq.held⟩
    refine dramEvent_running (congrArg some ?_) rfl hrun
    rw [if_pos hchan, State.readRequest, if_pos hserves]
  · have hq (c : Nat) (cells : List Host.Cell) (bad : List Nat) :
        Quiet (s.putBytes a.toNat d) ((s.putBytes a.toNat d).acceptWrite c cells bad) := (Quiet.refl _).acceptWrite
    obtain ⟨hread, hother⟩ := Memory.writeN_stores s.mem a.toNat d
    refine ⟨s.writeRequest a.toNat d p, dramEvent_running (congrArg some (if_pos hchan)) hin hrun, ?_⟩
    rw [State.writeRequest, if_pos hserved]
    rw [(hq _ _ _).mem]
    exact ⟨hread, hother, (hq _ _ _).held⟩
  · refine ⟨s.engWrite a.toNat d, dramEvent_running (congrArg some (if_pos hin)) (decide_eq_true hlen) hrun, ?_, fun x hx => ?_,
      fun h u => State.engWrite_kept h a.toNat d u⟩
    · refine Memory.readN_eq fun i hi => ?_
      rw [State.engWrite_mem hserve, if_pos (by omega), Nat.add_sub_cancel_left]
    · rw [State.engWrite_mem hserve, if_neg (by omega)]
  · exact ⟨s.engRead a.toNat n, dramEvent_running (congrArg some (if_pos hin)) (decide_eq_true hlen) hrun, s.engRead_mem _ _,
      fun h => (State.engRead_quiet h _ _).held⟩
  · have hw := dramEvent_running (c := .engineStorageWrite a d) (congrArg some (if_pos hin)) (decide_eq_true hlen) hrun
    have hr := dramEvent_running (c := .engineStorageRead a d.length) (congrArg some (if_pos hin)) (decide_eq_true hlen) hrun
    have hwrite := State.engWrite_absent habsent (data := d) rfl
    have hread := State.engRead_absent habsent
    have hrest {t : State} (h : s.OnlyConflicts t) :
        t.mem = s.mem ∧ t.dram = s.dram ∧ t.cores = s.cores ∧ t.dies = s.dies ∧ t.ctls = s.ctls := by
      obtain ⟨⟨us, rfl⟩, -⟩ := h
      exact ⟨rfl, rfl, rfl, rfl, rfl⟩
    exact ⟨⟨_, hw, hrest hwrite⟩, ⟨_, hr, hrest hread⟩, fun h => ⟨hw.trans (congrArg _ (hwrite.quiet h)), hr.trans (congrArg _ (hread.quiet h))⟩⟩

end Sys2Proof.Machine
end

section
/-! SUPPORT. Maintenance: translation and cache maintenance instructions, and the switches of the caches (R226 to R229, R264 to R271). -/
namespace Sys2Proof.Machine
open Sys2Proof

/-! ## Sweeps (R268, R271) -/

namespace Calm

section
variable {sb s : State} (h : Calm sb s) {core die : Nat}
include h

theorem sweepL2 : Calm sb (s.sweepL2 core) := by
  unfold State.sweepL2
  exact modCore (foldl (fun _ _ ht => ht.evictCore) (foldl (fun _ _ ht => ht.completeFill) h))

theorem sweepL3 : Calm sb (s.sweepL3 die) := by
  unfold State.sweepL3
  refine modDie (foldl (fun t l ht => ?_) h)
  dsimp only
  split
  · exact ht.l3Meet.writeMask
  · exact ht.l3Meet

end

end Calm

/-- What a write of a cache's control register leaves: BUSY or EN written, the other kept. -/
theorem State.l2On_setBusy (s : State) (core n : Nat) : (s.setRf (rL2Ctl core) 62 1 n).l2On core = s.l2On core := by
  rw [State.l2On, State.setRf, State.reg_setReg_same, bit_fset_other _ _ (by decide) (by decide), State.l2On]

theorem State.l3On_setBusy (s : State) (die n : Nat) : (s.setRf (rL3Ctl die) 62 1 n).l3On die = s.l3On die := by
  rw [State.l3On, State.setRf, State.reg_setReg_same, bit_fset_other _ _ (by decide) (by decide), State.l3On]

theorem State.l2On_setEn (s : State) (core : Nat) (on : Bool) : (s.setRf (rL2Ctl core) 63 1 (if on then 1 else 0)).l2On core = on := by
  rw [State.l2On, State.setRf, State.reg_setReg_same]
  exact bit_setBit_same _ on (by decide)

theorem State.l3On_setEn (s : State) (die : Nat) (on : Bool) : (s.setRf (rL3Ctl die) 63 1 (if on then 1 else 0)).l3On die = on := by
  rw [State.l3On, State.setRf, State.reg_setReg_same]
  exact bit_setBit_same _ on (by decide)

theorem State.core_setRf (s : State) (a lo w n k : Nat) : (s.setRf a lo w n).core k = s.core k := rfl
theorem State.die_setRf (s : State) (a lo w n d : Nat) : (s.setRf a lo w n).die d = s.die d := rfl

@[simp] theorem State.core_modCore_same (s : State) (k : Nat) (f : CoreHw → CoreHw) : (s.modCore k f).core k = f (s.core k) :=
  sget_sput_same _ _ _ _

@[simp] theorem State.die_modDie_same (s : State) (d : Nat) (f : DieHw → DieHw) : (s.modDie d f).die d = f (s.die d) :=
  sget_sput_same _ _ _ _

/-- A swept L2 is empty, its first-level caches with it. -/
theorem State.core_sweepL2 (s : State) (core : Nat) :
    ((s.sweepL2 core).core core).l2 = [] ∧ ((s.sweepL2 core).core core).l1d = [] ∧ ((s.sweepL2 core).core core).l1i = [] ∧
      ((s.sweepL2 core).core core).miss = [] := by
  rw [State.sweepL2, State.core_modCore_same]
  exact ⟨rfl, rfl, rfl, rfl⟩

/-- A swept L3 holds only tags. -/
theorem State.die_sweepL3 (s : State) (die : Nat) : ∀ l ∈ ((s.sweepL3 die).die die).l3, l.tagOnly = true ∧ l.valid = 0 ∧ l.dirty = 0 := by
  intro l hl
  rw [State.sweepL3, State.die_modDie_same] at hl
  obtain ⟨x, -, rfl⟩ := List.mem_map.mp hl
  exact ⟨rfl, rfl, rfl⟩

theorem State.l2Off_swept {s : State} {k : Nat} (h : s.l2On k = true) :
    (s.l2Disable k).l2SweepEnd k = ((s.l2Disable k).sweepL2 k).setRf (rL2Ctl k) 62 1 0 ∧ (s.l2Disable k).l2On k = false := by
  have hdis : s.l2Disable k = (s.setRf (rL2Ctl k) 63 1 0).setRf (rL2Ctl k) 62 1 1 := if_pos h
  refine ⟨if_pos ?_, ?_⟩
  · rw [hdis]
    exact State.rf_setRf_same _ _ _ (by decide)
  · rw [hdis, State.l2On_setBusy]
    exact s.l2On_setEn k false

theorem State.l3Off_swept {s : State} {d : Nat} (h : s.l3On d = true) :
    (s.l3Disable d).l3SweepEnd d = ((s.l3Disable d).sweepL3 d).setRf (rL3Ctl d) 62 1 0 ∧ (s.l3Disable d).l3On d = false := by
  have hdis : s.l3Disable d = (s.setRf (rL3Ctl d) 63 1 0).setRf (rL3Ctl d) 62 1 1 := if_pos h
  refine ⟨if_pos ?_, ?_⟩
  · rw [hdis]
    exact State.rf_setRf_same _ _ _ (by decide)
  · rw [hdis, State.l3On_setBusy]
    exact s.l3On_setEn d false

/-! ## The switches -/

/-- The body of a switch that acts while its caches are on, and of one that acts while they are off. -/
theorem formCacheCtl_body (o : OpA) (fn : Nat) (on : State → Bool) (act : State → State × BitVec 2) (t : State) :
    (formCacheCtl o fn fun s => if on s then act s else (s, 1)).body t = .ok (if on (t.wcFlush o.u) = true then
      (act (t.wcFlush o.u)).1.setCc o.u (act (t.wcFlush o.u)).2 else (t.wcFlush o.u).setCc o.u 1) ∧
    (formCacheCtl o fn fun s => if on s then (s, 1) else act s).body t = .ok (if on (t.wcFlush o.u) = false then
      (act (t.wcFlush o.u)).1.setCc o.u (act (t.wcFlush o.u)).2 else (t.wcFlush o.u).setCc o.u 1) := by
  unfold formCacheCtl
  dsimp only
  cases on (t.wcFlush o.u) <;> exact ⟨rfl, rfl⟩

/-- What a row says of its instruction: it runs on the row's unit, and acts where the caches are as the row asks. -/
theorem switchRow_runs {c : Instr} {x : Insn × Nat × (State → Bool) × Bool × (State → State × BitVec 2)} (h : switchRow c = some x) (s : State) :
    exec c s = .next (s.insn x.1) ∧ x.1.u = x.2.1 ∧ ∀ t : State, x.1.body t = .ok
      (if x.2.2.1 (t.wcFlush x.2.1) = x.2.2.2.1 then
        (x.2.2.2.2 (t.wcFlush x.2.1)).1.setCc x.2.1 (x.2.2.2.2 (t.wcFlush x.2.1)).2
      else (t.wcFlush x.2.1).setCc x.2.1 1) := by
  unfold switchRow at h
  split at h <;> cases h <;> refine ⟨rfl, rfl, fun t => ?_⟩
  case h_1 o => exact (formCacheCtl_body o 0x20 (fun s => s.l2On (s.coreOf o.u))
    (fun s => ((s.l2Disable (s.coreOf o.u)).l2SweepEnd (s.coreOf o.u), 0)) t).1
  case h_2 o => exact (formCacheCtl_body o 0x21 (fun s => s.l2On (s.coreOf o.u))
    (fun s => (s.l2Enable (s.coreOf o.u), if (s.l2Enable (s.coreOf o.u)).l2On (s.coreOf o.u) then 0 else 2)) t).2
  case h_3 o => exact (formCacheCtl_body o 0x22 (fun s => s.l3On (s.coreOf o.u / 26))
    (fun s => ((s.l3Disable (s.coreOf o.u / 26)).l3SweepEnd (s.coreOf o.u / 26), 0)) t).1
  case h_4 o => exact (formCacheCtl_body o 0x23 (fun s => s.l3On (s.coreOf o.u / 26))
    (fun s => (s.l3Enable (s.coreOf o.u / 26), if (s.l3Enable (s.coreOf o.u / 26)).l3On (s.coreOf o.u / 26) then 0 else 2)) t).2

/-- Settles O37: a switch acts where the cache is not as asked; a sweep removes every line, and nothing turns a cache on meanwhile. -/
theorem cacheSwitches : Obligations.CacheSwitches := by
  unfold Obligations.CacheSwitches
  refine ⟨fun c x s s2 hrow henter => ?_, fun s k h => ?_, fun s d h => ?_, fun s k h => ?_, fun s d h => ?_⟩
  · obtain ⟨hexec, hu, hbody⟩ := switchRow_runs hrow s
    intro t
    refine ⟨fun hon => ?_, fun hoff => ?_⟩
    · rw [hexec, State.insn_completes_at henter ((hbody _).trans (congrArg _ (if_pos hon))) hu]
    · rw [hexec, State.insn_completes_at henter ((hbody _).trans (congrArg _ (if_neg hoff))) hu]
  · have hq : Quiet s ((s.l2Disable k).l2SweepEnd k) := (Quiet.refl s).l2Disable.l2SweepEnd
    obtain ⟨hswept, hoff⟩ := State.l2Off_swept h
    obtain ⟨hl2, hl1d, hl1i, hmiss⟩ := (s.l2Disable k).core_sweepL2 k
    intro t
    have ht : t = ((s.l2Disable k).sweepL2 k).setRf (rL2Ctl k) 62 1 0 := hswept
    have hcore : t.core k = ((s.l2Disable k).sweepL2 k).core k := by rw [ht, State.core_setRf]
    refine ⟨?_, hcore ▸ hl2, hcore ▸ hl1d, hcore ▸ hl1i, hcore ▸ hmiss, hq.mem, hq.held⟩
    rw [ht, State.l2On_setBusy]
    exact (Calm.refl _).sweepL2.off _ ⟨k, .inl rfl⟩ hoff
  · have hq : Quiet s ((s.l3Disable d).l3SweepEnd d) := (Quiet.refl s).l3Disable.l3SweepEnd
    obtain ⟨hswept, hoff⟩ := State.l3Off_swept h
    intro t
    have ht : t = ((s.l3Disable d).sweepL3 d).setRf (rL3Ctl d) 62 1 0 := hswept
    have hdie : t.die d = ((s.l3Disable d).sweepL3 d).die d := by rw [ht, State.die_setRf]
    refine ⟨?_, hdie ▸ State.die_sweepL3 _ _, hq.mem, hq.held⟩
    rw [ht, State.l3On_setBusy]
    exact (Calm.refl _).sweepL3.off _ ⟨d, .inr rfl⟩ hoff
  · rw [State.l2Enable, if_neg (by simp [h])]
    dsimp only
    rw [← State.l2On_setEn (s.setRf (rL2Ctl k) 48 8 (s.l2Check k)) k (decide (s.l2Check k = 0))]
    simp only [decide_eq_true_eq]
  · rw [State.l3Enable, if_neg (by simp [h])]
    dsimp only
    rw [← State.l3On_setEn (s.setRf (rL3Ctl d) 48 8 (s.l3Check d)) d (decide (s.l3Check d = 0))]
    simp only [decide_eq_true_eq]

/-! ## Storage and working store together -/

/-- From s to t storage and working store read the same. -/
structure State.SameBytes (s t : State) : Prop where
  mem : t.mem = s.mem
  ws : t.ws = s.ws

namespace State.SameBytes

variable {s t : State}

theorem refl (s : State) : s.SameBytes s := ⟨rfl, rfl⟩
theorem trans {r : State} (h : s.SameBytes t) (g : t.SameBytes r) : s.SameBytes r := ⟨g.mem.trans h.mem, g.ws.trans h.ws⟩
theorem quiet {r : State} (h : s.SameBytes t) (g : Quiet t r) : s.SameBytes r := ⟨g.mem.trans h.mem, g.ws.trans h.ws⟩
theorem modUnit (h : s.SameBytes t) (u : Nat) (f : Cpu → Cpu) : s.SameBytes (t.modUnit u f) := ⟨h.mem, h.ws⟩
theorem errInc (h : s.SameBytes t) (a lo w sat : Nat) : s.SameBytes (t.errInc a lo w sat) := ⟨h.mem, h.ws⟩

theorem conflicts (h : s.SameBytes t) (by_ : Option Nat) (sectors : List Nat) (write : Bool) :
    s.SameBytes (t.conflicts by_ sectors write) := by
  obtain ⟨us, hus⟩ := t.conflicts_eq by_ sectors write
  rw [hus]
  exact ⟨h.mem, h.ws⟩

theorem foldl {α : Type} {f : State → α → State} (hf : ∀ t x, s.SameBytes t → s.SameBytes (f t x)) {l : List α} (h : s.SameBytes t) :
    s.SameBytes (l.foldl f t) :=
  List.foldlRecOn l f h fun t ht x _ => hf t x ht

/-- The fetches of a walk, and the entry it leaves in the TLB. -/
theorem walked (h : s.SameBytes t) (u : Nat) (p : Piece) : s.SameBytes (t.walked u p) := by
  have hfetched : s.SameBytes (p.fetched.foldl (fun t a => (t.conflicts (some u) [a / 64] false).coreRead (t.coreOf u) a false) t) :=
    h.foldl fun r a hr => (hr.conflicts (some u) [a / 64] false).quiet (Quiet.refl _).coreRead
  unfold State.walked
  dsimp only
  split
  · exact hfetched.modUnit u _
  · exact hfetched

theorem regionStep (h : s.SameBytes t) (u : Nat) (ia : Dword) : s.SameBytes (t.regionStep u ia) := by
  unfold State.regionStep
  split
  · exact h
  · dsimp only
    split
    · exact h.modUnit u _
    · exact h.modUnit u _

theorem confirm (h : s.SameBytes t) (u : Nat) (ia : Dword) : s.SameBytes (t.confirm u ia) := by
  unfold State.confirm
  dsimp only
  split
  · exact h
  · exact ((h.modUnit u _).errInc _ _ _ _).quiet (Quiet.refl _).sendMsg

/-- An instruction that ends has stored all it stores. -/
theorem finish (h : s.SameBytes t) (r : State) (u : Nat) : s.SameBytes (r.finish u t) := by
  unfold State.finish
  split
  · exact (h.regionStep u _).confirm u _
  · exact h.confirm u _

end State.SameBytes

/-! ## Maintenance of a line (R264 to R266) -/

theorem State.maintain_acts {s : State} {u : Nat} {va : Dword} {k : AccKind} {act : State → Piece → State} {p : Piece} {ps : List Piece}
    (h : s.translate u va 1 k = .ok (p :: ps)) (hwalk : s.walkPoison u p = none) :
    s.maintain u va k act = .ok (act (s.walked u p) p) := by
  simp only [State.maintain, h, hwalk]

theorem Memory.read_writeN (m : List Host.Cell) (a : Nat) (b : List Byte) (x : Nat) :
    Memory.read (Memory.writeN m a b) x = if a ≤ x ∧ x < a + b.length then b.getD (x - a) 0 else Memory.read m x := by
  induction b generalizing m a with
  | nil => rw [if_neg (by simp only [List.length_nil]; omega), Memory.writeN]
  | cons v b ih =>
    rw [Memory.writeN, ih, List.length_cons]
    by_cases hx : x = a
    · subst hx
      rw [if_neg (by omega), if_pos (by omega), Memory.read_write_same, Nat.sub_self, List.getD_cons_zero]
    · rw [Memory.read_write_other _ _ hx]
      refine ite_congr (propext (by omega)) (fun h => ?_) fun _ => rfl
      rw [show x - a = x - (a + 1) + 1 by omega, List.getD_cons_succ]

/-- Bytes put into working store outside the tables of the channel subsystem. -/
theorem State.ws_wsPut {s : State} {cell : Nat} {b : List Byte} (h : ∀ i < b.length, inTables (cell + i) = false) :
    (s.wsPut cell b).ws = Memory.writeN s.ws cell b ∧ (s.wsPut cell b).mem = s.mem := by
  induction b generalizing s cell with
  | nil => exact ⟨rfl, rfl⟩
  | cons x b ih =>
    have hx : inTables cell = false := h 0 (by simp)
    have hrest : ∀ i < b.length, inTables (cell + 1 + i) = false := fun i hi => by
      rw [Nat.add_assoc, Nat.add_comm 1 i]
      exact h (i + 1) (by simpa using hi)
    rw [State.wsPut, State.wsPutByte, if_neg (by simp [hx])]
    exact ih hrest

/-- Zeros put into working store outside the tables leave storage, and every other byte of working store. -/
theorem State.wsPut_zeroes (s : State) {cell n : Nat} (h : ∀ i < n, inTables (cell + i) = false) :
    ((s.wsPut cell (List.replicate n 0)).wsClean cell n).mem = s.mem ∧
      ∀ a, Memory.read ((s.wsPut cell (List.replicate n 0)).wsClean cell n).ws a =
        if cell ≤ a ∧ a < cell + n then 0 else Memory.read s.ws a := by
  have hlen : (List.replicate n (0 : Byte)).length = n := List.length_replicate
  obtain ⟨hws, hmem⟩ := State.ws_wsPut (s := s) (cell := cell) (b := List.replicate n 0) (by rw [hlen]; exact h)
  refine ⟨hmem, fun a => ?_⟩
  have hput : ((s.wsPut cell (List.replicate n 0)).wsClean cell n).ws = Memory.writeN s.ws cell (List.replicate n 0) := hws
  rw [hput, Memory.read_writeN, hlen]
  refine ite_congr rfl (fun ha => ?_) fun _ => rfl
  simp only [List.getD_eq_getElem?_getD, List.getElem?_replicate, show a - cell < n by omega, if_true, Option.getD_some]

theorem formMaintain_body (o : OpA) (fn least : Nat) (k : AccKind) (act : State → Nat → State) (t : State) :
    (isCpu o.u = true → (formMaintain o fn least k act).body t = t.maintain o.u (t.g o.u o.rb) k fun t p => act t (p.pa / 256)) ∧
    (isCpu o.u = false → (formMaintain o fn least k act).body t = .ok t) :=
  ⟨fun h => if_pos h, fun h => if_neg (by simp [h])⟩

theorem insnCzero_body (o : OpA) (t : State) : (insnCzero o).body t = t.maintain o.u (t.g o.u o.rb) .store fun t p =>
    if isCpu o.u then t.czero o.u (p.pa / 256) p.mt
    else (t.wsPut (p.pa / 256 * 256) (List.replicate 256 0)).wsClean (p.pa / 256 * 256) 256 := rfl

/-- What a row says of its instruction on a CPU: it acts on the line of its operand. -/
theorem lineRow_runs {c : Instr} {x : Insn × OpA × AccKind × (State → Piece → State)} (h : lineRow c = some x) (s : State)
    (hcpu : isCpu x.2.1.u = true) :
    exec c s = .next (s.insn x.1) ∧ x.1.u = x.2.1.u ∧
      ∀ t : State, x.1.body t = t.maintain x.2.1.u (t.g x.2.1.u x.2.1.rb) x.2.2.1 x.2.2.2 := by
  unfold lineRow at h
  split at h <;> simp only [Option.some.injEq, reduceCtorEq] at h <;> subst h <;> refine ⟨rfl, rfl, fun t => ?_⟩
  case h_1 o => exact (formMaintain_body o 0x10 1 .store (fun t l => (t.lineConflict l).cinv l) t).1 hcpu
  case h_2 o => exact (formMaintain_body o 0x11 0 .load State.cleanLine t).1 hcpu
  case h_3 o => exact (formMaintain_body o 0x12 0 .load (fun t l => (t.lineConflict l).cclinv l) t).1 hcpu
  case h_4 o =>
    refine (insnCzero_body o t).trans (congrArg (t.maintain o.u (t.g o.u o.rb) .store) (funext fun r => funext fun p => ?_))
    exact if_pos hcpu

/-- Settles O36: each instruction acts on the line that its operand's walk finds, and a small unit's has no effect but CZERO's. -/
theorem lineMaintenance : Obligations.LineMaintenance := by
  unfold Obligations.LineMaintenance
  refine ⟨fun c x s s2 p ps hrow henter hcpu htrans hpoison => ?_, fun o s s2 hsmall => ?_, fun o s s2 p ps hsmall henter htrans hpoison hout => ?_⟩
  · obtain ⟨hexec, hu, hbody⟩ := lineRow_runs hrow s hcpu
    rw [hexec, State.insn_completes_at henter ((hbody _).trans ?_) hu]
    rw [State.g_past]
    exact State.maintain_acts htrans hpoison
  · have hnone {i : Insn} (hbody : ∀ t : State, i.body t = .ok t) (hu : i.u = o.u) (henter : s.enter i = .ok s2) :
        s.insn i = s2.finish o.u (s2.past o.u) := State.insn_completes_at henter (hbody _) hu
    refine ⟨fun h => ?_, fun h => ?_, fun h => ?_, fun h => ?_, fun h => ?_⟩
    · exact congrArg Host.Outcome.next (hnone (fun t => congrArg Except.ok (if_neg (by simp [hsmall]))) rfl h)
    · exact congrArg Host.Outcome.next (hnone (fun t => congrArg Except.ok (if_neg (by simp [hsmall]))) rfl h)
    · exact congrArg Host.Outcome.next (hnone (fun t => (formMaintain_body o 0x10 1 .store _ t).2 hsmall) rfl h)
    · exact congrArg Host.Outcome.next (hnone (fun t => (formMaintain_body o 0x11 0 .load _ t).2 hsmall) rfl h)
    · exact congrArg Host.Outcome.next (hnone (fun t => (formMaintain_body o 0x12 0 .load _ t).2 hsmall) rfl h)
  · rw [← s2.g_past o.u o.rb] at htrans
    have hbody := (insnCzero_body o _).trans (State.maintain_acts htrans hpoison)
    rw [if_neg (by simp [hsmall])] at hbody
    refine ⟨_, congrArg Host.Outcome.next (State.insn_completes_at henter hbody rfl), ?_⟩
    have hpast : s2.SameBytes ((s2.past o.u).walked o.u p) := State.SameBytes.walked (s := s2) (t := s2.past o.u) ⟨rfl, rfl⟩ o.u p
    obtain ⟨hmem, hws⟩ := State.wsPut_zeroes ((s2.past o.u).walked o.u p) hout
    generalize (((s2.past o.u).walked o.u p).wsPut (p.pa / 256 * 256) (List.replicate 256 0)).wsClean (p.pa / 256 * 256) 256 = t at hmem hws
    have hfin := (State.SameBytes.refl t).finish s2 o.u
    rw [hfin.mem, hfin.ws]
    exact ⟨hmem.trans hpast.mem, fun a => by rw [hws, hpast.ws]⟩

/-! ## Write-combining buffers of the unit (R222) -/

theorem State.unit_wcWrite (s : State) (u : Nat) (b : WcBuf) : ((s.wcWrite u b).unit u).unsignalled = (s.unit u).unsignalled := by
  have hw : Calm (s.conflicts (some u) [b.block] true) (s.wcWrite u b) := (Calm.refl _).homeWrite
  rw [hw.held u, s.unit_conflicts]

/-- Writing its buffers leaves of a unit all but the buffers and service signals. -/
theorem State.unit_wcFlush (s : State) (u : Nat) :
    ((s.wcFlush u).unit u).unsignalled = { (s.unit u).unsignalled with wcb := [] } := by
  have hall : ((((s.unit u).wcb.foldl (fun t b => t.wcWrite u b) s)).unit u).unsignalled = (s.unit u).unsignalled :=
    List.foldlRecOn (motive := fun t : State => (t.unit u).unsignalled = (s.unit u).unsignalled) _ _ rfl fun t ht b _ =>
      (t.unit_wcWrite u b).trans ht
  rw [State.wcFlush, State.unit_modUnit_same, ← hall]
  rfl

theorem State.kept_wcFlush (s : State) (u : Nat) : ((s.wcFlush u).unit u).kept = (s.unit u).kept :=
  calc ((s.wcFlush u).unit u).kept = ((s.wcFlush u).unit u).unsignalled.kept := rfl
    _ = ({ (s.unit u).unsignalled with wcb := [] } : Cpu).kept := by rw [s.unit_wcFlush]
    _ = (s.unit u).kept := rfl

theorem Cpu.psw_of_kept {c d : Cpu} (h : c.kept = d.kept) : c.psw = d.psw := by
  simp only [Cpu.kept, Prod.mk.injEq] at h
  obtain ⟨-, hpsw, -⟩ := h
  exact hpsw

@[simp] theorem State.psw_wcFlush (s : State) (u : Nat) : (s.wcFlush u).psw u = s.psw u := Cpu.psw_of_kept (s.kept_wcFlush u)

/-! ## Invalidation (R226) -/

/-- The translations that a unit has cached. -/
def Cpu.translations (c : Cpu) : List TlbEntry × List TlbEntry × List WalkEntry := (c.tlb1, c.tlb2, c.walks)

@[simp] theorem Cpu.translations_setC (c : Cpu) (n : Nat) (v : Dword) : (c.setC n v).translations = c.translations := by
  obtain ⟨hi, img, host, h⟩ := c.setC_eq n v
  rw [h]
  rfl

@[simp] theorem Cpu.translations_setRs (c : Cpu) (r : RStack) : (c.setRs r).translations = c.translations := by
  unfold Cpu.setRs
  split <;> rfl

theorem Cpu.translations_abort (c : Cpu) (a : Dword) (code : Nat) (imm : BitVec 14) : (c.abort a code imm).translations = c.translations := by
  unfold Cpu.abort
  split
  · rfl
  · next r _ =>
    exact ((Cpu.translations_setC _ _ _).trans (Cpu.translations_setRs _ _)).trans (Cpu.translations_setC _ _ _)

/-- From s to t the cached translations are the same, of every unit and of the channel dies. -/
structure State.SameTranslations (s t : State) : Prop where
  chan : t.chanTlb = s.chanTlb
  unit : ∀ n, (t.unit n).translations = (s.unit n).translations

namespace State.SameTranslations

theorem modUnit {s t : State} (h : s.SameTranslations t) (u : Nat) {f : Cpu → Cpu} (hf : ∀ c, (f c).translations = c.translations) :
    s.SameTranslations (t.modUnit u f) where
  chan := h.chan
  unit n := by
    by_cases hn : n = u
    · subst hn
      rw [State.unit_modUnit_same, hf]
      exact h.unit n
    · rw [t.unit_modUnit_other _ hn]
      exact h.unit n

theorem errInc {s t : State} (h : s.SameTranslations t) (a lo w sat : Nat) : s.SameTranslations (t.errInc a lo w sat) := ⟨h.chan, h.unit⟩

theorem sendMsg {s t : State} (h : s.SameTranslations t) (m : Msg) : s.SameTranslations (t.sendMsg m) := by
  obtain ⟨q, r, ht⟩ := t.sendMsg_eq m
  rw [ht]
  exact ⟨h.chan, h.unit⟩

theorem confirm {s t : State} (h : s.SameTranslations t) (u : Nat) (ia : Dword) : s.SameTranslations (t.confirm u ia) := by
  unfold State.confirm
  dsimp only
  split
  · exact h
  · unfold State.retryOk
    dsimp only
    refine State.SameTranslations.sendMsg (State.SameTranslations.errInc (h.modUnit u fun c => ?_) _ _ _ _) _
    exact Cpu.translations_setC c _ _

theorem regionStep {s t : State} (h : s.SameTranslations t) (u : Nat) (ia : Dword) : s.SameTranslations (t.regionStep u ia) := by
  unfold State.regionStep
  split
  · exact h
  · dsimp only
    split
    · exact h.modUnit u fun c => c.translations_abort _ _ _
    · exact h.modUnit u fun _ => rfl

theorem finish {s t : State} (h : s.SameTranslations t) (r : State) (u : Nat) : s.SameTranslations (r.finish u t) := by
  unfold State.finish
  split
  · exact (h.regionStep u _).confirm u _
  · exact h.confirm u _

end State.SameTranslations

/-- No cached translation of a unit is one that the invalidation hits. -/
def Cpu.cleanOf (i : TlbInv) (c : Cpu) : Prop :=
  (∀ e, (e ∈ c.tlb1 ∨ e ∈ c.tlb2) → tlbInvHits i e = false) ∧ ∀ e ∈ c.walks, walkInvHits i e = false

theorem Cpu.invalidate_clean (i : TlbInv) (c : Cpu) : (c.invalidate i).cleanOf i := by
  simp [Cpu.cleanOf, Cpu.invalidate, Cpu.tlbDrop, Cpu.walkDrop, List.mem_filter]
  grind

theorem sget_of_absent {α : Type} (d : Nat → α) {m : Store α} {k : Nat} (h : k ∉ m.map (·.1)) : sget d m k = d k := by
  induction m with
  | nil => rfl
  | cons x m ih =>
    obtain ⟨j, v⟩ := x
    simp only [List.map_cons, List.mem_cons, not_or] at h
    rw [sget, if_neg (Ne.symm h.1), ih h.2]

/-- A broadcast leaves no CPU with a translation that it hits. -/
theorem State.tlbBroadcast_clean (s : State) (i : TlbInv) {n : Nat} (hn : n < 192) : ((s.tlbBroadcast i).unit n).cleanOf i := by
  have hkeep (l : List Nat) (t : State) (ht : (t.unit n).cleanOf i) :
      ((l.foldl (fun t n => t.modUnit n fun c => c.invalidate i) t).unit n).cleanOf i :=
    List.foldlRecOn (motive := fun t : State => (t.unit n).cleanOf i) _ _ ht fun t ht m _ => by
      by_cases hm : n = m
      · subst hm
        rw [State.unit_modUnit_same]
        exact Cpu.invalidate_clean i _
      · rw [t.unit_modUnit_other _ hm]
        exact ht
  have hmem (l : List Nat) (t : State) (hl : n ∈ l) :
      ((l.foldl (fun t n => t.modUnit n fun c => c.invalidate i) t).unit n).cleanOf i := by
    induction l generalizing t with
    | nil => cases hl
    | cons m l ih =>
      rcases List.mem_cons.mp hl with rfl | hl
      · refine hkeep l _ ?_
        rw [State.unit_modUnit_same]
        exact Cpu.invalidate_clean i _
      · exact ih _ hl
  unfold State.tlbBroadcast
  by_cases hlisted : n ∈ s.units.map (·.1)
  · exact hmem _ _ (List.mem_filter.mpr ⟨hlisted, decide_eq_true hn⟩)
  · refine hkeep _ _ ?_
    have hreset : State.unit { s with chanTlb := s.chanTlb.filter fun e => !(tlbInvHits i e) } n = Cpu.reset := sget_of_absent _ hlisted
    rw [hreset]
    exact ⟨fun e he => absurd he (by simp [Cpu.reset]), fun e he => absurd he (by simp [Cpu.reset])⟩

theorem State.tlbBroadcast_chan (s : State) (i : TlbInv) : (s.tlbBroadcast i).chanTlb = s.chanTlb.filter fun e => !(tlbInvHits i e) := by
  unfold State.tlbBroadcast
  exact List.foldlRecOn (motive := fun t : State => t.chanTlb = s.chanTlb.filter fun e => !(tlbInvHits i e)) _ _ rfl fun t ht n _ => ht

theorem State.psw_tlbBroadcast (s : State) (i : TlbInv) (u : Nat) : (s.tlbBroadcast i).psw u = s.psw u := by
  unfold State.tlbBroadcast
  refine List.foldlRecOn (motive := fun t : State => t.psw u = s.psw u) _ _ rfl fun t ht n _ => ?_
  by_cases hn : u = n
  · subst hn
    rw [State.psw, State.unit_modUnit_same]
    exact ht
  · rw [State.psw, t.unit_modUnit_other _ hn]
    exact ht

/-- What an instruction that no region holds leaves of its unit as it ends: all, but for the retry that it confirms. -/
theorem State.unit_finish {s t : State} {u : Nat} (h : (s.unit u).region = none) :
    (s.finish u t).unit u = t.unit u ∨ ∃ v, (s.finish u t).unit u = ((t.unit u).setC 33 v).cleared := by
  unfold State.finish
  rw [h, if_neg (by simp)]
  unfold State.confirm
  dsimp only
  split
  · exact .inl rfl
  · unfold State.retryOk
    dsimp only
    rw [State.unit_sendMsg, State.errInc, State.unit_setReg, State.unit_modUnit_same]
    exact .inr ⟨_, rfl⟩

theorem State.psw_finish {s t : State} {u : Nat} (h : (s.unit u).region = none) : (s.finish u t).psw u = t.psw u := by
  rw [State.psw, State.psw]
  rcases State.unit_finish (t := t) h with hu | ⟨v, hu⟩
  · rw [hu]
  · rw [hu, Cpu.cleared, Cpu.setC_psw]

theorem State.g_finish {s t : State} {u : Nat} (h : (s.unit u).region = none) (r : BitVec 5) : (s.finish u t).g u r = t.g u r := by
  rw [State.g, State.g, Cpu.getG, Cpu.getG]
  rcases State.unit_finish (t := t) h with hu | ⟨v, hu⟩
  · rw [hu]
  · rw [hu, Cpu.cleared, Cpu.setC_g]

theorem State.irun_finish {s t : State} {u : Nat} (h : (s.unit u).region = none) : ((s.finish u t).unit u).irun = (t.unit u).irun := by
  rcases State.unit_finish (t := t) h with hu | ⟨v, hu⟩
  · rw [hu]
  · rw [hu, Cpu.cleared, Cpu.setC_irun]

/-- A restricted instruction enters outside regions alone. -/
theorem State.region_of_restricted {s s2 : State} {i : Insn} (h : s.enter i = .ok s2) (hi : i.restricted = true) :
    (s2.unit i.u).region = none := by
  obtain ⟨-, -, s1, -, -, -, hcheck⟩ := State.enter_cases h
  refine Classical.byContradiction fun hopen => ?_
  have hsome : (s2.unit i.u).region.isSome = true := by
    rw [Option.isSome_iff_ne_none]
    exact hopen
  unfold Insn.check at hcheck
  grind

theorem State.context_past (s : State) (u : Nat) : ((s.past u).unit u).context = (s.unit u).context := by
  rw [Cpu.context, State.irun_past, Cpu.context]

/-- What a row of invalidations says of its instruction on a CPU. -/
theorem tlbRow_runs {c : Instr} {x : Insn × Nat × (State → TlbInv)} {s : State} (h : tlbRow s c = some x) (hcpu : isCpu x.2.1 = true) :
    exec c s = .next (s.insn x.1) ∧ x.1.u = x.2.1 ∧ x.1.restricted = true ∧ ∀ t : State,
      x.1.body (t.past x.2.1) = .ok (((t.past x.2.1).wcFlush x.2.1).tlbBroadcast (x.2.2 t)) := by
  unfold tlbRow at h
  split at h <;> simp only [Option.some.injEq, reduceCtorEq] at h <;> subst h <;> refine ⟨rfl, rfl, rfl, fun t => ?_⟩
  case h_1 o =>
    refine congrArg Except.ok ((if_pos hcpu).trans ?_)
    rw [State.context_past, State.g_past]
  case h_2 o =>
    refine congrArg Except.ok ((if_pos hcpu).trans ?_)
    rw [State.context_past]
  case h_3 o =>
    dsimp only [insnTlbii]
    rw [State.g_past]

theorem exec_lra (o : OpA) (s : State) : exec (.lra o) s = .next (s.insn (insnLra o)) := rfl

/-- Settles O35: a broadcast leaves no entry that it hits, and an instruction that ends brings none back; LRA is its walk. -/
theorem translationInstructions : Obligations.TranslationInstructions := by
  unfold Obligations.TranslationInstructions
  refine ⟨fun c x s s2 hrow henter hcpu => ?_, fun o s s2 t cc v pas henter hlra hfetch => ?_⟩
  · obtain ⟨hexec, hu, hrestricted, hbody⟩ := tlbRow_runs hrow hcpu
    have hregion : (s2.unit x.2.1).region = none := hu ▸ State.region_of_restricted henter hrestricted
    have hsame := State.SameTranslations.finish (t := ((s2.past x.2.1).wcFlush x.2.1).tlbBroadcast (x.2.2 s2)) ⟨rfl, fun _ => rfl⟩ s2 x.2.1
    refine ⟨_, hexec.trans (congrArg _ (State.insn_completes_at henter (hbody s2) hu)), rfl, fun n hn => ?_, fun n hn => ?_, ?_, ?_⟩
    · have hclean := (((s2.past x.2.1).wcFlush x.2.1).tlbBroadcast_clean (x.2.2 s2) hn).1
      have hn := hsame.unit n
      simp only [Cpu.translations, Prod.mk.injEq] at hn
      obtain ⟨h1, h2, -⟩ := hn
      rwa [h1, h2]
    · have hclean := (((s2.past x.2.1).wcFlush x.2.1).tlbBroadcast_clean (x.2.2 s2) hn).2
      have hn := hsame.unit n
      simp only [Cpu.translations, Prod.mk.injEq] at hn
      obtain ⟨-, -, h3⟩ := hn
      rwa [h3]
    · rw [hsame.chan, State.tlbBroadcast_chan]
      intro e he
      simpa using (List.mem_filter.mp he).2
    · rw [State.psw_finish hregion, State.psw_tlbBroadcast, State.psw_wcFlush, State.psw_past]
  · have hbody : (insnLra o).body (s2.past o.u) = .ok ((t.setG o.u o.ra (BitVec.ofNat 64 v)).setCc o.u cc) := by
      rw [← s2.g_past o.u o.rb] at hlra
      simp only [insnLra, hlra, hfetch]
    rw [exec_lra, State.insn_completes_at henter hbody rfl]

end Sys2Proof.Machine
end

section
/-! SUPPORT. I/O instructions and the CSSET group: what their bodies do, and the statements about them (R310, R315 to R326). -/
namespace Sys2Proof.Machine
open Sys2Proof

/-! ## The I/O instructions (R310, R322 to R326) -/

section
variable (o : OpA) (fn n : Nat) (k : AccKind) (run : Nat → Body) (s s2 : State)

/-- Outside an image an I/O instruction gives CC 3; inside one it runs for the image. -/
theorem formIo_body : (formIo o fn n k run s).body (s2.past o.u) = match (s2.unit o.u).irun with
    | none => .ok ((s2.past o.u).setCc o.u 3)
    | some r => run r.image (s2.past o.u) := by
  rw [← s2.irun_past o.u]
  rfl

end

/-- An I/O instruction without an image. -/
theorem formIo_outside {o : OpA} {fn n : Nat} {k : AccKind} {run : Nat → Body} {s s2 : State} (henter : s.enter (formIo o fn n k run s) = .ok s2)
    (h : (s2.unit o.u).irun = none) : s.insn (formIo o fn n k run s) = s2.finish o.u ((s2.past o.u).setCc o.u 3) :=
  State.insn_completes_at henter ((formIo_body o fn n k run s s2).trans (by rw [h])) rfl

/-- An I/O instruction of an image that completes, and one that ends in a condition. -/
theorem formIo_inside {o : OpA} {fn n : Nat} {k : AccKind} {run : Nat → Body} {s s2 t : State} {r : Irun}
    (henter : s.enter (formIo o fn n k run s) = .ok s2) (h : (s2.unit o.u).irun = some r) (hrun : run r.image (s2.past o.u) = .ok t) :
    s.insn (formIo o fn n k run s) = s2.finish o.u t :=
  State.insn_completes_at henter ((formIo_body o fn n k run s s2).trans (by rw [h]; exact hrun)) rfl

theorem formIo_refused {o : OpA} {fn n : Nat} {k : AccKind} {run : Nat → Body} {s s2 : State} {r : Irun}
    (henter : s.enter (formIo o fn n k run s) = .ok s2) (h : (s2.unit o.u).irun = some r)
    (hrun : run r.image (s2.past o.u) = .error (.stop (excOf 0x0006))) :
    s.insn (formIo o fn n k run s) = s2.orWaits o.u (s2.excInt o.u { code := 0x0006 } (formIo o fn n k run s).word (s2.psw o.u).ia) := by
  rw [State.insn_ends_at henter ((formIo_body o fn n k run s s2).trans (by rw [h]; exact hrun)) rfl]
  exact State.endWith_excOf _ _ _ _ (by decide)

section
variable {o : OpA} {s s2 : State}

/-- IOTEST inside an image, its operand checked. -/
theorem insnIotest_runs {r : Irun} (henter : s.enter (insnIotest o s) = .ok s2) (h : (s2.unit o.u).irun = some r)
    (hcheck : (s2.past o.u).checkStore o.u (s2.g o.u o.rb) 32 = none) :
    ((s2.past o.u).subOf r.image (s2.g o.u o.ra) = none → s.insn (insnIotest o s) = s2.finish o.u ((s2.past o.u).setCc o.u 3)) ∧
    (∀ p, (s2.past o.u).subOf r.image (s2.g o.u o.ra) = some p → ((s2.past o.u).ioTest p).2.2 = 3 →
      s.insn (insnIotest o s) = s2.finish o.u (((s2.past o.u).ioTest p).1.setCc o.u 3)) ∧
    (∀ p t, (s2.past o.u).subOf r.image (s2.g o.u o.ra) = some p → ((s2.past o.u).ioTest p).2.2 ≠ 3 →
      ((s2.past o.u).ioTest p).1.storeAt o.u (s2.g o.u o.rb) ((s2.past o.u).ioTest p).2.1 .store = .ok t →
      s.insn (insnIotest o s) = s2.finish o.u (t.setCc o.u ((s2.past o.u).ioTest p).2.2)) := by
  refine ⟨fun hsub => formIo_inside henter h ?_, fun p hsub hcc => formIo_inside henter h ?_,
    fun p t hsub hcc hstore => formIo_inside henter h ?_⟩
  · simp only [State.g_past, hcheck, hsub]
  · simp only [State.g_past, hcheck, hsub, hcc, if_true]
  · simp only [State.g_past, hcheck, hsub, hcc, if_false, hstore]

/-- IOSTORE inside an image, its operand checked. -/
theorem insnIostore_runs {r : Irun} (henter : s.enter (insnIostore o s) = .ok s2) (h : (s2.unit o.u).irun = some r)
    (hcheck : (s2.past o.u).checkStore o.u (s2.g o.u o.rb) 48 = none) :
    ((s2.past o.u).subOf r.image (s2.g o.u o.ra) = none → s.insn (insnIostore o s) = s2.finish o.u ((s2.past o.u).setCc o.u 3)) ∧
    (∀ p e, (s2.past o.u).subOf r.image (s2.g o.u o.ra) = some p → (s2.past o.u).readEntry p = e →
      ((e.sub p).mapped = false ∨ e.operable p = false → s.insn (insnIostore o s) = s2.finish o.u (e.setCc o.u 3)) ∧
      (∀ t, (e.sub p).mapped = true → e.operable p = true → e.storeAt o.u (s2.g o.u o.rb) (e.sib p) .store = .ok t →
        s.insn (insnIostore o s) = s2.finish o.u (t.setCc o.u 0))) := by
  refine ⟨fun hsub => formIo_inside henter h ?_, fun p e hsub he => ⟨fun hno => formIo_inside henter h ?_,
    fun t hmapped hop hstore => formIo_inside henter h ?_⟩⟩
  · simp only [State.g_past, hcheck, hsub]
  · have hcc : (!(e.sub p).mapped || !(e.operable p)) = true := by simpa using hno
    simp only [State.g_past, hcheck, hsub, he, hcc, if_true]
  · have hcc : (!(e.sub p).mapped || !(e.operable p)) = false := by simp [hmapped, hop]
    simp only [State.g_past, hcheck, hsub, he, hcc, Bool.false_eq_true, if_false, hstore]

end

/-- What a row of operations says of its instruction: CC 3 outside an image, 0x0006 for a bad operand block, else the operation. -/
theorem ioRow_runs {c : Instr} {x : IoRow} {s : State} (h : ioRow s c = some x) :
    exec c s = .next (s.insn x.insn) ∧ ∀ s2 : State, s.enter x.insn = .ok s2 →
      ((s2.unit x.o.u).irun = none → s.insn x.insn = s2.finish x.o.u ((s2.past x.o.u).setCc x.o.u 3)) ∧
      ∀ (r : Irun) (t : State) (b : List Byte), (s2.unit x.o.u).irun = some r →
        (if x.n = 0 then (t, b) = (s2.past x.o.u, []) else (s2.past x.o.u).loadAt x.o.u (s2.g x.o.u x.o.rb) x.n .load = .ok (t, b)) →
        ((∃ o, c = .iostart o ∧ parseOrb b = none) ∨ (∃ o, c = .iomodify o ∧ sibBad b = true) →
          s.insn x.insn = s2.orWaits x.o.u (s2.excInt x.o.u { code := 0x0006 } x.insn.word (s2.psw x.o.u).ia)) ∧
        (¬((∃ o, c = .iostart o ∧ parseOrb b = none) ∨ (∃ o, c = .iomodify o ∧ sibBad b = true)) →
          s.insn x.insn = s2.finish x.o.u ((t.wcFlush x.o.u).onSub x.o r.image fun t p => x.act t r.image b p)) := by
  unfold ioRow at h
  split at h <;> simp only [Option.some.injEq, reduceCtorEq] at h <;> subst h <;>
    refine ⟨rfl, fun s2 henter => ⟨fun hr => formIo_outside henter hr, fun r t b hr hload => ⟨fun hbad => ?_, fun hgood => ?_⟩⟩⟩
  case h_1.refine_1 o =>
    have horb : parseOrb b = none := by simpa using hbad
    refine formIo_refused henter hr ?_
    rw [← s2.g_past o.u o.rb] at hload
    simp only [show (s2.past o.u).loadAt o.u ((s2.past o.u).g o.u o.rb) 32 .load = .ok (t, b) from hload, horb]
  case h_1.refine_2 o =>
    obtain ⟨orb, horb⟩ := Option.ne_none_iff_exists'.mp (show parseOrb b ≠ none by simpa using hgood)
    refine formIo_inside henter hr ?_
    rw [← s2.g_past o.u o.rb] at hload
    simp only [show (s2.past o.u).loadAt o.u ((s2.past o.u).g o.u o.rb) 32 .load = .ok (t, b) from hload, horb]
  case h_2.refine_1 o => simp at hbad
  case h_2.refine_2 o =>
    obtain ⟨rfl, rfl⟩ := Prod.mk.inj (show (t, b) = (s2.past o.u, []) from hload)
    exact formIo_inside henter hr rfl
  case h_3.refine_1 o => simp at hbad
  case h_3.refine_2 o =>
    obtain ⟨rfl, rfl⟩ := Prod.mk.inj (show (t, b) = (s2.past o.u, []) from hload)
    exact formIo_inside henter hr rfl
  case h_4.refine_1 o =>
    have hsib : sibBad b = true := by simpa using hbad
    refine formIo_refused henter hr ?_
    rw [← s2.g_past o.u o.rb] at hload
    simp only [show (s2.past o.u).loadAt o.u ((s2.past o.u).g o.u o.rb) 48 .load = .ok (t, b) from hload, hsib, if_true]
  case h_4.refine_2 o =>
    have hsib : sibBad b = false := by simpa using hgood
    refine formIo_inside henter hr ?_
    rw [← s2.g_past o.u o.rb] at hload
    simp only [show (s2.past o.u).loadAt o.u ((s2.past o.u).g o.u o.rb) 48 .load = .ok (t, b) from hload, hsib, Bool.false_eq_true,
      if_false]

/-- Settles O38: each instruction's body takes the case that its operand, its subchannel and its records give. -/
theorem ioResults : Obligations.IoResults := by
  unfold Obligations.IoResults
  refine ⟨fun c x s s2 hrow henter => ?_, fun o s s2 henter => ⟨fun h => ?_, fun r h hcheck => ?_⟩, fun o s s2 henter => ⟨fun h => ?_, fun r h hcheck => ?_⟩⟩
  · obtain ⟨hexec, hrun⟩ := ioRow_runs hrow
    obtain ⟨houtside, hinside⟩ := hrun s2 henter
    rw [hexec]
    refine ⟨fun h => congrArg _ (houtside h), fun r t b h hload => ?_⟩
    obtain ⟨hbad, hgood⟩ := hinside r t b h hload
    refine ⟨fun hb => congrArg _ (hbad hb), fun hb => ?_⟩
    rw [hgood hb]
    rfl
  · exact congrArg Host.Outcome.next (formIo_outside henter h)
  · obtain ⟨hnone, h3, hdone⟩ := insnIotest_runs henter h hcheck
    exact ⟨fun hs => congrArg Host.Outcome.next (hnone hs), fun p hs hcc => congrArg Host.Outcome.next (h3 p hs hcc),
      fun p t hs hcc ht => congrArg Host.Outcome.next (hdone p t hs hcc ht)⟩
  · exact congrArg Host.Outcome.next (formIo_outside henter h)
  · obtain ⟨hnone, hsome⟩ := insnIostore_runs henter h hcheck
    refine ⟨fun hs => congrArg Host.Outcome.next (hnone hs), fun p hs => ?_⟩
    obtain ⟨hno, hdone⟩ := hsome p _ hs rfl
    exact ⟨fun hn => congrArg Host.Outcome.next (hno hn), fun t hm hop ht => congrArg Host.Outcome.next (hdone t hm hop ht)⟩

/-! ## The CSSET group (R315 to R320, R347, R348) -/

/-- A row of CSSET instructions with a block: the form, with what it does with the block. -/
theorem csBlockRow_runs {c : Instr} {x : Insn × OpA × Nat × (State → List Byte → State)} {s : State} (h : csBlockRow s c = some x) :
    exec c s = .next (s.insn x.1) ∧ x.1.u = x.2.1.u ∧ ∀ t0 t : State, ∀ b : List Byte,
      t0.loadAt x.2.1.u (t0.g x.2.1.u x.2.1.rb) x.2.2.1 .load = .ok (t, b) → x.1.body t0 = .ok (x.2.2.2 t b) := by
  have hform (o : OpA) (fn n : Nat) (run : State → List Byte → State) (t0 t : State) (b : List Byte)
      (hload : t0.loadAt o.u (t0.g o.u o.rb) n .load = .ok (t, b)) : (formCsBlock o fn n run s).body t0 = .ok (run t b) := by
    simp only [formCsBlock, hload]
  unfold csBlockRow at h
  split at h <;> simp only [Option.some.injEq, reduceCtorEq] at h <;> subst h <;> refine ⟨rfl, rfl, fun t0 t b hload => ?_⟩
  case h_1 o => exact hform o 0 64 _ t0 t b hload
  case h_2 o => exact hform o 0 64 _ t0 t b hload
  case h_3 o => exact hform o 0 64 _ t0 t b hload
  case h_4 o => exact hform o 1 64 _ t0 t b hload
  case h_5 o => exact hform o 1 64 _ t0 t b hload
  case h_6 o => exact hform o 1 64 _ t0 t b hload
  case h_7 o => exact hform o 2 16 _ t0 t b hload

theorem State.csTarget_none {s : State} {o : OpA} (h : 95 < (s.g o.u o.ra).toNat) : s.csTarget o = none := if_neg (by omega)
theorem State.csTarget_some {s : State} {o : OpA} (h : (s.g o.u o.ra).toNat ≤ 95) : s.csTarget o = some (s.g o.u o.ra).toNat := if_pos h

/-- A number above 95 names no image. -/
theorem csBlockRow_beyond {c : Instr} {x : Insn × OpA × Nat × (State → List Byte → State)} {s t : State} {b : List Byte}
    (h : csBlockRow s c = some x) (hn : 95 < (t.g x.2.1.u x.2.1.ra).toNat) : x.2.2.2 t b = t.setCc x.2.1.u 3 := by
  unfold csBlockRow at h
  split at h <;> simp only [Option.some.injEq, reduceCtorEq] at h <;> subst h
  case h_1 o => simp only [State.csImageRun, State.csTarget_none hn]
  case h_2 o => simp only [State.csImageRun, State.csTarget_none hn]
  case h_3 o => simp only [State.csImageRun, State.csTarget_none hn]
  all_goals simp only [State.onImage, State.csTarget_none hn]

/-- A row of CSSET instructions without a block. -/
theorem csRow_runs {c : Instr} {x : Insn × OpA × (State → Nat → Image → CsOut)} (h : csRow c = some x) (s : State) :
    exec c s = .next (s.insn x.1) ∧ x.1.u = x.2.1.u ∧ ∀ t : State, x.1.body t = .ok (t.onImage x.2.1 x.2.2) := by
  unfold csRow at h
  split at h <;> simp only [Option.some.injEq, reduceCtorEq] at h <;> subst h <;> exact ⟨rfl, rfl, fun _ => rfl⟩

/-- Settles O39: the body reads its block, and acts on the image that ga names. -/
theorem channelControl : Obligations.ChannelControl := by
  unfold Obligations.ChannelControl
  refine ⟨fun c x s s2 t b hrow henter hload => ?_, fun c x s s2 hrow henter => ?_⟩
  · obtain ⟨hexec, hu, hbody⟩ := csBlockRow_runs hrow
    rw [← s2.g_past x.2.1.u x.2.1.rb] at hload
    have hruns : exec c s = .next (s2.finish x.2.1.u (x.2.2.2 t b)) := by
      rw [hexec, State.insn_completes_at henter (hbody _ t b hload) hu]
    exact ⟨hruns, fun hn => by rw [hruns, csBlockRow_beyond hrow hn]⟩
  · intro t n
    obtain ⟨hexec, hu, hbody⟩ := csRow_runs hrow s
    have hruns : exec c s = .next (s2.finish x.2.1.u (t.onImage x.2.1 x.2.2)) := by
      rw [hexec, State.insn_completes_at henter (hbody _) hu]
    have hn : (t.g x.2.1.u x.2.1.ra).toNat = n := congrArg BitVec.toNat (s2.g_past _ _)
    have himage (i : Nat) : t.image i = s2.image i := rfl
    refine ⟨fun hnone => ?_, fun e hle he => ?_⟩
    · rw [hruns, State.onImage]
      by_cases hbeyond : 95 < n
      · rw [State.csTarget_none (hn ▸ hbeyond)]
      · rw [State.csTarget_some (by omega), hn]
        dsimp only
        rw [himage, hnone.resolve_left hbeyond]
    · rw [hruns, State.onImage, State.csTarget_some (by omega), hn]
      dsimp only
      rw [himage, he]

end Sys2Proof.Machine
end

section
/-! SUPPORT. Coprocessor slots: the frame that their functions share, and the random-number instructions (R400 to R424). -/
namespace Sys2Proof.Machine
open Sys2Proof

/-- An instruction that waits has no effect. -/
theorem State.insn_waits {s s2 : State} {i : Insn} {u : Nat} (h : s.enter i = .ok s2) (hb : i.body (s2.past u) = .error .wait) (hu : i.u = u) :
    s.insn i = s2 := by
  rw [State.insn_ends_at h hb hu]
  simp only [State.endWith, ite_self]

/-- The body of a slot's function while the slot has an engine in service. -/
theorem formSlot_body {o : OpC} {slot cfn least al : Nat} {run : State → Nat × Nat → Except Ends State} {s : State}
    (h : s.slotGone slot = false) (t : State) :
    (formSlot o slot cfn least al run s).u = o.u ∧ (formSlot o slot cfn least al run s).body t =
      match (t.queueSeen o.queued).slotEngine o.u slot with
      | .error e => .error e
      | .ok e => (t.queueSeen o.queued).onEngine o.u cfn e run := by
  rw [formSlot, h]
  exact ⟨rfl, rfl⟩

/-- The engine that serves does the function. -/
theorem State.onEngine_runs {s : State} {u cfn : Nat} {e : Nat × Nat} (run : State → Nat × Nat → Except Ends State)
    (h : e.1 < 8 ∨ (s.cellStalled (stagingCell e) = false ∧ s.stagingOwned e = true)) : s.onEngine u cfn e run = run s e := by
  unfold State.onEngine
  rcases h with h | ⟨hstall, howned⟩
  · rw [if_pos (by simp [h])]
  · rw [hstall, howned]
    simp

/-- What a row says of its instruction: the form of its slot, with what the engine does. -/
structure SlotRow.Runs (x : SlotRow) (c : Instr) (s : State) : Prop where
  exec : exec c s = .next (s.insn x.insn)
  body : s.slotGone x.slot = false → x.insn.u = x.o.u ∧ ∃ cfn, ∀ t : State, x.insn.body t =
    match (t.queueSeen x.o.queued).slotEngine x.o.u x.slot with
    | .error e => .error e
    | .ok e => (t.queueSeen x.o.queued).onEngine x.o.u cfn e x.run

theorem SlotRow.runs_of_form {o : OpC} {slot cfn least al : Nat} {run : State → Nat × Nat → Except Ends State} {c : Instr} {s : State}
    (h : Machine.exec c s = .next (s.insn (formSlot o slot cfn least al run s))) :
    SlotRow.Runs ⟨formSlot o slot cfn least al run s, o, slot, run⟩ c s :=
  ⟨h, fun hgone => ⟨(formSlot_body hgone s).1, cfn, fun t => (formSlot_body hgone t).2⟩⟩

theorem slotRow_runs {c : Instr} {x : SlotRow} {s : State} (h : slotRow s c = some x) : x.Runs c s := by
  unfold slotRow at h
  split at h <;> simp only [Option.some.injEq, reduceCtorEq] at h <;> subst h <;> exact SlotRow.runs_of_form rfl

theorem keyRow_runs {c : Instr} {x : SlotRow} {s : State} (h : keyRow s c = some x) : x.Runs c s := by
  unfold keyRow at h
  split at h <;> simp only [Option.some.injEq, reduceCtorEq] at h <;> subst h <;> exact SlotRow.runs_of_form rfl

/-! ## Random numbers (R423, R424) -/

theorem formRnd_body {o : OpC} {cfn least : Nat} {spec : Bool} {body : Body} {s : State} (h : s.slotGone 3 = false) (t : State) :
    (formRnd o cfn least spec body s).u = o.u ∧ (formRnd o cfn least spec body s).restricted = true ∧
      (formRnd o cfn least spec body s).body t = body t := by
  rw [formRnd, h]
  exact ⟨rfl, rfl, rfl⟩

theorem State.checked_past (s : State) (u : Nat) : ((s.past u).unit u).checked = (s.unit u).checked := by
  rw [State.unit_past]
  rfl

theorem State.SameBytes.refillRnd (s : State) (core : Nat) : s.SameBytes (s.refillRnd core) := by
  unfold State.refillRnd
  split
  · exact .refl s
  · exact ⟨rfl, rfl⟩

theorem exec_rndg (o : OpC) (s : State) : exec (.rndg o) s = .next (s.insn (insnRndg o s)) := rfl
theorem exec_reseed (o : OpC) (s : State) : exec (.reseed o) s = .next (s.insn (insnReseed o s)) := rfl

/-- Settles O40: a slot's function runs on the engine chosen, waits or finds none; RNDG takes what the core's buffer holds. -/
theorem slotResults : Obligations.SlotResults := by
  unfold Obligations.SlotResults
  refine ⟨fun c x s s2 hrow hgone henter => ?_, fun o s s2 hgone henter => ?_, fun o s s2 hgone henter => ?_⟩
  · obtain ⟨hexec, hbody⟩ := hrow.elim slotRow_runs keyRow_runs
    obtain ⟨hu, cfn, hbody⟩ := hbody hgone
    have hb := hbody (s2.past x.o.u)
    intro t d
    refine ⟨fun e he hserves => ?_, fun hnone => ?_⟩
    · have hengine : t.slotEngine x.o.u x.slot = .ok e := by simp only [State.slotEngine]; rw [he]
      have hrun : x.insn.body (s2.past x.o.u) = x.run t e := by
        rw [hb, hengine]
        exact State.onEngine_runs x.run hserves
      exact ⟨fun r hr => by rw [hexec, State.insn_completes_at henter (hrun.trans hr) hu],
        fun y hy => by rw [hexec, State.insn_ends_at henter (hrun.trans hy) hu]⟩
    · intro tested
      have hengine : t.slotEngine x.o.u x.slot = .error (if tested then .wait else .stop (excOf 0x001C)) := by
        simp only [State.slotEngine]; rw [hnone]
      rw [hengine] at hb
      refine ⟨fun ht => ?_, fun ht => ?_⟩
      · rw [if_pos ht] at hb
        rw [hexec, State.insn_waits henter hb hu]
      · rw [if_neg (by simp [ht])] at hb
        rw [hexec, State.insn_ends_at henter hb hu]
  · obtain ⟨hu, hrestricted, hbody⟩ := formRnd_body (cfn := 1) (least := 0) (spec := o.rb != 0) (body := fun s => s.rndg o.u o.ra) hgone (s2.past o.u)
    have hregion : (s2.unit o.u).region = none := hu ▸ State.region_of_restricted henter hrestricted
    intro t k n f
    have hrndg : t.rndg o.u o.ra = if s2.sources.isEmpty then .ok ((t.setG o.u o.ra 0).setCc o.u 2) else
        if (f.core k).rnd.length < n then .error .wait
        else .ok (((f.modCore k fun c => { c with rnd := (f.core k).rnd.drop n }).setG o.u o.ra (loaded ((f.core k).rnd.take 8))).setCc o.u 0) := by
      unfold State.rndg
      dsimp only
      rw [State.checked_past]
      rfl
    have hbytes : t.SameBytes f := by
      dsimp only [f]
      split
      · exact .refillRnd t k
      · exact .refl t
    refine ⟨fun hs => ?_, fun hs hlen => ?_, fun hs hlen => ?_⟩
    · rw [exec_rndg, State.insn_completes_at henter (hbody.trans (hrndg.trans (if_pos (by simp [hs])))) hu]
    · rw [exec_rndg, State.insn_waits henter (hbody.trans (hrndg.trans ((if_neg (by simp [hs])).trans (if_pos hlen)))) hu]
    · refine ⟨_, (exec_rndg o s).trans (congrArg _ (State.insn_completes_at henter
        (hbody.trans (hrndg.trans ((if_neg (by simp [hs])).trans (if_neg (by omega))))) hu)), ?_, ?_, ?_⟩
      · refine (congrArg Psw.cc (State.psw_finish hregion)).trans ?_
        rw [State.psw, State.setCc, State.unit_modUnit_same]
        rfl
      · exact ((State.SameBytes.refl _).finish s2 o.u).mem.trans hbytes.mem
      · rw [State.g_finish hregion, State.g_setCc, State.g_setG_same]
        rfl
  · obtain ⟨hu, -, hbody⟩ := formRnd_body (cfn := 3) (least := 1) (spec := o.ra != 0 || o.rb != 0)
      (body := fun s => .ok (s.reseedAll.setCc o.u 0)) hgone (s2.past o.u)
    rw [exec_reseed, State.insn_completes_at henter hbody hu]

end Sys2Proof.Machine
end

section
/-! SUPPORT. IRUN, HCALL, SVC and exits, and control registers (R55, R56, R62 to R69). -/
namespace Sys2Proof.Machine
open Sys2Proof

/-! ## IRUN (R66) -/

/-- The descriptor's image bank and return stack leave the image that runs and the PSW. -/
theorem Cpu.loadImage_kept (c : Cpu) (d : List Byte) (elapsed : Nat) :
    (c.loadImage d elapsed).irun = c.irun ∧ (c.loadImage d elapsed).psw = c.psw := by
  unfold Cpu.loadImage
  dsimp only
  rw [Cpu.setRs_irun, Cpu.setRs_psw]
  refine List.foldlRecOn (motive := fun x : Cpu => x.irun = c.irun ∧ x.psw = c.psw) _ _ ⟨rfl, rfl⟩ fun x hx n _ => ?_
  obtain ⟨hirun, hpsw⟩ := hx
  split
  · exact ⟨hirun, hpsw⟩
  · split
    · exact ⟨(Cpu.setC_irun _ _ _).trans hirun, (Cpu.setC_psw _ _ _).trans hpsw⟩
    · exact ⟨(Cpu.setC_irun _ _ _).trans hirun, (Cpu.setC_psw _ _ _).trans hpsw⟩

theorem State.unit_loadPsw (s : State) (u : Nat) (p : Psw) : ((s.loadPsw u p).unit u) = { s.unit u with psw := p } := by
  unfold State.loadPsw
  dsimp only
  split
  · rw [State.unitSend, State.unit_sendMsg, State.setPsw, State.unit_modUnit_same]
  · rw [State.setPsw, State.unit_modUnit_same]

/-- The three tests of IRUN's CC 2 in the form of its conditions and in the form of their failure. -/
theorem or_not_of_not_and {p q r : Prop} (h : ¬(p ∧ q ∧ r)) : ¬p ∨ ¬q ∨ ¬r :=
  (Classical.not_and_iff_not_or_not.mp h).imp_right Classical.not_and_iff_not_or_not.mp

theorem not_or_not_of_and {p q r : Prop} (h : p ∧ q ∧ r) : ¬(¬p ∨ ¬q ∨ ¬r) := by
  obtain ⟨hp, hq, hr⟩ := h
  rintro (h | h | h)
  · exact h hp
  · exact h hq
  · exact h hr

section
variable {s : State} {u abs : Nat} {d : List Byte}

theorem State.irunEnter_none (h : 95 < descNat d 0x10 1 ∨ s.image (descNat d 0x10 1) = none) : s.irunEnter u abs d = s.setCc u 3 := by
  have hnone : (if descNat d 0x10 1 ≤ 95 then s.image (descNat d 0x10 1) else none) = none := by
    rcases h with h | h
    · exact if_neg (by omega)
    · rw [h, ite_self]
  unfold State.irunEnter
  simp only [hnone]

variable {e : Image} (hle : descNat d 0x10 1 ≤ 95) (he : s.image (descNat d 0x10 1) = some e)
include hle he

theorem State.irunEnter_unfit (h : ¬(e.st = .operating ∧ BitVec.ofNat 16 (descNat d 0x14 2) = e.gen ∧ e.cpus[descNat d 0x12 2]? = some u)) :
    s.irunEnter u abs d = s.setCc u 2 := by
  unfold State.irunEnter
  simp only [hle, he, if_true]
  exact if_pos (or_not_of_not_and h)

variable (hfits : e.st = .operating ∧ BitVec.ofNat 16 (descNat d 0x14 2) = e.gen ∧ e.cpus[descNat d 0x12 2]? = some u)
include hfits

theorem State.irunEnter_invalid (h : ¬(descReserved d = false ∧ descNat d 0x300 1 ≤ 32 ∧ ∃ g, Psw.ofBytes d = some g ∧ g.mode ≠ .host)) :
    s.irunEnter u abs d = s.setCc u 1 := by
  unfold State.irunEnter
  simp only [hle, he, if_true]
  rw [if_neg (not_or_not_of_and hfits)]
  split
  · rfl
  · next g hg =>
    refine if_pos ?_
    refine Classical.byContradiction fun hok => ?_
    obtain ⟨hres, hok⟩ := not_or.mp hok
    obtain ⟨hlen, hmode⟩ := not_or.mp hok
    exact h ⟨by simpa using hres, Nat.not_lt.mp hlen, g, hg, hmode⟩

theorem State.irunEnter_runs {g : Psw} (hres : descReserved d = false) (hlen : descNat d 0x300 1 ≤ 32) (hg : Psw.ofBytes d = some g)
    (hmode : g.mode ≠ .host) : ((s.irunEnter u abs d).unit u).psw = g ∧
      ((s.irunEnter u abs d).unit u).irun = some ⟨abs, descNat d 0x10 1, e.gen, descNat d 0x12 2, s.psw u⟩ := by
  have hrun : s.irunEnter u abs d = (s.modUnit u fun c =>
      ({ c with irun := some ⟨abs, descNat d 0x10 1, e.gen, descNat d 0x12 2, c.psw⟩, imgReset := none } : Cpu).loadImage d s.elapsed).loadPsw u g := by
    unfold State.irunEnter
    simp only [hle, he, if_true]
    have hvalid : ¬(descReserved d = true ∨ 32 < descNat d 0x300 1 ∨ g.mode = .host) := by simp [hres, hmode, hlen]
    rw [if_neg (not_or_not_of_and hfits), hg]
    dsimp only
    rw [if_neg hvalid]
  rw [hrun, State.unit_loadPsw, State.unit_modUnit_same]
  refine ⟨rfl, ?_⟩
  dsimp only
  rw [(Cpu.loadImage_kept _ _ _).1]
  rfl

end

theorem exec_irun (o : OpA) (s : State) : exec (.irun o) s = .next (s.insn (insnIrun o s)) := rfl

/-- Settles O31: by the image that the descriptor names, the fit of its entry and the descriptor's validity. -/
theorem irunResults : Obligations.IrunResults := by
  unfold Obligations.IrunResults
  intro o s s2 p ps henter htrans r img addr w hbad
  have hbody : (insnIrun o s).body (s2.past o.u) = .ok (w.irunEnter o.u p.abs r.data) := by
    rw [← s2.g_past o.u o.ra] at htrans
    have hbad : ((s2.past o.u).readPieces o.u (p :: ps) false).bad = none := hbad
    simp only [insnIrun, htrans, hbad]
    rfl
  have hruns : exec (.irun o) s = .next (s2.finish o.u (w.irunEnter o.u p.abs r.data)) := by
    rw [exec_irun, State.insn_completes_at henter hbody rfl]
  have hregion : (s2.unit o.u).region = none := State.region_of_restricted henter rfl
  refine ⟨fun h => by rw [hruns, State.irunEnter_none h], fun e hle he => ?_⟩
  intro fits valid
  refine ⟨fun h => by rw [hruns, State.irunEnter_unfit hle he h], fun hf hv => by rw [hruns, State.irunEnter_invalid hle he hf hv],
    fun hf g hres hlen hg hmode => ⟨_, hruns, ?_, ?_⟩⟩
  · rw [State.psw_finish hregion]
    exact (State.irunEnter_runs hle he hf hres hlen hg hmode).1
  · rw [State.irun_finish hregion]
    exact (State.irunEnter_runs hle he hf hres hlen hg hmode).2

/-! ## Accesses of a unit to its own save areas -/

theorem State.unit_performStore (s : State) (u pa : Nat) (data : List Byte) (mt : Mt) :
    ((s.performStore u pa data mt).unit u).unsignalled = (s.unit u).unsignalled := by
  have hown : ((s.conflicts (some u) [pa / 64] true).unit u).unsignalled = (s.unit u).unsignalled := by rw [s.unit_conflicts]
  have hcore (through : Bool) := ((Calm.refl (s.conflicts (some u) [pa / 64] true)).coreWrite
    (core := (s.conflicts (some u) [pa / 64] true).coreOf u) (sec := pa / 64) (cells := cellsAt pa data) (through := through)).held u
  have hhome := ((Calm.refl (s.conflicts (some u) [pa / 64] true)).homeWrite (sec := pa / 64) (cells := cellsAt pa data)).held u
  unfold State.performStore
  dsimp only
  split
  · exact (hcore false).trans hown
  · exact (hcore true).trans hown
  · exact hhome.trans hown

theorem State.unit_storePhys (s : State) (u pa : Nat) (data : List Byte) (mt : Mt) :
    ((s.storePhys u pa data mt).unit u).unsignalled = (s.unit u).unsignalled := by
  unfold State.storePhys
  exact List.foldlRecOn (motive := fun t : State => (t.unit u).unsignalled = (s.unit u).unsignalled) _ _ rfl fun t ht x _ =>
    (t.unit_performStore u _ _ mt).trans ht

theorem State.unit_fetchedBy (s : State) (u : Nat) (l : List Nat) :
    ((s.fetchedBy u l).unit u).unsignalled = (s.unit u).unsignalled := by
  unfold State.fetchedBy
  refine List.foldlRecOn (motive := fun t : State => (t.unit u).unsignalled = (s.unit u).unsignalled) _ _ rfl fun t ht a _ => ?_
  refine (((Calm.refl (t.conflicts (some u) [a / 64] false)).coreRead).held u).trans ?_
  rw [t.unit_conflicts]
  exact ht

/-! ## The end of IRUN (R66, R67) -/

theorem Cpu.unstored_setC (c : Cpu) (n : Nat) (v : Dword) : (c.setC n v).unstored = c.unstored := by
  obtain ⟨hi, img, host, h⟩ := c.setC_eq n v
  rw [h]

theorem Cpu.unstored_setRs (c : Cpu) (r : RStack) : (c.setRs r).unstored = c.unstored := by
  unfold Cpu.setRs
  split <;> rfl

theorem Cpu.unstored_abort (c : Cpu) (a : Dword) (code : Nat) (imm : BitVec 14) : (c.abort a code imm).unstored = c.unstored := by
  unfold Cpu.abort
  split
  · rfl
  · simp only [Cpu.setIa, Cpu.setCc, Cpu.setG, Cpu.unstored_setC, Cpu.unstored_setRs]

theorem Cpu.unstored_of_unsignalled {c d : Cpu} (h : c.unsignalled = d.unsignalled) : c.unstored = d.unstored :=
  show c.unsignalled.unstored = d.unsignalled.unstored by rw [h]

/-- What the unit holds after IRUN has ended: no image, the host PSW with CC 0, and what its images have not had stored. -/
theorem State.irunExit_ends {s : State} {u : Nat} {r : Irun} (reason : Nat) (q : Dword) (h : (s.unit u).irun = some r) :
    ((s.irunExit u reason q).unit u).irun = none ∧ ((s.irunExit u reason q).unit u).psw = { r.hostPsw with cc := 0 } ∧
      ((s.irunExit u reason q).unit u).unstored = (s.unit u).unstored := by
  unfold State.irunExit
  rw [h]
  dsimp only
  rw [State.unit_loadPsw, State.unit_modUnit_same]
  refine ⟨rfl, rfl, ?_⟩
  dsimp only
  rw [Cpu.unstored_of_unsignalled (State.unit_storePhys _ _ _ _ _), Cpu.unstored_of_unsignalled (State.unit_storePhys _ _ _ _ _),
    Cpu.unstored_of_unsignalled (State.unit_storePhys _ _ _ _ _), Cpu.unstored_of_unsignalled (State.unit_storePhys _ _ _ _ _),
    Cpu.unstored_of_unsignalled (State.unit_storePhys _ _ _ _ _), Cpu.unstored_of_unsignalled (State.unit_storePhys _ _ _ _ _)]
  have hflush := congrArg Cpu.unstored ((s.abortRegion u 0x07).unit_wcFlush u)
  refine (show _ = _ from hflush).trans ?_
  rw [State.abortRegion, State.unit_modUnit_same]
  exact Cpu.unstored_abort _ _ _ _

/-- An interruption that cannot reach its guest's interruption area stays pending for the image, and ends IRUN. -/
theorem State.raise_exits {s : State} {u q : Nat} (x : Intr) {r : Irun} (harea : s.area u = .exit q) (h : (s.unit u).irun = some r)
    (hregion : (s.unit u).region = none) : (r.image, x) ∈ ((s.raise u x).unit u).unstored ∧ ((s.raise u x).unit u).irun = none := by
  have habort : (s.unit u).abort x.ia 0x07 0 = s.unit u := by unfold Cpu.abort; rw [hregion]
  unfold State.raise State.takeInt
  dsimp only
  rw [harea]
  dsimp only
  generalize hback : s.modUnit u (fun c => match (c.abort x.ia 0x07 0).irun with
    | some r => { c.abort x.ia 0x07 0 with unstored := (c.abort x.ia 0x07 0).unstored.filter (fun y => y.1 != r.image) ++ [(r.image, x)] }
    | none => c.abort x.ia 0x07 0) = back
  have hunit : back.unit u = { s.unit u with unstored := (s.unit u).unstored.filter (fun y => y.1 != r.image) ++ [(r.image, x)] } := by
    rw [← hback, State.unit_modUnit_same, habort, h]
  have hfetched := back.unit_fetchedBy u (s.areaFetched u)
  have hirun : ((back.fetchedBy u (s.areaFetched u)).unit u).irun = some r :=
    (show _ = (back.unit u).unsignalled.irun from congrArg Cpu.irun hfetched).trans (by rw [hunit]; exact h)
  obtain ⟨hnone, -, hunstored⟩ := State.irunExit_ends 1 (BitVec.ofNat 64 q) hirun
  refine ⟨?_, hnone⟩
  rw [hunstored, Cpu.unstored_of_unsignalled hfetched, hunit]
  simp

theorem exec_svc (o : OpT) (s : State) : exec (.svc o) s = .next (s.insn (insnSvc o)) := rfl
theorem exec_hcall (o : OpT) (s : State) : exec (.hcall o) s = .next (s.insn (insnHcall o s)) := rfl
theorem exec_irunExit (n : CpuNo) (s : State) : exec (.irunExit n) s = .next (match s.boundary n.val with
    | .exit _ _ => s.settle n.val 64
    | _ => s) := rfl

/-- Settles O30: the ends of SVC and HCALL, and an exit's restoring of the host. -/
theorem callsAndExits : Obligations.CallsAndExits := by
  unfold Obligations.CallsAndExits
  refine ⟨fun o s s2 henter => ?_, fun o s s2 henter => ?_, fun n s reason q hb => ?_, fun s u reason q r h => ?_,
    fun s u q x r harea h hregion => State.raise_exits x harea h hregion⟩
  · rw [exec_svc, State.insn_ends_at henter (show (insnSvc o).body (s2.past o.u) = .error (.svc o.imm.toNat) from rfl) rfl]
    simp only [State.endWith, Ends.interrupts, Bool.and_true, State.orWaits]
    rfl
  · rw [exec_hcall, State.insn_ends_at henter (show (insnHcall o s).body (s2.past o.u) = .error (.hcall o.imm.toNat) from rfl) rfl]
    simp only [State.endWith, Ends.interrupts, Bool.and_false, Bool.false_eq_true, if_false]
    rfl
  · rw [exec_irunExit, hb]
    dsimp only
    rw [State.settle, hb]
    rfl
  · obtain ⟨hirun, hpsw, -⟩ := State.irunExit_ends reason q h
    exact ⟨hirun, hpsw⟩

end Sys2Proof.Machine
end

section
/-! SUPPORT. Control registers: LCTL and STCTL (R55, R56, R69). -/
namespace Sys2Proof.Machine
open Sys2Proof

/-! ## Elapsed time -/

theorem State.elapsed_conflicts (s : State) (by_ : Option Nat) (sectors : List Nat) (write : Bool) :
    (s.conflicts by_ sectors write).elapsed = s.elapsed := by
  obtain ⟨us, hus⟩ := s.conflicts_eq by_ sectors write
  rw [hus]

theorem State.elapsed_wcFlush (s : State) (u : Nat) : (s.wcFlush u).elapsed = s.elapsed := by
  have hall : (((s.unit u).wcb.foldl (fun t b => t.wcWrite u b) s)).elapsed = s.elapsed :=
    List.foldlRecOn (motive := fun t : State => t.elapsed = s.elapsed) _ _ rfl fun t ht b _ =>
      ((Calm.refl _).homeWrite.elapsed.trans (t.elapsed_conflicts _ _ _)).trans ht
  exact hall

theorem State.elapsed_confirm (s : State) (u : Nat) (ia : Dword) : (s.confirm u ia).elapsed = s.elapsed := by
  unfold State.confirm
  dsimp only
  split
  · rfl
  · exact State.elapsed_sendMsg _ _

theorem State.elapsed_finish (s : State) (u : Nat) (t : State) : (s.finish u t).elapsed = t.elapsed := by
  unfold State.finish
  rw [State.elapsed_confirm]
  split
  · unfold State.regionStep
    split
    · rfl
    · dsimp only
      split <;> rfl
  · rfl

/-! ## LCTL and STCTL (R55) -/

/-- What an LCTL has written: c9 its DISC, c33 nothing, c4 the time that the timer reads 0 at, another register its value. -/
theorem State.unit_loadC (s : State) (u n : Nat) (v : Dword) :
    ∃ tlb1 tlb2, (s.loadC u n v).unit u = { (if n = 33 then s.unit u
      else if n = 4 then (s.unit u).setC 4 (v + BitVec.ofNat 64 s.elapsed)
      else if n = 9 then (s.unit u).setRs { (s.unit u).rs with disc := bit v 63 }
      else (s.unit u).setC n v) with tlb1 := tlb1, tlb2 := tlb2 } := by
  unfold State.loadC State.writeC
  by_cases h33 : n = 33
  · rw [if_pos h33, if_pos h33]
    exact ⟨_, _, rfl⟩
  · rw [if_neg h33, if_neg h33]
    split
    · rw [State.unit_modUnit_same, State.unit_modUnit_same]
      exact ⟨_, _, rfl⟩
    · rw [State.unit_modUnit_same]
      exact ⟨_, _, rfl⟩

theorem State.elapsed_loadC (s : State) (u n : Nat) (v : Dword) : (s.loadC u n v).elapsed = s.elapsed := by
  unfold State.loadC
  split
  · rfl
  · split <;> rfl

/-- A control register of a unit after an instruction outside regions has ended, where it is not c33. -/
theorem State.readC_finish {s t : State} {u n : Nat} (h : (s.unit u).region = none) (hn : n ≠ 33) : (s.finish u t).readC u n = t.readC u n := by
  unfold State.readC timerOf
  rw [State.elapsed_finish]
  rcases State.unit_finish (t := t) h with hu | ⟨v, hu⟩
  · rw [hu]
  · rw [hu]
    have hc (m : Nat) (hm : m ≠ 33) : ((t.unit u).setC 33 v).cleared.getC m = (t.unit u).getC m := Cpu.getC_setC_other _ _ _ hm
    have hrs : ((t.unit u).setC 33 v).cleared.rs = (t.unit u).rs := Cpu.setC_rs _ _ _
    dsimp only
    rw [hc 4 (by decide), hc n hn, hrs]

/-- A register other than c9 and c33 reads as what LCTL has written. -/
theorem State.readC_loadC {s : State} {u n : Nat} {v : Dword} (h9 : n ≠ 9) (h33 : n ≠ 33) : (s.loadC u n v).readC u n = v := by
  obtain ⟨tlb1, tlb2, hunit⟩ := s.unit_loadC u n v
  rw [State.readC, hunit, if_neg h33, if_neg h9]
  by_cases h4 : n = 4
  · subst h4
    rw [if_pos rfl, if_pos rfl, timerOf, State.elapsed_loadC]
    have hc : (({ (s.unit u).setC 4 (v + BitVec.ofNat 64 s.elapsed) with tlb1 := tlb1, tlb2 := tlb2 } : Cpu)).getC 4 =
        v + BitVec.ofNat 64 s.elapsed := Cpu.getC_setC_same _ _ _
    rw [hc, BitVec.add_sub_cancel]
  · rw [if_neg h4, if_neg h9, if_neg h4]
    exact Cpu.getC_setC_same _ _ _

theorem Cpu.rs_of_kept {c d : Cpu} (h : c.kept = d.kept) : c.rs = d.rs := by
  simp only [Cpu.kept, Prod.mk.injEq] at h
  obtain ⟨-, -, ⟨hhost, himg⟩, -, hirun, -⟩ := h
  rw [Cpu.rs, Cpu.rs, Cpu.inImage, Cpu.inImage, hhost, himg, hirun]

theorem Cpu.retries_of_kept {c d : Cpu} (h : c.kept = d.kept) : c.retries = d.retries := by
  simp only [Cpu.kept, Prod.mk.injEq] at h
  obtain ⟨-, -, -, -, -, hretries⟩ := h
  exact hretries

theorem Cpu.getG_of_kept {c d : Cpu} (h : c.kept = d.kept) (r : BitVec 5) : c.getG r = d.getG r := by
  simp only [Cpu.kept, Prod.mk.injEq] at h
  obtain ⟨⟨hg, -⟩, -⟩ := h
  rw [Cpu.getG, Cpu.getG, hg]

theorem exec_lctl (o : OpI) (s : State) : exec (.lctl o) s = .next (s.insn (insnLctl o s)) := rfl
theorem exec_stctl (o : OpI) (s : State) : exec (.stctl o) s = .next (s.insn (insnStctl o s)) := rfl

theorem State.unit_lctl {s : State} {u : Nat} : (((s.past u).wcFlush u).unit u).kept = ((s.unit u).setIa ((s.psw u).ia + 4)).kept := by
  rw [State.kept_wcFlush, State.unit_past]

/-- Settles O29: the register that LCTL names holds what it has written, and what ends the instruction touches c33 alone. -/
theorem controlRegisters : Obligations.ControlRegisters := by
  unfold Obligations.ControlRegisters
  refine ⟨fun o s s2 henter => ?_, fun o s s2 henter => ?_⟩
  · intro n
    have hregion : (s2.unit o.u).region = none := State.region_of_restricted henter rfl
    have hkept := State.unit_lctl (s := s2) (u := o.u)
    generalize hw : (s2.past o.u).wcFlush o.u = w at hkept
    have hbody : (insnLctl o s).body (s2.past o.u) = .ok (w.loadC o.u n (s2.g o.u o.ra)) := by
      rw [← hw, ← s2.g_past o.u o.ra]
      rfl
    obtain ⟨tlb1, tlb2, hunit⟩ := w.unit_loadC o.u n (s2.g o.u o.ra)
    refine ⟨_, (exec_lctl o s).trans (congrArg _ (State.insn_completes_at henter hbody rfl)), fun h9 h33 => ?_, fun h9 => ?_, fun h33 hretries => ?_,
      fun r => ?_⟩
    · rw [State.readC_finish hregion h33]
      exact State.readC_loadC h9 h33
    · have hrs : ((w.loadC o.u n (s2.g o.u o.ra)).unit o.u).rs = { (s2.unit o.u).rs with disc := (s2.g o.u o.ra).getLsbD 63 } := by
        rw [hunit, h9]
        exact (Cpu.rs_setRs _ _).trans (by rw [Cpu.rs_of_kept hkept]; rfl)
      rw [← hrs]
      rcases State.unit_finish (t := w.loadC o.u n (s2.g o.u o.ra)) hregion with hu | ⟨v, hu⟩
      · rw [hu]
      · rw [hu]
        exact Cpu.setC_rs _ _ _
    · have hsame : w.loadC o.u n (s2.g o.u o.ra) = w := if_pos h33
      have hret : (w.unit o.u).retries = 0 := (Cpu.retries_of_kept hkept).trans hretries
      rw [hsame, State.finish_of_calm hregion hret]
      exact Cpu.getC_of_kept hkept 33
    · rw [State.g_finish hregion, State.g, hunit]
      refine Eq.trans ?_ (Cpu.getG_of_kept hkept r)
      split
      · rfl
      split
      · exact congrArg (sget _ · r.toNat) (Cpu.setC_g _ _ _)
      split
      · exact congrArg (sget _ · r.toNat) (Cpu.setRs_g _ _)
      · exact congrArg (sget _ · r.toNat) (Cpu.setC_g _ _ _)
  · intro n t
    have hread : (s2.past o.u).readC o.u n = s2.readC o.u n := by
      unfold State.readC
      rw [State.unit_past]
      rfl
    have hbody : (insnStctl o s).body (s2.past o.u) = .ok (t.setG o.u o.ra (s2.readC o.u n)) := by
      rw [← hread]
      rfl
    rw [exec_stctl, State.insn_completes_at henter hbody rfl]

end Sys2Proof.Machine
end

section
/-! SUPPORT. What an access of a unit leaves of the unit itself, and interruptions (R75 to R77). -/
namespace Sys2Proof.Machine
open Sys2Proof

/-! ## Accesses of a unit, and what it holds -/

theorem State.unit_readSide (s : State) (u : Nat) (p : Piece) (fetch : Bool) :
    ((s.readSide u p fetch).unit u).unsignalled = (s.unit u).unsignalled := by
  unfold State.readSide
  refine List.foldlRecOn (motive := fun t : State => (t.unit u).unsignalled = (s.unit u).unsignalled) _ _ rfl fun t ht x _ => ?_
  have hown : ((t.conflicts (some u) [x.1 / 64] false).unit u).unsignalled = (s.unit u).unsignalled := by rw [t.unit_conflicts]; exact ht
  have hc := Calm.refl (t.conflicts (some u) [x.1 / 64] false)
  dsimp only
  split
  · exact (hc.uncachedRead.held u).trans hown
  · split
    · exact (hc.engineRead.held u).trans hown
    · exact (hc.coreRead.held u).trans hown

theorem State.unit_wsPutByte (s : State) (cell : Nat) (b : Byte) (u : Nat) : (s.wsPutByte cell b).unit u = s.unit u := by
  unfold State.wsPutByte
  split
  · unfold State.putRec
    dsimp only
    split
    · unfold State.putSlot
      split <;> rfl
    · unfold State.putSlot
      split <;> rfl
    · unfold State.putEntry
      split <;> rfl
  · rfl

theorem State.unit_wsPut (s : State) (cell : Nat) (b : List Byte) (u : Nat) : (s.wsPut cell b).unit u = s.unit u := by
  induction b generalizing s cell with
  | nil => rfl
  | cons x b ih => rw [State.wsPut, ih, State.unit_wsPutByte]

theorem State.unit_setErrs (s : State) (l : List ArrErr) (u : Nat) : State.unit { s with errs := l } u = s.unit u := rfl

theorem State.unit_wsClean (s : State) (cell n u : Nat) : (s.wsClean cell n).unit u = s.unit u := rfl

theorem State.unit_wsSend (s : State) (cell owner kind cls : Nat) (inj : Bool × Bool) (u : Nat) :
    (s.wsSend cell owner kind cls inj).unit u = s.unit u := s.unit_sendMsg _ u

theorem State.unit_wsHalf (s : State) (cell owner : Nat) (l : List ArrErr) (u : Nat) : (s.wsHalf cell owner l).1.unit u = s.unit u := by
  unfold State.wsHalf
  dsimp only
  split
  · rfl
  · split
    · rw [State.unit_wsSend, State.errInc, State.unit_setReg, State.unit_setErrs]
    · rw [State.unit_wsSend, State.errInc, State.unit_setReg, State.unit_setErrs]

theorem State.unit_wsErrors (s : State) (cell n owner u : Nat) : (s.wsErrors cell n owner).1.unit u = s.unit u := by
  unfold State.wsErrors
  dsimp only
  exact List.foldlRecOn (motive := fun r : State × Bool => r.1.unit u = s.unit u) _ _ rfl fun r hr h _ => (r.1.unit_wsHalf _ _ _ u).trans hr

theorem State.unit_storeArea (s : State) (u : Nat) (p : Area) (off : Nat) (data : List Byte) :
    ((s.storeArea u p off data).unit u).unsignalled = (s.unit u).unsignalled := by
  unfold State.storeArea
  split
  · exact s.unit_storePhys u _ data _
  · rw [State.unit_wsClean, State.unit_wsPut]
  · rfl

theorem State.unit_fetchNew (s : State) (u : Nat) (p : Area) (c : Cls) :
    ((s.fetchNew u p c).unit u).unsignalled = (s.unit u).unsignalled := by
  unfold State.fetchNew
  split
  · exact s.unit_readSide u _ false
  · rw [State.unit_wsErrors]
  · rfl

/-! ## Interruptions (R77) -/

/-- Storing an interruption leaves what the unit's instructions hold, where no region was open. -/
theorem State.kept_stored {s : State} {u : Nat} (p : Area) (x : Intr) (h : (s.unit u).region = none) :
    ((s.stored u p x).unit u).kept = (s.unit u).kept := by
  have hflush : (((s.fetchedBy u (s.areaFetched u)).wcFlush u).unit u).kept = (s.unit u).kept :=
    (State.kept_wcFlush _ u).trans (Cpu.kept_of_unsignalled (s.unit_fetchedBy u _))
  have hregion : (((s.fetchedBy u (s.areaFetched u)).wcFlush u).unit u).region = none := by
    simp only [Cpu.kept, Prod.mk.injEq] at hflush
    obtain ⟨-, -, -, hregion, -⟩ := hflush
    exact hregion.trans h
  unfold State.stored
  dsimp only
  generalize (s.fetchedBy u (s.areaFetched u)).wcFlush u = s0 at hflush hregion
  have habort : ((s0.modUnit u fun c => c.abort x.ia 0x07 0).unit u).kept = (s.unit u).kept := by
    rw [State.unit_modUnit_same, Cpu.abort, hregion]
    exact hflush
  rw [hregion, Option.isSome_none, Bool.false_and, if_neg Bool.false_ne_true]
  generalize (s0.modUnit u fun c => c.abort x.ia 0x07 0) = s1 at habort
  have hdata : ((x.data.foldl (fun t d => t.storeArea u p d.1 d.2) s1).unit u).unsignalled = (s1.unit u).unsignalled :=
    List.foldlRecOn (motive := fun t : State => (t.unit u).unsignalled = (s1.unit u).unsignalled) _ _ rfl fun t ht d _ =>
      (t.unit_storeArea u p d.1 d.2).trans ht
  refine (Cpu.kept_of_unsignalled ?_).trans habort
  exact ((State.unit_fetchNew _ u p x.cls).trans (State.unit_storeArea _ u p x.cls.old _)).trans hdata

theorem State.mem_loadPsw (s : State) (u : Nat) (p : Psw) : (s.loadPsw u p).mem = s.mem := by
  unfold State.loadPsw
  dsimp only
  split
  · exact (Quiet.refl (s.setPsw u p)).sendMsg.mem
  · rfl

/-- Where the interruption can be taken, the new PSW is loaded into the state that has stored it. -/
theorem State.takeInt_taken {s : State} {u : Nat} {x : Intr} {n : Psw} (back : State)
    (harea : ∃ a mt, s.area u = .ram a mt ∨ s.area u = .cell a)
    (hpoison : (s.areaFetched u).any (s.fetchedBy u (s.areaFetched u)).poisoned = false)
    (hnew : (s.stored u (s.area u) x).newPsw (s.area u) x.cls = some n)
    (hok : newPswOk u ((s.stored u (s.area u) x).unit u) n = true) :
    s.takeInt u x back = (s.stored u (s.area u) x).loadPsw u n := by
  obtain ⟨a, mt, harea⟩ := harea
  have hpoison : ¬(s.areaFetched u).any (s.fetchedBy u (s.areaFetched u)).poisoned = true := by simp [hpoison]
  unfold State.takeInt State.stored at *
  dsimp only at hnew hok ⊢
  rcases harea with harea | harea
  · rw [harea] at hnew hok ⊢
    dsimp only
    rw [if_neg hpoison, hnew]
    exact if_pos hok
  · rw [harea] at hnew hok ⊢
    dsimp only
    rw [if_neg hpoison, hnew]
    exact if_pos hok

/-- Settles O44: what is stored leaves the unit's registers, and the PSW that is then read is loaded. -/
theorem interruptionSwapsPsw : Obligations.InterruptionSwapsPsw := by
  unfold Obligations.InterruptionSwapsPsw
  intro s back u x n harea hregion hpoison hnew hok
  have hkept := State.kept_stored (s.area u) x hregion
  have hok' : newPswOk u ((s.stored u (s.area u) x).unit u) n = true := by
    rw [← hok]
    simp only [Cpu.kept, Prod.mk.injEq] at hkept
    obtain ⟨-, -, -, -, hirun, -⟩ := hkept
    rw [newPswOk, newPswOk, Cpu.inImage, Cpu.inImage, hirun]
  rw [State.takeInt_taken back harea hpoison hnew hok']
  refine ⟨?_, fun r => ?_, ?_⟩
  · rw [State.psw, State.unit_loadPsw]
  · rw [State.g, State.unit_loadPsw]
    exact Cpu.getG_of_kept hkept r
  · exact State.mem_loadPsw _ u n

end Sys2Proof.Machine
end

section
/-! SUPPORT. What the accesses of one unit reach: the bytes it stores, in storage and in its write-combining buffers, and what it
holds (R213, R221 to R223, R230, R236, R250). -/
namespace Sys2Proof.Machine
open Sys2Proof

theorem Memory.writeCells_writeCells (m c d : List Host.Cell) :
    Memory.writeCells (Memory.writeCells m c) d = Memory.writeCells m (d ++ c) := (List.foldr_append ..).symm

/-- From s to t unit u has stored bytes of M alone, and its write-combining buffers hold bytes of M alone; working store is the same, and what
the unit's instructions hold. -/
structure State.Reaches (s t : State) (u : Nat) (M : Nat → Prop) : Prop where
  mem : ∃ cells : List Host.Cell, (∀ x ∈ cells, M x.1) ∧ t.mem = Memory.writeCells s.mem cells
  ws : t.ws = s.ws
  kept : (t.unit u).kept = (s.unit u).kept
  buffered : ∀ b ∈ (t.unit u).wcb, ∀ x ∈ b.cells, M x.1

namespace State.Reaches

variable {s t r : State} {u : Nat} {M : Nat → Prop}

theorem refl (h : (s.unit u).wcb = []) : s.Reaches s u M :=
  ⟨⟨[], fun _ hx => absurd hx List.not_mem_nil, rfl⟩, rfl, rfl, fun b hb => by rw [h] at hb; exact absurd hb List.not_mem_nil⟩

/-- Outside M storage reads the same. -/
theorem read (h : s.Reaches t u M) {a : Nat} (ha : ¬M a) : Memory.read t.mem a = Memory.read s.mem a := by
  obtain ⟨cells, hM, hmem⟩ := h.mem
  rw [hmem]
  exact Memory.read_writeCells_other _ fun x hx e => ha (e ▸ hM x hx)

/-- Where nothing may be stored storage is the same. -/
theorem mem_eq (h : s.Reaches t u fun _ => False) : t.mem = s.mem := by
  obtain ⟨cells, hM, hmem⟩ := h.mem
  rw [hmem, List.eq_nil_iff_forall_not_mem.mpr fun x hx => hM x hx]
  rfl

theorem region (h : s.Reaches t u M) (hregion : (s.unit u).region = none) : (t.unit u).region = none := by
  have hkept := h.kept
  simp only [Cpu.kept, Prod.mk.injEq] at hkept
  obtain ⟨-, -, -, hr, -⟩ := hkept
  exact hr.trans hregion

/-- A state with the same bytes in which the unit is the same but for signals. -/
theorem same (h : s.Reaches t u M) (hmem : r.mem = t.mem) (hws : r.ws = t.ws) (hunit : (r.unit u).unsignalled = (t.unit u).unsignalled) :
    s.Reaches r u M where
  mem := by rw [hmem]; exact h.mem
  ws := hws.trans h.ws
  kept := (Cpu.kept_of_unsignalled hunit).trans h.kept
  buffered := by
    have hwcb : (r.unit u).wcb = (t.unit u).wcb := (show (r.unit u).unsignalled.wcb = (t.unit u).unsignalled.wcb by rw [hunit])
    rw [hwcb]
    exact h.buffered

theorem quiet (h : s.Reaches t u M) (hq : Quiet t r) (hc : Calm t r) : s.Reaches r u M := h.same hq.mem hq.ws (hc.held u)

theorem conflicts (h : s.Reaches t u M) (sectors : List Nat) (write : Bool) : s.Reaches (t.conflicts (some u) sectors write) u M := by
  have hsame := (State.SameBytes.refl t).conflicts (some u) sectors write
  exact h.same hsame.mem hsame.ws (by rw [t.unit_conflicts])

theorem modUnit (h : s.Reaches t u M) {f : Cpu → Cpu} (hf : (f (t.unit u)).kept = (t.unit u).kept)
    (hb : ∀ b ∈ (f (t.unit u)).wcb, ∀ x ∈ b.cells, M x.1) : s.Reaches (t.modUnit u f) u M where
  mem := h.mem
  ws := h.ws
  kept := by rw [State.unit_modUnit_same, hf]; exact h.kept
  buffered := by rw [State.unit_modUnit_same]; exact hb

/-- Cells of M written, or nothing where nothing holds the address. -/
theorem writes (h : s.Reaches t u M) {cells : List Host.Cell} (hw : t.Writes r cells ∨ r = t) (hc : Calm t r) (hcells : ∀ x ∈ cells, M x.1) :
    s.Reaches r u M := by
  rcases hw with hw | rfl
  · obtain ⟨before, hM, hmem⟩ := h.mem
    refine ⟨⟨cells ++ before, fun x hx => (List.mem_append.mp hx).elim (hcells x) (hM x), ?_⟩, hw.ws.trans h.ws,
      (Cpu.kept_of_unsignalled (hc.held u)).trans h.kept, (h.same (r := { r with mem := t.mem, ws := t.ws }) rfl rfl (hc.held u)).buffered⟩
    rw [hw.mem, hmem, Memory.writeCells_writeCells]
  · exact h

theorem foldl {α : Type} {f : State → α → State} {l : List α} (hf : ∀ t, ∀ x ∈ l, s.Reaches t u M → s.Reaches (f t x) u M)
    (h : s.Reaches t u M) : s.Reaches (l.foldl f t) u M :=
  List.foldlRecOn l f h fun t ht x hx => hf t x hx ht

end State.Reaches

/-! ## Writes, whether or not something holds the address -/

theorem State.homeWrite_cases (s : State) (sec : Nat) (cells : List Host.Cell) :
    s.Writes (s.homeWrite sec cells) cells ∨ s.homeWrite sec cells = s := by
  cases h : s.absent (64 * sec) with
  | false => exact .inl (State.homeWrite_writes h)
  | true => exact .inr (State.homeWrite_absent h)

theorem State.engineWrite_cases (s : State) (sec : Nat) (cells : List Host.Cell) :
    s.Writes (s.engineWrite sec cells) cells ∨ s.engineWrite sec cells = s := by
  cases h : s.absent (64 * sec) with
  | false => exact .inl (State.engineWrite_writes h)
  | true => exact .inr (State.engineWrite_absent h)

theorem State.coreWrite_cases (s : State) (core sec : Nat) (cells : List Host.Cell) (through : Bool) :
    s.Writes (s.coreWrite core sec cells through) cells ∨ s.coreWrite core sec cells through = s := by
  cases h : s.absent (64 * sec) with
  | false => exact .inl (State.coreWrite_writes h core through)
  | true => exact .inr (State.coreWrite_absent h core through)

namespace State.Reaches

variable {s t : State} {u : Nat} {M : Nat → Prop} (h : s.Reaches t u M)
include h

/-! ## Walks and reads -/

theorem walked (p : Piece) : s.Reaches (t.walked u p) u M := by
  have hfetched : s.Reaches (p.fetched.foldl (fun t a => (t.conflicts (some u) [a / 64] false).coreRead (t.coreOf u) a false) t) u M :=
    h.foldl fun r a _ hr => (hr.conflicts [a / 64] false).quiet (Quiet.refl _).coreRead (Calm.refl _).coreRead
  unfold State.walked
  dsimp only
  split
  · exact hfetched.modUnit rfl hfetched.buffered
  · exact hfetched

theorem readSide (p : Piece) (fetch : Bool) : s.Reaches (t.readSide u p fetch) u M := by
  unfold State.readSide
  refine h.foldl fun r x _ hr => ?_
  have hc := hr.conflicts [x.1 / 64] false
  dsimp only
  split
  · exact hc.quiet (Quiet.refl _).uncachedRead (Calm.refl _).uncachedRead
  · split
    · exact hc.quiet (Quiet.refl _).engineRead (Calm.refl _).engineRead
    · exact hc.quiet (Quiet.refl _).coreRead (Calm.refl _).coreRead

/-- Outside regions nothing is noted of what is read. -/
theorem noteReads (hregion : (s.unit u).region = none) (l : List Nat) : s.Reaches (t.noteReads u l) u M := by
  refine h.modUnit ?_ h.buffered
  simp only [Cpu.kept, h.region hregion, Option.map_none]

theorem noteWrites (hregion : (s.unit u).region = none) (l : List Nat) : s.Reaches (t.noteWrites u l) u M := by
  refine h.modUnit ?_ h.buffered
  simp only [Cpu.kept, h.region hregion, Option.map_none]

/-! ## Write-combining buffers -/

theorem wcWrite {b : WcBuf} (hb : ∀ x ∈ b.cells, M x.1) : s.Reaches (t.wcWrite u b) u M :=
  (h.conflicts [b.block] true).writes (State.homeWrite_cases _ _ _) (Calm.refl _).homeWrite hb

theorem wcFlush : s.Reaches (t.wcFlush u) u M := by
  have hall : s.Reaches ((t.unit u).wcb.foldl (fun t b => t.wcWrite u b) t) u M :=
    h.foldl fun r b hb hr => hr.wcWrite (h.buffered b hb)
  exact hall.modUnit rfl fun b hb => absurd hb List.not_mem_nil

theorem wcSupersede (pa n : Nat) : s.Reaches (t.wcSupersede u pa n) u M := by
  unfold State.wcSupersede
  split
  · exact h
  · refine h.modUnit rfl fun b hb => ?_
    obtain ⟨c, hc, rfl⟩ := List.mem_map.mp (List.mem_filter.mp hb).1
    exact fun x hx => h.buffered c hc x (List.mem_filter.mp hx).1

theorem wcStore {pa : Nat} {data : List Byte} (hM : ∀ a, pa ≤ a → a < pa + data.length → M a) : s.Reaches (t.wcStore u pa data) u M := by
  have hcells : ∀ x ∈ (((List.range data.length).zip data).map fun x => (pa + x.1, x.2)).reverse, M x.1 := by
    intro x hx
    obtain ⟨hlo, hhi⟩ := mem_cellsAt (data := data) (List.mem_reverse.mp hx)
    exact hM x.1 hlo hhi
  unfold State.wcStore
  dsimp only
  split
  · refine h.modUnit rfl fun b hb => ?_
    obtain ⟨c, hc, rfl⟩ := List.mem_map.mp hb
    split
    · exact fun x hx => (List.mem_append.mp hx).elim (hcells x) (h.buffered c hc x)
    · exact h.buffered c hc
  · have hroom : s.Reaches (match (t.unit u).wcb with
        | b :: r => if (t.unit u).wcb.length < 4 then t else (t.wcWrite u b).modUnit u fun c => { c with wcb := r }
        | [] => t) u M := by
      split
      · next b r hwcb =>
        split
        · exact h
        · refine (h.wcWrite (h.buffered b (by rw [hwcb]; exact List.mem_cons_self))).modUnit rfl fun c hc => ?_
          exact h.buffered c (by rw [hwcb]; exact List.mem_cons_of_mem _ hc)
      · exact h
    refine hroom.modUnit rfl fun b hb => ?_
    rcases List.mem_append.mp hb with hb | hb
    · exact hroom.buffered b hb
    · rw [List.mem_singleton.mp hb]
      exact hcells

/-! ## Stores -/

theorem performStore {pa : Nat} {data : List Byte} (mt : Mt) (hM : ∀ a, pa ≤ a → a < pa + data.length → M a) :
    s.Reaches (t.performStore u pa data mt) u M := by
  have hcells : ∀ x ∈ cellsAt pa data, M x.1 := fun x hx => hM x.1 (mem_cellsAt hx).1 (mem_cellsAt hx).2
  have hc := h.conflicts [pa / 64] true
  unfold State.performStore
  dsimp only
  split
  · exact hc.writes (State.coreWrite_cases _ _ _ _ _) (Calm.refl _).coreWrite hcells
  · exact hc.writes (State.coreWrite_cases _ _ _ _ _) (Calm.refl _).coreWrite hcells
  · exact hc.writes (State.homeWrite_cases _ _ _) (Calm.refl _).homeWrite hcells

theorem performSlot {pa : Nat} {data : List Byte} (mt : Mt) (hM : ∀ a, pa ≤ a → a < pa + data.length → M a) :
    s.Reaches (t.performSlot u pa data mt) u M := by
  have hcells : ∀ x ∈ cellsAt pa data, M x.1 := fun x hx => hM x.1 (mem_cellsAt hx).1 (mem_cellsAt hx).2
  have hc := h.conflicts [pa / 64] true
  unfold State.performSlot
  dsimp only
  split
  · exact hc.writes (State.engineWrite_cases _ _ _) (Calm.refl _).engineWrite hcells
  · exact hc.writes (State.homeWrite_cases _ _ _) (Calm.refl _).homeWrite hcells

/-- A store to one piece of storage, outside regions. -/
theorem cpuWrite (hregion : (s.unit u).region = none) {p : Piece} {data : List Byte}
    (hM : ∀ a, p.pa ≤ a → a < p.pa + data.length → M a) : s.Reaches (t.cpuWrite u p data) u M := by
  have hpart {x : Nat × Nat} (hx : x ∈ sectorParts p.pa data.length) :
      ∀ a, x.1 ≤ a → a < x.1 + ((data.drop (x.1 - p.pa)).take x.2).length → M a := by
    obtain ⟨hlo, hhi, -⟩ := mem_sectorParts hx
    intro a ha hax
    rw [List.length_take] at hax
    exact hM a (by omega) (by omega)
  have hw := h.walked p
  have hready : s.Reaches (if p.mt = .uc then (t.walked u p).wcFlush u else (t.walked u p).wcSupersede u p.pa data.length) u M := by
    split
    · exact hw.wcFlush
    · exact hw.wcSupersede _ _
  unfold State.cpuWrite
  dsimp only
  rw [h.region hregion]
  dsimp only
  split
  · exact hready.foldl fun r x hx hr => hr.performSlot p.mt (hpart hx)
  · split
    · exact hw.foldl fun r x hx hr => hr.wcStore (hpart hx)
    · exact hready.foldl fun r x hx hr => hr.performStore p.mt (hpart hx)

end State.Reaches

end Sys2Proof.Machine
end

section
/-! SUPPORT. Frames of loads, stores and atomics, and the statements about them (R135, R143, R155 to R176, R222, R236). -/
namespace Sys2Proof.Machine
open Sys2Proof

/-! ## Working store read -/

theorem Quiet.wsSend {sb s : State} (h : Quiet sb s) {cell owner kind cls : Nat} {inj : Bool × Bool} :
    Quiet sb (s.wsSend cell owner kind cls inj) := h.send

theorem State.SameBytes.wsHalf (s : State) (cell owner : Nat) (l : List ArrErr) : s.SameBytes (s.wsHalf cell owner l).1 := by
  unfold State.wsHalf
  dsimp only
  have herrs (es : List ArrErr) : s.SameBytes { s with errs := es } := ⟨rfl, rfl⟩
  split
  · exact herrs _
  · split
    · exact ((herrs _).errInc _ _ _ _).quiet (Quiet.refl _).wsSend
    · exact ((herrs _).errInc _ _ _ _).quiet (Quiet.refl _).wsSend

theorem State.SameBytes.wsErrors (s : State) (cell n owner : Nat) : s.SameBytes (s.wsErrors cell n owner).1 := by
  unfold State.wsErrors
  dsimp only
  exact List.foldlRecOn (motive := fun r : State × Bool => s.SameBytes r.1) _ _ (.refl s) fun r hr h _ => hr.trans (.wsHalf r.1 _ _ _)

/-! ## Pieces read and written in order -/

namespace State.Reaches

variable {s t : State} {u : Nat} {M : Nat → Prop} (h : s.Reaches t u M) (hregion : (s.unit u).region = none)
include h hregion

theorem readPiece (p : Piece) (fetch : Bool) : s.Reaches (t.readPiece u p fetch).1 u M := by
  unfold State.readPiece
  split
  · have hsame := State.SameBytes.wsErrors t p.pa p.len (ownerCode u)
    exact h.same hsame.mem hsame.ws (by rw [State.unit_wsErrors])
  · have hflush : s.Reaches (if p.mt = .uc then t.wcFlush u else t) u M := by
      split
      · exact h.wcFlush
      · exact h
    unfold State.cpuRead
    dsimp only
    split
    · exact (hflush.walked p).readSide p fetch
    · exact ((hflush.walked p).readSide p fetch).noteReads hregion _

theorem readPieces (ps : List Piece) (fetch : Bool) : s.Reaches (t.readPieces u ps fetch).st u M := by
  unfold State.readPieces
  exact List.foldlRecOn (motive := fun r : ReadOut => s.Reaches r.st u M) _ _ h fun r hr p _ => State.Reaches.readPiece hr hregion p fetch

/-- Every piece lies in storage, and M holds of its bytes. -/
theorem writePieces {ps : List Piece} (hdram : ∀ p ∈ ps, p.target = .dram) (hM : ∀ p ∈ ps, ∀ a, p.pa ≤ a → a < p.pa + p.len → M a)
    (data : List Byte) : s.Reaches (t.writePieces u ps data) u M := by
  unfold State.writePieces
  refine List.foldlRecOn (motive := fun r : State × List Byte => s.Reaches r.1 u M) _ _ h fun r hr p hp => ?_
  rw [hdram p hp]
  refine State.Reaches.cpuWrite hr hregion fun a hlo hhi => hM p hp a hlo ?_
  rw [List.length_take] at hhi
  omega

omit hregion in
theorem atomicLine (p : Piece) : s.Reaches (t.atomicLine u p) u M := by
  unfold State.atomicLine
  split
  · exact h.quiet (Quiet.refl _).coreOwn (Calm.refl _).coreOwn
  · exact h

end State.Reaches

/-! ## Working store written -/

theorem State.mem_wsPut (s : State) (cell : Nat) (b : List Byte) : (s.wsPut cell b).mem = s.mem := by
  induction b generalizing s cell with
  | nil => rfl
  | cons x b ih =>
    rw [State.wsPut, ih]
    unfold State.wsPutByte
    split
    · unfold State.putRec State.putSlot State.putEntry
      dsimp only
      split <;> split <;> rfl
    · rfl

/-- Bytes put into working store leave every other byte of it. -/
theorem State.ws_wsPut_other (s : State) {cell a : Nat} {b : List Byte} (h : a < cell ∨ cell + b.length ≤ a) :
    Memory.read (s.wsPut cell b).ws a = Memory.read s.ws a := by
  induction b generalizing s cell with
  | nil => rfl
  | cons x b ih =>
    rw [List.length_cons] at h
    rw [State.wsPut, ih _ (by omega)]
    unfold State.wsPutByte
    split
    · unfold State.putRec State.putSlot State.putEntry
      dsimp only
      split <;> split <;> rfl
    · exact Memory.read_write_other _ _ (by omega)

/-- Pieces of working store written leave storage, the units, and every byte of working store outside the pieces. -/
theorem State.writePieces_ws (s : State) (u : Nat) {ps : List Piece} (hws : ∀ p ∈ ps, p.target = .ws) (data : List Byte) :
    (s.writePieces u ps data).mem = s.mem ∧ (∀ v, (s.writePieces u ps data).unit v = s.unit v) ∧
      ∀ a, (∀ p ∈ ps, a < p.pa ∨ p.pa + p.len ≤ a) → Memory.read (s.writePieces u ps data).ws a = Memory.read s.ws a := by
  unfold State.writePieces
  refine List.foldlRecOn (motive := fun r : State × List Byte => r.1.mem = s.mem ∧ (∀ v, r.1.unit v = s.unit v) ∧
    ∀ a, (∀ p ∈ ps, a < p.pa ∨ p.pa + p.len ≤ a) → Memory.read r.1.ws a = Memory.read s.ws a) _ _ ⟨rfl, fun _ => rfl, fun _ _ => rfl⟩
    fun r hr p hp => ?_
  obtain ⟨hmem, hunit, hread⟩ := hr
  rw [hws p hp]
  refine ⟨(State.mem_wsPut r.1 _ _).trans hmem, fun v => ?_, fun a ha => ?_⟩
  · rw [State.unit_wsClean, State.unit_wsPut, hunit]
  · refine (State.ws_wsPut_other r.1 ?_).trans (hread a ha)
    have := ha p hp
    rw [List.length_take]
    omega

/-! ## The lengths of what is read -/

theorem pageParts_sum (va fuel n : Nat) (h : n = 0 ∨ n + va % 4096 ≤ 4096 * fuel) : ((pageParts va fuel n).map (·.2)).sum = n := by
  induction fuel generalizing va n with
  | zero =>
    rw [pageParts]
    exact (show n = 0 by omega).symm
  | succ fuel ih =>
    rw [pageParts]
    split
    · next h0 => rw [h0]; rfl
    · rw [List.map_cons, List.sum_cons, ih]
      · omega
      · omega

theorem State.piece_len {s : State} {u va len alen : Nat} {k : AccKind} {p : Piece} (h : s.piece u va len alen k = .ok p) : p.len = len := by
  unfold State.piece at h
  split at h
  · unfold State.cpuPiece at h
    dsimp only at h
    split at h
    · cases h
    · split at h
      · split at h
        · split at h
          · cases h
          · split at h
            · cases h
            · split at h <;> cases h
              rfl
        · split at h
          · cases h
          · split at h
            · cases h
            · split at h <;> cases h
              rfl
      · split at h
        · cases h
        · split at h
          · cases h
          · split at h <;> cases h
            rfl
  · unfold State.smallPiece at h
    dsimp only at h
    split at h
    · cases h
    · split at h
      · split at h
        · cases h
        · split at h <;> cases h
          rfl
      · split at h
        · cases h
        · split at h
          · cases h
          · split at h <;> cases h
            rfl

/-- Where no part of an access fails, each gives a piece of its length; `stop` and `piece` take an outcome apart. -/
theorem pieces_len {f : Nat × Nat → Except Stop Piece} {stop : Except Stop Piece → Option Stop} {piece : Except Stop Piece → Option Piece}
    (hf : ∀ x p, f x = .ok p → p.len = x.2) (hstop : ∀ x, stop (.error x) = some x) (hpiece : ∀ p, piece (.ok p) = some p)
    {l : List (Nat × Nat)} (h : (l.map f).filterMap stop = []) : ((l.map f).filterMap piece).map (·.len) = l.map (·.2) := by
  induction l with
  | nil => rfl
  | cons x l ih =>
    rw [List.filterMap_eq_nil_iff] at h ih
    have hrest := ih fun r hr => h r (by rw [List.map_cons]; exact List.mem_cons_of_mem _ hr)
    have hx := h (f x) (by rw [List.map_cons]; exact List.mem_cons_self)
    cases hfx : f x with
    | error e => rw [hfx, hstop] at hx; cases hx
    | ok p => rw [List.map_cons, hfx, List.filterMap_cons_some (hpiece p), List.map_cons, List.map_cons, hrest, hf x p hfx]

/-- The pieces of an access are as long as the access. -/
theorem State.translate_len {s : State} {u : Nat} {va : Dword} {n : Nat} {k : AccKind} {ps : List Piece}
    (h : s.translate u va n k = .ok ps) : (ps.map (·.len)).sum = n := by
  unfold State.translate at h
  dsimp only at h
  split at h
  · next herrs =>
    rw [← Except.ok.inj h, pieces_len (f := fun p => s.piece u p.1 p.2 n k) (fun x p hp => State.piece_len hp) (fun _ => rfl) (fun _ => rfl) herrs]
    exact pageParts_sum _ _ _ (by omega)
  · cases h

theorem State.readPiece_len (s : State) (u : Nat) (p : Piece) (fetch : Bool) : (s.readPiece u p fetch).2.1.length = p.len := by
  unfold State.readPiece
  split
  · simp [State.wsBytes]
  · simp [State.cpuRead]

theorem State.readPieces_len (s : State) (u : Nat) (ps : List Piece) (fetch : Bool) :
    (s.readPieces u ps fetch).data.length = (ps.map (·.len)).sum := by
  have hfold (r : ReadOut) : (ps.foldl (fun r p =>
      let x := r.st.readPiece u p fetch
      (⟨x.1, r.data ++ x.2.1, if r.bad.isNone then x.2.2 else r.bad⟩ : ReadOut)) r).data.length = r.data.length + (ps.map (·.len)).sum := by
    induction ps generalizing r with
    | nil => rfl
    | cons p ps ih =>
      rw [List.foldl_cons, ih, List.map_cons, List.sum_cons, List.length_append, State.readPiece_len, Nat.add_assoc]
  exact (hfold ⟨s, [], none⟩).trans (Nat.zero_add _)

/-! ## Registers that an access writes -/

theorem RegPut.kept_congr (p : RegPut) {c d : Cpu} (h : c.kept = d.kept) : (p.cpu c).kept = (p.cpu d).kept := by
  simp only [Cpu.kept, Prod.mk.injEq] at h
  obtain ⟨⟨hg, hf, hhost, himg, hhi⟩, hpsw, hrs, hregion, hirun, hretries⟩ := h
  cases p <;>
    simp only [RegPut.cpu, Cpu.setG, Cpu.setF, Cpu.setCc, Cpu.kept, hg, hf, hhost, himg, hhi, hpsw, hrs.1, hrs.2, hregion, hirun, hretries]

/-- Registers written one after another. -/
def State.puts (u : Nat) (l : List RegPut) (s : State) : State := l.foldl (fun t p => p.state u t) s

theorem State.puts_sameBytes (u : Nat) (l : List RegPut) (s : State) : s.SameBytes (s.puts u l) :=
  (State.SameBytes.refl s).foldl fun _ p h => h.modUnit u p.cpu

theorem State.unit_puts (u : Nat) (l : List RegPut) (s : State) : (s.puts u l).unit u = l.foldl (fun c p => p.cpu c) (s.unit u) := by
  induction l generalizing s with
  | nil => rfl
  | cons p l ih => exact (ih _).trans (by rw [RegPut.unit_state]; rfl)

theorem State.kept_puts {s t : State} {u : Nat} (l : List RegPut) (h : (t.unit u).kept = (s.unit u).kept) :
    ((t.puts u l).unit u).kept = ((s.puts u l).unit u).kept := by
  rw [State.unit_puts, State.unit_puts]
  generalize t.unit u = c at h
  generalize s.unit u = d at h
  induction l generalizing c d with
  | nil => exact h
  | cons p l ih => exact ih _ _ (p.kept_congr h)

theorem State.retries_puts (s : State) (u : Nat) (l : List RegPut) : ((s.puts u l).unit u).retries = (s.unit u).retries := by
  rw [State.unit_puts]
  generalize s.unit u = c
  induction l generalizing c with
  | nil => rfl
  | cons p l ih => exact (ih _).trans (p.retries c)

/-- A load puts its bytes in registers. -/
theorem loadRow_puts {c : Instr} {s : State} {x : LoadRow} (h : loadRow s c = some x) (b : List Byte) :
    ∃ l, ∀ t : State, x.put t b = t.puts x.o.u l := by
  unfold loadRow at h
  split at h <;> cases h
  case h_8 o => exact ⟨[.gpr o.ra _, .gpr (o.ra + 1) _], fun _ => rfl⟩
  case h_9 o => exact ⟨[.fpr o.ra _], fun _ => rfl⟩
  case h_10 o => exact ⟨[.fpr o.ra _], fun _ => rfl⟩
  all_goals exact ⟨[.gpr _ _], fun _ => rfl⟩

/-- An atomic puts what it has found in registers and the CC. -/
theorem atomicRow_puts {c : Instr} {s : State} {x : AtomicRow} (h : atomicRow s c = some x) (s2 : State) (old : List Byte) :
    ∃ l, ∀ t : State, x.leaves s2 old t = t.puts x.o.u l := by
  unfold atomicRow at h
  split at h <;> cases h
  case h_1 o =>
    by_cases hold : old = beBytes 8 (s2.g o.u o.ra).toNat
    · exact ⟨[.cc 0], fun _ => if_pos hold⟩
    · exact ⟨[.gpr o.ra _, .cc 1], fun _ => if_neg hold⟩
  case h_2 o =>
    by_cases hold : old = s2.pairBytes o.u o.ra
    · exact ⟨[.cc 0], fun _ => if_pos hold⟩
    · exact ⟨[.gpr o.ra _, .gpr (o.ra + 1) _, .cc 1], fun _ => if_neg hold⟩
  all_goals exact ⟨[.gpr _ _], fun _ => rfl⟩

/-! ## Accesses outside regions and outside the service space -/

section
variable {s t : State} {u n : Nat} {va : Dword} {k : AccKind} {ps : List Piece} (hregion : (s.unit u).region = none)
include hregion

theorem State.loadAt_reads {b : List Byte} (htrans : s.translate u va n k = .ok ps) (hts : ∀ p ∈ ps, p.target ≠ .service)
    (h : s.loadAt u va n k = .ok (t, b)) : t = (s.readPieces u ps false).st ∧ b = (s.readPieces u ps false).data := by
  unfold State.loadAt at h
  rw [htrans, hregion] at h
  dsimp only at h
  rw [Option.isSome_none, Bool.false_and, if_neg Bool.false_ne_true] at h
  split at h
  · exact absurd rfl (hts _ (List.mem_singleton.mpr rfl))
  · split at h <;> cases h
    exact ⟨rfl, rfl⟩

theorem State.storeAt_writes {data : List Byte} (htrans : s.translate u va data.length k = .ok ps) (hts : ∀ p ∈ ps, p.target ≠ .service)
    (hpoison : ps.findSome? (s.walkPoison u) = none) : s.storeAt u va data k = .ok (s.writePieces u ps data) := by
  unfold State.storeAt
  rw [htrans, hregion]
  dsimp only
  rw [Option.isSome_none, Bool.false_and, if_neg Bool.false_ne_true]
  split
  · exact absurd rfl (hts _ (List.mem_singleton.mpr rfl))
  · rw [hpoison]

/-- An atomic reads its pieces, holds their lines, and stores what it computes, if anything. -/
theorem State.atomicAt_performs {f : List Byte → Option (List Byte)} {old : List Byte} (htrans : s.translate u va n .atomic = .ok ps)
    (h : s.atomicAt u va n f = .ok (t, old)) :
    ∃ r, r = (ps.map (s.atomicPiece u)).foldl (fun t p => t.atomicLine u p) ((s.wcFlush u).readPieces u (ps.map (s.atomicPiece u)) false).st ∧
      ((∃ new, t = r.writePieces u (ps.map (s.atomicPiece u)) new) ∨ ∃ l, t = r.noteWrites u l) := by
  refine ⟨_, rfl, ?_⟩
  unfold State.atomicAt at h
  rw [htrans, hregion] at h
  dsimp only at h
  rw [Option.isSome_none, Bool.false_and, if_neg Bool.false_ne_true] at h
  split at h
  · cases h
  · split at h <;> cases h
    · exact .inl ⟨_, rfl⟩
    · exact .inr ⟨_, rfl⟩

end

theorem State.atomicPiece_place (s : State) (u : Nat) (p : Piece) :
    (s.atomicPiece u p).target = p.target ∧ (s.atomicPiece u p).pa = p.pa ∧ (s.atomicPiece u p).len = p.len := by
  unfold State.atomicPiece
  split <;> exact ⟨rfl, rfl, rfl⟩

/-! ## Loads, branches, comparisons, moves and floating point -/

/-- The next instruction's unit: the same but for IA. -/
theorem State.past_ready {s : State} {u : Nat} (hregion : (s.unit u).region = none) (hwcb : (s.unit u).wcb = []) :
    ((s.past u).unit u).region = none ∧ ((s.past u).unit u).wcb = [] := by
  rw [State.unit_past]
  exact ⟨hregion, hwcb⟩

theorem State.retries_past (s : State) (u : Nat) : ((s.past u).unit u).retries = (s.unit u).retries := by
  rw [State.unit_past]
  rfl

/-- A load stores nothing, and changes its unit by its target and IA alone. -/
theorem load_frame {c : Instr} {s s2 t : State} {x : LoadRow} {b : List Byte} {ps : List Piece} (hrow : loadRow s c = some x)
    (henter : s.enter x.insn = .ok s2) (hregion : (s2.unit x.o.u).region = none) (hwcb : (s2.unit x.o.u).wcb = [])
    (hretries : (s2.unit x.o.u).retries = 0)
    (htrans : (s2.past x.o.u).translate x.o.u (s2.g x.o.u x.o.rb + x.o.imm.signExtend 64) x.n .load = .ok ps)
    (hts : ∀ p ∈ ps, p.target ≠ .service)
    (hload : (s2.past x.o.u).loadAt x.o.u (s2.g x.o.u x.o.rb + x.o.imm.signExtend 64) x.n .load = .ok (t, b)) :
    ∃ w, exec c s = .next w ∧ w.mem = s2.mem ∧ w.ws = s2.ws ∧ (w.unit x.o.u).kept = ((x.put (s2.past x.o.u) b).unit x.o.u).kept := by
  obtain ⟨hpastregion, hpastwcb⟩ := State.past_ready hregion hwcb
  obtain ⟨ht, hb⟩ := State.loadAt_reads hpastregion htrans hts hload
  have hlen : b.length = x.n := by rw [hb, State.readPieces_len, State.translate_len htrans]
  have hreach : (s2.past x.o.u).Reaches t x.o.u fun _ => False := ht ▸ (State.Reaches.refl hpastwcb).readPieces hpastregion ps false
  obtain ⟨l, hput⟩ := loadRow_puts hrow b
  have hbytes := State.puts_sameBytes x.o.u l t
  have hdone := loadResults c x s s2 t b hrow henter hload hlen
  have hret : ((x.put t b).unit x.o.u).retries = 0 := by
    rw [hput, State.retries_puts]
    exact (Cpu.retries_of_kept hreach.kept).trans ((State.retries_past _ _).trans hretries)
  rw [State.finish_of_calm hregion hret, hput] at hdone
  refine ⟨_, hdone, hbytes.mem.trans hreach.mem_eq, hbytes.ws.trans hreach.ws, ?_⟩
  rw [hput]
  exact State.kept_puts l hreach.kept

/-- Settles O24: each changes its own unit as its row says; a load reads, and puts what it has read. -/
theorem registerFrame : Obligations.RegisterFrame := by
  unfold Obligations.RegisterFrame
  refine ⟨fun c x s s2 hrow henter hregion hretries => ?_, fun c x s s2 hrow henter hregion hretries => ?_,
    fun c x s s2 hrow henter hregion hretries => move_frame hrow henter hregion hretries,
    fun c x s s2 v cond hrow henter hregion hretries hout hen => fp_frame hrow henter hregion hretries hout hen,
    fun c x s s2 t b ps hrow henter hregion hwcb hretries htrans hts hload => load_frame hrow henter hregion hwcb hretries htrans hts hload⟩
  · obtain ⟨t, a, hexec, hlocal⟩ := branch_frame hrow henter hregion hretries
    exact ⟨t, hexec, hlocal.outside, fun r => ⟨hlocal.g r, hlocal.f r⟩, fun n => hlocal.readC rfl rfl, hlocal.rs, by rw [hlocal.psw]; rfl⟩
  · obtain ⟨t, hexec, hlocal⟩ := compare_frame hrow henter hregion hretries
    exact ⟨t, hexec, hlocal.outside, fun r => ⟨hlocal.g r, hlocal.f r⟩, fun n => hlocal.readC rfl rfl, hlocal.rs, by rw [hlocal.psw]; rfl⟩

/-! ## Stores and atomics -/

/-- The bytes of some piece. -/
def inPieces (ps : List Piece) (a : Nat) : Prop := ∃ p ∈ ps, p.pa ≤ a ∧ a < p.pa + p.len

theorem not_inPieces {ps : List Piece} {a : Nat} (h : ∀ p ∈ ps, a < p.pa ∨ p.pa + p.len ≤ a) : ¬inPieces ps a := by
  rintro ⟨p, hp, hlo, hhi⟩
  have := h p hp
  omega

section
variable {c : Instr} {s s2 : State} {ps : List Piece}

/-- What a store to storage, and one to working store, leaves. -/
theorem store_frame {x : StoreRow} (hrow : storeRow s c = some x) (henter : s.enter x.insn = .ok s2)
    (hregion : (s2.unit x.o.u).region = none) (hwcb : (s2.unit x.o.u).wcb = []) (hretries : (s2.unit x.o.u).retries = 0)
    (htrans : (s2.past x.o.u).translate x.o.u (s2.g x.o.u x.o.rb + x.o.imm.signExtend 64) (x.data s2).length .store = .ok ps)
    (hpoison : ps.findSome? ((s2.past x.o.u).walkPoison x.o.u) = none) :
    ((∀ p ∈ ps, p.target = .dram) → ∃ t, exec c s = .next t ∧ (s2.past x.o.u).Reaches t x.o.u (inPieces ps)) ∧
    ((∀ p ∈ ps, p.target = .ws) → exec c s = .next ((s2.past x.o.u).writePieces x.o.u ps (x.data s2))) := by
  obtain ⟨hpastregion, hpastwcb⟩ := State.past_ready hregion hwcb
  have hdone (hts : ∀ p ∈ ps, p.target ≠ .service) (hret : (((s2.past x.o.u).writePieces x.o.u ps (x.data s2)).unit x.o.u).retries = 0) :
      exec c s = .next ((s2.past x.o.u).writePieces x.o.u ps (x.data s2)) := by
    rw [storeResults c x s s2 _ hrow henter (State.storeAt_writes hpastregion htrans hts hpoison), State.finish_of_calm hregion hret]
  refine ⟨fun hdram => ?_, fun hws => ?_⟩
  · have hreach := (State.Reaches.refl (M := inPieces ps) hpastwcb).writePieces hpastregion hdram
      (fun p hp a hlo hhi => ⟨p, hp, hlo, hhi⟩) (x.data s2)
    exact ⟨_, hdone (fun p hp => by simp [hdram p hp])
      ((Cpu.retries_of_kept hreach.kept).trans ((State.retries_past _ _).trans hretries)), hreach⟩
  · obtain ⟨-, hunit, -⟩ := (s2.past x.o.u).writePieces_ws x.o.u hws (x.data s2)
    exact hdone (fun p hp => by simp [hws p hp]) (by rw [hunit, State.retries_past]; exact hretries)

/-- What an atomic in storage, and one in working store, has done before its registers are written. -/
theorem State.atomicAt_frame {t : State} {u n : Nat} {va : Dword} {f : List Byte → Option (List Byte)} {old : List Byte}
    (hregion : (s.unit u).region = none) (hwcb : (s.unit u).wcb = []) (htrans : s.translate u va n .atomic = .ok ps)
    (h : s.atomicAt u va n f = .ok (t, old)) :
    ((∀ p ∈ ps, p.target = .dram) → s.Reaches t u (inPieces ps)) ∧
    ((∀ p ∈ ps, p.target = .ws) → t.mem = s.mem ∧ (t.unit u).kept = (s.unit u).kept ∧
      ∀ a, (∀ p ∈ ps, a < p.pa ∨ p.pa + p.len ≤ a) → Memory.read t.ws a = Memory.read s.ws a) := by
  obtain ⟨r, hr, ht⟩ := State.atomicAt_performs hregion htrans h
  have hready (M : Nat → Prop) : s.Reaches r u M := hr ▸
    (((State.Reaches.refl hwcb).wcFlush).readPieces hregion _ false).foldl fun _ p _ hp => hp.atomicLine p
  refine ⟨fun hdram => ?_, fun hws => ?_⟩
  · rcases ht with ⟨new, rfl⟩ | ⟨l, rfl⟩
    · refine (hready _).writePieces hregion (fun q hq => ?_) (fun q hq a hlo hhi => ?_) new
      · obtain ⟨p, hp, rfl⟩ := List.mem_map.mp hq
        exact (s.atomicPiece_place u p).1.trans (hdram p hp)
      · obtain ⟨p, hp, rfl⟩ := List.mem_map.mp hq
        obtain ⟨-, hpa, hlen⟩ := s.atomicPiece_place u p
        exact ⟨p, hp, hpa ▸ hlo, by rw [← hpa, ← hlen]; exact hhi⟩
    · exact (hready _).noteWrites hregion l
  · have hbase := hready fun _ => False
    rcases ht with ⟨new, rfl⟩ | ⟨l, rfl⟩
    · obtain ⟨hmem, hunit, hread⟩ := r.writePieces_ws u (ps := ps.map (s.atomicPiece u)) (fun q hq => by
        obtain ⟨p, hp, rfl⟩ := List.mem_map.mp hq
        exact (s.atomicPiece_place u p).1.trans (hws p hp)) new
      refine ⟨hmem.trans hbase.mem_eq, by rw [hunit]; exact hbase.kept, fun a ha => ?_⟩
      rw [hread a fun q hq => ?_, hbase.ws]
      obtain ⟨p, hp, rfl⟩ := List.mem_map.mp hq
      obtain ⟨-, hpa, hlen⟩ := s.atomicPiece_place u p
      rw [hpa, hlen]
      exact ha p hp
    · have hnote := hbase.noteWrites hregion l
      exact ⟨hnote.mem_eq, hnote.kept, fun a _ => by rw [hnote.ws]⟩

end

/-- Settles O25: what is stored lies in the pieces, or in buffers of bytes of the pieces; the unit changes by IA and by what it puts. -/
theorem storeFrame : Obligations.StoreFrame := by
  unfold Obligations.StoreFrame
  refine ⟨fun c x s s2 ps hrow henter hregion hwcb hretries htrans hpoison => ?_,
    fun c x s s2 t old ps hrow henter hregion hwcb hretries htrans hatomic hlen => ?_⟩
  · obtain ⟨hdram, hws⟩ := store_frame hrow henter hregion hwcb hretries htrans hpoison
    refine ⟨fun h => ?_, fun h => ?_⟩
    · obtain ⟨t, hexec, hreach⟩ := hdram h
      exact ⟨t, hexec, hreach.ws, fun a ha => hreach.read (not_inPieces ha), hreach.kept⟩
    · obtain ⟨hmem, hunit, hread⟩ := (s2.past x.o.u).writePieces_ws x.o.u h (x.data s2)
      exact ⟨_, hws h, hmem, hread, by rw [hunit]⟩
  · obtain ⟨hpastregion, hpastwcb⟩ := State.past_ready hregion hwcb
    obtain ⟨hdram, hws⟩ := State.atomicAt_frame hpastregion hpastwcb htrans hatomic
    obtain ⟨l, hleaves⟩ := atomicRow_puts hrow s2 old
    have hdone (hkept : (t.unit x.o.u).kept = ((s2.past x.o.u).unit x.o.u).kept) : exec c s = .next (t.puts x.o.u l) := by
      rw [atomicResults c x s s2 t old hrow henter hatomic hlen, hleaves, State.finish_of_calm hregion]
      rw [State.retries_puts]
      exact (Cpu.retries_of_kept hkept).trans ((State.retries_past _ _).trans hretries)
    have hbytes := State.puts_sameBytes x.o.u l t
    rw [hleaves]
    refine ⟨fun h => ?_, fun h => ?_⟩
    · have hreach := hdram h
      exact ⟨_, hdone hreach.kept, hbytes.ws.trans hreach.ws, fun a ha => by rw [hbytes.mem]; exact hreach.read (not_inPieces ha),
        State.kept_puts l hreach.kept⟩
    · obtain ⟨hmem, hkept, hread⟩ := hws h
      exact ⟨_, hdone hkept, hbytes.mem.trans hmem, fun a ha => by rw [hbytes.ws]; exact hread a ha, State.kept_puts l hkept⟩

end Sys2Proof.Machine
end
